-- ==== Sys2Proof/Word.lean ====
section
/-! DEFINITION. The plain word types of the L7 and their plainest arithmetic (05_encoding R74, 00_scope R8). -/

namespace Sys2Proof

/-- A 32-bit register value or instruction word (R74). -/
abbrev Word := BitVec 32

/-- A byte of memory. -/
abbrev Byte := BitVec 8

/-- A 64-bit value: a scalar pair, low word in the even register (R58). -/
abbrev DWord := BitVec 64

/-- A 57-bit virtual address of an instruction word (R74). -/
abbrev Pc := BitVec 57

/-- One bit per lane of a warp, bit i for lane i (R12, R26). -/
abbrev Mask := BitVec 96

/-- The 64-bit value of a register pair (R58). -/
def pair (lo hi : Word) : DWord := hi ++ lo

/-- The low word of a 64-bit value. -/
def loWord (x : DWord) : Word := x.setWidth 32

/-- The high word of a 64-bit value. -/
def hiWord (x : DWord) : Word := (x >>> 32).setWidth 32

end Sys2Proof
end

