-- ==== Sys2Proof/Syntax.lean ====
section
/-! DEFINITION. The steps of the L7: one constructor per row of spec/opcode_table.json.
A row with an encoding is an instruction word, its operands the encoded fields of the table.
A row without one is an event of the machine or of the world outside it; its operands name the object
the event happens to and whatever the manual leaves to the party that causes it. -/

namespace Sys2Proof

/-- Where a placed skein goes (R276, R277): the quad within the package, the CORES distinct cores of the quad that
the skein spans, and for each workgroup its core and the quarter of each of its warps.  The manual leaves the choice to the scheduler (R13, R277). -/
structure Placement where
  quad : Nat
  span : List Nat
  cores : List Nat
  quarters : List (List Nat)
  deriving DecidableEq, Repr

/-- Who asks a module queue (R331, R332): a stalled `mq.put` or `mq.get` of this package, or another head. -/
inductive MqSource where
  | own (n : Nat)
  | otherPut (module off : Nat) (record : List (BitVec 8))
  | otherGet (module off : Nat)
  deriving DecidableEq, Repr

/-- A contribution to a module reduction (R333, R334): from a command of this package, or from another head. -/
inductive MredSource where
  | own (cmd : Nat)
  | other (module off : Nat) (epoch : BitVec 32) (head : Nat) (op : Nat) (count : Nat) (expect : Nat) (data : List Word)
  deriving DecidableEq, Repr

/-- An access another package forwards to this package's relay engine (R327). -/
inductive RelayAccess where
  | read (module off bytes : Nat)
  | write (module off : Nat) (data : List (BitVec 8))
  | atomic (module off : Nat) (op : Nat) (type : Nat) (v v2 : BitVec 64)
  deriving DecidableEq, Repr

/-- The operation of a Reltex packet (R337). -/
inductive ReltexOp where
  | put | signal | getRequest | getResponse | acknowledgement
  deriving DecidableEq, Repr

/-- A Reltex packet (R337): its UDP ports, the source one carrying the path entropy, whether it comes with the ECN mark
Congestion Experienced (R340), and its header fields. -/
structure Packet where
  dport : Nat
  sport : BitVec 16
  dep : Nat
  sep : Nat
  conn : Nat
  tenant : Nat
  psn : Nat
  msn : Nat
  op : ReltexOp
  win : Nat
  roff : Nat
  mlen : Nat
  poff : Nat
  payload : List (BitVec 8)
  ce : Bool := false
  deriving DecidableEq, Repr

/-- What comes back to a sender (R338 to R340): a packet that acknowledges or refuses the PSN in its header, with or without an
ECN echo.  The manual gives no place in the header to a refusal or an echo. -/
structure ReltexAck where
  pkt : Packet
  refused : Bool
  ecn : Bool
  deriving DecidableEq, Repr

/-- A unit that firmware fences (R354). -/
inductive FencedUnit where
  | core (n : Nat)
  | l2Slice (n : Nat)
  | hbmChannel (n : Nat)
  | causewayLink (n : Nat)
  | modulePort (n : Nat)
  | ethernetPort (n : Nat)
  deriving DecidableEq, Repr

/-- The Evonto image that is offered, by a number of its own, and the outcome of the checks of R357 on it: the two signatures
and the image's security version. -/
structure ImageCheck where
  image : Nat := 0
  ecdsa : Bool
  lms : Bool
  version : Nat
  deriving DecidableEq, Repr

/-- An address-space context (R285). -/
structure AddressContext where
  root : Nat
  pasid : BitVec 20
  tenant : Nat
  host : Bool
  deriving DecidableEq, Repr

/-- A receive window of a Reltex connection (R336). -/
structure Window where
  base : BitVec 64
  length : Nat
  writable : Bool
  tenant : Nat
  deriving DecidableEq, Repr

/-- What firmware binds a Reltex connection to (R336, R339, R340). -/
structure ConnBinding where
  asid : Nat
  remoteEndpoint : Nat
  remoteConn : Nat
  tenant : Nat
  windows : List (Nat × Window)
  timeoutNs : Nat
  retries : Nat
  entropy : BitVec 16
  stride : BitVec 16
  deriving DecidableEq, Repr

/-- What firmware writes into the header of a launch queue (R268). -/
structure QueueBinding where
  header : Nat
  base : BitVec 64
  entries : Nat
  level : Nat
  hostFed : Bool
  asid : Nat
  deriving DecidableEq, Repr

/-- The steps of the machine: every row of spec/opcode_table.json. -/
inductive Instr where
  /-- SADD: Scalar add modulo 2^32. (R110) -/
  | sadd (d : BitVec 7) (a : BitVec 7) (b : BitVec 7)
  /-- SSUB: Scalar subtract modulo 2^32. (R110) -/
  | ssub (d : BitVec 7) (a : BitVec 7) (b : BitVec 7)
  /-- SMUL: Low 32 bits of a scalar product. (R110) -/
  | smul (d : BitVec 7) (a : BitVec 7) (b : BitVec 7)
  /-- SMULH: High 32 bits of the signed 64-bit scalar product. (R110) -/
  | smulh (d : BitVec 7) (a : BitVec 7) (b : BitVec 7)
  /-- SMULHN: High 32 bits of the natural 64-bit scalar product. (R110) -/
  | smulhn (d : BitVec 7) (a : BitVec 7) (b : BitVec 7)
  /-- SAND: Scalar bitwise and. (R110) -/
  | sand (d : BitVec 7) (a : BitVec 7) (b : BitVec 7)
  /-- SOR: Scalar bitwise or. (R110) -/
  | sor (d : BitVec 7) (a : BitVec 7) (b : BitVec 7)
  /-- SXOR: Scalar bitwise exclusive or. (R110) -/
  | sxor (d : BitVec 7) (a : BitVec 7) (b : BitVec 7)
  /-- SSHL: Scalar shift left by a register amount; 0 when the amount is 32 or more. (R110) -/
  | sshl (d : BitVec 7) (a : BitVec 7) (b : BitVec 7)
  /-- SSHR: Scalar logical shift right by a register amount. (R110) -/
  | sshr (d : BitVec 7) (a : BitVec 7) (b : BitVec 7)
  /-- SSRA: Scalar arithmetic shift right by a register amount. (R110) -/
  | ssra (d : BitVec 7) (a : BitVec 7) (b : BitVec 7)
  /-- SMIN: Scalar signed minimum. (R110) -/
  | smin (d : BitVec 7) (a : BitVec 7) (b : BitVec 7)
  /-- SMAX: Scalar signed maximum. (R110) -/
  | smax (d : BitVec 7) (a : BitVec 7) (b : BitVec 7)
  /-- SMINN: Scalar natural minimum. (R110) -/
  | sminn (d : BitVec 7) (a : BitVec 7) (b : BitVec 7)
  /-- SMAXN: Scalar natural maximum. (R110) -/
  | smaxn (d : BitVec 7) (a : BitVec 7) (b : BitVec 7)
  /-- SCLZ: Counts the leading zeros of a scalar. (R110) -/
  | sclz (d : BitVec 7) (a : BitVec 7)
  /-- SPOPC: Counts the set bits of a scalar. (R110) -/
  | spopc (d : BitVec 7) (a : BitVec 7)
  /-- SBFE: Scalar bit-field extract, signed when x[0] is set. (R111) -/
  | sbfe (d : BitVec 7) (a : BitVec 7) (b : BitVec 7) (s : BitVec 1)
  /-- SBFI: Scalar bit-field insert. (R111) -/
  | sbfi (d : BitVec 7) (a : BitVec 7) (b : BitVec 7)
  /-- SADDI: Scalar add of a sign-extended 10-bit immediate. (R110) -/
  | saddi (d : BitVec 7) (a : BitVec 7) (i : BitVec 10)
  /-- SANDI: Scalar and with a sign-extended immediate. (R110) -/
  | sandi (d : BitVec 7) (a : BitVec 7) (i : BitVec 10)
  /-- SORI: Scalar or with a sign-extended immediate. (R110) -/
  | sori (d : BitVec 7) (a : BitVec 7) (i : BitVec 10)
  /-- SXORI: Scalar xor with a sign-extended immediate. (R110) -/
  | sxori (d : BitVec 7) (a : BitVec 7) (i : BitVec 10)
  /-- SSHLI: Scalar shift left by an immediate amount. (R110) -/
  | sshli (d : BitVec 7) (a : BitVec 7) (i : BitVec 5)
  /-- SSHRI: Scalar logical shift right by an immediate amount. (R110) -/
  | sshri (d : BitVec 7) (a : BitVec 7) (i : BitVec 5)
  /-- SMOVI: Writes a sign-extended 16-bit immediate to a scalar. (R112) -/
  | smovi (d : BitVec 7) (i : BitVec 16)
  /-- SMOVI_HI: Writes a 16-bit immediate into the high half of a scalar and keeps the low half. (R112) -/
  | smoviHi (d : BitVec 7) (i : BitVec 16)
  /-- SADD64: Adds two scalar pairs modulo 2^64. (R110) -/
  | sadd64 (d : BitVec 7) (a : BitVec 7) (b : BitVec 7)
  /-- SSUB64: Subtracts two scalar pairs modulo 2^64. (R110) -/
  | ssub64 (d : BitVec 7) (a : BitVec 7) (b : BitVec 7)
  /-- SSHF64: Shifts a scalar pair left, logically right or arithmetically right as x selects. (R113) -/
  | sshf64 (d : BitVec 7) (a : BitVec 7) (b : BitVec 7) (x : BitVec 3)
  /-- SCMP: Writes 1 or 0 to a scalar by the condition in x. (R114) -/
  | scmp (d : BitVec 7) (a : BitVec 7) (b : BitVec 7) (c : BitVec 3)
  /-- SSEL: Selects a or b by whether the destination scalar is nonzero. (R110) -/
  | ssel (d : BitVec 7) (a : BitVec 7) (b : BitVec 7)
  /-- VADD: Per-element vector add under the mode register's type. (R116) -/
  | vadd (d : BitVec 7) (a : BitVec 7) (b : BitVec 7) (x : BitVec 3)
  /-- VSUB: Per-element vector subtract. (R116) -/
  | vsub (d : BitVec 7) (a : BitVec 7) (b : BitVec 7) (x : BitVec 3)
  /-- VMUL: Per-element vector multiply. (R116) -/
  | vmul (d : BitVec 7) (a : BitVec 7) (b : BitVec 7) (x : BitVec 3)
  /-- VMULH: High half of an integer per-element product. (R117) -/
  | vmulh (d : BitVec 7) (a : BitVec 7) (b : BitVec 7)
  /-- VFMA: Fused multiply-add per element, rounded once. (R116) -/
  | vfma (d : BitVec 7) (a : BitVec 7) (b : BitVec 7) (x : BitVec 3)
  /-- VMIN: Per-element minimum, with NaN treated as missing. (R118) -/
  | vmin (d : BitVec 7) (a : BitVec 7) (b : BitVec 7)
  /-- VMAX: Per-element maximum, with NaN treated as missing. (R118) -/
  | vmax (d : BitVec 7) (a : BitVec 7) (b : BitVec 7)
  /-- VMINP: Per-element minimum that propagates NaN. (R118) -/
  | vminp (d : BitVec 7) (a : BitVec 7) (b : BitVec 7)
  /-- VMAXP: Per-element maximum that propagates NaN. (R118) -/
  | vmaxp (d : BitVec 7) (a : BitVec 7) (b : BitVec 7)
  /-- VABS: Per-element absolute value. (R118) -/
  | vabs (d : BitVec 7) (a : BitVec 7)
  /-- VNEG: Per-element negation. (R118) -/
  | vneg (d : BitVec 7) (a : BitVec 7)
  /-- VAND: Bitwise and of 32-bit vector registers. (R120) -/
  | vand (d : BitVec 7) (a : BitVec 7) (b : BitVec 7)
  /-- VOR: Bitwise or of 32-bit vector registers. (R120) -/
  | vor (d : BitVec 7) (a : BitVec 7) (b : BitVec 7)
  /-- VXOR: Bitwise xor of 32-bit vector registers. (R120) -/
  | vxor (d : BitVec 7) (a : BitVec 7) (b : BitVec 7)
  /-- VNOT: Bitwise complement of a vector register. (R120) -/
  | vnot (d : BitVec 7) (a : BitVec 7)
  /-- VSHL: Per-element shift left. (R119) -/
  | vshl (d : BitVec 7) (a : BitVec 7) (b : BitVec 7)
  /-- VSHR: Per-element logical shift right. (R119) -/
  | vshr (d : BitVec 7) (a : BitVec 7) (b : BitVec 7)
  /-- VSRA: Per-element arithmetic shift right. (R119) -/
  | vsra (d : BitVec 7) (a : BitVec 7) (b : BitVec 7)
  /-- VCLZ: Per-element count of leading zeros. (R119) -/
  | vclz (d : BitVec 7) (a : BitVec 7)
  /-- VPOPC: Per-element count of set bits. (R119) -/
  | vpopc (d : BitVec 7) (a : BitVec 7)
  /-- VBFE: Per-lane bit-field extract. (R120) -/
  | vbfe (d : BitVec 7) (a : BitVec 7) (b : BitVec 7) (s : BitVec 1)
  /-- VBFI: Per-lane bit-field insert. (R120) -/
  | vbfi (d : BitVec 7) (a : BitVec 7) (b : BitVec 7)
  /-- VDOT4: Four-way byte dot product accumulated into a 32-bit value. (R122) -/
  | vdot4 (d : BitVec 7) (a : BitVec 7) (b : BitVec 7) (s : BitVec 2)
  /-- VSCALE: Multiplies each element by 2^n and rounds once. (R123) -/
  | vscale (d : BitVec 7) (a : BitVec 7) (b : BitVec 7) (x : BitVec 3)
  /-- VFRAC: Per-element fractional part. (R123) -/
  | vfrac (d : BitVec 7) (a : BitVec 7)
  /-- VRND: Rounds each element to an integral value. (R123) -/
  | vrnd (d : BitVec 7) (a : BitVec 7) (x : BitVec 3)
  /-- VCLASS: Writes the class mask of each element. (R124) -/
  | vclass (d : BitVec 7) (a : BitVec 7)
  /-- VADDI: Integer add of a sign-extended immediate. (R121) -/
  | vaddi (d : BitVec 7) (a : BitVec 7) (i : BitVec 10)
  /-- VMULI: Integer multiply by a sign-extended immediate. (R121) -/
  | vmuli (d : BitVec 7) (a : BitVec 7) (i : BitVec 10)
  /-- VANDI: Bitwise and with an immediate word. (R121) -/
  | vandi (d : BitVec 7) (a : BitVec 7) (i : BitVec 10)
  /-- VORI: Bitwise or with an immediate word. (R121) -/
  | vori (d : BitVec 7) (a : BitVec 7) (i : BitVec 10)
  /-- VXORI: Bitwise xor with an immediate word. (R121) -/
  | vxori (d : BitVec 7) (a : BitVec 7) (i : BitVec 10)
  /-- VSHLI: Per-element shift left by an immediate amount. (R121) -/
  | vshli (d : BitVec 7) (a : BitVec 7) (i : BitVec 7)
  /-- VSHRI: Per-element logical shift right by an immediate amount. (R121) -/
  | vshri (d : BitVec 7) (a : BitVec 7) (i : BitVec 7)
  /-- VSRAI: Per-element arithmetic shift right by an immediate amount. (R121) -/
  | vsrai (d : BitVec 7) (a : BitVec 7) (i : BitVec 7)
  /-- VMINI: Integer minimum with an immediate. (R121) -/
  | vmini (d : BitVec 7) (a : BitVec 7) (i : BitVec 10)
  /-- VMAXI: Integer maximum with an immediate. (R121) -/
  | vmaxi (d : BitVec 7) (a : BitVec 7) (i : BitVec 10)
  /-- VRCP: Correctly rounded reciprocal. (R126) -/
  | vrcp (d : BitVec 7) (a : BitVec 7)
  /-- VRSQ: Correctly rounded reciprocal square root. (R126) -/
  | vrsq (d : BitVec 7) (a : BitVec 7)
  /-- VSQRT: Correctly rounded square root. (R126) -/
  | vsqrt (d : BitVec 7) (a : BitVec 7)
  /-- VEXP2: Correctly rounded power of two. (R126) -/
  | vexp2 (d : BitVec 7) (a : BitVec 7)
  /-- VLOG2: Correctly rounded base-2 logarithm. (R126) -/
  | vlog2 (d : BitVec 7) (a : BitVec 7)
  /-- VSIN: Correctly rounded sine. (R126) -/
  | vsin (d : BitVec 7) (a : BitVec 7)
  /-- VCOS: Correctly rounded cosine. (R126) -/
  | vcos (d : BitVec 7) (a : BitVec 7)
  /-- VTANH: Correctly rounded hyperbolic tangent. (R126) -/
  | vtanh (d : BitVec 7) (a : BitVec 7)
  /-- VSIGM: Correctly rounded logistic sigmoid. (R126) -/
  | vsigm (d : BitVec 7) (a : BitVec 7)
  /-- VERF: Correctly rounded error function. (R126) -/
  | verf (d : BitVec 7) (a : BitVec 7)
  /-- VCVT: Converts a group of elements from the source type to the destination type TYPE. (R128) -/
  | vcvt (d : BitVec 7) (a : BitVec 7) (t : BitVec 4) (r : BitVec 3)
  /-- VPACK: Packs a register group into E2M1, I4 or T2 elements. (R130) -/
  | vpack (d : BitVec 7) (a : BitVec 7) (x : BitVec 3)
  /-- VUNPK: Unpacks E2M1, I4 or T2 elements into a register group. (R130) -/
  | vunpk (d : BitVec 7) (a : BitVec 7) (x : BitVec 3)
  /-- VQBLK: Computes the E8M0 block scale of each block of lanes for a target format. (R131) -/
  | vqblk (d : BitVec 7) (a : BitVec 7) (b : BitVec 2) (x : BitVec 3)
  /-- VCMP: Sets a predicate bit per lane from a comparison of two vectors. (R132) -/
  | vcmp (d : BitVec 3) (a : BitVec 7) (b : BitVec 7) (c : BitVec 3)
  /-- VCMPI: Sets a predicate bit per lane from a comparison with an immediate. (R133) -/
  | vcmpi (d : BitVec 3) (a : BitVec 7) (i : BitVec 7) (c : BitVec 3)
  /-- PAND: Predicate and, with optional negation of each source. (R134) -/
  | pand (d : BitVec 3) (a : BitVec 3) (b : BitVec 3) (m : BitVec 1) (n : BitVec 1)
  /-- POR: Predicate or. (R134) -/
  | por (d : BitVec 3) (a : BitVec 3) (b : BitVec 3) (m : BitVec 1) (n : BitVec 1)
  /-- PXOR: Predicate xor. (R134) -/
  | pxor (d : BitVec 3) (a : BitVec 3) (b : BitVec 3) (m : BitVec 1) (n : BitVec 1)
  /-- PMOV: Copies a predicate, optionally negated. (R134) -/
  | pmov (d : BitVec 3) (a : BitVec 3) (n : BitVec 1)
  /-- PMOV_V2P: Sets a predicate from whether a vector register is nonzero. (R134) -/
  | pmovV2p (d : BitVec 3) (a : BitVec 7) (n : BitVec 1)
  /-- PMOV_P2V: Writes 1 or 0 to a vector register from a predicate. (R134) -/
  | pmovP2v (d : BitVec 7) (a : BitVec 3) (n : BitVec 1)
  /-- VSEL: Selects a or b per lane by a predicate. (R135) -/
  | vsel (d : BitVec 7) (a : BitVec 7) (b : BitVec 7) (p : BitVec 3)
  /-- VMOV: Copies a vector register or pair per active lane. (R136) -/
  | vmov (d : BitVec 7) (a : BitVec 7) (w : BitVec 1)
  /-- VMOVI: Writes a sign-extended 17-bit immediate per active lane. (R136) -/
  | vmovi (d : BitVec 7) (i : BitVec 17)
  /-- VMOVH: Writes a 16-bit immediate into the high half of a vector register. (R136) -/
  | vmovh (d : BitVec 7) (i : BitVec 16)
  /-- VBCS: Broadcasts a scalar of the split's bank into a vector register. (R136) -/
  | vbcs (d : BitVec 7) (a : BitVec 7) (w : BitVec 1)
  /-- VGET: Reads one lane's vector register into a scalar. (R137) -/
  | vget (d : BitVec 7) (a : BitVec 7) (b : BitVec 7)
  /-- VPUT: Writes a scalar into one lane's vector register. (R137) -/
  | vput (d : BitVec 7) (a : BitVec 7) (b : BitVec 7)
  /-- VLID: Writes the lane index in the warp or the workgroup. (R136) -/
  | vlid (d : BitVec 7) (w : BitVec 1)
  /-- VBND: Checks each active lane's f32 value against a selvedge register. (R264) -/
  | vbnd (d : BitVec 7) (a : BitVec 7) (n : BitVec 4)
  /-- VSHFL: Shuffles from the lane named by each lane's register. (R138) -/
  | vshfl (d : BitVec 7) (a : BitVec 7) (b : BitVec 7) (w : BitVec 1)
  /-- VSHFU: Shuffles from lane i − n. (R138) -/
  | vshfu (d : BitVec 7) (a : BitVec 7) (b : BitVec 7) (w : BitVec 1) (u : BitVec 1)
  /-- VSHFD: Shuffles from lane i + n. (R138) -/
  | vshfd (d : BitVec 7) (a : BitVec 7) (b : BitVec 7) (w : BitVec 1) (u : BitVec 1)
  /-- VSHFX: Shuffles from lane i xor n. (R138) -/
  | vshfx (d : BitVec 7) (a : BitVec 7) (b : BitVec 7) (w : BitVec 1) (u : BitVec 1)
  /-- VOTE: Votes over a predicate of the active lanes into the scalar bank. (R139) -/
  | vote (d : BitVec 7) (n : BitVec 1) (a : BitVec 3) (x : BitVec 3)
  /-- VRED: Reduces a register over the active lanes by the fixed tree. (R140) -/
  | vred (d : BitVec 7) (a : BitVec 7) (x : BitVec 3)
  /-- VSCAN: Computes an inclusive or exclusive scan over the active lanes. (R141) -/
  | vscan (d : BitVec 7) (a : BitVec 7) (e : BitVec 1) (x : BitVec 3)
  /-- VMATCH: Writes the 96-bit mask of lanes holding an equal value. (R142) -/
  | vmatch (d : BitVec 7) (a : BitVec 7) (w : BitVec 1)
  /-- WIDTH: Writes the active, occupied, beat and launched counts of the split. (R143) -/
  | width (d : BitVec 7)
  /-- BR: Uniform branch to a word offset. (R144) -/
  | br (o : BitVec 24)
  /-- BRA: Divergent branch on a predicate. (R145) -/
  | bra (k : BitVec 3) (n : BitVec 1) (o : BitVec 20)
  /-- BRC: Uniform branch on a condition of a scalar. (R146) -/
  | brc (c : BitVec 3) (s : BitVec 6) (o : BitVec 15)
  /-- BRX: Divergent indirect branch to per-lane targets. (R147) -/
  | brx (a : BitVec 7) (b : BitVec 7)
  /-- BRX_U: Uniform indirect branch to a scalar-pair address. (R144) -/
  | brxU (a : BitVec 7)
  /-- CALL: Writes the return address to s58 and s59 and branches. (R144) -/
  | call (o : BitVec 24)
  /-- RET: Uniform branch to the address in a scalar pair. (R144) -/
  | ret (a : BitVec 7)
  /-- JARM: Arms a join register with the activity mask. (R153) -/
  | jarm (j : BitVec 2)
  /-- JARV: Adds the activity mask to a join's arrived mask and continues. (R153) -/
  | jarv (j : BitVec 2)
  /-- JWAIT: Arrives at a join and parks the split on it. (R153) -/
  | jwait (j : BitVec 2)
  /-- JCLR: Clears a join and releases its parked splits without re-ganging. (R155) -/
  | jclr (j : BitVec 2)
  /-- TRAP: Takes a USER trap with a code. (R174) -/
  | trap (n : BitVec 6)
  /-- MODE: Writes the mode-register fields selected by a mask. (R90) -/
  | mode (d : BitVec 5) (i : BitVec 14)
  /-- BAR_INIT: Initialises a barrier object with an expected count. (R160) -/
  | barInit (a : BitVec 6) (b : BitVec 6)
  /-- BAR_ARV: Releases and arrives on a barrier object, returning a token. (R160) -/
  | barArv (a : BitVec 6) (b : BitVec 6) (c : BitVec 6)
  /-- BAR_WAIT: Stalls until the barrier phase differs from the token, then acquires. (R160) -/
  | barWait (a : BitVec 6) (b : BitVec 6) (c : BitVec 6)
  /-- FORK: Starts an engine program for the workgroup on the epilogue engine. (R163) -/
  | fork (a : BitVec 6) (b : BitVec 6)
  /-- RDV: Collects the workgroup's latest engine program once it has ended. (R164) -/
  | rdv (a : BitVec 6)
  /-- RCALL: Ships a far call with a new sequence number. (R165) -/
  | rcall (n : BitVec 5) (a : BitVec 6) (b : BitVec 6) (c : BitVec 6)
  /-- RCALL_RETRY: Reships a far call with the sequence taken from the tag register. (R165) -/
  | rcallRetry (n : BitVec 5) (a : BitVec 6) (b : BitVec 6) (c : BitVec 6)
  /-- RRET: Ends a far task and sends its reply. (R168) -/
  | rret (n : BitVec 4)
  /-- RWAIT: Long-latency wait for a far call's reply, timeout or absence. (R169) -/
  | rwait (d : BitVec 7) (a : BitVec 7) (l : BitVec 4)
  /-- LAUNCH: Enqueues a launch record on a device-fed queue and returns a status. (R269) -/
  | launch (a : BitVec 6) (b : BitVec 6) (c : BitVec 6)
  /-- BRK: Takes a BREAK trap, or stops the skein for an attached debugger. (R174) -/
  | brk (n : BitVec 6)
  /-- SBND: Writes bounds and action of a selvedge register and zeroes its count. (R263) -/
  | sbnd (t : BitVec 2) (n : BitVec 4) (a : BitVec 6) (b : BitVec 6)
  /-- LD_N8: Global load of a zero-extended byte. (R191) -/
  | ldN8 (d : BitVec 7) (a : BitVec 7) (s : BitVec 6) (l : BitVec 4)
  /-- LD_I8: Global load of a sign-extended byte. (R191) -/
  | ldI8 (d : BitVec 7) (a : BitVec 7) (s : BitVec 6) (l : BitVec 4)
  /-- LD_N16: Global load of a zero-extended half. (R191) -/
  | ldN16 (d : BitVec 7) (a : BitVec 7) (s : BitVec 6) (l : BitVec 4)
  /-- LD_I16: Global load of a sign-extended half. (R191) -/
  | ldI16 (d : BitVec 7) (a : BitVec 7) (s : BitVec 6) (l : BitVec 4)
  /-- LD_32: Global load of 4 bytes. (R191) -/
  | ld32 (d : BitVec 7) (a : BitVec 7) (s : BitVec 6) (l : BitVec 4)
  /-- LD_64: Global load of 8 bytes into a pair. (R191) -/
  | ld64 (d : BitVec 7) (a : BitVec 7) (s : BitVec 6) (l : BitVec 4)
  /-- LD_128: Global load of 16 bytes into a group of four. (R191) -/
  | ld128 (d : BitVec 7) (a : BitVec 7) (s : BitVec 6) (l : BitVec 4)
  /-- ST: Global store of the coded size from each active lane. (R192) -/
  | st (d : BitVec 7) (a : BitVec 7) (s : BitVec 6) (z : BitVec 3)
  /-- LDL_32: Scratchpad load of 4 bytes. (R193) -/
  | ldl32 (d : BitVec 7) (a : BitVec 7) (s : BitVec 6) (l : BitVec 4)
  /-- LDL_128: Scratchpad load of 16 bytes. (R193) -/
  | ldl128 (d : BitVec 7) (a : BitVec 7) (s : BitVec 6) (l : BitVec 4)
  /-- STL: Scratchpad store of the coded size. (R193) -/
  | stl (d : BitVec 7) (a : BitVec 7) (s : BitVec 6) (z : BitVec 3)
  /-- LDL_Q: Pops from a weft queue slot, optionally freeing it. (R195) -/
  | ldlQ (d : BitVec 7) (a : BitVec 7) (f : BitVec 1) (w : BitVec 1) (q : BitVec 3) (l : BitVec 4)
  /-- STL_Q: Pushes into a weft queue slot, optionally committing it. (R195) -/
  | stlQ (d : BitVec 7) (a : BitVec 7) (c : BitVec 1) (w : BitVec 1) (q : BitVec 3)
  /-- LDC: Loads a word or pair from the kernel's data segment into scalars. (R194) -/
  | ldc (d : BitVec 7) (p : BitVec 1) (w : BitVec 12) (l : BitVec 4)
  /-- SLD: Scalar load from a pair plus a scalar offset. (R194) -/
  | sld (d : BitVec 7) (p : BitVec 1) (a : BitVec 6) (s : BitVec 6) (l : BitVec 4)
  /-- RED: Return-free atomic operation on global memory. (R198) -/
  | red (d : BitVec 7) (a : BitVec 7) (s : BitVec 6) (o : BitVec 4)
  /-- ATOM_ADD: Returning atomic add. (R197) -/
  | atomAdd (d : BitVec 7) (a : BitVec 7) (s : BitVec 6) (l : BitVec 4)
  /-- ATOM_MIN: Returning atomic signed minimum. (R197) -/
  | atomMin (d : BitVec 7) (a : BitVec 7) (s : BitVec 6) (l : BitVec 4)
  /-- ATOM_MAX: Returning atomic signed maximum. (R197) -/
  | atomMax (d : BitVec 7) (a : BitVec 7) (s : BitVec 6) (l : BitVec 4)
  /-- ATOM_MINN: Returning atomic natural minimum. (R197) -/
  | atomMinn (d : BitVec 7) (a : BitVec 7) (s : BitVec 6) (l : BitVec 4)
  /-- ATOM_MAXN: Returning atomic natural maximum. (R197) -/
  | atomMaxn (d : BitVec 7) (a : BitVec 7) (s : BitVec 6) (l : BitVec 4)
  /-- ATOM_AND: Returning atomic and. (R197) -/
  | atomAnd (d : BitVec 7) (a : BitVec 7) (s : BitVec 6) (l : BitVec 4)
  /-- ATOM_OR: Returning atomic or. (R197) -/
  | atomOr (d : BitVec 7) (a : BitVec 7) (s : BitVec 6) (l : BitVec 4)
  /-- ATOM_XOR: Returning atomic xor. (R197) -/
  | atomXor (d : BitVec 7) (a : BitVec 7) (s : BitVec 6) (l : BitVec 4)
  /-- ATOM_SWAP: Returning atomic swap. (R197) -/
  | atomSwap (d : BitVec 7) (a : BitVec 7) (s : BitVec 6) (l : BitVec 4)
  /-- ATOM_CAS: Returning atomic compare-and-swap. (R197) -/
  | atomCas (d : BitVec 7) (a : BitVec 7) (s : BitVec 6) (l : BitVec 4)
  /-- ATOM_INC: Returning atomic wrapping increment. (R197) -/
  | atomInc (d : BitVec 7) (a : BitVec 7) (s : BitVec 6) (l : BitVec 4)
  /-- ATOM_DEC: Returning atomic wrapping decrement. (R197) -/
  | atomDec (d : BitVec 7) (a : BitVec 7) (s : BitVec 6) (l : BitVec 4)
  /-- ATOM_FADD: Returning atomic floating-point add. (R197) -/
  | atomFadd (d : BitVec 7) (a : BitVec 7) (s : BitVec 6) (l : BitVec 4)
  /-- ATOML: Atomic operation on a scratchpad word. (R199) -/
  | atoml (d : BitVec 7) (a : BitVec 7) (b : BitVec 7)
  /-- CPY: Issues a copy-engine command from a scratchpad descriptor. (R202) -/
  | cpy (k : BitVec 3) (a : BitVec 6) (b : BitVec 6) (c : BitVec 6)
  /-- CPYZ: Issues a zero-filling copy-engine command. (R202) -/
  | cpyz (k : BitVec 3) (a : BitVec 6) (b : BitVec 6) (c : BitVec 6)
  /-- MRD: Reads DONE or ISSUED of a milestone counter. (R207) -/
  | mrd (i : BitVec 1) (k : BitVec 3) (a : BitVec 6)
  /-- MWAIT: Stalls until DONE reaches a value, then acquires at a scope. (R208) -/
  | mwait (o : BitVec 3) (k : BitVec 3) (a : BitVec 6)
  /-- MSTEP: Issues a marker command that releases the warp's writes at a scope. (R209) -/
  | mstep (o : BitVec 3) (k : BitVec 3) (a : BitVec 6)
  /-- FENCE: Orders the split's accesses at a scope. (R210) -/
  | fence (o : BitVec 2) (s : BitVec 3)
  /-- PREF: Prefetches a range into L2 or L1. (R201) -/
  | pref (v : BitVec 1) (a : BitVec 6) (b : BitVec 6)
  /-- CINV: Writes back and invalidates cached lines of a range. (R201) -/
  | cinv (v : BitVec 1) (a : BitVec 6) (b : BitVec 6)
  /-- CWB: Writes back dirty cached lines of a range. (R201) -/
  | cwb (v : BitVec 1) (a : BitVec 6) (b : BitVec 6)
  /-- XAT_ADD: Return-free f32 add performed at the near-memory unit. (R305) -/
  | xatAdd (d : BitVec 7) (a : BitVec 7) (s : BitVec 6)
  /-- XAT_RED: Return-free near-memory reduction operation. (R306) -/
  | xatRed (d : BitVec 7) (a : BitVec 7) (s : BitVec 6) (o : BitVec 4)
  /-- XAT_RMW: Returning near-memory add. (R307) -/
  | xatRmw (d : BitVec 7) (a : BitVec 7) (s : BitVec 6) (l : BitVec 4)
  /-- XAT_EXPR: Issues a stack-program expression command over a stream of elements. (R314) -/
  | xatExpr (k : BitVec 3) (a : BitVec 6) (b : BitVec 6)
  /-- XAT_FILL: Issues a zero-row fill of a range. (R316) -/
  | xatFill (k : BitVec 3) (a : BitVec 6) (b : BitVec 6) (c : BitVec 6)
  /-- XAT_COPY: Issues a row-transfer copy of a range. (R317) -/
  | xatCopy (k : BitVec 3) (a : BitVec 6) (b : BitVec 6) (c : BitVec 6)
  /-- MQ_PUT: Releases at pod scope and puts a 64-byte record into a module queue. (R332) -/
  | mqPut (a : BitVec 6) (b : BitVec 6) (c : BitVec 6)
  /-- MQ_GET: Takes a record from a module queue into scratchpad and acquires. (R332) -/
  | mqGet (a : BitVec 6) (b : BitVec 6) (c : BitVec 6)
  /-- MRED: Contributes to an ordered module reduction round. (R334) -/
  | mred (o : BitVec 3) (k : BitVec 3) (a : BitVec 6) (b : BitVec 6)
  /-- MRELAY: Bulk copy of 64-byte elements over the relay route or the copy engine. (R335) -/
  | mrelay (k : BitVec 3) (a : BitVec 6) (b : BitVec 6) (c : BitVec 6)
  /-- NPUT: Sends a Reltex put message. (R341) -/
  | nput (k : BitVec 3) (a : BitVec 6) (b : BitVec 6)
  /-- NGET: Reads bytes from a remote window into local memory. (R341) -/
  | nget (k : BitVec 3) (a : BitVec 6) (b : BitVec 6)
  /-- NSIG: Adds a value to a remote 8-byte word as one message. (R341) -/
  | nsig (k : BitVec 3) (a : BitVec 6) (b : BitVec 6)
  /-- NWAIT: Stalls until a connection's arrival milestone reaches a value, then acquires at sys. (R342) -/
  | nwait (a : BitVec 6) (b : BitVec 6)
  /-- NWAIT_RD: Reads a connection's arrival milestone. (R342) -/
  | nwaitRd (a : BitVec 6) (b : BitVec 6)
  /-- MMA_I8T2: Matrix product of I8 A and ternary B. (R244) -/
  | mmaI8t2 (d : BitVec 7) (a : BitVec 7) (s : BitVec 6) (l : BitVec 4)
  /-- MMA_E4T2: Matrix product of E4M3 A and ternary B. (R244) -/
  | mmaE4t2 (d : BitVec 7) (a : BitVec 7) (s : BitVec 6) (l : BitVec 4)
  /-- MMA_I8I4: Matrix product of I8 A and I4 B. (R244) -/
  | mmaI8i4 (d : BitVec 7) (a : BitVec 7) (s : BitVec 6) (l : BitVec 4)
  /-- MMA_I8I8: Matrix product of I8 A and I8 B. (R244) -/
  | mmaI8i8 (d : BitVec 7) (a : BitVec 7) (s : BitVec 6) (l : BitVec 4)
  /-- MMA_E4E4: Matrix product of E4M3 A and E4M3 B. (R244) -/
  | mmaE4e4 (d : BitVec 7) (a : BitVec 7) (s : BitVec 6) (l : BitVec 4)
  /-- MMA_E4E5: Matrix product of E4M3 A and E5M2 B. (R244) -/
  | mmaE4e5 (d : BitVec 7) (a : BitVec 7) (s : BitVec 6) (l : BitVec 4)
  /-- MMA_E5E4: Matrix product of E5M2 A and E4M3 B. (R244) -/
  | mmaE5e4 (d : BitVec 7) (a : BitVec 7) (s : BitVec 6) (l : BitVec 4)
  /-- MMA_E5E5: Matrix product of E5M2 A and E5M2 B. (R244) -/
  | mmaE5e5 (d : BitVec 7) (a : BitVec 7) (s : BitVec 6) (l : BitVec 4)
  /-- MMA_E2E2: Matrix product of E2M1 A and E2M1 B. (R244) -/
  | mmaE2e2 (d : BitVec 7) (a : BitVec 7) (s : BitVec 6) (l : BitVec 4)
  /-- MMA_BF16: Matrix product of BF16 A and BF16 B. (R244) -/
  | mmaBf16 (d : BitVec 7) (a : BitVec 7) (s : BitVec 6) (l : BitVec 4)
  /-- MMA_F16: Matrix product of FP16 A and FP16 B. (R244) -/
  | mmaF16 (d : BitVec 7) (a : BitVec 7) (s : BitVec 6) (l : BitVec 4)
  /-- MMA_BFT2: Matrix product of BF16 A and ternary B. (R244) -/
  | mmaBft2 (d : BitVec 7) (a : BitVec 7) (s : BitVec 6) (l : BitVec 4)
  /-- MSA: Adds the scaled partial tile into C in vector registers. (R246) -/
  | msa (d : BitVec 7) (a : BitVec 7) (s : BitVec 6) (l : BitVec 4)
  /-- MZERO: Writes +0 into every element of a tile. (R247) -/
  | mzero (t : BitVec 4)
  /-- MMOV_TO_REGISTERS: Moves a tile into a group of 32 vector registers. (R248) -/
  | mmovToRegisters (d : BitVec 7) (t : BitVec 4) (l : BitVec 4)
  /-- MMOV_TO_TILE: Moves a group of 32 vector registers into a tile. (R248) -/
  | mmovToTile (d : BitVec 7) (t : BitVec 4)
  /-- MRING: Sets the warp's P tile or the workgroup's ring and status object. (R242) -/
  | mring (t : BitVec 4) (a : BitVec 6) (b : BitVec 6)
  /-- E_SA: Combines Q into W by move, add or block scaling. (R255) -/
  | eSa (o : BitVec 2) (a : BitVec 6) (b : BitVec 6)
  /-- E_BIAS: Adds a per-column or per-row bias to W. (R256) -/
  | eBias (r : BitVec 1) (a : BitVec 6)
  /-- E_ACT: Applies an activation function to W. (R257) -/
  | eAct (f : BitVec 3)
  /-- E_CVT: Converts every element of W to a target type. (R258) -/
  | eCvt (r : BitVec 3) (t : BitVec 3)
  /-- E_BND: Checks every element of W against a selvedge register. (R259) -/
  | eBnd (n : BitVec 4)
  /-- E_ST: Stores W to memory in row order. (R260) -/
  | eSt (a : BitVec 6) (b : BitVec 6) (c : BitVec 6)
  /-- E_AST: Adds W onto memory, indivisibly per row line or per tile. (R260) -/
  | eAst (a : BitVec 6) (b : BitVec 6) (c : BitVec 6)
  /-- E_ARV: ORs the pending status into a barrier object and arrives on it. (R261) -/
  | eArv (a : BitVec 6) (b : BitVec 6)
  /-- E_BR: Engine-program branch on a scalar condition. (R261) -/
  | eBr (a : BitVec 6) (o : BitVec 12)
  /-- E_WAIT: Engine-program wait on a barrier object. (R261) -/
  | eWait (a : BitVec 6) (b : BitVec 6) (c : BitVec 6)
  /-- SRD: Reads a control register into a scalar. (R176) -/
  | srd (a : BitVec 6) (n : BitVec 12)
  /-- SWR: Writes a control register that has no row of its own. (R176) -/
  | swr (a : BitVec 6) (n : BitVec 12)
  /-- CTL_MODE_WRITE: swr to CTL_MODE, trapping ILLEGAL_ENCODING for RND 7. (R89) -/
  | ctlModeWrite (a : BitVec 6)
  /-- CTL_CPYFLT_WRITE: swr to CTL_CPYFLT; writing 0 to VALID clears the recorded fault. (R205) -/
  | ctlCpyfltWrite (a : BitVec 6)
  /-- CTL_EST_WRITE: swr to CTL_EST; writing 0 to STOPPED clears CAUSE, OFFSET and STOPPED. (R262) -/
  | ctlEstWrite (a : BitVec 6)
  /-- CTL_TCAUSE_WRITE: swr to CTL_TCAUSE; writing 0 to NENT discards the entries to reissue. (R297) -/
  | ctlTcauseWrite (a : BitVec 6)
  /-- CLK: Reads the package timer or the core's clock count. (R178) -/
  | clk (a : BitVec 6) (c : BitVec 1)
  /-- SLEEP: Stalls the split for a duration in nanoseconds. (R179) -/
  | sleep (a : BitVec 6)
  /-- ID: Writes one coordinate of the split into a scalar. (R180) -/
  | id (s : BitVec 5) (a : BitVec 6)
  /-- DBG: Appends a trace record when tracing is enabled. (R181) -/
  | dbg (a : BitVec 6) (b : BitVec 6) (c : BitVec 6)
  /-- END: Trailer that ends a run, waits for named pending writes and marks unsettled ones unawaited. (R86) -/
  | endRun (a : BitVec 8) (b : BitVec 8) (c : BitVec 8)
  /-- WORD_NOT_AN_INSTRUCTION, an event: A fetched word with an unassigned opcode, a nonzero reserved field or an unassigned f value traps ILLEGAL_OPCODE or ILLEGAL_ENCODING precisely. (R96) -/
  | wordNotAnInstruction (w : BitVec 32)
  /-- ISSUE_SELECTOR, an event: A quarter chooses the next ready split whose run has an instruction-buffer slot. (R278) -/
  | issueSelector (q : Nat)
  /-- RUN_FETCH, an event: A run is fetched whole into an instruction-buffer slot. (R151) -/
  | runFetch (w e : Nat)
  /-- LONG_LATENCY_WRITEBACK, an event: A long-latency result arrives and is written back in program order. (R84) -/
  | longLatencyWriteback (w p : Nat)
  /-- WRITE_ACKNOWLEDGED, an event: A write becomes acknowledged at a scope and leaves the warp's unacknowledged count. (R218) -/
  | writeAcknowledged (w : Nat) (scope : Nat)
  /-- MATRIX_EXECUTE, an event: The matrix engine takes a queued matrix instruction, computes it and delivers its result. (R244) -/
  | matrixExecute (w : Nat) (parity : Nat)
  /-- SLEEP_EXPIRY, an event: The package timer passes a sleeping split's duration and the split becomes ready. (R179) -/
  | sleepExpiry (w e : Nat)
  /-- WARP_RETIRE, an event: A warp whose lanes have all exited retires once its outstanding work drains. (R175) -/
  | warpRetire (w : Nat)
  /-- FAR_CALL_ARRIVAL, an event: A call arrives at the target core and is run, dropped, queued or answered from the reply cache. (R170) -/
  | farCallArrival (n : Nat) (core : Nat)
  /-- FAR_REPLY_ARRIVAL, an event: A reply arrives at the caller and is delivered to its slot or discarded. (R170) -/
  | farReplyArrival (n : Nat)
  /-- RCALL_TIMEOUT, an event: A call slot's 1 ms timer expires without a reply. (R169) -/
  | rcallTimeout (w slot : Nat)
  /-- LAUNCH_RECORD_START, an event: The head record of a queue is checked and started, or refused and retired. (R272) -/
  | launchRecordStart (q : Nat)
  /-- SKEIN_RETIRE, an event: A skein retires once its warps, engine program and accesses are done. (R279) -/
  | skeinRetire (k : Nat)
  /-- GRID_RETIRE, an event: A grid retires after every access is performed, releases at sys and writes RESULT and DONEADDR. (R232) -/
  | gridRetire (l : Nat)
  /-- GRAPH_WAIT_SATISFIED, an event: A wait node's word reaches its value and the node acquires and retires. (R275) -/
  | graphWaitSatisfied (g n : Nat)
  /-- PREEMPTION_SAVE_COMPLETE, an event: A pre-empting skein has drained and its state is saved and resources freed. (R281) -/
  | preemptionSaveComplete (k : Nat)
  /-- COPY_COMMAND_COMPLETE, an event: A copy command finishes, stops or faults, records status and arrives on its barrier object. (R205) -/
  | copyCommandComplete (c : Nat)
  /-- NEAR_OPERATION_PERFORMED, an event: A near-memory operation takes effect indivisibly at its channel's unit. (R308) -/
  | nearOperationPerformed (n : Nat)
  /-- NEAR_COMMAND_COMPLETE, an event: A near-memory command completes once every write is performed in its stacks. (R311) -/
  | nearCommandComplete (c : Nat)
  /-- MQ_MODULE_ANSWER, an event: The module performs a queue operation indivisibly and answers with a status. (R332) -/
  | mqModuleAnswer (src : MqSource)
  /-- MRED_CONTRIBUTION, an event: A contribution arrives at the module; the last one of a round computes and writes the result. (R334) -/
  | mredContribution (src : MredSource)
  /-- MSTEP_COMPLETE, an event: A marker completes once earlier commands are complete and the counted writes are acknowledged. (R209) -/
  | mstepComplete (c : Nat)
  /-- SKEIN_PLACEMENT, an event: The scheduler places a skein on a quad and admits it if the allotment test passes. (R276) -/
  | skeinPlacement (plan : Placement)
  /-- RECLASSIFICATION, an event: A conflicting access at the page's classifier turns a P or R page into S package-wide. (R185) -/
  | reclassification (asid : Nat) (va : BitVec 64) (launch : Nat)
  /-- ROW_TRANSFER_BLOCK_COMMIT, an event: One block of a row transfer or fill commits after invalidating cached copies. (R317) -/
  | rowTransferBlockCommit (c : Nat)
  /-- NEAR_PROGRESS, an event: A command meeting an absent base-die translation stops and is delivered as a trap to a split. (R320) -/
  | nearProgress (c : Nat)
  /-- REPLY_CACHE_EXPIRY, an event: A replied reply-cache entry is freed 100 ms after its reply was sent. (R170) -/
  | replyCacheExpiry (core n : Nat)
  /-- FAR_TASK_STOPPED, an event: A far task that has run for 10 ms is stopped and replies STOPPED. (R168) -/
  | farTaskStopped (w : Nat)
  /-- HOST_DBELL, an event: A host write to the doorbell register notifies that a queue's TAIL advanced. (R269) -/
  | hostDbell (v : BitVec 32)
  /-- PREEMPTION_REQUEST, an event: The L7 or firmware requests pre-emption of a resident skein. (R280) -/
  | preemptionRequest (k : Nat)
  /-- TIME_SLICE_EXPIRY, an event: A queue's head skein waits longer than its level's time slice. (R280) -/
  | timeSliceExpiry (q : Nat)
  /-- CANCEL_RECORD, an event: Firmware or the host cancels a record, stopping its skeins, commands and engine program. (R283) -/
  | cancelRecord (q slot : Nat)
  /-- TRANSLATION_INVALIDATE, an event: Firmware invalidates translation caches by ASID, range or entirely. (R290) -/
  | translationInvalidate (asid : Option Nat) (lo hi : Nat)
  /-- ATS_TRANSLATION_COMPLETION, an event: An ATS completion for a host page arrives and is cached. (R291) -/
  | atsTranslationCompletion (asid : Nat) (va : BitVec 64) (frame : Nat) (r w : Bool)
  /-- PRI_PAGE_RESPONSE, an event: A page request response arrives, replaying or failing the waiting accesses. (R292) -/
  | priPageResponse (asid : Nat) (va : BitVec 64) (ok : Bool) (frame : Nat) (r w : Bool)
  /-- ATS_INVALIDATE_REQUEST, an event: An ATS Invalidate Request arrives and is completed once the invalidation is complete. (R293) -/
  | atsInvalidateRequest (asid : Nat) (va : BitVec 64)
  /-- FAULT_SERVICE, an event: System software services a replayable device fault, replaying or refusing the waiting accesses. (R294) -/
  | faultService (asid : Nat) (va : BitVec 64) (ok : Bool) (pte : BitVec 64)
  /-- BACK_INVALIDATION, an event: A module's page-level back-invalidation makes the package invalidate and write back the page. (R224) -/
  | backInvalidation (m page : Nat)
  /-- MODULE_GRANT, an event: A module grants shared or exclusive access to a page. (R224) -/
  | moduleGrant (m page : Nat) (excl : Bool)
  /-- RELAY_FORWARD, an event: A relay engine performs a forwarded relay-tier access on its module. (R327) -/
  | relayForward (acc : RelayAccess)
  /-- ROUTE_INSTALL, an event: Firmware installs new relay routes after a loss. (R328) -/
  | routeInstall (m : Nat) (route : Option Nat)
  /-- MODULE_LOSS, an event: A module is lost; its cached lines are invalidated and its open operations complete with faults. (R329) -/
  | moduleLoss (m : Nat)
  /-- PACKAGE_LOSS, an event: A package is lost; modules drop its grants and poison lines it modified. (R330) -/
  | packageLoss (p : Nat)
  /-- RELTEX_PACKET_RECEIVE, an event: A Reltex packet arrives and is placed, dropped or refused, advancing the committed mark. (R339) -/
  | reltexPacketReceive (p : Packet)
  /-- RELTEX_ACK_RECEIVE, an event: An acknowledgement or refusal arrives at the sender, with ECN adjusting path entropy. (R340) -/
  | reltexAckReceive (a : ReltexAck)
  /-- RETRANSMIT_TIMEOUT, an event: An unacknowledged packet's timeout expires and it is retransmitted. (R339) -/
  | retransmitTimeout (conn : Nat)
  /-- SCRUB, an event: The base die scrubs every codeword of its stack once per 24 hours. (R343) -/
  | scrub (stack : Nat)
  /-- SNAPSHOT_PAGE_COPY, an event: The copy of a page into the snapshot pool completes and the stalled first write proceeds. (R349) -/
  | snapshotPageCopy (l page : Nat)
  /-- SNAPSHOT_POOL_DECISION, an event: Firmware enlarges the full pool or declines and cancels the launch. (R350) -/
  | snapshotPoolDecision (l : Nat) (grow : Option Nat)
  /-- ROLLBACK, an event: A snapshot launch is stopped, restored from the pool and replayed. (R352) -/
  | rollback (l : Nat)
  /-- UNIT_FENCING, an event: Firmware fences a failing unit and reports the new capacity. (R354) -/
  | unitFencing (u : FencedUnit)
  /-- POWER_UP_STEP_READY, an event: A power-up unit reports ready and the next one starts. (R359) -/
  | powerUpStepReady (img : ImageCheck)
  /-- CORE_GROUP_START, an event: A core group leaving power gating starts at 4 µs spacing. (R359) -/
  | coreGroupStart (g : Nat)
  /-- SPDM_REQUEST, an event: The L7 answers an SPDM 1.3 request over DOE. (R358) -/
  | spdmRequest (m : Nat)
  /-- HOST_EVENT, an event: A host write of 1 clears event bits of HOST_EVENT. (R361) -/
  | hostEvent (v : BitVec 32)
  /-- ASID_BINDING, an event: Firmware binds an ASID to an address-space context, refusing a binding beyond the 4,096th and zeroing HBM frames that change owner. (R285) -/
  | asidBinding (asid : Nat) (c : AddressContext)
  /-- ASID_FREEING, an event: On the freeing of an ASID, its L1 and L2 lines are invalidated without write-back and its translation, base-die and reply-cache entries are removed. (R355) -/
  | asidFreeing (asid : Nat)
  /-- CONNECTION_BINDING, an event: Firmware binds a Reltex connection to an ASID, remote endpoint and tenant, or rebinds a failed one. (R336) -/
  | connectionBinding (c : Nat) (b : ConnBinding)
  /-- LAUNCH_QUEUE_BINDING, an event: Firmware binds a launch queue to an ASID, a priority level and a feed kind and writes its header. (R268) -/
  | launchQueueBinding (q : Nat) (b : QueueBinding)
  /-- MODULE_PORT_BRING_UP, an event: Firmware brings up a module port, refusing one whose module does not report the Onipor extensions. (R323) -/
  | modulePortBringUp (port m : Nat) (ext : Bool)
  /-- NOP: Does nothing but take one issue slot; any set bit in [23:0] traps ILLEGAL_ENCODING. (R96) -/
  | nop
  /-- YIELD: Restarts the split's aging and lets other splits issue first. (R174) -/
  | yield
  /-- EXIT: Removes the active lanes from the split and adds them to the exited mask. (R175) -/
  | exit
  /-- TRET: Returns from a handler, reissuing undone trap-state entries. (R300) -/
  | tret
  /-- KBAR: Skein-wide barrier at sk scope. (R161) -/
  | kbar
  /-- GBAR: Grid-wide barrier at dev scope; traps GRID_BARRIER without .coop. (R161) -/
  | gbar
  /-- RACQ: Requests the skein's full allotment. (R44) -/
  | racq
  /-- XWAIT: Stalls until the warp's return-free near-memory operations are performed. (R310) -/
  | xwait
  /-- MZERO_P: Clears the warp's P-valid without counting PDISC. (R247) -/
  | mzeroP
  /-- E_POP: Waits for the tail ring tile to be ready and copies it into Q. (R254) -/
  | ePop
  /-- E_END: Ends the engine program after its writes are acknowledged at wg scope. (R261) -/
  | eEnd
  /-- CURRENT_LIMIT, an event: Package current above the limit pauses matrix issue per core. (R356) -/
  | currentLimit
  /-- TEMPERATURE_LIMIT, an event: Junction temperature of 105 °C lowers the arithmetic clock to 350 MHz. (R356) -/
  | temperatureLimit
  /-- FATAL_LIMIT, an event: 125 °C or excess current stops every unit and sets HOST_STATE FATAL. (R356) -/
  | fatalLimit
  /-- POWER_GOOD, an event: Power-good asserted with PERST# deasserted starts step 1 of power-up. (R360) -/
  | powerGood
  /-- CONVENTIONAL_RESET, an event: A PCIe conventional reset restarts power-up at step 1. (R359) -/
  | conventionalReset
  /-- FUNCTION_LEVEL_RESET, an event: A Function Level Reset cancels every record and zeroes every bound ASID. (R359) -/
  | functionLevelReset
  /-- BOARD_POWER_REMOVED, an event: Loss of board power leaves the package holding only its fuses. (R360) -/
  | boardPowerRemoved
  deriving DecidableEq, Repr

end Sys2Proof
end

