-- ==== Sys2Proof/WellFormed.lean ====
section
/-! DEFINITION. The static form of an instruction word: what its fields may hold whatever the state is
(05_encoding R77, R78, R79, R82, R90, R93, R96 and each instruction's own description).
A word whose fields break this form traps ILLEGAL_ENCODING.  The fields that are reserved, or grouped, only under some
element type or accumulator mode are checked when the word issues (Machine/Operands.lean). -/

namespace Sys2Proof

/-- A 7-bit field in a scalar position names s0 to s63 (R77). -/
def isScalar (r : BitVec 7) : Bool := r.toNat < 64

/-- A 7-bit field that names a scalar pair (R77, R78). -/
def isScalarPair (r : BitVec 7) : Bool := r.toNat < 64 && r.toNat % 2 == 0

/-- A 6-bit field that names a scalar pair (R78). -/
def isPair (r : BitVec 6) : Bool := r.toNat % 2 == 0

/-- A group of n vector registers: it neither runs past v119 nor holds temporaries (R78, R79). -/
def isGroup (n : Nat) (r : BitVec 7) : Bool := r.toNat + n ≤ 120

/-- An even/odd pair of vector registers (R58, R78). -/
def isVectorPair (r : BitVec 7) : Bool := r.toNat % 2 == 0 && isGroup 2 r

/-- A register, or under a `.64` bit a pair (R105). -/
def isVectorOr64 (w : BitVec 1) (r : BitVec 7) : Bool := w == 0 || isVectorPair r

/-- The address operands of the lane-wise global forms: an even scalar pair, or for s = 0 a vector pair (R187). -/
def isGlobalAddress (a : BitVec 7) (s : BitVec 6) : Bool :=
  if s == 0 then isVectorPair a else isPair s

/-- The data operand of a store of size code z (R192). -/
def isStoreData (z : BitVec 3) (d : BitVec 7) : Bool :=
  z.toNat ≤ 4 && (z != 3 || isVectorPair d) && (z != 4 || isGroup 4 d)

/-- A trailer byte: v0 to v119, s0 to s63 or none (R82). -/
def isTrailerName (b : BitVec 8) : Bool :=
  b.toNat < 0x78 || b == 0x7F || (0x80 ≤ b.toNat && b.toNat < 0xC0)

/-- The bits of `mode`'s immediate that its field mask selects (R90). -/
def modeSelected (d : BitVec 5) : BitVec 14 :=
  (if d.getLsbD 0 then 0x000F else 0) ||| (if d.getLsbD 1 then 0x01F0 else 0) |||
  (if d.getLsbD 2 then 0x0E00 else 0) ||| (if d.getLsbD 3 then 0x1000 else 0) |||
  (if d.getLsbD 4 then 0x2000 else 0)

/-- `mode` sets no bit outside its selected fields and never selects rounding code 7 (R90). -/
def isMode (d : BitVec 5) (i : BitVec 14) : Bool :=
  i &&& ~~~(modeSelected d) == 0 && !(d.getLsbD 2 && (i >>> 9).setWidth 3 == 7#3)

/-- A rounding field: 7 is refused (R59, R93). -/
def isRounding (x : BitVec 3) : Bool := x != 7

/-- A scope code of R210. -/
def isScope (x : BitVec 3) : Bool := x.toNat ≤ 4

/-- The control registers with a step of their own in the table (R176, R89, R205, R262, R297). -/
def hasOwnWrite (n : BitVec 12) : Bool := n == 0x000 || n == 0x020 || n == 0x022 || n == 0x040

/-- The static well-formedness of a step.  Every event is well formed. -/
def wellFormed : Instr → Bool
  | .sadd d a b | .ssub d a b | .smul d a b | .smulh d a b | .smulhn d a b | .sand d a b | .sor d a b | .sxor d a b
  | .sshl d a b | .sshr d a b | .ssra d a b | .smin d a b | .smax d a b | .sminn d a b | .smaxn d a b
  | .sbfi d a b | .ssel d a b => isScalar d && isScalar a && isScalar b
  | .sbfe d a b _ => isScalar d && isScalar a && isScalar b
  | .scmp d a b _ => isScalar d && isScalar a && isScalar b
  | .sclz d a | .spopc d a => isScalar d && isScalar a
  | .saddi d a _ | .sandi d a _ | .sori d a _ | .sxori d a _ => isScalar d && isScalar a
  | .sshli d a _ | .sshri d a _ => isScalar d && isScalar a
  | .smovi d _ | .smoviHi d _ => isScalar d
  | .sadd64 d a b | .ssub64 d a b => isScalarPair d && isScalarPair a && isScalarPair b
  | .sshf64 d a b x => isScalarPair d && isScalarPair a && isScalar b && x.toNat ≤ 2
  | .vadd _ _ _ x | .vsub _ _ _ x | .vmul _ _ _ x | .vfma _ _ _ x | .vscale _ _ _ x | .vrnd _ _ x => isRounding x
  | .vcvt _ _ t r => t.toNat ≤ 0xC && isRounding r
  | .vpack _ a x => x.toNat ≤ 2 && isGroup (if x == 2 then 16 else 8) a
  | .vunpk d _ x => x.toNat ≤ 2 && isGroup (if x == 2 then 16 else 8) d
  | .vqblk _ _ b x => b != 3 && x.toNat ≤ 3
  | .vmov d a w => isVectorOr64 w d && isVectorOr64 w a
  | .vbcs d a w => isVectorOr64 w d && isScalar a && (w == 0 || isScalarPair a)
  | .vget d _ b => isScalar d && isScalar b
  | .vput _ a b => isScalar a && isScalar b
  | .vshfl d a _ w => isVectorOr64 w d && isVectorOr64 w a
  | .vshfu d a b w u | .vshfd d a b w u | .vshfx d a b w u =>
      isVectorOr64 w d && isVectorOr64 w a && (u == 0 || isScalar b)
  | .vote d _ _ x => isScalar d && x.toNat ≤ 4 && (x != 4 || d.toNat ≤ 61)
  | .vmatch d a w => isGroup 3 d && isVectorOr64 w a
  | .width d => isScalar d
  | .brx a _ => isScalarPair a
  | .brxU a => isScalarPair a
  | .ret a => isScalarPair a
  | .mode d i => isMode d i
  | .barWait a _ _ => isPair a
  | .fork a b => isPair a && isPair b
  | .rdv a => isPair a
  | .rcall n _ b c | .rcallRetry n _ b c => n.toNat ≤ 16 && isPair b && isPair c
  | .rwait d a _ => d.toNat ≤ 45 && isScalar a
  | .launch _ b _ => isPair b
  | .ldN8 d a s _ | .ldI8 d a s _ | .ldN16 d a s _ | .ldI16 d a s _ | .ld32 d a s _ =>
      isGroup 1 d && isGlobalAddress a s
  | .ld64 d a s _ => isVectorPair d && isGlobalAddress a s
  | .ld128 d a s _ => isGroup 4 d && isGlobalAddress a s
  | .st d a s z => isStoreData z d && isGlobalAddress a s
  | .ldl32 d _ _ _ => isGroup 1 d
  | .ldl128 d _ _ _ => isGroup 4 d
  | .stl d _ _ z => isStoreData z d
  | .ldlQ d _ _ w _ _ => isGroup (if w == 1 then 4 else 1) d
  | .stlQ d _ _ w _ => w == 0 || isGroup 4 d
  | .ldc d p _ _ => isScalar d && (p == 0 || isScalarPair d)
  | .sld d p _ s _ => isScalar d && (p == 0 || isScalarPair d) && isPair s
  | .red _ a s o => o.toNat ≤ 12 && isGlobalAddress a s
  | .atomAdd d a s _ | .atomMin d a s _ | .atomMax d a s _ | .atomMinn d a s _ | .atomMaxn d a s _ | .atomAnd d a s _
  | .atomOr d a s _ | .atomXor d a s _ | .atomSwap d a s _ | .atomInc d a s _ | .atomDec d a s _ | .atomFadd d a s _ =>
      isGroup 1 d && isGlobalAddress a s
  | .atomCas d a s _ => isGroup 2 d && isGlobalAddress a s
  | .atoml d _ b => isGroup 1 d && b.toNat ≤ 12
  | .cpy _ a _ _ | .cpyz _ a _ _ => isPair a
  | .mrd _ _ a => isPair a
  | .mwait o _ a | .mstep o _ a => isScope o && isPair a
  | .fence _ s => isScope s
  | .pref _ a _ | .cinv _ a _ | .cwb _ a _ => isPair a
  | .xatAdd _ a s => isGlobalAddress a s
  | .xatRed _ a s o => (o.toNat ≤ 7 || (12 ≤ o.toNat && o.toNat ≤ 14)) && isGlobalAddress a s
  | .xatRmw d a s _ => isGroup 1 d && isGlobalAddress a s
  | .xatExpr _ a _ => isPair a
  | .xatFill _ a b _ => isPair a && isPair b && b != 0
  | .xatCopy _ a b _ | .mrelay _ a b _ => isPair a && b.toNat % 4 == 0 && b != 0
  | .mqPut _ b _ | .mqGet _ b _ => isPair b
  | .mred _ _ a _ | .nput _ a _ | .nget _ a _ | .nsig _ a _ => isPair a
  | .nwait _ b | .nwaitRd _ b => isPair b
  | .msa d _ _ _ => d.toNat ≤ 88
  | .mmovToRegisters d _ _ | .mmovToTile d _ => d.toNat ≤ 88
  | .eSa o a b => o == 2 || o == 3 || (a == 0 && b == 0)
  | .eAct f => f.toNat ≤ 4
  | .eCvt r t => r.toNat ≤ 5 && t.toNat ≤ 5
  | .eSt a _ _ | .eAst a _ _ => isPair a
  | .eWait a _ _ => isPair a
  | .swr _ n => !hasOwnWrite n
  | .clk a _ => isPair a
  | .id s _ => s.toNat ≤ 23
  | .endRun a b c => isTrailerName a && isTrailerName b && isTrailerName c
  | _ => true

end Sys2Proof
end

