-- ==== Sys2Proof/Decode.lean ====
section
/-! DEFINITION. Decoding: from a 32-bit word to a step, or a rejection by name (05_encoding R74 to R97), and the
encoder written from the same tables.  `raw` only reads the opcode and the selectors of R94; `decode` accepts a word
exactly when it is the encoding of the well-formed instruction `raw` reads, so every nonzero reserved bit is refused. -/

namespace Sys2Proof

/-- Why a word is no instruction (R96). -/
inductive DecodeError where
  | illegalOpcode
  | illegalEncoding
  deriving DecidableEq, Repr

/-- Opcodes 0x00 to 0x0F of the map of R94. -/
def raw0 (w : Word) : Except DecodeError Instr :=
  match (w.extractLsb' 24 4).toNat with
  | 0x0 => .ok .nop
  | 0x1 => .ok (.sadd (w.extractLsb' 17 7) (w.extractLsb' 10 7) (w.extractLsb' 3 7))
  | 0x2 => .ok (.ssub (w.extractLsb' 17 7) (w.extractLsb' 10 7) (w.extractLsb' 3 7))
  | 0x3 => .ok (.smul (w.extractLsb' 17 7) (w.extractLsb' 10 7) (w.extractLsb' 3 7))
  | 0x4 => .ok (.smulh (w.extractLsb' 17 7) (w.extractLsb' 10 7) (w.extractLsb' 3 7))
  | 0x5 => .ok (.smulhn (w.extractLsb' 17 7) (w.extractLsb' 10 7) (w.extractLsb' 3 7))
  | 0x6 => .ok (.sand (w.extractLsb' 17 7) (w.extractLsb' 10 7) (w.extractLsb' 3 7))
  | 0x7 => .ok (.sor (w.extractLsb' 17 7) (w.extractLsb' 10 7) (w.extractLsb' 3 7))
  | 0x8 => .ok (.sxor (w.extractLsb' 17 7) (w.extractLsb' 10 7) (w.extractLsb' 3 7))
  | 0x9 => .ok (.sshl (w.extractLsb' 17 7) (w.extractLsb' 10 7) (w.extractLsb' 3 7))
  | 0xA => .ok (.sshr (w.extractLsb' 17 7) (w.extractLsb' 10 7) (w.extractLsb' 3 7))
  | 0xB => .ok (.ssra (w.extractLsb' 17 7) (w.extractLsb' 10 7) (w.extractLsb' 3 7))
  | 0xC => .ok (.smin (w.extractLsb' 17 7) (w.extractLsb' 10 7) (w.extractLsb' 3 7))
  | 0xD => .ok (.smax (w.extractLsb' 17 7) (w.extractLsb' 10 7) (w.extractLsb' 3 7))
  | 0xE => .ok (.sminn (w.extractLsb' 17 7) (w.extractLsb' 10 7) (w.extractLsb' 3 7))
  | 0xF => .ok (.smaxn (w.extractLsb' 17 7) (w.extractLsb' 10 7) (w.extractLsb' 3 7))
  | _ => .error .illegalOpcode

/-- Opcodes 0x10 to 0x1F of the map of R94. -/
def raw1 (w : Word) : Except DecodeError Instr :=
  match (w.extractLsb' 24 4).toNat with
  | 0x0 => .ok (.sclz (w.extractLsb' 17 7) (w.extractLsb' 10 7))
  | 0x1 => .ok (.spopc (w.extractLsb' 17 7) (w.extractLsb' 10 7))
  | 0x2 => .ok (.sbfe (w.extractLsb' 17 7) (w.extractLsb' 10 7) (w.extractLsb' 3 7) (w.extractLsb' 0 1))
  | 0x3 => .ok (.sbfi (w.extractLsb' 17 7) (w.extractLsb' 10 7) (w.extractLsb' 3 7))
  | 0x4 => .ok (.saddi (w.extractLsb' 17 7) (w.extractLsb' 10 7) (w.extractLsb' 0 10))
  | 0x5 => .ok (.sandi (w.extractLsb' 17 7) (w.extractLsb' 10 7) (w.extractLsb' 0 10))
  | 0x6 => .ok (.sori (w.extractLsb' 17 7) (w.extractLsb' 10 7) (w.extractLsb' 0 10))
  | 0x7 => .ok (.sxori (w.extractLsb' 17 7) (w.extractLsb' 10 7) (w.extractLsb' 0 10))
  | 0x8 => .ok (.sshli (w.extractLsb' 17 7) (w.extractLsb' 10 7) (w.extractLsb' 0 5))
  | 0x9 => .ok (.sshri (w.extractLsb' 17 7) (w.extractLsb' 10 7) (w.extractLsb' 0 5))
  | 0xA => if w.getLsbD 16 then .ok (.smoviHi (w.extractLsb' 17 7) (w.extractLsb' 0 16)) else .ok (.smovi (w.extractLsb' 17 7) (w.extractLsb' 0 16))
  | 0xB => .ok (.sadd64 (w.extractLsb' 17 7) (w.extractLsb' 10 7) (w.extractLsb' 3 7))
  | 0xC => .ok (.ssub64 (w.extractLsb' 17 7) (w.extractLsb' 10 7) (w.extractLsb' 3 7))
  | 0xD => .ok (.sshf64 (w.extractLsb' 17 7) (w.extractLsb' 10 7) (w.extractLsb' 3 7) (w.extractLsb' 0 3))
  | 0xE => .ok (.scmp (w.extractLsb' 17 7) (w.extractLsb' 10 7) (w.extractLsb' 3 7) (w.extractLsb' 0 3))
  | 0xF => .ok (.ssel (w.extractLsb' 17 7) (w.extractLsb' 10 7) (w.extractLsb' 3 7))
  | _ => .error .illegalOpcode

/-- Opcodes 0x20 to 0x2F of the map of R94. -/
def raw2 (w : Word) : Except DecodeError Instr :=
  match (w.extractLsb' 24 4).toNat with
  | 0x0 => .ok (.vadd (w.extractLsb' 17 7) (w.extractLsb' 10 7) (w.extractLsb' 3 7) (w.extractLsb' 0 3))
  | 0x1 => .ok (.vsub (w.extractLsb' 17 7) (w.extractLsb' 10 7) (w.extractLsb' 3 7) (w.extractLsb' 0 3))
  | 0x2 => .ok (.vmul (w.extractLsb' 17 7) (w.extractLsb' 10 7) (w.extractLsb' 3 7) (w.extractLsb' 0 3))
  | 0x3 => .ok (.vmulh (w.extractLsb' 17 7) (w.extractLsb' 10 7) (w.extractLsb' 3 7))
  | 0x4 => .ok (.vfma (w.extractLsb' 17 7) (w.extractLsb' 10 7) (w.extractLsb' 3 7) (w.extractLsb' 0 3))
  | 0x5 => .ok (.vmin (w.extractLsb' 17 7) (w.extractLsb' 10 7) (w.extractLsb' 3 7))
  | 0x6 => .ok (.vmax (w.extractLsb' 17 7) (w.extractLsb' 10 7) (w.extractLsb' 3 7))
  | 0x7 => .ok (.vminp (w.extractLsb' 17 7) (w.extractLsb' 10 7) (w.extractLsb' 3 7))
  | 0x8 => .ok (.vmaxp (w.extractLsb' 17 7) (w.extractLsb' 10 7) (w.extractLsb' 3 7))
  | 0x9 => .ok (.vabs (w.extractLsb' 17 7) (w.extractLsb' 10 7))
  | 0xA => .ok (.vneg (w.extractLsb' 17 7) (w.extractLsb' 10 7))
  | 0xB => .ok (.vand (w.extractLsb' 17 7) (w.extractLsb' 10 7) (w.extractLsb' 3 7))
  | 0xC => .ok (.vor (w.extractLsb' 17 7) (w.extractLsb' 10 7) (w.extractLsb' 3 7))
  | 0xD => .ok (.vxor (w.extractLsb' 17 7) (w.extractLsb' 10 7) (w.extractLsb' 3 7))
  | 0xE => .ok (.vnot (w.extractLsb' 17 7) (w.extractLsb' 10 7))
  | 0xF => .ok (.vshl (w.extractLsb' 17 7) (w.extractLsb' 10 7) (w.extractLsb' 3 7))
  | _ => .error .illegalOpcode

/-- Opcodes 0x30 to 0x3F of the map of R94. -/
def raw3 (w : Word) : Except DecodeError Instr :=
  match (w.extractLsb' 24 4).toNat with
  | 0x0 => .ok (.vshr (w.extractLsb' 17 7) (w.extractLsb' 10 7) (w.extractLsb' 3 7))
  | 0x1 => .ok (.vsra (w.extractLsb' 17 7) (w.extractLsb' 10 7) (w.extractLsb' 3 7))
  | 0x2 => .ok (.vclz (w.extractLsb' 17 7) (w.extractLsb' 10 7))
  | 0x3 => .ok (.vpopc (w.extractLsb' 17 7) (w.extractLsb' 10 7))
  | 0x4 => .ok (.vbfe (w.extractLsb' 17 7) (w.extractLsb' 10 7) (w.extractLsb' 3 7) (w.extractLsb' 0 1))
  | 0x5 => .ok (.vbfi (w.extractLsb' 17 7) (w.extractLsb' 10 7) (w.extractLsb' 3 7))
  | 0x6 => .ok (.vdot4 (w.extractLsb' 17 7) (w.extractLsb' 10 7) (w.extractLsb' 3 7) (w.extractLsb' 0 2))
  | 0x7 => .ok (.vscale (w.extractLsb' 17 7) (w.extractLsb' 10 7) (w.extractLsb' 3 7) (w.extractLsb' 0 3))
  | 0x8 => .ok (.vfrac (w.extractLsb' 17 7) (w.extractLsb' 10 7))
  | 0x9 => .ok (.vrnd (w.extractLsb' 17 7) (w.extractLsb' 10 7) (w.extractLsb' 0 3))
  | 0xA => .ok (.vclass (w.extractLsb' 17 7) (w.extractLsb' 10 7))
  | _ => .error .illegalOpcode

/-- Opcodes 0x40 to 0x4F of the map of R94. -/
def raw4 (w : Word) : Except DecodeError Instr :=
  match (w.extractLsb' 24 4).toNat with
  | 0x0 => .ok (.vaddi (w.extractLsb' 17 7) (w.extractLsb' 10 7) (w.extractLsb' 0 10))
  | 0x1 => .ok (.vmuli (w.extractLsb' 17 7) (w.extractLsb' 10 7) (w.extractLsb' 0 10))
  | 0x2 => .ok (.vandi (w.extractLsb' 17 7) (w.extractLsb' 10 7) (w.extractLsb' 0 10))
  | 0x3 => .ok (.vori (w.extractLsb' 17 7) (w.extractLsb' 10 7) (w.extractLsb' 0 10))
  | 0x4 => .ok (.vxori (w.extractLsb' 17 7) (w.extractLsb' 10 7) (w.extractLsb' 0 10))
  | 0x5 => .ok (.vshli (w.extractLsb' 17 7) (w.extractLsb' 10 7) (w.extractLsb' 0 7))
  | 0x6 => .ok (.vshri (w.extractLsb' 17 7) (w.extractLsb' 10 7) (w.extractLsb' 0 7))
  | 0x7 => .ok (.vsrai (w.extractLsb' 17 7) (w.extractLsb' 10 7) (w.extractLsb' 0 7))
  | 0x8 => .ok (.vmini (w.extractLsb' 17 7) (w.extractLsb' 10 7) (w.extractLsb' 0 10))
  | 0x9 => .ok (.vmaxi (w.extractLsb' 17 7) (w.extractLsb' 10 7) (w.extractLsb' 0 10))
  | _ => .error .illegalOpcode

/-- Opcodes 0x50 to 0x5F of the map of R94. -/
def raw5 (w : Word) : Except DecodeError Instr :=
  match (w.extractLsb' 24 4).toNat with
  | 0x0 => .ok (.vrcp (w.extractLsb' 17 7) (w.extractLsb' 10 7))
  | 0x1 => .ok (.vrsq (w.extractLsb' 17 7) (w.extractLsb' 10 7))
  | 0x2 => .ok (.vsqrt (w.extractLsb' 17 7) (w.extractLsb' 10 7))
  | 0x3 => .ok (.vexp2 (w.extractLsb' 17 7) (w.extractLsb' 10 7))
  | 0x4 => .ok (.vlog2 (w.extractLsb' 17 7) (w.extractLsb' 10 7))
  | 0x5 => .ok (.vsin (w.extractLsb' 17 7) (w.extractLsb' 10 7))
  | 0x6 => .ok (.vcos (w.extractLsb' 17 7) (w.extractLsb' 10 7))
  | 0x7 => .ok (.vtanh (w.extractLsb' 17 7) (w.extractLsb' 10 7))
  | 0x8 => .ok (.vsigm (w.extractLsb' 17 7) (w.extractLsb' 10 7))
  | 0x9 => .ok (.verf (w.extractLsb' 17 7) (w.extractLsb' 10 7))
  | 0xA => .ok (.vcvt (w.extractLsb' 17 7) (w.extractLsb' 10 7) (w.extractLsb' 6 4) (w.extractLsb' 3 3))
  | 0xB => .ok (.vpack (w.extractLsb' 17 7) (w.extractLsb' 10 7) (w.extractLsb' 0 3))
  | 0xC => .ok (.vunpk (w.extractLsb' 17 7) (w.extractLsb' 10 7) (w.extractLsb' 0 3))
  | 0xD => .ok (.vqblk (w.extractLsb' 17 7) (w.extractLsb' 10 7) (w.extractLsb' 3 2) (w.extractLsb' 0 3))
  | _ => .error .illegalOpcode

/-- Opcodes 0x60 to 0x6F of the map of R94. -/
def raw6 (w : Word) : Except DecodeError Instr :=
  match (w.extractLsb' 24 4).toNat with
  | 0x0 => .ok (.vcmp (w.extractLsb' 17 3) (w.extractLsb' 10 7) (w.extractLsb' 3 7) (w.extractLsb' 0 3))
  | 0x1 => .ok (.vcmpi (w.extractLsb' 17 3) (w.extractLsb' 10 7) (w.extractLsb' 3 7) (w.extractLsb' 0 3))
  | 0x2 => .ok (.pand (w.extractLsb' 17 3) (w.extractLsb' 10 3) (w.extractLsb' 3 3) (w.extractLsb' 1 1) (w.extractLsb' 0 1))
  | 0x3 => .ok (.por (w.extractLsb' 17 3) (w.extractLsb' 10 3) (w.extractLsb' 3 3) (w.extractLsb' 1 1) (w.extractLsb' 0 1))
  | 0x4 => .ok (.pxor (w.extractLsb' 17 3) (w.extractLsb' 10 3) (w.extractLsb' 3 3) (w.extractLsb' 1 1) (w.extractLsb' 0 1))
  | 0x5 => match (w.extractLsb' 1 2).toNat with
    | 0 => .ok (.pmov (w.extractLsb' 17 3) (w.extractLsb' 10 3) (w.extractLsb' 0 1))
    | 1 => .ok (.pmovV2p (w.extractLsb' 17 3) (w.extractLsb' 10 7) (w.extractLsb' 0 1))
    | 2 => .ok (.pmovP2v (w.extractLsb' 17 7) (w.extractLsb' 10 3) (w.extractLsb' 0 1))
    | _ => .error .illegalEncoding
  | 0x6 => .ok (.vsel (w.extractLsb' 17 7) (w.extractLsb' 10 7) (w.extractLsb' 3 7) (w.extractLsb' 0 3))
  | 0x7 => .ok (.vmov (w.extractLsb' 17 7) (w.extractLsb' 10 7) (w.extractLsb' 0 1))
  | 0x8 => .ok (.vmovi (w.extractLsb' 17 7) (w.extractLsb' 0 17))
  | 0x9 => .ok (.vmovh (w.extractLsb' 17 7) (w.extractLsb' 0 16))
  | 0xA => .ok (.vbcs (w.extractLsb' 17 7) (w.extractLsb' 10 7) (w.extractLsb' 0 1))
  | 0xB => .ok (.vget (w.extractLsb' 17 7) (w.extractLsb' 10 7) (w.extractLsb' 3 7))
  | 0xC => .ok (.vput (w.extractLsb' 17 7) (w.extractLsb' 10 7) (w.extractLsb' 3 7))
  | 0xD => .ok (.vlid (w.extractLsb' 17 7) (w.extractLsb' 0 1))
  | 0xE => .ok (.vbnd (w.extractLsb' 17 7) (w.extractLsb' 10 7) (w.extractLsb' 3 4))
  | _ => .error .illegalOpcode

/-- Opcodes 0x70 to 0x7F of the map of R94. -/
def raw7 (w : Word) : Except DecodeError Instr :=
  match (w.extractLsb' 24 4).toNat with
  | 0x0 => .ok (.vshfl (w.extractLsb' 17 7) (w.extractLsb' 10 7) (w.extractLsb' 3 7) (w.extractLsb' 1 1))
  | 0x1 => .ok (.vshfu (w.extractLsb' 17 7) (w.extractLsb' 10 7) (w.extractLsb' 3 7) (w.extractLsb' 1 1) (w.extractLsb' 0 1))
  | 0x2 => .ok (.vshfd (w.extractLsb' 17 7) (w.extractLsb' 10 7) (w.extractLsb' 3 7) (w.extractLsb' 1 1) (w.extractLsb' 0 1))
  | 0x3 => .ok (.vshfx (w.extractLsb' 17 7) (w.extractLsb' 10 7) (w.extractLsb' 3 7) (w.extractLsb' 1 1) (w.extractLsb' 0 1))
  | 0x4 => .ok (.vote (w.extractLsb' 17 7) (w.extractLsb' 13 1) (w.extractLsb' 10 3) (w.extractLsb' 0 3))
  | 0x5 => .ok (.vred (w.extractLsb' 17 7) (w.extractLsb' 10 7) (w.extractLsb' 0 3))
  | 0x6 => .ok (.vscan (w.extractLsb' 17 7) (w.extractLsb' 10 7) (w.extractLsb' 3 1) (w.extractLsb' 0 3))
  | 0x7 => .ok (.vmatch (w.extractLsb' 17 7) (w.extractLsb' 10 7) (w.extractLsb' 0 1))
  | 0x8 => .ok (.width (w.extractLsb' 17 7))
  | _ => .error .illegalOpcode

/-- Opcodes 0x80 to 0x8F of the map of R94. -/
def raw8 (w : Word) : Except DecodeError Instr :=
  match (w.extractLsb' 24 4).toNat with
  | 0x0 => .ok (.br (w.extractLsb' 0 24))
  | 0x1 => .ok (.bra (w.extractLsb' 21 3) (w.extractLsb' 20 1) (w.extractLsb' 0 20))
  | 0x2 => .ok (.brc (w.extractLsb' 21 3) (w.extractLsb' 15 6) (w.extractLsb' 0 15))
  | 0x3 => if w.getLsbD 0 then .ok (.brxU (w.extractLsb' 10 7)) else .ok (.brx (w.extractLsb' 10 7) (w.extractLsb' 3 7))
  | 0x4 => .ok (.call (w.extractLsb' 0 24))
  | 0x5 => .ok (.ret (w.extractLsb' 10 7))
  | 0x6 => .ok (.jarm (w.extractLsb' 18 2))
  | 0x7 => .ok (.jarv (w.extractLsb' 18 2))
  | 0x8 => .ok (.jwait (w.extractLsb' 18 2))
  | 0x9 => .ok (.jclr (w.extractLsb' 18 2))
  | 0xA => .ok .yield
  | 0xB => .ok .exit
  | 0xC => .ok (.trap (w.extractLsb' 18 6))
  | 0xD => .ok .tret
  | 0xE => .ok (.mode (w.extractLsb' 17 5) (w.extractLsb' 0 14))
  | _ => .error .illegalOpcode

/-- Opcodes 0x90 to 0x9F of the map of R94. -/
def raw9 (w : Word) : Except DecodeError Instr :=
  match (w.extractLsb' 24 4).toNat with
  | 0x0 => .ok (.barInit (w.extractLsb' 12 6) (w.extractLsb' 6 6))
  | 0x1 => .ok (.barArv (w.extractLsb' 12 6) (w.extractLsb' 6 6) (w.extractLsb' 0 6))
  | 0x2 => .ok (.barWait (w.extractLsb' 12 6) (w.extractLsb' 6 6) (w.extractLsb' 0 6))
  | 0x3 => .ok .kbar
  | 0x4 => .ok .gbar
  | 0x5 => .ok (.fork (w.extractLsb' 12 6) (w.extractLsb' 6 6))
  | 0x6 => .ok (.rdv (w.extractLsb' 12 6))
  | 0x7 => if w.getLsbD 23 then .ok (.rcallRetry (w.extractLsb' 18 5) (w.extractLsb' 12 6) (w.extractLsb' 6 6) (w.extractLsb' 0 6)) else .ok (.rcall (w.extractLsb' 18 5) (w.extractLsb' 12 6) (w.extractLsb' 6 6) (w.extractLsb' 0 6))
  | 0x8 => .ok (.rret (w.extractLsb' 18 4))
  | 0x9 => .ok (.rwait (w.extractLsb' 17 7) (w.extractLsb' 10 7) (w.extractLsb' 0 4))
  | 0xA => .ok (.launch (w.extractLsb' 12 6) (w.extractLsb' 6 6) (w.extractLsb' 0 6))
  | 0xB => .ok .racq
  | 0xC => .ok (.brk (w.extractLsb' 18 6))
  | 0xD => .ok (.sbnd (w.extractLsb' 22 2) (w.extractLsb' 18 4) (w.extractLsb' 12 6) (w.extractLsb' 6 6))
  | _ => .error .illegalOpcode

/-- Opcodes 0xA0 to 0xAF of the map of R94. -/
def rawA (w : Word) : Except DecodeError Instr :=
  match (w.extractLsb' 24 4).toNat with
  | 0x0 => .ok (.ldN8 (w.extractLsb' 17 7) (w.extractLsb' 10 7) (w.extractLsb' 4 6) (w.extractLsb' 0 4))
  | 0x1 => .ok (.ldI8 (w.extractLsb' 17 7) (w.extractLsb' 10 7) (w.extractLsb' 4 6) (w.extractLsb' 0 4))
  | 0x2 => .ok (.ldN16 (w.extractLsb' 17 7) (w.extractLsb' 10 7) (w.extractLsb' 4 6) (w.extractLsb' 0 4))
  | 0x3 => .ok (.ldI16 (w.extractLsb' 17 7) (w.extractLsb' 10 7) (w.extractLsb' 4 6) (w.extractLsb' 0 4))
  | 0x4 => .ok (.ld32 (w.extractLsb' 17 7) (w.extractLsb' 10 7) (w.extractLsb' 4 6) (w.extractLsb' 0 4))
  | 0x5 => .ok (.ld64 (w.extractLsb' 17 7) (w.extractLsb' 10 7) (w.extractLsb' 4 6) (w.extractLsb' 0 4))
  | 0x6 => .ok (.ld128 (w.extractLsb' 17 7) (w.extractLsb' 10 7) (w.extractLsb' 4 6) (w.extractLsb' 0 4))
  | 0x7 => .ok (.st (w.extractLsb' 17 7) (w.extractLsb' 10 7) (w.extractLsb' 4 6) (w.extractLsb' 0 3))
  | 0x8 => .ok (.ldl32 (w.extractLsb' 17 7) (w.extractLsb' 10 7) (w.extractLsb' 4 6) (w.extractLsb' 0 4))
  | 0x9 => .ok (.ldl128 (w.extractLsb' 17 7) (w.extractLsb' 10 7) (w.extractLsb' 4 6) (w.extractLsb' 0 4))
  | 0xA => .ok (.stl (w.extractLsb' 17 7) (w.extractLsb' 10 7) (w.extractLsb' 4 6) (w.extractLsb' 0 3))
  | 0xB => .ok (.ldlQ (w.extractLsb' 17 7) (w.extractLsb' 10 7) (w.extractLsb' 8 1) (w.extractLsb' 7 1) (w.extractLsb' 4 3) (w.extractLsb' 0 4))
  | 0xC => .ok (.stlQ (w.extractLsb' 17 7) (w.extractLsb' 10 7) (w.extractLsb' 8 1) (w.extractLsb' 7 1) (w.extractLsb' 4 3))
  | 0xD => .ok (.ldc (w.extractLsb' 17 7) (w.extractLsb' 16 1) (w.extractLsb' 4 12) (w.extractLsb' 0 4))
  | 0xE => .ok (.sld (w.extractLsb' 17 7) (w.extractLsb' 16 1) (w.extractLsb' 10 6) (w.extractLsb' 4 6) (w.extractLsb' 0 4))
  | 0xF => .ok (.red (w.extractLsb' 17 7) (w.extractLsb' 10 7) (w.extractLsb' 4 6) (w.extractLsb' 0 4))
  | _ => .error .illegalOpcode

/-- Opcodes 0xB0 to 0xBF of the map of R94. -/
def rawB (w : Word) : Except DecodeError Instr :=
  match (w.extractLsb' 24 4).toNat with
  | 0x0 => .ok (.atomAdd (w.extractLsb' 17 7) (w.extractLsb' 10 7) (w.extractLsb' 4 6) (w.extractLsb' 0 4))
  | 0x1 => .ok (.atomMin (w.extractLsb' 17 7) (w.extractLsb' 10 7) (w.extractLsb' 4 6) (w.extractLsb' 0 4))
  | 0x2 => .ok (.atomMax (w.extractLsb' 17 7) (w.extractLsb' 10 7) (w.extractLsb' 4 6) (w.extractLsb' 0 4))
  | 0x3 => .ok (.atomMinn (w.extractLsb' 17 7) (w.extractLsb' 10 7) (w.extractLsb' 4 6) (w.extractLsb' 0 4))
  | 0x4 => .ok (.atomMaxn (w.extractLsb' 17 7) (w.extractLsb' 10 7) (w.extractLsb' 4 6) (w.extractLsb' 0 4))
  | 0x5 => .ok (.atomAnd (w.extractLsb' 17 7) (w.extractLsb' 10 7) (w.extractLsb' 4 6) (w.extractLsb' 0 4))
  | 0x6 => .ok (.atomOr (w.extractLsb' 17 7) (w.extractLsb' 10 7) (w.extractLsb' 4 6) (w.extractLsb' 0 4))
  | 0x7 => .ok (.atomXor (w.extractLsb' 17 7) (w.extractLsb' 10 7) (w.extractLsb' 4 6) (w.extractLsb' 0 4))
  | 0x8 => .ok (.atomSwap (w.extractLsb' 17 7) (w.extractLsb' 10 7) (w.extractLsb' 4 6) (w.extractLsb' 0 4))
  | 0x9 => .ok (.atomCas (w.extractLsb' 17 7) (w.extractLsb' 10 7) (w.extractLsb' 4 6) (w.extractLsb' 0 4))
  | 0xA => .ok (.atomInc (w.extractLsb' 17 7) (w.extractLsb' 10 7) (w.extractLsb' 4 6) (w.extractLsb' 0 4))
  | 0xB => .ok (.atomDec (w.extractLsb' 17 7) (w.extractLsb' 10 7) (w.extractLsb' 4 6) (w.extractLsb' 0 4))
  | 0xC => .ok (.atomFadd (w.extractLsb' 17 7) (w.extractLsb' 10 7) (w.extractLsb' 4 6) (w.extractLsb' 0 4))
  | 0xD => .ok (.atoml (w.extractLsb' 17 7) (w.extractLsb' 10 7) (w.extractLsb' 3 7))
  | _ => .error .illegalOpcode

/-- Opcodes 0xC0 to 0xCF of the map of R94. -/
def rawC (w : Word) : Except DecodeError Instr :=
  match (w.extractLsb' 24 4).toNat with
  | 0x0 => .ok (.cpy (w.extractLsb' 18 3) (w.extractLsb' 12 6) (w.extractLsb' 6 6) (w.extractLsb' 0 6))
  | 0x1 => .ok (.cpyz (w.extractLsb' 18 3) (w.extractLsb' 12 6) (w.extractLsb' 6 6) (w.extractLsb' 0 6))
  | 0x2 => .ok (.mrd (w.extractLsb' 21 1) (w.extractLsb' 18 3) (w.extractLsb' 12 6))
  | 0x3 => .ok (.mwait (w.extractLsb' 21 3) (w.extractLsb' 18 3) (w.extractLsb' 12 6))
  | 0x4 => .ok (.mstep (w.extractLsb' 21 3) (w.extractLsb' 18 3) (w.extractLsb' 12 6))
  | 0x5 => .ok (.fence (w.extractLsb' 21 2) (w.extractLsb' 18 3))
  | 0x6 => .ok (.pref (w.extractLsb' 18 1) (w.extractLsb' 12 6) (w.extractLsb' 6 6))
  | 0x7 => .ok (.cinv (w.extractLsb' 18 1) (w.extractLsb' 12 6) (w.extractLsb' 6 6))
  | 0x8 => .ok (.cwb (w.extractLsb' 18 1) (w.extractLsb' 12 6) (w.extractLsb' 6 6))
  | _ => .error .illegalOpcode

/-- Opcodes 0xD0 to 0xDF of the map of R94. -/
def rawD (w : Word) : Except DecodeError Instr :=
  match (w.extractLsb' 24 4).toNat with
  | 0x0 => .ok (.xatAdd (w.extractLsb' 17 7) (w.extractLsb' 10 7) (w.extractLsb' 4 6))
  | 0x1 => .ok (.xatRed (w.extractLsb' 17 7) (w.extractLsb' 10 7) (w.extractLsb' 4 6) (w.extractLsb' 0 4))
  | 0x2 => .ok (.xatRmw (w.extractLsb' 17 7) (w.extractLsb' 10 7) (w.extractLsb' 4 6) (w.extractLsb' 0 4))
  | 0x3 => .ok (.xatExpr (w.extractLsb' 18 3) (w.extractLsb' 12 6) (w.extractLsb' 6 6))
  | 0x4 => .ok (.xatFill (w.extractLsb' 18 3) (w.extractLsb' 12 6) (w.extractLsb' 6 6) (w.extractLsb' 0 6))
  | 0x5 => .ok (.xatCopy (w.extractLsb' 18 3) (w.extractLsb' 12 6) (w.extractLsb' 6 6) (w.extractLsb' 0 6))
  | 0x6 => .ok .xwait
  | 0x7 => .ok (.mqPut (w.extractLsb' 12 6) (w.extractLsb' 6 6) (w.extractLsb' 0 6))
  | 0x8 => .ok (.mqGet (w.extractLsb' 12 6) (w.extractLsb' 6 6) (w.extractLsb' 0 6))
  | 0x9 => .ok (.mred (w.extractLsb' 21 3) (w.extractLsb' 18 3) (w.extractLsb' 12 6) (w.extractLsb' 6 6))
  | 0xA => .ok (.mrelay (w.extractLsb' 18 3) (w.extractLsb' 12 6) (w.extractLsb' 6 6) (w.extractLsb' 0 6))
  | 0xB => .ok (.nput (w.extractLsb' 18 3) (w.extractLsb' 12 6) (w.extractLsb' 6 6))
  | 0xC => .ok (.nget (w.extractLsb' 18 3) (w.extractLsb' 12 6) (w.extractLsb' 6 6))
  | 0xD => .ok (.nsig (w.extractLsb' 18 3) (w.extractLsb' 12 6) (w.extractLsb' 6 6))
  | 0xE => if w.getLsbD 18 then .ok (.nwaitRd (w.extractLsb' 12 6) (w.extractLsb' 6 6)) else .ok (.nwait (w.extractLsb' 12 6) (w.extractLsb' 6 6))
  | _ => .error .illegalOpcode

/-- Opcodes 0xE0 to 0xEF of the map of R94. -/
def rawE (w : Word) : Except DecodeError Instr :=
  match (w.extractLsb' 24 4).toNat with
  | 0x0 => .ok (.mmaI8t2 (w.extractLsb' 17 7) (w.extractLsb' 10 7) (w.extractLsb' 4 6) (w.extractLsb' 0 4))
  | 0x1 => .ok (.mmaE4t2 (w.extractLsb' 17 7) (w.extractLsb' 10 7) (w.extractLsb' 4 6) (w.extractLsb' 0 4))
  | 0x2 => .ok (.mmaI8i4 (w.extractLsb' 17 7) (w.extractLsb' 10 7) (w.extractLsb' 4 6) (w.extractLsb' 0 4))
  | 0x3 => .ok (.mmaI8i8 (w.extractLsb' 17 7) (w.extractLsb' 10 7) (w.extractLsb' 4 6) (w.extractLsb' 0 4))
  | 0x4 => .ok (.mmaE4e4 (w.extractLsb' 17 7) (w.extractLsb' 10 7) (w.extractLsb' 4 6) (w.extractLsb' 0 4))
  | 0x5 => .ok (.mmaE4e5 (w.extractLsb' 17 7) (w.extractLsb' 10 7) (w.extractLsb' 4 6) (w.extractLsb' 0 4))
  | 0x6 => .ok (.mmaE5e4 (w.extractLsb' 17 7) (w.extractLsb' 10 7) (w.extractLsb' 4 6) (w.extractLsb' 0 4))
  | 0x7 => .ok (.mmaE5e5 (w.extractLsb' 17 7) (w.extractLsb' 10 7) (w.extractLsb' 4 6) (w.extractLsb' 0 4))
  | 0x8 => .ok (.mmaE2e2 (w.extractLsb' 17 7) (w.extractLsb' 10 7) (w.extractLsb' 4 6) (w.extractLsb' 0 4))
  | 0x9 => .ok (.mmaBf16 (w.extractLsb' 17 7) (w.extractLsb' 10 7) (w.extractLsb' 4 6) (w.extractLsb' 0 4))
  | 0xA => .ok (.mmaF16 (w.extractLsb' 17 7) (w.extractLsb' 10 7) (w.extractLsb' 4 6) (w.extractLsb' 0 4))
  | 0xB => .ok (.mmaBft2 (w.extractLsb' 17 7) (w.extractLsb' 10 7) (w.extractLsb' 4 6) (w.extractLsb' 0 4))
  | 0xC => .ok (.msa (w.extractLsb' 17 7) (w.extractLsb' 10 7) (w.extractLsb' 4 6) (w.extractLsb' 0 4))
  | 0xD => if w.getLsbD 22 then .ok .mzeroP else .ok (.mzero (w.extractLsb' 18 4))
  | 0xE => if w.getLsbD 16 then .ok (.mmovToTile (w.extractLsb' 17 7) (w.extractLsb' 10 4)) else .ok (.mmovToRegisters (w.extractLsb' 17 7) (w.extractLsb' 10 4) (w.extractLsb' 0 4))
  | 0xF => .ok (.mring (w.extractLsb' 18 4) (w.extractLsb' 12 6) (w.extractLsb' 6 6))
  | _ => .error .illegalOpcode

/-- Opcodes 0xF0 to 0xFF of the map of R94. -/
def rawF (w : Word) : Except DecodeError Instr :=
  match (w.extractLsb' 24 4).toNat with
  | 0x0 => .ok .ePop
  | 0x1 => .ok (.eSa (w.extractLsb' 18 2) (w.extractLsb' 12 6) (w.extractLsb' 6 6))
  | 0x2 => .ok (.eBias (w.extractLsb' 18 1) (w.extractLsb' 12 6))
  | 0x3 => .ok (.eAct (w.extractLsb' 18 3))
  | 0x4 => .ok (.eCvt (w.extractLsb' 21 3) (w.extractLsb' 18 3))
  | 0x5 => .ok (.eBnd (w.extractLsb' 18 4))
  | 0x6 => if w.getLsbD 18 then .ok (.eAst (w.extractLsb' 12 6) (w.extractLsb' 6 6) (w.extractLsb' 0 6)) else .ok (.eSt (w.extractLsb' 12 6) (w.extractLsb' 6 6) (w.extractLsb' 0 6))
  | 0x7 => match (w.extractLsb' 18 6).toNat with
    | 0 => .ok (.eArv (w.extractLsb' 12 6) (w.extractLsb' 6 6))
    | 1 => .ok (.eBr (w.extractLsb' 12 6) (w.extractLsb' 0 12))
    | 2 => .ok (.eWait (w.extractLsb' 12 6) (w.extractLsb' 6 6) (w.extractLsb' 0 6))
    | 3 => .ok .eEnd
    | _ => .error .illegalEncoding
  | 0x8 => .ok (.srd (w.extractLsb' 12 6) (w.extractLsb' 0 12))
  | 0x9 => match (w.extractLsb' 0 12).toNat with
    | 0x000 => .ok (.ctlModeWrite (w.extractLsb' 12 6))
    | 0x020 => .ok (.ctlCpyfltWrite (w.extractLsb' 12 6))
    | 0x022 => .ok (.ctlEstWrite (w.extractLsb' 12 6))
    | 0x040 => .ok (.ctlTcauseWrite (w.extractLsb' 12 6))
    | _ => .ok (.swr (w.extractLsb' 12 6) (w.extractLsb' 0 12))
  | 0xA => match (w.extractLsb' 18 6).toNat with
    | 0 => .ok (.clk (w.extractLsb' 12 6) (w.extractLsb' 6 1))
    | 1 => .ok (.sleep (w.extractLsb' 12 6))
    | _ => .error .illegalEncoding
  | 0xB => match (w.extractLsb' 23 1).toNat with
    | 0 => .ok (.id (w.extractLsb' 18 5) (w.extractLsb' 12 6))
    | _ => .ok (.dbg (w.extractLsb' 12 6) (w.extractLsb' 6 6) (w.extractLsb' 0 6))
  | 0xF => .ok (.endRun (w.extractLsb' 16 8) (w.extractLsb' 8 8) (w.extractLsb' 0 8))
  | _ => .error .illegalOpcode

/-- The instruction that a word's opcode, and where R94 shares an opcode its selector, point to; its fields cut out. -/
def raw (w : Word) : Except DecodeError Instr :=
  match (w.extractLsb' 28 4).toNat with
  | 0x0 => raw0 w
  | 0x1 => raw1 w
  | 0x2 => raw2 w
  | 0x3 => raw3 w
  | 0x4 => raw4 w
  | 0x5 => raw5 w
  | 0x6 => raw6 w
  | 0x7 => raw7 w
  | 0x8 => raw8 w
  | 0x9 => raw9 w
  | 0xA => rawA w
  | 0xB => rawB w
  | 0xC => rawC w
  | 0xD => rawD w
  | 0xE => rawE w
  | _ => rawF w

/-- The word of an instruction (R75, R94, R95); events have none. -/
def encode : Instr → Option Word
  | .nop => some (0x00#8 ++ 0x0#24)
  | .sadd d a b => some (0x01#8 ++ d ++ a ++ b ++ 0x0#3)
  | .ssub d a b => some (0x02#8 ++ d ++ a ++ b ++ 0x0#3)
  | .smul d a b => some (0x03#8 ++ d ++ a ++ b ++ 0x0#3)
  | .smulh d a b => some (0x04#8 ++ d ++ a ++ b ++ 0x0#3)
  | .smulhn d a b => some (0x05#8 ++ d ++ a ++ b ++ 0x0#3)
  | .sand d a b => some (0x06#8 ++ d ++ a ++ b ++ 0x0#3)
  | .sor d a b => some (0x07#8 ++ d ++ a ++ b ++ 0x0#3)
  | .sxor d a b => some (0x08#8 ++ d ++ a ++ b ++ 0x0#3)
  | .sshl d a b => some (0x09#8 ++ d ++ a ++ b ++ 0x0#3)
  | .sshr d a b => some (0x0A#8 ++ d ++ a ++ b ++ 0x0#3)
  | .ssra d a b => some (0x0B#8 ++ d ++ a ++ b ++ 0x0#3)
  | .smin d a b => some (0x0C#8 ++ d ++ a ++ b ++ 0x0#3)
  | .smax d a b => some (0x0D#8 ++ d ++ a ++ b ++ 0x0#3)
  | .sminn d a b => some (0x0E#8 ++ d ++ a ++ b ++ 0x0#3)
  | .smaxn d a b => some (0x0F#8 ++ d ++ a ++ b ++ 0x0#3)
  | .sclz d a => some (0x10#8 ++ d ++ a ++ 0x0#10)
  | .spopc d a => some (0x11#8 ++ d ++ a ++ 0x0#10)
  | .sbfe d a b s => some (0x12#8 ++ d ++ a ++ b ++ 0x0#2 ++ s)
  | .sbfi d a b => some (0x13#8 ++ d ++ a ++ b ++ 0x0#3)
  | .saddi d a i => some (0x14#8 ++ d ++ a ++ i)
  | .sandi d a i => some (0x15#8 ++ d ++ a ++ i)
  | .sori d a i => some (0x16#8 ++ d ++ a ++ i)
  | .sxori d a i => some (0x17#8 ++ d ++ a ++ i)
  | .sshli d a i => some (0x18#8 ++ d ++ a ++ 0x0#5 ++ i)
  | .sshri d a i => some (0x19#8 ++ d ++ a ++ 0x0#5 ++ i)
  | .smovi d i => some (0x1A#8 ++ d ++ 0x0#1 ++ i)
  | .smoviHi d i => some (0x1A#8 ++ d ++ 0x1#1 ++ i)
  | .sadd64 d a b => some (0x1B#8 ++ d ++ a ++ b ++ 0x0#3)
  | .ssub64 d a b => some (0x1C#8 ++ d ++ a ++ b ++ 0x0#3)
  | .sshf64 d a b x => some (0x1D#8 ++ d ++ a ++ b ++ x)
  | .scmp d a b c => some (0x1E#8 ++ d ++ a ++ b ++ c)
  | .ssel d a b => some (0x1F#8 ++ d ++ a ++ b ++ 0x0#3)
  | .vadd d a b x => some (0x20#8 ++ d ++ a ++ b ++ x)
  | .vsub d a b x => some (0x21#8 ++ d ++ a ++ b ++ x)
  | .vmul d a b x => some (0x22#8 ++ d ++ a ++ b ++ x)
  | .vmulh d a b => some (0x23#8 ++ d ++ a ++ b ++ 0x0#3)
  | .vfma d a b x => some (0x24#8 ++ d ++ a ++ b ++ x)
  | .vmin d a b => some (0x25#8 ++ d ++ a ++ b ++ 0x0#3)
  | .vmax d a b => some (0x26#8 ++ d ++ a ++ b ++ 0x0#3)
  | .vminp d a b => some (0x27#8 ++ d ++ a ++ b ++ 0x0#3)
  | .vmaxp d a b => some (0x28#8 ++ d ++ a ++ b ++ 0x0#3)
  | .vabs d a => some (0x29#8 ++ d ++ a ++ 0x0#10)
  | .vneg d a => some (0x2A#8 ++ d ++ a ++ 0x0#10)
  | .vand d a b => some (0x2B#8 ++ d ++ a ++ b ++ 0x0#3)
  | .vor d a b => some (0x2C#8 ++ d ++ a ++ b ++ 0x0#3)
  | .vxor d a b => some (0x2D#8 ++ d ++ a ++ b ++ 0x0#3)
  | .vnot d a => some (0x2E#8 ++ d ++ a ++ 0x0#10)
  | .vshl d a b => some (0x2F#8 ++ d ++ a ++ b ++ 0x0#3)
  | .vshr d a b => some (0x30#8 ++ d ++ a ++ b ++ 0x0#3)
  | .vsra d a b => some (0x31#8 ++ d ++ a ++ b ++ 0x0#3)
  | .vclz d a => some (0x32#8 ++ d ++ a ++ 0x0#10)
  | .vpopc d a => some (0x33#8 ++ d ++ a ++ 0x0#10)
  | .vbfe d a b s => some (0x34#8 ++ d ++ a ++ b ++ 0x0#2 ++ s)
  | .vbfi d a b => some (0x35#8 ++ d ++ a ++ b ++ 0x0#3)
  | .vdot4 d a b s => some (0x36#8 ++ d ++ a ++ b ++ 0x0#1 ++ s)
  | .vscale d a b x => some (0x37#8 ++ d ++ a ++ b ++ x)
  | .vfrac d a => some (0x38#8 ++ d ++ a ++ 0x0#10)
  | .vrnd d a x => some (0x39#8 ++ d ++ a ++ 0x0#7 ++ x)
  | .vclass d a => some (0x3A#8 ++ d ++ a ++ 0x0#10)
  | .vaddi d a i => some (0x40#8 ++ d ++ a ++ i)
  | .vmuli d a i => some (0x41#8 ++ d ++ a ++ i)
  | .vandi d a i => some (0x42#8 ++ d ++ a ++ i)
  | .vori d a i => some (0x43#8 ++ d ++ a ++ i)
  | .vxori d a i => some (0x44#8 ++ d ++ a ++ i)
  | .vshli d a i => some (0x45#8 ++ d ++ a ++ 0x0#3 ++ i)
  | .vshri d a i => some (0x46#8 ++ d ++ a ++ 0x0#3 ++ i)
  | .vsrai d a i => some (0x47#8 ++ d ++ a ++ 0x0#3 ++ i)
  | .vmini d a i => some (0x48#8 ++ d ++ a ++ i)
  | .vmaxi d a i => some (0x49#8 ++ d ++ a ++ i)
  | .vrcp d a => some (0x50#8 ++ d ++ a ++ 0x0#10)
  | .vrsq d a => some (0x51#8 ++ d ++ a ++ 0x0#10)
  | .vsqrt d a => some (0x52#8 ++ d ++ a ++ 0x0#10)
  | .vexp2 d a => some (0x53#8 ++ d ++ a ++ 0x0#10)
  | .vlog2 d a => some (0x54#8 ++ d ++ a ++ 0x0#10)
  | .vsin d a => some (0x55#8 ++ d ++ a ++ 0x0#10)
  | .vcos d a => some (0x56#8 ++ d ++ a ++ 0x0#10)
  | .vtanh d a => some (0x57#8 ++ d ++ a ++ 0x0#10)
  | .vsigm d a => some (0x58#8 ++ d ++ a ++ 0x0#10)
  | .verf d a => some (0x59#8 ++ d ++ a ++ 0x0#10)
  | .vcvt d a t r => some (0x5A#8 ++ d ++ a ++ t ++ r ++ 0x0#3)
  | .vpack d a x => some (0x5B#8 ++ d ++ a ++ 0x0#7 ++ x)
  | .vunpk d a x => some (0x5C#8 ++ d ++ a ++ 0x0#7 ++ x)
  | .vqblk d a b x => some (0x5D#8 ++ d ++ a ++ 0x0#5 ++ b ++ x)
  | .vcmp d a b c => some (0x60#8 ++ 0x0#4 ++ d ++ a ++ b ++ c)
  | .vcmpi d a i c => some (0x61#8 ++ 0x0#4 ++ d ++ a ++ i ++ c)
  | .pand d a b m n => some (0x62#8 ++ 0x0#4 ++ d ++ 0x0#4 ++ a ++ 0x0#4 ++ b ++ 0x0#1 ++ m ++ n)
  | .por d a b m n => some (0x63#8 ++ 0x0#4 ++ d ++ 0x0#4 ++ a ++ 0x0#4 ++ b ++ 0x0#1 ++ m ++ n)
  | .pxor d a b m n => some (0x64#8 ++ 0x0#4 ++ d ++ 0x0#4 ++ a ++ 0x0#4 ++ b ++ 0x0#1 ++ m ++ n)
  | .pmov d a n => some (0x65#8 ++ 0x0#4 ++ d ++ 0x0#4 ++ a ++ 0x0#9 ++ n)
  | .pmovV2p d a n => some (0x65#8 ++ 0x0#4 ++ d ++ a ++ 0x1#9 ++ n)
  | .pmovP2v d a n => some (0x65#8 ++ d ++ 0x0#4 ++ a ++ 0x2#9 ++ n)
  | .vsel d a b p => some (0x66#8 ++ d ++ a ++ b ++ p)
  | .vmov d a w => some (0x67#8 ++ d ++ a ++ 0x0#9 ++ w)
  | .vmovi d i => some (0x68#8 ++ d ++ i)
  | .vmovh d i => some (0x69#8 ++ d ++ 0x0#1 ++ i)
  | .vbcs d a w => some (0x6A#8 ++ d ++ a ++ 0x0#9 ++ w)
  | .vget d a b => some (0x6B#8 ++ d ++ a ++ b ++ 0x0#3)
  | .vput d a b => some (0x6C#8 ++ d ++ a ++ b ++ 0x0#3)
  | .vlid d w => some (0x6D#8 ++ d ++ 0x0#16 ++ w)
  | .vbnd d a n => some (0x6E#8 ++ d ++ a ++ 0x0#3 ++ n ++ 0x0#3)
  | .vshfl d a b w => some (0x70#8 ++ d ++ a ++ b ++ 0x0#1 ++ w ++ 0x0#1)
  | .vshfu d a b w u => some (0x71#8 ++ d ++ a ++ b ++ 0x0#1 ++ w ++ u)
  | .vshfd d a b w u => some (0x72#8 ++ d ++ a ++ b ++ 0x0#1 ++ w ++ u)
  | .vshfx d a b w u => some (0x73#8 ++ d ++ a ++ b ++ 0x0#1 ++ w ++ u)
  | .vote d n a x => some (0x74#8 ++ d ++ 0x0#3 ++ n ++ a ++ 0x0#7 ++ x)
  | .vred d a x => some (0x75#8 ++ d ++ a ++ 0x0#7 ++ x)
  | .vscan d a e x => some (0x76#8 ++ d ++ a ++ 0x0#6 ++ e ++ x)
  | .vmatch d a w => some (0x77#8 ++ d ++ a ++ 0x0#9 ++ w)
  | .width d => some (0x78#8 ++ d ++ 0x0#17)
  | .br o => some (0x80#8 ++ o)
  | .bra k n o => some (0x81#8 ++ k ++ n ++ o)
  | .brc c s o => some (0x82#8 ++ c ++ s ++ o)
  | .brx a b => some (0x83#8 ++ 0x0#7 ++ a ++ b ++ 0x0#3)
  | .brxU a => some (0x83#8 ++ 0x0#7 ++ a ++ 0x1#10)
  | .call o => some (0x84#8 ++ o)
  | .ret a => some (0x85#8 ++ 0x0#7 ++ a ++ 0x0#10)
  | .jarm j => some (0x86#8 ++ 0x0#4 ++ j ++ 0x0#18)
  | .jarv j => some (0x87#8 ++ 0x0#4 ++ j ++ 0x0#18)
  | .jwait j => some (0x88#8 ++ 0x0#4 ++ j ++ 0x0#18)
  | .jclr j => some (0x89#8 ++ 0x0#4 ++ j ++ 0x0#18)
  | .yield => some (0x8A#8 ++ 0x0#24)
  | .exit => some (0x8B#8 ++ 0x0#24)
  | .trap n => some (0x8C#8 ++ n ++ 0x0#18)
  | .tret => some (0x8D#8 ++ 0x0#24)
  | .mode d i => some (0x8E#8 ++ 0x0#2 ++ d ++ 0x0#3 ++ i)
  | .barInit a b => some (0x90#8 ++ 0x0#6 ++ a ++ b ++ 0x0#6)
  | .barArv a b c => some (0x91#8 ++ 0x0#6 ++ a ++ b ++ c)
  | .barWait a b c => some (0x92#8 ++ 0x0#6 ++ a ++ b ++ c)
  | .kbar => some (0x93#8 ++ 0x0#24)
  | .gbar => some (0x94#8 ++ 0x0#24)
  | .fork a b => some (0x95#8 ++ 0x0#6 ++ a ++ b ++ 0x0#6)
  | .rdv a => some (0x96#8 ++ 0x0#6 ++ a ++ 0x0#12)
  | .rcall n a b c => some (0x97#8 ++ 0x0#1 ++ n ++ a ++ b ++ c)
  | .rcallRetry n a b c => some (0x97#8 ++ 0x1#1 ++ n ++ a ++ b ++ c)
  | .rret n => some (0x98#8 ++ 0x0#2 ++ n ++ 0x0#18)
  | .rwait d a l => some (0x99#8 ++ d ++ a ++ 0x0#6 ++ l)
  | .launch a b c => some (0x9A#8 ++ 0x0#6 ++ a ++ b ++ c)
  | .racq => some (0x9B#8 ++ 0x0#24)
  | .brk n => some (0x9C#8 ++ n ++ 0x0#18)
  | .sbnd t n a b => some (0x9D#8 ++ t ++ n ++ a ++ b ++ 0x0#6)
  | .ldN8 d a s l => some (0xA0#8 ++ d ++ a ++ s ++ l)
  | .ldI8 d a s l => some (0xA1#8 ++ d ++ a ++ s ++ l)
  | .ldN16 d a s l => some (0xA2#8 ++ d ++ a ++ s ++ l)
  | .ldI16 d a s l => some (0xA3#8 ++ d ++ a ++ s ++ l)
  | .ld32 d a s l => some (0xA4#8 ++ d ++ a ++ s ++ l)
  | .ld64 d a s l => some (0xA5#8 ++ d ++ a ++ s ++ l)
  | .ld128 d a s l => some (0xA6#8 ++ d ++ a ++ s ++ l)
  | .st d a s z => some (0xA7#8 ++ d ++ a ++ s ++ 0x0#1 ++ z)
  | .ldl32 d a s l => some (0xA8#8 ++ d ++ a ++ s ++ l)
  | .ldl128 d a s l => some (0xA9#8 ++ d ++ a ++ s ++ l)
  | .stl d a s z => some (0xAA#8 ++ d ++ a ++ s ++ 0x0#1 ++ z)
  | .ldlQ d a f w q l => some (0xAB#8 ++ d ++ a ++ 0x0#1 ++ f ++ w ++ q ++ l)
  | .stlQ d a c w q => some (0xAC#8 ++ d ++ a ++ 0x0#1 ++ c ++ w ++ q ++ 0x0#4)
  | .ldc d p w l => some (0xAD#8 ++ d ++ p ++ w ++ l)
  | .sld d p a s l => some (0xAE#8 ++ d ++ p ++ a ++ s ++ l)
  | .red d a s o => some (0xAF#8 ++ d ++ a ++ s ++ o)
  | .atomAdd d a s l => some (0xB0#8 ++ d ++ a ++ s ++ l)
  | .atomMin d a s l => some (0xB1#8 ++ d ++ a ++ s ++ l)
  | .atomMax d a s l => some (0xB2#8 ++ d ++ a ++ s ++ l)
  | .atomMinn d a s l => some (0xB3#8 ++ d ++ a ++ s ++ l)
  | .atomMaxn d a s l => some (0xB4#8 ++ d ++ a ++ s ++ l)
  | .atomAnd d a s l => some (0xB5#8 ++ d ++ a ++ s ++ l)
  | .atomOr d a s l => some (0xB6#8 ++ d ++ a ++ s ++ l)
  | .atomXor d a s l => some (0xB7#8 ++ d ++ a ++ s ++ l)
  | .atomSwap d a s l => some (0xB8#8 ++ d ++ a ++ s ++ l)
  | .atomCas d a s l => some (0xB9#8 ++ d ++ a ++ s ++ l)
  | .atomInc d a s l => some (0xBA#8 ++ d ++ a ++ s ++ l)
  | .atomDec d a s l => some (0xBB#8 ++ d ++ a ++ s ++ l)
  | .atomFadd d a s l => some (0xBC#8 ++ d ++ a ++ s ++ l)
  | .atoml d a b => some (0xBD#8 ++ d ++ a ++ b ++ 0x0#3)
  | .cpy k a b c => some (0xC0#8 ++ 0x0#3 ++ k ++ a ++ b ++ c)
  | .cpyz k a b c => some (0xC1#8 ++ 0x0#3 ++ k ++ a ++ b ++ c)
  | .mrd i k a => some (0xC2#8 ++ 0x0#2 ++ i ++ k ++ a ++ 0x0#12)
  | .mwait o k a => some (0xC3#8 ++ o ++ k ++ a ++ 0x0#12)
  | .mstep o k a => some (0xC4#8 ++ o ++ k ++ a ++ 0x0#12)
  | .fence o s => some (0xC5#8 ++ 0x0#1 ++ o ++ s ++ 0x0#18)
  | .pref v a b => some (0xC6#8 ++ 0x0#5 ++ v ++ a ++ b ++ 0x0#6)
  | .cinv v a b => some (0xC7#8 ++ 0x0#5 ++ v ++ a ++ b ++ 0x0#6)
  | .cwb v a b => some (0xC8#8 ++ 0x0#5 ++ v ++ a ++ b ++ 0x0#6)
  | .xatAdd d a s => some (0xD0#8 ++ d ++ a ++ s ++ 0x0#4)
  | .xatRed d a s o => some (0xD1#8 ++ d ++ a ++ s ++ o)
  | .xatRmw d a s l => some (0xD2#8 ++ d ++ a ++ s ++ l)
  | .xatExpr k a b => some (0xD3#8 ++ 0x0#3 ++ k ++ a ++ b ++ 0x0#6)
  | .xatFill k a b c => some (0xD4#8 ++ 0x0#3 ++ k ++ a ++ b ++ c)
  | .xatCopy k a b c => some (0xD5#8 ++ 0x0#3 ++ k ++ a ++ b ++ c)
  | .xwait => some (0xD6#8 ++ 0x0#24)
  | .mqPut a b c => some (0xD7#8 ++ 0x0#6 ++ a ++ b ++ c)
  | .mqGet a b c => some (0xD8#8 ++ 0x0#6 ++ a ++ b ++ c)
  | .mred o k a b => some (0xD9#8 ++ o ++ k ++ a ++ b ++ 0x0#6)
  | .mrelay k a b c => some (0xDA#8 ++ 0x0#3 ++ k ++ a ++ b ++ c)
  | .nput k a b => some (0xDB#8 ++ 0x0#3 ++ k ++ a ++ b ++ 0x0#6)
  | .nget k a b => some (0xDC#8 ++ 0x0#3 ++ k ++ a ++ b ++ 0x0#6)
  | .nsig k a b => some (0xDD#8 ++ 0x0#3 ++ k ++ a ++ b ++ 0x0#6)
  | .nwait a b => some (0xDE#8 ++ 0x0#6 ++ a ++ b ++ 0x0#6)
  | .nwaitRd a b => some (0xDE#8 ++ 0x1#6 ++ a ++ b ++ 0x0#6)
  | .mmaI8t2 d a s l => some (0xE0#8 ++ d ++ a ++ s ++ l)
  | .mmaE4t2 d a s l => some (0xE1#8 ++ d ++ a ++ s ++ l)
  | .mmaI8i4 d a s l => some (0xE2#8 ++ d ++ a ++ s ++ l)
  | .mmaI8i8 d a s l => some (0xE3#8 ++ d ++ a ++ s ++ l)
  | .mmaE4e4 d a s l => some (0xE4#8 ++ d ++ a ++ s ++ l)
  | .mmaE4e5 d a s l => some (0xE5#8 ++ d ++ a ++ s ++ l)
  | .mmaE5e4 d a s l => some (0xE6#8 ++ d ++ a ++ s ++ l)
  | .mmaE5e5 d a s l => some (0xE7#8 ++ d ++ a ++ s ++ l)
  | .mmaE2e2 d a s l => some (0xE8#8 ++ d ++ a ++ s ++ l)
  | .mmaBf16 d a s l => some (0xE9#8 ++ d ++ a ++ s ++ l)
  | .mmaF16 d a s l => some (0xEA#8 ++ d ++ a ++ s ++ l)
  | .mmaBft2 d a s l => some (0xEB#8 ++ d ++ a ++ s ++ l)
  | .msa d a s l => some (0xEC#8 ++ d ++ a ++ s ++ l)
  | .mzero t => some (0xED#8 ++ 0x0#2 ++ t ++ 0x0#18)
  | .mzeroP => some (0xED#8 ++ 0x400000#24)
  | .mmovToRegisters d t l => some (0xEE#8 ++ d ++ 0x0#3 ++ t ++ 0x0#6 ++ l)
  | .mmovToTile d t => some (0xEE#8 ++ d ++ 0x4#3 ++ t ++ 0x0#10)
  | .mring t a b => some (0xEF#8 ++ 0x0#2 ++ t ++ a ++ b ++ 0x0#6)
  | .ePop => some (0xF0#8 ++ 0x0#24)
  | .eSa o a b => some (0xF1#8 ++ 0x0#4 ++ o ++ a ++ b ++ 0x0#6)
  | .eBias r a => some (0xF2#8 ++ 0x0#5 ++ r ++ a ++ 0x0#12)
  | .eAct f => some (0xF3#8 ++ 0x0#3 ++ f ++ 0x0#18)
  | .eCvt r t => some (0xF4#8 ++ r ++ t ++ 0x0#18)
  | .eBnd n => some (0xF5#8 ++ 0x0#2 ++ n ++ 0x0#18)
  | .eSt a b c => some (0xF6#8 ++ 0x0#6 ++ a ++ b ++ c)
  | .eAst a b c => some (0xF6#8 ++ 0x1#6 ++ a ++ b ++ c)
  | .eArv a b => some (0xF7#8 ++ 0x0#6 ++ a ++ b ++ 0x0#6)
  | .eBr a o => some (0xF7#8 ++ 0x1#6 ++ a ++ o)
  | .eWait a b c => some (0xF7#8 ++ 0x2#6 ++ a ++ b ++ c)
  | .eEnd => some (0xF7#8 ++ 0xC0000#24)
  | .srd a n => some (0xF8#8 ++ 0x0#6 ++ a ++ n)
  | .swr a n => some (0xF9#8 ++ 0x0#6 ++ a ++ n)
  | .ctlModeWrite a => some (0xF9#8 ++ 0x0#6 ++ a ++ 0x0#12)
  | .ctlCpyfltWrite a => some (0xF9#8 ++ 0x0#6 ++ a ++ 0x20#12)
  | .ctlEstWrite a => some (0xF9#8 ++ 0x0#6 ++ a ++ 0x22#12)
  | .ctlTcauseWrite a => some (0xF9#8 ++ 0x0#6 ++ a ++ 0x40#12)
  | .clk a c => some (0xFA#8 ++ 0x0#6 ++ a ++ 0x0#5 ++ c ++ 0x0#6)
  | .sleep a => some (0xFA#8 ++ 0x1#6 ++ a ++ 0x0#12)
  | .id s a => some (0xFB#8 ++ 0x0#1 ++ s ++ a ++ 0x0#12)
  | .dbg a b c => some (0xFB#8 ++ 0x3F#6 ++ a ++ b ++ c)
  | .endRun a b c => some (0xFF#8 ++ a ++ b ++ c)
  | _ => none

/-- The instruction a word encodes, or why it encodes none (R96). -/
def decode (w : Word) : Except DecodeError Instr :=
  match raw w with
  | .error e => .error e
  | .ok i => if encode i = some w ∧ wellFormed i = true then .ok i else .error .illegalEncoding

/-- A word from its four bytes in memory order, lowest address first (R8, R74). -/
def wordOfBytes (b0 b1 b2 b3 : Byte) : Word := b3 ++ b2 ++ b1 ++ b0

/-- Byte k of a word as it lies in memory (R8). -/
def byteOfWord (w : Word) (k : Nat) : Byte := w.extractLsb' (8 * k) 8

/-- Decoding any bytes: the instruction of the first four and what follows it, or a rejection by name. -/
def decodeBytes : List Byte → Except DecodeError (Instr × List Byte)
  | b0 :: b1 :: b2 :: b3 :: rest =>
    match decode (wordOfBytes b0 b1 b2 b3) with
    | .ok i => .ok (i, rest)
    | .error e => .error e
  | _ => .error .illegalEncoding

/-- What the decoder reads from an opcode-table word: one 32-bit word, laid out little-endian. -/
def decodeTableWord (nbits w : Nat) : Option Instr :=
  if nbits ≤ 32 then
    let x : Word := BitVec.ofNat 32 w
    match decodeBytes [byteOfWord x 0, byteOfWord x 1, byteOfWord x 2, byteOfWord x 3] with
    | .ok (i, _) => some i
    | .error _ => none
  else none

end Sys2Proof
end

