-- ==== Sys2Proof/Machine/Store.lean ====
section
/-! DEFINITION. Sparse stores in one canonical form: tables sorted by key, and memories of bytes in which an
unlisted address reads as zero (DESIGN CHOICE, log entry 7) and a listed byte is never zero. -/

namespace Sys2Proof.Machine

/-- A table: keys strictly rising. -/
abbrev Tab (α : Type) := List (Nat × α)

/-- The value a table holds at a key. -/
def Tab.get? {α : Type} (t : Tab α) (k : Nat) : Option α :=
  match t with
  | [] => none
  | (a, v) :: rest => if a = k then some v else Tab.get? rest k

/-- The value at a key, or a given one where the key is absent. -/
def Tab.getD {α : Type} (t : Tab α) (k : Nat) (d : α) : α := (Tab.get? t k).getD d

/-- A table with a key set, the order of keys kept. -/
def Tab.put {α : Type} (t : Tab α) (k : Nat) (v : α) : Tab α :=
  match t with
  | [] => [(k, v)]
  | (a, w) :: rest =>
    if a < k then (a, w) :: Tab.put rest k v
    else if a = k then (k, v) :: rest
    else (k, v) :: (a, w) :: rest

/-- A table without a key. -/
def Tab.del {α : Type} (t : Tab α) (k : Nat) : Tab α := t.filter fun p => p.1 ≠ k

/-- A table with the value at a key changed, where the key is present. -/
def Tab.upd {α : Type} (t : Tab α) (k : Nat) (f : α → α) : Tab α :=
  match t with
  | [] => []
  | (a, v) :: rest => if a = k then (a, f v) :: rest else (a, v) :: Tab.upd rest k f

/-- A table with every value changed. -/
def Tab.mapVal {α : Type} (t : Tab α) (f : α → α) : Tab α := t.map fun p => (p.1, f p.2)

/-- The lowest key above every key in use. -/
def Tab.fresh {α : Type} (t : Tab α) : Nat := t.foldl (fun m p => max m (p.1 + 1)) 0

/-- A memory of bytes (Host.Cell), addresses strictly rising and no zero byte listed. -/
abbrev Mem := List Host.Cell

/-- The byte at an address; an unlisted address reads as zero (DESIGN CHOICE, log entry 7). -/
def Mem.byte (m : Mem) (a : Nat) : Byte :=
  match m with
  | [] => 0
  | (b, v) :: rest => if b = a then v else if a < b then 0 else Mem.byte rest a

/-- One byte written; writing zero removes the entry. -/
def Mem.write (m : Mem) (a : Nat) (v : Byte) : Mem :=
  match m with
  | [] => if v = 0 then [] else [(a, v)]
  | (b, w) :: rest =>
    if b < a then (b, w) :: Mem.write rest a v
    else if b = a then (if v = 0 then rest else (a, v) :: rest)
    else if v = 0 then (b, w) :: rest else (a, v) :: (b, w) :: rest

/-- Consecutive bytes from an address. -/
def Mem.bytes (m : Mem) (a n : Nat) : List Byte := (List.range n).map fun i => Mem.byte m (a + i)

/-- Consecutive bytes written from an address upward. -/
def Mem.writeBytes (m : Mem) (a : Nat) : List Byte → Mem
  | [] => m
  | b :: rest => Mem.writeBytes (Mem.write m a b) (a + 1) rest

/-- The canonical form of a memory. -/
def Mem.wf : Mem → Bool
  | [] => true
  | [(_, v)] => v != 0
  | (a, v) :: (b, w) :: rest => decide (a < b) && v != 0 && Mem.wf ((b, w) :: rest)

/-- Little-endian value of bytes, lowest address first (R8). -/
def leNat : List Byte → Nat
  | [] => 0
  | b :: rest => b.toNat + 256 * leNat rest

/-- The n bytes of a value, lowest address first (R8). -/
def leBytes : Nat → Nat → List Byte
  | 0, _ => []
  | n + 1, v => BitVec.ofNat 8 v :: leBytes n (v / 256)

/-- A little-endian number of n bytes read from memory. -/
def Mem.le (m : Mem) (a n : Nat) : Nat := leNat (Mem.bytes m a n)

/-- A list with the element at a position replaced. -/
def setAt {α : Type} (l : List α) (i : Nat) (v : α) : List α := l.set i v

/-- A list with the element at a position changed. -/
def updAt {α : Type} (l : List α) (i : Nat) (f : α → α) : List α := l.modify i f

end Sys2Proof.Machine
end

