-- ==== Sys2Proof/Machine/Flags.lean ====
section
/-! DEFINITION. The sticky status bits of CTL_FPST and how an instruction earns them (03_numbers R65, R66). -/

namespace Sys2Proof.Machine

/-- The status bits an operation sets (R65). -/
structure Flags where
  nv : Bool := false
  ov : Bool := false
  fz : Bool := false
  deriving DecidableEq, Repr

/-- No bit. -/
def noFlags : Flags := {}

/-- NV alone. -/
def flagNv : Flags := { nv := true }

/-- OV alone. -/
def flagOv : Flags := { ov := true }

/-- FZ alone. -/
def flagFz : Flags := { fz := true }

/-- NV where a condition holds. -/
def nvIf (b : Bool) : Flags := { nv := b }

/-- Both sets of bits. -/
def orFlags (a b : Flags) : Flags := { nv := a.nv || b.nv, ov := a.ov || b.ov, fz := a.fz || b.fz }

/-- The bits of all operations of an instruction (R66: set once, whichever lanes earned them). -/
def allFlags (l : List Flags) : Flags := l.foldl orFlags noFlags

/-- The bits in CTL_FPST's places: NV 2, OV 1, FZ 0 (R65). -/
def flagsWord (f : Flags) : Word :=
  (if f.nv then 4 else 0) ||| (if f.ov then 2 else 0) ||| (if f.fz then 1 else 0)

/-- CTL_FPST after an instruction: the bits are sticky (R65). -/
def stickyFlags (fpst : Word) (f : Flags) : Word := fpst ||| flagsWord f

end Sys2Proof.Machine
end

