-- ==== Sys2Proof/Machine/Numbers.lean ====
section
/-! DEFINITION. Number formats, rounding, saturation and exact arithmetic (03_numbers R51 to R73). -/

namespace Sys2Proof.Machine

/-- The floating-point formats (R51, R54). -/
inductive Fmt where
  | f32 | f16 | bf16 | e4m3 | e5m2 | e2m1
  deriving DecidableEq, Repr

/-- An exact value: a finite number (-1)^neg × m × 2^e, an infinity, or a NaN that may be signalling. -/
inductive Num where
  | fin (neg : Bool) (m : Nat) (e : Int)
  | inf (neg : Bool)
  | nan (sig : Bool)
  deriving DecidableEq, Repr

/-- The rounding modes (R59). -/
inductive Rnd where
  | rne | rtz | rdn | rup | rna | sr
  deriving DecidableEq, Repr

/-- The mode of a rounding code; 0 selects RNE (R59). -/
def rndOfCode (c : Nat) : Rnd :=
  match c with
  | 2 => .rtz
  | 3 => .rdn
  | 4 => .rup
  | 5 => .rna
  | 6 => .sr
  | _ => .rne

/-- Width in bits. -/
def fmtBits : Fmt → Nat
  | .f32 => 32 | .f16 => 16 | .bf16 => 16 | .e4m3 => 8 | .e5m2 => 8 | .e2m1 => 4

/-- Fraction width mb. -/
def fmtMb : Fmt → Nat
  | .f32 => 23 | .f16 => 10 | .bf16 => 7 | .e4m3 => 3 | .e5m2 => 2 | .e2m1 => 1

/-- Exponent field width. -/
def fmtEb : Fmt → Nat
  | .f32 => 8 | .f16 => 5 | .bf16 => 8 | .e4m3 => 4 | .e5m2 => 5 | .e2m1 => 2

/-- Exponent bias. -/
def fmtBias : Fmt → Int
  | .f32 => 127 | .f16 => 15 | .bf16 => 127 | .e4m3 => 7 | .e5m2 => 15 | .e2m1 => 1

/-- The formats with infinities and NaNs (R51, R54). -/
def fmtWide : Fmt → Bool
  | .f32 => true | .f16 => true | .bf16 => true | .e4m3 => false | .e5m2 => false | .e2m1 => false

/-- emin = 1 - bias. -/
def fmtEmin (f : Fmt) : Int := 1 - fmtBias f

/-- The exponent of the unit of the largest finite magnitude. -/
def fmtTopExp (f : Fmt) : Int :=
  (2 ^ fmtEb f - (if fmtWide f then 2 else 1) : Nat) - fmtBias f - fmtMb f

/-- The integer significand of the largest finite magnitude. -/
def fmtTopSig (f : Fmt) : Nat := 2 ^ (fmtMb f + 1) - 1

/-- The largest finite value with a sign, maxf (R62, R63). -/
def maxf (f : Fmt) (neg : Bool) : Num := .fin neg (fmtTopSig f) (fmtTopExp f)

/-- m × 2^e compared with k × 2^g, both magnitudes. -/
def magLt (m : Nat) (e : Int) (k : Nat) (g : Int) : Bool :=
  if e ≤ g then decide (m < k <<< (g - e).toNat) else decide (m <<< (e - g).toNat < k)

/-- decode: the exact value of a code (R51, R54, R55). -/
def decodeNum (f : Fmt) (code : Nat) : Num :=
  let mb := fmtMb f
  let fr := code % 2 ^ mb
  let ex := code / 2 ^ mb % 2 ^ fmtEb f
  let neg := code / 2 ^ (fmtBits f - 1) % 2 == 1
  if fmtWide f && ex == 2 ^ fmtEb f - 1 then
    if fr = 0 then .inf neg else .nan (fr < 2 ^ (mb - 1))
  else if ex = 0 then .fin neg fr (fmtEmin f - mb)
  else .fin neg (2 ^ mb + fr) (ex - fmtBias f - mb)

/-- canon_nan (R51). -/
def canonNan (f : Fmt) : Nat := (2 ^ fmtEb f - 1) * 2 ^ fmtMb f + 2 ^ (fmtMb f - 1)

/-- encode: the code of an exact value of the format (R63); a NaN gives the canonical NaN. -/
def encodeNum (f : Fmt) (x : Num) : Nat :=
  let mb := fmtMb f
  let top := 2 ^ (fmtBits f - 1)
  match x with
  | .nan _ => canonNan f
  | .inf neg => (if neg then top else 0) + (2 ^ fmtEb f - 1) * 2 ^ mb
  | .fin neg m e =>
    let s := if neg then top else 0
    if m = 0 then s
    else
      let ee := max ((Nat.log2 m : Int) + e) (fmtEmin f)
      let q := ee - mb
      let n := if q ≤ e then m <<< (e - q).toNat else m >>> (q - e).toNat
      if n < 2 ^ mb then s + n
      else s + (ee + fmtBias f).toNat * 2 ^ mb + (n - 2 ^ mb)

/-- Whether a floor n with fraction r / 2^k rounds up (R60). -/
def roundUp (rm : Rnd) (neg : Bool) (n r k : Nat) (bits : Nat) : Bool :=
  match rm with
  | .rne => decide (2 ^ k < 2 * r) || (decide (2 * r = 2 ^ k) && n % 2 == 1)
  | .rna => decide (2 ^ k ≤ 2 * r)
  | .rtz => false
  | .rdn => decide (0 < r) && neg
  | .rup => decide (0 < r) && !neg
  | .sr => decide (2 ^ 16 ≤ r * 2 ^ 16 / 2 ^ k + bits)

/-- m × 2^e at spacing 2^q: the integer n + up of R60. -/
def roundAt (rm : Rnd) (neg : Bool) (m : Nat) (e q : Int) (bits : Nat) : Nat :=
  if q ≤ e then m <<< (e - q).toNat
  else
    let k := (q - e).toNat
    let n := m >>> k
    n + (if roundUp rm neg n (m % 2 ^ k) k bits then 1 else 0)

/-- round_fmt of a finite value (R60); bits is sr_bits() under SR. -/
def roundFmt (f : Fmt) (rm : Rnd) (neg : Bool) (m : Nat) (e : Int) (bits : Nat) : Num :=
  if m = 0 then .fin neg 0 0
  else
    let q := max ((Nat.log2 m : Int) + e) (fmtEmin f) - fmtMb f
    .fin neg (roundAt rm neg m e q bits) q

/-- to_wide (R62). -/
def toWide (f : Fmt) (x : Num) (rm : Rnd) (sat ftz : Bool) (bits : Nat) : Num × Flags :=
  match x with
  | .nan _ => (.nan false, noFlags)
  | .inf n => (.inf n, noFlags)
  | .fin neg m e =>
    match roundFmt f rm neg m e bits with
    | .fin _ n q =>
      if magLt (fmtTopSig f) (fmtTopExp f) n q then
        if sat then (maxf f neg, flagOv)
        else if rm = .rtz ∨ (rm = .rdn ∧ neg = false) ∨ (rm = .rup ∧ neg = true) then (maxf f neg, noFlags)
        else (.inf neg, noFlags)
      else if ftz ∧ n ≠ 0 ∧ magLt n q 1 (fmtEmin f) then (.fin neg 0 0, flagFz)
      else (.fin neg n q, noFlags)
    | y => (y, noFlags)

/-- sat_narrow (R63). -/
def satNarrow (f : Fmt) (x : Num) (rm : Rnd) (bits : Nat) : Num × Flags :=
  match x with
  | .nan _ => (.fin false 0 0, flagNv)
  | .inf neg => (maxf f neg, flagOv)
  | .fin neg m e =>
    match roundFmt f rm neg m e bits with
    | .fin _ n q =>
      if magLt (fmtTopSig f) (fmtTopExp f) n q then (maxf f neg, flagOv) else (.fin neg n q, noFlags)
    | y => (y, noFlags)

/-- fit_int for a type of w bits, signed or natural: the code, and OV where saturated (R64). -/
def fitInt (w : Nat) (signed : Bool) (x : Int) (sat : Bool) : Nat × Flags :=
  let hi : Int := if signed then 2 ^ (w - 1) - 1 else 2 ^ w - 1
  let lo : Int := if signed then -(2 ^ (w - 1)) else 0
  if sat ∧ x > hi then ((hi % 2 ^ w).toNat, flagOv)
  else if sat ∧ x < lo then ((lo % 2 ^ w).toNat, flagOv)
  else ((x % 2 ^ w).toNat, noFlags)

/-- The integer a code of w bits stands for (R56). -/
def intOf (w : Nat) (signed : Bool) (code : Nat) : Int :=
  if signed && decide (2 ^ (w - 1) ≤ code % 2 ^ w) then (code % 2 ^ w : Nat) - 2 ^ w else (code % 2 ^ w : Nat)

/-- A signed integer as an exact value. -/
def numOfInt (x : Int) : Num := .fin (decide (x < 0)) x.natAbs 0

/-- A floating-point value to an integer type (R64): unit spacing, NaN to 0 with NV, out of range to an end with OV. -/
def numToInt (w : Nat) (signed : Bool) (x : Num) (rm : Rnd) (bits : Nat) : Nat × Flags :=
  match x with
  | .nan _ => (0, flagNv)
  | .inf neg => ((fitInt w signed (if neg then -(2 ^ (w + 1)) else 2 ^ (w + 1)) true).1, flagOv)
  | .fin neg m e =>
    let n := roundAt rm neg m e 0 bits
    fitInt w signed (if neg then -(n : Int) else n) true

/-- Is the value a NaN. -/
def Num.isNan : Num → Bool
  | .nan _ => true
  | .fin _ _ _ => false
  | .inf _ => false

/-- Is the value a signalling NaN. -/
def Num.isSig : Num → Bool
  | .nan s => s
  | .fin _ _ _ => false
  | .inf _ => false

/-- Is the value an infinity. -/
def Num.isInf : Num → Bool
  | .inf _ => true
  | .fin _ _ _ => false
  | .nan _ => false

/-- Is the value a zero. -/
def Num.isZero : Num → Bool
  | .fin _ m _ => m == 0
  | .inf _ => false
  | .nan _ => false

/-- The sign bit, set for −0. -/
def Num.neg : Num → Bool
  | .fin n _ _ => n
  | .inf n => n
  | .nan _ => false

/-- Negation. -/
def Num.negate : Num → Num
  | .fin n m e => .fin (!n) m e
  | .inf n => .inf (!n)
  | .nan s => .nan s

/-- Magnitude. -/
def Num.abs : Num → Num
  | .fin _ m e => .fin false m e
  | .inf _ => .inf false
  | .nan s => .nan s

/-- The signed significand at exponent g, for g at most e. -/
def scaled (neg : Bool) (m : Nat) (e g : Int) : Int :=
  let a : Int := (m <<< (e - g).toNat : Nat)
  if neg then -a else a

/-- Exact addition with the special operands of R109; an exact zero takes IEEE 754's sign under rm. -/
def addNum (x y : Num) (rm : Rnd) : Num × Flags :=
  match x, y with
  | .nan _, _ => (.nan false, noFlags)
  | _, .nan _ => (.nan false, noFlags)
  | .inf a, .inf b => if a = b then (.inf a, noFlags) else (.nan false, flagNv)
  | .inf a, .fin _ _ _ => (.inf a, noFlags)
  | .fin _ _ _, .inf b => (.inf b, noFlags)
  | .fin a m e, .fin b n g =>
    if m = 0 ∧ n = 0 then (.fin (if a = b then a else decide (rm = .rdn)) 0 0, noFlags)
    else if m = 0 then (.fin b n g, noFlags)
    else if n = 0 then (.fin a m e, noFlags)
    else
      let h := min e g
      let v := scaled a m e h + scaled b n g h
      if v = 0 then (.fin (decide (rm = .rdn)) 0 0, noFlags) else (.fin (decide (v < 0)) v.natAbs h, noFlags)

/-- Exact multiplication; 0 × ∞ is NaN with NV (R109). -/
def mulNum (x y : Num) : Num × Flags :=
  match x, y with
  | .nan _, _ => (.nan false, noFlags)
  | _, .nan _ => (.nan false, noFlags)
  | .inf a, .inf b => (.inf (a != b), noFlags)
  | .inf a, .fin b m _ => if m = 0 then (.nan false, flagNv) else (.inf (a != b), noFlags)
  | .fin a m _, .inf b => if m = 0 then (.nan false, flagNv) else (.inf (a != b), noFlags)
  | .fin a m e, .fin b n g => (.fin (a != b) (m * n) (e + g), noFlags)

/-- x × y + z, exact: a product 0 × ∞ sets NV whatever the addend (R109). -/
def fmaNum (x y z : Num) (rm : Rnd) : Num × Flags :=
  let p := mulNum x y
  let r := addNum p.1 z rm
  (r.1, orFlags p.2 r.2)

/-- The product with 2^n (R123, R70). -/
def scaleNum (x : Num) (n : Int) : Num :=
  match x with
  | .fin s m e => .fin s m (e + n)
  | .inf s => .inf s
  | .nan s => .nan s

/-- x < y for numbers that are not NaN, −0 equal to +0. -/
def ltNum (x y : Num) : Bool :=
  match x, y with
  | .nan _, _ => false
  | _, .nan _ => false
  | .inf a, .inf b => a && !b
  | .inf a, .fin _ _ _ => a
  | .fin _ _ _, .inf b => !b
  | .fin a m e, .fin b n g => let h := min e g; decide (scaled a m e h < scaled b n g h)

/-- x = y as numbers, −0 equal to +0; false for a NaN. -/
def eqNum (x y : Num) : Bool :=
  match x, y with
  | .nan _, _ => false
  | _, .nan _ => false
  | .inf a, .inf b => a == b
  | .inf _, .fin _ _ _ => false
  | .fin _ _ _, .inf _ => false
  | .fin a m e, .fin b n g => let h := min e g; decide (scaled a m e h = scaled b n g h)

/-- The order of R67: −0 below +0. -/
def ltTotal (x y : Num) : Bool := ltNum x y || (eqNum x y && x.neg && !y.neg)

/-- Which operand min_num, max_num, min_nan and max_nan of R67 pick: the first, the second, or the canonical NaN. -/
inductive Pick where
  | first | second | nan
  deriving DecidableEq, Repr

/-- min_num and max_num when prop is false, min_nan and max_nan when it is true (R67). -/
def pickNum (max prop : Bool) (x y : Num) : Pick :=
  if x.isNan && y.isNan then .nan
  else if x.isNan then (if prop then .nan else .second)
  else if y.isNan then (if prop then .nan else .first)
  else if max then (if ltTotal x y then .second else .first)
  else (if ltTotal y x then .second else .first)

/-- The class mask of R124, of a code read without flush. -/
def classOf (f : Fmt) (code : Nat) : Nat :=
  match decodeNum f code with
  | .inf true => 1
  | .inf false => 128
  | .nan false => 256
  | .nan true => 512
  | .fin neg m e =>
    if m = 0 then (if neg then 8 else 16)
    else if magLt m e 1 (fmtEmin f) then (if neg then 4 else 32)
    else (if neg then 2 else 64)

/-- An operand as fp_in reads it: a signalling NaN sets NV, a subnormal of a wide format is flushed under FTZ (R53, R109). -/
def readNum (f : Fmt) (ftz : Bool) (code : Nat) : Num × Flags :=
  match decodeNum f code with
  | .nan s => (.nan s, nvIf s)
  | .inf n => (.inf n, noFlags)
  | .fin n m e =>
    if ftz && fmtWide f && m != 0 && magLt m e 1 (fmtEmin f) then (.fin n 0 0, flagFz)
    else (.fin n m e, noFlags)

/-- A result as fp_out writes it: sat_narrow for a narrow format, to_wide otherwise (R109). -/
def writeNum (f : Fmt) (x : Num) (rm : Rnd) (sat ftz : Bool) (bits : Nat) : Nat × Flags :=
  let r := if fmtWide f then toWide f x rm sat ftz bits else satNarrow f x rm bits
  (encodeNum f r.1, r.2)

/-- x − floor(x) (R123); ±∞ gives NaN with NV, an exact zero result takes the sign of x. -/
def fracNum (x : Num) : Num × Flags :=
  match x with
  | .nan _ => (.nan false, noFlags)
  | .inf _ => (.nan false, flagNv)
  | .fin neg m e =>
    if 0 ≤ e then (.fin neg 0 0, noFlags)
    else
      let k := (-e).toNat
      let r := m % 2 ^ k
      if r = 0 then (.fin neg 0 0, noFlags)
      else if neg then (.fin false (2 ^ k - r) e, noFlags) else (.fin false r e, noFlags)

/-- x rounded to an integral value (R123); a zero result keeps the sign of x. -/
def rintNum (x : Num) (rm : Rnd) (bits : Nat) : Num :=
  match x with
  | .nan s => .nan s
  | .inf n => .inf n
  | .fin neg m e => if 0 ≤ e then .fin neg m e else .fin neg (roundAt rm neg m e 0 bits) 0

/-- One mixing step of sr_bits (R61). -/
def srMix (h w : Word) : Word :=
  let g := (h ^^^ w) * 0x9E3779B1#32
  g ^^^ (g >>> 15)

/-- sr_bits (R61), from seed, x, y, z, (wg << 16) | li, c and e. -/
def srBits (words : List Word) : Nat :=
  let h := words.foldl srMix 0x6A09E667#32
  let h := h * 0x85EBCA77#32
  let h := h ^^^ (h >>> 13)
  (h >>> 16).toNat

/-- The exact sum of finite terms: the value times 2^-g. -/
def sumAt (g : Int) (l : List Num) : Int :=
  l.foldl (fun acc t => match t with
    | .fin n m e => acc + scaled n m e g
    | .inf _ => acc
    | .nan _ => acc) 0

/-- The least exponent of the terms. -/
def minExp (l : List Num) : Int :=
  l.foldl (fun g t => match t with
    | .fin _ _ e => min g e
    | .inf _ => g
    | .nan _ => g) 0

/-- block_sum_fp of the products (R68): one exact sum, rounded once to f32. -/
def blockSum (terms : List Num) : Nat :=
  if terms.any Num.isNan || (terms.any (· == .inf false) && terms.any (· == .inf true)) then canonNan .f32
  else if terms.any (· == .inf false) then encodeNum .f32 (.inf false)
  else if terms.any (· == .inf true) then encodeNum .f32 (.inf true)
  else
    let g := minExp terms
    let v := sumAt g terms
    if v = 0 then encodeNum .f32 (.fin (terms.all fun t => t.neg) 0 0)
    else encodeNum .f32 (toWide .f32 (.fin (decide (v < 0)) v.natAbs g) .rne false false 0).1

/-- msa_elem (R70). -/
def msaElem (c p sa sb : Nat) : Nat :=
  let x := decodeNum .f32 c
  let y := decodeNum .f32 p
  if sa = 0xFF ∨ sb = 0xFF ∨ x.isNan ∨ y.isNan then canonNan .f32
  else
    let z := scaleNum y ((sa : Int) + sb - 254)
    let r := (addNum x z .rne).1
    encodeNum .f32 (toWide .f32 r .rne false false 0).1

/-- One level of tree_reduce (R71): neighbours combined, the lower one first. -/
def treeLevel {α : Type} (op : Nat → α → α → α) (j : Nat) : List (Option α) → List (Option α)
  | [] => []
  | [l] => [l]
  | l :: h :: rest =>
    (match l, h with
      | none, _ => h
      | _, none => l
      | some a, some b => some (op j a b)) :: treeLevel op (j + 1) rest

/-- tree_reduce over the widths 64 to 1 (R71). The operator is told the width and the index of its node. -/
def treeReduce {α : Type} (op : Nat → Nat → α → α → α) (leaf : List (Option α)) : Option α :=
  let run := [64, 32, 16, 8, 4, 2, 1].foldl (fun node w => treeLevel (op w) 0 node)
    (leaf ++ List.replicate (128 - leaf.length) none)
  match run with
  | [] => none
  | x :: _ => x

end Sys2Proof.Machine
end

