-- ==== Sys2Proof/Config.lean ====
section
/-! DEFINITION. The constants the manual fixes for every L7, and the values it leaves open as free values with no body
(DESIGN CHOICE, log entries 5, 17, 18, 19 and 129). -/

namespace Sys2Proof.Config

/-- Cores of one package (00_scope R4). -/
def cores : Nat := 320

/-- Cores of a compute die (R4). -/
def dieCores : Nat := 80

/-- Bytes of the local tier, 384 GiB (00_scope R4, 21_near_memory R302). -/
def localBytes : Nat := 384 * 2 ^ 30

/-- Bytes of one accumulator tile (11_memory_instructions R203). -/
def tileBytes : Nat := 12288

/-- Words of a run, trailer included (05_encoding R80). -/
def runWords : Nat := 24

/-- Instruction-buffer slots of a quarter (09_control R151). -/
def bufferSlots : Nat := 24

/-- Split-table entries of a warp (01_machine R15). -/
def splitEntries : Nat := 8

/-- Spill records of a warp (09_control R149). -/
def spillRecords : Nat := 16

/-- Matrix-queue entries of a warp (15_matrix R239). -/
def matrixQueue : Nat := 4

/-- Fault-buffer entries of one die (19_translation_traps R294). -/
def faultEntries : Nat := 2048

/-- Far-task slots of a core (09_control R166). -/
def farSlots : Nat := 4

/-- Reply-cache entries of a core (09_control R170). -/
def replyEntries : Nat := 64

/-- Launch queues (17_scheduling R268). -/
def launchQueues : Nat := 1024

/-- ASIDs bound at once (19_translation_traps R285). -/
def boundAsids : Nat := 4096

/-- Ports to modules (23_pod_network R323). -/
def modulePorts : Nat := 17

/-- Open rounds of a module (23_pod_network R334). -/
def openRounds : Nat := 64

/-- Nanoseconds after which a call times out (09_control R165). -/
def callTimeoutNs : Nat := 1000000

/-- Nanoseconds a far task may run (09_control R168). -/
def farTaskNs : Nat := 10000000

/-- Nanoseconds a replied reply-cache entry stays (09_control R170). -/
def replyKeepNs : Nat := 100000000

/-- FREE VALUE: the arithmetic clocks that pass in the n-th step (09_control R178; DESIGN CHOICE, log entry 5). -/
opaque elapsedClocks : Nat → Nat

/-- Translations that the cache of one base die holds (21_near_memory R301). -/
def baseEntries : Nat := 64

/-- Outstanding Invalidate Requests that the package accepts (19_translation_traps R293). -/
def invalidateQueue : Nat := 32

/-- The UDP destination port of Reltex packets (23_pod_network R337). -/
def reltexPort : Nat := 19511

/-- Cores that start together, and the nanoseconds from one group's start to the next one's (25_reliability R359). -/
def groupCores : Nat := 16
/-- The spacing of their starts. -/
def groupSpacingNs : Nat := 4000

/-- FREE VALUE: the hash of the ROM, measurement 1 (25_reliability R358; DESIGN CHOICE, log entry 17). -/
opaque romHash : List Byte

/-- FREE VALUE: the hash of an Evonto image, measurement 2. -/
opaque imageHash : Nat → List Byte

/-- FREE VALUE: the hash of a firmware policy, measurement 3. -/
opaque policyHash : Nat → List Byte

/-- FREE VALUE: the hash of the fuse settings and the map of fenced units, measurement 4. -/
opaque fuseHash : Nat → List FencedUnit → List Byte

/-- FREE VALUE: the device key derived from the fused secret and the hashes of the ROM and of the image (R358). -/
opaque deviceKey : List Byte → List Byte → List Byte

/-- FREE VALUE: the body of an answer to an SPDM request, from what the responder knows: the step and the request, the device
key, and the four measurements.  The manual gives the protocol, not the bytes (R358; DESIGN CHOICE, log entry 17). -/
opaque spdmAnswer : Nat → Nat → List Byte → List (List Byte) → List Byte

/-- FREE VALUE: whether element e of the n-th command reads, where its own writes overlap its source, the value before
the command or a value the command wrote (11_memory_instructions R204, 21_near_memory R315; DESIGN CHOICE, log entry 18). -/
opaque overlapChoice : Nat → Nat → Bool

/-- FREE VALUE: the 16 bits that stochastic rounding draws for an operator of an element of an expression command, for
which the manual names no generator inputs (21_near_memory R312; DESIGN CHOICE, log entry 19).  They depend on nothing that
timing decides: the launch's seed, the skein's coordinates, the workgroup, the command's counter, the word that issued it, the
destination, the operands, the element and the operator's place (03_numbers R61, 13_consistency R235). -/
opaque exprDraw : List Nat → BitVec 16

/-- FREE VALUE: what a trap replaces CTL_TSEL by, which the manual does not say (09_control R176; DESIGN CHOICE, log entry 129): of what
the trap records and of the selector before it, none of which names a time (13_consistency R235). -/
opaque trapSelector : List Nat → BitVec 5

end Sys2Proof.Config
end

