-- ==== Sys2Proof/Machine/State.lean ====
section
/-! DEFINITION. Everything the manual gives one LMY7-P package, as plain data, and the package right after reset.
Objects are held in tables keyed by numbers: warps and far tasks by their call identity (09_control R171), workgroups,
skeins, launches, commands and requests by numbers of the model's own. -/

namespace Sys2Proof.Machine

/-- One vector register of a warp: 96 values, lane 0 first (01_machine R10). -/
abbrev Row := List Word

/-- Where a split stands (01_machine R16).  A trapped split is one whose trap state says `handler`. -/
inductive SplitStatus where
  /-- may be chosen by the issue selector -/
  | ready
  /-- its run is in the pipeline -/
  | issuing
  /-- an awaited register of the last trailer is outstanding, or no buffer slot is free -/
  | waiting
  /-- parked at the `jwait` of a join -/
  | parkedJoin (j : Nat)
  /-- parked at a replayable fault -/
  | parkedFault
  /-- a stalled instruction holds its place in its run -/
  | stalled
  deriving DecidableEq, Repr

/-- What a stalled instruction waits for, where the wait itself has state (09_control R161, R162, R179; R332). -/
inductive Stall where
  | none
  | kbar (done : Bool)
  | gbar (done : Bool)
  | sleep (deadline : Nat) (ended : Bool)
  | queue (id : Nat) (status : Option Nat)
  /-- an `xwait`, for the near-memory operations issued before a point of the order of issue (21_near R310) -/
  | near (limit : Nat)
  /-- the page that the stalled word needs was refused, or its module lost: it traps with this cause (19_translation R294) -/
  | refused (cause : Nat)
  /-- the page of the split's next run was refused: the fetch traps with this cause (19_translation R294) -/
  | denied (cause : Nat)
  /-- its run had been issued when the skein was saved, and goes on as issued (R50, 17_scheduling R281) -/
  | issued
  | other
  deriving DecidableEq, Repr

/-- Which slot of the quarter's instruction buffer holds a split's run (09_control R151). -/
inductive BufferSlot where
  | shared | reserved
  deriving DecidableEq, Repr

/-- The run a split executes: its start, its fetched words, and how many of them have executed (05_encoding R80). -/
structure Run where
  start : Pc
  words : List Word
  pos : Nat
  slot : Option BufferSlot
  deriving DecidableEq, Repr

/-- Where a split goes after the trailer (05_encoding R81). -/
inductive After where
  | fall
  | goto (target : Pc)
  | park (j : Nat)
  | yielded
  | returned
  | ended
  /-- a far task ends with these values (09_control R168) -/
  | replied (values : List Word)
  deriving DecidableEq, Repr

/-- The kind of a lane's memory request, with everything needed to perform it later (11_memory R191 to R199, R304). -/
inductive MemKind where
  | load (bytes : Nat) (signed : Bool)
  | store (bytes : Nat)
  /-- operation number of R196 or R306, TYPE code, near-memory form, returning form -/
  | rmw (op : Nat) (type : Nat) (near : Bool) (returns : Bool)
  deriving DecidableEq, Repr

/-- One lane's access with its captured operands (R190, R294), and its place in the order of issue (21_near R310). -/
structure LaneReq where
  lane : Nat
  va : DWord
  data : BitVec 128
  data2 : DWord
  poison : Bool
  order : Nat := 0
  /-- EXEC to report for a lane that `tret` has reissued after its run (19_translation R300, R363) -/
  again : Option Nat := none
  /-- the cause of its fault, of a lane that has faulted (19_translation R297) -/
  fault : Nat := 0
  deriving DecidableEq, Repr

/-- A result that arrived for a lane: the value and its poison. -/
structure LaneVal where
  lane : Nat
  val : BitVec 128
  poison : Bool
  deriving DecidableEq, Repr

/-- The destination of a long-latency instruction: vector or scalar registers from a base (R83). -/
structure Dest where
  vector : Bool
  base : Nat
  count : Nat
  deriving DecidableEq, Repr

/-- One long-latency destination of a split (05_encoding R84 to R86). -/
structure Pend where
  id : Nat
  opcode : Nat
  pc : Pc
  dest : Dest
  /-- instructions of the window still to come -/
  window : Nat
  /-- per destination register, the lanes and values to write back -/
  rows : List (List (Option (Word × Bool)))
  /-- lanes written by window instructions, which keep that later value: one mask per register -/
  kept : List Mask
  /-- the value has arrived -/
  arrived : Bool
  /-- written back -/
  done : Bool
  /-- settled in its run (R85) -/
  settled : Bool
  /-- belongs to the run in progress -/
  inRun : Bool
  /-- lanes whose accesses wait in the fault buffer -/
  held : Mask
  /-- the engine has still to produce the result: a queued matrix instruction, or an `rwait` -/
  open_ : Bool
  /-- for `rwait`: the tag -/
  tag : Option Word
  /-- a matrix drain whose shadow halves differ (R267) -/
  mismatch : Bool
  /-- words of its run that executed after it, once the run is over (19_translation R297) -/
  ran : Nat := 0
  deriving DecidableEq, Repr

/-- One entry of a trap state, also kept while a window is still open (19_translation R295, R297). -/
structure FaultEntry where
  cause : Nat
  pc : Pc
  opcode : Nat
  addr : DWord
  active : BitVec 96
  done : BitVec 96
  kind : MemKind
  /-- requests still to perform -/
  reqs : List LaneReq
  dest : Option Dest
  /-- window instructions still to come; none for a return-free access, which traps at its trailer -/
  window : Option Nat
  /-- a stopped near-memory command (R321) -/
  cmd : Option Nat
  /-- the pending result its done lanes belong to -/
  pend : Option Nat
  /-- EXEC to report for a reissue by `tret`; otherwise counted from the run (R363) -/
  exec : Option Nat
  deriving DecidableEq, Repr

/-- The trap state of a split (R297), with what `tret` restores (R300). -/
structure Trap where
  cause : Nat
  code : Nat
  fetch : Bool
  handler : Bool
  nent : Nat
  exec : Nat
  tpc : Pc
  trpc : Pc
  /-- the resume address as the trap set it, to see whether a handler changed it -/
  trpcSet : Pc
  entries : List FaultEntry
  saved : List Word
  /-- poison of the saved s56 to s59 (25_reliability R344) -/
  savedPoison : BitVec 4
  savedMode : Word
  savedPend : List Pend
  savedUnawaited : List Dest
  savedTemps : Tab Row
  savedTempPoison : Tab Mask
  savedRun : Run
  savedAfter : After
  savedStall : Stall
  /-- the split left a park to take the trap (R157, R320) -/
  fromPark : Option Nat
  deriving DecidableEq, Repr

/-- One entry of a warp's split table (01_machine R15). -/
structure Split where
  pc : Pc
  lanes : Mask
  act : Mask
  status : SplitStatus
  scalars : List Word
  scalarPoison : BitVec 64
  mode : Word
  fpst : Word
  pend : List Pend
  /-- destinations marked unawaited (R85) -/
  unawaited : List Dest
  /-- register codes the last trailer names and waits for (R86) -/
  awaited : List Nat
  run : Run
  temps : Tab Row
  tempPoison : Tab Mask
  after : After
  /-- faults that trap at the end of a window or at the trailer (R295) -/
  faults : List FaultEntry
  stall : Stall
  trap : Trap
  tsel : Word
  yielded : Bool
  /-- the arithmetic clock at which it became ready (17_scheduling R278) -/
  readyAt : Nat
  /-- a parity error has poisoned an operand latch, which the next instruction reads (25_reliability R343) -/
  latchPoison : Bool
  /-- the spill record, or the unawaited marks beside it, were poisoned while the split was spilled (25_reliability R343) -/
  recordPoison : Bool := false
  /-- the model's own: what the results still lacked when the executing word last had to stay in its run, 0 where it has
  gone on since (17_scheduling R281) -/
  stuck : Nat := 0
  deriving DecidableEq, Repr

/-- A spilled split: its spill order and its image (09_control R149).  The record and the image of the manual hold the
program counter, lane set, mode register, CTL_FPST, scalar bank and unawaited marks; the writes still outstanding and the
copied trap state are kept beside them (R17). -/
structure Spilled where
  seq : Nat
  split : Split
  deriving DecidableEq, Repr

/-- A join register (09_control R152). -/
structure Join where
  expected : Mask
  arrived : Mask
  deriving DecidableEq, Repr

/-- An outstanding far call of a warp (09_control R165, R169). -/
structure CallSlot where
  seq : Nat
  deadline : Nat
  timedOut : Bool
  /-- status, cause and values of the reply -/
  reply : Option (Nat × Nat × List Word)
  core : Option Nat
  deriving DecidableEq, Repr

/-- A queued matrix instruction with its operands as read at issue (15_matrix R239): rows and columns of an `mma`, row and
column scales of an `msa`, the C group, the status object of a vreg-mode warp, and the pending result it fills. -/
inductive MatOp where
  /-- form 0 to 11 of R237 -/
  | mma (form : Nat) (rows cols : List (List Byte)) (badRows badCols : List Nat) (c : List Row) (z close : Bool)
      (ptile : Nat) (status : Option Word) (pend : Option Nat)
  | msa (scales : Row) (cols : List Byte) (badCols : List Nat) (c : List Row) (ptile : Nat) (status : Option Word) (pend : Nat)
  | zero (tile : Nat) (status : Option Word)
  | zeroP (status : Option Word)
  | toRegs (tile : Nat) (status : Option Word) (pend : Nat)
  | toTile (tile : Nat) (c : List Row) (ownP : Bool) (status : Option Word)
  /-- an `mring`, with the status object it names for a vreg-mode warp -/
  | ring (status : Option Word)
  deriving DecidableEq, Repr

/-- A warp's matrix context (15_matrix R241). -/
structure MatrixCtx where
  set : Bool
  ptile : Nat
  pvalid : Bool
  status : Option Word
  deriving DecidableEq, Repr

/-- A reply in flight (09_control R169). -/
structure ReplyMsg where
  caller : Nat
  seq : Nat
  core : Nat
  status : Nat
  cause : Nat
  values : List Word
  deriving DecidableEq, Repr

/-- What makes a warp record a far task (09_control R165 to R168). -/
structure FarTask where
  caller : Nat
  seq : Nat
  core : Nat
  asid : Nat
  started : Nat
  launch : Nat
  /-- the reply of a task that has ended and whose release at dev scope is not yet done (13_consistency R228) -/
  ending : Option ReplyMsg
  deriving DecidableEq, Repr

/-- A resident warp, or a far task (01_machine R12 to R19, 09_control R152, R171). -/
structure Warp where
  wg : Nat
  index : Nat
  core : Nat
  quarter : Nat
  launched : Mask
  exited : Mask
  splits : Tab Split
  spill : List Spilled
  spillSeq : Nat
  vregs : Tab Row
  vregPoison : Tab Mask
  preds : List Mask
  predPoison : BitVec 24
  srCount : Row
  joins : List Join
  joinPoison : BitVec 4
  jlost : Word
  callSeq : Nat
  calls : Tab CallSlot
  /-- unacknowledged writes at the scopes wg, sk, dev, pod, sys (13_consistency R218) -/
  unack : List Nat
  /-- the last fork whose program this warp has collected (R164) -/
  collected : Nat
  openPush : Tab Nat
  openPop : Tab Nat
  mctx : MatrixCtx
  mqueue : List MatOp
  far : Option FarTask
  /-- the warp's next number for pending results -/
  nextPend : Nat
  deriving DecidableEq, Repr

/-- A selvedge register (15_matrix R263). -/
structure Selvedge where
  count : Word
  act : Nat
  hi : Word
  lo : Word
  poison : Bool
  deriving DecidableEq, Repr

/-- A milestone counter (11_memory R206): issued, done, and the numbers complete above done. -/
structure Milestone where
  issued : Nat
  done : Nat
  finished : List Nat
  poison : Bool
  deriving DecidableEq, Repr

/-- A type tag of the tiles (15_matrix R251). -/
inductive Tag where
  | i32 | f32 | bf16 | f16 | e4m3 | e5m2
  deriving DecidableEq, Repr

/-- A 96 × 32 tile inside the epilogue engine: 3,072 elements in row order, and which are poisoned. -/
structure Tile where
  elems : List Word
  poison : List Nat
  tag : Tag
  deriving DecidableEq, Repr

/-- The pending status of an engine program (15_matrix R251, R265): status bits 10 to 0 and BNDCNT. -/
structure PendStatus where
  bits : BitVec 64
  bndcnt : Nat
  deriving DecidableEq, Repr

/-- An engine program (15_matrix R251). -/
structure Engine where
  entry : DWord
  pc : DWord
  scalars : List Word
  scalarPoison : BitVec 64
  w : Tile
  q : Tile
  pending : PendStatus
  running : Bool
  /-- unacknowledged writes at the five scopes (R226, R252) -/
  unack : List Nat
  /-- elements, or row lines of `e.ast`, that the store command in progress has written (R260, R266) -/
  progress : Nat
  /-- the cause with which the page its command needs was refused (19_translation R294) -/
  refused : Option Nat
  deriving DecidableEq, Repr

/-- The state of one ring tile (15_matrix R249), and a shadow mismatch marked at its close (R267). -/
inductive RingTile where
  | free
  | open_
  | ready (tag : Tag) (mismatch : Bool)
  deriving DecidableEq, Repr

/-- A workgroup's ring (15_matrix R241, R249). -/
structure Ring where
  owner : Nat
  first : Nat
  len : Nat
  head : Nat
  tail : Nat
  status : Word
  tiles : List RingTile
  /-- PARITY and POISON of the matrix instructions since the last close (R245, R250) -/
  bits : Nat
  /-- whether a tile is open, judged in program order (R243) -/
  opened : Bool
  deriving DecidableEq, Repr

/-- A resident or saved workgroup (01_machine R32). -/
structure Workgroup where
  skein : Nat
  index : Nat
  stage : Nat
  core : Nat
  lanes : Nat
  warps : List Nat
  /-- the quarter of each of its warps (R13) -/
  quarters : List Nat
  selvedge : List Selvedge
  counters : List Milestone
  cpyflt : Word
  cpyfln : Word
  est : Word
  tvec : Pc
  /-- the accumulator tiles, one byte range of 12,288 bytes a tile (11_memory R203) -/
  acc : Mem
  accPoison : List Nat
  ring : Option Ring
  engine : Option Engine
  forks : Nat
  /-- the s2 and s3 pair as the latest ended program left it (R164) -/
  endPair : Word × Word
  /-- poison of that pair -/
  endPoison : Bool × Bool
  deriving DecidableEq, Repr

/-- A weft queue (01_machine R38, R39): slots taken by pushes, committed, taken by pops, emptied. -/
structure WeftQueue where
  pushed : Nat
  committed : List Nat
  popped : Nat
  emptied : List Nat
  deriving DecidableEq, Repr

/-- The states of a skein (17_scheduling R279). -/
inductive SkeinPhase where
  | admitted | running | preempting | saved | resuming | cancelling | retiring
  deriving DecidableEq, Repr

/-- A skein (01_machine R33). -/
structure Skein where
  launch : Nat
  x : Nat
  y : Nat
  z : Nat
  age : Nat
  phase : SkeinPhase
  quad : Nat
  /-- the distinct cores of the quad it is placed on (17_scheduling R276) -/
  cores : List Nat
  wgs : List Nat
  scratch : Mem
  /-- poisoned 8-byte granules of the window (25_reliability R344) -/
  scratchPoison : List Nat
  queues : List WeftQueue
  /-- the full allotment has been granted (R44) -/
  full : Bool
  /-- a `racq` of the skein waits (R44) -/
  requested : Bool
  resident : Bool
  placedAt : Nat
  /-- pre-empted at a `brk` for an attached debugger (09_control R174, R280) -/
  debugStop : Bool
  deriving DecidableEq, Repr

/-- A kernel descriptor (17_scheduling R271). -/
structure Kernel where
  entry : DWord
  lanes : Nat
  wgs : Nat
  cores : Nat
  share : Nat
  ring : Bool
  shadow : Bool
  snapshot : Bool
  coop : Bool
  vregP : Nat
  vregF : Nat
  scrP : Nat
  scrF : Nat
  joinsP : Nat
  joinsF : Nat
  tilesP : Nat
  tilesF : Nat
  stages : Nat
  slot : Nat
  stcount : List Nat
  deriving DecidableEq, Repr

/-- A launch record (17_scheduling R270). -/
structure Record where
  target : DWord
  dbase : DWord
  arg : DWord
  gx : Nat
  gy : Nat
  gz : Nat
  seed : Word
  kind : Nat
  serial : Bool
  doneAddr : DWord
  doneVal : DWord
  deriving DecidableEq, Repr

/-- Where a launch came from: a slot of a queue, or a node of a graph. -/
inductive LaunchOrigin where
  | slot (queue index : Nat)
  | node (graph n : Nat)
  deriving DecidableEq, Repr

/-- The progress of a launch. -/
inductive LaunchPhase where
  | started | stopping | done
  deriving DecidableEq, Repr

/-- A copy of a 64 KiB page in the snapshot pool: its bytes and its poisoned granules, by offset (25_reliability R349). -/
structure PageCopy where
  bytes : Mem
  poison : List Nat
  deriving DecidableEq, Repr

/-- A started launch of a kernel (17_scheduling R270 to R272; 25_reliability R349 to R352). -/
structure Launch where
  origin : LaunchOrigin
  asid : Nat
  level : Nat
  record : Record
  kernel : Kernel
  /-- the next skein to place, in linear order -/
  next : Nat
  reclass : Word
  nmfb : Word
  phase : LaunchPhase
  cancelled : Bool
  /-- snapshot: the pages copied, by page frame -/
  copied : Tab PageCopy
  /-- snapshot: pages whose first write waits for a copy -/
  wanted : List Nat
  rollbacks : Nat
  rollbackWanted : Bool
  /-- the address of the word at which the rollback that is wanted began (R352) -/
  failing : Pc
  /-- pool size in frames -/
  pool : Nat
  /-- the cause of R271 for a record that was refused; 0 for one that was not -/
  refusal : Nat
  /-- the cause with which the page of DONEADDR was refused (R272, 19_translation R294) -/
  doneCause : Option Nat
  deriving DecidableEq, Repr

/-- A node of a graph as its 64 bytes give it (17_scheduling R273). -/
structure GraphNode where
  kind : Nat
  nt : Nat
  nf : Nat
  npred : Nat
  arg0 : DWord
  arg1 : DWord
  succ : List Nat
  deriving DecidableEq, Repr

/-- A graph node's progress (17_scheduling R275). -/
inductive NodeState where
  | waiting (reals skips : Nat)
  | running
  | retired
  | skipped
  deriving DecidableEq, Repr

/-- A started graph, its nodes as read when it started. -/
structure Graph where
  queue : Nat
  index : Nat
  asid : Nat
  prog : List GraphNode
  record : Record
  nodes : List NodeState
  cancelled : Bool
  /-- the page of a node's word was refused (19_translation R294) -/
  denied : Bool
  deriving DecidableEq, Repr

/-- A launch queue as firmware bound it (17_scheduling R268): the header lies in device memory at `header`. -/
structure Queue where
  header : Nat
  asid : Nat
  level : Nat
  hostFed : Bool
  base : DWord
  entries : Nat
  /-- index of the next record to start, kept outside the header -/
  next : Nat
  /-- the TAIL a doorbell has announced for a host-fed queue -/
  rung : Nat
  retired : List Nat
  /-- the kernel descriptors that `launch` has checked, by record index (R271) -/
  accepted : Tab (List Byte)
  tracing : Bool
  trace : List (List Byte)
  traceRoom : Nat
  traceLost : Nat
  /-- when the head skein began to wait (R280) -/
  waitingSince : Option Nat
  /-- records cancelled before they started, by index (R283) -/
  cancelled : List Nat
  /-- the page of the head record's descriptor or graph was refused (19_translation R294) -/
  denied : Bool
  deriving DecidableEq, Repr

/-- What an engine command does (11_memory R202 to R209; 21_near R311; 23_pod R333 to R341). -/
inductive CmdKind where
  /-- descriptor bytes, zeroing form -/
  | copy (desc : List Byte) (zero : Bool)
  | marker (need : Nat) (scope : Nat) (earlier : Nat)
  | expr (desc : List Byte)
  | fill (dst : DWord) (len : Nat)
  | rowCopy (dst src : DWord) (len : Nat)
  | relay (dst src : DWord) (len : Nat)
  | mred (op : Nat) (obj src : DWord) (count : Nat) (epoch : Word) (expect : Nat)
  | nput (addr : DWord) (roff len conn win msn : Nat)
  | nget (addr : DWord) (roff len conn win msn : Nat)
  | nsig (roff conn win msn : Nat) (value : DWord)
  deriving DecidableEq, Repr

/-- How far a command has come. -/
inductive CmdPhase where
  /-- may proceed -/
  | active
  /-- stopped at an element or block, its stop not yet delivered or serviced (R320) -/
  | stopped (cause : Nat) (addr : DWord)
  /-- a contribution or message is under way -/
  | sent
  deriving DecidableEq, Repr

/-- A command in flight. -/
structure Cmd where
  wg : Nat
  warp : Nat
  counter : Nat
  number : Nat
  kind : CmdKind
  barrier : Option Word
  progress : Nat
  phase : CmdPhase
  /-- poisoned source data was met -/
  poison : Bool
  /-- the split that waits at its trailer for the command's first translation (R311): the entry it was issued from, and the
  lowest of its lanes then -/
  issuer : Option (Nat × Nat)
  /-- graph node it belongs to -/
  node : Option (Nat × Nat)
  asid : Nat
  /-- the elements or blocks whose pages the issuing die has walked for the base dies (21_near_memory R320) -/
  walked : Nat := 0
  /-- the word that issued it -/
  pc : Pc := 0
  /-- EXEC to report for a command that `tret` has reissued (21_near_memory R321) -/
  again : Option Nat := none
  deriving DecidableEq, Repr

/-- A return-free near-memory operation not yet performed (21_near R304, R310). -/
structure NearOp where
  warp : Nat
  launch : Nat
  pa : Nat
  kind : MemKind
  req : LaneReq
  deriving DecidableEq, Repr

/-- Who waits on a fault-buffer entry (19_translation R294). -/
inductive Waiter where
  /-- lanes of an instruction: warp, split-table entry, pend -/
  | lanes (warp : Nat) (pend : Option Nat) (kind : MemKind) (reqs : List LaneReq) (pc : Pc) (opcode : Nat) (active : Mask)
  | command (c : Nat)
  | fetch (warp entry : Nat)
  | engine (wg : Nat)
  | retire (launch : Nat)
  | stalled (warp entry : Nat)
  | queue (q : Nat)
  | graph (g : Nat)
  /-- a packet of a connection was dropped for the page (23_pod R338) -/
  | network (conn : Nat)
  deriving DecidableEq, Repr

/-- The waiting accesses to one page: its size in bits and its number, and the address of the first of them. -/
structure Held where
  die : Nat
  asid : Nat
  va : DWord
  bits : Nat
  page : Nat
  host : Bool
  write : Bool
  waiter : Waiter
  /-- it has a fault-buffer entry; one that needs an entry and finds none free waits for one (R294) -/
  entry : Bool := true
  deriving DecidableEq, Repr

/-- An ATS completion in the translation caches (19_translation R291). -/
structure AtsEntry where
  asid : Nat
  page : Nat
  frame : Nat
  r : Bool
  w : Bool
  deriving DecidableEq, Repr

/-- A translation in a base die's cache, tagged by ASID (21_near_memory R301): the page, by the bits of its size and its number,
its physical address, its class and its write permission. -/
structure BaseEntry where
  asid : Nat
  bits : Nat
  page : Nat
  pa : Nat
  cls : Nat
  write : Bool
  deriving DecidableEq, Repr

/-- How far a request for a host page has come (19_translation R291, R292). -/
inductive RequestStage where
  /-- an ATS Translation Request -/
  | translation
  /-- the completion withheld the permission, and none of its accesses has found a free fault-buffer entry yet -/
  | blocked
  /-- one of them has its entry, and the page request waits for the host's allocation -/
  | withheld
  /-- a PRI Page Request -/
  | page
  deriving DecidableEq, Repr

/-- An outstanding request for a host page. -/
structure PageRequest where
  asid : Nat
  page : Nat
  write : Bool
  stage : RequestStage
  deriving DecidableEq, Repr

/-- An invalidation of the translation caches that is not yet complete (19_translation R290, R293): whether the host asked for
it, the writes of each party that were then unacknowledged at dev scope, and the near-memory operations, queue instructions
and contributions then under way. -/
structure Invalidation where
  host : Bool
  writes : List (Nat × Nat)
  nearOps : List Nat
  queueOps : List Nat
  mreds : List Nat
  deriving DecidableEq, Repr

/-- A far call in flight (09_control R165). -/
structure CallMsg where
  caller : Nat
  seq : Nat
  slot : Nat
  entry : DWord
  addr : DWord
  payload : List Word
  asid : Nat
  launch : Nat
  deriving DecidableEq, Repr

/-- A reply-cache entry (09_control R170). -/
structure CacheEntry where
  caller : Nat
  seq : Nat
  asid : Nat
  reply : Option ReplyMsg
  sentAt : Nat
  deriving DecidableEq, Repr

/-- The far-task side of a core: calls waiting in arrival order for a cache entry, the reply cache, and the calls entered in it as
executing that wait for a far-task slot. -/
structure FarTarget where
  waiting : List CallMsg
  cache : Tab CacheEntry
  entered : List CallMsg
  deriving DecidableEq, Repr

/-- A contribution to a module reduction (23_pod R334). -/
structure Contribution where
  head : Nat
  op : Nat
  count : Nat
  expect : Nat
  data : List Word
  cmd : Option Nat
  /-- poisoned source data -/
  bad : Bool
  /-- the ASID under which this package's command translated the result's place (19_translation R290) -/
  asid : Nat := 0
  deriving DecidableEq, Repr

/-- An open round of a module reduction. -/
structure Round where
  off : Nat
  epoch : BitVec 32
  contribs : List Contribution
  deriving DecidableEq, Repr

/-- A grant of a module page to a package (13_consistency R224), and the lines noticed as modified (23_pod R330). -/
structure Grant where
  page : Nat
  pkg : Nat
  excl : Bool
  dirty : List Nat
  deriving DecidableEq, Repr

/-- A CXL module as the package reaches it (23_pod R323 to R334). -/
structure Module where
  mem : Mem
  poison : List Nat
  lost : Bool
  rounds : List Round
  waiting : List (Nat × BitVec 32 × Contribution)
  grants : List Grant
  /-- runs of 64 KiB frames bound to a tenant, the latest first: first frame, count, tenant (25_reliability R355) -/
  tenants : List (Nat × Nat × Nat)
  deriving DecidableEq, Repr

/-- A queue instruction waiting for a module's answer (23_pod R332). -/
structure QueueOp where
  warp : Nat
  entry : Nat
  put : Bool
  module : Nat
  off : Nat
  record : List Byte
  local_ : Word
  /-- the record's bytes were poisoned -/
  bad : Bool
  deriving DecidableEq, Repr

/-- A packet sent and not yet acknowledged (23_pod R339). -/
structure OutPacket where
  pkt : Packet
  cmd : Option Nat
  tries : Nat
  sentAt : Nat
  deriving DecidableEq, Repr

/-- A message being received: number, kind, bytes placed (23_pod R342). -/
structure InMessage where
  msn : Nat
  signal : Bool
  counts : Bool
  need : Nat
  placed : Nat
  deriving DecidableEq, Repr

/-- A Reltex connection (23_pod R336 to R342). -/
structure Conn where
  binding : ConnBinding
  failed : Bool
  nextPsn : Nat
  nextMsn : Nat
  out : List OutPacket
  mark : Nat
  received : List Nat
  messages : List InMessage
  /-- the highest message number at and below which every message has been placed or served -/
  complete : Nat
  arrival : Nat
  /-- get requests that wait for earlier messages -/
  requests : List Packet
  /-- acknowledgements and refusals that leave for the sender, in order (R338, R339) -/
  acks : List ReltexAck
  entropy : BitVec 16
  deriving DecidableEq, Repr

/-- The phases of power-up (25_reliability R359, R360). -/
inductive Power where
  | unpowered
  | step1
  | dies (ready : Nat)
  | stacks (ready : Nat)
  | coreGroups (ready : Nat)
  | ready
  | recovery
  | fatal
  deriving DecidableEq, Repr

/-- Translation state of the package (19_translation). -/
structure Xlate where
  contexts : Tab AddressContext
  ats : List AtsEntry
  requests : List PageRequest
  held : Tab Held
  /-- owner skein of each owned P page, by 64 KiB frame number (R184) -/
  owners : Tab Nat
  /-- runs of 64 KiB frames that bindings gave an ASID, the latest first: first frame, count, ASID (R355) -/
  frames : List (Nat × Nat × Nat)
  /-- invalidations that are not yet complete, in the order of their requests (R290, R293) -/
  invalidations : List Invalidation
  /-- invalidations completed for the host, in order (R293) -/
  invalidated : Nat
  /-- invalidations completed for firmware (R290) -/
  flushed : Nat
  /-- the Outstanding Page Request Allocation that the host grants (R291) -/
  allocation : Nat
  /-- the translation cache of each HBM stack's base die, the latest entry last (21_near_memory R301) -/
  baseDie : Tab (List BaseEntry)
  deriving DecidableEq, Repr

/-- The pod and the network as this package sees them (23_pod). -/
structure Net where
  /-- order q of the pod, 0 outside a pod -/
  podq : Nat
  podpos : Nat
  modules : Tab Module
  /-- the packages of each module in ascending order, its heads (R324) -/
  heads : Tab (List Nat)
  /-- relay package of each module this package does not touch -/
  routes : Tab Nat
  /-- modules whose new route firmware has still to install (R328) -/
  rerouting : List Nat
  lostPackages : List Nat
  ports : Tab Nat
  queueOps : Tab QueueOp
  epid : Nat
  conns : Tab Conn
  deriving DecidableEq, Repr

/-- What firmware records for the host of a trap that stopped a skein (19_translation R298, R299): the trap state, and
the address and cause of the second event of a double trap. -/
structure TrapReport where
  warp : Nat
  entry : Nat
  trap : Trap
  second : Option (Nat × Pc)
  deriving DecidableEq, Repr

/-- Reliability, power and the host's registers (25_reliability). -/
structure Platform where
  power : Power
  hostEvent : BitVec 5
  fenced : List FencedUnit
  /-- the fused security version -/
  fuseVersion : Nat
  startedCores : Nat
  coreStart : Tab Nat
  halfClock : Bool
  /-- the core on which matrix issue is paused, while the current limit acts (R356) -/
  matrixPaused : Option Nat
  /-- core groups that are power-gated, and when the last group started (R359) -/
  gated : List Nat
  groupStartedAt : Nat
  /-- the Evonto image that this start was given, the firmware policy, and the device key of this start (R357, R358) -/
  image : Nat
  policy : Nat
  deviceKey : List Byte
  corrected : Nat
  uncorrected : Nat
  /-- misaligned elements counted by each near-memory unit (21_near_memory R309) -/
  misaligned : Tab Nat
  spdm : List (Nat × List Byte)
  reports : List TrapReport
  /-- DONEADDR faults reported to system software: queue, slot, cause (R272) -/
  doneFaults : List (Nat × Nat × Nat)
  /-- failing addresses that firmware reported at a third rollback: launch, address (R352) -/
  failures : List (Nat × Pc)
  deriving DecidableEq, Repr

/-- Who executes next: nobody, a split of a warp or far task, or an engine program. -/
inductive Focus where
  | none
  | split (warp entry : Nat)
  | engine (wg : Nat)
  deriving DecidableEq, Repr

/-- What the outside world does to the machine (the agenda; DESIGN CHOICE, log entry 3). -/
inductive Input where
  | event (i : Instr)
  | hostWrite (addr : Nat) (data : List Byte)
  | hostMemory (addr : Nat) (data : List Byte)
  /-- another package writes a module's memory (23_pod R330) -/
  | moduleWrite (m pkg off : Nat) (data : List Byte)
  | poisonLocal (granule : Nat)
  /-- an uncorrectable error in a cached line of a class M page: a granule of its module (25_reliability R343) -/
  | poisonModule (m granule : Nat)
  | poisonScratch (skein granule : Nat)
  | poisonVector (warp reg : Nat) (lanes : Mask)
  | poisonScalar (warp entry reg : Nat)
  | poisonPredicate (warp reg word : Nat)
  | poisonJoin (warp reg : Nat)
  | poisonSelvedge (wg reg : Nat)
  | poisonCounter (wg reg : Nat)
  | poisonTile (wg elem : Nat)
  | poisonTemporary (warp entry temp : Nat) (lanes : Mask)
  | poisonLatch (warp entry : Nat)
  /-- a 64-byte granule of a spilled split's record and image, 0 to 4 -/
  | poisonSpill (warp seq granule : Nat)
  | poisonEngine (wg reg : Nat)
  /-- an uncorrectable error in an instruction-buffer slot -/
  | discardRun (warp entry : Nat)
  /-- an uncorrectable error in a cached ATS completion -/
  | discardAts (asid page : Nat)
  /-- an uncorrectable error in another translation cache, or in an address of the fault buffer -/
  | discardWalk (stack n : Nat)
  | corrected
  | trace (queue room : Nat) (on : Bool)
  /-- the time slice of a level, in microseconds -/
  | slice (level us : Nat)
  /-- the Outstanding Page Request Allocation -/
  | allocation (n : Nat)
  /-- another package writes back a line of a module page that it holds exclusively (23_pod R330) -/
  | lineWriteBack (m pkg line : Nat)
  /-- firmware binds frames of the local tier to an ASID, or of a module to a tenant (25_reliability R355) -/
  | bindFrames (asid first count : Nat)
  | bindModuleFrames (m first count tenant : Nat)
  /-- firmware's policy, and the power gating of a core group -/
  | policy (n : Nat)
  | gate (group : Nat)
  | debugger (attached : Bool)
  | endpoint (id : Nat)
  | pod (q pos : Nat)
  | heads (m : Nat) (packages : List Nat)
  deriving DecidableEq, Repr

/-- Reasons to stop with a fault. -/
inductive Fault where
  /-- Raised by a translated access, or a page walk, whose physical address lies outside the 384 GiB of the local tier
  (R302): no such memory exists.  Safe: the machine stops. -/
  | physicalHole
  deriving DecidableEq, Repr

/-- Reasons to refuse a step. -/
inductive Refusal where
  /-- Raised by an arm of `exec` whose instruction has no meaning yet.  Safe: nothing can be proved of its effect. -/
  | notModelled (mnemonic : String)
  /-- Raised by an instruction word given to `exec` while no party executes (the focus is none, or names no split or
  engine program).  `step` never does so.  Safe: the machine stops. -/
  | noAgent
  deriving DecidableEq, Repr

/-- The whole machine. -/
structure State where
  /-- steps taken -/
  clock : Nat
  /-- the package timer in nanoseconds (R178) -/
  timer : Nat
  /-- what has passed of the timer's next nanosecond, in sevenths: an arithmetic clock takes 10/7 ns (00_scope R3) -/
  sevenths : Nat
  /-- arithmetic clocks since power-up (R178) -/
  ticks : Nat
  focus : Focus
  agenda : List Input
  /-- where the arbiter's rotation stands (DESIGN CHOICE, log entry 2) -/
  turn : Nat
  /-- next number for objects of the model's own -/
  fresh : Nat
  /-- the package-wide counter of call identities (R171) -/
  identity : Nat
  /-- admissions so far: the age of the next skein (R46) -/
  admissions : Nat
  warps : Tab Warp
  wgs : Tab Workgroup
  skeins : Tab Skein
  launches : Tab Launch
  graphs : Tab Graph
  queues : Tab Queue
  /-- round-robin positions of the scheduler, by level (R276) -/
  turns : List Nat
  /-- the time slice of each level in microseconds; 0 disables it (R280) -/
  slices : List Nat
  /-- the scratchpad share that the last skein placed on each core set (01_machine R35) -/
  shares : Tab Nat
  mem : Mem
  /-- poisoned 64-byte granules of the local tier -/
  memPoison : List Nat
  host : Mem
  cmds : Tab Cmd
  nearOps : Tab NearOp
  callMsgs : Tab CallMsg
  replyMsgs : Tab ReplyMsg
  targets : Tab FarTarget
  xlate : Xlate
  net : Net
  plat : Platform
  debugger : Bool
  deriving DecidableEq, Repr

/-- Translation state with nothing bound. -/
def Xlate.empty : Xlate :=
  { contexts := [], ats := [], requests := [], held := [], owners := [], frames := [], invalidations := [],
    invalidated := 0, flushed := 0, allocation := 0, baseDie := [] }

/-- A package outside any pod, with no connection. -/
def Net.empty : Net :=
  { podq := 0, podpos := 0xFFFFFFFF, modules := [], heads := [], routes := [], rerouting := [], lostPackages := [], ports := [],
    queueOps := [], epid := 0, conns := [] }

/-- The platform when power-good is asserted and PERST# deasserted: step 1 of R359. -/
def Platform.start : Platform :=
  { power := .step1, hostEvent := 0, fenced := [], fuseVersion := 0, startedCores := 0, coreStart := [],
    halfClock := false, matrixPaused := none, gated := [], groupStartedAt := 0, image := 0, policy := 0, deviceKey := [],
    corrected := 0, uncorrected := 0, misaligned := [], spdm := [], reports := [], doneFaults := [], failures := [] }

/-- The package right after reset: step 1 of R359, nothing bound, nothing resident, every counter at zero, and the time slice of every
level 0, which disables it (17_scheduling R280; DESIGN CHOICE, log entry 11). -/
def State.reset : State :=
  { clock := 0, timer := 0, sevenths := 0, ticks := 0, focus := .none, agenda := [], turn := 0, fresh := 0, identity := 0,
    admissions := 0, warps := [], wgs := [], skeins := [], launches := [], graphs := [], queues := [], turns := [0, 0, 0, 0],
    slices := [0, 0, 0, 0], shares := [], mem := [], memPoison := [], host := [], cmds := [], nearOps := [], callMsgs := [], replyMsgs := [], targets := [],
    xlate := Xlate.empty, net := Net.empty, plat := Platform.start, debugger := false }

end Sys2Proof.Machine
end

