-- ==== Sys2Proof/Machine/Operands.lean ====
section
/-! DEFINITION. Operand forms: element types, the registers each instruction reads and writes, the encodings that are
refused only under some element type or accumulator mode, the types an instruction is defined on, and the instruction
sets of the three contexts (05_encoding R77 to R97, 07_scalar_vector R105 to R143, 09_control R167, 15_matrix R240, R252). -/

namespace Sys2Proof.Machine

/-- The element types of R92. -/
inductive ElemType where
  | i32 | n32 | i16x2 | n16x2 | i8x4 | n8x4 | f32 | bf16x2 | f16x2 | e4m3x4 | e5m2x4 | i64 | n64
  deriving DecidableEq, Repr

/-- The type of a TYPE code; none for a reserved code (R92). -/
def elemTypeOf (code : Nat) : Option ElemType :=
  match code with
  | 0 => some .i32 | 1 => some .n32 | 2 => some .i16x2 | 3 => some .n16x2 | 4 => some .i8x4 | 5 => some .n8x4
  | 6 => some .f32 | 7 => some .bf16x2 | 8 => some .f16x2 | 9 => some .e4m3x4 | 10 => some .e5m2x4
  | 11 => some .i64 | 12 => some .n64
  | _ => none

/-- The three classes of R108. -/
inductive TypeClass where
  | int | wide | narrow
  deriving DecidableEq, Repr

/-- The class of a type (R108). -/
def classOfType : ElemType → TypeClass
  | .i32 => .int | .n32 => .int | .i16x2 => .int | .n16x2 => .int | .i8x4 => .int | .n8x4 => .int
  | .i64 => .int | .n64 => .int
  | .f32 => .wide | .bf16x2 => .wide | .f16x2 => .wide
  | .e4m3x4 => .narrow | .e5m2x4 => .narrow

/-- Element width in bits. -/
def elemBits : ElemType → Nat
  | .i32 => 32 | .n32 => 32 | .f32 => 32
  | .i16x2 => 16 | .n16x2 => 16 | .bf16x2 => 16 | .f16x2 => 16
  | .i8x4 => 8 | .n8x4 => 8 | .e4m3x4 => 8 | .e5m2x4 => 8
  | .i64 => 64 | .n64 => 64

/-- n_elem (R109). -/
def elemCount (t : ElemType) : Nat := max 1 (32 / elemBits t)

/-- Two's complement types. -/
def elemSigned : ElemType → Bool
  | .i32 => true | .i16x2 => true | .i8x4 => true | .i64 => true
  | .n32 => false | .n16x2 => false | .n8x4 => false | .n64 => false
  | .f32 => false | .bf16x2 => false | .f16x2 => false | .e4m3x4 => false | .e5m2x4 => false

/-- The format of a floating-point type; binary32 for an integer type, which never uses it. -/
def elemFmt : ElemType → Fmt
  | .bf16x2 => .bf16 | .f16x2 => .f16 | .e4m3x4 => .e4m3 | .e5m2x4 => .e5m2
  | .i32 => .f32 | .n32 => .f32 | .i16x2 => .f32 | .n16x2 => .f32 | .i8x4 => .f32 | .n8x4 => .f32
  | .f32 => .f32 | .i64 => .f32 | .n64 => .f32

/-- A type held in register pairs (R92). -/
def isWide64 (code : Nat) : Bool := code == 11 || code == 12

/-- Element k of a lane's value, w bits each, lowest first (R58). -/
def elemAt (w k : Nat) (x : Nat) : Nat := x / 2 ^ (w * k) % 2 ^ w

/-- A lane's value from its elements (R58). -/
def packElems (w : Nat) : List Nat → Nat
  | [] => 0
  | x :: rest => x + 2 ^ w * packElems w rest

/-- The elements of a lane's value. -/
def splitElems (w n : Nat) (x : Nat) : List Nat := (List.range n).map fun k => elemAt w k x

/-- Fields of the mode register (R89). -/
def modeType (m : Word) : Nat := (m >>> 4).toNat % 32
/-- GP. -/
def modeGuard (m : Word) : Nat := m.toNat % 8
/-- GN. -/
def modeNegate (m : Word) : Bool := m.getLsbD 3
/-- RND. -/
def modeRnd (m : Word) : Nat := (m >>> 9).toNat % 8
/-- SAT. -/
def modeSat (m : Word) : Bool := m.getLsbD 12
/-- FTZ. -/
def modeFtz (m : Word) : Bool := m.getLsbD 13

/-- A register file of the machine. -/
inductive RegFile where
  | v | s | p
  deriving DecidableEq, Repr

/-- A use of consecutive registers by an instruction. -/
structure Use where
  file : RegFile
  base : Nat
  n : Nat
  rd : Bool
  wr : Bool
  deriving DecidableEq, Repr

/-- Vector registers read. -/
def vr (b n : Nat) : Use := { file := .v, base := b, n := n, rd := true, wr := false }
/-- Vector registers written. -/
def vw (b n : Nat) : Use := { file := .v, base := b, n := n, rd := false, wr := true }
/-- Vector registers read and written. -/
def vx (b n : Nat) : Use := { file := .v, base := b, n := n, rd := true, wr := true }
/-- Scalars read. -/
def sr (b n : Nat) : Use := { file := .s, base := b, n := n, rd := true, wr := false }
/-- Scalars written. -/
def sw (b n : Nat) : Use := { file := .s, base := b, n := n, rd := false, wr := true }
/-- Scalars read and written. -/
def sx (b n : Nat) : Use := { file := .s, base := b, n := n, rd := true, wr := true }
/-- A predicate read. -/
def pr (b : Nat) : Use := { file := .p, base := b, n := 1, rd := true, wr := false }

/-- The registers that form a lane-wise global address (R187). -/
def globalUse (a : BitVec 7) (s : BitVec 6) : List Use :=
  if s = 0 then [vr a.toNat 2] else [vr a.toNat 1, sr s.toNat 2]

/-- The registers that form a scratchpad address (R187). -/
def localUse (a : BitVec 7) (s : BitVec 6) : List Use :=
  if s = 0 then [vr a.toNat 1] else [vr a.toNat 1, sr s.toNat 1]

/-- Registers of a store's data by size code (R192). -/
def storeRegs (z : BitVec 3) : Nat := if z = 3 then 2 else if z = 4 then 4 else 1

/-- Registers of a `vcvt` group on the side of element width w against the other width (R128). -/
def cvtRegs (w other : Nat) : Nat := (max 1 (32 / min w other)) * w / 32

/-- Element width of a TYPE code, 32 for a reserved one. -/
def codeBits (code : Nat) : Nat := match elemTypeOf code with | some t => elemBits t | none => 32

/-- Registers of an atomic's operand and result under a TYPE code (R197). -/
def atomRegs (code : Nat) : Nat := if isWide64 code then 2 else 1

/-- A milestone number destination: the pair s1, nothing for s1 = 0 (R202). -/
def numberUse (a : BitVec 6) : List Use := if a = 0 then [] else [sw a.toNat 2]

/-- A scalar that names an object, nothing for field 0. -/
def optUse (a : BitVec 6) : List Use := if a = 0 then [] else [sr a.toNat 1]

/-- The registers an instruction reads and writes, by its TYPE code and the launch's accumulator mode. -/
def uses (i : Instr) (t : Nat) (ring : Bool) : List Use :=
  let k := if isWide64 t then 2 else 1
  let n (r : BitVec 7) : Nat := r.toNat
  let m (r : BitVec 6) : Nat := r.toNat
  match i with
  | .sadd d a b | .ssub d a b | .smul d a b | .smulh d a b | .smulhn d a b | .sand d a b | .sor d a b | .sxor d a b
  | .sshl d a b | .sshr d a b | .ssra d a b | .smin d a b | .smax d a b | .sminn d a b | .smaxn d a b =>
      [sr (n a) 1, sr (n b) 1, sw (n d) 1]
  | .sbfe d a b _ | .scmp d a b _ => [sr (n a) 1, sr (n b) 1, sw (n d) 1]
  | .sbfi d a b | .ssel d a b => [sr (n a) 1, sr (n b) 1, sx (n d) 1]
  | .sclz d a | .spopc d a => [sr (n a) 1, sw (n d) 1]
  | .saddi d a _ | .sandi d a _ | .sori d a _ | .sxori d a _ => [sr (n a) 1, sw (n d) 1]
  | .sshli d a _ | .sshri d a _ => [sr (n a) 1, sw (n d) 1]
  | .smovi d _ => [sw (n d) 1]
  | .smoviHi d _ => [sx (n d) 1]
  | .sadd64 d a b | .ssub64 d a b => [sr (n a) 2, sr (n b) 2, sw (n d) 2]
  | .sshf64 d a b _ => [sr (n a) 2, sr (n b) 1, sw (n d) 2]
  | .vadd d a b _ | .vsub d a b _ | .vmul d a b _ => [vr (n a) k, vr (n b) k, vw (n d) k]
  | .vmulh d a b | .vmin d a b | .vmax d a b | .vminp d a b | .vmaxp d a b | .vshl d a b | .vshr d a b | .vsra d a b =>
      [vr (n a) k, vr (n b) k, vw (n d) k]
  | .vfma d a b _ => [vr (n a) k, vr (n b) k, vx (n d) k]
  | .vabs d a | .vneg d a | .vclz d a | .vpopc d a => [vr (n a) k, vw (n d) k]
  | .vand d a b | .vor d a b | .vxor d a b => [vr (n a) 1, vr (n b) 1, vw (n d) 1]
  | .vnot d a => [vr (n a) 1, vw (n d) 1]
  | .vbfe d a b _ => [vr (n a) 1, vr (n b) 1, vw (n d) 1]
  | .vbfi d a b => [vr (n a) 1, vr (n b) 1, vx (n d) 1]
  | .vdot4 d a b _ => [vr (n a) 1, vr (n b) 1, vx (n d) 1]
  | .vscale d a b _ => [vr (n a) 1, vr (n b) 1, vw (n d) 1]
  | .vfrac d a | .vclass d a => [vr (n a) 1, vw (n d) 1]
  | .vrnd d a _ => [vr (n a) 1, vw (n d) 1]
  | .vaddi d a _ | .vmuli d a _ | .vmini d a _ | .vmaxi d a _ => [vr (n a) k, vw (n d) k]
  | .vshli d a _ | .vshri d a _ | .vsrai d a _ => [vr (n a) k, vw (n d) k]
  | .vandi d a _ | .vori d a _ | .vxori d a _ => [vr (n a) 1, vw (n d) 1]
  | .vrcp d a | .vrsq d a | .vsqrt d a | .vexp2 d a | .vlog2 d a | .vsin d a | .vcos d a | .vtanh d a | .vsigm d a
  | .verf d a => [vr (n a) 1, vw (n d) 1]
  | .vcvt d a src _ =>
      let ws := codeBits src.toNat
      let wd := codeBits t
      [vr (n a) (cvtRegs ws wd), vw (n d) (cvtRegs wd ws)]
  | .vpack d a x => [vr (n a) (if x = 2 then 16 else 8), vw (n d) 1]
  | .vunpk d a x => [vr (n a) 1, vw (n d) (if x = 2 then 16 else 8)]
  | .vqblk d a _ _ => [vr (n a) (if t = 6 then 4 else 2), vw (n d) 1]
  | .vcmp _ a b _ => [vr (n a) k, vr (n b) k]
  | .vcmpi _ a _ _ => [vr (n a) k]
  | .pand _ a b _ _ | .por _ a b _ _ | .pxor _ a b _ _ => [pr a.toNat, pr b.toNat]
  | .pmov _ a _ => [pr a.toNat]
  | .pmovV2p _ a _ => [vr (n a) 1]
  | .pmovP2v d a _ => [pr a.toNat, vw (n d) 1]
  | .vsel d a b x => [vr (n a) 1, vr (n b) 1, pr x.toNat, vw (n d) 1]
  | .vmov d a w => let c := if w = 1 then 2 else 1; [vr (n a) c, vw (n d) c]
  | .vmovi d _ => [vw (n d) 1]
  | .vmovh d _ => [vx (n d) 1]
  | .vbcs d a w => let c := if w = 1 then 2 else 1; [sr (n a) c, vw (n d) c]
  | .vget d a b => [vr (n a) 1, sr (n b) 1, sw (n d) 1]
  | .vput d a b => [sr (n a) 1, sr (n b) 1, vw (n d) 1]
  | .vlid d _ => [vw (n d) 1]
  | .vbnd d a _ => [vr (n a) 1, vw (n d) 1]
  | .vshfl d a b w => let c := if w = 1 then 2 else 1; [vr (n a) c, vr (n b) 1, vw (n d) c]
  | .vshfu d a b w u | .vshfd d a b w u | .vshfx d a b w u =>
      let c := if w = 1 then 2 else 1
      (if u = 1 then [sr (n b) 1] else []) ++ [vr (n a) c, vw (n d) c]
  | .vote d _ a x => [pr a.toNat, sw (n d) (if x = 4 then 3 else 1)]
  | .vred d a x | .vscan d a _ x =>
      let c := if x.toNat < 5 then k else 1
      [vr (n a) c, vw (n d) c]
  | .vmatch d a w => [vr (n a) (if w = 1 then 2 else 1), vw (n d) 3]
  | .width d => [sw (n d) 1]
  | .br _ => []
  | .bra p _ _ => [pr p.toNat]
  | .brc _ s _ => [sr (m s) 1]
  | .brx a b => [sr (n a) 2, vr (n b) 1]
  | .brxU a => [sr (n a) 2]
  | .call _ => [sw 58 2]
  | .ret a => [sr (n a) 2]
  | .barInit a b => [sr (m a) 1, sr (m b) 1]
  | .barArv a b c => [sr (m b) 1] ++ optUse c ++ [sw (m a) 1]
  | .barWait a b c => [sr (m b) 1, sr (m c) 1, sw (m a) 2]
  | .fork a b => [sr (m a) 2, sr (m b) 2]
  | .rdv a => [sw (m a) 2]
  | .rcall c a b e => [sr (m b) 2, sr (m e) 2, sr 16 c.toNat, sw (m a) 1]
  | .rcallRetry c a b e => [sr (m b) 2, sr (m e) 2, sr 16 c.toNat, sx (m a) 1]
  | .rret c => [sr 16 c.toNat]
  | .rwait d a _ => [sr (n a) 1, sw (n d) 16]
  | .launch a b c => [sr (m b) 2, sr (m c) 1, sw (m a) 1]
  | .sbnd _ _ a b => [sr (m a) 1, sr (m b) 1]
  | .ldN8 d a s _ | .ldI8 d a s _ | .ldN16 d a s _ | .ldI16 d a s _ | .ld32 d a s _ => globalUse a s ++ [vw (n d) 1]
  | .ld64 d a s _ => globalUse a s ++ [vw (n d) 2]
  | .ld128 d a s _ => globalUse a s ++ [vw (n d) 4]
  | .st d a s z => globalUse a s ++ [vr (n d) (storeRegs z)]
  | .ldl32 d a s _ => localUse a s ++ [vw (n d) 1]
  | .ldl128 d a s _ => localUse a s ++ [vw (n d) 4]
  | .stl d a s z => localUse a s ++ [vr (n d) (storeRegs z)]
  | .ldlQ d a _ w _ _ => [vr (n a) 1, vw (n d) (if w = 1 then 4 else 1)]
  | .stlQ d a _ w _ => [vr (n a) 1, vr (n d) (if w = 1 then 4 else 1)]
  | .ldc d p _ _ => [sw (n d) (if p = 1 then 2 else 1)]
  | .sld d p a s _ => [sr (m a) 1] ++ (if s = 0 then [] else [sr (m s) 2]) ++ [sw (n d) (if p = 1 then 2 else 1)]
  | .red d a s o => globalUse a s ++ [vr (n d) (if o = 9 then 2 * k else k)]
  | .atomAdd d a s _ | .atomMin d a s _ | .atomMax d a s _ | .atomMinn d a s _ | .atomMaxn d a s _ | .atomAnd d a s _
  | .atomOr d a s _ | .atomXor d a s _ | .atomSwap d a s _ | .atomInc d a s _ | .atomDec d a s _ | .atomFadd d a s _ =>
      globalUse a s ++ [vx (n d) k]
  | .atomCas d a s _ => globalUse a s ++ [vr (n d) (2 * k), vw (n d) k]
  | .atoml d a o => [vr (n a) 1, vr (n d) (if o = 9 then 2 * k else k), vw (n d) k]
  | .cpy _ a b c | .cpyz _ a b c => [sr (m b) 1] ++ optUse c ++ numberUse a
  | .mrd _ _ a => [sw (m a) 2]
  | .mwait _ _ a => [sr (m a) 2]
  | .mstep _ _ a => numberUse a
  | .pref _ a b | .cinv _ a b | .cwb _ a b => [sr (m a) 2, sr (m b) 1]
  | .xatAdd d a s => globalUse a s ++ [vr (n d) 1]
  | .xatRed d a s _ => globalUse a s ++ [vr (n d) k]
  | .xatRmw d a s _ => globalUse a s ++ [vx (n d) k]
  | .xatExpr _ a b => [sr (m b) 1] ++ numberUse a
  | .xatFill _ a b c => [sr (m b) 2, sr (m c) 1] ++ numberUse a
  | .xatCopy _ a b c | .mrelay _ a b c => [sr (m b) 4, sr (m c) 1] ++ numberUse a
  | .mqPut a b c | .mqGet a b c => [sr (m b) 2, sr (m c) 1, sw (m a) 1]
  | .mred _ _ a b | .nput _ a b | .nget _ a b | .nsig _ a b => [sr (m b) 1] ++ numberUse a
  | .nwait a b => [sr (m a) 1, sr (m b) 2]
  | .nwaitRd a b => [sr (m a) 1, sw (m b) 2]
  | .mmaI8t2 d a s _ | .mmaI8i4 d a s _ | .mmaI8i8 d a s _ =>
      [vr (n a) 1] ++ optUse s ++ (if ring then [] else [vx (n d) 32])
  | .mmaE4t2 _ a s _ | .mmaE4e4 _ a s _ | .mmaE4e5 _ a s _ | .mmaE5e4 _ a s _ | .mmaE5e5 _ a s _ | .mmaE2e2 _ a s _
  | .mmaBf16 _ a s _ | .mmaF16 _ a s _ | .mmaBft2 _ a s _ => [vr (n a) 1] ++ optUse s
  | .msa d a s _ => [vr (n a) 1] ++ optUse s ++ [vx (n d) 32]
  | .mmovToRegisters d _ _ => [vw (n d) 32]
  | .mmovToTile d _ => [vr (n d) 32]
  | .mring _ a b => optUse a ++ optUse b
  | .eSa o a b => if o = 2 ∨ o = 3 then [sr (m a) 1, sr (m b) 1] else []
  | .eBias _ a => [sr (m a) 1]
  | .eSt a b c | .eAst a b c => [sr (m a) 2, sr (m b) 1, sr (m c) 1]
  | .eArv a b => [sr (m b) 1, sw (m a) 1]
  | .eBr a _ => optUse a
  | .eWait a b c => [sr (m b) 1, sr (m c) 1, sw (m a) 2]
  | .srd a _ => [sw (m a) 1]
  | .swr a _ | .ctlModeWrite a | .ctlCpyfltWrite a | .ctlEstWrite a | .ctlTcauseWrite a => [sr (m a) 1]
  | .clk a _ => [sw (m a) 2]
  | .sleep a => [sr (m a) 1]
  | .id _ a => [sw (m a) 1]
  | .dbg a b c => [sr (m a) 1, sr (m b) 1, sr (m c) 1]
  | _ => []

/-- The lane-wise instructions that obey the guard and so read its predicate (R91): opcodes 0x20 to 0x7F and 0xA0 to
0xBF less those that execute once per issue, and the per-lane forms 0xD0 to 0xD2. -/
def obeysGuard (opcode : Nat) : Bool :=
  (0x20 ≤ opcode && opcode ≤ 0x77) || (0xA0 ≤ opcode && opcode ≤ 0xAC) || (0xAF ≤ opcode && opcode ≤ 0xBF) ||
  (0xD0 ≤ opcode && opcode ≤ 0xD2)

/-- The opcode of an instruction word; 0 for an event, which has none. -/
def opcodeOf (i : Instr) : Nat := match encode i with | some w => (w >>> 24).toNat | none => 0

/-- The types an instruction is defined on (R92, R108). -/
inductive TypeNeed where
  /-- does not consult TYPE -/
  | any
  /-- every type of the three classes -/
  | all
  | int
  /-- F and N -/
  | float
  /-- F -/
  | wide
  /-- f32 alone -/
  | f32
  /-- i32, n32, i64, n64 -/
  | atomInt
  /-- i32, n32, i64, n64 and F -/
  | atomAny
  deriving DecidableEq, Repr

/-- The types of an atomic operation number of R196 or R306. -/
def atomNeed (o : Nat) : TypeNeed := if o ≤ 11 then .atomInt else .wide

/-- The types of a reduction operator of R140. -/
def redNeed (x : BitVec 3) : TypeNeed :=
  if x.toNat ≤ 2 then .all else if x.toNat ≤ 4 then .float else .any

/-- The types each instruction is defined on. -/
def typeNeed : Instr → TypeNeed
  | .vadd _ _ _ _ | .vsub _ _ _ _ | .vmul _ _ _ _ | .vfma _ _ _ _ => .all
  | .vmin _ _ _ | .vmax _ _ _ => .all
  | .vabs _ _ | .vneg _ _ => .all
  | .vcmp _ _ _ _ => .all
  | .vcvt _ _ _ _ => .all
  | .vmulh _ _ _ | .vshl _ _ _ | .vshr _ _ _ | .vsra _ _ _ => .int
  | .vclz _ _ | .vpopc _ _ => .int
  | .vaddi _ _ _ | .vmuli _ _ _ | .vmini _ _ _ | .vmaxi _ _ _ => .int
  | .vshli _ _ _ | .vshri _ _ _ | .vsrai _ _ _ => .int
  | .vcmpi _ _ _ _ => .int
  | .vminp _ _ _ | .vmaxp _ _ _ => .float
  | .vscale _ _ _ _ => .float
  | .vfrac _ _ | .vclass _ _ => .float
  | .vrnd _ _ _ => .float
  | .vrcp _ _ | .vrsq _ _ | .vsqrt _ _ | .vexp2 _ _ | .vlog2 _ _ | .vsin _ _ | .vcos _ _ | .vtanh _ _ | .vsigm _ _
  | .verf _ _ => .wide
  | .vqblk _ _ _ _ => .wide
  | .vred _ _ x => redNeed x
  | .vscan _ _ _ x => redNeed x
  | .vbnd _ _ _ => .f32
  | .red _ _ _ o => atomNeed o.toNat
  | .atoml _ _ o => atomNeed o.toNat
  | .xatRed _ _ _ o => atomNeed o.toNat
  | .atomAdd _ _ _ _ | .atomMin _ _ _ _ | .atomMax _ _ _ _ | .atomMinn _ _ _ _ | .atomMaxn _ _ _ _ | .atomAnd _ _ _ _
  | .atomOr _ _ _ _ | .atomXor _ _ _ _ | .atomSwap _ _ _ _ | .atomCas _ _ _ _ | .atomInc _ _ _ _ | .atomDec _ _ _ _ =>
      .atomInt
  | .atomFadd _ _ _ _ => .wide
  | .xatRmw _ _ _ _ => .atomAny
  | _ => .any

/-- Whether a TYPE code meets a need (R92). -/
def typeMeets (need : TypeNeed) (code : Nat) : Bool :=
  match need with
  | .any => true
  | .all => (elemTypeOf code).isSome
  | .int => match elemTypeOf code with | some t => classOfType t == .int | none => false
  | .float => match elemTypeOf code with | some t => classOfType t != .int | none => false
  | .wide => match elemTypeOf code with | some t => classOfType t == .wide | none => false
  | .f32 => code == 6
  | .atomInt => code == 0 || code == 1 || code == 11 || code == 12
  | .atomAny => code == 0 || code == 1 || code == 11 || code == 12 || code == 6 || code == 7 || code == 8

/-- A vector group a typed instruction names: even under a 64-bit type, not past v119, no mixture with temporaries
(R58, R78, R92). -/
def groupOk (wide : Bool) (b n : Nat) : Bool :=
  if n ≤ 1 then true else (!wide || b % 2 == 0) && decide (b + n ≤ 120)

/-- The encodings that the element type in force makes legal or not (R78, R92, R128, R131, R197, R304): an odd register
field is refused under a 64-bit type even by an instruction that type does not suit, ILLEGAL_ENCODING coming before TYPE
(R92, R97).  A reserved TYPE gives `vcvt` no group size beyond the pair of a 64-bit source. -/
def typeEncodingOk (i : Instr) (t : Nat) : Bool :=
  let wide := isWide64 t
  match i with
  | .vcvt d a src _ =>
      let ws := codeBits src.toNat
      let wd := codeBits t
      if (elemTypeOf t).isNone || (elemTypeOf src.toNat).isNone then ws != 64 || groupOk true a.toNat 2
      else (groupOk (ws == 64) a.toNat (cvtRegs ws wd) && groupOk (wd == 64) d.toNat (cvtRegs wd ws))
  | .vqblk d a _ _ =>
      if typeMeets .wide t then groupOk false a.toNat (if t = 6 then 4 else 2)
      else !wide || (groupOk true d.toNat 2 && groupOk true a.toNat 2)
  | .atomCas d _ _ _ => !wide || groupOk true d.toNat 4
  | .red d _ _ o => if o = 9 then groupOk wide d.toNat (if wide then 4 else 2) else !wide || groupOk true d.toNat 2
  | .atoml d _ o => if o = 9 then groupOk wide d.toNat (if wide then 4 else 2) else !wide || groupOk true d.toNat 2
  | .vred d a x | .vscan d a _ x =>
      !wide || 4 < x.toNat || (groupOk true d.toNat 2 && groupOk true a.toNat 2)
  | _ =>
      if typeNeed i = .any ∨ !wide then true
      else (uses i t false).all fun u => u.file != .v || groupOk true u.base (max u.n 2) ||
        -- the address operands keep their own form (R187)
        (match i with
          | .xatRed d _ _ _ => u.base != d.toNat
          | .xatRmw d _ _ _ => u.base != d.toNat
          | .atomAdd d _ _ _ | .atomMin d _ _ _ | .atomMax d _ _ _ | .atomMinn d _ _ _ | .atomMaxn d _ _ _
          | .atomAnd d _ _ _ | .atomOr d _ _ _ | .atomXor d _ _ _ | .atomSwap d _ _ _ | .atomInc d _ _ _
          | .atomDec d _ _ _ | .atomFadd d _ _ _ => u.base != d.toNat
          | _ => false)

/-- A matrix instruction (R239). -/
def isMatrix (opcode : Nat) : Bool := 0xE0 ≤ opcode && opcode ≤ 0xEF

/-- The fields of matrix instructions that the accumulator mode governs (R240, R242, R243, R247). -/
def accEncodingOk (i : Instr) (ring : Bool) : Bool :=
  match i with
  | .mmaI8t2 d _ _ l | .mmaI8i4 d _ _ l | .mmaI8i8 d _ _ l =>
      if ring then d == 0 && l.toNat < 4 else d.toNat ≤ 88
  | .mmaE4t2 d _ _ l | .mmaE4e4 d _ _ l | .mmaE4e5 d _ _ l | .mmaE5e4 d _ _ l | .mmaE5e5 d _ _ l | .mmaE2e2 d _ _ l
  | .mmaBf16 d _ _ l | .mmaF16 d _ _ l | .mmaBft2 d _ _ l => d == 0 && (if ring then l == 3 else l == 0)
  | .mring _ a _ => ring || a == 0
  | _ => true

/-- The run-ending instructions (R81). -/
def isRunEnding : Instr → Bool
  | .br _ | .bra _ _ _ | .brc _ _ _ | .brx _ _ | .brxU _ | .call _ | .ret _ | .jwait _ | .yield | .exit | .tret
  | .rret _ => true
  | _ => false

/-- The instructions that are a double trap in a handler (R299), beside a branch that would create a split. -/
def forbiddenInHandler (i : Instr) : Bool :=
  match i with
  | .jwait _ | .kbar | .gbar | .racq | .fork _ _ | .rcall _ _ _ _ | .rcallRetry _ _ _ _ => true
  | _ => isMatrix (opcodeOf i)

/-- The instruction set of a far task, by opcode (R167). -/
def farOpcode (o : Nat) : Bool :=
  o ≤ 0x78 || o == 0xFF || (0x80 ≤ o && o ≤ 0x85) || o == 0x8C || o == 0x8E || o == 0x98 ||
  (0xA0 ≤ o && o ≤ 0xBD) || (0xC5 ≤ o && o ≤ 0xC8) || (0xF8 ≤ o && o ≤ 0xFB)

/-- The instruction set of an engine program, by opcode (R252). -/
def engineOpcode (o : Nat) : Bool := o ≤ 0x1F || o == 0xAD || o == 0xAE || (0xF0 ≤ o && o ≤ 0xF7)

/-- The instruction set of a warp, by opcode: all but the epilogue commands (R96); `rret` is refused by its own
description (R168). -/
def warpOpcode (o : Nat) : Bool := !(0xF0 ≤ o && o ≤ 0xF7)

/-- The opcodes the map of R94 leaves unassigned, and the reserved ones of R96. -/
def assignedOpcode (o : Nat) : Bool :=
  o ≤ 0x3A || (0x40 ≤ o && o ≤ 0x49) || (0x50 ≤ o && o ≤ 0x5D) || (0x60 ≤ o && o ≤ 0x6E) || (0x70 ≤ o && o ≤ 0x78) ||
  (0x80 ≤ o && o ≤ 0x8E) || (0x90 ≤ o && o ≤ 0x9D) || (0xA0 ≤ o && o ≤ 0xBD) || (0xC0 ≤ o && o ≤ 0xC8) ||
  (0xD0 ≤ o && o ≤ 0xDE) || (0xE0 ≤ o && o ≤ 0xFB) || o == 0xFF

/-- The join register an instruction names (R43, R153). -/
def joinOf : Instr → Option Nat
  | .jarm j | .jarv j | .jwait j | .jclr j => some j.toNat
  | _ => none

/-- The accumulator tile an instruction names in a field (R43, R240). -/
def tileOf : Instr → Option Nat
  | .mzero t => some t.toNat
  | .mmovToRegisters _ t _ => some t.toNat
  | .mmovToTile _ t => some t.toNat
  | .mring t _ _ => some t.toNat
  | _ => none

/-- The vector registers that a trailer names (R43, R82). -/
def trailerRegs : Instr → List Nat
  | .endRun a b d => [a.toNat, b.toNat, d.toNat].filter fun k => decide (k < 0x78)
  | _ => []

/-- `dbg`, whose only traps are those of R96 (R181). -/
def tracesOnly : Instr → Bool
  | .dbg _ _ _ => true
  | _ => false

/-- The opcodes that access memory, issue commands that do, or release (R94, 13_consistency R217): they take effect only
after an acquire that precedes them. -/
def ordersAfter (o : Nat) : Bool :=
  o == 0x87 || o == 0x88 || o == 0x8B || (0x90 ≤ o && o ≤ 0x95) || o == 0x97 || o == 0x98 || o == 0x9A ||
  (0xA0 ≤ o && o ≤ 0xC1) || (0xC4 ≤ o && o ≤ 0xC8) || (0xD0 ≤ o && o ≤ 0xD5) || (0xD7 ≤ o && o ≤ 0xDD) ||
  (0xE0 ≤ o && o ≤ 0xEC)

/-- The instruction acts on the active lanes, or on the activity mask itself: lane-wise instructions, `width`, `bra`, `brx`,
the arrivals at joins, `exit`, and the matrix instructions, which need a fully ganged warp (01_machine R25, R30). -/
def readsMask (i : Instr) : Bool :=
  match i with
  | .brxU _ => false
  | _ =>
    let o := opcodeOf i
    obeysGuard o || o == 0x78 || o == 0x81 || o == 0x83 || o == 0x86 || o == 0x87 || o == 0x88 || o == 0x8B || isMatrix o

/-- The milestone counter that an instruction issues a command on (11_memory R206). -/
def counterOf : Instr → Option Nat
  | .cpy k _ _ _ | .cpyz k _ _ _ | .mstep _ k _ | .xatExpr k _ _ | .xatFill k _ _ _ | .xatCopy k _ _ _ | .mred _ k _ _
  | .mrelay k _ _ _ | .nput k _ _ | .nget k _ _ | .nsig k _ _ => some k.toNat
  | _ => none

/-- The lookahead of a long-latency instruction (R83). -/
def lookOf : Instr → Nat
  | .ldN8 _ _ _ l | .ldI8 _ _ _ l | .ldN16 _ _ _ l | .ldI16 _ _ _ l | .ld32 _ _ _ l | .ld64 _ _ _ l | .ld128 _ _ _ l
  | .ldl32 _ _ _ l | .ldl128 _ _ _ l | .ldc _ _ _ l => l.toNat
  | .ldlQ _ _ _ _ _ l => l.toNat
  | .sld _ _ _ _ l => l.toNat
  | .atomAdd _ _ _ l | .atomMin _ _ _ l | .atomMax _ _ _ l | .atomMinn _ _ _ l | .atomMaxn _ _ _ l | .atomAnd _ _ _ l
  | .atomOr _ _ _ l | .atomXor _ _ _ l | .atomSwap _ _ _ l | .atomCas _ _ _ l | .atomInc _ _ _ l | .atomDec _ _ _ l
  | .atomFadd _ _ _ l | .xatRmw _ _ _ l => l.toNat
  | .mmaI8t2 _ _ _ l | .mmaI8i4 _ _ _ l | .mmaI8i8 _ _ _ l | .msa _ _ _ l => l.toNat
  | .mmovToRegisters _ _ l => l.toNat
  | .rwait _ _ l => l.toNat
  | _ => 0

end Sys2Proof.Machine
end

