-- ==== Sys2Proof/Machine/Ops.lean ====
section
/-! DEFINITION. The shared operations: the executing split and its registers, the window and write-back of long-latency
results (05_encoding R84 to R86), issue with its ordered causes (R97), taking a trap and returning from one
(19_translation R295 to R300, R363), trailers, and the engine program's side of the same. -/

namespace Sys2Proof.Machine

/-- The outcome of a step. -/
abbrev Out := Host.Outcome State Fault Refusal

/-- The executing split: the state, the warp's key and record, the entry's number and content. -/
structure Cx where
  s : State
  wk : Nat
  w : Warp
  e : Nat
  sp : Split
  deriving DecidableEq, Repr

/-- The split at an entry of a warp. -/
def cxOf (s : State) (wk e : Nat) : Option Cx :=
  match Tab.get? s.warps wk with
  | none => none
  | some w => match Tab.get? w.splits e with
    | none => none
    | some sp => some { s := s, wk := wk, w := w, e := e, sp := sp }

/-- The state with the executing split written back. -/
def Cx.commit (c : Cx) : State :=
  { c.s with warps := Tab.put c.s.warps c.wk { c.w with splits := Tab.put c.w.splits c.e c.sp } }

/-- The state with the warp written back and the executing entry freed. -/
def Cx.commitFree (c : Cx) : State :=
  { c.s with warps := Tab.put c.s.warps c.wk { c.w with splits := Tab.del c.w.splits c.e } }

/-- The executing split after a change of the state around it. -/
def Cx.reread (c : Cx) (s : State) : Cx := (cxOf s c.wk c.e).getD { c with s := s }

/-! ### Where a warp belongs -/

/-- The workgroup of a warp; none for a far task. -/
def wgOf (s : State) (w : Warp) : Option Workgroup := if w.far.isSome then none else Tab.get? s.wgs w.wg

/-- The skein of a warp. -/
def skOf (s : State) (w : Warp) : Option Skein := (wgOf s w).bind fun g => Tab.get? s.skeins g.skein

/-- The number of a warp's launch; for a far task, its caller's. -/
def lnKey (s : State) (w : Warp) : Option Nat :=
  match w.far with
  | some f => some f.launch
  | none => (skOf s w).map fun k => k.launch

/-- The launch of a warp; none for a far task. -/
def lnOf (s : State) (w : Warp) : Option Launch := (skOf s w).bind fun k => Tab.get? s.launches k.launch

/-- The kernel of a warp. -/
def kernelOf (s : State) (w : Warp) : Option Kernel := (lnOf s w).map fun l => l.kernel

/-- The ASID a warp's accesses are translated under (R166, R286). -/
def asidOf (s : State) (w : Warp) : Nat :=
  match w.far with
  | some f => f.asid
  | none => match lnOf s w with | some l => l.asid | none => 0

/-- Ring mode of the launch (R241). -/
def ringMode (s : State) (w : Warp) : Bool := match kernelOf s w with | some k => k.ring | none => false

/-- A `.shadow` launch (R31). -/
def isShadow (s : State) (w : Warp) : Bool := match kernelOf s w with | some k => k.shadow | none => false

/-- A number names a `.snapshot` launch (R349). -/
def snapshotLaunch (s : State) (l : Option Nat) : Bool :=
  match l.bind (Tab.get? s.launches) with
  | some x => x.kernel.snapshot
  | none => false

/-- A party of a `.snapshot` launch, a far task of one among them (R349). -/
def isSnapshot (s : State) (w : Warp) : Bool := snapshotLaunch s (lnKey s w)

/-- Vector registers allotted now (R43, R44, R166). -/
def vregAllot (s : State) (w : Warp) : Nat :=
  if w.far.isSome then 32
  else match skOf s w, kernelOf s w with
    | some k, some n => if k.full then n.vregF else n.vregP
    | _, _ => 0

/-- Join registers allotted now. -/
def joinAllot (s : State) (w : Warp) : Nat :=
  match skOf s w, kernelOf s w with
  | some k, some n => if k.full then n.joinsF else n.joinsP
  | _, _ => 0

/-- Accumulator tiles allotted to a skein of a kernel now. -/
def skeinTiles (k : Skein) (n : Kernel) : Nat := if k.full then n.tilesF else n.tilesP

/-- Accumulator tiles allotted now. -/
def tileAllot (s : State) (w : Warp) : Nat :=
  match skOf s w, kernelOf s w with
  | some k, some n => skeinTiles k n
  | _, _ => 0

/-- Bytes of a skein's scratchpad window now (R34). -/
def skeinWindow (k : Skein) (n : Kernel) : Nat := 4096 * (if k.full then n.scrF else n.scrP)

/-- Bytes of the scratchpad window; none for a far task (R166). -/
def windowBytes (s : State) (w : Warp) : Nat :=
  match skOf s w, kernelOf s w with
  | some k, some n => skeinWindow k n
  | _, _ => 0

/-! ### Registers -/

/-- A register row of zeros. -/
def zeroRow : Row := List.replicate 96 0

/-- Every lane. -/
def allLanes : Mask := BitVec.allOnes 96

/-- The lanes of a mask, ascending. -/
def lanesOf (m : Mask) : List Nat := (List.range 96).filter fun i => m.getLsbD i

/-- The lanes from first, n of them. -/
def laneRange (first n : Nat) : Mask := (BitVec.ofNat 96 (2 ^ n - 1)) <<< first

/-- The number of lanes. -/
def popMask (m : Mask) : Nat := (lanesOf m).length

/-- The lowest-numbered lane; 96 for none. -/
def lowLane (m : Mask) : Nat := (lanesOf m).headD 96

/-- The word of lanes 32g to 32g + 31 of a mask (R26). -/
def maskWord (m : Mask) (g : Nat) : Word := m.extractLsb' (32 * g) 32

/-- A mask with one word written, bits outside the lane set ignored (R26). -/
def writeMaskWord (lanes act : Mask) (g : Nat) (v : Word) : Mask :=
  let sel : Mask := (0xFFFFFFFF#96) <<< (32 * g)
  (act &&& ~~~sel) ||| (((v.setWidth 96) <<< (32 * g)) &&& sel &&& lanes)

/-- A scalar of the split's bank: s0 is 0 and s61 to s63 are the activity mask (R25, R26). -/
def Split.scalar (sp : Split) (n : Nat) : Word :=
  if n = 0 then 0 else if 61 ≤ n ∧ n ≤ 63 then maskWord sp.act (n - 61) else sp.scalars.getD n 0

/-- A scalar pair (R58). -/
def Split.scalar64 (sp : Split) (n : Nat) : DWord := pair (sp.scalar n) (sp.scalar (n + 1))

/-- A scalar of the bank written, with no regard to pending writes: s0 ignores it, s61 to s63 write the mask. -/
def Split.setScalar (sp : Split) (n : Nat) (v : Word) (poison : Bool) : Split :=
  let bad := if poison then sp.scalarPoison ||| (1#64 <<< n) else sp.scalarPoison &&& ~~~(1#64 <<< n)
  if n = 0 then sp
  else if 61 ≤ n ∧ n ≤ 63 then { sp with act := writeMaskWord sp.lanes sp.act (n - 61) v, scalarPoison := bad }
  else { sp with scalars := setAt sp.scalars n v, scalarPoison := bad }

/-- The first register of a destination that it writes: s0 ignores every write, and no write to it is pending (01_machine R25, R82;
DEDUCED, log entry 120). -/
def Dest.low (d : Dest) : Nat := if d.vector then d.base else max 1 d.base

/-- The destination holds a register that is written. -/
def Dest.names (d : Dest) : Bool := decide (d.low < d.base + d.count)

/-- A destination that covers a register. -/
def Dest.covers (d : Dest) (vector : Bool) (r : Nat) : Bool :=
  d.vector == vector && decide (d.low ≤ r) && decide (r < d.base + d.count)

/-- A later write to a register: its value survives the write-back of the result (R84), and the write-back of lanes that `tret`
reissues for it (19_translation R300). -/
def Pend.keep (p : Pend) (vector : Bool) (r : Nat) (m : Mask) : Pend :=
  if p.dest.covers vector r then { p with kept := updAt p.kept (r - p.dest.base) fun k => k ||| m } else p

/-- The row of a vector register or temporary (R77). -/
def Cx.row (c : Cx) (r : Nat) : Row :=
  if r < 120 then Tab.getD c.w.vregs r zeroRow else Tab.getD c.sp.temps (r - 120) zeroRow

/-- New values in the lanes of a mask, from lane i on. -/
def mergeFrom (m : Mask) : Nat → Row → Row → Row
  | i, a :: old, b :: new => (if m.getLsbD i then b else a) :: mergeFrom m (i + 1) old new
  | _, old, _ => old

/-- New values in the lanes of a mask. -/
def mergeRow (m : Mask) (old new : Row) : Row := mergeFrom m 0 old new

/-- A vector register or temporary written in the lanes of a mask, with pending writes told of it. -/
def Cx.putRow (c : Cx) (r : Nat) (m : Mask) (new : Row) : Cx :=
  let merged := mergeRow m (c.row r) new
  if r < 120 then
    { c with
      w := { c.w with
        vregs := Tab.put c.w.vregs r merged
        vregPoison := Tab.upd c.w.vregPoison r fun p => p &&& ~~~m }
      sp := { c.sp with pend := c.sp.pend.map fun p => p.keep true r m } }
  else
    { c with sp := { c.sp with
      temps := Tab.put c.sp.temps (r - 120) merged
      tempPoison := Tab.upd c.sp.tempPoison (r - 120) fun p => p &&& ~~~m } }

/-- A scalar written by an instruction, with pending writes told of it. -/
def Cx.putScalar (c : Cx) (n : Nat) (v : Word) : Cx :=
  { c with sp := { c.sp.setScalar n v false with pend := c.sp.pend.map fun p => p.keep false n 1 } }

/-- A scalar pair written. -/
def Cx.putScalar64 (c : Cx) (n : Nat) (v : DWord) : Cx := (c.putScalar n (loWord v)).putScalar (n + 1) (hiWord v)

/-- The row of a predicate: p0 reads all-ones (R91). -/
def Cx.pred (c : Cx) (n : Nat) : Mask := if n = 0 then allLanes else c.w.preds.getD n 0

/-- The 32-bit words of a predicate that a write in the lanes of a mask covers whole: such a write clears their poison
(25_reliability R344). -/
def wholeWords (m : Mask) : BitVec 24 :=
  (List.range 3).foldl (fun b k => if maskWord m k = 0xFFFFFFFF then b ||| (1#24 <<< k) else b) 0

/-- A predicate written in the lanes of a mask; a write to p0 has no effect (R132). -/
def Cx.putPred (c : Cx) (n : Nat) (m v : Mask) : Cx :=
  if n = 0 then c
  else { c with w := { c.w with
    preds := updAt c.w.preds n fun p => (p &&& ~~~m) ||| (v &&& m)
    predPoison := c.w.predPoison &&& ~~~(wholeWords m <<< (3 * n)) } }

/-- active_lanes (R91): the activity mask narrowed by the guard. -/
def Cx.active (c : Cx) : Mask :=
  let g := c.pred (modeGuard c.sp.mode)
  c.sp.act &&& (if modeNegate c.sp.mode then ~~~g else g)

/-- The element type in force. -/
def Cx.type (c : Cx) : Nat := modeType c.sp.mode

/-! ### The run in progress -/

/-- The address of the word a run stands at. -/
def Run.here (r : Run) : Pc := r.start + BitVec.ofNat 57 (4 * r.pos)

/-- The address of the executing word. -/
def Cx.here (c : Cx) : Pc := c.sp.run.here

/-- A word is a trailer. -/
def isTrailer (w : Word) : Bool := (w >>> 24).toNat == 0xFF

/-- The non-trailer words of the run that follow the executing one (R84). -/
def Run.following (r : Run) : Nat := ((r.words.drop (r.pos + 1)).filter fun w => !isTrailer w).length

/-- No run. -/
def Run.none (start : Pc) : Run := { start := start, words := [], pos := 0, slot := .none }

/-! ### Write-back (R84) -/

/-- One register's arrived lanes merged into its row, less the lanes a later write keeps. -/
def backRow (kept : Mask) : Nat → Row → List (Option (Word × Bool)) → Row
  | i, a :: old, v :: vs =>
    (match v with
      | some (x, _) => if kept.getLsbD i then a else x
      | none => a) :: backRow kept (i + 1) old vs
  | _, old, _ => old

/-- The lanes of one register that a write-back writes, and those it writes with poison. -/
def backMasks (kept : Mask) : Nat → List (Option (Word × Bool)) → Mask × Mask
  | _, [] => (0, 0)
  | i, v :: vs =>
    let r := backMasks kept (i + 1) vs
    match v with
    | some (_, p) =>
      if kept.getLsbD i then r
      else (r.1 ||| (1#96 <<< i), if p then r.2 ||| (1#96 <<< i) else r.2)
    | none => r

/-- Register k of a pending result written back. -/
def backReg (p : Pend) (c : Cx) (k : Nat) : Cx :=
  let vals := p.rows.getD k []
  let kept := p.kept.getD k 0
  if p.dest.vector then
    let r := p.dest.base + k
    let ms := backMasks kept 0 vals
    { c with w := { c.w with
      vregs := Tab.put c.w.vregs r (backRow kept 0 (Tab.getD c.w.vregs r zeroRow) vals)
      vregPoison :=
        let old := Tab.getD c.w.vregPoison r 0
        let new := (old &&& ~~~ms.1) ||| ms.2
        if old = new then c.w.vregPoison else Tab.put c.w.vregPoison r new } }
  else
    match vals with
    | some (x, b) :: _ =>
      if kept.getLsbD 0 then c else { c with sp := c.sp.setScalar (p.dest.base + k) x b }
    | _ => c

/-- A pending result written back. -/
def Cx.backAll (c : Cx) (p : Pend) : Cx := (List.range p.dest.count).foldl (backReg p) c

/-- Two destinations share a register. -/
def Dest.meets (a b : Dest) : Bool :=
  a.vector == b.vector && decide (a.low < b.base + b.count) && decide (b.low < a.base + a.count)

/-- A result may be written back: its window has closed, its value is there, no earlier write to its registers is
outstanding.  An earlier one whose window is still open is not waited for: the window reads the value that program order
gives without it, and it gives way when it is written back (R84). -/
def Pend.due (p : Pend) (earlier : List Pend) : Bool :=
  p.arrived && p.window == 0 && !p.done && p.held == 0 && !p.open_ &&
  !(earlier.any fun q => !q.done && q.window == 0 && q.dest.meets p.dest)

/-- The lanes that a written-back result leaves to no earlier one: those of its values, and those kept from it. -/
def Pend.wrote (p : Pend) (k : Nat) : Mask :=
  let kept := p.kept.getD k 0
  let ms := backMasks kept 0 (p.rows.getD k [])
  kept ||| ms.1

/-- A result gives way to a later one of its registers that has been written back before it (R84). -/
def Pend.yieldTo (p q : Pend) : Pend :=
  (List.range q.dest.count).foldl (fun p k => p.keep q.dest.vector (q.dest.base + k) (q.wrote k)) p

/-- A result gives way to the later ones that have just been written back. -/
def Pend.giveWay (p : Pend) (before after : List Pend) : Pend :=
  (before.zip after).foldl (fun p x => if !x.1.done && x.2.done then p.yieldTo x.2 else p) p

/-- A write of the activity mask in a shadow launch that gives paired lanes different bits (R31). -/
def Cx.maskClash (old new : Cx) : Bool :=
  isShadow old.s old.w && new.sp.act != old.sp.act && new.sp.act.extractLsb' 0 48 != new.sp.act.extractLsb' 48 48

/-- Every result that may be written back is, in program order.  One that would give paired lanes different bits of the
activity mask writes nothing, and the split traps for it (R31). -/
def backDue : List Pend → List Pend → Cx → List Pend × Cx
  | _, [], c => ([], c)
  | earlier, p :: rest, c =>
    if p.due earlier then
      let d := c.backAll p
      let clash := c.maskClash d
      let q := { p with done := true, mismatch := p.mismatch || clash }
      let r := backDue (q :: earlier) rest (if clash then c else d)
      (q.giveWay rest r.1 :: r.1, r.2)
    else
      let r := backDue (p :: earlier) rest c
      (p.giveWay rest r.1 :: r.1, r.2)

/-- A result still on record: not written back, of the run in progress, or a drain whose halves differ (R267). -/
def Pend.stays (p : Pend) : Bool := !p.done || p.inRun || p.mismatch

/-- Some of the instruction's lanes have faulted, and `tret` has still to reissue them: of its result the lanes that later writes have
taken are kept on record (19_translation R300). -/
def Pend.reissues (p : Pend) (faults : List FaultEntry) : Bool := faults.any fun f => f.pend == some p.id

/-- Write-back as far as it goes; results of earlier runs leave the record once written back. -/
def Cx.settleBacks (c : Cx) : Cx :=
  let r := backDue [] c.sp.pend c
  { r.2 with sp := { r.2.sp with pend := r.1.filter fun p => p.stays || p.reissues c.sp.faults } }

/-- The windows of the run's results and faults advance by one instruction. -/
def Split.tick (sp : Split) : Split :=
  { sp with
    pend := sp.pend.map fun p => if p.inRun then { p with window := p.window - 1 } else p
    faults := sp.faults.map fun f => { f with window := f.window.map fun n => n - 1 } }

/-- What a result still lacks: lanes that wait, a value of an engine or a reply, its arrival, its write-back. -/
def Pend.lacks (p : Pend) : Nat :=
  if p.done then 0 else 1 + (if p.arrived then 0 else 1) + (if p.open_ then 1 else 0) + (if p.held = 0 then 0 else 1)

/-- What the results of a split still lack; while its word stays, this only falls. -/
def Split.undone (sp : Split) : Nat := sp.pend.foldl (fun n p => n + p.lacks) 0

/-- The executing word has executed: the run moves on, windows close and results are written back. -/
def Cx.advance (c : Cx) : Cx :=
  let sp := c.sp.tick
  Cx.settleBacks { c with sp := { sp with run := { sp.run with pos := sp.run.pos + 1 }, stall := .none, status := .issuing, latchPoison := false, stuck := 0 } }

/-- The next state once the executing word has executed. -/
def Cx.done (c : Cx) : Out := .next c.advance.commit

/-- Nobody executes next: the arbiter chooses. -/
def unfocus (s : State) : State := { s with focus := .none }

/-- The executing word stays where it is, and its split is in a given status.  A split that parks at a replayable fault
releases its slot; its run is fetched again (R151).  One that goes on issuing notes what its results still lack: until one of them
has come further, the word stays (17_scheduling R281). -/
def Cx.stay (c : Cx) (st : SplitStatus) : Out :=
  let run := if st = .parkedFault then { c.sp.run with words := [], slot := none } else c.sp.run
  .next (unfocus (Cx.commit { c with sp := { c.sp with status := st, run := run, stuck := if st = .issuing then c.sp.undone else 0 } }))

/-- The executing word stalls and holds its place in its run (R16, R162). -/
def Cx.stall (c : Cx) (why : Stall) : Out :=
  .next (unfocus (Cx.commit { c with sp := { c.sp with status := .stalled, stall := why } }))

/-! ### Stopping a launch -/

/-- The resident skeins of a launch that stops are cancelling (17_scheduling R279); one that is retiring goes on to. -/
def stopSkeins (s : State) (l : Nat) : State :=
  let stop (k : Skein) : Skein :=
    if k.launch = l ∧ k.resident = true ∧ k.phase ≠ .retiring then { k with phase := .cancelling } else k
  { s with skeins := Tab.mapVal s.skeins stop }

/-- A record is cancelled: its launch stops at run boundaries (R283).  A graph whose node's launch is cancelled, as by a trap without a
handler, is cancelled with it (DEDUCED, log entry 116). -/
def cancelLaunch (s : State) (l : Nat) : State :=
  match Tab.get? s.launches l with
  | none => s
  | some x =>
    let s := stopSkeins { s with launches := Tab.put s.launches l { x with phase := .stopping, cancelled := true } } l
    match x.origin with
    | .slot _ _ => s
    | .node g _ => { s with graphs := Tab.upd s.graphs g fun y => { y with cancelled := true } }

/-- A snapshot launch is to be rolled back, for an error met at an address; while it is being stopped and restored, further
errors are ignored (R345, R348, R352). -/
def wantRollback (s : State) (l : Nat) (at_ : Pc) : State :=
  stopSkeins { s with launches := Tab.upd s.launches l fun x =>
      { x with rollbackWanted := true, phase := .stopping, failing := if x.rollbackWanted then x.failing else at_ } } l

/-! ### Far tasks end (R167, R168) -/

/-- A reply sent (R168, R170): it leaves, and the reply cache keeps it. -/
def sendReply (s : State) (m : ReplyMsg) : State :=
  { s with
    fresh := s.fresh + 1
    replyMsgs := Tab.put s.replyMsgs s.fresh m
    targets := Tab.upd s.targets m.core fun t => { t with
      cache := Tab.mapVal t.cache fun x =>
        if x.caller = m.caller ∧ x.seq = m.seq then { x with reply := some m, sentAt := s.timer } else x } }

/-- A far task's writes are acknowledged at dev scope, those that wait in the fault buffer among them (13_consistency R218). -/
def Warp.released (w : Warp) : Bool := w.unack.getD 2 0 == 0

/-- A far task ends (R168, R170): its release at dev scope done, its warp goes and the reply leaves; before that it executes no
more, and the reply waits (13_consistency R228). -/
def endFarTask (s : State) (wk : Nat) (f : FarTask) (status cause : Nat) (values : List Word) : State :=
  let msg : ReplyMsg :=
    { caller := f.caller, seq := f.seq, core := f.core, status := status, cause := cause, values := values }
  match Tab.get? s.warps wk with
  | none => { s with focus := .none }
  | some w =>
    if w.released then sendReply { s with warps := Tab.del s.warps wk, focus := .none } msg
    else { s with
      focus := .none
      warps := Tab.put s.warps wk { w with splits := [], spill := [], far := some { f with ending := some msg } } }

/-! ### Memory requests -/

/-- Bytes a memory request touches. -/
def MemKind.bytes : MemKind → Nat
  | .load n _ => n
  | .store n => n
  | .rmw _ t _ _ => if isWide64 t then 8 else 4

/-- The request writes memory. -/
def MemKind.writes : MemKind → Bool
  | .load _ _ => false
  | .store _ => true
  | .rmw _ _ _ _ => true

/-- The request returns a value. -/
def MemKind.returns : MemKind → Bool
  | .load _ _ => true
  | .store _ => false
  | .rmw _ _ _ r => r

/-- A near-memory form. -/
def MemKind.near : MemKind → Bool
  | .load _ _ => false
  | .store _ => false
  | .rmw _ _ n _ => n

/-! ### Taking a trap (R295 to R298, R363) -/

/-- A trap state that holds nothing. -/
def Trap.none : Trap :=
  { cause := 0, code := 0, fetch := false, handler := false, nent := 0, exec := 0, tpc := 0, trpc := 0, trpcSet := 0,
    entries := [], saved := [], savedPoison := 0, savedMode := 0, savedPend := [], savedUnawaited := [], savedTemps := [],
    savedTempPoison := [], savedRun := Run.none 0, savedAfter := .fall, savedStall := .none, fromPark := .none }

/-- A request placed among others by its lane, ascending. -/
def insertReq (r : LaneReq) : List LaneReq → List LaneReq
  | [] => [r]
  | q :: rest => if r.lane ≤ q.lane then r :: q :: rest else q :: insertReq r rest

/-- Faulted lanes with their causes, as requests of an entry. -/
def faultedReqs (l : List (Nat × LaneReq)) : List LaneReq := l.map fun x => { x.2 with fault := x.1 }

/-- An entry of some faulted lanes, in lane order: its cause and address are those of the lowest (R297). -/
def FaultEntry.ofLanes (f : FaultEntry) (l : List LaneReq) : FaultEntry :=
  match l.foldr insertReq [] with
  | [] => { f with reqs := [] }
  | r :: rest => { f with cause := r.fault, addr := r.va, reqs := r :: rest }

/-- What a trap records: cause, code, FETCH, TPC, EXEC, the resume address and the run to resume in, the entries. -/
structure TrapInfo where
  cause : Nat
  code : Nat
  fetch : Bool
  tpc : Pc
  exec : Nat
  resume : Pc
  run : Run
  entries : List FaultEntry
  fromPark : Option Nat
  deriving DecidableEq, Repr

/-- Every closed result is written back at a trap, open windows stay in the saved record (R88). -/
def Cx.drain (c : Cx) : Cx :=
  Cx.settleBacks { c with sp := { c.sp with
    pend := c.sp.pend.map fun p => if p.open_ then p else { p with arrived := true } } }

/-- The handler address of the split's workgroup (R298). -/
def Cx.tvec (c : Cx) : Pc := match wgOf c.s c.w with | some g => g.tvec | none => 0

/-- Firmware's record of a trap that stops the skein, and the cancellation of its launch (R298, R299). -/
def Cx.stopSkein (c : Cx) (t : Trap) (second : Option (Nat × Pc)) : State :=
  let c := { c with sp := { c.sp with trap := t, status := .stalled, stall := .other, run := { c.sp.run with slot := .none } } }
  let s := unfocus c.commit
  let s := { s with plat := { s.plat with
    reports := s.plat.reports ++ [{ warp := c.wk, entry := c.e, trap := t, second := second }] } }
  match lnKey s c.w with
  | some l => cancelLaunch s l
  | none => s

/-- An entry as the trap state shows it: of the lanes active at issue, those not left to reissue are done (R190, R297). -/
def FaultEntry.shown (share : Bool) (f : FaultEntry) : FaultEntry :=
  if f.cmd.isSome then f
  else
    let undone : Mask := f.reqs.foldl (fun m r => m ||| (1#96 <<< r.lane)) 0
    let scalar : Bool := match f.dest with | some d => !d.vector | none => false
    if scalar then f else { f with done := f.active &&& ~~~(if share then undone ||| (undone <<< 48) else undone) }

/-- The trap state that a trap fills (R297): s56 to s59, mode, pending-write record, temporaries and run position saved. -/
def Cx.trapState (c : Cx) (t : TrapInfo) : Trap :=
  { cause := t.cause, code := t.code, fetch := t.fetch, handler := true, nent := t.entries.length, exec := t.exec,
    tpc := t.tpc, trpc := t.resume, trpcSet := t.resume,
    entries := t.entries.map fun f => f.shown (isShadow c.s c.w && f.kind.writes),
    saved := (List.range 4).map fun k => c.sp.scalar (56 + k),
    savedPoison := c.sp.scalarPoison.extractLsb' 56 4,
    savedMode := c.sp.mode,
    savedPend := c.sp.pend.filter fun p => p.stays || p.reissues t.entries,
    savedUnawaited := c.sp.unawaited, savedTemps := c.sp.temps, savedTempPoison := c.sp.tempPoison, savedRun := { t.run with words := [], slot := .none },
    savedAfter := c.sp.after, savedStall := c.sp.stall, fromPark := t.fromPark }

/-- What a trap leaves in CTL_TSEL, which it replaces and the manual does not say by what: a free value of what the trap records and of
the selector before it (09_control R176; DESIGN CHOICE, log entry 129). -/
def Trap.selector (t : Trap) (old : Word) : Word :=
  (Config.trapSelector [t.cause, t.code, if t.fetch then 1 else 0, t.tpc.toNat, t.exec, t.nent, old.toNat]).setWidth 32

/-- The split at its handler: mode zero, CTL_FPST, lane set and mask kept, an empty pending-write record (R298). -/
def Cx.inHandler (c : Cx) (t : Trap) : Cx :=
  { c with sp := { c.sp with
    trap := t, mode := 0, pc := c.tvec, status := .ready, readyAt := c.s.ticks, run := Run.none c.tvec, temps := [],
    tempPoison := [], after := .fall, stall := .none, pend := [], unawaited := [], awaited := [], faults := [],
    latchPoison := false, recordPoison := false, tsel := t.selector c.sp.tsel } }

/-- Poison or a mismatch in a snapshot launch: no handler runs, and the rollback starts (R345, R348). -/
def rollbackCause (s : State) (l : Option Nat) (cause : Nat) : Bool := snapshotLaunch s l && (cause == 0x13 || cause == 0x10)

/-- The whole of a trap on a split: poison or mismatch in a snapshot launch starts a rollback, wherever it is met, a far task
ends, a second trap in a handler is a double trap, no handler cancels the launch, and otherwise the handler is entered. -/
def Cx.enterTrap (c : Cx) (t : TrapInfo) : Out :=
  let l := lnKey c.s c.w
  let back := rollbackCause c.s l t.cause
  match c.w.far with
  | some f =>
    let s := endFarTask c.commit c.wk f (if 0x20 ≤ t.cause then 1 else 2) t.cause []
    .next (if back then wantRollback s (l.getD 0) t.tpc else s)
  | none =>
    if back then
      .next (wantRollback (unfocus (Cx.commit { c.drain with sp := { c.drain.sp with status := .stalled, stall := .other } }))
        (l.getD 0) t.tpc)
    else if c.sp.trap.handler then .next (c.stopSkein c.sp.trap (some (t.cause, t.tpc)))
    else
      let c := c.drain
      let st := c.trapState t
      if c.tvec = 0 then .next (c.stopSkein st none)
      else .next (unfocus (c.inHandler st).commit)

/-- Accesses of the split that wait in the fault buffer (R190): of its lanes, and the scalar loads that are pending in its bank,
which count for every lane (13_consistency R212). -/
def Cx.heldLanes (c : Cx) : Bool :=
  c.s.xlate.held.any fun h => match h.2.waiter with
    | .lanes w pend _ reqs _ _ _ => w == c.wk && (reqs.any (fun r => c.sp.lanes.getLsbD r.lane) ||
        c.sp.pend.any fun p => some p.id == pend && p.held != 0)
    | _ => false

/-- A lane belongs to some split of a warp. -/
def Warp.hasLane (w : Warp) (l : Nat) : Bool :=
  w.splits.any (fun p => p.2.lanes.getLsbD l) || w.spill.any fun x => x.split.lanes.getLsbD l

/-- A split waits for the first translation of a command: it holds the lane the command goes by, or, that lane having exited in
its run, stands at the entry the command was issued from (21_near_memory R311, R321). -/
def Cmd.awaitedBy (x : Cmd) (s : State) (wk e : Nat) (sp : Split) : Bool :=
  x.warp == wk && match x.issuer with
    | none => false
    | some (e0, l) =>
      sp.lanes.getLsbD l ||
        (e0 == e && match Tab.get? s.warps wk with | some w => !w.hasLane l | none => true)

/-- The split's waiting accesses, and first translations of its commands that wait in the fault buffer (R295). -/
def Cx.heldAny (c : Cx) : Bool :=
  c.heldLanes || c.s.xlate.held.any fun h => match h.2.waiter with
    | .command n => (match Tab.get? c.s.cmds n with
        | some x => x.awaitedBy c.s c.wk c.e c.sp
        | none => false)
    | _ => false

/-- A trap must wait: a replayable lane is not yet serviced, or an engine has still to produce a result (R88, R295). -/
def Cx.mustWait (c : Cx) : Option SplitStatus :=
  if c.heldAny then some .parkedFault
  else if c.sp.pend.any fun p => !p.done && p.open_ then some .issuing
  else none

/-- Words between two addresses of one run. -/
def wordsBetween (a b : Pc) : Nat := ((b - a) >>> 2).toNat

/-- An entry comes before another in program order: those of runs that are over before those of the run in progress, by the
numbers of their results, and those of one run by address. -/
def FaultEntry.before (f g : FaultEntry) : Bool :=
  if f.exec.isSome != g.exec.isSome then f.exec.isSome
  else match f.exec, f.pend, g.pend with
    | some _, some i, some j => decide (i < j)
    | _, _, _ => decide (f.pc < g.pc)

/-- Insert an entry in program order. -/
def insertEntry (f : FaultEntry) : List FaultEntry → List FaultEntry
  | [] => [f]
  | g :: rest => if f.before g then f :: g :: rest else g :: insertEntry f rest

/-- The faults of a run in program order. -/
def sortEntries (l : List FaultEntry) : List FaultEntry := l.foldr insertEntry []

/-- The trap of the run's faulted instructions, taken before the executing word, which has not executed (R295, R363). -/
def Cx.faultTrap (c : Cx) : Out :=
  match c.mustWait with
  | some st => c.stay st
  | none =>
    match sortEntries c.sp.faults with
    | [] => c.stay .issuing
    | f :: rest =>
      let exec := f.exec.getD (wordsBetween f.pc c.here - 1)
      c.enterTrap { cause := f.cause, code := 0, fetch := false, tpc := f.pc, exec := exec, resume := c.here,
                    run := c.sp.run, entries := f :: rest, fromPark := none }

/-- A precise trap at the executing word, which has not executed.  It gives way to an earlier fault of the run (R295). -/
def Cx.trapBefore (c : Cx) (cause : Nat) (fetch : Bool) : Out :=
  if c.sp.faults ≠ [] then c.faultTrap
  else
    match c.mustWait with
    | some st => c.stay st
    | none =>
      c.enterTrap { cause := cause, code := 0, fetch := fetch, tpc := c.here, exec := 0, resume := c.here,
                    run := c.sp.run, entries := [], fromPark := none }

/-- A precise trap at the executing word that is not a fetch fault. -/
def Cx.trapAt (c : Cx) (cause : Nat) : Out := c.trapBefore cause false

/-- USER and BREAK: the word has executed and the handler returns to the next one (R174, R363). -/
def Cx.trapAfter (c : Cx) (cause code : Nat) : Out :=
  if c.sp.faults ≠ [] then c.faultTrap
  else
    match c.mustWait with
    | some st => c.stay st
    | none =>
      let here := c.here
      let c := c.advance
      c.enterTrap { cause := cause, code := code, fetch := false, tpc := here, exec := 0, resume := c.here,
                    run := c.sp.run, entries := [], fromPark := none }

/-! ### Issue (R97, R84, R85) -/

/-- The opcodes a warp or a far task executes. -/
def Cx.contextOk (c : Cx) (opcode : Nat) : Bool := if c.w.far.isSome then farOpcode opcode else warpOpcode opcode

/-- A vector register beyond the allotment (R43); temporaries are always present. -/
def Cx.useAllotted (c : Cx) (u : Use) : Bool :=
  u.file != .v || decide (120 ≤ u.base) || decide (u.base + u.n ≤ vregAllot c.s c.w)

/-- A use touches a pending destination (R83: any register of the group touches the group). -/
def useMeets (u : Use) (d : Dest) : Bool :=
  (match u.file with
    | .v => d.vector
    | .s => !d.vector
    | .p => false) && decide (u.base < d.base + d.count) && decide (d.low < u.base + u.n)

/-- A register marked unawaited (R85). -/
def Cx.useUnawaited (c : Cx) (u : Use) : Bool := c.sp.unawaited.any (useMeets u)

/-- A poisoned value among the registers a use reads (R345): vector registers in some lanes. -/
def Cx.usePoisoned (c : Cx) (lanes : Mask) (u : Use) : Bool :=
  u.rd &&
  (List.range u.n).any fun k =>
    let r := u.base + k
    match u.file with
    | .v =>
      let p := if r < 120 then Tab.getD c.w.vregPoison r 0 else Tab.getD c.sp.tempPoison (r - 120) 0
      p &&& lanes != 0
    | .s => r != 0 && c.sp.scalarPoison.getLsbD r
    | .p => r != 0 && (c.w.predPoison >>> (3 * r)).toNat % 8 != 0

/-- The number of words of the run the executing word makes with those before it. -/
def Run.count (r : Run) : Nat := r.pos + 1

/-- The word after the executing one is a trailer. -/
def Run.nextIsTrailer (r : Run) : Bool := match r.words.drop (r.pos + 1) with | w :: _ => isTrailer w | [] => false

/-- The registers an instruction uses in the split's mode.  One that acts on the active lanes reads the activity mask, s61 to
s63, with no operand naming it (R26, R87; DEDUCED, log entry 109). -/
def Cx.uses (c : Cx) (i : Instr) : List Use :=
  Sys2Proof.Machine.uses i c.type (ringMode c.s c.w) ++ if readsMask i then [sr 61 3] else []

/-- The first cause of R97, ranks 2 to 8, that an instruction meets; POISON of R345 follows them (DESIGN CHOICE, log entry 13). -/
def Cx.issueCause (c : Cx) (i : Instr) : Option Nat :=
  let o := opcodeOf i
  let us := c.uses i
  if !c.contextOk o then some 0x03
  else if !(typeEncodingOk i c.type && accEncodingOk i (ringMode c.s c.w)) then some 0x02
  else if c.sp.run.count = Config.runWords ∧ o ≠ 0xFF then some 0x0A
  else if isRunEnding i && !c.sp.run.nextIsTrailer then some 0x0B
  else if !typeMeets (typeNeed i) c.type then some 0x06
  else if !(us.all c.useAllotted) || (trailerRegs i).any (fun r => decide (vregAllot c.s c.w ≤ r)) || (match joinOf i with | some j => decide (joinAllot c.s c.w ≤ j) | none => false) ||
      (match tileOf i with | some t => decide (tileAllot c.s c.w ≤ t) | none => false) then some 0x07
  else if !tracesOnly i && us.any c.useUnawaited then some 0x09
  else none

/-- The executing word must wait for a write-back: it reads or writes a destination after its window (R84), or accesses
memory after an `rwait` that has still to observe its reply, an acquire (13_consistency R217; DEDUCED, log entry 87). -/
def Cx.holds (c : Cx) (i : Instr) : Option SplitStatus :=
  let us := c.uses i
  let hit (p : Pend) : Bool := !p.done && p.window == 0 && us.any fun u => useMeets u p.dest
  if c.sp.pend.any fun p => hit p && p.held != 0 then some .parkedFault
  else if c.sp.pend.any hit || (ordersAfter (opcodeOf i) && c.sp.pend.any fun p => p.open_ && p.tag.isSome) then some .issuing
  else none

/-- Executing an instruction after a window settles the destinations it reads or writes (R85). -/
def Cx.settle (c : Cx) (i : Instr) : Cx :=
  let us := c.uses i
  { c with sp := { c.sp with pend := c.sp.pend.map fun p =>
      if p.inRun && p.window == 0 && us.any fun u => useMeets u p.dest then { p with settled := true } else p } }

/-- A fault whose window has closed: the trap comes before the next word. -/
def Split.faultDue (sp : Split) : Bool := sp.faults.any fun f => f.window == some 0

/-- A warp is fully ganged (01_machine R30). -/
def Cx.ganged (c : Cx) : Bool := c.w.spill.isEmpty && c.w.splits.length == 1 && c.sp.act == allLanes

/-- A destination with a register of the activity mask (R25). -/
def Dest.masks (d : Dest) : Bool := !d.vector && decide (61 < d.base + d.count)

/-- The instruction waits for a matrix drain whose shadow halves differ (R267), or the split's activity mask was to be
written with paired lanes different, which every instruction meets (R31; DEDUCED, log entry 86). -/
def Cx.mismatched (c : Cx) (i : Instr) : Bool :=
  let us := c.uses i
  c.sp.pend.any fun p => p.mismatch && p.window == 0 && (p.dest.masks || us.any fun u => useMeets u p.dest)

/-- The lanes whose vector operands an instruction reads: the active ones, of `vget` the one its index names, with the copy that a
shadow launch compares (R137, R346). -/
def Cx.readLanes (c : Cx) (i : Instr) : Mask :=
  match i with
  | .vget _ _ b =>
    let n := (c.sp.scalar b.toNat).toNat
    c.active &&& (if isShadow c.s c.w then (if n < 48 then (1#96 <<< n) ||| (1#96 <<< (n + 48)) else 0)
      else if n < 96 then 1#96 <<< n else 0)
  | _ => if obeysGuard (opcodeOf i) then c.active else c.sp.act

/-- An operand that the instruction reads is poisoned, in its register or in the operand latch (R343, R345).  A matrix instruction of a warp that is not fully ganged
reads none (R30), and `dbg` traps under R96 alone (R181).  A command takes its number from its milestone counter, and the first
word after a poisoned spill record needs the address, lanes and mode that lay in it (DEDUCED, log entry 68). -/
def Cx.consumesPoison (c : Cx) (i : Instr) : Bool :=
  c.sp.recordPoison || !tracesOnly i && (!isMatrix (opcodeOf i) || c.ganged) &&
  ((c.uses i).any (c.usePoisoned (c.readLanes i)) || (c.sp.latchPoison && (c.uses i).any fun u => u.rd) ||
    (obeysGuard (opcodeOf i) && c.usePoisoned c.sp.act (pr (modeGuard c.sp.mode))) ||
    (counterOf i).any fun k => match wgOf c.s c.w with
      | some g => (g.counters.getD k { issued := 0, done := 0, finished := [], poison := false }).poison
      | none => false)

/-- A run does not begin while return-free accesses and commands of a run that is over, reissued by `tret`, have still to be
translated: a fault of theirs traps where the run would begin (19_translation R295, R300, R363; DEDUCED, log entry 106). -/
def Cx.reissueWait (c : Cx) : Option SplitStatus :=
  if c.sp.run.pos = 0 ∧ (c.s.xlate.held.any fun h => match h.2.waiter with
      | .lanes w none _ reqs _ _ _ => w == c.wk && reqs.any fun r => r.again.isSome && c.sp.lanes.getLsbD r.lane
      | .command n => (match Tab.get? c.s.cmds n with
        | some x => x.again.isSome && x.awaitedBy c.s c.wk c.e c.sp
        | none => false)
      | _ => false) = true then some .parkedFault
  else none

/-- Issue of an instruction by a split: due faults, a refused service of its page, the causes of R97, the hold of R84,
poison, the instructions a handler may not execute, and then the instruction itself. -/
def Cx.issue (c : Cx) (i : Instr) (run : Cx → Out) : Out :=
  if c.sp.faultDue then c.faultTrap
  else match c.reissueWait with
  | some st => c.stay st
  | none => match c.sp.stall with
  | .refused cause => (match c.mustWait with
    | some st => c.stay st
    | none => Cx.trapAt { c with sp := { c.sp with stall := .none } } cause)
  | _ => match c.issueCause i with
    | some cause => c.trapAt cause
    | none => match c.holds i with
      | some st => c.stay st
      | none =>
        if c.mismatched i then c.trapAt 0x10
        else if c.consumesPoison i then c.trapAt 0x13
        else if c.sp.trap.handler && forbiddenInHandler i then c.trapAt 0x03
        else run (c.settle i)

/-! ### Engine programs -/

/-- The executing engine program: the state, its workgroup's number and record, the program. -/
structure Ex where
  s : State
  g : Nat
  wg : Workgroup
  en : Engine
  deriving DecidableEq, Repr

/-- The running engine program of a workgroup. -/
def exOf (s : State) (g : Nat) : Option Ex :=
  match Tab.get? s.wgs g with
  | none => none
  | some wg => match wg.engine with
    | none => none
    | some en => if en.running then some { s := s, g := g, wg := wg, en := en } else none

/-- The state with the engine program written back; the engine interleaves programs at command boundaries. -/
def Ex.commit (x : Ex) : State :=
  { x.s with focus := .none, wgs := Tab.put x.s.wgs x.g { x.wg with engine := some x.en } }

/-- A scalar of an engine program: s61 to s63 are ordinary (R251). -/
def Ex.scalar (x : Ex) (n : Nat) : Word := if n = 0 then 0 else x.en.scalars.getD n 0

/-- A scalar pair. -/
def Ex.scalar64 (x : Ex) (n : Nat) : DWord := pair (x.scalar n) (x.scalar (n + 1))

/-- A scalar of an engine program written. -/
def Ex.putScalar (x : Ex) (n : Nat) (v : Word) (poison : Bool) : Ex :=
  if n = 0 then x
  else { x with en := { x.en with
    scalars := setAt x.en.scalars n v
    scalarPoison := if poison then x.en.scalarPoison ||| (1#64 <<< n) else x.en.scalarPoison &&& ~~~(1#64 <<< n) } }

/-- The party number of a workgroup's engine program, above every call identity and far task. -/
def engineKey (g : Nat) : Nat := 2 ^ 65 + g

/-- The pair an ended program leaves for `rdv` (R164). -/
def Ex.leavePair (x : Ex) : Ex :=
  { x with wg := { x.wg with
    endPair := (x.scalar 2, x.scalar 3), endPoison := (x.en.scalarPoison.getLsbD 2, x.en.scalarPoison.getLsbD 3) } }

/-- The command has completed: the program moves on. -/
def Ex.done (x : Ex) : Out := .next (Ex.commit { x with en := { x.en with pc := x.en.pc + 4 } })

/-- The command waits; the arbiter tries it again. -/
def Ex.wait (x : Ex) : Out := .next x.commit

/-- The status word of a barrier object, its reserved bits [47:11] zero (R158, 00_scope R9). -/
def statusAt (m : Mem) (addr : Nat) : Nat :=
  let v := Mem.le m (addr + 8) 8
  v / 2 ^ 48 * 2 ^ 48 + v % 2 ^ 11

/-- Bits ORed into the status word of a barrier object, BNDCNT and PDISC added with saturation (R158). -/
def orStatus (m : Mem) (addr : Nat) (bits : Nat) (bndcnt pdisc : Nat) : Mem :=
  let old := statusAt m addr
  let low := (old % 2 ^ 11) ||| (bits % 2 ^ 11)
  let bnd := min 255 (old / 2 ^ 48 % 256 + bndcnt)
  let pd := min 255 (old / 2 ^ 56 % 256 + pdisc)
  Mem.writeBytes m (addr + 8) (leBytes 8 (low + bnd * 2 ^ 48 + pd * 2 ^ 56))

/-- Status ORed into an object of a skein's window. -/
def orStatusAt (s : State) (skein addr bits bndcnt pdisc : Nat) : State :=
  { s with skeins := Tab.upd s.skeins skein fun k => { k with scratch := orStatus k.scratch addr bits bndcnt pdisc } }

/-- An engine program stops on a trap of its own (R262): pending status with ETRAP to the ring's object, CTL_EST.  A mismatch
at a drain in a snapshot launch also starts a rollback (25_reliability R348). -/
def Ex.stop (x : Ex) (cause : Nat) : Out :=
  let offset := wordsBetween (x.en.entry.setWidth 57) (x.en.pc.setWidth 57) % 2 ^ 16
  let est := BitVec.ofNat 32 (cause * 2 ^ 24 + offset * 2 ^ 8 + 2)
  let y := x.leavePair
  let s := Ex.commit { y with
    en := { y.en with running := false, pending := { bits := 0, bndcnt := 0 }, progress := 0, refused := none }
    wg := { y.wg with est := est } }
  let t := match x.wg.ring with
    | some r => orStatusAt s x.wg.skein r.status.toNat (x.en.pending.bits.toNat ||| 0x100) x.en.pending.bndcnt 0
    | none => s
  let l := (Tab.get? s.skeins x.wg.skein).map fun k => k.launch
  .next (if cause = 0x10 ∧ snapshotLaunch s l = true then wantRollback t (l.getD 0) (x.en.pc.setWidth 57) else t)

/-- Poison among the scalars a command reads (DEDUCED, log entry 14). -/
def Ex.poisoned (x : Ex) (i : Instr) : Bool :=
  (Sys2Proof.Machine.uses i 0 false).any fun u => u.file == .s && u.rd && (List.range u.n).any fun k =>
    x.en.scalarPoison.getLsbD (u.base + k)

/-- An engine program's stop on a non-replayable fault of a store command sets FAULT (R260, R265). -/
def Ex.stopFault (x : Ex) (cause : Nat) : Out :=
  Ex.stop { x with en := { x.en with pending := { x.en.pending with bits := x.en.pending.bits ||| 1 } } } cause

/-- Issue of a command by an engine program (R252): its set, no lookahead, poison, then the command.  A command whose page
was refused stops with that cause (19_translation R294). -/
def Ex.issue (x : Ex) (i : Instr) (run : Ex → Out) : Out :=
  match x.en.refused with
  | some cause => if opcodeOf i = 0xF6 then x.stopFault cause else x.stop cause
  | none =>
  if !engineOpcode (opcodeOf i) then x.stop 0x03
  else if lookOf i ≠ 0 then x.stop 0x02
  else if x.poisoned i then x.stop 0x13
  else run x

/-! ### Who executes -/

/-- An instruction word executed by whoever has the focus. -/
def issue (i : Instr) (s : State) (onSplit : Cx → Out) (onEngine : Ex → Out) : Out :=
  match s.focus with
  | .none => .refused .noAgent
  | .split wk e => match cxOf s wk e with
    | some c => c.issue i onSplit
    | none => .refused .noAgent
  | .engine g => match exOf s g with
    | some x => x.issue i onEngine
    | none => .refused .noAgent

/-- An instruction that no engine program executes (R252). -/
def issueSplit (i : Instr) (s : State) (onSplit : Cx → Out) : Out := issue i s onSplit fun x => x.stop 0x03

/-- An epilogue command (R253): a warp or far task traps at issue. -/
def issueEngine (i : Instr) (s : State) (onEngine : Ex → Out) : Out := issue i s (fun c => c.trapAt 0x03) onEngine

/-- A scalar result written, with the check of R31 on a write of the activity mask in a shadow launch. -/
def Cx.scalarDone (old : Cx) (new : Cx) : Out := if old.maskClash new then old.trapAt 0x10 else new.done

end Sys2Proof.Machine
end

