-- ==== Sys2Proof/Machine/Memory.lean ====
section
/-! DEFINITION. Translation (19_translation R285 to R294), the spaces of memory and their poison (11_memory R182 to R190,
25_reliability R344), page classes (R183 to R185), atomics (R196), and the access of the lanes of one instruction. -/

namespace Sys2Proof.Machine

/-- A place in physical memory. -/
inductive Loc where
  | hbm (pa : Nat)
  | module (m off : Nat) (relay : Bool)
  | host (addr : Nat)
  deriving DecidableEq, Repr

/-- What an access asks of a page. -/
inductive Want where
  | fetch | read | write
  deriving DecidableEq, Repr

/-- The outcome of a translation. -/
inductive Xl where
  | ok (loc : Loc) (cls : Nat) (level : Nat)
  /-- replayable: a device page that is paged out, or a host page without a completion -/
  | replay (host : Bool)
  | fault (cause : Nat)
  /-- the walk met a poisoned entry (R345) -/
  | poison
  /-- a physical address outside the local tier -/
  | hole
  deriving DecidableEq, Repr

/-! ### The place of a local address (21_near_memory R301, R302) -/

/-- The stack of the base die that holds a local address. -/
def hbmStack (pa : Nat) : Nat := pa / 2 ^ 12 % 8

/-- Its channel within the stack. -/
def hbmChannel (pa : Nat) : Nat := pa / 2 ^ 15 % 32

/-- Its bank. -/
def hbmBank (pa : Nat) : Nat := pa / 2 ^ 20 % 32

/-- Its row within the subarray; each subarray has one zero row more, which no address reaches. -/
def hbmRow (pa : Nat) : Nat := pa / 2 ^ 25 % 512

/-- Its subarray, 0 to 23. -/
def hbmSubarray (pa : Nat) : Nat := pa / 2 ^ 34

/-- The near-memory unit, of 256, that performs every near-memory operation on an element at a local address. -/
def hbmUnit (pa : Nat) : Nat := 32 * hbmStack pa + hbmChannel pa

/-- The near-memory unit of a place is withdrawn: firmware has fenced its channel (25_reliability R354). -/
def withdrawn (s : State) (pa : Nat) : Bool := s.plat.fenced.contains (.hbmChannel (hbmUnit pa))

/-- A page at a physical address has frames in a fenced channel, which are withdrawn (R354). -/
def pageWithdrawn (s : State) (pa bits : Nat) : Bool :=
  s.plat.fenced.any fun u => match u with
    | .hbmChannel n => decide (20 ≤ bits) || n % 32 / 2 == pa / 2 ^ 16 % 16
    | _ => false

/-! ### Physical memory -/

/-- Bytes at a place. -/
def readLoc (s : State) (l : Loc) (n : Nat) : List Byte :=
  match l with
  | .hbm pa => Mem.bytes s.mem pa n
  | .module m off _ => match Tab.get? s.net.modules m with | some x => Mem.bytes x.mem off n | none => List.replicate n 0
  | .host a => Mem.bytes s.host a n

/-- The granules that a range of bytes touches. -/
def granules (size a n : Nat) : List Nat :=
  if n = 0 then [] else (List.range ((a + n - 1) / size - a / size + 1)).map fun k => a / size + k

/-- A range of bytes touches a poisoned granule. -/
def touchesPoison (size : Nat) (ps : List Nat) (a n : Nat) : Bool := (granules size a n).any fun g => ps.contains g

/-- Poison after a write: a poisoned write marks its granules, a clean one clears those it covers whole (R344). -/
def poisonAfter (size : Nat) (ps : List Nat) (a n : Nat) (poison : Bool) : List Nat :=
  if poison then (granules size a n).foldl (fun l g => if l.contains g then l else g :: l) ps
  else if ps = [] then ps
  else ps.filter fun g => !(decide (a ≤ g * size) && decide ((g + 1) * size ≤ a + n))

/-- Poison after a write of bytes of which some are poisoned: a granule with one of those is marked, and any other that the write covers
whole is cleared (R344). -/
def poisonEach (size : Nat) (ps : List Nat) (a : Nat) (bad : List Bool) : List Nat :=
  ((List.range bad.length).filter fun k => bad.getD k false).foldl
    (fun l k => if l.contains ((a + k) / size) then l else (a + k) / size :: l) (poisonAfter size ps a bad.length false)

/-- Which of n bytes at an address lie in poisoned granules. -/
def poisonedBytes (size : Nat) (ps : List Nat) (a n : Nat) : List Bool :=
  (List.range n).map fun k => ps.contains ((a + k) / size)

/-- The bytes at a place are poisoned: 64-byte granules (R344). -/
def poisonLoc (s : State) (l : Loc) (n : Nat) : Bool :=
  match l with
  | .hbm pa => touchesPoison 64 s.memPoison pa n
  | .module m off _ => match Tab.get? s.net.modules m with | some x => touchesPoison 64 x.poison off n | none => false
  | .host _ => false

/-- Bytes written at a place. -/
def writeLoc (s : State) (l : Loc) (bs : List Byte) (poison : Bool) : State :=
  match l with
  | .hbm pa =>
    { s with mem := Mem.writeBytes s.mem pa bs, memPoison := poisonAfter 64 s.memPoison pa bs.length poison }
  | .module m off _ =>
    { s with net := { s.net with modules := Tab.upd s.net.modules m fun x => { x with
        mem := Mem.writeBytes x.mem off bs, poison := poisonAfter 64 x.poison off bs.length poison } } }
  | .host a => { s with host := Mem.writeBytes s.host a bs }

/-! ### The page-table walk (R287, R288) -/

/-- Bits hi to lo of a page-table entry. -/
def pteField (e lo n : Nat) : Nat := e / 2 ^ lo % 2 ^ n

/-- The page size of a leaf at a level. -/
def leafBits (level : Nat) : Nat := 12 + 9 * level

/-- The 16 entries of a 64 KiB group are one group (R287). -/
def groupOfOk (s : State) (table idx e : Nat) : Bool :=
  let k := idx / 16 * 16
  (List.range 16).all fun j =>
    let x := Mem.le s.mem (table + 8 * (k + j)) 8
    pteField x 12 4 == j && x == e - pteField e 12 4 * 2 ^ 12 + j * 2 ^ 12

/-- A valid entry at a level is malformed (R287). -/
def malformed (s : State) (table level idx e : Nat) : Bool :=
  let target := pteField e 8 2
  let cls := pteField e 5 3
  let s64 := pteField e 4 1
  let leaf := pteField e 3 1
  pteField e 52 12 != 0 || pteField e 11 1 != 0 || pteField e 10 1 != 0 ||
  (decide (3 ≤ level) && leaf == 1) ||
  (if level = 0 ∨ (level ≤ 2 ∧ leaf = 1) then
    target == 3 || decide (5 ≤ cls) || (target == 1) != (cls == 4) ||
    (target != 2 && pteField e 12 (leafBits level - 12) != 0 && decide (level ≠ 0)) ||
    (level == 0 &&
      (if target = 2 then s64 == 1 else s64 == 0 || !(groupOfOk s table idx e)))
  else
    target != 0 || cls != 0 || s64 == 1 || pteField e 2 1 == 1 || pteField e 1 1 == 1)

/-- The result of a walk: the leaf's entry, its level and where it lies; or how it ends. -/
inductive Walk where
  | leaf (e level at_ : Nat)
  | stop (x : Xl)
  deriving DecidableEq, Repr

/-- The walk from a table down the levels, the highest first (R287). -/
def walkFrom (s : State) (va : Nat) : Nat → List Nat → Walk
  | _, [] => .stop (.fault 0x26)
  | table, level :: rest =>
    let idx := va / 2 ^ (leafBits level) % 512
    let at_ := table + 8 * idx
    if Config.localBytes ≤ at_ + 7 then .stop .hole
    else if touchesPoison 64 s.memPoison at_ 8 then .stop .poison
    else
      let e := Mem.le s.mem at_ 8
      if pteField e 0 1 = 0 then .stop (if pteField e 10 1 = 1 then .replay false else .fault 0x20)
      else if malformed s table level idx e then .stop (.fault 0x26)
      else if level = 0 ∨ pteField e 3 1 = 1 then .leaf e level at_
      else walkFrom s va (pteField e 12 40 * 4096) rest

/-- The walk for a virtual address under an ASID; an unbound ASID maps nothing. -/
def walk (s : State) (asid va : Nat) : Walk :=
  match Tab.get? s.xlate.contexts asid with
  | none => .stop (.fault 0x20)
  | some x => walkFrom s va x.root [4, 3, 2, 1, 0]

/-- A module is touched by this package: a port that is up leads to it (R324, R325; DESIGN CHOICE, log entry 144). -/
def touchesModule (s : State) (m : Nat) : Bool := s.net.ports.any fun p => p.2 == m

/-- Modules of the pod, N = q² + q + 1 (R324). -/
def podSize (s : State) : Nat := if s.net.podq = 0 then 0 else s.net.podq * s.net.podq + s.net.podq + 1

/-- No access reaches a module: the package lies outside any pod, the number is not one of the pod's, or the module is lost
(R325). -/
def moduleGone (s : State) (m : Nat) : Bool :=
  decide (podSize s ≤ m) || match Tab.get? s.net.modules m with | some x => x.lost | none => false

/-- The tier of a module address (R325, R327, R328). -/
def moduleLoc (s : State) (m off cls level : Nat) : Xl :=
  if moduleGone s m then .fault 0x27
  else if touchesModule s m then .ok (.module m off false) cls level
  else if s.net.rerouting.contains m then .replay false
  else match Tab.get? s.net.routes m with
    | some _ => .ok (.module m off true) cls level
    | none => .fault 0x27

/-- The place of a host page (R291, R292): the cached completion that grants the permission. -/
def hostLoc (s : State) (asid va : Nat) (want : Want) (cls level : Nat) : Xl :=
  match Tab.get? s.xlate.contexts asid with
  | none => .fault 0x24
  | some x =>
    if !x.host then .fault 0x24
    else match s.xlate.ats.find? fun a => a.asid == asid && a.page == va / 4096 && (if want = .write then a.w else a.r) with
      | some a => .ok (.host (a.frame * 4096 + va % 4096)) cls level
      | none => .replay true

/-- A canonical 57-bit address (R188). -/
def canonical (va : DWord) : Bool := va.extractLsb' 57 7 == (if va.getLsbD 56 then 0x7F#7 else 0)

/-- Translation of a canonical address (R287 to R292).  A missing permission is found before the module that the leaf names, or the HOST
of the context, is looked at (23_pod R325, R291; DESIGN CHOICE, log entry 131). -/
def translate (s : State) (asid : Nat) (va : DWord) (want : Want) : Xl :=
  if va.extractLsb' 57 7 ≠ (if va.getLsbD 56 then 0x7F#7 else 0) then .fault 0x22
  else
    let v := va.toNat % 2 ^ 57
    match walk s asid v with
    | .stop x => x
    | .leaf e level _ =>
      if (want = .fetch ∧ pteField e 2 1 = 0) ∨ (want = .write ∧ pteField e 1 1 = 0) then .fault 0x21
      else
        let cls := let k := pteField e 5 3; if level ≠ 0 ∧ k < 2 then 2 else k
        let pa := pteField e 12 40 * 4096 + v % 2 ^ (leafBits level)
        match pteField e 8 2 with
        | 0 => if Config.localBytes ≤ pa then .hole else .ok (.hbm pa) cls level
        | 1 => moduleLoc s (pa / 2 ^ 40) (pa % 2 ^ 40) cls level
        | _ => hostLoc s asid v want cls level

/-- TARGET of the page that maps an address; 0 where none does. -/
def leafTarget (s : State) (asid : Nat) (va : DWord) : Nat :=
  match walk s asid (va.toNat % 2 ^ 57) with
  | .leaf e _ _ => pteField e 8 2
  | .stop _ => 0

/-- The module of the leaf that maps an address, where it is a TARGET 1 leaf (R325). -/
def leafModule (s : State) (asid : Nat) (va : DWord) : Option Nat :=
  match walk s asid (va.toNat % 2 ^ 57) with
  | .leaf e level _ =>
    if pteField e 8 2 = 1 then some ((pteField e 12 40 * 4096 + va.toNat % 2 ^ 57 % 2 ^ (leafBits level)) / 2 ^ 40) else none
  | .stop _ => none

/-- An address is mapped to a module that no access reaches. -/
def leafGone (s : State) (asid : Nat) (va : DWord) : Bool := (leafModule s asid va).any (moduleGone s)

/-- Translation for a near-memory operation or command, which reaches the local tier alone: module and host pages are
refused at once, whatever their route or completion (21_near_memory R303).  A module page that no access reaches, of no pod, a
number beyond the pod's or a lost module, gives MODULE to this access as to every other (23_pod R325).  A missing W is found before the
target, and the class, of the page is looked at (DEDUCED, log entry 142).  A place whose unit is withdrawn takes the same
fault (25_reliability R354; DESIGN CHOICE, log entry 94). -/
def nearTranslate (s : State) (asid : Nat) (va : DWord) (want : Want) : Xl :=
  match translate s asid va want with
  | .fault 0x21 => .fault 0x21
  | .fault 0x22 => .fault 0x22
  | .fault 0x27 => if leafGone s asid va then .fault 0x27 else .fault 0x23
  | .ok (.hbm pa) cls level => if withdrawn s pa then .fault 0x23 else .ok (.hbm pa) cls level
  | x => if leafTarget s asid va = 0 then x else .fault 0x23

/-! ### Page classes (R183 to R185) -/

/-- Who accesses: the ASID, the skein and launch it acts for. -/
structure Party where
  asid : Nat
  skein : Option Nat
  launch : Option Nat
  die : Nat
  deriving DecidableEq, Repr

/-- The party of a warp's lanes. -/
def partyOf (s : State) (w : Warp) : Party :=
  { asid := asidOf s w, skein := (wgOf s w).map fun g => g.skein, launch := lnKey s w, die := w.core / Config.dieCores }

/-- The class S written into the 16 entries of a 64 KiB group (R185). -/
def setClassS (m : Mem) (first : Nat) : Mem :=
  (List.range 16).foldl (fun m j =>
    let a := first + 8 * j
    let e := Mem.le m a 8
    Mem.writeBytes m a (leBytes 8 (e - pteField e 5 3 * 32 + 64))) m

/-- The translations of a page in the base dies' caches take class S (R185). -/
def baseClassS (s : State) (asid va : Nat) : State :=
  let one (x : BaseEntry) : BaseEntry := if x.asid = asid ∧ x.page = va / 2 ^ x.bits then { x with cls := 2 } else x
  { s with xlate := { s.xlate with baseDie := Tab.mapVal s.xlate.baseDie fun l => l.map one } }

/-- A reclassification of a page to S, in its entries and in every translation cache, counted for the launch that started it
(R185). -/
def reclassify (s : State) (asid va : Nat) (launch : Option Nat) : State :=
  match walk s asid va with
  | .leaf e 0 at_ =>
    if pteField e 5 3 < 2 ∧ pteField e 8 2 = 0 then
      let frame := pteField e 16 36
      let s := baseClassS { s with
        mem := setClassS s.mem (at_ / 128 * 128)
        xlate := { s.xlate with owners := Tab.del s.xlate.owners frame } } asid va
      match launch with
      | some l => { s with launches := Tab.upd s.launches l fun x => { x with
          reclass := if x.reclass = 0xFFFFFFFF then x.reclass else x.reclass + 1 } }
      | none => s
    else s
  | .leaf _ _ _ => s
  | .stop _ => s

/-- The class rules of an access to a local page: ownership, and reclassification on a conflict (R184, R185).  A party of no skein, a
far task, a Reltex packet, the command processor or a graph, is no owner of a class P page: its access is a conflict (DEDUCED, log entry
47). -/
def classAccess (s : State) (p : Party) (va pa cls : Nat) (write : Bool) : State :=
  match cls with
  | 0 =>
    let frame := pa / 65536
    match Tab.get? s.xlate.owners frame, p.skein with
    | none, some k => { s with xlate := { s.xlate with owners := Tab.put s.xlate.owners frame k } }
    | some o, some k => if o = k then s else reclassify s p.asid va p.launch
    | _, none => reclassify s p.asid va p.launch
  | 1 => if write then reclassify s p.asid va p.launch else s
  | _ => s

/-! ### Grants of module pages (13_consistency R224, 23_pod R330) -/

/-- This package's grant of a page after an access: conflicting holders are back-invalidated, a write needs an
exclusive grant and notices its line. -/
def takeGrant (s : State) (m off : Nat) (write : Bool) : State :=
  let me := s.net.podpos
  let page := off / 65536
  let line := off / 128
  { s with net := { s.net with modules := Tab.upd s.net.modules m fun x =>
      let mine := x.grants.find? fun g => g.page == page && g.pkg == me
      let others := x.grants.filter fun g => g.page != page || (g.pkg != me && !write && !g.excl)
      let old : Grant := mine.getD { page := page, pkg := me, excl := false, dirty := [] }
      let new := { old with
        excl := old.excl || write
        dirty := if write && !old.dirty.contains line then line :: old.dirty else old.dirty }
      { x with grants := others ++ [new] } } }

/-- The grants of a relay-tier page after an access of this package, which the module performs itself: an exclusive holder, and
for a write every holder, has been back-invalidated, its dirty lines written back (13_consistency R224, 23_pod R327). -/
def relayGrants (s : State) (m off : Nat) (write : Bool) : State :=
  { s with net := { s.net with modules := Tab.upd s.net.modules m fun x =>
      { x with grants := x.grants.filter fun g => g.page != off / 65536 || !(write || g.excl) } } }

/-- What an access to a place does beside its bytes. -/
def beforeAccess (s : State) (p : Party) (va : Nat) (l : Loc) (cls : Nat) (write : Bool) : State :=
  match l with
  | .hbm pa => classAccess s p va pa cls write
  | .module m off false => takeGrant s m off write
  | .module m off true => relayGrants s m off write
  | .host _ => s

/-! ### Atomics (R196, R305 to R307) -/

/-- fadd of one element (R196, R305). -/
def faddElem (f : Fmt) (m v : Nat) : Nat :=
  encodeNum f (toWide f (addNum (decodeNum f m) (decodeNum f v) .rne).1 .rne false false 0).1

/-- min_num or max_num of one element, a NaN canonical (R306). -/
def fminElem (max : Bool) (f : Fmt) (m v : Nat) : Nat :=
  match pickNum max false (decodeNum f m) (decodeNum f v) with
  | .first => m
  | .second => v
  | .nan => canonNan f

/-- A floating-point combination of every element of a word (R58). -/
def perElem (t : ElemType) (f : Nat → Nat → Nat) (m v : Nat) : Nat :=
  let w := elemBits t
  packElems w ((List.range (elemCount t)).map fun k => f (elemAt w k m) (elemAt w k v))

/-- The new memory value of an atomic operation on a word of w bits (R196, R306). -/
def atomNew (op : Nat) (code : Nat) (m v v2 : Nat) : Nat :=
  let w := if isWide64 code then 64 else 32
  let t := (elemTypeOf code).getD .i32
  let sm := intOf w true m
  let sv := intOf w true v
  match op with
  | 0 => (m + v) % 2 ^ w
  | 1 => if sv < sm then v else m
  | 2 => if sm < sv then v else m
  | 3 => min m v
  | 4 => max m v
  | 5 => m &&& v
  | 6 => m ||| v
  | 7 => m ^^^ v
  | 8 => v
  | 9 => if m = v then v2 else m
  | 10 => if v ≤ m then 0 else m + 1
  | 11 => if m = 0 ∨ v < m then v else m - 1
  | 12 => perElem t (faddElem (elemFmt t)) m v
  | 13 => perElem t (fminElem false (elemFmt t)) m v
  | _ => perElem t (fminElem true (elemFmt t)) m v

/-- The outcome of one lane's access. -/
inductive Access where
  | ok (s : State) (val : BitVec 128) (poison : Bool)
  | replay (host : Bool)
  | fault (cause : Nat)
  | poison
  | hole
  deriving DecidableEq, Repr

/-- An atomic operation the place does not support (R186, R303). -/
def unsupported (kind : MemKind) (l : Loc) (cls : Nat) : Bool :=
  match kind with
  | .rmw op t near _ =>
    (match l with
      | .host _ => near || !((op == 0 || op == 8 || op == 9) && typeMeets .atomInt t)
      | .module _ _ _ => near
      | .hbm _ => near && decide (cls < 2))
  | .load _ _ => false
  | .store _ => false

/-- Near-memory work on a misaligned element at a local address is counted, by its unit and by its launch (R309). -/
def countMisaligned (s : State) (launch : Option Nat) (pa : Nat) : State :=
  let u := hbmUnit pa
  let n := min (2 ^ 32 - 1) (Tab.getD s.plat.misaligned u 0 + 1)
  let s := { s with plat := { s.plat with misaligned := Tab.put s.plat.misaligned u n } }
  match launch with
  | some l => { s with launches := Tab.upd s.launches l fun x => { x with
      nmfb := BitVec.ofNat 32 (min (2 ^ 32 - 1) (x.nmfb.toNat + 1)) } }
  | none => s

/-- The bytes of a request applied at a place: the value returned and the state after. -/
def applyReq (s : State) (kind : MemKind) (l : Loc) (r : LaneReq) : State × BitVec 128 × Bool :=
  let n := kind.bytes
  let poison := poisonLoc s l n
  match kind with
  | .load _ signed =>
    let v := leNat (readLoc s l n)
    let x : BitVec 128 := if signed then BitVec.ofInt 128 (intOf (8 * n) true v) else BitVec.ofNat 128 v
    (s, x, poison)
  | .store _ => (writeLoc s l (leBytes n r.data.toNat) r.poison, 0, false)
  | .rmw op t _ _ =>
    let m := leNat (readLoc s l n)
    (writeLoc s l (leBytes n (atomNew op t m (r.data.toNat % 2 ^ (8 * n)) (r.data2.toNat % 2 ^ (8 * n)))) poison,
      BitVec.ofNat 128 m, poison)

/-- A near-memory operation performed at its unit (R308). -/
def performNear (s : State) (n : Nat) (x : NearOp) : State :=
  let a := (applyReq s x.kind (.hbm x.pa) x.req).1
  { a with nearOps := Tab.del a.nearOps n }

/-- Two ranges of bytes share a byte. -/
def rangesMeet (a n b m : Nat) : Bool := decide (a < b + m) && decide (b < a + n)

/-- A return-free near-memory operation shares a byte with some ranges. -/
def NearOp.meets (x : NearOp) (ranges : List (Nat × Nat)) : Bool := ranges.any fun r => rangesMeet x.pa x.kind.bytes r.1 r.2

/-- The operations of a list, in the order of issue, that come before an access to n bytes at an address: those of its warp on its
bytes, and before each of them the earlier ones on the bytes of that (R189, 13_consistency R219). -/
def nearBefore (wk pa n : Nat) (ops : List (Nat × NearOp)) : List (Nat × NearOp) :=
  (ops.foldr (fun p (acc : List (Nat × Nat) × List (Nat × NearOp)) =>
    if p.2.warp == wk && p.2.meets acc.1 then ((p.2.pa, p.2.kind.bytes) :: acc.1, p :: acc.2) else acc) ([(pa, n)], [])).2

/-- Some near-memory operations performed in order. -/
def performAll (s : State) (ops : List (Nat × NearOp)) : State := ops.foldl (fun s p => performNear s p.1 p.2) s

/-- A warp's return-free near-memory operations on some bytes are performed, in order, before its next access to them
(R189). -/
def flushNear (s : State) (wk : Nat) (l : Loc) (n : Nat) : State :=
  match l with
  | .hbm pa => performAll s (nearBefore wk pa n s.nearOps)
  | .module _ _ _ => s
  | .host _ => s

/-- One lane's access: translation, class rules, and the bytes.  A return-free near-memory operation goes to its stack
and is performed there later (R304, R310). -/
def accessLane (s : State) (p : Party) (wk : Nat) (kind : MemKind) (r : LaneReq) : Access :=
  let want : Want := if kind.writes then .write else .read
  match (if kind.near then nearTranslate s p.asid r.va want else translate s p.asid r.va want) with
  | .fault cause => .fault cause
  | .replay h => .replay h
  | .poison => .poison
  | .hole => .hole
  | .ok l cls _ =>
    if unsupported kind l cls then .fault 0x23
    else
      let va := r.va.toNat % 2 ^ 57
      if kind.near then
        let s := match l with
          | .hbm pa => if va % kind.bytes = 0 then s else countMisaligned s p.launch pa
          | _ => s
        match l, kind.returns with
        | .hbm pa, false => .ok { s with
            fresh := s.fresh + 1
            nearOps := Tab.put s.nearOps s.fresh
              { warp := wk, launch := p.launch.getD 0, pa := pa, kind := kind, req := r } } 0 false
        | _, _ => let a := applyReq (flushNear s wk l kind.bytes) kind l r; .ok a.1 a.2.1 a.2.2
      else
        let s := beforeAccess (flushNear s wk l kind.bytes) p va l cls kind.writes
        let a := applyReq s kind l r
        .ok a.1 a.2.1 a.2.2

/-! ### The lanes of one instruction (R188 to R190, R294, R295) -/

/-- What the lanes of an instruction came to. -/
structure LaneRun where
  s : State
  vals : List LaneVal
  held : List (Bool × LaneReq)
  faults : List (Nat × LaneReq)
  poison : Bool
  hole : Bool
  deriving DecidableEq, Repr

/-- A lane's access crosses a relay: it is in flight, and performed later at the module (23_pod R327, R328). -/
def byRelay (s : State) (asid : Nat) (va : DWord) (kind : MemKind) : Bool :=
  match translate s asid va (if kind.writes then .write else .read) with
  | .ok (.module m off true) cls _ => !(unsupported kind (.module m off true) cls)
  | _ => false

/-- The translation of a lane's access. -/
def MemKind.place (k : MemKind) (s : State) (asid : Nat) (va : DWord) : Xl :=
  translate s asid va (if k.writes then .write else .read)

/-- An access would wait for a page of the host. -/
def MemKind.awaitsHost (k : MemKind) (s : State) (asid : Nat) (va : DWord) : Bool :=
  match k.place s asid va with
  | .replay h => h
  | _ => false

/-- Two ranges of bytes at places share a byte; over a relay or not, a module's byte is one location (R189). -/
def Loc.meets (l : Loc) (n : Nat) (l' : Loc) (n' : Nat) : Bool :=
  match l, l' with
  | .hbm a, .hbm b => rangesMeet a n b n'
  | .module m a _, .module m' b _ => m == m' && rangesMeet a n b n'
  | .host a, .host b => rangesMeet a n b n'
  | _, _ => false

/-- An address, or the offset of a module, of a place. -/
def Loc.addr : Loc → Nat
  | .hbm a => a
  | .module _ a _ => a
  | .host a => a

/-- A range of at most 4 KiB, somewhere in its frame, may share a byte with m bytes at b: their offsets in a frame meet. -/
def offsetsMeet (a n b m : Nat) : Bool :=
  decide (4096 ≤ m) || rangesMeet (a % 4096) n (b % 4096) m || rangesMeet (a % 4096 + 4096) n (b % 4096) m

/-- A waiting access may touch some of n bytes at a place: it does by its own place, or, while that is not known, its page being
absent, by its offset in its frame (R189, 13_consistency R219; DEDUCED, log entry 128). -/
def MemKind.mayTouch (k : MemKind) (s : State) (asid : Nat) (va : DWord) (l : Loc) (n : Nat) : Bool :=
  match k.place s asid va with
  | .ok l' _ _ => l'.meets k.bytes l n
  | .replay _ => offsetsMeet va.toNat k.bytes l.addr n
  | _ => false

/-- A waiting access q, and a later one r under its ASID, touch a byte in common (R189, R219): by their addresses, or, through two
addresses of one location, by their places. -/
def sameBytes (s : State) (asid : Nat) (k k' : MemKind) (q r : LaneReq) : Bool :=
  rangesMeet q.va.toNat k.bytes r.va.toNat k'.bytes ||
    match k'.place s asid r.va with
    | .ok l _ _ => k.mayTouch s asid q.va l k'.bytes
    | _ => false

/-- A request touches a byte of a lower lane of its instruction that waits (R189). -/
def LaneRun.behind (a : LaneRun) (asid : Nat) (kind : MemKind) (r : LaneReq) : Bool :=
  a.held.any fun h => sameBytes a.s asid kind kind h.2 r

/-- One lane after another, in ascending order (R189): one that touches a byte of a lower lane that waits comes after it, and one that
crosses a relay is on its way. -/
def runLane (p : Party) (wk : Nat) (kind : MemKind) (blocked : LaneReq → Bool) (a : LaneRun) (r : LaneReq) : LaneRun :=
  if blocked r || a.behind p.asid kind r || byRelay a.s p.asid r.va kind then { a with held := a.held ++ [(kind.awaitsHost a.s p.asid r.va, r)] }
  else match accessLane a.s p wk kind r with
    | .ok s v b => { a with s := s, vals := a.vals ++ [{ lane := r.lane, val := v, poison := b }] }
    | .replay h => { a with held := a.held ++ [(h, r)] }
    | .fault c => { a with faults := a.faults ++ [(c, r)] }
    | .poison => { a with poison := true }
    | .hole => { a with hole := true }

/-- A register's word of an arrived value. -/
def valWord (v : BitVec 128) (k : Nat) : Word := v.extractLsb' (32 * k) 32

/-- The rows of n registers from arrived values; a vector destination has 96 lanes. -/
def rowsOf (n : Nat) (vals : List LaneVal) : List (List (Option (Word × Bool))) :=
  (List.range n).map fun k =>
    vals.foldl (fun row v => setAt row v.lane (some (valWord v.val k, v.poison))) (List.replicate 96 none)

/-- Values merged into the rows of a pending result. -/
def addVals (rows : List (List (Option (Word × Bool)))) (vals : List LaneVal) : List (List (Option (Word × Bool))) :=
  rows.mapIdx fun k row => vals.foldl (fun row v => setAt row v.lane (some (valWord v.val k, v.poison))) row

/-- In a shadow launch the copy lane receives the value returned to its pair (R347). -/
def shareVals (share : Bool) (vals : List LaneVal) : List LaneVal :=
  if share then vals ++ vals.map fun v => { v with lane := v.lane + 48 } else vals

/-- The mask of some lanes. -/
def maskOf (l : List Nat) : Mask := l.foldl (fun m i => m ||| (1#96 <<< i)) 0

/-- The window of an instruction of lookahead L at the executing word (R84): one more than its length, since the word
itself is still to be counted. -/
def Cx.window (c : Cx) (look : Nat) : Nat := min look c.sp.run.following + 1

/-- A new pending result of the executing word. -/
def Cx.newPend (c : Cx) (opcode look : Nat) (d : Dest) (rows : List (List (Option (Word × Bool)))) (held : Mask)
    (open_ : Bool) : Cx × Nat :=
  let id := c.w.nextPend
  ({ c with
      w := { c.w with nextPend := id + 1 }
      sp := { c.sp with pend := c.sp.pend ++ [{
        id := id, opcode := opcode, pc := c.here, dest := d, window := c.window look, rows := rows,
        kept := List.replicate d.count 0, arrived := false, done := false, settled := false, inRun := true,
        held := held, open_ := open_, tag := none, mismatch := false }] } }, id)

/-- A result with no active lane is settled at once for R84; for R85 its window runs as any other (R211). -/
def Cx.settleEmpty (c : Cx) (id : Nat) : Cx :=
  { c with sp := { c.sp with pend := c.sp.pend.map fun q =>
      if q.id = id then { q with arrived := true, done := true } else q } }

/-- The entry at which a walk stops on a page that is paged out: its place and level (R287). -/
def swapEntry (s : State) (va : Nat) : Nat → List Nat → Option (Nat × Nat)
  | _, [] => none
  | table, level :: rest =>
    let at_ := table + 8 * (va / 2 ^ (leafBits level) % 512)
    let e := Mem.le s.mem at_ 8
    if pteField e 0 1 = 0 then (if pteField e 10 1 = 1 then some (at_, level) else none)
    else if level = 0 ∨ pteField e 3 1 = 1 then none
    else swapEntry s va (pteField e 12 40 * 4096) rest

/-- The level of the page that a fault-buffer entry waits for: where the walk meets SWAP, or its leaf. -/
def pageLevel (s : State) (asid : Nat) (va : DWord) : Nat :=
  let v := va.toNat % 2 ^ 57
  match (Tab.get? s.xlate.contexts asid).bind fun x => swapEntry s v x.root [4, 3, 2, 1, 0] with
  | some (_, level) => level
  | none => match walk s asid v with
    | .leaf _ level _ => level
    | .stop _ => 0

/-- The page of a fault-buffer entry, as the bits of its size and its number: 4 KiB for a host page, the page that the
tables map otherwise, 64 KiB at least (R287, R294). -/
def pageOf (s : State) (asid : Nat) (host : Bool) (va : DWord) : Nat × Nat :=
  let bits := if host then 12 else max 16 (leafBits (pageLevel s asid va))
  (bits, va.toNat % 2 ^ 57 / 2 ^ bits)

/-- Waiting accesses of one instruction to one page. -/
structure HeldGroup where
  host : Bool
  page : Nat × Nat
  reqs : List LaneReq
  deriving DecidableEq, Repr

/-- The address of a group's first access. -/
def HeldGroup.va (g : HeldGroup) : DWord := match g.reqs with | r :: _ => r.va | [] => 0

/-- The waiting accesses gathered by page, pages in the order of last use. -/
def groupHeld (s : State) (asid : Nat) : List (Bool × LaneReq) → List HeldGroup
  | [] => []
  | (h, r) :: rest =>
    let gs := groupHeld s asid rest
    let p := pageOf s asid h r.va
    if gs.any fun g => g.host == h && g.page == p then
      gs.map fun g => if g.host = h ∧ g.page = p then { g with reqs := r :: g.reqs } else g
    else { host := h, page := p, reqs := [r] } :: gs

/-- A page request that has not left asks for write access as soon as one of the accesses that join it needs it (R292). -/
def PageRequest.joined (q : PageRequest) (asid page : Nat) (write : Bool) : PageRequest :=
  if q.asid = asid ∧ q.page = page ∧ q.stage ≠ .translation ∧ q.stage ≠ .page then { q with write := q.write || write } else q

/-- A request for a host page joins the outstanding ones: a translation request of its kind, or the page's page request, which asks
for write access if any of its accesses does (R291, R292). -/
def askHost (s : State) (asid page : Nat) (write : Bool) : State :=
  if s.xlate.requests.any fun q => q.asid == asid && q.page == page && (q.stage != .translation || q.write == write) then
    { s with xlate := { s.xlate with requests := s.xlate.requests.map fun q => q.joined asid page write } }
  else { s with xlate := { s.xlate with
    requests := s.xlate.requests ++ [{ asid := asid, page := page, write := write, stage := .translation }] } }

/-- The 4 KiB page of a host address. -/
def hostPage (va : DWord) : Nat := va.toNat % 2 ^ 57 / 4096

/-- A waiting access needs a fault-buffer entry: its fault is replayable, and it neither merely awaits a translation from the
host nor is on its way through a relay (R292, R294; DEDUCED, log entry 92). -/
def takesEntry (s : State) (asid : Nat) (host : Bool) (va : DWord) : Bool :=
  if !host then (match translate s asid va .read with | .replay h => !h | _ => false)
  else s.xlate.requests.any fun q => q.asid == asid && q.page == hostPage va && q.stage != .translation

/-- Free fault-buffer entries of a die. -/
def faultRoom (s : State) (die : Nat) : Nat :=
  Config.faultEntries - (s.xlate.held.filter fun h => h.2.die == die && h.2.entry).length

/-- No entry is free for an access that needs one (R294). -/
def noRoom (s : State) (p : Party) (host : Bool) (va : DWord) : Bool :=
  takesEntry s p.asid host va && faultRoom s p.die == 0

/-- An access held for its page under a number; it takes an entry where it needs one and one is free (R294). -/
def holdAt (s : State) (k : Nat) (p : Party) (host : Bool) (va : DWord) (write : Bool) (w : Waiter) : State :=
  let pg := pageOf s p.asid host va
  let s := if host then askHost s p.asid (hostPage va) write else s
  let h : Held :=
    { die := p.die, asid := p.asid, va := va, bits := pg.1, page := pg.2, host := host, write := write, waiter := w,
      entry := takesEntry s p.asid host va && decide (0 < faultRoom s p.die) }
  { s with xlate := { s.xlate with held := Tab.put s.xlate.held k h } }

/-- One access held for its page. -/
def holdOne (s : State) (p : Party) (host : Bool) (va : DWord) (write : Bool) (w : Waiter) : State :=
  holdAt { s with fresh := s.fresh + 1 } s.fresh p host va write w

/-- A waiting access of the split's lanes to a byte the request touches (R189, R294). -/
def heldOverlap (s : State) (wk : Nat) (kind : MemKind) (r : LaneReq) : Bool :=
  s.xlate.held.any fun h => match h.2.waiter with
    | .lanes w _ k reqs _ _ _ => w == wk && reqs.any fun q => sameBytes s h.2.asid k kind q r
    | _ => false

/-! ### The first translation of a near-memory command (21_near_memory R311, R321) -/

/-- A field of n bytes of a descriptor. -/
def descField (d : List Byte) (at_ n : Nat) : Nat := leNat ((d.drop at_).take n)

/-- The operator bytes of an expression (21_near_memory R312). -/
def exprOps (d : List Byte) : List Nat :=
  ((d.drop 48).take (descField d 76 4 / 2 ^ 16 % 32)).map fun b => b.toNat

/-- The streams an expression pushes. -/
def exprStreams (d : List Byte) : List Nat := (List.range 3).filter fun k => (exprOps d).contains k

/-- The addresses that element or block e of a near-memory command touches, and whether it writes there. -/
def nearAddrs (kind : CmdKind) (e : Nat) : List (DWord × Bool) :=
  match kind with
  | .expr d =>
    (BitVec.ofNat 64 (descField d 0 8 + 4 * e), true) ::
      (exprStreams d).map fun k => (BitVec.ofNat 64 (descField d (8 + 8 * k) 8 + 4 * e), false)
  | .fill dst _ => [(dst + BitVec.ofNat 64 (4096 * e), true)]
  | .rowCopy dst src _ => [(dst + BitVec.ofNat 64 (4096 * e), true), (src + BitVec.ofNat 64 (4096 * e), false)]
  | .copy _ _ => []
  | .marker _ _ _ => []
  | .relay _ _ _ => []
  | .mred _ _ _ _ _ _ => []
  | .nput _ _ _ _ _ _ => []
  | .nget _ _ _ _ _ _ => []
  | .nsig _ _ _ _ _ => []

/-- Elements or blocks of a near-memory command. -/
def nearTotal (kind : CmdKind) : Nat :=
  match kind with
  | .expr d => descField d 72 4
  | .fill _ len => len / 4096
  | .rowCopy _ _ len => len / 4096
  | .copy _ _ => 0
  | .marker _ _ _ => 0
  | .relay _ _ _ => 0
  | .mred _ _ _ _ _ _ => 0
  | .nput _ _ _ _ _ _ => 0
  | .nget _ _ _ _ _ _ => 0
  | .nsig _ _ _ _ _ => 0

/-- The opcode of a near-memory command. -/
def nearOpcode (kind : CmdKind) : Nat :=
  match kind with
  | .expr _ => 0xD3
  | .fill _ _ => 0xD4
  | _ => 0xD5

/-- An expression, which reaches class A and S alone (21_near_memory R303). -/
def CmdKind.isExpr : CmdKind → Bool
  | .expr _ => true
  | _ => false

/-- Translation of an address for a near-memory command: the local tier alone, and for an expression class A or S (R303). -/
def nearXl (s : State) (asid : Nat) (expr : Bool) (a : DWord) (write : Bool) : Xl :=
  match nearTranslate s asid a (if write then .write else .read) with
  | .ok (.hbm pa) cls level => if expr && decide (cls < 2) then .fault 0x23 else .ok (.hbm pa) cls level
  | x => x

/-- What the first translation of a near-memory command comes to. -/
inductive NearStart where
  | ok
  | fault (cause : Nat) (addr : DWord)
  | hold (pages : List (DWord × Bool))
  | hole
  deriving DecidableEq, Repr

/-- One operand's page after those before it. -/
def nearStep (s : State) (asid : Nat) (expr : Bool) (r : NearStart) (a : DWord × Bool) : NearStart :=
  match r with
  | .fault c x => .fault c x
  | .hole => .hole
  | .ok => (match nearXl s asid expr a.1 a.2 with
    | .ok _ _ _ => .ok
    | .replay _ => .hold [a]
    | .fault c => .fault c a.1
    | .poison => .fault 0x13 a.1
    | .hole => .hole)
  | .hold l => (match nearXl s asid expr a.1 a.2 with
    | .ok _ _ _ => .hold l
    | .replay _ => .hold (l ++ [a])
    | .fault c => .fault c a.1
    | .poison => .fault 0x13 a.1
    | .hole => .hole)

/-- The translation of the pages that element or block e of a command touches. -/
def nearStart (s : State) (asid : Nat) (kind : CmdKind) (e : Nat) : NearStart :=
  (nearAddrs kind e).foldl (nearStep s asid kind.isExpr) .ok

/-- A command held for each of some pages. -/
def holdPages (s : State) (p : Party) (n : Nat) (pages : List (DWord × Bool)) : State :=
  pages.foldl (fun s a => holdOne s p false a.1 a.2 (.command n)) s

/-- The entry of a trap state for a stopped near-memory command (21_near_memory R321).  Its first translation counts as a
return-free access of the run, and traps at the trailer; of a run that is over it traps at once (R311, R295). -/
def nearEntry (n : Nat) (x : Cmd) (cause : Nat) (addr : DWord) : FaultEntry :=
  { cause := cause, pc := x.pc, opcode := nearOpcode x.kind, addr := addr,
    active := BitVec.ofNat 96 (nearTotal x.kind % 2 ^ 32), done := BitVec.ofNat 96 (x.progress % 2 ^ 32),
    kind := .store 4, reqs := [], dest := none, window := x.again.map fun _ => 0, cmd := some n, pend := none,
    exec := x.again }

/-- A warp's writes, not yet acknowledged at any scope (R218). -/
def Warp.addUnack (w : Warp) (n : Nat) : Warp := { w with unack := w.unack.map fun k => k + n }

/-- The page of a write in a snapshot launch: outside the package, or a page still to be copied (R349, R351). -/
inductive Snap where
  | free | outside | copy (page : Nat)
  deriving DecidableEq, Repr

/-- The snapshot rule for a write at an address. -/
def snapOf (s : State) (p : Party) (va : DWord) : Snap :=
  match p.launch.bind (Tab.get? s.launches) with
  | none => .free
  | some l =>
    if !l.kernel.snapshot then .free
    else if canonical va && leafTarget s p.asid va != 0 then .outside
    else match translate s p.asid va .write with
      | .ok (.hbm pa) _ _ =>
        if (Tab.get? l.copied (pa / 65536)).isSome then .free else .copy (pa / 65536)
      | _ => .free

/-- A page is wanted in a launch's snapshot pool. -/
def wantPage (s : State) (launch : Option Nat) (page : Nat) : State :=
  match launch with
  | some l => { s with launches := Tab.upd s.launches l fun x =>
      if x.wanted.contains page then x else { x with wanted := x.wanted ++ [page] } }
  | none => s

/-- The first snapshot obstacle of a list of writes. -/
def snapFirst (s : State) (p : Party) (vas : List DWord) : Snap :=
  let l := vas.map (snapOf s p)
  if l.contains .outside then .outside else (l.find? fun x => x != .free).getD .free

/-- One lane's access performed later, when its page has been serviced or its trap returns: the snapshot rule applies first,
and a walk that meets a poisoned entry is a fault of the lane (R190, R300; 25_reliability R345, R349, R351). -/
def replayLane (p : Party) (wk : Nat) (kind : MemKind) (blocked : State → LaneReq → Bool) (a : LaneRun) (r : LaneReq) : LaneRun :=
  if blocked a.s r || a.behind p.asid kind r then { a with held := a.held ++ [(kind.awaitsHost a.s p.asid r.va, r)] }
  else match (if kind.writes then snapOf a.s p r.va else .free) with
    | .outside => { a with faults := a.faults ++ [(0x14, r)] }
    | .copy page => { a with s := wantPage a.s p.launch page, held := a.held ++ [(false, r)] }
    | .free => (match accessLane a.s p wk kind r with
      | .ok s v b => { a with s := s, vals := a.vals ++ [{ lane := r.lane, val := v, poison := b }] }
      | .replay h => { a with held := a.held ++ [(h, r)] }
      | .fault c => { a with faults := a.faults ++ [(c, r)] }
      | .poison => { a with faults := a.faults ++ [(0x13, r)] }
      | .hole => { a with held := a.held ++ [(false, r)], hole := true })

/-- The accesses of an instruction's lanes, in lane order. -/
def runLanes (s : State) (p : Party) (wk : Nat) (kind : MemKind) (reqs : List LaneReq) : LaneRun :=
  reqs.foldl (runLane p wk kind fun r => heldOverlap s wk kind r)
    { s := s, vals := [], held := [], faults := [], poison := false, hole := false }

/-- The lanes of a lane-wise global instruction (R188 to R190): snapshot rule, every lane's access, a pending result, the
lanes that wait in the fault buffer, the lanes that fault.  `d` is the destination of a returning form. -/
def Cx.globalLanes (c : Cx) (opcode look : Nat) (kind : MemKind) (d : Option Dest) (reqs : List LaneReq) : Out :=
  let p := partyOf c.s c.w
  let snap := if kind.writes && isSnapshot c.s c.w then snapFirst c.s p (reqs.map fun r => r.va) else .free
  match snap with
  | .outside => c.trapAt 0x14
  | .copy page => ({ c with s := wantPage c.s p.launch page }).stall .other
  | .free =>
    let a := runLanes c.s p c.wk kind reqs
    let groups := groupHeld a.s p.asid a.held
    if a.hole then .fault .physicalHole
    else if a.poison then c.trapAt 0x13
    else if faultRoom c.s p.die < (groups.filter fun g => takesEntry c.s p.asid g.host g.va).length then c.stall .other
    else
      let c1 := { c with s := a.s }
      let held := maskOf (a.held.map fun h => h.2.lane)
      let cp : Cx × Option Nat := match d with
        | some d =>
          let r := c1.newPend opcode look d (rowsOf d.count (shareVals (isShadow c.s c.w && kind.writes) a.vals)) held false
          (if reqs = [] then r.1.settleEmpty r.2 else r.1, some r.2)
        | none => (c1, none)
      let c2 := cp.1
      let s2 := groups.foldl (fun s g => holdOne s p g.host g.va kind.writes
        (.lanes c.wk cp.2 kind g.reqs c.here opcode c.active)) c2.s
      let writes := if kind.writes && !(kind.near && !kind.returns) then a.vals.length + a.held.length else a.held.length
      let fs : List FaultEntry := match a.faults with
        | [] => []
        | (cause, r) :: _ =>
          [{ cause := cause, pc := c.here, opcode := opcode, addr := r.va, active := c.active, done := 0,
             kind := kind, reqs := faultedReqs a.faults, dest := d,
             window := if d.isSome then some (c.window look) else none, cmd := none, pend := cp.2, exec := none }]
      Cx.done { c2 with
        s := s2
        w := c2.w.addUnack writes
        sp := { c2.sp with faults := c2.sp.faults ++ fs } }

/-! ### Addresses and checks (R187, R188) -/

/-- global_address (R187). -/
def Cx.globalAddress (c : Cx) (a : BitVec 7) (s : BitVec 6) (lane : Nat) : DWord :=
  if s = 0 then pair ((c.row a.toNat).getD lane 0) ((c.row (a.toNat + 1)).getD lane 0)
  else c.sp.scalar64 s.toNat + ((c.row a.toNat).getD lane 0).signExtend 64

/-- local_address (R187). -/
def Cx.localAddress (c : Cx) (a : BitVec 7) (s : BitVec 6) (lane : Nat) : Word :=
  (if s = 0 then 0 else c.sp.scalar s.toNat) + (c.row a.toNat).getD lane 0

/-- The data words of a lane's group, as one value. -/
def Cx.dataOf (c : Cx) (d n lane : Nat) : BitVec 128 :=
  BitVec.ofNat 128 ((List.range n).foldl (fun x k => x + ((c.row (d + k)).getD lane 0).toNat * 2 ^ (32 * k)) 0)

/-- The lane that a shadow launch's lane copies: lanes 48 to 95 are copies (R31). -/
def logicalLane (shadow : Bool) (i : Nat) : Nat := if shadow then i % 48 else i

/-- Values of paired lanes compare equal, or neither lane takes part (R347). -/
def pairsEqual {α : Type} [DecidableEq α] (m : Mask) (f : Nat → α) : Bool :=
  (List.range 48).all fun i =>
    m.getLsbD i == m.getLsbD (i + 48) && (!(m.getLsbD i) || decide (f i = f (i + 48)))

/-- The lane-wise checks of R188 in order, then the access.  `size` is the alignment, 0 for the near-memory rule of
R304; `share` makes a shadow launch's stores and atomics compare and perform once per pair (R347). -/
def Cx.global (c : Cx) (opcode look : Nat) (kind : MemKind) (a : BitVec 7) (s : BitVec 6) (d : Option Dest)
    (data : Nat → BitVec 128) (data2 : Nat → DWord) : Out :=
  let m := c.active
  let va := c.globalAddress a s
  let n := kind.bytes
  let bad (i : Nat) : Bool :=
    if kind.near then decide (4096 < (va i).toNat % 4096 + n) else (va i).toNat % n != 0
  let share := isShadow c.s c.w && kind.writes
  if (lanesOf m).any bad then c.trapAt 0x08
  else if (lanesOf m).any fun i => !canonical (va i) then c.trapAt 0x22
  else if share && !(pairsEqual m fun i => (va i, data i, data2 i)) then c.trapAt 0x10
  else
    let lanes := if share then (lanesOf m).filter fun i => i < 48 else lanesOf m
    c.globalLanes opcode look kind d (lanes.map fun i =>
      { lane := i, va := va i, data := data i, data2 := data2 i, poison := false, order := c.s.fresh })

end Sys2Proof.Machine
end

