-- ==== Sys2Proof/Machine/Scalar.lean ====
section
/-! DEFINITION. The scalar instructions, opcodes 0x01 to 0x1F (07_scalar_vector R110 to R114), executed by splits and by
engine programs (15_matrix R252), and `nop` (05_encoding R96). -/

namespace Sys2Proof.Machine

/-- High 32 bits of the signed 64-bit product (R110). -/
def mulHighSigned (a b : Word) : Word := hiWord (a.signExtend 64 * b.signExtend 64)

/-- High 32 bits of the natural 64-bit product (R110). -/
def mulHighNatural (a b : Word) : Word := hiWord (a.setWidth 64 * b.setWidth 64)

/-- Leading zeros of a word of w bits (R110, R119). -/
def leadingZeros (w : Nat) (a : Nat) : Nat := if a = 0 then w else w - 1 - Nat.log2 a

/-- Set bits among the lowest w bits of a number (R110, R119). -/
def setBits (w : Nat) (a : Nat) : Nat := ((List.range w).filter fun k => a.testBit k).length

/-- bf_field (R111): position and width. -/
def bfField (b : Word) : Nat × Nat :=
  let o := b.toNat % 64
  let w := min (b.toNat / 256 % 64) 32
  (o, if 32 ≤ o then 0 else min w (32 - o))

/-- bfe (R111). -/
def bfe (a b : Word) (signed : Bool) : Word :=
  let (o, w) := bfField b
  let f := (a.toNat >>> o) % 2 ^ w
  if signed && decide (0 < w) && f.testBit (w - 1) then BitVec.ofInt 32 ((f : Int) - 2 ^ w) else BitVec.ofNat 32 f

/-- bfi (R111). -/
def bfi (d a b : Word) : Word :=
  let (o, w) := bfField b
  let msk : Word := BitVec.ofNat 32 ((2 ^ w - 1) <<< o)
  (d &&& ~~~msk) ||| ((a <<< o) &&& msk)

/-- The conditions of `scmp` (R114). -/
def scalarCond (c : BitVec 3) (a b : Word) : Bool :=
  match c.toNat with
  | 0 => a == b
  | 1 => a != b
  | 2 => decide (a.toInt < b.toInt)
  | 3 => decide (b.toInt ≤ a.toInt)
  | 4 => decide (a < b)
  | 5 => decide (b ≤ a)
  | 6 => a &&& b != 0
  | _ => a &&& b == 0

/-- `sshf64` (R113): 0 left, 1 logical right, 2 arithmetic right. -/
def shift64 (x : BitVec 3) (a : DWord) (n : Nat) : DWord :=
  if x = 0 then a <<< n else if x = 1 then a >>> n else a.sshiftRight n

/-- A scalar instruction that writes one register, a function of the scalars it reads. -/
def scalarOp (i : Instr) (s : State) (d : BitVec 7) (f : (Nat → Word) → Word) : Out :=
  issue i s (fun c => c.scalarDone (c.putScalar d.toNat (f c.sp.scalar)))
    (fun x => (x.putScalar d.toNat (f x.scalar) false).done)

/-- A scalar instruction that writes a pair. -/
def scalarOp64 (i : Instr) (s : State) (d : BitVec 7) (f : (Nat → Word) → DWord) : Out :=
  issue i s (fun c => c.scalarDone (c.putScalar64 d.toNat (f c.sp.scalar)))
    (fun x => ((x.putScalar d.toNat (loWord (f x.scalar)) false).putScalar (d.toNat + 1) (hiWord (f x.scalar)) false).done)

/-- A scalar pair read through a register function (R58). -/
def pairAt (r : Nat → Word) (n : Nat) : DWord := pair (r n) (r (n + 1))

/-- `nop` (R96): takes one issue slot. -/
def execNop (s : State) : Out := issue .nop s (fun c => c.done) (fun x => x.done)

/-- `sadd` (R110): a + b modulo 2^32. -/
def execSadd (d a b : BitVec 7) (s : State) : Out :=
  scalarOp (.sadd d a b) s d fun r => r a.toNat + r b.toNat

/-- `ssub` (R110): a - b modulo 2^32. -/
def execSsub (d a b : BitVec 7) (s : State) : Out :=
  scalarOp (.ssub d a b) s d fun r => r a.toNat - r b.toNat

/-- `smul` (R110): low 32 bits of a × b. -/
def execSmul (d a b : BitVec 7) (s : State) : Out :=
  scalarOp (.smul d a b) s d fun r => r a.toNat * r b.toNat

/-- `smulh` (R110): high 32 bits of the signed product. -/
def execSmulh (d a b : BitVec 7) (s : State) : Out :=
  scalarOp (.smulh d a b) s d fun r => mulHighSigned (r a.toNat) (r b.toNat)

/-- `smulhn` (R110): high 32 bits of the natural product. -/
def execSmulhn (d a b : BitVec 7) (s : State) : Out :=
  scalarOp (.smulhn d a b) s d fun r => mulHighNatural (r a.toNat) (r b.toNat)

/-- `sand` (R110): bitwise and. -/
def execSand (d a b : BitVec 7) (s : State) : Out :=
  scalarOp (.sand d a b) s d fun r => r a.toNat &&& r b.toNat

/-- `sor` (R110): bitwise or. -/
def execSor (d a b : BitVec 7) (s : State) : Out :=
  scalarOp (.sor d a b) s d fun r => r a.toNat ||| r b.toNat

/-- `sxor` (R110): bitwise exclusive or. -/
def execSxor (d a b : BitVec 7) (s : State) : Out :=
  scalarOp (.sxor d a b) s d fun r => r a.toNat ^^^ r b.toNat

/-- `sshl` (R110): a shifted left by b, 0 for b ≥ 32. -/
def execSshl (d a b : BitVec 7) (s : State) : Out :=
  scalarOp (.sshl d a b) s d fun r => r a.toNat <<< (r b.toNat).toNat

/-- `sshr` (R110): a shifted right logically by b, 0 for b ≥ 32. -/
def execSshr (d a b : BitVec 7) (s : State) : Out :=
  scalarOp (.sshr d a b) s d fun r => r a.toNat >>> (r b.toNat).toNat

/-- `ssra` (R110): a shifted right arithmetically by b, sign fill for b ≥ 32. -/
def execSsra (d a b : BitVec 7) (s : State) : Out :=
  scalarOp (.ssra d a b) s d fun r => (r a.toNat).sshiftRight (r b.toNat).toNat

/-- `smin` (R110): signed minimum. -/
def execSmin (d a b : BitVec 7) (s : State) : Out :=
  scalarOp (.smin d a b) s d fun r => if (r b.toNat).toInt < (r a.toNat).toInt then r b.toNat else r a.toNat

/-- `smax` (R110): signed maximum. -/
def execSmax (d a b : BitVec 7) (s : State) : Out :=
  scalarOp (.smax d a b) s d fun r => if (r a.toNat).toInt < (r b.toNat).toInt then r b.toNat else r a.toNat

/-- `sminn` (R110): natural minimum. -/
def execSminn (d a b : BitVec 7) (s : State) : Out :=
  scalarOp (.sminn d a b) s d fun r => if r b.toNat < r a.toNat then r b.toNat else r a.toNat

/-- `smaxn` (R110): natural maximum. -/
def execSmaxn (d a b : BitVec 7) (s : State) : Out :=
  scalarOp (.smaxn d a b) s d fun r => if r a.toNat < r b.toNat then r b.toNat else r a.toNat

/-- `sbfi` (R111): bit-field insert into d. -/
def execSbfi (d a b : BitVec 7) (s : State) : Out :=
  scalarOp (.sbfi d a b) s d fun r => bfi (r d.toNat) (r a.toNat) (r b.toNat)

/-- `ssel` (R110): a where d is nonzero, else b. -/
def execSsel (d a b : BitVec 7) (s : State) : Out :=
  scalarOp (.ssel d a b) s d fun r => if r d.toNat ≠ 0 then r a.toNat else r b.toNat

/-- `sclz` (R110): leading zeros, 0 to 32. -/
def execSclz (d a : BitVec 7) (s : State) : Out :=
  scalarOp (.sclz d a) s d fun r => BitVec.ofNat 32 (leadingZeros 32 (r a.toNat).toNat)

/-- `spopc` (R110): set bits, 0 to 32. -/
def execSpopc (d a : BitVec 7) (s : State) : Out :=
  scalarOp (.spopc d a) s d fun r => BitVec.ofNat 32 (setBits 32 (r a.toNat).toNat)

/-- `sbfe` (R111): bit-field extract, signed for `.s`. -/
def execSbfe (d a b : BitVec 7) (g : BitVec 1) (s : State) : Out :=
  scalarOp (.sbfe d a b g) s d fun r => bfe (r a.toNat) (r b.toNat) (g == 1)

/-- `saddi` (R110): a + sext(imm10). -/
def execSaddi (d a : BitVec 7) (k : BitVec 10) (s : State) : Out :=
  scalarOp (.saddi d a k) s d fun r => r a.toNat + k.signExtend 32

/-- `sandi` (R110): a and sext(imm10). -/
def execSandi (d a : BitVec 7) (k : BitVec 10) (s : State) : Out :=
  scalarOp (.sandi d a k) s d fun r => r a.toNat &&& k.signExtend 32

/-- `sori` (R110): a or sext(imm10). -/
def execSori (d a : BitVec 7) (k : BitVec 10) (s : State) : Out :=
  scalarOp (.sori d a k) s d fun r => r a.toNat ||| k.signExtend 32

/-- `sxori` (R110): a xor sext(imm10). -/
def execSxori (d a : BitVec 7) (k : BitVec 10) (s : State) : Out :=
  scalarOp (.sxori d a k) s d fun r => r a.toNat ^^^ k.signExtend 32

/-- `sshli` (R110): a << imm10[4:0]. -/
def execSshli (d a : BitVec 7) (k : BitVec 5) (s : State) : Out :=
  scalarOp (.sshli d a k) s d fun r => r a.toNat <<< k.toNat

/-- `sshri` (R110): a >> imm10[4:0], logical. -/
def execSshri (d a : BitVec 7) (k : BitVec 5) (s : State) : Out :=
  scalarOp (.sshri d a k) s d fun r => r a.toNat >>> k.toNat

/-- `smovi` (R112): sext(imm[15:0]). -/
def execSmovi (d : BitVec 7) (k : BitVec 16) (s : State) : Out :=
  scalarOp (.smovi d k) s d fun _ => k.signExtend 32

/-- `smovi.hi` (R112): the high half, the low half kept. -/
def execSmoviHi (d : BitVec 7) (k : BitVec 16) (s : State) : Out :=
  scalarOp (.smoviHi d k) s d fun r => k ++ (r d.toNat).setWidth 16

/-- `sadd64` (R110): pair a + pair b modulo 2^64. -/
def execSadd64 (d a b : BitVec 7) (s : State) : Out :=
  scalarOp64 (.sadd64 d a b) s d fun r => pairAt r a.toNat + pairAt r b.toNat

/-- `ssub64` (R110): pair a - pair b modulo 2^64. -/
def execSsub64 (d a b : BitVec 7) (s : State) : Out :=
  scalarOp64 (.ssub64 d a b) s d fun r => pairAt r a.toNat - pairAt r b.toNat

/-- `sshf64` (R113): pair a shifted by s[b]. -/
def execSshf64 (d a b : BitVec 7) (x : BitVec 3) (s : State) : Out :=
  scalarOp64 (.sshf64 d a b x) s d fun r => shift64 x (pairAt r a.toNat) (r b.toNat).toNat

/-- `scmp` (R114): 1 when the condition holds, else 0. -/
def execScmp (d a b : BitVec 7) (c : BitVec 3) (s : State) : Out :=
  scalarOp (.scmp d a b c) s d fun r => if scalarCond c (r a.toNat) (r b.toNat) then 1 else 0

end Sys2Proof.Machine
end

