-- ==== Sys2Proof/Machine/Special.lean ====
section
/-! DEFINITION. The special functions (07_scalar_vector R125 to R127), correctly rounded.
Reciprocal and roots are exact integer computations.  The transcendental ones are computed in fixed point with an error
bound and rounded when both ends of the bound round alike, else again with more bits (DEDUCED, log entry 8). -/

namespace Sys2Proof.Machine

/-- Newton's iteration for the integer square root, from above. -/
def isqrtFrom (n : Nat) : Nat → Nat → Nat
  | 0, x => x
  | fuel + 1, x => let y := (x + n / x) / 2; if y < x then isqrtFrom n fuel y else x

/-- floor of the square root. -/
def isqrt (n : Nat) : Nat := if n = 0 then 0 else isqrtFrom n 64 (2 ^ (Nat.log2 n / 2 + 1))

/-- A floor a at spacing 2^e with a flag for a lost remainder: a value that rounds as the exact one does. -/
def sticky (neg : Bool) (a : Nat) (e : Int) (rest : Bool) : Num := .fin neg (2 * a + (if rest then 1 else 0)) (e - 1)

/-- 1 / (m × 2^e) for m > 0. -/
def rcpFin (neg : Bool) (m : Nat) (e : Int) : Num :=
  let k := Nat.log2 m + 80
  sticky neg (2 ^ k / m) (-e - k) (2 ^ k % m != 0)

/-- The square root of m × 2^e for m > 0. -/
def sqrtFin (m : Nat) (e : Int) : Num :=
  let j : Nat := 160 + (e % 2).toNat
  let a := m <<< j
  let r := isqrt a
  sticky false r ((e - j) / 2) (r * r != a)

/-- The reciprocal square root of m × 2^e for m > 0. -/
def rsqFin (m : Nat) (e : Int) : Num :=
  let j : Nat := 2 * Nat.log2 m + 160 + (e % 2).toNat
  let r := isqrt (2 ^ j / m)
  sticky false r ((-e - j) / 2) (r * r * m != 2 ^ j)

/-- The sum over k of (±1)^k 2^p / (x^(2k+1) (2k+1)): 2^p times atanh or atan of 1/x. -/
def invSeries (alt : Bool) (x2 : Nat) : Nat → Nat → Nat → Int → Int
  | 0, _, _, acc => acc
  | fuel + 1, t, k, acc =>
    if t = 0 then acc
    else
      let term : Int := (t / (2 * k + 1) : Nat)
      invSeries alt x2 fuel (t / x2) (k + 1) (if alt && k % 2 == 1 then acc - term else acc + term)

/-- 2^p × ln 2, within p units. -/
def ln2Fix (p : Nat) : Int := 2 * invSeries false 9 p (2 ^ p / 3) 0 0

/-- 2^p × π, within 16 p units. -/
def piFix (p : Nat) : Int := 16 * invSeries true 25 p (2 ^ p / 5) 0 0 - 4 * invSeries true 57121 p (2 ^ p / 239) 0 0

/-- The terms of e^r from the k-th on, r and the sum at scale 2^p. -/
def expTerms (p : Nat) (r : Int) : Nat → Nat → Int → Int → Int
  | 0, _, _, acc => acc
  | fuel + 1, k, t, acc =>
    let t' := ((t * r) >>> p) / (k : Int)
    if t' = 0 ∨ t' = -1 then acc else expTerms p r fuel (k + 1) t' (acc + t')

/-- 2^p × e^r for |r| < 1. -/
def expFix (p : Nat) (r : Int) : Int := expTerms p r p 1 (2 ^ p) (2 ^ p)

/-- e^y for y at scale 2^p: (a, n) with value a × 2^(n - p). -/
def expSplit (p : Nat) (y : Int) : Int × Int :=
  let l := ln2Fix p
  let n := y / l
  (expFix p (y - n * l), n)

/-- The terms of the sine or cosine from the k-th on. -/
def trigTerms (p : Nat) (r2 : Int) : Nat → Nat → Int → Int → Int
  | 0, _, _, acc => acc
  | fuel + 1, k, t, acc =>
    let t' := -((t * r2) >>> p) / ((k + 1) * (k + 2) : Int)
    if t' = 0 ∨ t' = -1 then acc else trigTerms p r2 fuel (k + 2) t' (acc + t')

/-- 2^p × sin r for 0 ≤ r < 2. -/
def sinFix (p : Nat) (r : Int) : Int := trigTerms p ((r * r) >>> p) p 1 r r

/-- 2^p × cos r for 0 ≤ r < 2. -/
def cosFix (p : Nat) (r : Int) : Int := trigTerms p ((r * r) >>> p) p 0 (2 ^ p) (2 ^ p)

/-- The terms z^(2k+1) / (2k+1) of atanh z. -/
def atanhTerms (p : Nat) (z2 : Int) : Nat → Nat → Int → Int → Int
  | 0, _, _, acc => acc
  | fuel + 1, k, t, acc =>
    if t = 0 ∨ t = -1 then acc
    else atanhTerms p z2 fuel (k + 1) ((t * z2) >>> p) (acc + t / (2 * k + 1 : Int))

/-- The terms of the erf series: (-1)^n x^(2n+1) / (n! (2n+1)), t holding (-1)^n x^(2n+1) / n!. -/
def erfTerms (p : Nat) (x2 : Int) : Nat → Nat → Int → Int → Int
  | 0, _, _, acc => acc
  | fuel + 1, n, t, acc =>
    if t = 0 ∨ t = -1 then acc
    else erfTerms p x2 fuel (n + 1) (-((t * x2) >>> p) / (n + 1 : Int)) (acc + t / (2 * n + 1 : Int))

/-- m × 2^e at scale 2^p, exact for p ≥ -e. -/
def fixOf (p : Nat) (neg : Bool) (m : Nat) (e : Int) : Int :=
  let s := e + p
  let a : Int := if 0 ≤ s then (m <<< s.toNat : Nat) else (m >>> (-s).toNat : Nat)
  if neg then -a else a

/-- An approximation: the value is within 2^40 units of a × 2^e. -/
structure Approx where
  a : Int
  e : Int
  deriving DecidableEq, Repr

/-- A signed integer times a power of two. -/
def numOfFix (a e : Int) : Num := .fin (decide (a < 0)) a.natAbs e

/-- to_wide under RNE of a real known by approximations of rising precision: the first whose two ends round alike. -/
def zivRound (f : Fmt) (sat ftz : Bool) (g : Nat → Approx) : List Nat → Num × Flags
  | [] => (.nan false, noFlags)
  | p :: rest =>
    let x := g p
    let lo := toWide f (numOfFix (x.a - 2 ^ 40) x.e) .rne sat ftz 0
    let hi := toWide f (numOfFix (x.a + 2 ^ 40) x.e) .rne sat ftz 0
    if encodeNum f lo.1 = encodeNum f hi.1 ∧ lo.2 = hi.2 then lo
    else match rest with
      | [] => toWide f (numOfFix x.a x.e) .rne sat ftz 0
      | _ :: _ => zivRound f sat ftz g rest

/-- The precisions tried. -/
def zivBits : List Nat := [128, 256, 512, 1024]

/-- 2^x for a finite x that is no integer. -/
def exp2Approx (neg : Bool) (m : Nat) (e : Int) (p : Nat) : Approx :=
  let q := p + 200
  let x := fixOf q neg m e
  let n := x >>> q
  let r := x - n * 2 ^ q
  { a := expFix q ((r * ln2Fix q) >>> q), e := n - q }

/-- log₂ of m × 2^e, m no power of two. -/
def log2Approx (m : Nat) (e : Int) (p : Nat) : Approx :=
  let q := p + 100
  let k : Int := Nat.log2 m
  let f : Int := (m <<< q : Nat) >>> k.toNat
  let up := decide (3 * 2 ^ q ≤ 2 * f)
  let f := if up then f / 2 else f
  let n := k + e + (if up then 1 else 0)
  let one : Int := 2 ^ q
  let z := (f - one) * one / (f + one)
  let s := 2 * atanhTerms q ((z * z) >>> q) q 0 z 0
  { a := n * one + s * one / ln2Fix q, e := -q }

/-- The quadrant and the rest of x modulo π/2, the rest at scale 2^q. -/
def reduceTrig (q : Nat) (m : Nat) (e : Int) : Nat × Int :=
  let w := q + 140
  let h := piFix w / 2
  let x := fixOf w false m e
  let n := x / h
  ((n % 4).toNat, (x - n * h) >>> 140)

/-- The sine or cosine of a finite nonzero x. -/
def trigApprox (cosine neg : Bool) (m : Nat) (e : Int) (p : Nat) : Approx :=
  let q := p + 200
  let r := reduceTrig q m e
  let quad := (r.1 + (if cosine then 1 else 0)) % 4
  let v := if quad % 2 = 0 then sinFix q r.2 else cosFix q r.2
  let v := if quad < 2 then v else -v
  { a := if neg && !cosine then -v else v, e := -q }

/-- tanh of a finite nonzero x with |x| < 64. -/
def tanhApprox (neg : Bool) (m : Nat) (e : Int) (p : Nat) : Approx :=
  let q := p + 400
  let x := fixOf q false m e
  let s := expSplit q (2 * x)
  let t := s.1 <<< s.2.toNat
  let one : Int := 2 ^ q
  let v := (t - one) * one / (t + one)
  { a := if neg then -v else v, e := -q }

/-- 1 / (1 + e^-x) of a finite nonzero x with |x| < 512. -/
def sigmApprox (neg : Bool) (m : Nat) (e : Int) (p : Nat) : Approx :=
  let q := p + 1200
  let x := fixOf q false m e
  let s := expSplit q x
  let t := s.1 <<< s.2.toNat
  let one : Int := 2 ^ q
  { a := if neg then one * one / (one + t) else t * one / (one + t), e := -q }

/-- erf of a finite nonzero x with |x| < 8. -/
def erfApprox (neg : Bool) (m : Nat) (e : Int) (p : Nat) : Approx :=
  let q := p + 400
  let x := fixOf q false m e
  let s := erfTerms q ((x * x) >>> q) (2 * q) 0 x 0
  let rootPi : Int := (isqrt (piFix q * 2 ^ q).toNat : Nat)
  let v := 2 * s * 2 ^ q / rootPi
  let v := v >>> 100
  { a := if neg then -v else v, e := 100 - q }

/-- |m × 2^e| ≥ 2^k. -/
def magGe (m : Nat) (e k : Int) : Bool := decide (k ≤ (Nat.log2 m : Int) + e)

/-- A value just below 1, of a sign. -/
def nearOne (neg : Bool) : Num := .fin neg (2 ^ 80 - 1) (-80)

/-- A tiny positive value, far below every subnormal. -/
def tiny : Num := .fin false 1 (-400)

/-- The special functions, by opcode order from 0x50 (R126). -/
inductive Special where
  | rcp | rsq | sqrt | exp2 | log2 | sin | cos | tanh | sigm | erf
  deriving DecidableEq, Repr

/-- The special operands of R127, and NaN: none for the operands the function itself computes. -/
def specialOperand (fn : Special) (x : Num) : Option (Num × Flags) :=
  let ok (y : Num) : Option (Num × Flags) := some (y, noFlags)
  let bad : Option (Num × Flags) := some (.nan false, flagNv)
  let zero : Num := .fin false 0 0
  let one : Num := .fin false 1 0
  match x with
  | .nan _ => ok (.nan false)
  | .inf neg =>
    match fn with
    | .rcp => ok (.fin neg 0 0)
    | .rsq => if neg then bad else ok zero
    | .sqrt | .log2 => if neg then bad else ok (.inf false)
    | .exp2 => ok (if neg then zero else .inf false)
    | .sin | .cos => bad
    | .tanh | .erf => ok (.fin neg 1 0)
    | .sigm => ok (if neg then zero else one)
  | .fin neg m _ =>
    if m = 0 then
      match fn with
      | .rcp | .rsq => ok (.inf neg)
      | .sqrt | .sin | .tanh | .erf => ok (.fin neg 0 0)
      | .exp2 | .cos => ok one
      | .log2 => ok (.inf true)
      | .sigm => ok (.fin false 1 (-1))
    else
      match fn with
      | .rsq | .sqrt | .log2 => if neg then bad else none
      | .rcp | .exp2 | .sin | .cos | .tanh | .sigm | .erf => none

/-- The function of a finite nonzero operand in its domain, rounded once by to_wide under RNE (R125, R126). -/
def specialFin (fn : Special) (f : Fmt) (sat ftz neg : Bool) (m : Nat) (e : Int) : Num × Flags :=
  let out (x : Num) := toWide f x .rne sat ftz 0
  let ziv (g : Nat → Approx) := zivRound f sat ftz g zivBits
  match fn with
  | .rcp => out (rcpFin neg m e)
  | .sqrt => out (sqrtFin m e)
  | .rsq => out (rsqFin m e)
  | .exp2 =>
    if magGe m e 10 then out (if neg then tiny else .fin false 1 400)
    else
      let whole := decide (0 ≤ e) || m % 2 ^ (-e).toNat == 0
      if whole then out (.fin false 1 (fixOf 200 neg m e >>> 200)) else ziv (exp2Approx neg m e)
  | .log2 => if m = 2 ^ Nat.log2 m then out (numOfInt (Nat.log2 m + e)) else ziv (log2Approx m e)
  | .sin => ziv (trigApprox false neg m e)
  | .cos => ziv (trigApprox true neg m e)
  | .tanh => if magGe m e 6 then out (nearOne neg) else ziv (tanhApprox neg m e)
  | .sigm =>
    if magGe m e 9 then out (if neg then tiny else nearOne false) else ziv (sigmApprox neg m e)
  | .erf => if magGe m e 3 then out (nearOne neg) else ziv (erfApprox neg m e)

/-- One element of a special function: operand by fp_in, the result's code and the status earned. -/
def specialElem (fn : Special) (f : Fmt) (sat ftz : Bool) (code : Nat) : Nat × Flags :=
  let x := readNum f ftz code
  match specialOperand fn x.1 with
  | some r => (encodeNum f r.1, orFlags x.2 r.2)
  | none =>
    match x.1 with
    | .fin neg m e => let r := specialFin fn f sat ftz neg m e; (encodeNum f r.1, orFlags x.2 r.2)
    | .inf neg => (encodeNum f (.inf neg), x.2)
    | .nan _ => (canonNan f, x.2)

end Sys2Proof.Machine
end

