-- ==== Sys2Proof/Machine/Vector.lean ====
section
/-! DEFINITION. The vector instructions that compute per lane, opcodes 0x20 to 0x59 (07_scalar_vector R115 to R127):
generic arithmetic and logic, immediate forms, floating-point-only instructions and special functions. -/

namespace Sys2Proof.Machine

/-- A vector operand of every lane: a register, or a pair under a 64-bit type (R58, R109). -/
def Cx.operand (c : Cx) (r : Nat) (wide : Bool) : List DWord :=
  if wide then List.zipWith pair (c.row r) (c.row (r + 1)) else (c.row r).map fun x => x.setWidth 64

/-- A vector result written in the lanes of a mask. -/
def Cx.putOperand (c : Cx) (r : Nat) (wide : Bool) (m : Mask) (vals : List DWord) : Cx :=
  if wide then (c.putRow r m (vals.map loWord)).putRow (r + 1) m (vals.map hiWord)
  else c.putRow r m (vals.map loWord)

/-- One result per lane, from lane i on; a lane outside the mask earns no status. -/
def zipLanes (m : Mask) (f : Nat → DWord → DWord → DWord → DWord × Flags) :
    Nat → List DWord → List DWord → List DWord → List (DWord × Flags)
  | i, a :: as_, b :: bs, d :: ds =>
    (if m.getLsbD i then f i a b d else (d, noFlags)) :: zipLanes m f (i + 1) as_ bs ds
  | _, _, _, _ => []

/-- A lane's result from its elements' results, each alone (R66, R109). -/
def laneElems (t : ElemType) (f : Nat → Nat → Nat → Nat → Nat × Flags) (a b d : DWord) : DWord × Flags :=
  let w := elemBits t
  let rs := (List.range (elemCount t)).map fun k =>
    f k (elemAt w k a.toNat) (elemAt w k b.toNat) (elemAt w k d.toNat)
  (BitVec.ofNat 64 (packElems w (rs.map fun r => r.1)), allFlags (rs.map fun r => r.2))

/-- The lane index within the workgroup that `id` and `vlid.wg` give (R36, R346). -/
def Cx.groupLane (c : Cx) (i : Nat) : Nat :=
  if isShadow c.s c.w then 48 * c.w.index + i % 48
  else if c.w.far.isSome then i
  else 96 * c.w.index + i

/-- The stochastic seed of the launch (R61). -/
def Cx.seed (c : Cx) : Word :=
  match (lnKey c.s c.w).bind (Tab.get? c.s.launches) with
  | some l => l.record.seed
  | none => 0

/-- The words that sr_bits mixes, for a lane and an element (R61). -/
def Cx.srWords (c : Cx) (lane e : Nat) : List Word :=
  let li := c.groupLane lane
  let n := c.w.srCount.getD lane 0
  match c.w.far, skOf c.s c.w, wgOf c.s c.w with
  | none, some k, some g =>
    [c.seed, BitVec.ofNat 32 k.x, BitVec.ofNat 32 k.y, BitVec.ofNat 32 k.z, BitVec.ofNat 32 (g.index * 65536 + li), n,
     BitVec.ofNat 32 e]
  | _, _, _ => [c.seed, 0xFFFFFFFF, 0xFFFFFFFF, 0xFFFFFFFF, BitVec.ofNat 32 li, n, BitVec.ofNat 32 e]

/-- sr_bits of a lane and element, 0 when the mode is not SR. -/
def Cx.srDraw (c : Cx) (rm : Rnd) (lane e : Nat) : Nat := if rm = .sr then srBits (c.srWords lane e) else 0

/-- The effective mode of an instruction with rounding field x (R59). -/
def Cx.rounding (c : Cx) (x : Nat) : Rnd := rndOfCode (if x = 0 then modeRnd c.sp.mode else x)

/-- The stochastic counts after an instruction that draws under SR (R61). -/
def Cx.countSr (c : Cx) (rm : Rnd) (m : Mask) : Cx :=
  if rm = .sr then { c with w := { c.w with srCount := c.w.srCount.mapIdx fun i x => if m.getLsbD i then x + 1 else x } }
  else c

/-- Status earned by an instruction (R65, R66). -/
def Cx.setStatus (c : Cx) (f : Flags) : Cx := { c with sp := { c.sp with fpst := stickyFlags c.sp.fpst f } }

/-- What a typed instruction knows beside its operands. -/
structure ElemCx where
  t : ElemType
  rm : Rnd
  sat : Bool
  ftz : Bool
  /-- sr_bits for a lane and an element -/
  bits : Nat
  deriving DecidableEq, Repr

/-- A typed vector instruction: every element of every active lane, status once, stochastic counts where it counts. -/
def vecTyped (i : Instr) (s : State) (d a b : BitVec 7) (x : Nat) (counts : Bool)
    (f : ElemCx → Nat → Nat → Nat → Nat → Nat × Flags) : Out :=
  issueSplit i s fun c =>
    match elemTypeOf c.type with
    | none => c.trapAt 0x06
    | some t =>
      let wide := isWide64 c.type
      let m := c.active
      let rm := c.rounding x
      let sat := modeSat c.sp.mode
      let ftz := modeFtz c.sp.mode
      let rs := zipLanes m (fun lane => laneElems t fun k =>
          f { t := t, rm := rm, sat := sat, ftz := ftz, bits := c.srDraw rm lane k } k)
        0 (c.operand a.toNat wide) (c.operand b.toNat wide) (c.operand d.toNat wide)
      let c := c.putOperand d.toNat wide m (rs.map fun r => r.1)
      let c := c.setStatus (allFlags (rs.map fun r => r.2))
      (if counts && classOfType t != .int then c.countSr rm m else c).done

/-- A vector instruction on whole 32-bit registers (class X of R108). -/
def vecWord (i : Instr) (s : State) (d a b : BitVec 7) (f : Word → Word → Word → Word) : Out :=
  issueSplit i s fun c =>
    let m := c.active
    let rs := zipLanes m (fun _ x y z => ((f (loWord x) (loWord y) (loWord z)).setWidth 64, noFlags))
      0 (c.operand a.toNat false) (c.operand b.toNat false) (c.operand d.toNat false)
    (c.putOperand d.toNat false m (rs.map fun r => r.1)).done

/-- int_out (R109). -/
def intOut (e : ElemCx) (x : Int) : Nat × Flags := fitInt (elemBits e.t) (elemSigned e.t) x e.sat

/-- An integer operand in the type's signedness. -/
def intIn (e : ElemCx) (code : Nat) : Int := intOf (elemBits e.t) (elemSigned e.t) code

/-- fp_in (R109). -/
def fpIn (e : ElemCx) (code : Nat) : Num × Flags := readNum (elemFmt e.t) e.ftz code

/-- fp_out (R109). -/
def fpOut (e : ElemCx) (x : Num) : Nat × Flags := writeNum (elemFmt e.t) x e.rm e.sat e.ftz e.bits

/-- A one-operand floating-point computation: operand by fp_in, result by fp_out, all status (R116). -/
def fpUnary (e : ElemCx) (a : Nat) (f : Num → Num × Flags) : Nat × Flags :=
  let x := fpIn e a
  let z := f x.1
  let r := fpOut e z.1
  (r.1, orFlags x.2 (orFlags z.2 r.2))

/-- A two-operand floating-point computation (R116). -/
def fpBinary (e : ElemCx) (a b : Nat) (f : Num → Num → Num × Flags) : Nat × Flags :=
  let x := fpIn e a
  let y := fpIn e b
  let z := f x.1 y.1
  let r := fpOut e z.1
  (r.1, orFlags (orFlags x.2 y.2) (orFlags z.2 r.2))

/-- `vadd` and `vsub` of one element (R116, R117). -/
def addElem (sub : Bool) (e : ElemCx) (_k a b _d : Nat) : Nat × Flags :=
  if classOfType e.t = .int then intOut e (if sub then intIn e a - intIn e b else intIn e a + intIn e b)
  else fpBinary e a b fun x y => addNum x (if sub then y.negate else y) e.rm

/-- `vmul` of one element (R116, R117). -/
def mulElem (e : ElemCx) (_k a b _d : Nat) : Nat × Flags :=
  if classOfType e.t = .int then intOut e (intIn e a * intIn e b) else fpBinary e a b mulNum

/-- `vfma` of one element, rounded once (R116, R117). -/
def fmaElem (e : ElemCx) (_k a b d : Nat) : Nat × Flags :=
  if classOfType e.t = .int then intOut e (intIn e a * intIn e b + intIn e d)
  else
    let z := fpIn e d
    let r := fpBinary e a b fun x y => fmaNum x y z.1 e.rm
    (r.1, orFlags z.2 r.2)

/-- `vmulh` of one element: the high half, never saturated (R117). -/
def mulhElem (e : ElemCx) (_k a b _d : Nat) : Nat × Flags :=
  let w := elemBits e.t
  ((((intIn e a * intIn e b) / 2 ^ w) % 2 ^ w).toNat, noFlags)

/-- Minimum and maximum of one element (R67, R117, R118): the chosen operand, the canonical NaN, or a flushed zero. -/
def minElem (max prop : Bool) (e : ElemCx) (_k a b _d : Nat) : Nat × Flags :=
  if classOfType e.t = .int then
    (if max then (if intIn e a < intIn e b then b else a) else (if intIn e b < intIn e a then b else a), noFlags)
  else
    let x := fpIn e a
    let y := fpIn e b
    let f := elemFmt e.t
    let r := match pickNum max prop x.1 y.1 with
      | .first => encodeNum f x.1
      | .second => encodeNum f y.1
      | .nan => canonNan f
    (r, orFlags x.2 y.2)

/-- `vabs` of one element (R117, R118). -/
def absElem (e : ElemCx) (_k a _b _d : Nat) : Nat × Flags :=
  if classOfType e.t = .int then intOut e (intIn e a).natAbs else fpUnary e a fun x => (x.abs, noFlags)

/-- `vneg` of one element (R117, R118). -/
def negElem (e : ElemCx) (_k a _b _d : Nat) : Nat × Flags :=
  if classOfType e.t = .int then intOut e (-(intIn e a)) else fpUnary e a fun x => (x.negate, noFlags)

/-- A left shift of one element (R119). -/
def shlElem (e : ElemCx) (a n : Nat) : Nat × Flags :=
  let w := elemBits e.t
  (if w ≤ n then 0 else a * 2 ^ n % 2 ^ w, noFlags)

/-- A logical right shift of one element (R119). -/
def shrElem (e : ElemCx) (a n : Nat) : Nat × Flags := (if elemBits e.t ≤ n then 0 else a / 2 ^ n, noFlags)

/-- An arithmetic right shift of one element, sign fill in every integer type (R119). -/
def sraElem (e : ElemCx) (a n : Nat) : Nat × Flags :=
  let w := elemBits e.t
  (((intOf w true a / 2 ^ (min n w)) % 2 ^ w).toNat, noFlags)

/-- `vscale` of one element: x × 2^n with n the lane's b as i32, rounded once (R123). -/
def scaleElem (n : Int) (e : ElemCx) (a : Nat) : Nat × Flags :=
  fpUnary e a fun x => (scaleNum x (max (-2000) (min 2000 n)), noFlags)

/-- `vrnd` of one element (R123). -/
def rndElem (e : ElemCx) (_k a _b _d : Nat) : Nat × Flags := fpUnary e a fun x => (rintNum x e.rm e.bits, noFlags)

/-- `vfrac` of one element (R123). -/
def fracElem (e : ElemCx) (_k a _b _d : Nat) : Nat × Flags := fpUnary e a fracNum

/-- The word of four signed or natural bytes multiplied and added: `vdot4` (R122). -/
def dot4 (sa sb sat : Bool) (a b d : Word) : Nat × Flags :=
  fitInt 32 true
    ((List.range 4).foldl (fun acc k => acc + intOf 8 sa (elemAt 8 k a.toNat) * intOf 8 sb (elemAt 8 k b.toNat)) d.toInt) sat

/-- `vadd`: a + b (R116, R117). -/
def execVadd (d a b : BitVec 7) (x : BitVec 3) (s : State) : Out :=
  vecTyped (.vadd d a b x) s d a b x.toNat true (addElem false)

/-- `vsub`: a - b (R116, R117). -/
def execVsub (d a b : BitVec 7) (x : BitVec 3) (s : State) : Out :=
  vecTyped (.vsub d a b x) s d a b x.toNat true (addElem true)

/-- `vmul`: a × b (R116, R117). -/
def execVmul (d a b : BitVec 7) (x : BitVec 3) (s : State) : Out :=
  vecTyped (.vmul d a b x) s d a b x.toNat true (mulElem)

/-- `vfma`: a × b + d, rounded once (R116, R117). -/
def execVfma (d a b : BitVec 7) (x : BitVec 3) (s : State) : Out :=
  vecTyped (.vfma d a b x) s d a b x.toNat true (fmaElem)

/-- `vmulh`: high half of a × b (R117). -/
def execVmulh (d a b : BitVec 7) (s : State) : Out :=
  vecTyped (.vmulh d a b) s d a b 0 false (mulhElem)

/-- `vmin`: min_num, or the integer minimum (R118). -/
def execVmin (d a b : BitVec 7) (s : State) : Out :=
  vecTyped (.vmin d a b) s d a b 0 false (minElem false false)

/-- `vmax`: max_num, or the integer maximum (R118). -/
def execVmax (d a b : BitVec 7) (s : State) : Out :=
  vecTyped (.vmax d a b) s d a b 0 false (minElem true false)

/-- `vminp`: min_nan (R118). -/
def execVminp (d a b : BitVec 7) (s : State) : Out :=
  vecTyped (.vminp d a b) s d a b 0 false (minElem false true)

/-- `vmaxp`: max_nan (R118). -/
def execVmaxp (d a b : BitVec 7) (s : State) : Out :=
  vecTyped (.vmaxp d a b) s d a b 0 false (minElem true true)

/-- `vshl`: left shift by the element of b (R119). -/
def execVshl (d a b : BitVec 7) (s : State) : Out :=
  vecTyped (.vshl d a b) s d a b 0 false (fun e _ a b _ => shlElem e a b)

/-- `vshr`: logical right shift (R119). -/
def execVshr (d a b : BitVec 7) (s : State) : Out :=
  vecTyped (.vshr d a b) s d a b 0 false (fun e _ a b _ => shrElem e a b)

/-- `vsra`: arithmetic right shift (R119). -/
def execVsra (d a b : BitVec 7) (s : State) : Out :=
  vecTyped (.vsra d a b) s d a b 0 false (fun e _ a b _ => sraElem e a b)

/-- `vabs`: magnitude (R117, R118). -/
def execVabs (d a : BitVec 7) (s : State) : Out :=
  vecTyped (.vabs d a) s d a a 0 false (absElem)

/-- `vneg`: negation (R117, R118). -/
def execVneg (d a : BitVec 7) (s : State) : Out :=
  vecTyped (.vneg d a) s d a a 0 false (negElem)

/-- `vclz`: leading zeros of the element (R119). -/
def execVclz (d a : BitVec 7) (s : State) : Out :=
  vecTyped (.vclz d a) s d a a 0 false (fun e _ a _ _ => (leadingZeros (elemBits e.t) a, noFlags))

/-- `vpopc`: set bits of the element (R119). -/
def execVpopc (d a : BitVec 7) (s : State) : Out :=
  vecTyped (.vpopc d a) s d a a 0 false (fun e _ a _ _ => (setBits (elemBits e.t) a, noFlags))

/-- `vclass`: class mask, without flush or status (R124). -/
def execVclass (d a : BitVec 7) (s : State) : Out :=
  vecTyped (.vclass d a) s d a a 0 false (fun e _ a _ _ => (classOf (elemFmt e.t) a, noFlags))

/-- `vfrac`: x - floor(x) under the mode register's rounding (R123). -/
def execVfrac (d a : BitVec 7) (s : State) : Out := vecTyped (.vfrac d a) s d a a 0 true fracElem

/-- `vrnd`: rounded to an integral value (R123). -/
def execVrnd (d a : BitVec 7) (x : BitVec 3) (s : State) : Out := vecTyped (.vrnd d a x) s d a a x.toNat true rndElem

/-- `vscale`: x × 2^n, n the lane's whole b for every element (R123). -/
def execVscale (d a b : BitVec 7) (x : BitVec 3) (s : State) : Out :=
  issueSplit (.vscale d a b x) s fun c =>
    match elemTypeOf c.type with
    | none => c.trapAt 0x06
    | some t =>
      let m := c.active
      let rm := c.rounding x.toNat
      let sat := modeSat c.sp.mode
      let ftz := modeFtz c.sp.mode
      let rs := zipLanes m (fun lane va vb vd => laneElems t (fun k a _ _ => scaleElem (loWord vb).toInt
          { t := t, rm := rm, sat := sat, ftz := ftz, bits := c.srDraw rm lane k } a) va vb vd)
        0 (c.operand a.toNat false) (c.operand b.toNat false) (c.operand d.toNat false)
      let c := c.putOperand d.toNat false m (rs.map fun r => r.1)
      let c := c.setStatus (allFlags (rs.map fun r => r.2))
      (c.countSr rm m).done

/-- `vdot4`: four byte products added into d, fitted to i32 (R122). -/
def execVdot4 (d a b : BitVec 7) (g : BitVec 2) (s : State) : Out :=
  issueSplit (.vdot4 d a b g) s fun c =>
    let m := c.active
    let rs := zipLanes m (fun _ x y z =>
        let r := dot4 (!g.getLsbD 0) (!g.getLsbD 1) (modeSat c.sp.mode) (loWord x) (loWord y) (loWord z)
        (BitVec.ofNat 64 r.1, r.2))
      0 (c.operand a.toNat false) (c.operand b.toNat false) (c.operand d.toNat false)
    ((c.putOperand d.toNat false m (rs.map fun r => r.1)).setStatus (allFlags (rs.map fun r => r.2))).done

/-- `vand` (R120): bitwise and. -/
def execVand (d a b : BitVec 7) (s : State) : Out :=
  vecWord (.vand d a b) s d a b fun x y _ => x &&& y

/-- `vor` (R120): bitwise or. -/
def execVor (d a b : BitVec 7) (s : State) : Out :=
  vecWord (.vor d a b) s d a b fun x y _ => x ||| y

/-- `vxor` (R120): bitwise exclusive or. -/
def execVxor (d a b : BitVec 7) (s : State) : Out :=
  vecWord (.vxor d a b) s d a b fun x y _ => x ^^^ y

/-- `vbfi` (R120): bit-field insert into d. -/
def execVbfi (d a b : BitVec 7) (s : State) : Out :=
  vecWord (.vbfi d a b) s d a b fun x y z => bfi z x y

/-- `vnot` (R120): bitwise complement. -/
def execVnot (d a : BitVec 7) (s : State) : Out := vecWord (.vnot d a) s d a a fun x _ _ => ~~~x

/-- `vbfe` (R120): bit-field extract by the lane's own b. -/
def execVbfe (d a b : BitVec 7) (g : BitVec 1) (s : State) : Out :=
  vecWord (.vbfe d a b g) s d a b fun x y _ => bfe x y (g == 1)

/-- `vaddi` (R121): a + sext(imm10). -/
def execVaddi (d a : BitVec 7) (k : BitVec 10) (s : State) : Out :=
  vecTyped (.vaddi d a k) s d a a 0 false fun e _ a _ _ => intOut e (intIn e a + k.toInt)

/-- `vmuli` (R121): a × sext(imm10). -/
def execVmuli (d a : BitVec 7) (k : BitVec 10) (s : State) : Out :=
  vecTyped (.vmuli d a k) s d a a 0 false fun e _ a _ _ => intOut e (intIn e a * k.toInt)

/-- `vmini` (R121): the lesser of a and sext(imm10), compared exactly. -/
def execVmini (d a : BitVec 7) (k : BitVec 10) (s : State) : Out :=
  vecTyped (.vmini d a k) s d a a 0 false fun e _ a _ _ => intOut e (min (intIn e a) k.toInt)

/-- `vmaxi` (R121): the greater of a and sext(imm10), compared exactly. -/
def execVmaxi (d a : BitVec 7) (k : BitVec 10) (s : State) : Out :=
  vecTyped (.vmaxi d a k) s d a a 0 false fun e _ a _ _ => intOut e (max (intIn e a) k.toInt)

/-- `vandi` (R121): a and sext(imm10). -/
def execVandi (d a : BitVec 7) (k : BitVec 10) (s : State) : Out :=
  vecWord (.vandi d a k) s d a a fun x _ _ => x &&& k.signExtend 32

/-- `vori` (R121): a or sext(imm10). -/
def execVori (d a : BitVec 7) (k : BitVec 10) (s : State) : Out :=
  vecWord (.vori d a k) s d a a fun x _ _ => x ||| k.signExtend 32

/-- `vxori` (R121): a xor sext(imm10). -/
def execVxori (d a : BitVec 7) (k : BitVec 10) (s : State) : Out :=
  vecWord (.vxori d a k) s d a a fun x _ _ => x ^^^ k.signExtend 32

/-- `vshli` (R121): left shift by imm10[6:0]. -/
def execVshli (d a : BitVec 7) (k : BitVec 7) (s : State) : Out :=
  vecTyped (.vshli d a k) s d a a 0 false fun e _ a _ _ => shlElem e a k.toNat

/-- `vshri` (R121): logical right shift by imm10[6:0]. -/
def execVshri (d a : BitVec 7) (k : BitVec 7) (s : State) : Out :=
  vecTyped (.vshri d a k) s d a a 0 false fun e _ a _ _ => shrElem e a k.toNat

/-- `vsrai` (R121): arithmetic right shift by imm10[6:0]. -/
def execVsrai (d a : BitVec 7) (k : BitVec 7) (s : State) : Out :=
  vecTyped (.vsrai d a k) s d a a 0 false fun e _ a _ _ => sraElem e a k.toNat

/-- `vrcp` (R125 to R127): correctly rounded by RNE whatever the mode register's rounding. -/
def execVrcp (d a : BitVec 7) (s : State) : Out :=
  vecTyped (.vrcp d a) s d a a 0 false fun e _ a _ _ => specialElem .rcp (elemFmt e.t) e.sat e.ftz a

/-- `vrsq` (R125 to R127): correctly rounded by RNE whatever the mode register's rounding. -/
def execVrsq (d a : BitVec 7) (s : State) : Out :=
  vecTyped (.vrsq d a) s d a a 0 false fun e _ a _ _ => specialElem .rsq (elemFmt e.t) e.sat e.ftz a

/-- `vsqrt` (R125 to R127): correctly rounded by RNE whatever the mode register's rounding. -/
def execVsqrt (d a : BitVec 7) (s : State) : Out :=
  vecTyped (.vsqrt d a) s d a a 0 false fun e _ a _ _ => specialElem .sqrt (elemFmt e.t) e.sat e.ftz a

/-- `vexp2` (R125 to R127): correctly rounded by RNE whatever the mode register's rounding. -/
def execVexp2 (d a : BitVec 7) (s : State) : Out :=
  vecTyped (.vexp2 d a) s d a a 0 false fun e _ a _ _ => specialElem .exp2 (elemFmt e.t) e.sat e.ftz a

/-- `vlog2` (R125 to R127): correctly rounded by RNE whatever the mode register's rounding. -/
def execVlog2 (d a : BitVec 7) (s : State) : Out :=
  vecTyped (.vlog2 d a) s d a a 0 false fun e _ a _ _ => specialElem .log2 (elemFmt e.t) e.sat e.ftz a

/-- `vsin` (R125 to R127): correctly rounded by RNE whatever the mode register's rounding. -/
def execVsin (d a : BitVec 7) (s : State) : Out :=
  vecTyped (.vsin d a) s d a a 0 false fun e _ a _ _ => specialElem .sin (elemFmt e.t) e.sat e.ftz a

/-- `vcos` (R125 to R127): correctly rounded by RNE whatever the mode register's rounding. -/
def execVcos (d a : BitVec 7) (s : State) : Out :=
  vecTyped (.vcos d a) s d a a 0 false fun e _ a _ _ => specialElem .cos (elemFmt e.t) e.sat e.ftz a

/-- `vtanh` (R125 to R127): correctly rounded by RNE whatever the mode register's rounding. -/
def execVtanh (d a : BitVec 7) (s : State) : Out :=
  vecTyped (.vtanh d a) s d a a 0 false fun e _ a _ _ => specialElem .tanh (elemFmt e.t) e.sat e.ftz a

/-- `vsigm` (R125 to R127): correctly rounded by RNE whatever the mode register's rounding. -/
def execVsigm (d a : BitVec 7) (s : State) : Out :=
  vecTyped (.vsigm d a) s d a a 0 false fun e _ a _ _ => specialElem .sigm (elemFmt e.t) e.sat e.ftz a

/-- `verf` (R125 to R127): correctly rounded by RNE whatever the mode register's rounding. -/
def execVerf (d a : BitVec 7) (s : State) : Out :=
  vecTyped (.verf d a) s d a a 0 false fun e _ a _ _ => specialElem .erf (elemFmt e.t) e.sat e.ftz a

end Sys2Proof.Machine
end

