-- ==== Sys2Proof/Machine/Convert.lean ====
section
/-! DEFINITION. Conversions and block scales, compares, predicates, selects and moves, opcodes 0x5A to 0x6E
(07_scalar_vector R128 to R137) and the selvedge check `vbnd` (15_matrix R264). -/

namespace Sys2Proof.Machine

/-- The value of a group of n registers in every lane, the first register lowest (R128, R130). -/
def Cx.groupVals (c : Cx) (r n : Nat) : List Nat :=
  (List.range n).foldr (fun k acc => List.zipWith (fun (x : Word) y => x.toNat + 2 ^ 32 * y) (c.row (r + k)) acc)
    (List.replicate 96 0)

/-- A group of n registers written in the lanes of a mask. -/
def Cx.putGroup (c : Cx) (r n : Nat) (m : Mask) (vals : List Nat) : Cx :=
  (List.range n).foldl (fun c k => c.putRow (r + k) m (vals.map fun v => BitVec.ofNat 32 (v / 2 ^ (32 * k)))) c

/-- One result per lane of a group instruction; a lane outside the mask earns no status. -/
def mapLanes (m : Mask) (f : Nat → Nat → Nat × Flags) (vals : List Nat) : List (Nat × Flags) :=
  vals.mapIdx fun i v => if m.getLsbD i then f i v else (0, noFlags)

/-- A group instruction: results written, status and stochastic counts. -/
def Cx.groupDone (c : Cx) (d n : Nat) (m : Mask) (rs : List (Nat × Flags)) (count : Bool) (rm : Rnd) : Out :=
  let c := c.putGroup d n m (rs.map fun r => r.1)
  let c := c.setStatus (allFlags (rs.map fun r => r.2))
  (if count then c.countSr rm m else c).done

/-- The conversion of one element from a source type (R129). -/
def cvtElem (src : ElemType) (e : ElemCx) (code : Nat) : Nat × Flags :=
  if classOfType src = .int then
    let v := intOf (elemBits src) (elemSigned src) code
    if classOfType e.t = .int then intOut e v else fpOut e (numOfInt v)
  else
    let x := readNum (elemFmt src) e.ftz code
    let r := if classOfType e.t = .int then numToInt (elemBits e.t) (elemSigned e.t) x.1 e.rm e.bits else fpOut e x.1
    (r.1, orFlags x.2 r.2)

/-- `vcvt` (R128, R129). -/
def execVcvt (d a : BitVec 7) (src : BitVec 4) (r : BitVec 3) (s : State) : Out :=
  issueSplit (.vcvt d a src r) s fun c =>
    match elemTypeOf c.type, elemTypeOf src.toNat with
    | some t, some st =>
      let ws := elemBits st
      let wd := elemBits t
      let n := max 1 (32 / min ws wd)
      let m := c.active
      let rm := c.rounding r.toNat
      let sat := modeSat c.sp.mode
      let ftz := modeFtz c.sp.mode
      let rs := mapLanes m (fun lane v =>
          let es := (List.range n).map fun j =>
            cvtElem st { t := t, rm := rm, sat := sat, ftz := ftz, bits := c.srDraw rm lane j } (elemAt ws j v)
          (packElems wd (es.map fun e => e.1), allFlags (es.map fun e => e.2)))
        (c.groupVals a.toNat (cvtRegs ws wd))
      c.groupDone d.toNat (cvtRegs wd ws) m rs (classOfType t != .int || classOfType st != .int) rm
    | _, _ => c.trapAt 0x06

/-- The bits of one packed element under a `vpack` format. -/
def packWidth (x : BitVec 3) : Nat := if x = 2 then 2 else 4

/-- One element of `vpack`: E2M1 from f32, I4 from i32, or T2 from i32 (R130). -/
def packElem (x : BitVec 3) (rm : Rnd) (sat ftz : Bool) (bits code : Nat) : Nat × Flags :=
  if x = 0 then
    let y := readNum .f32 ftz code
    let r := satNarrow .e2m1 y.1 rm bits
    (encodeNum .e2m1 r.1, orFlags y.2 r.2)
  else
    let v := intOf 32 true code
    if x = 1 then fitInt 4 true v sat
    else if v = 0 then (0, noFlags)
    else (if 0 < v then 1 else 2, if v = 1 ∨ v = -1 then noFlags else flagOv)

/-- One element of `vunpk`, as a 32-bit value (R130). -/
def unpackElem (x : BitVec 3) (code : Nat) : Nat :=
  if x = 0 then encodeNum .f32 (decodeNum .e2m1 code)
  else if x = 1 then ((intOf 4 true code) % 2 ^ 32).toNat
  else if code = 1 then 1 else if code = 2 then 0xFFFFFFFF else 0

/-- `vpack` (R130).  Under SR `vpack.e2m1` draws for element j of the packed result with e = j, which the manual does not give
(03_numbers R61; DESIGN CHOICE, log entry 100). -/
def execVpack (d a : BitVec 7) (x : BitVec 3) (s : State) : Out :=
  issueSplit (.vpack d a x) s fun c =>
    let n := if x = 2 then 16 else 8
    let m := c.active
    let rm := c.rounding 0
    let rs := mapLanes m (fun lane v =>
        let es := (List.range n).map fun j =>
          packElem x rm (modeSat c.sp.mode) (modeFtz c.sp.mode) (c.srDraw rm lane j) (elemAt 32 j v)
        (packElems (packWidth x) (es.map fun e => e.1), allFlags (es.map fun e => e.2)))
      (c.groupVals a.toNat n)
    c.groupDone d.toNat 1 m rs (x == 0) rm

/-- `vunpk` (R130). -/
def execVunpk (d a : BitVec 7) (x : BitVec 3) (s : State) : Out :=
  issueSplit (.vunpk d a x) s fun c =>
    let n := if x = 2 then 16 else 8
    let m := c.active
    let w := packWidth x
    let rs := mapLanes m (fun _ v => (packElems 32 ((List.range n).map fun j => unpackElem x (elemAt w j v)), noFlags))
      (c.groupVals a.toNat 1)
    c.groupDone d.toNat n m rs false .rne

/-- emax of a `vqblk` target (R131). -/
def qblkEmax (x : BitVec 3) : Int := if x = 0 then 8 else if x = 1 then 16 else if x = 2 then 2 else 6

/-- The E8M0 code of a block of values (R131). -/
def blockScale (emax : Int) (vals : List Num) : Nat :=
  if vals.any fun v => v.isNan || v.isInf then 0xFF
  else if vals.all Num.isZero then 0
  else
    let top := vals.foldl (fun g v => match v with
      | .fin _ m e => if m = 0 then g else max g ((Nat.log2 m : Int) + e)
      | .inf _ => g
      | .nan _ => g) (-1000)
    (min (max (top - emax + 127) 0) 254).toNat

/-- `vqblk` (R131). -/
def execVqblk (d a : BitVec 7) (b : BitVec 2) (x : BitVec 3) (s : State) : Out :=
  issueSplit (.vqblk d a b x) s fun c =>
    match elemTypeOf c.type with
    | none => c.trapAt 0x06
    | some t =>
      let w := 16 * 2 ^ b.toNat
      let m := c.active
      let vals := c.groupVals a.toNat (if t = .f32 then 4 else 2)
      let elems (i : Nat) : List (Num × Flags) :=
        (List.range 4).map fun k => readNum (elemFmt t) (modeFtz c.sp.mode) (elemAt (elemBits t) k (vals.getD i 0))
      let blocks := (List.range (96 / w)).map fun k => laneRange (w * k) w &&& m
      let covered := blocks.foldl (fun acc l => acc ||| l) 0
      let code (l : Mask) : Nat := blockScale (qblkEmax x) ((lanesOf l).flatMap fun i => (elems i).map fun e => e.1)
      let out := blocks.flatMap fun l => let v := code l; List.replicate w (BitVec.ofNat 32 v)
      let c1 := c.putRow d.toNat covered (out ++ List.replicate (96 - out.length) 0)
      (c1.setStatus (allFlags ((lanesOf covered).flatMap fun i => (elems i).map fun e => e.2))).done

/-! ### Compares and predicates (R132 to R135) -/

/-- The conditions of R132 from less, equal and unordered. -/
def condOf (x : Nat) (lt eq un : Bool) : Bool :=
  match x with
  | 0 => eq
  | 1 => !eq
  | 2 => lt
  | 3 => lt || eq
  | 4 => !un && !lt && !eq
  | 5 => !un && !lt
  | 6 => !un
  | _ => un

/-- One element's comparison (R132). -/
def cmpElem (t : ElemType) (ftz : Bool) (x a b : Nat) : Bool × Flags :=
  if classOfType t = .int then
    let u := intOf (elemBits t) (elemSigned t) a
    let v := intOf (elemBits t) (elemSigned t) b
    (condOf x (decide (u < v)) (decide (u = v)) false, noFlags)
  else
    let u := readNum (elemFmt t) ftz a
    let v := readNum (elemFmt t) ftz b
    (condOf x (ltNum u.1 v.1) (eqNum u.1 v.1) (u.1.isNan || v.1.isNan), orFlags u.2 v.2)

/-- The mask of the lanes of m for which a condition holds. -/
def maskWhere (m : Mask) (f : Nat → Bool) : Mask := maskOf ((lanesOf m).filter f)

/-- `vcmp` (R132): a packed lane's bit is 1 only where every element agrees. -/
def execVcmp (d : BitVec 3) (a b : BitVec 7) (x : BitVec 3) (s : State) : Out :=
  issueSplit (.vcmp d a b x) s fun c =>
    match elemTypeOf c.type with
    | none => c.trapAt 0x06
    | some t =>
      let m := c.active
      let w := elemBits t
      let va := c.operand a.toNat (isWide64 c.type)
      let vb := c.operand b.toNat (isWide64 c.type)
      let lane (i : Nat) : List (Bool × Flags) := (List.range (elemCount t)).map fun k =>
        cmpElem t (modeFtz c.sp.mode) x.toNat (elemAt w k (va.getD i 0).toNat) (elemAt w k (vb.getD i 0).toNat)
      let c1 := c.putPred d.toNat m (maskWhere m fun i => (lane i).all fun r => r.1)
      (c1.setStatus (allFlags ((lanesOf m).flatMap fun i => (lane i).map fun r => r.2))).done

/-- `vcmpi` (R133): an exact comparison with a signed immediate. -/
def execVcmpi (d : BitVec 3) (a : BitVec 7) (k : BitVec 7) (x : BitVec 3) (s : State) : Out :=
  issueSplit (.vcmpi d a k x) s fun c =>
    match elemTypeOf c.type with
    | none => c.trapAt 0x06
    | some t =>
      let m := c.active
      let w := elemBits t
      let va := c.operand a.toNat (isWide64 c.type)
      (c.putPred d.toNat m (maskWhere m fun i => (List.range (elemCount t)).all fun j =>
        let v := intOf w (elemSigned t) (elemAt w j (va.getD i 0).toNat)
        condOf x.toNat (decide (v < k.toInt)) (decide (v = k.toInt)) false)).done

/-- A predicate operand, optionally negated (R134). -/
def Cx.predOperand (c : Cx) (a : BitVec 3) (n : BitVec 1) : Mask :=
  if n = 1 then ~~~(c.pred a.toNat) else c.pred a.toNat

/-- A predicate instruction over two operands, per active lane (R134). -/
def predOp (i : Instr) (s : State) (d a b : BitVec 3) (m n : BitVec 1) (f : Mask → Mask → Mask) : Out :=
  issueSplit i s fun c => (c.putPred d.toNat c.active (f (c.predOperand a m) (c.predOperand b n))).done

/-- `pand` (R134). -/
def execPand (d a b : BitVec 3) (m n : BitVec 1) (s : State) : Out :=
  predOp (.pand d a b m n) s d a b n m fun x y => x &&& y

/-- `por` (R134). -/
def execPor (d a b : BitVec 3) (m n : BitVec 1) (s : State) : Out :=
  predOp (.por d a b m n) s d a b n m fun x y => x ||| y

/-- `pxor` (R134). -/
def execPxor (d a b : BitVec 3) (m n : BitVec 1) (s : State) : Out :=
  predOp (.pxor d a b m n) s d a b n m fun x y => x ^^^ y

/-- `pmov` (R134). -/
def execPmov (d a : BitVec 3) (n : BitVec 1) (s : State) : Out :=
  predOp (.pmov d a n) s d a a n n fun x _ => x

/-- `pmov.v2p` (R134). -/
def execPmovV2p (d : BitVec 3) (a : BitVec 7) (n : BitVec 1) (s : State) : Out :=
  issueSplit (.pmovV2p d a n) s fun c =>
    let v := c.row a.toNat
    (c.putPred d.toNat c.active (maskWhere c.active fun i => (v.getD i 0 != 0) != (n == 1))).done

/-- One word per lane from a mask. -/
def rowOfMask (m : Mask) (yes no : Word) : Row := (List.range 96).map fun i => if m.getLsbD i then yes else no

/-- `pmov.p2v` (R134). -/
def execPmovP2v (d : BitVec 7) (a : BitVec 3) (n : BitVec 1) (s : State) : Out :=
  issueSplit (.pmovP2v d a n) s fun c => (c.putRow d.toNat c.active (rowOfMask (c.predOperand a n) 1 0)).done

/-- `vsel` (R135): a where predicate x is 1, b otherwise. -/
def execVsel (d a b : BitVec 7) (x : BitVec 3) (s : State) : Out :=
  issueSplit (.vsel d a b x) s fun c =>
    (c.putRow d.toNat c.active (mergeRow (c.pred x.toNat) (c.row b.toNat) (c.row a.toNat))).done

/-! ### Data movement (R136, R137) -/

/-- `vmov`, under `.64` a pair (R136). -/
def execVmov (d a : BitVec 7) (w : BitVec 1) (s : State) : Out :=
  issueSplit (.vmov d a w) s fun c =>
    (c.putOperand d.toNat (w == 1) c.active (c.operand a.toNat (w == 1))).done

/-- `vmovi` (R136). -/
def execVmovi (d : BitVec 7) (k : BitVec 17) (s : State) : Out :=
  issueSplit (.vmovi d k) s fun c => (c.putRow d.toNat c.active (List.replicate 96 (k.signExtend 32))).done

/-- `vmovh` (R136): the high half written, the low half kept. -/
def execVmovh (d : BitVec 7) (k : BitVec 16) (s : State) : Out :=
  issueSplit (.vmovh d k) s fun c =>
    (c.putRow d.toNat c.active ((c.row d.toNat).map fun x => (k.setWidth 32) <<< 16 ||| (x &&& 0xFFFF))).done

/-- `vbcs` (R136): a scalar of the split's bank in every active lane. -/
def execVbcs (d a : BitVec 7) (w : BitVec 1) (s : State) : Out :=
  issueSplit (.vbcs d a w) s fun c =>
    (c.putOperand d.toNat (w == 1) c.active
      (List.replicate 96 (if w = 1 then c.sp.scalar64 a.toNat else (c.sp.scalar a.toNat).setWidth 64))).done

/-- `vget` (R137, R346, R347): one lane's register, 0 outside active_lanes; a shadow launch compares the copy lane. -/
def execVget (d a b : BitVec 7) (s : State) : Out :=
  issueSplit (.vget d a b) s fun c =>
    let n := (c.sp.scalar b.toNat).toNat
    let m := c.active
    let v := c.row a.toNat
    let shadow := isShadow c.s c.w
    let lane := if shadow ∧ 48 ≤ n then 96 else n
    if shadow && decide (lane < 48) &&
        (m.getLsbD lane != m.getLsbD (lane + 48) || (m.getLsbD lane && v.getD lane 0 != v.getD (lane + 48) 0)) then
      c.trapAt 0x10
    else c.scalarDone (c.putScalar d.toNat (if lane < 96 ∧ m.getLsbD lane then v.getD lane 0 else 0))

/-- `vput` (R137, R346): one lane's register, and in a shadow launch its copy lane's. -/
def execVput (d a b : BitVec 7) (s : State) : Out :=
  issueSplit (.vput d a b) s fun c =>
    let n := (c.sp.scalar b.toNat).toNat
    let lanes : Mask :=
      if isShadow c.s c.w then (if n < 48 then (1#96 <<< n) ||| (1#96 <<< (n + 48)) else 0)
      else if n < 96 then 1#96 <<< n else 0
    (c.putRow d.toNat (c.active &&& lanes) (List.replicate 96 (c.sp.scalar a.toNat))).done

/-- `vlid` (R136, R346): the lane's index in the warp, or in its workgroup. -/
def execVlid (d : BitVec 7) (w : BitVec 1) (s : State) : Out :=
  issueSplit (.vlid d w) s fun c =>
    (c.putRow d.toNat c.active ((List.range 96).map fun i =>
      BitVec.ofNat 32 (if w = 1 then c.groupLane i else logicalLane (isShadow c.s c.w) i))).done

/-! ### Selvedge checks (15_matrix R264) -/

/-- What a check finds. -/
inductive BndEvent where
  | inside | flag | clamp | trap
  deriving DecidableEq, Repr

/-- bnd_check of an f32 code, without its count (R264): a NaN that it finds is written as the canonical one (03_numbers R52), while an
inactive register moves every code.  A subnormal is compared, and returned, as it stands under FTZ too (DEDUCED, log entry 119). -/
def bndCheck (b : Selvedge) (code : Word) : Word × BndEvent :=
  if b.act = 0 then (code, .inside)
  else
    let x := decodeNum .f32 code.toNat
    let lo := decodeNum .f32 b.lo.toNat
    let hi := decodeNum .f32 b.hi.toNat
    if x.isNan || ltNum x lo || ltNum hi x then
      let kept : Word := if x.isNan then BitVec.ofNat 32 (canonNan .f32) else code
      if b.act = 1 then (kept, .flag)
      else if b.act = 2 then (if x.isNan then kept else if ltNum x lo then b.lo else b.hi, .clamp)
      else (kept, .trap)
    else (code, .inside)

/-- COUNT after n out-of-bounds elements, saturating (R263). -/
def bumpCount (c : Word) (n : Nat) : Word := BitVec.ofNat 32 (min (2 ^ 32 - 1) (c.toNat + n))

/-- `vbnd` (R264).  A far task has no workgroup; its selvedge registers are zero and check nothing (R166, DEDUCED, log entry 15). -/
def execVbnd (d a : BitVec 7) (n : BitVec 4) (s : State) : Out :=
  issueSplit (.vbnd d a n) s fun c =>
    let m := c.active
    let row := c.row a.toNat
    match wgOf c.s c.w with
    | none => (c.putRow d.toNat m row).done
    | some g =>
      let b := g.selvedge.getD n.toNat { count := 0, act := 0, hi := 0, lo := 0, poison := false }
      let rs := row.map (bndCheck b)
      let hit := maskWhere m fun i => (rs.getD i (0, .inside)).2 != .inside
      if b.poison then c.trapAt 0x13
      else if hit != 0 && b.act == 3 then c.trapAt 0x0F
      else
        let c1 := c.putRow d.toNat m (rs.map fun r => r.1)
        let g1 := { g with selvedge := updAt g.selvedge n.toNat fun x => { x with count := bumpCount x.count (popMask hit) } }
        let s1 := { c1.s with wgs := Tab.put c1.s.wgs c.w.wg g1 }
        Cx.done { c1 with s := s1 }

end Sys2Proof.Machine
end

