-- ==== Sys2Proof/Machine/Joins.lean ====
section
/-! DEFINITION. Splits: divergence and spilling (01_machine R17, R18, 09_control R148 to R150), re-ganging (R22 to R24),
join registers (R152 to R157), the trailer (05_encoding R85, R86), and the return from a handler (19_translation R300). -/

namespace Sys2Proof.Machine

/-! ### Dividing a split -/

/-- A pending result as a split of some lanes holds it: vector values of those lanes only. -/
def Pend.restrict (p : Pend) (lanes : Mask) : Pend :=
  if p.dest.vector then
    { p with
      rows := p.rows.map fun row => row.mapIdx fun i v => if lanes.getLsbD i then v else none
      held := p.held &&& lanes }
  else p

/-- A faulted instruction as a split of some lanes holds it; nothing where none of its lanes is left.  A scalar load
belongs to every split that holds a copy of the bank. -/
def FaultEntry.restrict (lanes : Mask) (f : FaultEntry) : Option FaultEntry :=
  let scalar : Bool := match f.dest with | some d => !d.vector | none => false
  if scalar then some f
  else if f.active &&& lanes = 0 then none
  else some { f.ofLanes (f.reqs.filter fun r => lanes.getLsbD r.lane) with
    active := f.active &&& lanes
    done := f.done &&& lanes }

/-- A split with fewer lanes, its results and faults restricted to them. -/
def Split.keepLanes (sp : Split) (lanes : Mask) : Split :=
  { sp with
    lanes := sp.lanes &&& lanes
    act := sp.act &&& lanes
    pend := sp.pend.map fun p => p.restrict lanes
    faults := sp.faults.filterMap fun f => if f.cmd.isSome then some f else f.restrict lanes }

/-! ### The trailer (R82, R85, R86) -/

/-- A trailer code names a register of a destination; one that names s0 names none (R82). -/
def codeNames (d : Dest) (code : Nat) : Bool :=
  if code < 0x78 then d.covers true code else 0x80 ≤ code && d.covers false (code - 0x80)

/-- A trailer names a destination: any register of the group (R83). -/
def namesDest (codes : List Nat) (d : Dest) : Bool := codes.any (codeNames d)

/-- A result stays on record when its run ends: it is not written back, a drain of it differs, or lanes of it are to be reissued. -/
def Pend.remains (p : Pend) (faults : List FaultEntry) : Bool := !p.done || p.mismatch || p.reissues faults

/-- The trailer applied to a split: destinations not settled are marked unawaited, named ones are cleared and awaited,
temporaries end with the run and its slot is released (R85, R86, R151).  The results stay those of the run until the split
leaves its trailer, where a refused load of the run traps (19_translation R295, R363).  A load into s0 alone leaves no register to mark
(DEDUCED, log entry 120). -/
def Split.applyTrailer (sp : Split) (codes : List Nat) (next : Pc) : Split :=
  let fresh := (sp.pend.filter fun p => p.inRun && !p.settled && p.dest.names && !namesDest codes p.dest &&
    !sp.unawaited.contains p.dest).map fun p => p.dest
  let left := sp.pend.filter fun p => p.remains sp.faults
  { sp with
    pc := next
    status := .waiting
    unawaited := (sp.unawaited ++ fresh).filter fun d => !namesDest codes d
    awaited := codes.filter fun k => left.any fun p => codeNames p.dest k
    pend := left.map fun p => { p with window := 0 }
    temps := []
    tempPoison := []
    run := { sp.run with slot := none } }

/-- The address the split goes to after the trailer. -/
def After.target (a : After) (fall : Pc) : Pc :=
  match a with
  | .goto t => t
  | .fall => fall
  | .park _ => fall
  | .yielded => fall
  | .returned => fall
  | .ended => fall
  | .replied _ => fall

/-- Return-free accesses and first translations of a run that are not yet translated (R295, R311). -/
def untranslated (s : State) (wk e : Nat) (sp : Split) : Bool :=
  s.xlate.held.any fun h => match h.2.waiter with
    | .lanes w none _ reqs _ _ _ => w == wk && reqs.any fun r => sp.lanes.getLsbD r.lane
    | .command c => (match Tab.get? s.cmds c with
        | some x => x.awaitedBy s wk e sp
        | none => false)
    | _ => false

/-- Every named pending write has been written back, and every return-free access is translated. -/
def canLeave (s : State) (wk e : Nat) (sp : Split) : Bool :=
  sp.awaited.all (fun k => !(sp.pend.any fun p => !p.done && codeNames p.dest k)) && !(untranslated s wk e sp)

/-- The words that executed after a word of a run which now stands at its first word not executed (19_translation R297). -/
def Run.ranSince (r : Run) (pc : Pc) : Nat := wordsBetween pc r.here - 1

/-- A result that belongs to its run no more: the words of the run that executed after its instruction are kept. -/
def Pend.leaveRun (run : Run) (p : Pend) : Pend :=
  { p with inRun := false, ran := if p.inRun then run.ranSince p.pc else p.ran }

/-- A split's results that belong to no run: of those of the run just ended, the ones that remain stay on record. -/
def Split.outOfRun (sp : Split) : List Pend :=
  (sp.pend.filter fun p => p.remains sp.faults).map fun p => p.leaveRun sp.run

/-- A split that becomes ready at a run start. -/
def Split.readyAtPc (sp : Split) (pc : Pc) (clock : Nat) : Split :=
  { sp with
    pc := pc, status := .ready, readyAt := clock, run := Run.none pc, after := .fall, awaited := [], stall := .none,
    pend := sp.outOfRun }

/-! ### Free entries and spilling (R148 to R150) -/

/-- The free entries of a split table, lowest first. -/
def freeEntries (t : Tab Split) : List Nat := (List.range Config.splitEntries).filter fun e => (Tab.get? t e).isNone

/-- The oldest spilled split takes a free entry. -/
def unspillOne (clock : Nat) (w : Warp) : Warp :=
  match freeEntries w.splits, w.spill with
  | e :: _, x :: rest =>
    { w with splits := Tab.put w.splits e { x.split with readyAt := clock }, spill := rest }
  | _, _ => w

/-- Spilled splits take free entries, the oldest first (R150). -/
def Warp.refill (w : Warp) (clock : Nat) : Warp := w.spill.foldl (fun w _ => unspillOne clock w) w

/-- A new split placed: in the lowest free entry, or spilled (R148). -/
def Warp.addSplit (w : Warp) (sp : Split) : Warp :=
  match freeEntries w.splits with
  | e :: _ => { w with splits := Tab.put w.splits e sp }
  | [] => { w with spill := w.spill ++ [{ seq := w.spillSeq, split := sp }], spillSeq := (w.spillSeq + 1) % 2 ^ 16 }

/-- The codes of the trailer that follows the executing word, where it is a legal one. -/
def Run.trailerCodes (r : Run) : Option (List Nat) :=
  match r.words.drop (r.pos + 1) with
  | w :: _ => (match decode w with
    | .ok (.endRun a b c) => some [a.toNat, b.toNat, c.toNat]
    | _ => Option.none)
  | [] => Option.none

/-- The codes of a trailer that a split may execute at once: none that names a register beyond the allotment, which traps, and none
that names, in a shadow launch, a matrix drain or a late write of the activity mask, which it waits for (R97, 15_matrix R267). -/
def Cx.childCodes (c : Cx) : Option (List Nat) :=
  c.sp.run.trailerCodes.bind fun l =>
    if l.any (fun k => decide (k < 0x78) && decide (vregAllot c.s c.w ≤ k)) ||
        isShadow c.s c.w && c.sp.pend.any (fun p => (isMatrix p.opcode || p.dest.masks) && namesDest l p.dest) then none
    else some l

/-- A new split of a divergent branch (R17): the parent's copy with the leaving lanes at the target, the trailer applied
to it.  With a fault to trap, or an illegal trailer, it still stands at the trailer (DEDUCED, log entry 9). -/
def childOf (s : State) (wk : Nat) (adv : Split) (codes : Option (List Nat)) (lanes : Mask) (target : Pc) : Split :=
  let sp := { adv.keepLanes lanes with lanes := lanes, act := lanes, after := .goto target, pc := target, yielded := false }
  match codes with
  | some l =>
    if sp.faults = [] then
      let x := sp.applyTrailer l target
      if canLeave s wk Config.splitEntries x then x.readyAtPc target s.ticks else x
    else { sp with status := .ready, readyAt := s.ticks, run := { sp.run with words := [], slot := none } }
  | none => { sp with status := .ready, readyAt := s.ticks, run := { sp.run with words := [], slot := none } }

/-- A divergence: the parent keeps its lanes and goes its own way, each other set of lanes forms a new split (R17, R147,
R148).  In a handler it is a double trap (R299). -/
def Cx.diverge (c : Cx) (keep : Mask) (after : After) (others : List (Mask × Pc)) : Out :=
  if c.sp.trap.handler then c.trapAt 0x03
  else if (freeEntries c.w.splits).length + (Config.spillRecords - c.w.spill.length) < others.length then c.trapAt 0x0C
  else
    let codes := c.childCodes
    let a := Cx.advance { c with sp := { c.sp with after := after } }
    let kids := others.map fun o => childOf a.s a.wk a.sp codes o.1 o.2
    let gone := others.foldl (fun m o => m ||| o.1) 0
    let parent := { a.sp.keepLanes (~~~gone) with act := keep }
    let w := kids.foldl Warp.addSplit { a.w with splits := Tab.put a.w.splits a.e parent }
    .next { a.s with warps := Tab.put a.s.warps a.wk w }

/-! ### Re-ganging (R22 to R24) -/

/-- The participant whose bank a merged split takes (R23): that of the lowest-numbered active lane, or with no active
lane anywhere that of the lowest-numbered lane. -/
def bankOf (l : List (Nat × Split)) (d : Split) : Split :=
  let some_ := l.any fun p => p.2.act != 0
  let key (p : Nat × Split) : Nat := lowLane (if some_ then p.2.act else p.2.lanes)
  (l.foldl (fun (best : Nat × Split) p => if key p < best.1 then (key p, p.2) else best) (97, d)).2

/-- The results a participant brings to a merged split; a scalar result of a bank not taken is written nowhere. -/
def mergePend (taken : Bool) (p : Pend) : Pend :=
  if taken || p.dest.vector then p else { p with kept := p.kept.map fun _ => allLanes }

/-- The faulted lanes of an instruction joined to an entry of the split's faults. -/
def FaultEntry.join (f : FaultEntry) (faults : List (Nat × LaneReq)) : FaultEntry :=
  f.ofLanes (f.reqs ++ faultedReqs faults)

/-- Two entries hold parts of one instruction: the lanes of one result. -/
def FaultEntry.sameResult (f g : FaultEntry) : Bool := f.cmd.isNone && g.cmd.isNone && f.pend.isSome && f.pend == g.pend

/-- The lanes of an entry joined to those of another part of its instruction; of a scalar load each part has the one access. -/
def FaultEntry.meet (f g : FaultEntry) : FaultEntry :=
  if f.dest.any fun d => !d.vector then f
  else { f.ofLanes (f.reqs ++ g.reqs) with active := f.active ||| g.active, done := f.done ||| g.done }

/-- The faults of several splits as one split has them (R23, 19_translation R295). -/
def gatherFaults (l : List FaultEntry) : List FaultEntry :=
  l.foldl (fun acc f =>
    if acc.any fun g => g.sameResult f then acc.map fun g => if g.sameResult f then g.meet f else g else acc ++ [f]) []

/-- The merged split (R23).  Its age begins anew, as a split that becomes ready has it (DESIGN CHOICE, log entry 107). -/
def mergedSplit (l : List (Nat × Split)) (first : Split) (pc : Pc) (clock : Nat) : Split :=
  let b := bankOf l first
  let low (sp : Split) : Bool := lowLane sp.lanes == lowLane b.lanes
  let sp := { b with
    lanes := l.foldl (fun m (p : Nat × Split) => m ||| p.2.lanes) 0
    act := l.foldl (fun m (p : Nat × Split) => m ||| p.2.act) 0
    fpst := l.foldl (fun m (p : Nat × Split) => m ||| p.2.fpst) 0
    pend := l.flatMap fun (p : Nat × Split) => p.2.pend.map (mergePend (low p.2))
    unawaited := l.flatMap fun (p : Nat × Split) => p.2.unawaited
    faults := gatherFaults (l.flatMap fun (p : Nat × Split) => p.2.faults)
    yielded := false }
  sp.readyAtPc pc clock

/-- Some splits of a warp re-gang at an address: the merged split takes the lowest entry, the others are freed (R23). -/
def Warp.regang (w : Warp) (entries : List Nat) (pc : Pc) (clock : Nat) : Warp :=
  match w.splits.filter fun p => entries.contains p.1 with
  | [] => w
  | (e, sp) :: rest =>
    let m := mergedSplit ((e, sp) :: rest) sp pc clock
    { w with splits := Tab.put (w.splits.filter fun p => !entries.contains p.1) e m }

/-! ### Join registers (R152 to R157) -/

/-- The entries parked on a join, with the address each continues at. -/
def parkedOn (w : Warp) (j : Nat) : List (Nat × Pc) :=
  w.splits.filterMap fun p => if p.2.status = .parkedJoin j then some (p.1, p.2.pc) else none

/-- The distinct values of a list, in order. -/
def distinct {α : Type} [DecidableEq α] : List α → List α
  | [] => []
  | x :: rest => x :: (distinct rest).filter fun y => y ≠ x

/-- A satisfied join (R152).  Lanes that had arrived before their split was spilled stay in the arrived mask (R150; DEDUCED, log entry
122). -/
def Join.satisfied (x : Join) (exited : Mask) : Bool := x.expected &&& ~~~(x.arrived ||| exited) == 0

/-- A count of lost reconvergences, saturating (R156). -/
def Warp.lose (w : Warp) (lost : Bool) : Warp :=
  if lost && w.jlost != 0xFFFFFFFF then { w with jlost := w.jlost + 1 } else w

/-- A satisfied join is resolved: each group of its parked splits re-gangs, and the join is disarmed (R154, R156). -/
def resolveJoin (clock : Nat) (w : Warp) (j : Nat) : Warp :=
  let x := w.joins.getD j { expected := 0, arrived := 0 }
  if x.satisfied w.exited then
    let parked := parkedOn w j
    let w1 := (distinct (parked.map fun p => p.2)).foldl (fun w pc =>
      w.regang ((parked.filter fun p => p.2 = pc).map fun p => p.1) pc clock) w
    let w2 := { w1 with joins := setAt w1.joins j { expected := 0, arrived := 0 } }
    (w2.lose (x.expected &&& ~~~x.arrived != 0)).refill clock
  else w

/-- The test of R152 on every join register of a warp. -/
def testJoins (w : Warp) (clock : Nat) : Warp := (List.range 4).foldl (resolveJoin clock) w

/-- A state with one warp changed. -/
def State.updWarp (s : State) (wk : Nat) (f : Warp → Warp) : State := { s with warps := Tab.upd s.warps wk f }

/-- The split that takes JOIN_DEADLOCK: every split with a lane that has not exited is parked on a join or spilled.  One that
executed `exit` and waits at its trailer keeps the warp out: its entry is about to be free for a spilled split (R16, R19, R157). -/
def deadlocked (w : Warp) : Option (Nat × Nat) :=
  let parked := w.splits.filterMap fun p => match p.2.status with | .parkedJoin j => some (p.1, j, p.2) | _ => none
  if parked = [] ∨ parked.length ≠ w.splits.length then none
  else (parked.foldl (fun (best : Nat × Option (Nat × Nat)) p =>
    if lowLane p.2.2.lanes < best.1 then (lowLane p.2.2.lanes, some (p.1, p.2.1)) else best) (97, none)).2

/-- The faults of a split that is parked at a join, refused after its run has ended: it leaves its park to take the trap, and
`tret` returns it to the same `jwait` (R295, R363; DEDUCED, log entry 89). -/
def Cx.parkTrap (c : Cx) : Out :=
  match c.sp.status, c.mustWait, sortEntries c.sp.faults with
  | .parkedJoin j, none, f :: rest =>
    c.enterTrap { cause := f.cause, code := 0, fetch := false, tpc := f.pc, exec := f.exec.getD 0, resume := c.sp.pc,
                  run := Run.none c.sp.pc, entries := f :: rest, fromPark := some j }
  | _, _, _ => .next c.s

/-- JOIN_DEADLOCK where it applies (R157, R363), once the split's waiting accesses are serviced and its results are there; a
fault of one of them is taken in its place (R295). -/
def checkDeadlock (s : State) (wk : Nat) : Out :=
  match (Tab.get? s.warps wk).bind deadlocked with
  | none => .next s
  | some (e, _) => match cxOf s wk e with
    | none => .next s
    | some c =>
      if c.mustWait.isSome then .next s
      else if c.sp.faults ≠ [] then c.parkTrap
      else
        c.enterTrap { cause := 0x0D, code := 0, fetch := false, tpc := c.sp.pc - 8, exec := 0, resume := c.sp.pc,
                      run := Run.none c.sp.pc, entries := [], fromPark := none }

/-! ### The barriers of a skein and of a grid (09_control R161) -/

/-- A split stalled at `kbar`, or for `grid` at `gbar`. -/
def atBarrier (grid : Bool) (sp : Split) : Bool :=
  sp.status == .stalled && (match sp.stall with
    | .kbar _ => !grid
    | .gbar _ => grid
    | _ => false)

/-- A warp has arrived: every lane that has not exited lies in a split stalled at the barrier. -/
def warpArrived (grid : Bool) (w : Warp) : Bool :=
  w.spill.isEmpty && w.splits.all fun p => p.2.lanes == 0 || atBarrier grid p.2

/-- The warps of some workgroups. -/
def warpsOfSkein (s : State) (k : Nat) : List Nat :=
  match Tab.get? s.skeins k with
  | none => []
  | some x => x.wgs.flatMap fun g => match Tab.get? s.wgs g with | some y => y.warps | none => []

/-- Every warp of a list has arrived or retired. -/
def allArrived (s : State) (grid : Bool) (ws : List Nat) : Bool :=
  ws.all fun w => match Tab.get? s.warps w with | some x => warpArrived grid x | none => true

/-- The barrier completes for the splits of a list of warps: they become ready (R16, R161). -/
def completeBarrier (s : State) (grid : Bool) (ws : List Nat) : State :=
  let finish (sp : Split) : Split :=
    if atBarrier grid sp then
      { sp with stall := if grid then .gbar true else .kbar true, status := .ready, readyAt := s.ticks }
    else sp
  let warp (w : Warp) : Warp := { w with splits := Tab.mapVal w.splits finish }
  { s with warps := s.warps.map fun p => if ws.contains p.1 then (p.1, warp p.2) else p }

/-- Skeins of a grid. -/
def gridSize (r : Record) : Nat := r.gx * r.gy * r.gz

/-- The warps of a launch's resident and saved skeins. -/
def warpsOfLaunch (s : State) (l : Nat) : List Nat :=
  (s.skeins.filter fun k => k.2.launch == l).flatMap fun k => warpsOfSkein s k.1

/-- Every skein of a launch has been placed. -/
def allPlaced (s : State) (l : Nat) : Bool :=
  match Tab.get? s.launches l with | some x => decide (gridSize x.record ≤ x.next) | none => true

/-- Both barriers tested again for a skein and its grid: a warp of it has retired, or has lost lanes. -/
def testBarriers (s : State) (k : Nat) : State :=
  let ws := warpsOfSkein s k
  let s1 := if allArrived s false ws then completeBarrier s false ws else s
  match Tab.get? s1.skeins k with
  | none => s1
  | some x =>
    let grid := warpsOfLaunch s1 x.launch
    if allPlaced s1 x.launch && allArrived s1 true grid then completeBarrier s1 true grid else s1

/-- The same for the skein of a warp, some of whose lanes have exited. -/
def exitBarriers (s : State) (w : Warp) : State := if w.far.isSome then s else match wgOf s w with
  | some g => testBarriers s g.skein
  | none => s

/-! ### Return from a handler (R300) -/

/-- A saved result once an entry's undone lanes have been reissued: the done lanes' values, unless they are already
written, with the new ones. -/
def reissuedPend (p : Pend) (share : Bool) (a : LaneRun) : Pend :=
  let rows := if p.done then p.rows.map fun r => r.map fun _ => none else p.rows
  { p with
    rows := if p.dest.vector then addVals rows (shareVals share a.vals)
            else rows.mapIdx fun k r => match a.vals with
              | v :: _ => [some (valWord v.val k, v.poison)]
              | [] => r
    done := false
    arrived := true
    held := p.held ||| maskOf (a.held.map fun h => h.2.lane) }

/-- EXEC of an entry of a trap state: as recorded, or the words of the run that had executed after it (R297). -/
def FaultEntry.execIn (f : FaultEntry) (t : Trap) : Nat := f.exec.getD (t.savedRun.ranSince f.pc)

/-- EXEC to report for an entry that `tret` reissues: none for one of the run that goes on, where it is counted again (R300, R363). -/
def FaultEntry.againIn (f : FaultEntry) (t : Trap) : Option Nat :=
  if f.exec.isNone && t.trpc == t.trpcSet then none else some (f.execIn t)

/-- A stopped near-memory command reissued with its progress kept: translated again, and faulting or held again
(21_near_memory R321). -/
def reissueCommand (t : Trap) (c : Cx) (f : FaultEntry) (n : Nat) : Cx :=
  match Tab.get? c.s.cmds n with
  | none => c
  | some x =>
    let put (y : Cmd) : Cx := { c with s := { c.s with cmds := Tab.put c.s.cmds n y } }
    let y := { x with phase := .active, issuer := none, walked := x.progress, pc := f.pc,
                      again := f.againIn t }
    match nearStart c.s x.asid x.kind x.progress with
    | .ok => put y
    | .hole => put y
    | .hold pages =>
      let d := put { y with issuer := some (c.e, lowLane c.sp.lanes) }
      { d with s := holdPages d.s (partyOf c.s c.w) n pages }
    | .fault cause a =>
      let d := put { y with phase := .sent }
      { d with sp := { d.sp with faults := d.sp.faults ++ [nearEntry n y cause a] } }

/-- The first record of a result takes the lanes reissued, with what any record of it keeps for later writes: after a re-gang there is
one for each split that had lanes of it. -/
def reissueFirst (id : Nat) (kept : List Mask) (share : Bool) (a : LaneRun) : List Pend → List Pend
  | [] => []
  | q :: rest =>
    if q.id = id then reissuedPend { q with kept := kept } share a :: rest else q :: reissueFirst id kept share a rest

/-- The lanes that the records of a result keep for later writes, for each register. -/
def keptOf (pend : List Pend) (id count : Nat) : List Mask :=
  (pend.filter fun q => q.id == id).foldl (fun l q => List.zipWith (fun a b => a ||| b) l q.kept) (List.replicate count 0)

/-- The saved result of an entry reissued: the one on record (R84, R300), or, where a re-gang has left none, a new one for the lanes
reissued. -/
def reissuedPends (pend : List Pend) (f : FaultEntry) (share : Bool) (a : LaneRun) : List Pend :=
  match f.pend, f.dest with
  | some id, some d =>
    if pend.any fun q => q.id == id then reissueFirst id (keptOf pend id d.count) share a pend
    else
      let q : Pend :=
        { id := id, opcode := f.opcode, pc := f.pc, dest := d, window := 0,
          rows := List.replicate d.count (if d.vector then List.replicate 96 none else [none]),
          kept := List.replicate d.count 0, arrived := false, done := false, settled := true, inRun := false, held := 0,
          open_ := false, tag := none, mismatch := false, ran := f.exec.getD 0 }
      pend ++ [reissuedPend q share a]
  | _, _ => pend

/-- One entry reissued for its undone lanes (R300): accesses performed, results pending, new faults kept.  In the run that goes
on a lane that faults again traps at the end of the rest of its window, or for a return-free access at the trailer; with its run
over it traps before the next word. -/
def reissueEntry (t : Trap) (c : Cx) (f : FaultEntry) : Cx :=
  match f.cmd with
  | some n => reissueCommand t c f n
  | none =>
    let p := partyOf c.s c.w
    let over_ := f.againIn t
    let a := (f.reqs.map fun r => { r with again := over_ }).foldl (replayLane p c.wk f.kind fun s r => heldOverlap s c.wk f.kind r)
      { s := c.s, vals := [], held := [], faults := [], poison := false, hole := false }
    let s1 := (groupHeld a.s p.asid a.held).foldl (fun s g =>
      holdOne s p g.host g.va f.kind.writes (.lanes c.wk f.pend f.kind g.reqs f.pc f.opcode f.active)) a.s
    let n := if f.kind.writes && !(f.kind.near && !f.kind.returns) then a.vals.length + a.held.length else a.held.length
    let g : FaultEntry := { f with window := if over_.isSome then some 0 else f.window, exec := over_ }
    let again : List FaultEntry := if a.faults = [] then [] else [g.ofLanes (faultedReqs a.faults)]
    { c with
      s := s1
      w := c.w.addUnack n
      sp := { c.sp with
        pend := reissuedPends c.sp.pend f (isShadow c.s c.w && f.kind.writes) a
        faults := c.sp.faults ++ again } }

/-- The split as it stood before its trap, HANDLER clear, at its resume address. -/
def Cx.restored (c : Cx) : Cx :=
  let t := c.sp.trap
  let moved : Bool := t.trpc != t.trpcSet
  let sp := (List.range 4).foldl (fun sp k => sp.setScalar (56 + k) (t.saved.getD k 0) (t.savedPoison.getLsbD k)) c.sp
  let inRun (p : Pend) : Pend := if moved then { p.leaveRun t.savedRun with window := 0 } else p
  { c with sp := { sp with
    mode := t.savedMode
    pend := (t.savedPend.map inRun).filter fun p => !(moved && p.mismatch)
    unawaited := t.savedUnawaited
    temps := if moved then [] else t.savedTemps
    tempPoison := if moved then [] else t.savedTempPoison
    run := if moved then Run.none t.trpc else t.savedRun
    pc := if moved then t.trpc else t.savedRun.start
    after := if moved then .fall else t.savedAfter
    stall := if moved then .none else t.savedStall
    awaited := []
    status := .ready
    readyAt := c.s.ticks
    trap := { t with handler := false, fromPark := none } } }

/-- An undone lane of a trap state whose address is mapped to no local memory. -/
def Cx.reissueHole (c : Cx) : Bool :=
  c.sp.trap.entries.any fun f => f.cmd.isNone && f.reqs.any fun r =>
    translate c.s (asidOf c.s c.w) r.va (if f.kind.writes then .write else .read) == .hole

/-- A split whose lanes have all exited ends after its handler: a command that it has reissued is first translated, and where that
faults again the handler runs again (R300, 21_near_memory R311, R321; DEDUCED, log entry 9). -/
def Cx.endReturn (c : Cx) : Out :=
  if c.heldAny || (c.sp.faults != [] && c.mustWait.isSome) then
    .next (unfocus (Cx.commit { c with sp := { c.sp with status := .parkedFault } }))
  else match sortEntries c.sp.faults with
    | [] => checkDeadlock (exitBarriers (State.updWarp (unfocus c.commitFree) c.wk fun w => (w.refill c.s.ticks)) c.w) c.wk
    | f :: rest =>
      c.enterTrap { cause := f.cause, code := 0, fetch := false, tpc := f.pc, exec := f.exec.getD 0, resume := c.sp.pc,
                    run := Run.none c.sp.pc, entries := f :: rest, fromPark := none }

/-- A split parked at a replayable fault once its accesses are serviced: it is ready, or, all its lanes gone, it ends. -/
def Cx.unpark (c : Cx) : Out :=
  if c.sp.lanes = 0 ∧ c.sp.trap.handler = false then c.endReturn
  else .next (Cx.commit { c with sp := { c.sp with status := .ready, readyAt := c.s.ticks } })

/-- `tret` takes effect (R300): state restored, entries reissued, the split ready at its resume address, or back at the
`jwait` it left (R320).  A split whose lanes have all exited frees its entry. -/
def Cx.returnFromTrap (c : Cx) : Out :=
  let t := c.sp.trap
  let r := t.entries.foldl (reissueEntry t) c.restored
  let r := r.settleBacks
  if c.reissueHole then .fault .physicalHole
  else if r.sp.lanes = 0 then r.endReturn
  else match t.fromPark with
    | some j =>
      if t.trpc = t.trpcSet then
        let r := { r with sp := { r.sp with status := .parkedJoin j, pc := t.trpc, run := Run.none t.trpc } }
        checkDeadlock (State.updWarp (unfocus r.commit) r.wk fun w => testJoins w r.s.ticks) r.wk
      else .next (unfocus r.commit)
    | none => .next (unfocus r.commit)

/-! ### Leaving the trailer -/

/-- The faults of a run trap at its trailer (R295, R363).  A load that was refused while the trailer waited for it resumes at
the trailer, the first word not executed; a return-free access or a command resumes where the next run begins, parked
again where the run ended with `jwait` (DEDUCED, log entry 89). -/
def Cx.trailerTrap (c : Cx) : Out :=
  match c.mustWait with
  | some _ => .next (unfocus (Cx.commit { c with sp := { c.sp with status := .waiting } }))
  | none =>
    match sortEntries c.sp.faults with
    | [] => .next (unfocus c.commit)
    | f :: rest =>
      let info : TrapInfo :=
        { cause := f.cause, code := 0, fetch := false, tpc := f.pc, exec := f.exec.getD (wordsBetween f.pc c.here - 1),
          resume := c.here, run := c.sp.run, entries := f :: rest, fromPark := none }
      if f.dest.isSome then c.enterTrap info
      else
        let park : Option Nat := match c.sp.after with | .park j => some j | _ => none
        Cx.enterTrap { c with sp := { c.sp with after := .fall, pend := c.sp.outOfRun } }
          { info with resume := c.sp.pc, run := Run.none c.sp.pc, fromPark := park
                      entries := (f :: rest).map fun g => { g with exec := some (g.exec.getD (c.sp.run.ranSince g.pc)) } }

/-- The trailer still holds its split: its waits are not over, a trap waits for a queued matrix instruction or a reply (R88), or
`tret` waits for the handler's own results, all written back before it restores the saved record (05_encoding R84, R86, R87;
DEDUCED, log entry 90). -/
def trailerHolds (s : State) (wk e : Nat) (sp : Split) : Bool :=
  !canLeave s wk e sp || (sp.faults != [] && sp.pend.any fun p => !p.done && p.open_) ||
    (sp.after == .returned && sp.pend.any fun p => !p.done)

/-- The split leaves its trailer once its waits are over: it traps, or goes where the run sent it (R81, R86). -/
def Cx.leave (c : Cx) : Out :=
  let c := c.settleBacks
  if trailerHolds c.s c.wk c.e c.sp then .next (unfocus (Cx.commit { c with sp := { c.sp with status := .waiting } }))
  else if c.sp.faults ≠ [] then c.trailerTrap
  else
    let clock := c.s.ticks
    let ready := { c with sp := c.sp.readyAtPc c.sp.pc clock }
    match c.sp.after with
    | .fall => .next (unfocus ready.commit)
    | .goto _ => .next (unfocus ready.commit)
    | .yielded => .next (unfocus (Cx.commit { ready with sp := { ready.sp with yielded := true } }))
    | .park j =>
      let p := { ready with sp := { ready.sp with status := .parkedJoin j } }
      checkDeadlock (State.updWarp (unfocus p.commit) c.wk fun w => testJoins w clock) c.wk
    | .returned => c.returnFromTrap
    | .replied vals => (match c.w.far with
      | some f => .next (endFarTask c.commit c.wk f 0 0 vals)
      | none => .next (unfocus ready.commit))
    | .ended =>
      if c.sp.lanes = 0 then
        checkDeadlock (exitBarriers (State.updWarp (unfocus c.commitFree) c.wk fun w => testJoins (w.refill clock) clock) c.w) c.wk
      else .next (unfocus ready.commit)

/-- Every pending result of a warp's splits, spilled ones among them, changed. -/
def Warp.mapPends (w : Warp) (f : Pend → Pend) : Warp :=
  let g (sp : Split) : Split := { sp with pend := sp.pend.map f }
  let h (x : Spilled) : Spilled := { x with split := g x.split }
  { w with splits := Tab.mapVal w.splits g, spill := w.spill.map h }

/-- Write-back as far as it goes in the spilled split at a position of a warp.  One whose trailer has no more to wait for has left it,
and stands ready at its branch target (R150). -/
def settleSpilled (s : State) (wk k : Nat) : State :=
  match Tab.get? s.warps wk with
  | none => s
  | some w => match w.spill.drop k with
    | [] => s
    | x :: _ =>
      let c := Cx.settleBacks { s := s, wk := wk, w := w, e := Config.splitEntries, sp := x.split }
      let over_ : Bool := c.sp.status == .waiting && c.sp.faults.isEmpty && canLeave s wk Config.splitEntries c.sp
      let sp := if over_ then c.sp.readyAtPc c.sp.pc s.ticks else c.sp
      { s with warps := Tab.put s.warps wk { c.w with spill := setAt c.w.spill k { x with split := sp } } }

/-- Write-back as far as it goes in every split of a warp, the spilled ones among them (R88, R150). -/
def settleWarp (s : State) (wk : Nat) : State :=
  (List.range Config.spillRecords).foldl (fun s k => settleSpilled s wk k)
    ((List.range Config.splitEntries).foldl (fun s e => match cxOf s wk e with
      | some c => c.settleBacks.commit
      | none => s) s)

/-- The trailer word executes (R86). -/
def Cx.trailer (c : Cx) (codes : List Nat) : Out :=
  Cx.leave { c with sp := c.sp.applyTrailer codes (c.sp.after.target (c.here + 4)) }

end Sys2Proof.Machine
end

