-- ==== Sys2Proof/Machine/Control.lean ====
section
/-! DEFINITION. Branches, joins, traps by instruction, `mode`, the trailer, and words that are no instruction
(09_control R144 to R157, R174, R175, 05_encoding R81, R90, R96). -/

namespace Sys2Proof.Machine

/-! ### Branches (R144 to R148) -/

/-- An address as the 64-bit value it stands for. -/
def pc64 (p : Pc) : DWord := p.signExtend 64

/-- The trap a target takes at the branch: ALIGN, or a fetch fault for a non-canonical one (R144). -/
def targetCause (t : DWord) : Option Nat :=
  if t.toNat % 4 ≠ 0 then some 0x08 else if !canonical t then some 0x22 else none

/-- A branch of the whole split to a target. -/
def Cx.goto (c : Cx) (t : DWord) : Out :=
  match targetCause t with
  | some k => c.trapBefore k (k == 0x22)
  | none => Cx.done { c with sp := { c.sp with after := .goto (t.setWidth 57) } }

/-- A branch not taken: the split goes on at its fall-through. -/
def Cx.fallThrough (c : Cx) : Out := Cx.done { c with sp := { c.sp with after := .fall } }

/-- The target of a relative branch. -/
def Cx.relative (c : Cx) (off : Int) : DWord := pc64 c.here + BitVec.ofInt 64 (4 * off)

/-- `br` (R144). -/
def execBr (off : BitVec 24) (s : State) : Out := issueSplit (.br off) s fun c => c.goto (c.relative off.toInt)

/-- `call` (R144): the address of its fall-through goes to s58 and s59. -/
def execCall (off : BitVec 24) (s : State) : Out :=
  issueSplit (.call off) s fun c =>
    let t := c.relative off.toInt
    match targetCause t with
    | some _ => c.goto t
    | none => (c.putScalar64 58 (pc64 (c.here + 8))).goto t

/-- `ret` (R144). -/
def execRet (a : BitVec 7) (s : State) : Out := issueSplit (.ret a) s fun c => c.goto (c.sp.scalar64 a.toNat)

/-- `brx.u` (R144). -/
def execBrxU (a : BitVec 7) (s : State) : Out := issueSplit (.brxU a) s fun c => c.goto (c.sp.scalar64 a.toNat)

/-- The conditions of `brc` (R146). -/
def branchCond (cc : BitVec 3) (v : Word) : Bool :=
  match cc.toNat with
  | 0 => v == 0
  | 1 => v != 0
  | 2 => decide (v.toInt < 0)
  | 3 => decide (0 ≤ v.toInt)
  | 4 => decide (0 < v.toInt)
  | 5 => decide (v.toInt ≤ 0)
  | 6 => v.getLsbD 0
  | _ => !v.getLsbD 0

/-- `brc` (R146). -/
def execBrc (cc : BitVec 3) (r : BitVec 6) (off : BitVec 15) (s : State) : Out :=
  issueSplit (.brc cc r off) s fun c =>
    if branchCond cc (c.sp.scalar r.toNat) then c.goto (c.relative off.toInt) else c.fallThrough

/-- `bra` (R145, R17); in a shadow launch the outcomes of paired lanes are compared (R347). -/
def execBra (k : BitVec 3) (n : BitVec 1) (off : BitVec 20) (s : State) : Out :=
  issueSplit (.bra k n off) s fun c =>
    let act := c.sp.act
    let taken := act &&& c.predOperand k n
    let t := c.relative off.toInt
    if isShadow c.s c.w && !(pairsEqual act fun i => taken.getLsbD i) then c.trapAt 0x10
    else if taken = 0 then c.fallThrough
    else match targetCause t with
      | some _ => c.goto t
      | none => if taken = act then c.goto t else c.diverge (act &&& ~~~taken) .fall [(taken, t.setWidth 57)]

/-- The distinct targets of a `brx` with their lanes, in the order of their lowest lanes. -/
def targetGroups (act : Mask) (f : Nat → DWord) : List (Mask × DWord) :=
  (distinct ((lanesOf act).map f)).map fun t => (maskWhere act fun i => f i == t, t)

/-- `brx` (R147). -/
def execBrx (a b : BitVec 7) (s : State) : Out :=
  issueSplit (.brx a b) s fun c =>
    let act := c.sp.act
    let row := c.row b.toNat
    let f (i : Nat) : DWord := c.sp.scalar64 a.toNat + BitVec.ofInt 64 (4 * (row.getD i 0).toInt)
    if (lanesOf act).any fun i => (f i).toNat % 4 != 0 then c.trapAt 0x08
    else if (lanesOf act).any fun i => !canonical (f i) then c.trapBefore 0x22 true
    else if isShadow c.s c.w && !(pairsEqual act f) then c.trapAt 0x10
    else match targetGroups act f with
      | [] => c.fallThrough
      | [(_, t)] => c.goto t
      | (m, t) :: rest => c.diverge m (.goto (t.setWidth 57)) (rest.map fun g => (g.1, g.2.setWidth 57))

/-! ### Releases (13_consistency R217, R218) -/

/-- A release at a scope: the instruction stalls until the warp's writes are acknowledged there. -/
def Cx.releasing (c : Cx) (scope : Nat) (k : Cx → Out) : Out :=
  if c.w.unack.getD scope 0 = 0 then k c else c.stall .other

/-! ### Joins (R152 to R156) -/

/-- A join register with a change; its poison goes with a write of both masks. -/
def Warp.putJoin (w : Warp) (j : Nat) (x : Join) (clean : Bool) : Warp :=
  { w with
    joins := setAt w.joins j x
    joinPoison := if clean then w.joinPoison &&& ~~~(1#4 <<< j) else w.joinPoison }

/-- A join register of a warp. -/
def Warp.join (w : Warp) (j : Nat) : Join := w.joins.getD j { expected := 0, arrived := 0 }

/-- The lanes of the splits parked on a join. -/
def parkedLanes (w : Warp) (j : Nat) : Mask :=
  w.splits.foldl (fun m p => if p.2.status = .parkedJoin j then m ||| p.2.lanes else m) 0

/-- The warp after a join instruction, every join tested (R152). -/
def Cx.joined (c : Cx) (w : Warp) : Cx := { c with w := testJoins w c.s.ticks }

/-- `jarm` (R153). -/
def execJarm (j : BitVec 2) (s : State) : Out :=
  issueSplit (.jarm j) s fun c =>
    (c.joined (c.w.putJoin j.toNat { expected := c.sp.act, arrived := parkedLanes c.w j.toNat } true)).done

/-- `jarv` (R153): no change to a disarmed join (R155). -/
def execJarv (j : BitVec 2) (s : State) : Out :=
  issueSplit (.jarv j) s fun c =>
    if c.w.joinPoison.getLsbD j.toNat then c.trapAt 0x13
    else c.releasing 0 fun c =>
      let x := c.w.join j.toNat
      if x.expected = 0 then c.done
      else (c.joined (c.w.putJoin j.toNat { x with arrived := x.arrived ||| c.sp.act } false)).done

/-- `jwait` (R153): arrives; the split parks after the trailer, and the join is tested there (DEDUCED, log entry 10). -/
def execJwait (j : BitVec 2) (s : State) : Out :=
  issueSplit (.jwait j) s fun c =>
    if c.w.joinPoison.getLsbD j.toNat then c.trapAt 0x13
    else c.releasing 0 fun c =>
      let x := c.w.join j.toNat
      let w := if x.expected = 0 then c.w else c.w.putJoin j.toNat { x with arrived := x.arrived ||| c.sp.act } false
      Cx.done { c with w := w, sp := { c.sp with after := .park j.toNat } }

/-- `jclr` (R155, R156): every parked split becomes ready at the fall-through of its own `jwait`. -/
def execJclr (j : BitVec 2) (s : State) : Out :=
  issueSplit (.jclr j) s fun c =>
    let parked := parkedOn c.w j.toNat
    let w := { c.w with splits := Tab.mapVal c.w.splits fun (sp : Split) =>
      if sp.status = SplitStatus.parkedJoin j.toNat then sp.readyAtPc sp.pc c.s.ticks else sp }
    Cx.done { c with w := (w.putJoin j.toNat { expected := 0, arrived := 0 } true).lose (!parked.isEmpty) }

/-! ### Yield, exit, traps (R174, R175) -/

/-- `yield` (R174). -/
def execYield (s : State) : Out :=
  issueSplit .yield s fun c => Cx.done { c with sp := { c.sp with after := .yielded } }


/-- `trap n` (R174): USER with code n, resuming at the next word. -/
def execTrap (n : BitVec 6) (s : State) : Out := issueSplit (.trap n) s fun c => c.trapAfter 0x11 n.toNat

/-- A skein that a pre-emption may be requested of. -/
def Skein.active (k : Skein) : Bool := k.resident && (k.phase == .admitted || k.phase == .running || k.phase == .resuming)

/-- A request to pre-empt a resident skein; a skein of a `.coop` grid takes the whole grid with it (17_scheduling R280,
01_machine R49). -/
def requestPreempt (s : State) (k : Nat) : State :=
  match Tab.get? s.skeins k with
  | none => s
  | some x =>
    let coop := match Tab.get? s.launches x.launch with | some l => l.kernel.coop | none => false
    let hit (p : Nat × Skein) : Bool := (p.1 == k || (coop && p.2.launch == x.launch)) && p.2.active
    { s with skeins := s.skeins.map fun p => if hit p then (p.1, { p.2 with phase := .preempting }) else p }

/-- The skein stops for an attached debugger: it is pre-empted once the `brk` has executed, and firmware has the report
(R174, R280). -/
def Cx.debugStop (c : Cx) (n k : Nat) : Out :=
  let t : TrapInfo := { cause := 0x12, code := n, fetch := false, tpc := c.here, exec := 0, resume := c.here + 4,
                        run := c.sp.run, entries := [], fromPark := none }
  let st := { c.trapState t with handler := false }
  let s := requestPreempt c.advance.commit k
  .next { s with
    skeins := Tab.upd s.skeins k fun x => { x with debugStop := true }
    plat := { s.plat with reports := s.plat.reports ++ [{ warp := c.wk, entry := c.e, trap := st, second := none }] } }

/-- `brk n` (R174): BREAK with code n, or the skein stops for a debugger. -/
def execBrk (n : BitVec 6) (s : State) : Out :=
  issueSplit (.brk n) s fun c =>
    match c.s.debugger, wgOf c.s c.w with
    | true, some g => if c.sp.faults ≠ [] then c.faultTrap else c.debugStop n.toNat g.skein
    | _, _ => c.trapAfter 0x12 n.toNat

/-- `tret` (R300): outside a handler ILLEGAL_CONTEXT, and ALIGN for a resume address that the handler has left unaligned
(05_encoding R74); the return takes place once its trailer has executed (R81). -/
def execTret (s : State) : Out :=
  issueSplit .tret s fun c =>
    if !c.sp.trap.handler then c.trapAt 0x03
    else if c.sp.trap.trpc.toNat % 4 ≠ 0 then c.trapAt 0x08
    else Cx.done { c with sp := { c.sp with after := .returned } }

/-- `mode` (R90). -/
def execMode (d : BitVec 5) (k : BitVec 14) (s : State) : Out :=
  issueSplit (.mode d k) s fun c =>
    let sel := (modeSelected d).setWidth 32
    Cx.done { c with sp := { c.sp with mode := (c.sp.mode &&& ~~~sel) ||| (k.setWidth 32 &&& sel) } }

/-- The trailer `end` (R86).  In a shadow launch it waits before it executes for the matrix drains and the late writes of
the activity mask that it names, and traps SHADOW_MISMATCH for one whose halves differ (15_matrix R267, 01_machine R31). -/
def execEndRun (a b d : BitVec 8) (s : State) : Out :=
  issueSplit (.endRun a b d) s fun c =>
    let codes := [a.toNat, b.toNat, d.toNat]
    let named := c.sp.pend.filter fun p => (isMatrix p.opcode || p.dest.masks) && namesDest codes p.dest
    if isShadow c.s c.w && named.any fun p => !p.done then c.stay .issuing
    else if named.any fun p => p.mismatch then c.trapAt 0x10
    else c.trailer codes

/-! ### Words that are no instruction (R96, R97) -/

/-- The cause a word that is no instruction traps with; `ok` says that its opcode belongs to the executing context. -/
def badWordCause (w : Word) (ok : Nat → Bool) : Option Nat :=
  match decode w with
  | .ok _ => none
  | .error .illegalOpcode => some 0x01
  | .error _ => some (if ok (w >>> 24).toNat then 0x02 else 0x03)

/-- A fetched word that is no instruction traps precisely (R96).  Of a word that is one, this event does not come about. -/
def execWordNotAnInstruction (w : BitVec 32) (s : State) : Out :=
  match s.focus with
  | .none => .next s
  | .split wk e => (match cxOf s wk e with
    | none => .next s
    | some c => match badWordCause w c.contextOk with
      | none => .next s
      | some k => if c.sp.faultDue then c.faultTrap else match c.reissueWait with | some st => c.stay st | none => c.trapAt k)
  | .engine g => (match exOf s g with
    | none => .next s
    | some x => match badWordCause w engineOpcode with
      | none => .next s
      | some k => x.stop k)

end Sys2Proof.Machine
end

