-- ==== Sys2Proof/Machine/Barrier.lean ====
section
/-! DEFINITION. Barrier objects in skein scratchpad, and the skein-wide and grid-wide barriers (09_control R158 to R162). -/

namespace Sys2Proof.Machine

/-! ### Scratchpad windows (01_machine R34) -/

/-- The bytes of a skein's window changed, its poison with it (25_reliability R344). -/
def writeScratch (s : State) (k addr : Nat) (bs : List Byte) (poison : Bool) : State :=
  { s with skeins := Tab.upd s.skeins k fun x => { x with
      scratch := Mem.writeBytes x.scratch addr bs
      scratchPoison := poisonAfter 8 x.scratchPoison addr bs.length poison } }

/-- Bytes written into a skein's scratchpad window, each with its own poison (25_reliability R344). -/
def writeScratchEach (s : State) (k addr : Nat) (bs : List Byte) (bad : List Bool) : State :=
  { s with skeins := Tab.upd s.skeins k fun x => { x with
      scratch := Mem.writeBytes x.scratch addr bs
      scratchPoison := poisonEach 8 x.scratchPoison addr bad } }

/-- The trap of a scratchpad operand of n bytes: ALIGN, then ALLOTMENT beyond the window (R34). -/
def Cx.operandCause (c : Cx) (addr align n : Nat) : Option Nat :=
  if addr % align ≠ 0 then some 0x08 else if windowBytes c.s c.w < addr + n then some 0x07 else none

/-- An instruction on an object of the skein's scratchpad: the checks of its address, then its effect on the skein. -/
def Cx.withObject (c : Cx) (addr align n : Nat) (k : Skein → Out) : Out :=
  match c.operandCause addr align n, skOf c.s c.w with
  | some cause, _ => c.trapAt cause
  | none, some sk => k sk
  | none, none => c.trapAt 0x07

/-- The key of the warp's skein. -/
def Cx.skKey (c : Cx) : Nat := match wgOf c.s c.w with | some g => g.skein | none => 0

/-! ### Barrier objects (R158 to R160) -/

/-- PHASE, EXPECTED and PENDING of a count word (R158). -/
def barPhase (m : Mem) (addr : Nat) : Nat := Mem.le m (addr + 6) 2
/-- EXPECTED. -/
def barExpected (m : Mem) (addr : Nat) : Nat := Mem.le m (addr + 4) 2
/-- PENDING. -/
def barPending (m : Mem) (addr : Nat) : Nat := Mem.le m addr 2

/-- c arrivals on a barrier object (R160): the count word and EXCESS. -/
def barArrive (m : Mem) (addr c : Nat) : Mem :=
  let p := barPending m addr
  if c = 0 then m
  else if p ≤ c then
    let m1 := if p < c then orStatus m addr 0x400 0 0 else m
    let m2 := Mem.writeBytes m1 (addr + 6) (leBytes 2 ((barPhase m addr + 1) % 2 ^ 16))
    Mem.writeBytes m2 addr (leBytes 2 (barExpected m addr))
  else Mem.writeBytes m addr (leBytes 2 (p - c))

/-- An engine's arrival on a barrier object of a skein: status bits first, then one arrival (R158). -/
def engineArrive (s : State) (k addr bits bndcnt : Nat) : State :=
  { s with skeins := Tab.upd s.skeins k fun x => { x with
      scratch := barArrive (orStatus x.scratch addr bits bndcnt 0) addr 1 } }

/-- `bar.init` (R160). -/
def execBarInit (a b : BitVec 6) (s : State) : Out :=
  issueSplit (.barInit a b) s fun c =>
    let addr := (c.sp.scalar a.toNat).toNat
    let n := (c.sp.scalar b.toNat).toNat
    c.withObject addr 16 16 fun _ =>
      if n = 0 ∨ 65535 < n then c.trapAt 0x04
      else Cx.done { c with s := writeScratch c.s c.skKey addr (leBytes 8 (n + n * 2 ^ 32) ++ leBytes 8 0) false }

/-- `bar.arv` (R160): releases at sk scope, returns the phase as token, and arrives. -/
def execBarArv (d a b : BitVec 6) (s : State) : Out :=
  issueSplit (.barArv d a b) s fun c =>
    let addr := (c.sp.scalar a.toNat).toNat
    let n := if b = 0 then 1 else (c.sp.scalar b.toNat).toNat
    c.withObject addr 16 16 fun k =>
      c.releasing 1 fun c =>
        let token := barPhase k.scratch addr
        let s := { c.s with skeins := Tab.put c.s.skeins c.skKey { k with scratch := barArrive k.scratch addr n } }
        c.scalarDone ({ c with s := s }.putScalar d.toNat (BitVec.ofNat 32 token))

/-- `bar.wait` (R160): stalls until the phase differs from the token, then reads the status word. -/
def execBarWait (d a b : BitVec 6) (s : State) : Out :=
  issueSplit (.barWait d a b) s fun c =>
    let addr := (c.sp.scalar a.toNat).toNat
    c.withObject addr 16 16 fun k =>
      if touchesPoison 8 k.scratchPoison addr 16 then c.trapAt 0x13
      else if barPhase k.scratch addr = (c.sp.scalar b.toNat).toNat then c.stall .other
      else c.scalarDone (c.putScalar64 d.toNat (BitVec.ofNat 64 (statusAt k.scratch addr)))

/-! ### `kbar` and `gbar` (R161) -/

/-- `kbar` (R161): arrival releases at sk scope; the split stalls until every warp of the skein has arrived or retired. -/
def execKbar (s : State) : Out :=
  issueSplit .kbar s fun c =>
    match c.sp.stall with
    | .kbar true => c.done
    | _ => c.releasing 1 fun c =>
      let s := unfocus (Cx.commit { c with sp := { c.sp with status := .stalled, stall := .kbar false } })
      let ws := warpsOfSkein s c.skKey
      .next (if allArrived s false ws then completeBarrier s false ws else s)

/-- `gbar` (R161): traps GRID_BARRIER without `.coop`; otherwise as `kbar` over the grid, at dev scope. -/
def execGbar (s : State) : Out :=
  issueSplit .gbar s fun c =>
    match c.sp.stall, kernelOf c.s c.w, lnKey c.s c.w with
    | .gbar true, _, _ => c.done
    | _, some n, some l =>
      if !n.coop then c.trapAt 0x0E
      else c.releasing 2 fun c =>
        let s := unfocus (Cx.commit { c with sp := { c.sp with status := .stalled, stall := .gbar false } })
        let ws := warpsOfLaunch s l
        .next (if allPlaced s l && allArrived s true ws then completeBarrier s true ws else s)
    | _, _, _ => c.trapAt 0x0E

end Sys2Proof.Machine
end

