-- ==== Sys2Proof/Machine/Loads.lean ====
section
/-! DEFINITION. Loads and stores, opcodes 0xA0 to 0xAE: global (11_memory R191, R192), scratchpad (R193), scalar (R194)
and weft queues (R195). -/

namespace Sys2Proof.Machine

/-- No captured operand. -/
def noData (_ : Nat) : BitVec 128 := 0

/-- No second captured operand. -/
def noData2 (_ : Nat) : DWord := 0

/-- A global load (R191): `regs` destination registers. -/
def globalLoad (i : Instr) (st : State) (d a : BitVec 7) (s : BitVec 6) (bytes regs : Nat) (signed : Bool) : Out :=
  issueSplit i st fun c =>
    c.global (opcodeOf i) (lookOf i) (.load bytes signed) a s (some { vector := true, base := d.toNat, count := regs })
      noData noData2

/-- `ld.n8` (R191). -/
def execLdN8 (d a : BitVec 7) (s : BitVec 6) (l : BitVec 4) (st : State) : Out :=
  globalLoad (.ldN8 d a s l) st d a s 1 1 false

/-- `ld.i8` (R191). -/
def execLdI8 (d a : BitVec 7) (s : BitVec 6) (l : BitVec 4) (st : State) : Out :=
  globalLoad (.ldI8 d a s l) st d a s 1 1 true

/-- `ld.n16` (R191). -/
def execLdN16 (d a : BitVec 7) (s : BitVec 6) (l : BitVec 4) (st : State) : Out :=
  globalLoad (.ldN16 d a s l) st d a s 2 1 false

/-- `ld.i16` (R191). -/
def execLdI16 (d a : BitVec 7) (s : BitVec 6) (l : BitVec 4) (st : State) : Out :=
  globalLoad (.ldI16 d a s l) st d a s 2 1 true

/-- `ld.32` (R191). -/
def execLd32 (d a : BitVec 7) (s : BitVec 6) (l : BitVec 4) (st : State) : Out :=
  globalLoad (.ld32 d a s l) st d a s 4 1 false

/-- `ld.64` (R191). -/
def execLd64 (d a : BitVec 7) (s : BitVec 6) (l : BitVec 4) (st : State) : Out :=
  globalLoad (.ld64 d a s l) st d a s 8 2 false

/-- `ld.128` (R191). -/
def execLd128 (d a : BitVec 7) (s : BitVec 6) (l : BitVec 4) (st : State) : Out :=
  globalLoad (.ld128 d a s l) st d a s 16 4 false

/-- Bytes of a store's size code (R192). -/
def storeBytes (z : BitVec 3) : Nat := 2 ^ z.toNat

/-- `st` (R192). -/
def execSt (d a : BitVec 7) (s : BitVec 6) (z : BitVec 3) (st : State) : Out :=
  issueSplit (.st d a s z) st fun c =>
    c.global 0xA7 0 (.store (storeBytes z)) a s none (c.dataOf d.toNat (storeRegs z)) noData2

/-! ### Scratchpad accesses (R193) -/

/-- The checks of R188 for a scratchpad access of the active lanes, then its effect.  A far task has no window (R167). -/
def Cx.localAccess (c : Cx) (n : Nat) (addr : Nat → Nat) (k : Skein → Out) : Out :=
  if (lanesOf c.active).any fun i => addr i % n != 0 then c.trapAt 0x08
  else if c.w.far.isSome || (lanesOf c.active).any fun i => decide (windowBytes c.s c.w < addr i + n) then c.trapAt 0x07
  else match skOf c.s c.w with
    | some sk => k sk
    | none => c.trapAt 0x07

/-- The values the active lanes read from a skein's window. -/
def scratchVals (k : Skein) (n : Nat) (addr : Nat → Nat) (lanes : List Nat) : List LaneVal :=
  lanes.map fun i =>
    { lane := i, val := BitVec.ofNat 128 (Mem.le k.scratch (addr i) n), poison := touchesPoison 8 k.scratchPoison (addr i) n }

/-- A long-latency result from scratchpad: the values are read at issue and delivered later (R84). -/
def Cx.scratchLoad (c : Cx) (opcode look : Nat) (d : Dest) (vals : List LaneVal) : Cx :=
  let r := c.newPend opcode look d (rowsOf d.count vals) 0 false
  if vals = [] then r.1.settleEmpty r.2 else r.1

/-- `ldl.32` and `ldl.128` (R193). -/
def localLoad (i : Instr) (st : State) (d a : BitVec 7) (s : BitVec 6) (bytes regs : Nat) : Out :=
  issueSplit i st fun c =>
    let addr (j : Nat) : Nat := (c.localAddress a s j).toNat
    c.localAccess bytes addr fun k =>
      (c.scratchLoad (opcodeOf i) (lookOf i) { vector := true, base := d.toNat, count := regs }
        (scratchVals k bytes addr (lanesOf c.active))).done

/-- `ldl.32` (R193). -/
def execLdl32 (d a : BitVec 7) (s : BitVec 6) (l : BitVec 4) (st : State) : Out :=
  localLoad (.ldl32 d a s l) st d a s 4 1

/-- `ldl.128` (R193). -/
def execLdl128 (d a : BitVec 7) (s : BitVec 6) (l : BitVec 4) (st : State) : Out :=
  localLoad (.ldl128 d a s l) st d a s 16 4

/-- The lanes that store: in a shadow launch the lower copies alone (R347). -/
def storeLanes (shadow : Bool) (m : Mask) : List Nat := if shadow then (lanesOf m).filter fun i => i < 48 else lanesOf m

/-- Lanes written into a skein's window in ascending order, so that the highest lane wins a byte (R189). -/
def storeScratch (s : State) (k n : Nat) (addr : Nat → Nat) (data : Nat → BitVec 128) (lanes : List Nat) : State :=
  lanes.foldl (fun s i => writeScratch s k (addr i) (leBytes n (data i).toNat) false) s

/-- `stl` (R193). -/
def execStl (d a : BitVec 7) (s : BitVec 6) (z : BitVec 3) (st : State) : Out :=
  issueSplit (.stl d a s z) st fun c =>
    let addr (j : Nat) : Nat := (c.localAddress a s j).toNat
    let n := storeBytes z
    let data := c.dataOf d.toNat (storeRegs z)
    let shadow := isShadow c.s c.w
    c.localAccess n addr fun _ =>
      if shadow && !(pairsEqual c.active fun i => (addr i, data i)) then c.trapAt 0x10
      else
        let lanes := storeLanes shadow c.active
        Cx.done { c with s := storeScratch c.s c.skKey n addr data lanes, w := c.w.addUnack lanes.length }

/-! ### Scalar loads (R194) -/

/-- A scalar load by a split: one access, a pending scalar destination, a done mask of one entry.  A misaligned address traps
ALIGN and a non-canonical one NONCANONICAL precisely, at the word, as R188 has it for lanes (DEDUCED, log entry 82). -/
def Cx.scalarLoad (c : Cx) (opcode look n d : Nat) (addr : DWord) : Out :=
  if addr.toNat % n ≠ 0 then c.trapAt 0x08
  else if !canonical addr then c.trapAt 0x22
  else
    let p := partyOf c.s c.w
    let kind := MemKind.load n false
    let r : LaneReq := { lane := lowLane c.sp.lanes, va := addr, data := 0, data2 := 0, poison := false, order := c.s.fresh }
    let dest : Dest := { vector := false, base := d, count := n / 4 }
    let empty : List (List (Option (Word × Bool))) := List.replicate (n / 4) [none]
    let fault (cause : Nat) : Out :=
      let q := c.newPend opcode look dest empty 0 false
      let f : FaultEntry :=
        { cause := cause, pc := c.here, opcode := opcode, addr := addr, active := 1, done := 0, kind := kind,
          reqs := [{ r with fault := cause }], dest := some dest, window := some (c.window look), cmd := none, pend := some q.2, exec := none }
      Cx.done { q.1 with sp := { q.1.sp with faults := q.1.sp.faults ++ [f] } }
    if heldOverlap c.s c.wk kind r then c.stall .other
    else match (if byRelay c.s p.asid addr kind then .replay false else accessLane c.s p c.wk kind r) with
    | .ok s v b =>
      let rows := (List.range (n / 4)).map fun k => [some (valWord v k, b)]
      (Cx.newPend { c with s := s } opcode look dest rows 0 false).1.done
    | .replay h =>
      if noRoom c.s p h addr then c.stall .other
      else
        let q := c.newPend opcode look dest empty 1 false
        let s := holdOne q.1.s p h addr false (.lanes c.wk (some q.2) kind [r] c.here opcode 1)
        Cx.done { q.1 with s := s, w := q.1.w.addUnack 1 }
    | .fault cause => fault cause
    | .poison => c.trapAt 0x13
    | .hole => .fault .physicalHole

/-- The data segment of a launch (R194). -/
def dataBase (s : State) (l : Option Nat) : DWord :=
  match l.bind (Tab.get? s.launches) with | some x => x.record.dbase | none => 0

/-- The party of an engine program: its workgroup's (R251, R286). -/
def enginePartyOf (s : State) (wg : Workgroup) : Party :=
  let l := (Tab.get? s.skeins wg.skein).map fun k => k.launch
  { asid := match l.bind (Tab.get? s.launches) with | some x => x.asid | none => 0
    skein := some wg.skein, launch := l, die := wg.core / Config.dieCores }

/-- A command of an engine program held for a page (R260, R294); it stands while no fault-buffer entry is free. -/
def Ex.hold (x : Ex) (p : Party) (h : Bool) (addr : DWord) (write : Bool) : Out :=
  if x.s.xlate.held.any (fun q => q.2.waiter == .engine x.g) then x.wait
  else if noRoom x.s p h addr then x.wait
  else .next (holdOne x.commit p h addr write (.engine x.g))

/-- A scalar load by an engine program, complete before the next command (R252). -/
def Ex.scalarLoad (x : Ex) (n d : Nat) (addr : DWord) : Out :=
  if addr.toNat % n ≠ 0 then x.stop 0x08
  else
    let p := enginePartyOf x.s x.wg
    let r : LaneReq := { lane := 0, va := addr, data := 0, data2 := 0, poison := false }
    match accessLane x.s p (engineKey x.g) (.load n false) r with
    | .ok s v b =>
      ((List.range (n / 4)).foldl (fun (x : Ex) k => x.putScalar (d + k) (valWord v k) b) { x with s := s }).done
    | .replay h => x.hold p h addr false
    | .fault cause => x.stop cause
    | .poison => x.stop 0x13
    | .hole => .fault .physicalHole

/-- `ldc` (R194): 4 or 8 bytes at CTL_DBASE + 4w. -/
def execLdc (d : BitVec 7) (p : BitVec 1) (w : BitVec 12) (l : BitVec 4) (s : State) : Out :=
  let n := if p = 1 then 8 else 4
  let off : DWord := BitVec.ofNat 64 (4 * w.toNat)
  issue (.ldc d p w l) s
    (fun c => if p = 1 ∧ w.toNat % 2 = 1 then c.trapAt 0x08
      else c.scalarLoad 0xAD l.toNat n d.toNat (dataBase c.s (lnKey c.s c.w) + off))
    (fun x => if p = 1 ∧ w.toNat % 2 = 1 then x.stop 0x08
      else x.scalarLoad n d.toNat
        (dataBase x.s ((Tab.get? x.s.skeins x.wg.skein).map fun k => k.launch) + off))

/-- `sld` (R194): the pair s, or 0 for s = 0 (R78), plus the sign-extended scalar. -/
def execSld (d : BitVec 7) (p : BitVec 1) (a s : BitVec 6) (l : BitVec 4) (st : State) : Out :=
  let n := if p = 1 then 8 else 4
  issue (.sld d p a s l) st
    (fun c => c.scalarLoad 0xAE l.toNat n d.toNat
      ((if s = 0 then 0 else c.sp.scalar64 s.toNat) + (c.sp.scalar a.toNat).signExtend 64))
    (fun x => x.scalarLoad n d.toNat
      ((if s = 0 then 0 else x.scalar64 s.toNat) + (x.scalar a.toNat).signExtend 64))

/-! ### Weft queues (01_machine R38 to R40, R195) -/

/-- The checks of a queue form: the queue number, then the offsets within the slot. -/
def Cx.queueAccess (c : Cx) (q : BitVec 3) (n : Nat) (off : Nat → Nat) (k : Skein → Kernel → WeftQueue → Out) : Out :=
  match skOf c.s c.w, kernelOf c.s c.w with
  | some sk, some kn =>
    if kn.stages ≤ q.toNat + 1 then c.trapAt 0x04
    else if (lanesOf c.active).any fun i => off i % n != 0 then c.trapAt 0x08
    else if (lanesOf c.active).any fun i => decide (kn.slot < off i + n) then c.trapAt 0x07
    else k sk kn (sk.queues.getD q.toNat { pushed := 0, committed := [], popped := 0, emptied := [] })
  | _, _ => c.trapAt 0x07

/-- The local address of a slot (R38). -/
def slotAddr (kn : Kernel) (q slot : Nat) : Nat := q * 8 * kn.slot + (slot % 8) * kn.slot

/-- A slot is free: it is one of the first eight, or the slot eight before it has been emptied (R39). -/
def WeftQueue.free (x : WeftQueue) (slot : Nat) : Bool := decide (slot < 8) || x.emptied.contains (slot - 8)

/-- The next slot is taken by a push, which then waits until it is free. -/
def WeftQueue.take (x : WeftQueue) : WeftQueue := { x with pushed := x.pushed + 1 }

/-- A slot is committed; that the slot eight before it has been emptied need no longer be kept. -/
def WeftQueue.commit (x : WeftQueue) (slot : Nat) : WeftQueue :=
  { x with committed := x.committed ++ [slot], emptied := x.emptied.filter fun n => n + 8 != slot }

/-- A popped slot is emptied. -/
def WeftQueue.clear (x : WeftQueue) (slot : Nat) : WeftQueue :=
  { x with committed := x.committed.filter fun n => n != slot, emptied := x.emptied ++ [slot] }

/-- A queue of a skein changed. -/
def putQueue (s : State) (k q : Nat) (x : WeftQueue) : State :=
  { s with skeins := Tab.upd s.skeins k fun y => { y with queues := setAt y.queues q x } }

/-- `stl.q` (R195): takes the next slot in the order in which pushes reach the queue (R39), stalls until it is free, writes,
and commits the slot where told to. -/
def execStlQ (d a : BitVec 7) (cm w : BitVec 1) (q : BitVec 3) (s : State) : Out :=
  issueSplit (.stlQ d a cm w q) s fun c =>
    let n := if w = 1 then 16 else 4
    let row := c.row a.toNat
    let off (i : Nat) : Nat := (row.getD i 0).toNat
    let data := c.dataOf d.toNat (if w = 1 then 4 else 1)
    let shadow := isShadow c.s c.w
    c.queueAccess q n off fun _ kn x =>
      if shadow && !(pairsEqual c.active fun i => (off i, data i)) then c.trapAt 0x10
      else
        let opened := Tab.get? c.w.openPush q.toNat
        let slot := opened.getD x.pushed
        let x1 := if opened.isNone then x.take else x
        let c1 : Cx := { c with s := putQueue c.s c.skKey q.toNat x1, w := { c.w with openPush := Tab.put c.w.openPush q.toNat slot } }
        if !x1.free slot then c1.stall .other
        else
          let lanes := storeLanes shadow c.active
          let store (c : Cx) : Cx :=
            { c with
              s := storeScratch c.s c.skKey n (fun i => slotAddr kn q.toNat slot + off i) data lanes
              w := c.w.addUnack lanes.length }
          if cm = 1 then
            c1.releasing 1 fun c =>
              let c2 := store { c with s := putQueue c.s c.skKey q.toNat (x1.commit slot) }
              Cx.done { c2 with w := { c2.w with openPush := Tab.del c2.w.openPush q.toNat } }
          else (store c1).done

/-- `ldl.q` (R195): takes the oldest slot, stalls until it is committed, reads, and frees it where told to. -/
def execLdlQ (d a : BitVec 7) (f w : BitVec 1) (q : BitVec 3) (l : BitVec 4) (s : State) : Out :=
  issueSplit (.ldlQ d a f w q l) s fun c =>
    let n := if w = 1 then 16 else 4
    let row := c.row a.toNat
    let off (i : Nat) : Nat := (row.getD i 0).toNat
    c.queueAccess q n off fun k kn x =>
      let opened := Tab.get? c.w.openPop q.toNat
      let slot := opened.getD x.popped
      let x1 := if opened.isNone then { x with popped := x.popped + 1 } else x
      let c1 : Cx := { c with s := putQueue c.s c.skKey q.toNat x1, w := { c.w with openPop := Tab.put c.w.openPop q.toNat slot } }
      if !x.committed.contains slot then c1.stall .other
      else
        let vals := scratchVals k n (fun i => slotAddr kn q.toNat slot + off i) (lanesOf c.active)
        let c2 : Cx := if f = 1 then
            { c1 with
              s := putQueue c1.s c.skKey q.toNat (x1.clear slot)
              w := { c1.w with openPop := Tab.del c1.w.openPop q.toNat } }
          else c1
        (c2.scratchLoad 0xAB l.toNat { vector := true, base := d.toNat, count := if w = 1 then 4 else 1 } vals).done

end Sys2Proof.Machine
end

