-- ==== Sys2Proof/Machine/Atomics.lean ====
section
/-! DEFINITION. Atomics on global memory and scratchpad, opcodes 0xAF to 0xBD (11_memory R196 to R199), and the per-lane
near-memory operations, opcodes 0xD0 to 0xD2 and 0xD6 (21_near_memory R303 to R310). -/

namespace Sys2Proof.Machine

/-- The operand of lane i from register d, under the type in force (R197). -/
def Cx.atomData (c : Cx) (d : Nat) : Nat → BitVec 128 := c.dataOf d (atomRegs c.type)

/-- The second operand of a compare-and-swap (R197). -/
def Cx.atomData2 (c : Cx) (d op : Nat) : Nat → DWord :=
  if op = 9 then fun i => (c.dataOf (d + atomRegs c.type) (atomRegs c.type) i).setWidth 64 else noData2

/-- A returning atomic (R197). -/
def atomOp (i : Instr) (st : State) (op : Nat) (d a : BitVec 7) (s : BitVec 6) : Out :=
  issueSplit i st fun c =>
    c.global (opcodeOf i) (lookOf i) (.rmw op c.type false true) a s
      (some { vector := true, base := d.toNat, count := atomRegs c.type }) (c.atomData d.toNat) (c.atomData2 d.toNat op)

/-- Operation 0 of R196, returning (R197). -/
def execAtomAdd (d a : BitVec 7) (s : BitVec 6) (l : BitVec 4) (st : State) : Out :=
  atomOp (.atomAdd d a s l) st 0 d a s

/-- Operation 1 of R196, returning (R197). -/
def execAtomMin (d a : BitVec 7) (s : BitVec 6) (l : BitVec 4) (st : State) : Out :=
  atomOp (.atomMin d a s l) st 1 d a s

/-- Operation 2 of R196, returning (R197). -/
def execAtomMax (d a : BitVec 7) (s : BitVec 6) (l : BitVec 4) (st : State) : Out :=
  atomOp (.atomMax d a s l) st 2 d a s

/-- Operation 3 of R196, returning (R197). -/
def execAtomMinn (d a : BitVec 7) (s : BitVec 6) (l : BitVec 4) (st : State) : Out :=
  atomOp (.atomMinn d a s l) st 3 d a s

/-- Operation 4 of R196, returning (R197). -/
def execAtomMaxn (d a : BitVec 7) (s : BitVec 6) (l : BitVec 4) (st : State) : Out :=
  atomOp (.atomMaxn d a s l) st 4 d a s

/-- Operation 5 of R196, returning (R197). -/
def execAtomAnd (d a : BitVec 7) (s : BitVec 6) (l : BitVec 4) (st : State) : Out :=
  atomOp (.atomAnd d a s l) st 5 d a s

/-- Operation 6 of R196, returning (R197). -/
def execAtomOr (d a : BitVec 7) (s : BitVec 6) (l : BitVec 4) (st : State) : Out :=
  atomOp (.atomOr d a s l) st 6 d a s

/-- Operation 7 of R196, returning (R197). -/
def execAtomXor (d a : BitVec 7) (s : BitVec 6) (l : BitVec 4) (st : State) : Out :=
  atomOp (.atomXor d a s l) st 7 d a s

/-- Operation 8 of R196, returning (R197). -/
def execAtomSwap (d a : BitVec 7) (s : BitVec 6) (l : BitVec 4) (st : State) : Out :=
  atomOp (.atomSwap d a s l) st 8 d a s

/-- Operation 9 of R196, returning (R197). -/
def execAtomCas (d a : BitVec 7) (s : BitVec 6) (l : BitVec 4) (st : State) : Out :=
  atomOp (.atomCas d a s l) st 9 d a s

/-- Operation 10 of R196, returning (R197). -/
def execAtomInc (d a : BitVec 7) (s : BitVec 6) (l : BitVec 4) (st : State) : Out :=
  atomOp (.atomInc d a s l) st 10 d a s

/-- Operation 11 of R196, returning (R197). -/
def execAtomDec (d a : BitVec 7) (s : BitVec 6) (l : BitVec 4) (st : State) : Out :=
  atomOp (.atomDec d a s l) st 11 d a s

/-- Operation 12 of R196, returning (R197). -/
def execAtomFadd (d a : BitVec 7) (s : BitVec 6) (l : BitVec 4) (st : State) : Out :=
  atomOp (.atomFadd d a s l) st 12 d a s

/-- `red` (R198): the same operation with no return. -/
def execRed (d a : BitVec 7) (s : BitVec 6) (o : BitVec 4) (st : State) : Out :=
  issueSplit (.red d a s o) st fun c =>
    c.global 0xAF 0 (.rmw o.toNat c.type false false) a s none (c.atomData d.toNat) (c.atomData2 d.toNat o.toNat)

/-! ### Scratchpad atomics (R199) -/

/-- One lane's operation on a scratchpad word: the window after, and the values returned so far. -/
def atomlLane (k op n code : Nat) (addr : Nat → Nat) (data : Nat → BitVec 128) (data2 : Nat → DWord)
    (a : State × List LaneVal) (i : Nat) : State × List LaneVal :=
  match Tab.get? a.1.skeins k with
  | none => a
  | some x =>
    let m := Mem.le x.scratch (addr i) n
    let poison := touchesPoison 8 x.scratchPoison (addr i) n
    let new := atomNew op code m ((data i).toNat % 2 ^ (8 * n)) ((data2 i).toNat % 2 ^ (8 * n))
    (writeScratch a.1 k (addr i) (leBytes n new) poison, a.2 ++ [{ lane := i, val := BitVec.ofNat 128 m, poison := poison }])

/-- A row of arrived values, and the lanes whose value is poisoned. -/
def rowOfVals (k : Nat) (vals : List LaneVal) : Row :=
  vals.foldl (fun row v => setAt row v.lane (valWord v.val k)) zeroRow

/-- Poison set on lanes of a vector register or temporary. -/
def Cx.poisonRow (c : Cx) (r : Nat) (m : Mask) : Cx :=
  if m = 0 then c
  else if r < 120 then
    { c with w := { c.w with vregPoison := Tab.put c.w.vregPoison r (Tab.getD c.w.vregPoison r 0 ||| m) } }
  else
    { c with sp := { c.sp with tempPoison := Tab.put c.sp.tempPoison (r - 120) (Tab.getD c.sp.tempPoison (r - 120) 0 ||| m) } }

/-- `atoml` (R199): m is in the destination before the next word. -/
def execAtoml (d a : BitVec 7) (o : BitVec 7) (st : State) : Out :=
  issueSplit (.atoml d a o) st fun c =>
    let row := c.row a.toNat
    let addr (i : Nat) : Nat := (row.getD i 0).toNat
    let regs := atomRegs c.type
    let n := 4 * regs
    let data := c.atomData d.toNat
    let data2 := c.atomData2 d.toNat o.toNat
    let shadow := isShadow c.s c.w
    c.localAccess n addr fun _ =>
      if shadow && !(pairsEqual c.active fun i => (addr i, data i, data2 i)) then c.trapAt 0x10
      else
        let lanes := storeLanes shadow c.active
        let r := lanes.foldl (atomlLane c.skKey o.toNat n c.type addr data data2) (c.s, [])
        let vals := shareVals shadow r.2
        let bad := maskOf ((vals.filter fun v => v.poison).map fun v => v.lane)
        let c1 : Cx := { c with s := r.1, w := c.w.addUnack lanes.length }
        let c2 := (List.range regs).foldl (fun (c : Cx) k =>
          (c.putRow (d.toNat + k) c.active (rowOfVals k vals)).poisonRow (d.toNat + k) bad) c1
        c2.done

/-! ### Per-lane near-memory operations (R304 to R307, R310) -/

/-- `xat.add` (R305): f32, whatever TYPE holds. -/
def execXatAdd (d a : BitVec 7) (s : BitVec 6) (st : State) : Out :=
  issueSplit (.xatAdd d a s) st fun c =>
    c.global 0xD0 0 (.rmw 12 6 true false) a s none (c.dataOf d.toNat 1) noData2

/-- `xat.red` (R306). -/
def execXatRed (d a : BitVec 7) (s : BitVec 6) (o : BitVec 4) (st : State) : Out :=
  issueSplit (.xatRed d a s o) st fun c =>
    c.global 0xD1 0 (.rmw o.toNat c.type true false) a s none (c.atomData d.toNat) noData2

/-- `xat.rmw` (R307): an add that returns the old element. -/
def execXatRmw (d a : BitVec 7) (s : BitVec 6) (l : BitVec 4) (st : State) : Out :=
  issueSplit (.xatRmw d a s l) st fun c =>
    let op := if typeMeets .wide c.type then 12 else 0
    c.global 0xD2 l.toNat (.rmw op c.type true true) a s
      (some { vector := true, base := d.toNat, count := atomRegs c.type }) (c.atomData d.toNat) noData2

/-- A kind and requests with a return-free near-memory operation issued before a point. -/
def MemKind.nearBy (kind : MemKind) (reqs : List LaneReq) (limit : Nat) : Bool :=
  kind.near && !kind.returns && reqs.any fun r => decide (r.order < limit)

/-- A split that goes on has faulted lanes of a return-free near-memory operation, which its trap will have `tret` reissue, or its
handler is to. -/
def Split.nearFaults (sp : Split) (limit : Nat) : Bool :=
  sp.status != .stalled &&
    (sp.faults ++ if sp.trap.handler then sp.trap.entries else []).any fun f => f.cmd.isNone && f.kind.nearBy f.reqs limit

/-- A return-free near-memory operation that a warp issued before a point is not yet performed: it is on its way, waits in the fault
buffer, or has faulted in a split of the warp other than the one at a given entry (R310).  That split's own trap comes at the trailer
after its `xwait` (19_translation R295), and one that is stalled may wait for this: neither is waited for (DEDUCED, log entry 136). -/
def nearPending (s : State) (wk e limit : Nat) : Bool :=
  (s.nearOps.any fun p => p.2.warp == wk && decide (p.2.req.order < limit)) ||
  (s.xlate.held.any fun h => match h.2.waiter with
    | .lanes w _ kind reqs _ _ _ => w == wk && kind.nearBy reqs limit
    | _ => false) ||
  (Tab.get? s.warps wk).any fun w => w.splits.any fun p => p.1 != e && p.2.nearFaults limit

/-- `xwait` (R310): stalls for the operations issued before it. -/
def execXwait (s : State) : Out :=
  issueSplit .xwait s fun c =>
    let limit := match c.sp.stall with | .near n => n | _ => c.s.fresh
    if nearPending c.s c.wk c.e limit then c.stall (.near limit) else c.done

/-- A near-memory operation is performed at its unit (R308), after the earlier ones of its warp that come before it (R189). -/
def execNearOperationPerformed (n : Nat) (s : State) : Out :=
  match Tab.get? s.nearOps n with
  | none => .next s
  | some x =>
    let before := nearBefore x.warp x.pa x.kind.bytes (s.nearOps.filter fun p => decide (p.1 < n))
    .next (performNear (performAll s before) n x)

end Sys2Proof.Machine
end

