-- ==== Sys2Proof/Machine/Copy.lean ====
section
/-! DEFINITION. Engine commands: milestones (11_memory R206 to R209), the copy engine (R202 to R205), fences and cache
operations (R201, R210), and the acknowledgement of writes (13_consistency R218). -/

namespace Sys2Proof.Machine

/-! ### Milestones (R206) -/

/-- A counter that has counted nothing. -/
def Milestone.zero : Milestone := { issued := 0, done := 0, finished := [], poison := false }

/-- A milestone counter of a workgroup. -/
def Workgroup.counter (g : Workgroup) (k : Nat) : Milestone := g.counters.getD k Milestone.zero

/-- DONE advances over the numbers complete above it. -/
def Milestone.settle (m : Milestone) : Milestone :=
  m.finished.foldl (fun m _ =>
    if m.finished.contains (m.done + 1) then
      { m with done := m.done + 1, finished := m.finished.filter fun n => n != m.done + 1 }
    else m) m

/-- A command of a number is complete (R206). -/
def Milestone.complete (m : Milestone) (n : Nat) : Milestone := Milestone.settle { m with finished := m.finished ++ [n] }

/-- A counter of a workgroup changed. -/
def updCounter (s : State) (g k : Nat) (f : Milestone → Milestone) : State :=
  { s with wgs := Tab.upd s.wgs g fun x => { x with counters := updAt x.counters k f } }

/-- A new command with the next number of its counter, added to the state. -/
def newCommand (s : State) (g wk k : Nat) (kind : CmdKind) (barrier : Option Word) (asid : Nat) : State × Nat × Nat :=
  let n := (match Tab.get? s.wgs g with | some x => (x.counter k).issued | none => 0) + 1
  let s1 := updCounter s g k fun m => { m with issued := m.issued + 1 }
  ({ s1 with
      fresh := s1.fresh + 1
      cmds := Tab.put s1.cmds s1.fresh
        { wg := g, warp := wk, counter := k, number := n, kind := kind, barrier := barrier, progress := 0, phase := .active,
          poison := false, issuer := none, node := none, asid := asid } }, s1.fresh, n)

/-- The pair that receives a command's number; field 0 writes nothing (R202). -/
def Cx.putNumber (c : Cx) (a : BitVec 6) (n : Nat) : Cx :=
  if a = 0 then c else c.putScalar64 a.toNat (BitVec.ofNat 64 n)

/-- Status bits of R158. -/
def statusFault : Nat := 1
/-- POISON. -/
def statusPoison : Nat := 2
/-- ABORT. -/
def statusAbort : Nat := 0x200

/-- A command's fault recorded in CTL_CPYFLT and CTL_CPYFLN, when none is recorded (R205). -/
def recordFault (cause : Nat) (x : Cmd) (g : Workgroup) : Workgroup :=
  if g.cpyflt.getLsbD 3 then g
  else
    { g with
      cpyflt := BitVec.ofNat 32 (cause * 2 ^ 24 + 8 + x.counter)
      cpyfln := BitVec.ofNat 32 x.number }

/-- A command's waiting accesses leave the fault buffer. -/
def dropHeldCommand (s : State) (n : Nat) : State :=
  { s with xlate := { s.xlate with held := s.xlate.held.filter fun h => h.2.waiter != .command n } }

/-- A command leaves: status, the fault record, the milestone, the arrival, in that order (R205). -/
def finishCommand (s : State) (n : Nat) (x : Cmd) (status : Nat) (fault : Option Nat) : State :=
  let k := match Tab.get? s.wgs x.wg with | some g => g.skein | none => 0
  let s := match x.barrier with | some a => orStatusAt s k a.toNat status 0 0 | none => s
  let s := match fault with
    | some cause => { s with wgs := Tab.upd s.wgs x.wg (recordFault cause x) }
    | none => s
  let s := updCounter s x.wg x.counter fun m => m.complete x.number
  let s := match x.barrier with | some a => engineArrive s k a.toNat 0 0 | none => s
  dropHeldCommand { s with cmds := Tab.del s.cmds n } n

/-- A command with nothing to do completes at once, with status 0 (R204, R211, 21_near_memory R311). -/
def endEmpty (s : State) (n : Nat) : State :=
  match Tab.get? s.cmds n with
  | some x => finishCommand s n x 0 none
  | none => s

/-! ### Elements of a command (R203, R204) -/

/-- The outcome of one element's access. -/
inductive Elem where
  /-- the bytes read, none of a write, and which of them are poisoned (25_reliability R344) -/
  | ok (s : State) (bytes : List Byte) (bad : List Bool)
  | stop (cause : Nat) (addr : DWord)
  | replay (host : Bool) (addr : DWord) (write : Bool)
  /-- a page to copy into the snapshot pool first -/
  | page (page : Nat)
  | hole
  deriving DecidableEq, Repr

/-- A global element as accesses of at most 8 bytes (R189). -/
def pieces (addr : DWord) (n : Nat) : List (DWord × Nat) :=
  if n ≤ 8 then [(addr, n)] else (List.range (n / 8)).map fun k => (addr + BitVec.ofNat 64 (8 * k), 8)

/-- Bytes read from global memory by a command.  A page walk that meets a poisoned entry stops it with cause POISON, as it
traps a warp (25_reliability R345; DESIGN CHOICE, log entry 91). -/
def readGlobal (p : Party) (wk : Nat) : State → List (DWord × Nat) → Elem
  | s, [] => .ok s [] []
  | s, (a, n) :: rest =>
    match accessLane s p wk (.load n false) { lane := 0, va := a, data := 0, data2 := 0, poison := false } with
    | .ok s v b =>
      (match readGlobal p wk s rest with
        | .ok s bs bad => .ok s (leBytes n v.toNat ++ bs) (List.replicate n b ++ bad)
        | x => x)
    | .replay h => .replay h a false
    | .fault c => .stop c a
    | .poison => .stop 0x13 a
    | .hole => .hole

/-- What stops a write to global memory before any byte is written.  A page outside the package is no place for a snapshot launch,
whether or not it is there (25_reliability R351); POISON for a page walk that meets a poisoned entry (DESIGN CHOICE, log entry 91). -/
def writeObstacle (s : State) (p : Party) : List (DWord × Nat) → Option Elem
  | [] => none
  | (a, _) :: rest =>
    match snapOf s p a, translate s p.asid a .write with
    | .outside, _ => some (.stop 0x14 a)
    | _, .replay h => some (.replay h a true)
    | _, .fault c => some (.stop c a)
    | _, .poison => some (.stop 0x13 a)
    | _, .hole => some .hole
    | .copy page, .ok _ _ _ => some (.page page)
    | .free, .ok _ _ _ => writeObstacle s p rest

/-- Bytes written to global memory by a command, each piece in turn, which lies in one granule. -/
def writePieces (p : Party) (wk : Nat) : State → List (DWord × Nat) → List Byte → List Bool → State
  | s, [], _, _ => s
  | s, (a, n) :: rest, bs, bad =>
    let r : LaneReq :=
      { lane := 0, va := a, data := BitVec.ofNat 128 (leNat (bs.take n)), data2 := 0, poison := (bad.take n).contains true }
    match accessLane s p wk (.store n) r with
    | .ok s _ _ => writePieces p wk s rest (bs.drop n) (bad.drop n)
    | .replay _ => s
    | .fault _ => s
    | .poison => s
    | .hole => s

/-- Bytes within one 64-byte granule written whole: they clear or set its poison as one write (25_reliability R344). -/
def writeWhole (p : Party) (wk : Nat) (poison : Bool) (s : State) (addr : DWord) (bs : List Byte) : State :=
  match translate s p.asid addr .write with
  | .ok l cls _ => writeLoc (beforeAccess (flushNear s wk l bs.length) p (addr.toNat % 2 ^ 57) l cls true) l bs poison
  | .replay _ => s
  | .fault _ => s
  | .poison => s
  | .hole => s

/-- Bytes written to global memory by a command, or what stops it; an element of 64 bytes is one transfer (R335). -/
def writeGlobal (s : State) (p : Party) (wk : Nat) (addr : DWord) (bs : List Byte) (bad : List Bool) : Elem :=
  let ps := pieces addr bs.length
  match writeObstacle s p ps with
  | some x => x
  | none => .ok (if bs.length = 64 then writeWhole p wk (bad.contains true) s addr bs else writePieces p wk s ps bs bad) [] []

/-- Bytes of the accumulator tiles of a workgroup now (R203). -/
def tileBytesOf (s : State) (g : Workgroup) : Nat :=
  match Tab.get? s.skeins g.skein with
  | some k => (match Tab.get? s.launches k.launch with | some l => Config.tileBytes * skeinTiles k l.kernel | none => 0)
  | none => 0

/-- One element read by a copy command (R203, R204). -/
def readElem (s : State) (p : Party) (wk g space : Nat) (addr : DWord) (n : Nat) : Elem :=
  if space = 0 then readGlobal p wk s (pieces addr n)
  else
    let a := addr.toNat % 2 ^ 32
    match Tab.get? s.wgs g with
    | none => .stop 0x07 addr
    | some x =>
      if space = 1 then
        match Tab.get? s.skeins x.skein with
        | none => .stop 0x07 addr
        | some k =>
          match Tab.get? s.launches k.launch with
          | none => .stop 0x07 addr
          | some l =>
            if skeinWindow k l.kernel < a + n then .stop 0x07 addr
            else .ok s (Mem.bytes k.scratch a n) (poisonedBytes 8 k.scratchPoison a n)
      else if tileBytesOf s x < a + n then .stop 0x07 addr
      else .ok s (Mem.bytes x.acc a n) (poisonedBytes 4 x.accPoison a n)

/-- One element written by a copy command: a destination granule is poisoned by a poisoned byte within it, and by no other
(25_reliability R344). -/
def writeElem (s : State) (p : Party) (wk g space : Nat) (addr : DWord) (bs : List Byte) (bad : List Bool) : Elem :=
  if space = 0 then writeGlobal s p wk addr bs bad
  else
    let a := addr.toNat % 2 ^ 32
    let n := bs.length
    match Tab.get? s.wgs g with
    | none => .stop 0x07 addr
    | some x =>
      if space = 1 then
        match Tab.get? s.skeins x.skein with
        | none => .stop 0x07 addr
        | some k =>
          match Tab.get? s.launches k.launch with
          | none => .stop 0x07 addr
          | some l =>
            if skeinWindow k l.kernel < a + n then .stop 0x07 addr
            else .ok (writeScratchEach s x.skein a bs bad) [] []
      else if tileBytesOf s x < a + n then .stop 0x07 addr
      else .ok { s with wgs := Tab.put s.wgs g { x with
          acc := Mem.writeBytes x.acc a bs, accPoison := poisonEach 4 x.accPoison a bad } } [] []

/-! ### The descriptor (R203) -/

/-- Dimensions of a descriptor. -/
def descDims (d : List Byte) : Nat := descField d 120 1 % 8 + 1

/-- Element size of a descriptor. -/
def descSize (d : List Byte) : Nat := 2 ^ (descField d 120 1 / 16 % 8)

/-- Extent of dimension j. -/
def descExt (d : List Byte) (j : Nat) : Nat := descField d (16 + 2 * j) 2

/-- Source stride of dimension j. -/
def descSstr (d : List Byte) (j : Nat) : Int := intOf 32 true (descField d (32 + 4 * j) 4)

/-- Destination stride of dimension j. -/
def descDstr (d : List Byte) (j : Nat) : Int := intOf 32 true (descField d (64 + 4 * j) 4)

/-- Source space. -/
def descSspace (d : List Byte) : Nat := descField d 121 1 % 16

/-- Destination space. -/
def descDspace (d : List Byte) : Nat := descField d 121 1 / 16

/-- A copy descriptor passes its checks (R203); a zeroing command ignores source and source space, not the strides (R202). -/
def descOk (d : List Byte) (zero : Bool) : Bool :=
  let ctl := descField d 120 8
  let a := min (descSize d) 8
  let dims := List.range (descDims d)
  ctl / 2 ^ 16 == 0 && !ctl.testBit 7 && !ctl.testBit 3 && decide (ctl / 16 % 8 ≤ 4) && decide (descDspace d ≤ 2) &&
  (zero || decide (descSspace d ≤ 2)) &&
  (dims.all fun j => decide (descField d (96 + j) 1 + descField d (104 + j) 1 ≤ descExt d j)) &&
  descField d 8 8 % a == 0 && (zero || descField d 0 8 % a == 0) &&
  (dims.all fun j => decide (descExt d j ≤ 1) || (descDstr d j % a == 0 && descSstr d j % a == 0))

/-- Elements of a command: the product of its extents (R204). -/
def descTotal (d : List Byte) : Nat := (List.range (descDims d)).foldl (fun n j => n * descExt d j) 1

/-- The index of linear element e, dimension 0 fastest. -/
def descIndex (d : List Byte) (e : Nat) : List Nat :=
  ((List.range (descDims d)).foldl (fun (r : Nat × List Nat) j =>
    let x := max 1 (descExt d j)
    (r.1 / x, r.2 ++ [r.1 % x])) (e, [])).2

/-- An address of an index: base plus strides. -/
def strided (base : Nat) (stride : Nat → Int) (ix : List Nat) : DWord :=
  BitVec.ofInt 64 ((ix.mapIdx fun j i => stride j * (i : Int)).foldl (fun x y => x + y) (base : Int))

/-- The destination address of element e. -/
def descDst (d : List Byte) (e : Nat) : DWord := strided (descField d 8 8) (descDstr d) (descIndex d e)

/-- An index within the bounds that are read. -/
def inBounds (d : List Byte) (ix : List Nat) : Bool :=
  (ix.mapIdx fun j i => decide (descField d (96 + j) 1 ≤ i) && decide (i + descField d (104 + j) 1 < descExt d j)).all fun b => b

/-- The pad pattern of an element. -/
def padBytes (d : List Byte) : List Byte :=
  let p := (d.drop 112).take 8
  if descSize d = 16 then p ++ p else p.take (descSize d)

/-! ### Performing a copy command (R204, R205) -/

/-- How far a command came, and what stopped it. -/
structure CmdRun where
  s : State
  progress : Nat
  poison : Bool
  stop : Option Elem
  deriving DecidableEq, Repr

/-- An element read at an address.  Where the command's own writes overlap its source, either value allowed by R204 (log
entry 18). -/
def sourceAt (s0 s : State) (p : Party) (n : Nat) (x : Cmd) (space : Nat) (addr : DWord) (bytes e : Nat) : Elem :=
  match readElem s p x.warp x.wg space addr bytes, readElem s0 p x.warp x.wg space addr bytes with
  | .ok s1 now b, .ok _ old b0 =>
    if now = old ∧ b = b0 then .ok s1 now b
    else if Config.overlapChoice n e then .ok s1 old b0 else .ok s1 now b
  | r, _ => r

/-- The value element e of a command copies: zero, the pad pattern, or the source (R204, 23_pod_network R335). -/
def copySource (s0 s : State) (p : Party) (n : Nat) (x : Cmd) (e : Nat) : Elem :=
  match x.kind with
  | .copy d zero =>
    let ix := descIndex d e
    if zero then .ok s (List.replicate (descSize d) 0) (List.replicate (descSize d) false)
    else if inBounds d ix then sourceAt s0 s p n x (descSspace d) (strided (descField d 0 8) (descSstr d) ix) (descSize d) e
    else .ok s (padBytes d) (List.replicate (descSize d) false)
  | .relay _ src _ => sourceAt s0 s p n x 0 (src + BitVec.ofNat 64 (64 * e)) 64 e
  | _ => .ok s [] []

/-- The space and address that element e of a command is written to. -/
def copyDest (x : Cmd) (e : Nat) : Nat × DWord :=
  match x.kind with
  | .copy d _ => (descDspace d, descDst d e)
  | .relay dst _ _ => (0, dst + BitVec.ofNat 64 (64 * e))
  | _ => (0, 0)

/-- Elements of a copying command; none for any other kind. -/
def copyTotal (k : CmdKind) : Option Nat :=
  match k with
  | .copy d _ => some (descTotal d)
  | .relay _ _ len => some (len / 64)
  | _ => none

/-- The elements from e on, in linear order. -/
def copyFrom (s0 : State) (p : Party) (n : Nat) (x : Cmd) : Nat → Nat → State → Bool → CmdRun
  | 0, e, s, b => { s := s, progress := e, poison := b, stop := none }
  | left + 1, e, s, b =>
    match copySource s0 s p n x e with
    | .ok s1 bs bad =>
      (match writeElem s1 p x.warp x.wg (copyDest x e).1 (copyDest x e).2 bs bad with
        | .ok s2 _ _ => copyFrom s0 p n x left (e + 1) s2 (b || bad.contains true)
        | r => { s := s1, progress := e, poison := b, stop := some r })
    | r => { s := s, progress := e, poison := b, stop := some r }

/-- The party a command acts for: its workgroup, under the ASID it was issued with; a graph's copy node has none, and waits in die 0's
fault buffer (DESIGN CHOICE, log entry 130). -/
def cmdParty (s : State) (x : Cmd) : Party :=
  match Tab.get? s.wgs x.wg with
  | some g => { enginePartyOf s g with asid := x.asid }
  | none => { asid := x.asid, skein := none, launch := none, die := 0 }

/-- The launch of a command, for graph nodes none. -/
def cmdLaunch (s : State) (x : Cmd) : Option Launch :=
  ((Tab.get? s.wgs x.wg).bind fun g => Tab.get? s.skeins g.skein).bind fun k => Tab.get? s.launches k.launch

/-- A command waits in the fault buffer. -/
def cmdHeld (s : State) (n : Nat) : Bool := s.xlate.held.any fun h => h.2.waiter == .command n

/-- A command's skein is saved or about to be: its commands stand at an element boundary (R205, R281). -/
def cmdPaused (s : State) (x : Cmd) : Bool :=
  match (Tab.get? s.wgs x.wg).bind fun g => Tab.get? s.skeins g.skein with
  | some k => !k.resident || k.phase == .preempting
  | none => false

/-- The record of a command changed. -/
def updCmd (s : State) (n : Nat) (f : Cmd → Cmd) : State := { s with cmds := Tab.upd s.cmds n f }

/-- A command held at an address in the fault buffer (R205, R294). -/
def holdCommand (s : State) (p : Party) (n : Nat) (h : Bool) (addr : DWord) (write : Bool) : State :=
  if noRoom s p h addr then s else holdOne s p h addr write (.command n)

/-- The launch of a command is cancelled or stopping (R283). -/
def cmdCancelled (s : State) (x : Cmd) : Bool :=
  match cmdLaunch s x with | some l => l.cancelled || l.phase == .stopping | none => false

/-- What a stopped command leaves in its status word: ABORT, but nothing in a rollback (R283, 25_reliability R352). -/
def stopBits (s : State) (x : Cmd) : Nat :=
  match cmdLaunch s x with | some l => if l.rollbackWanted then 0 else statusAbort | none => statusAbort

/-- A copy command finishes, stops or faults (R205, R283). -/
def execCopyCommandComplete (n : Nat) (s : State) : Out :=
  match Tab.get? s.cmds n with
  | none => .next s
  | some x =>
    match copyTotal x.kind with
    | none => .next s
    | some total =>
      if cmdCancelled s x then .next (finishCommand s n x (stopBits s x) none)
      else if cmdHeld s n || cmdPaused s x then .next s
      else
        let p := cmdParty s x
        let r := copyFrom s p n x (total - x.progress) x.progress s x.poison
        let s1 := updCmd r.s n fun y => { y with progress := r.progress, poison := r.poison }
        let bits := if r.poison then statusPoison else 0
        match r.stop with
        | none => .next (finishCommand s1 n x bits none)
        | some (.stop cause _) => .next (finishCommand s1 n x (statusFault + bits) (some cause))
        | some (.replay h a w) => .next (holdCommand s1 p n h a w)
        | some (.page page) => .next (wantPage s1 p.launch page)
        | some .hole => .fault .physicalHole
        | some (.ok _ _ _) => .next s1

/-- The checks and the issue of a copy command by a warp (R202); one with an extent of 0 completes at once (R204, R211). -/
def copyIssue (i : Instr) (st : State) (zero : Bool) (k : BitVec 3) (a b e : BitVec 6) : Out :=
  issueSplit i st fun c => c.releasing 0 fun c =>
    let da := (c.sp.scalar b.toNat).toNat
    let ba := (c.sp.scalar e.toNat).toNat
    if da % 128 ≠ 0 ∨ (e ≠ 0 ∧ ba % 16 ≠ 0) then c.trapAt 0x08
    else if windowBytes c.s c.w < da + 128 ∨ (e ≠ 0 ∧ windowBytes c.s c.w < ba + 16) then c.trapAt 0x07
    else match skOf c.s c.w with
      | none => c.trapAt 0x07
      | some sk =>
        let d := Mem.bytes sk.scratch da 128
        if !descOk d zero then c.trapAt 0x04
        else if isSnapshot c.s c.w && descDspace d == 0 && decide (0 < descTotal d) &&
            snapOf c.s (partyOf c.s c.w) (descDst d 0) == .outside then c.trapAt 0x14
        else
          let r := newCommand c.s c.w.wg c.wk k.toNat (.copy d zero) (if e = 0 then none else some (c.sp.scalar e.toNat))
            (asidOf c.s c.w)
          let s1 := if descTotal d = 0 then endEmpty r.1 r.2.1 else r.1
          c.scalarDone ({ c with s := s1 }.putNumber a r.2.2)

/-- `cpy` (R202). -/
def execCpy (k : BitVec 3) (a b e : BitVec 6) (s : State) : Out := copyIssue (.cpy k a b e) s false k a b e

/-- `cpyz` (R202). -/
def execCpyz (k : BitVec 3) (a b e : BitVec 6) (s : State) : Out := copyIssue (.cpyz k a b e) s true k a b e

/-! ### `mrd`, `mwait`, `mstep` (R207 to R209) -/

/-- The milestone counter a warp names. -/
def Cx.counter (c : Cx) (k : BitVec 3) : Milestone :=
  match wgOf c.s c.w with | some g => g.counter k.toNat | none => Milestone.zero

/-- `mrd` (R207): DONE, or ISSUED. -/
def execMrd (iss : BitVec 1) (k : BitVec 3) (a : BitVec 6) (s : State) : Out :=
  issueSplit (.mrd iss k a) s fun c =>
    let m := c.counter k
    if m.poison then c.trapAt 0x13
    else c.scalarDone (c.putScalar64 a.toNat (BitVec.ofNat 64 (if iss = 1 then m.issued else m.done)))

/-- `mwait` (R208). -/
def execMwait (o k : BitVec 3) (a : BitVec 6) (s : State) : Out :=
  issueSplit (.mwait o k a) s fun c =>
    let m := c.counter k
    if m.poison then c.trapAt 0x13
    else if (c.sp.scalar64 a.toNat).toNat ≤ m.done then c.done else c.stall .other

/-- `mstep` (R209). -/
def execMstep (o k : BitVec 3) (a : BitVec 6) (s : State) : Out :=
  issueSplit (.mstep o k a) s fun c =>
    let r := newCommand c.s c.w.wg c.wk k.toNat (.marker (c.w.unack.getD o.toNat 0) o.toNat (c.counter k).issued) none
      (asidOf c.s c.w)
    c.scalarDone ({ c with s := r.1 }.putNumber a r.2.2)

/-- A marker completes once every earlier command of its counter is complete and the counted writes are acknowledged
(R209). -/
def execMstepComplete (n : Nat) (s : State) : Out :=
  match Tab.get? s.cmds n with
  | none => .next s
  | some x =>
    match x.kind, (Tab.get? s.wgs x.wg).map fun g => g.counter x.counter with
    | .marker need _ earlier, some m =>
      if need = 0 ∧ earlier ≤ m.done then .next (finishCommand s n x 0 none) else .next s
    | _, _ => .next s

/-! ### Acknowledgement (13_consistency R218) -/

/-- Accesses of a warp that wait in the fault buffer count as unacknowledged writes (R190). -/
def heldCount (s : State) (wk : Nat) : Nat :=
  s.xlate.held.foldl (fun n h => match h.2.waiter with
    | .lanes w _ _ reqs _ _ _ => if w = wk then n + reqs.length else n
    | _ => n) 0

/-- Counts after one write is acknowledged at a scope, and so at every narrower one. -/
def ackCounts (u : List Nat) (scope : Nat) : List Nat :=
  let n := u.getD scope 0 - 1
  u.mapIdx fun j v => if j = scope then n else if j < scope then min v n else v

/-- The accesses of a warp in the fault buffer that were issued before the command of a number. -/
def heldBefore (s : State) (wk n : Nat) : Nat :=
  s.xlate.held.foldl (fun k h => match h.2.waiter with
    | .lanes w _ _ reqs _ _ _ => if w = wk then k + (reqs.filter fun r => decide (r.order ≤ n)).length else k
    | _ => k) 0

/-- The writes that the markers of a warp wait for, changed for each marker by its number. -/
def mapMarkers (s : State) (wk : Nat) (f : Nat → Nat → Nat → Nat) : State :=
  { s with cmds := s.cmds.map fun p =>
      if p.2.warp = wk then
        match p.2.kind with
        | .marker need scope earlier => (p.1, { p.2 with kind := .marker (f p.1 scope need) scope earlier })
        | _ => p
      else p }

/-- Markers of a warp see the acknowledgements of the writes they count, the earliest writes first; an earlier access that still
waits in the fault buffer has none yet (R209). -/
def ackMarkers (s : State) (wk : Nat) (old new : List Nat) : State :=
  mapMarkers s wk fun n scope need => max (need - (old.getD scope 0 - new.getD scope 0)) (heldBefore s wk n)

/-- Invalidations see the acknowledgements at dev scope of the writes they wait for, the earliest writes first
(19_translation R290; DEDUCED, log entry 93). -/
def ackInvalidations (s : State) (party n : Nat) : State :=
  { s with xlate := { s.xlate with invalidations := s.xlate.invalidations.map fun i =>
      { i with writes := i.writes.map fun x => if x.1 = party then (x.1, x.2 - n) else x } } }

/-- A write becomes acknowledged at a scope (R218); the accesses that wait in the fault buffer do not.  The writes of an
engine program are counted under its own number (R226). -/
def execWriteAcknowledged (wk : Nat) (scope : Nat) (s : State) : Out :=
  if 2 ^ 65 ≤ wk then
    match (Tab.get? s.wgs (wk - 2 ^ 65)).bind fun g => g.engine with
    | none => .next s
    | some e =>
      let u := ackCounts e.unack scope
      let s := ackInvalidations s wk (e.unack.getD 2 0 - u.getD 2 0)
      .next { s with wgs := Tab.upd s.wgs (wk - 2 ^ 65) fun g => { g with engine := some { e with unack := u } } }
  else match Tab.get? s.warps wk with
    | none => .next s
    | some w =>
      if w.unack.getD scope 0 ≤ heldCount s wk then .next s
      else
        let u := ackCounts w.unack scope
        let s := ackInvalidations s wk (w.unack.getD 2 0 - u.getD 2 0)
        .next (ackMarkers { s with warps := Tab.put s.warps wk { w with unack := u } } wk w.unack u)

/-! ### Fences and cache operations (R201, R210) -/

/-- `fence` (R210).  Memory is performed in order, so the acquire side waits only for the split's accesses that are held in
the fault buffer: an earlier read among them may observe the release (13_consistency R215; DESIGN CHOICE, log entry 4). -/
def execFence (o : BitVec 2) (sc : BitVec 3) (s : State) : Out :=
  issueSplit (.fence o sc) s fun c =>
    if o ≠ 1 ∧ c.heldLanes = true then c.stall .other
    else if o = 0 then c.done
    else c.releasing sc.toNat fun c => c.done

/-- `pref` (R201): changes no value. -/
def execPref (v : BitVec 1) (a b : BitVec 6) (s : State) : Out := issueSplit (.pref v a b) s fun c => c.done

/-- `cinv` (R201): no cache holds a value of its own, so the write-back and invalidation are done at once (DESIGN CHOICE, log entry 4). -/
def execCinv (v : BitVec 1) (a b : BitVec 6) (s : State) : Out := issueSplit (.cinv v a b) s fun c => c.done

/-- `cwb` (R201): the write-backs of its range count as one unacknowledged write at sys scope (13_consistency R218); no value
changes by them (DESIGN CHOICE, log entry 4). -/
def execCwb (v : BitVec 1) (a b : BitVec 6) (s : State) : Out :=
  issueSplit (.cwb v a b) s fun c =>
    if c.sp.scalar b.toNat = 0 then c.done
    else Cx.done { c with w := { c.w with unack := updAt c.w.unack 4 fun n => n + 1 } }

end Sys2Proof.Machine
end

