-- ==== Sys2Proof/Machine/System.lean ====
section
/-! DEFINITION. Control registers, time, identity and trace, opcodes 0xF8 to 0xFB (09_control R176 to R181), `sbnd`
(15_matrix R263), the expiry of a sleep (R179) and `exit` (R175). -/

namespace Sys2Proof.Machine

/-! ### Control registers (R176, R177) -/

/-- The entry CTL_TSEL selects; none beyond NENT (R297). -/
def Split.entry (sp : Split) : Option FaultEntry := (sp.trap.entries.drop (sp.tsel.toNat % 32)).head?

/-- Bits [56:32] of an address, in [24:0] (R297). -/
def pcHi (p : Pc) : Word := (p >>> 32).setWidth 32

/-- Bits [31:0] of an address. -/
def pcLo (p : Pc) : Word := p.setWidth 32

/-- CTL_TCAUSE (R297): NENT and EXEC in the five bits they have (DEDUCED, log entry 114). -/
def tcauseWord (t : Trap) : Word :=
  BitVec.ofNat 32 (t.cause * 2 ^ 24 + t.code * 2 ^ 18 + (if t.fetch then 2 ^ 17 else 0) +
    (if t.handler then 2 ^ 16 else 0) + t.nent % 32 * 2 ^ 8 + t.exec % 32)

/-- CTL_TEINFO of an entry (R297): OFFSET in the five bits it has (DEDUCED, log entry 114), and counted from TPC for the entry of a
command's first translation too (21_near_memory R321; DEDUCED, log entry 143). -/
def teinfoWord (t : Trap) (f : FaultEntry) : Word :=
  BitVec.ofNat 32 (f.cause * 2 ^ 24 + wordsBetween t.tpc f.pc % 32 * 2 ^ 8 + f.opcode)

/-- A trap-state register of a split (R297). -/
def Split.trapReg (sp : Split) (n : Nat) : Option Word :=
  let t := sp.trap
  let ent (f : FaultEntry → Word) : Option Word := some (match sp.entry with | some x => f x | none => 0)
  match n with
  | 0x040 => some (tcauseWord t)
  | 0x041 => some (pcLo t.tpc)
  | 0x042 => some (pcHi t.tpc)
  | 0x043 => some (pcLo t.trpc)
  | 0x044 => some (pcHi t.trpc)
  | 0x045 => some sp.tsel
  | 0x046 => ent (teinfoWord t)
  | 0x047 => ent fun f => f.addr.setWidth 32
  | 0x048 => ent fun f => ((f.addr >>> 32).setWidth 32) &&& 0x1FFFFFF
  | 0x049 => ent fun f => maskWord f.active 0
  | 0x04A => ent fun f => maskWord f.active 1
  | 0x04B => ent fun f => maskWord f.active 2
  | 0x04C => ent fun f => maskWord f.done 0
  | 0x04D => ent fun f => maskWord f.done 1
  | 0x04E => ent fun f => maskWord f.done 2
  | _ => none

/-- CTL_EST with its RUNNING bit (R262). -/
def Workgroup.estWord (g : Workgroup) : Word :=
  g.est ||| (match g.engine with | some e => if e.running then 1 else 0 | none => 0)

/-- A register of workgroup scope (R177). -/
def Workgroup.reg (g : Workgroup) (n : Nat) : Option Word :=
  if n = 0x020 then some g.cpyflt
  else if n = 0x021 then some g.cpyfln
  else if n = 0x022 then some g.estWord
  else if n = 0x050 then some (pcLo g.tvec)
  else if n = 0x051 then some (pcHi g.tvec)
  else if 0x030 ≤ n ∧ n ≤ 0x03F then
    some (match g.selvedge.drop (n - 0x030) with | x :: _ => x.count | [] => 0)
  else none

/-- A register of launch scope (R177). -/
def Launch.reg (l : Launch) (n : Nat) : Option Word :=
  match n with
  | 0x010 => some l.record.seed
  | 0x011 => some (loWord l.record.dbase)
  | 0x012 => some (hiWord l.record.dbase &&& 0x1FFFFFF)
  | 0x013 => some (loWord l.record.arg)
  | 0x014 => some (hiWord l.record.arg &&& 0x1FFFFFF)
  | 0x015 => some l.reclass
  | 0x016 => some l.nmfb
  | _ => none

/-- The value of a control register; none for a number not in R177. -/
def Cx.readCtl (c : Cx) (n : Nat) : Option Word :=
  if n = 0x000 then some c.sp.mode
  else if n = 0x001 then some c.sp.fpst
  else if c.w.far.isSome then some 0
  else if n = 0x002 then some c.w.jlost
  else if n = 0x003 then some (BitVec.ofNat 32 c.w.callSeq)
  else match c.sp.trapReg n with
    | some v => some v
    | none => match (wgOf c.s c.w).bind fun g => g.reg n with
      | some v => some v
      | none => (lnOf c.s c.w).bind fun l => l.reg n

/-- A selvedge count that a control register names is poisoned. -/
def Cx.ctlPoisoned (c : Cx) (n : Nat) : Bool :=
  decide (0x030 ≤ n ∧ n ≤ 0x03F) && (match wgOf c.s c.w with
    | some g => (match g.selvedge.drop (n - 0x030) with | x :: _ => x.poison | [] => false)
    | none => false)

/-- `srd` (R176). -/
def execSrd (a : BitVec 6) (n : BitVec 12) (s : State) : Out :=
  issueSplit (.srd a n) s fun c =>
    match c.readCtl n.toNat with
    | none => c.trapAt 0x04
    | some v => if c.ctlPoisoned n.toNat then c.trapAt 0x13 else c.scalarDone (c.putScalar a.toNat v)

/-- The warp's workgroup changed. -/
def Cx.updWg (c : Cx) (f : Workgroup → Workgroup) : Cx := { c with s := { c.s with wgs := Tab.upd c.s.wgs c.w.wg f } }

/-- An address with its low word written. -/
def setLo (p : Pc) (v : Word) : Pc := (p &&& ~~~(0xFFFFFFFF#57)) ||| v.setWidth 57

/-- An address with bits [56:32] written. -/
def setHi (p : Pc) (v : Word) : Pc := (p &&& 0xFFFFFFFF#57) ||| ((v.setWidth 57) <<< 32)

/-- The split after a write of a control register that is neither of those with a step of their own; none where the
register has no writable field (R176). -/
def Cx.writeCtl (c : Cx) (n : Nat) (v : Word) : Option Cx :=
  let t := c.sp.trap
  if n = 0x001 then some { c with sp := { c.sp with fpst := v &&& 7 } }
  else if n = 0x002 then some { c with w := { c.w with jlost := v } }
  else if n = 0x021 then some (c.updWg fun g => { g with cpyfln := v })
  else if n = 0x043 then some { c with sp := { c.sp with trap := { t with trpc := setLo t.trpc v } } }
  else if n = 0x044 then some { c with sp := { c.sp with trap := { t with trpc := setHi t.trpc v } } }
  else if n = 0x045 then some { c with sp := { c.sp with tsel := v &&& 31 } }
  else if n = 0x050 then some (c.updWg fun g => { g with tvec := setLo g.tvec (v &&& ~~~3) })
  else if n = 0x051 then some (c.updWg fun g => { g with tvec := setHi g.tvec v })
  else if 0x030 ≤ n ∧ n ≤ 0x03F then
    some (c.updWg fun g => { g with
      selvedge := updAt g.selvedge (n - 0x030) fun x => { x with count := v, poison := false } })
  else none

/-- `swr` (R176). -/
def execSwr (a : BitVec 6) (n : BitVec 12) (s : State) : Out :=
  issueSplit (.swr a n) s fun c =>
    let v := c.sp.scalar a.toNat
    if c.w.far.isSome ∧ n ≠ 0x001 then c.trapAt 0x03
    else match c.writeCtl n.toNat v with
      | some d => d.done
      | none => c.trapAt 0x04

/-- `swr` to CTL_MODE (R89): RND 7 traps ILLEGAL_ENCODING, after the causes of R97 (DEDUCED, log entry 121). -/
def execCtlModeWrite (a : BitVec 6) (s : State) : Out :=
  issueSplit (.ctlModeWrite a) s fun c =>
    let v := c.sp.scalar a.toNat
    if modeRnd v = 7 then c.trapAt 0x02 else Cx.done { c with sp := { c.sp with mode := v &&& 0x3FFF } }

/-- `swr` to CTL_CPYFLT (R205): writing 0 to VALID clears the record. -/
def execCtlCpyfltWrite (a : BitVec 6) (s : State) : Out :=
  issueSplit (.ctlCpyfltWrite a) s fun c =>
    let v := c.sp.scalar a.toNat
    if c.w.far.isSome then c.trapAt 0x03
    else if v.getLsbD 3 then (c.updWg fun g => { g with cpyflt := (v &&& 0xFF000007) ||| (g.cpyflt &&& 8) }).done
    else (c.updWg fun g => { g with cpyflt := 0, cpyfln := 0 }).done

/-- `swr` to CTL_EST (R262): writing 0 to STOPPED clears CAUSE, OFFSET and STOPPED. -/
def execCtlEstWrite (a : BitVec 6) (s : State) : Out :=
  issueSplit (.ctlEstWrite a) s fun c =>
    if c.w.far.isSome then c.trapAt 0x03
    else if (c.sp.scalar a.toNat).getLsbD 1 then c.done
    else (c.updWg fun g => { g with est := 0 }).done

/-- The stopped commands among some entries complete, their undone part never written (21_near_memory R311, R321). -/
def completeStopped (s : State) (entries : List FaultEntry) : State :=
  entries.foldl (fun s f => match f.cmd with | some n => endEmpty s n | none => s) s

/-- `exit` (R175, R19): the active lanes leave the split and count as exited; the joins are tested.  In a handler the trap
state of those lanes is discarded, and a stopped command of it, once no lane is left, completes with its undone part never written, as
NENT 0 has it (R297, 21_near_memory R321; DEDUCED, log entry 35). -/
def execExit (s : State) : Out :=
  issueSplit .exit s fun c =>
    c.releasing 0 fun c =>
      let gone := c.sp.act
      let left := c.sp.lanes &&& ~~~gone
      let t := c.sp.trap
      let trap := if t.handler then
          { t with
            entries := t.entries.filterMap fun f =>
              if f.cmd.isSome then (if left = 0 then none else some f) else f.restrict left
            savedPend := t.savedPend.map fun p => p.restrict left }
        else t
      let trap := { trap with nent := trap.entries.length }
      let sp := { c.sp with lanes := left, act := 0, after := .ended, trap := if t.handler then trap else t }
      let s := if t.handler ∧ left = 0 then completeStopped c.s t.entries else c.s
      let c := { c with s := s, sp := sp, w := { c.w with exited := c.w.exited ||| gone } }
      (c.joined c.w).done

/-- The entries to reissue are discarded (R297, R300): a stopped command completes with its undone part never written,
and the results of the entries whose window has closed leave the saved record. -/
def Cx.discardEntries (c : Cx) : Cx :=
  let t := c.sp.trap
  let gone (p : Pend) : Bool := p.done && t.entries.any fun f => f.pend == some p.id
  { c with
    s := completeStopped c.s t.entries
    sp := { c.sp with trap := { t with entries := [], nent := 0, savedPend := t.savedPend.filter fun p => !gone p } } }

/-- `swr` to CTL_TCAUSE (R297): writing 0 to NENT discards the entries to reissue.  Outside a handler there are none left to
reissue, and NENT merely reads as written (R176). -/
def execCtlTcauseWrite (a : BitVec 6) (s : State) : Out :=
  issueSplit (.ctlTcauseWrite a) s fun c =>
    if c.w.far.isSome then c.trapAt 0x03
    else if (c.sp.scalar a.toNat).extractLsb' 8 5 ≠ 0 then c.done
    else if c.sp.trap.handler then c.discardEntries.done
    else Cx.done { c with sp := { c.sp with trap := { c.sp.trap with entries := [], nent := 0 } } }

/-- `sbnd` (R263): bounds and action written, COUNT zeroed. -/
def execSbnd (t : BitVec 2) (n : BitVec 4) (a b : BitVec 6) (s : State) : Out :=
  issueSplit (.sbnd t n a b) s fun c =>
    let x : Selvedge :=
      { count := 0, act := t.toNat, hi := c.sp.scalar b.toNat, lo := c.sp.scalar a.toNat, poison := false }
    (c.updWg fun g => { g with selvedge := setAt g.selvedge n.toNat x }).done

/-! ### Time (R178, R179) -/

/-- `clk` (R178). -/
def execClk (a : BitVec 6) (core : BitVec 1) (s : State) : Out :=
  issueSplit (.clk a core) s fun c =>
    let v := if core = 1 then c.s.ticks - Tab.getD c.s.plat.coreStart c.w.core 0 else c.s.timer
    c.scalarDone (c.putScalar64 a.toNat (BitVec.ofNat 64 v))

/-- `sleep` (R179). -/
def execSleep (a : BitVec 6) (s : State) : Out :=
  issueSplit (.sleep a) s fun c =>
    let d := (c.sp.scalar a.toNat).toNat
    match c.sp.stall with
    | .sleep _ true => c.done
    | .sleep t false => c.stall (.sleep t false)
    | _ => if d = 0 then c.done else c.stall (.sleep (c.s.timer + d) false)

/-- The package timer passes a sleeping split's duration, and the split becomes ready (R179). -/
def execSleepExpiry (wk e : Nat) (s : State) : Out :=
  match cxOf s wk e with
  | none => .next s
  | some c => match c.sp.stall with
    | .sleep t false =>
      if t ≤ s.timer then
        .next (Cx.commit { c with sp := { c.sp with stall := .sleep t true, status := .ready, readyAt := s.ticks } })
      else .next s
    | _ => .next s

/-! ### Identity (R180) -/

/-- The coordinate a selector names in a warp (R180). -/
def idOfWarp (s : State) (w : Warp) (g : Workgroup) (k : Skein) (l : Launch) (sel : Nat) : Nat :=
  match sel with
  | 0 => k.x
  | 1 => k.y
  | 2 => k.z
  | 3 => g.index
  | 4 => g.stage
  | 5 => w.index
  | 6 => g.lanes
  | 7 => l.record.gx
  | 8 => l.record.gy
  | 9 => l.record.gz
  | 10 => l.kernel.wgs
  | 11 => l.kernel.stages
  | 12 => l.kernel.stcount.getD g.stage 0
  | 13 => g.index - (l.kernel.stcount.take g.stage).foldl (fun a b => a + b) 0
  | 14 => (if isShadow s w then 48 else 96) * w.index
  | _ => 0

/-- A selector of placement, binding or package (R180). -/
def idOfPlace (s : State) (w : Warp) (sel : Nat) : Nat :=
  match sel with
  | 15 => if w.far.isSome then 1 else 0
  | 16 => w.core
  | 17 => w.quarter
  | 18 => w.core / 80
  | 19 => w.core % 80 / 4
  | 20 => asidOf s w
  | 21 => s.net.epid
  | 22 => s.net.podpos
  | _ => s.net.podq

/-- The value `id` writes (R180). -/
def idValue (s : State) (w : Warp) (sel : Nat) : Nat :=
  if 15 ≤ sel then idOfPlace s w sel
  else if w.far.isSome then (if sel ≤ 2 then 0xFFFFFFFF else if sel = 6 then 8 else 0)
  else match wgOf s w, skOf s w, lnOf s w with
    | some g, some k, some l => idOfWarp s w g k l sel
    | _, _, _ => 0

/-- `id` (R180). -/
def execId (sel : BitVec 5) (a : BitVec 6) (s : State) : Out :=
  issueSplit (.id sel a) s fun c => c.scalarDone (c.putScalar a.toNat (BitVec.ofNat 32 (idValue c.s c.w sel.toNat)))

/-! ### Trace (R181) -/

/-- The queue of a launch: the slot's, or the graph's. -/
def queueOf (s : State) (l : Nat) : Option Nat :=
  match Tab.get? s.launches l with
  | none => none
  | some x => match x.origin with
    | .slot q _ => some q
    | .node g _ => (Tab.get? s.graphs g).map fun y => y.queue

/-- A 48-byte trace record (R181). -/
def traceRecord (c : Cx) (x y z : Word) : List Byte :=
  let caller := match c.w.far with | some f => f.caller | none => c.wk
  leBytes 8 c.s.timer ++ leBytes 8 (pc64 c.here).toNat ++ leBytes 8 caller ++ leBytes 4 (c.e % 256) ++
  leBytes 4 x.toNat ++ leBytes 4 y.toNat ++ leBytes 4 z.toNat ++ leBytes 8 0

/-- A record appended to a queue's trace buffer, or counted as dropped (R181). -/
def Queue.append (q : Queue) (r : List Byte) : Queue :=
  if !q.tracing then q
  else if q.traceRoom ≤ q.trace.length then { q with traceLost := q.traceLost + 1 }
  else { q with trace := q.trace ++ [r] }

/-- `dbg` (R181). -/
def execDbg (a b d : BitVec 6) (s : State) : Out :=
  issueSplit (.dbg a b d) s fun c =>
    let r := traceRecord c (c.sp.scalar a.toNat) (c.sp.scalar b.toNat) (c.sp.scalar d.toNat)
    match (lnKey c.s c.w).bind (queueOf c.s) with
    | some q => Cx.done { c with s := { c.s with queues := Tab.upd c.s.queues q fun x => x.append r } }
    | none => c.done

end Sys2Proof.Machine
end

