-- ==== Sys2Proof/Machine/Far.lean ====
section
/-! DEFINITION. Far calls, far tasks and their replies (09_control R165 to R171). -/

namespace Sys2Proof.Machine

/-! ### The caller (R165, R169) -/

/-- The lowest free call slot of a warp (R165). -/
def freeCall (calls : Tab CallSlot) : Option Nat := ((List.range 8).filter fun k => (Tab.get? calls k).isNone).head?

/-- A call shipped (R165); `seq` is its sequence and `w` the warp with its sequence counter already advanced. -/
def Cx.ship (c : Cx) (d b e : BitVec 6) (n : Nat) (slot seq : Nat) (w : Warp) : Out :=
  let entry := c.sp.scalar64 b.toNat
  let msg : CallMsg :=
    { caller := c.wk, seq := seq, slot := slot, entry := entry, addr := c.sp.scalar64 e.toNat,
      payload := (List.range n).map fun k => c.sp.scalar (16 + k), asid := asidOf c.s c.w,
      launch := (lnKey c.s c.w).getD 0 }
  let s := { c.s with fresh := c.s.fresh + 1, callMsgs := Tab.put c.s.callMsgs c.s.fresh msg }
  let call : CallSlot :=
    { seq := seq, deadline := c.s.timer + Config.callTimeoutNs, timedOut := false, reply := none, core := none }
  let c1 : Cx := { c with s := s, w := { w with calls := Tab.put w.calls slot call } }
  c.scalarDone (c1.putScalar d.toNat (BitVec.ofNat 32 (slot * 2 ^ 16 + seq)))

/-- `rcall` (R165): an unaligned entry traps ALIGN (R74); the instruction stalls while eight calls are outstanding and
until its release at dev scope. -/
def execRcall (n : BitVec 5) (d b e : BitVec 6) (s : State) : Out :=
  issueSplit (.rcall n d b e) s fun c =>
    if (c.sp.scalar64 b.toNat).toNat % 4 ≠ 0 then c.trapAt 0x08
    else match freeCall c.w.calls with
      | none => c.stall .other
      | some slot => c.releasing 2 fun c =>
        c.ship d b e n.toNat slot c.w.callSeq { c.w with callSeq := (c.w.callSeq + 1) % 2 ^ 16 }

/-- `rcall.retry` (R165): the sequence comes from the tag register. -/
def execRcallRetry (n : BitVec 5) (d b e : BitVec 6) (s : State) : Out :=
  issueSplit (.rcallRetry n d b e) s fun c =>
    if (c.sp.scalar64 b.toNat).toNat % 4 ≠ 0 then c.trapAt 0x08
    else match freeCall c.w.calls with
      | none => c.stall .other
      | some slot => c.releasing 2 fun c => c.ship d b e n.toNat slot ((c.sp.scalar d.toNat).toNat % 2 ^ 16) c.w

/-- The 16 words `rwait` writes: the reply word, the values, zeros (R169). -/
def replyWords (status cause : Nat) (values : List Word) : List Word :=
  let v := values.take 15
  (BitVec.ofNat 32 (v.length * 2 ^ 16 + cause * 2 ^ 8 + status) :: v) ++ List.replicate (15 - v.length) 0

/-- What a tag's call has come to: nothing yet, or the words to write and the core that replied (R169). -/
def callOutcome (calls : Tab CallSlot) (tag : Word) : Option (List Word × Option Nat) :=
  match Tab.get? calls (tag.toNat / 2 ^ 16) with
  | none => some (replyWords 5 0 [], none)
  | some x =>
    if x.seq ≠ tag.toNat % 2 ^ 16 then some (replyWords 5 0 [], none)
    else match x.reply with
      | some r => some (replyWords r.1 r.2.1 r.2.2, x.core)
      | none => if x.timedOut then some (replyWords 3 0 [], none) else none

/-- The slot of a tag is freed when its call's outcome is delivered. -/
def freeCallSlot (w : Warp) (tag : Word) : Warp :=
  match Tab.get? w.calls (tag.toNat / 2 ^ 16) with
  | some x => if x.seq = tag.toNat % 2 ^ 16 then { w with calls := Tab.del w.calls (tag.toNat / 2 ^ 16) } else w
  | none => w

/-- A consumed reply leaves the reply cache of the core that sent it (R170). -/
def dropCached (s : State) (core : Option Nat) (caller : Nat) (tag : Word) : State :=
  match core with
  | none => s
  | some k => { s with targets := Tab.upd s.targets k fun t => { t with
      cache := t.cache.filter fun x => !(x.2.caller == caller && x.2.seq == tag.toNat % 2 ^ 16 && x.2.reply.isSome) } }

/-- A pending `rwait` with its words. -/
def Pend.withWords (p : Pend) (l : List Word) : Pend :=
  { p with rows := l.map fun v => [some (v, false)], open_ := false }

/-- `rwait` (R169): a pending group of 16 scalars; the outcome is written at once where the call already has one. -/
def execRwait (d a : BitVec 7) (l : BitVec 4) (s : State) : Out :=
  issueSplit (.rwait d a l) s fun c =>
    let tag := c.sp.scalar a.toNat
    let r := c.newPend 0x99 l.toNat { vector := false, base := d.toNat, count := 16 } (List.replicate 16 [none]) 0 true
    let set (f : Pend → Pend) (x : Cx) : Cx :=
      { x with sp := { x.sp with pend := x.sp.pend.map fun p => if p.id = r.2 then f p else p } }
    match callOutcome c.w.calls tag with
    | some o =>
      let x := set (fun p => { p with tag := some tag }.withWords o.1) r.1
      Cx.done { x with s := dropCached x.s o.2 c.wk tag, w := freeCallSlot x.w tag }
    | none => (set (fun p => { p with tag := some tag }) r.1).done

/-- The open `rwait` results of a warp, in order of issue, each once: a divergence copies them with their numbers. -/
def openWaits (w : Warp) : List (Nat × Word) :=
  let of (sp : Split) : List (Nat × Word) :=
    sp.pend.filterMap fun p => match p.open_, p.tag with | true, some t => some (p.id, t) | _, _ => none
  distinct (w.splits.flatMap (fun x => of x.2) ++ w.spill.flatMap fun x => of x.split)

/-- One open `rwait` delivered where its call has an outcome. -/
def deliverOne (wk : Nat) (s : State) (x : Nat × Word) : State :=
  match Tab.get? s.warps wk with
  | none => s
  | some w => match callOutcome w.calls x.2 with
    | none => s
    | some o =>
      let done (p : Pend) : Pend := if p.id = x.1 then { p.withWords o.1 with arrived := true } else p
      let w1 := freeCallSlot (w.mapPends done) x.2
      dropCached { s with warps := Tab.put s.warps wk w1 } o.2 wk x.2

/-- Outcomes delivered to the `rwait` results that wait for them, and written back. -/
def deliverCalls (s : State) (wk : Nat) : State :=
  match Tab.get? s.warps wk with
  | none => s
  | some w => settleWarp ((openWaits w).foldl (deliverOne wk) s) wk

/-! ### The target (R166, R170) -/

/-- The far tasks running on a core. -/
def farRunning (s : State) (core : Nat) : Nat :=
  (s.warps.filter fun w => match w.2.far with | some f => f.core == core | none => false).length

/-- The scalar bank of a new far task: s14 and s15 the address, s16 onward the payload (R166). -/
def farBank (m : CallMsg) : List Word :=
  List.replicate 14 0 ++ [loWord m.addr, hiWord m.addr] ++ (m.payload.take 16 ++ List.replicate (48 - (m.payload.take 16).length) 0)

/-- A split at the start of a program. -/
def Split.start (pc : Pc) (lanes : Mask) (scalars : List Word) (clock : Nat) : Split :=
  { pc := pc, lanes := lanes, act := lanes, status := .ready, scalars := scalars, scalarPoison := 0, mode := 0, fpst := 0,
    pend := [], unawaited := [], awaited := [], run := Run.none pc, temps := [], tempPoison := [], after := .fall,
    faults := [], stall := .none, trap := Trap.none, tsel := 0, yielded := false, readyAt := clock,
    latchPoison := false }

/-- A warp at the start of its program. -/
def Warp.start (wg index core quarter : Nat) (launched : Mask) (sp : Split) : Warp :=
  { wg := wg, index := index, core := core, quarter := quarter, launched := launched, exited := 0,
    splits := [(0, sp)], spill := [], spillSeq := 0, vregs := [], vregPoison := [], preds := List.replicate 8 0,
    predPoison := 0, srCount := zeroRow, joins := List.replicate 4 { expected := 0, arrived := 0 }, joinPoison := 0,
    jlost := 0, callSeq := 0, calls := [], unack := [0, 0, 0, 0, 0], collected := 0, openPush := [], openPop := [],
    mctx := { set := false, ptile := 0, pvalid := false, status := none }, mqueue := [], far := none,
    nextPend := 0 }

/-- A far task started on a core for a call (R166): keyed above every call identity.  Its quarter is the number of far
tasks then running on the core, modulo 4: the manual names none (DESIGN CHOICE, log entry 88). -/
def startFar (s : State) (core : Nat) (m : CallMsg) : State :=
  let k := s.fresh
  let s1 := { s with fresh := s.fresh + 1 }
  if !canonical m.entry then
    sendReply s1 { caller := m.caller, seq := m.seq, core := core, status := 1, cause := 0x22, values := [] }
  else
    let f : FarTask :=
      { caller := m.caller, seq := m.seq, core := core, asid := m.asid, started := s.timer, launch := m.launch,
        ending := none }
    let w := Warp.start 0 0 core (farRunning s core % 4) 0xFF (Split.start (m.entry.setWidth 57) 0xFF (farBank m) s.ticks)
    { s1 with warps := Tab.put s1.warps (2 ^ 64 + k) { w with far := some f } }

/-- A core's far-task side, made where the core has none yet. -/
def withTarget (s : State) (core : Nat) : State :=
  match Tab.get? s.targets core with
  | some _ => s
  | none => { s with targets := Tab.put s.targets core { waiting := [], cache := [], entered := [] } }

/-- The calls entered as executing start as far-task slots come free (R166, R170). -/
def startEntered (core : Nat) : List CallMsg → State → State
  | [], s => { s with targets := Tab.upd s.targets core fun t => { t with entered := [] } }
  | m :: rest, s =>
    if Config.farSlots ≤ farRunning s core then { s with targets := Tab.upd s.targets core fun t => { t with entered := m :: rest } }
    else startEntered core rest (startFar s core m)

/-- A call entered in the reply cache as executing; it starts once a far-task slot is free (R170). -/
def enterCall (s : State) (core : Nat) (m : CallMsg) : State :=
  let e : CacheEntry := { caller := m.caller, seq := m.seq, asid := m.asid, reply := none, sentAt := 0 }
  let s1 := { s with
    fresh := s.fresh + 1
    targets := Tab.upd s.targets core fun t => { t with cache := Tab.put t.cache s.fresh e } }
  match Tab.get? s1.targets core with
  | none => s1
  | some t => startEntered core (t.entered ++ [m]) s1

/-- The table of R170 for a call at its target; none where it must wait for a cache entry. -/
def handleCall (s : State) (core : Nat) (m : CallMsg) : Option State :=
  match Tab.get? s.targets core with
  | none => none
  | some t =>
    match t.cache.find? fun x => x.2.caller == m.caller && x.2.seq == m.seq with
    | some (_, x) => (match x.reply with
      | none => some s
      | some r => some { s with fresh := s.fresh + 1, replyMsgs := Tab.put s.replyMsgs s.fresh r })
    | none =>
      if Config.replyEntries ≤ t.cache.length then none else some (enterCall s core m)

/-- A core's waiting calls can go on: the first finds a cache entry, or an entered one a far-task slot. -/
def FarTarget.due (t : FarTarget) (s : State) (core : Nat) : Bool :=
  (match t.waiting with | m :: _ => (handleCall s core m).isSome | [] => false) ||
    (!t.entered.isEmpty && decide (farRunning s core < Config.farSlots))

/-- The waiting calls without the retries of one that is executing, which its reply answers (R170). -/
def dropRetries (t : FarTarget) (l : List CallMsg) : List CallMsg :=
  l.filter fun m => !(t.cache.any fun x => x.2.caller == m.caller && x.2.seq == m.seq && x.2.reply.isNone)

/-- Waiting calls of a core handled in arrival order, as far as cache entries go (R166, R170). -/
def startCalls (core : Nat) : List CallMsg → State → State
  | [], s => { s with targets := Tab.upd s.targets core fun t => { t with waiting := [] } }
  | m :: rest, s => match handleCall s core m with
    | some s1 => startCalls core rest s1
    | none => { s with targets := Tab.upd s.targets core fun t => { t with waiting := dropRetries t (m :: rest) } }

/-- The waiting calls of a core, tried again when a far-task slot or a cache entry has come free. -/
def startWaiting (s : State) (core : Nat) : State :=
  match Tab.get? s.targets core with
  | none => s
  | some t => startCalls core t.waiting (startEntered core t.entered s)

/-- A core has a call already: in its reply cache, or among those that wait (R170). -/
def hasCall (s : State) (core : Nat) (m : CallMsg) : Bool :=
  match Tab.get? s.targets core with
  | none => false
  | some t => (t.cache.any fun x => x.2.caller == m.caller && x.2.seq == m.seq) ||
      t.waiting.any fun x => x.caller == m.caller && x.seq == m.seq

/-- A call arrives at its target core, in the die of the address's home slice, which the manual leaves to the package
(R165, R170; DESIGN CHOICE, log entry 6); a fenced core takes no call that it does not have already (25_reliability R354).  Where it
needs a slot or an entry it waits behind the calls that wait already. -/
def execFarCallArrival (n : Nat) (core : Nat) (s : State) : Out :=
  match Tab.get? s.callMsgs n with
  | none => .next s
  | some m =>
    if Config.cores ≤ core ∨ (s.plat.fenced.contains (.core core) = true ∧ hasCall s core m = false) then .next s
    else
      let s1 := withTarget { s with callMsgs := Tab.del s.callMsgs n } core
      let wait := { s1 with targets := Tab.upd s1.targets core fun t => { t with waiting := t.waiting ++ [m] } }
      let known := match Tab.get? s1.targets core with
        | some t => t.waiting.isEmpty || t.cache.any fun x => x.2.caller == m.caller && x.2.seq == m.seq
        | none => true
      if known then .next ((handleCall s1 core m).getD wait) else .next wait

/-- `rret` (R168): releases at dev scope; the reply leaves once the trailer has executed (R81). -/
def execRret (n : BitVec 4) (s : State) : Out :=
  issueSplit (.rret n) s fun c =>
    if c.w.far.isNone then c.trapAt 0x03
    else c.releasing 2 fun c =>
      Cx.done { c with sp := { c.sp with after := .replied ((List.range n.toNat).map fun k => c.sp.scalar (16 + k)) } }

/-- A far task that has run for 10 ms is stopped and replies STOPPED (R168).  Its accesses that wait in the fault buffer are
carried (13_consistency R228). -/
def execFarTaskStopped (wk : Nat) (s : State) : Out :=
  match Tab.get? s.warps wk with
  | none => .next s
  | some w => match w.far with
    | none => .next s
    | some f =>
      if f.ending.isSome ∨ s.timer < f.started + Config.farTaskNs then .next s
      else
        let mine (h : Nat × Held) : Bool := match h.2.waiter with
          | .fetch x _ => x == wk
          | .stalled x _ => x == wk
          | _ => false
        let s1 := { s with xlate := { s.xlate with held := s.xlate.held.filter fun h => !mine h } }
        .next (endFarTask s1 wk f 4 0 [])

/-- The reply of a far task that has ended leaves once its release at dev scope is done (13_consistency R228). -/
def finishFar (s : State) (wk : Nat) : State :=
  match Tab.get? s.warps wk with
  | none => s
  | some w => match w.far.bind fun f => f.ending with
    | some msg => if w.released then sendReply { s with warps := Tab.del s.warps wk } msg else s
    | none => s

/-! ### Replies (R169, R170) -/

/-- The outstanding call slot with a sequence that awaits a reply: one that has waited for the millisecond has its TIMEOUT, delivered
or not (R169). -/
def awaitingSlot (calls : Tab CallSlot) (now seq : Nat) : Option Nat :=
  (calls.find? fun x => x.2.seq == seq && x.2.reply.isNone && !x.2.timedOut && decide (now < x.2.deadline)).map fun x => x.1

/-- A reply arrives at the caller: delivered to the slot that awaits it, or discarded (R169, R170). -/
def execFarReplyArrival (n : Nat) (s : State) : Out :=
  match Tab.get? s.replyMsgs n with
  | none => .next s
  | some m =>
    let s1 := { s with replyMsgs := Tab.del s.replyMsgs n }
    match Tab.get? s1.warps m.caller with
    | none => .next s1
    | some w => match awaitingSlot w.calls s.timer m.seq with
      | none => .next s1
      | some k =>
        let got (x : CallSlot) : CallSlot := { x with reply := some (m.status, m.cause, m.values), core := some m.core }
        let s2 := { s1 with warps := Tab.put s1.warps m.caller { w with calls := Tab.upd w.calls k got } }
        .next (deliverCalls s2 m.caller)

/-- A call slot's timer expires without a reply (R165, R169). -/
def execRcallTimeout (wk slot : Nat) (s : State) : Out :=
  match Tab.get? s.warps wk with
  | none => .next s
  | some w => match Tab.get? w.calls slot with
    | none => .next s
    | some x =>
      if x.reply.isSome ∨ x.timedOut ∨ s.timer < x.deadline then .next s
      else
        let late (y : CallSlot) : CallSlot := { y with timedOut := true }
        .next (deliverCalls { s with warps := Tab.put s.warps wk { w with calls := Tab.upd w.calls slot late } } wk)

/-- A replied reply-cache entry is freed 100 ms after its reply was sent (R170). -/
def execReplyCacheExpiry (core n : Nat) (s : State) : Out :=
  match Tab.get? s.targets core with
  | none => .next s
  | some t => match Tab.get? t.cache n with
    | none => .next s
    | some x =>
      if x.reply.isNone ∨ s.timer < x.sentAt + Config.replyKeepNs then .next s
      else .next { s with targets := Tab.put s.targets core { t with cache := Tab.del t.cache n } }

/-- A long-latency result arrives, and is written back once its window has closed, in program order (R84). -/
def execLongLatencyWriteback (wk p : Nat) (s : State) : Out :=
  match Tab.get? s.warps wk with
  | none => .next s
  | some w =>
    let got (q : Pend) : Pend := if q.id = p ∧ q.held = 0 ∧ !q.open_ then { q with arrived := true } else q
    .next (settleWarp { s with warps := Tab.put s.warps wk (w.mapPends got) } wk)

end Sys2Proof.Machine
end

