-- ==== Sys2Proof/Machine/Matrix.lean ====
section
/-! DEFINITION. The matrix engine: forms, operands and queue (15_matrix R236 to R243), products and delivery (R244 to R248),
and the ring (R249, R250). -/

namespace Sys2Proof.Machine

/-! ### Forms (R237, R238) -/

/-- An element format of a matrix operand. -/
inductive MatElem where
  | i8 | i4 | t2 | fp (f : Fmt)
  deriving DecidableEq, Repr

/-- A form: the formats of A and B, and K. -/
structure MatForm where
  a : MatElem
  b : MatElem
  k : Nat
  deriving DecidableEq, Repr

/-- The forms of R237, in opcode order. -/
def matForm (n : Nat) : MatForm :=
  match n with
  | 0 => { a := .i8, b := .t2, k := 256 }
  | 1 => { a := .fp .e4m3, b := .t2, k := 256 }
  | 2 => { a := .i8, b := .i4, k := 128 }
  | 3 => { a := .i8, b := .i8, k := 64 }
  | 4 => { a := .fp .e4m3, b := .fp .e4m3, k := 64 }
  | 5 => { a := .fp .e4m3, b := .fp .e5m2, k := 64 }
  | 6 => { a := .fp .e5m2, b := .fp .e4m3, k := 64 }
  | 7 => { a := .fp .e5m2, b := .fp .e5m2, k := 64 }
  | 8 => { a := .fp .e2m1, b := .fp .e2m1, k := 128 }
  | 9 => { a := .fp .bf16, b := .fp .bf16, k := 32 }
  | 10 => { a := .fp .f16, b := .fp .f16, k := 32 }
  | _ => { a := .fp .bf16, b := .t2, k := 256 }

/-- Bits of an element. -/
def MatElem.bits : MatElem → Nat
  | .i8 => 8 | .i4 => 4 | .t2 => 2 | .fp f => fmtBits f

/-- An integer form. -/
def MatForm.integer (f : MatForm) : Bool := f.a == .i8

/-- Bytes of an A row. -/
def MatForm.rowBytes (f : MatForm) : Nat := f.k * f.a.bits / 8

/-- A ternary digit (R56). -/
def ternary (code : Nat) : Int := if code = 1 then 1 else if code = 2 then -1 else 0

/-- The integer an element stands for. -/
def MatElem.int (e : MatElem) (code : Nat) : Int :=
  match e with
  | .i8 => intOf 8 true code
  | .i4 => intOf 4 true code
  | .t2 => ternary code
  | .fp _ => 0

/-- The exact value an element stands for. -/
def MatElem.num (e : MatElem) (code : Nat) : Num :=
  match e with
  | .fp f => decodeNum f code
  | .i8 => numOfInt (intOf 8 true code)
  | .i4 => numOfInt (intOf 4 true code)
  | .t2 => numOfInt (ternary code)

/-- The element codes packed in some bytes (R58). -/
def unpackElems (e : MatElem) (k : Nat) (bs : List Byte) : List Nat := splitElems e.bits k (leNat bs)

/-- One element of an integer product: the exact sum (R69). -/
def intDot (a b : List Int) : Int := (List.zipWith (fun x y => x * y) a b).foldl (fun s x => s + x) 0

/-- One element of a floating-point product: block_sum_fp (R68). -/
def fpDot (a b : List Num) : Nat := blockSum (List.zipWith (fun x y => (mulNum x y).1) a b)

/-- The product y (R244): for each column, its 96 elements. -/
def matProduct (f : MatForm) (rows cols : List (List Byte)) : List Row :=
  if f.integer then
    let ra := rows.map fun r => (unpackElems f.a f.k r).map f.a.int
    cols.map fun c => let cb := (unpackElems f.b f.k c).map f.b.int; ra.map fun r => BitVec.ofInt 32 (intDot r cb)
  else
    let ra := rows.map fun r => (unpackElems f.a f.k r).map f.a.num
    cols.map fun c => let cb := (unpackElems f.b f.k c).map f.b.num; ra.map fun r => BitVec.ofNat 32 (fpDot r cb)

/-- Columns added element by element, modulo 2^32. -/
def addColumns (a b : List Row) : List Row := List.zipWith (fun x y => List.zipWith (fun p q => p + q) x y) a b

/-! ### Tiles of the accumulator store (R203, R238) -/

/-- Element (i, c) of a column list. -/
def elemOf (y : List Row) (i c : Nat) : Word := (y.getD c []).getD i 0

/-- The byte offset of element (i, c) of tile t. -/
def tileOffset (t i c : Nat) : Nat := Config.tileBytes * t + 128 * i + 4 * c

/-- A tile as columns. -/
def readTile (g : Workgroup) (t : Nat) : List Row :=
  (List.range 32).map fun c => (List.range 96).map fun i => BitVec.ofNat 32 (Mem.le g.acc (tileOffset t i c) 4)

/-- A tile's element is poisoned. -/
def tilePoison (g : Workgroup) (t i c : Nat) : Bool := g.accPoison.contains (tileOffset t i c / 4)

/-- Every element position of a tile, in row order. -/
def tilePositions : List (Nat × Nat) := (List.range 96).flatMap fun i => (List.range 32).map fun c => (i, c)

/-- A tile written whole, with the poison of each element. -/
def writeTile (g : Workgroup) (t : Nat) (y : List Row) (bad : Nat → Nat → Bool) : Workgroup :=
  let base := Config.tileBytes * t
  let bytes := tilePositions.flatMap fun p => leBytes 4 (elemOf y p.1 p.2).toNat
  let marks := (tilePositions.filter fun p => bad p.1 p.2).map fun p => tileOffset t p.1 p.2 / 4
  { g with
    acc := Mem.writeBytes g.acc base bytes
    accPoison := (g.accPoison.filter fun n => n < base / 4 || (base + Config.tileBytes) / 4 ≤ n) ++ marks }

/-- A tile belongs to the workgroup's ring. -/
def inRing (g : Workgroup) (t : Nat) : Bool :=
  match g.ring with | some r => decide (r.first ≤ t) && decide (t < r.first + r.len) | none => false

/-! ### Checks and issue (R239, R240) -/

/-- The first of the causes of R240 after those of R97: convergence, context, operand. -/
def Cx.matrixCause (c : Cx) (context operand : Bool) : Option Nat :=
  if !c.ganged then some 0x05 else if context then some 0x03 else if operand then some 0x04 else none

/-- A matrix instruction enters the warp's queue, or stalls while it is full (R239). -/
def Cx.enqueue (c : Cx) (k : Cx → Cx × MatOp) : Out :=
  if Config.matrixQueue ≤ c.w.mqueue.length then c.stall .other
  else
    let r := k c
    Cx.done { r.1 with w := { r.1.w with mqueue := r.1.w.mqueue ++ [r.2] } }

/-- A group of 32 vector registers as a pending destination (R243). -/
def Cx.drainPend (c : Cx) (opcode look d : Nat) : Cx × Nat :=
  c.newPend opcode look { vector := true, base := d, count := 32 } (List.replicate 32 (List.replicate 96 none)) 0 true

/-- The 32 columns of a register group, as read at issue. -/
def Cx.group32 (c : Cx) (d : Nat) : List Row := (List.range 32).map fun k => c.row (d + k)

/-- The base that s names (R238). -/
def Cx.matrixBase (c : Cx) (s : BitVec 6) : Nat := if s = 0 then 0 else (c.sp.scalar s.toNat).toNat

/-- The workgroup's ring after an `mma` word of its owner has issued, as program order judges it (R243). -/
def judgeRing (integer close : Bool) (g : Workgroup) : Workgroup :=
  { g with ring := g.ring.map fun r => { r with opened := integer && !close } }

/-- The ILLEGAL_OPERAND causes of `mma` (R243). -/
def Cx.mmaOperand (c : Cx) (integer z : Bool) : Bool :=
  if ringMode c.s c.w then
    match (wgOf c.s c.w).bind fun g => g.ring with
    | none => true
    | some r => r.owner != c.wk || (integer && !z && !r.opened)
  else !integer && !c.w.mctx.set

/-- `mma` (R243, R244): checks, operands read, and the entry into the queue. -/
def mmaIssue (i : Instr) (st : State) (form : Nat) (d a : BitVec 7) (s : BitVec 6) (l : BitVec 4) : Out :=
  issueSplit i st fun c =>
    let f := matForm form
    let ring := ringMode c.s c.w
    let z := ring && l.getLsbD 0
    let close := ring && l.getLsbD 1
    let addrs := (c.row a.toNat).map fun v => v.toNat
    let base := c.matrixBase s
    match c.matrixCause false (c.mmaOperand f.integer z), skOf c.s c.w with
    | some k, _ => c.trapAt k
    | none, none => c.trapAt 0x07
    | none, some sk =>
      if (addrs.any fun x => x % 64 != 0) || base % 2048 != 0 then c.trapAt 0x08
      else if (addrs.any fun x => decide (windowBytes c.s c.w < x + f.rowBytes)) || decide (windowBytes c.s c.w < base + 2048) then
        c.trapAt 0x07
      else c.enqueue fun c =>
        let rows := addrs.map fun x => Mem.bytes sk.scratch x f.rowBytes
        let cols := (List.range 32).map fun k => Mem.bytes sk.scratch (base + 64 * k) 64
        let badRows := (List.range 96).filter fun i => touchesPoison 8 sk.scratchPoison (addrs.getD i 0) f.rowBytes
        let badCols := (List.range 32).filter fun k => touchesPoison 8 sk.scratchPoison (base + 64 * k) 64
        let op (cg : List Row) (p : Option Nat) : MatOp :=
          .mma form rows cols badRows badCols cg z close c.w.mctx.ptile c.w.mctx.status p
        if ring then (c.updWg (judgeRing f.integer close), op [] none)
        else if f.integer then
          let r := c.drainPend (0xE0 + form) l.toNat d.toNat
          (r.1, op (c.group32 d.toNat) (some r.2))
        else (c, op [] none)

/-- `mma.i8t2` (R237, R244). -/
def execMmaI8t2 (d a : BitVec 7) (s : BitVec 6) (l : BitVec 4) (st : State) : Out := mmaIssue (.mmaI8t2 d a s l) st 0 d a s l

/-- `mma.e4t2` (R237, R244). -/
def execMmaE4t2 (d a : BitVec 7) (s : BitVec 6) (l : BitVec 4) (st : State) : Out := mmaIssue (.mmaE4t2 d a s l) st 1 d a s l

/-- `mma.i8i4` (R237, R244). -/
def execMmaI8i4 (d a : BitVec 7) (s : BitVec 6) (l : BitVec 4) (st : State) : Out := mmaIssue (.mmaI8i4 d a s l) st 2 d a s l

/-- `mma.i8i8` (R237, R244). -/
def execMmaI8i8 (d a : BitVec 7) (s : BitVec 6) (l : BitVec 4) (st : State) : Out := mmaIssue (.mmaI8i8 d a s l) st 3 d a s l

/-- `mma.e4e4` (R237, R244). -/
def execMmaE4e4 (d a : BitVec 7) (s : BitVec 6) (l : BitVec 4) (st : State) : Out := mmaIssue (.mmaE4e4 d a s l) st 4 d a s l

/-- `mma.e4e5` (R237, R244). -/
def execMmaE4e5 (d a : BitVec 7) (s : BitVec 6) (l : BitVec 4) (st : State) : Out := mmaIssue (.mmaE4e5 d a s l) st 5 d a s l

/-- `mma.e5e4` (R237, R244). -/
def execMmaE5e4 (d a : BitVec 7) (s : BitVec 6) (l : BitVec 4) (st : State) : Out := mmaIssue (.mmaE5e4 d a s l) st 6 d a s l

/-- `mma.e5e5` (R237, R244). -/
def execMmaE5e5 (d a : BitVec 7) (s : BitVec 6) (l : BitVec 4) (st : State) : Out := mmaIssue (.mmaE5e5 d a s l) st 7 d a s l

/-- `mma.e2e2` (R237, R244). -/
def execMmaE2e2 (d a : BitVec 7) (s : BitVec 6) (l : BitVec 4) (st : State) : Out := mmaIssue (.mmaE2e2 d a s l) st 8 d a s l

/-- `mma.bf16` (R237, R244). -/
def execMmaBf16 (d a : BitVec 7) (s : BitVec 6) (l : BitVec 4) (st : State) : Out := mmaIssue (.mmaBf16 d a s l) st 9 d a s l

/-- `mma.f16` (R237, R244). -/
def execMmaF16 (d a : BitVec 7) (s : BitVec 6) (l : BitVec 4) (st : State) : Out := mmaIssue (.mmaF16 d a s l) st 10 d a s l

/-- `mma.bft2` (R237, R244). -/
def execMmaBft2 (d a : BitVec 7) (s : BitVec 6) (l : BitVec 4) (st : State) : Out := mmaIssue (.mmaBft2 d a s l) st 11 d a s l

/-- `msa` (R246). -/
def execMsa (d a : BitVec 7) (s : BitVec 6) (l : BitVec 4) (st : State) : Out :=
  issueSplit (.msa d a s l) st fun c =>
    let base := c.matrixBase s
    match c.matrixCause (ringMode c.s c.w) false, skOf c.s c.w with
    | some k, _ => c.trapAt k
    | none, none => c.trapAt 0x07
    | none, some sk =>
      if base % 32 ≠ 0 then c.trapAt 0x08
      else if windowBytes c.s c.w < base + 32 then c.trapAt 0x07
      else c.enqueue fun c =>
        let r := c.drainPend 0xEC l.toNat d.toNat
        let bad := (List.range 32).filter fun k => touchesPoison 8 sk.scratchPoison (base + k) 1
        (r.1, .msa (c.row a.toNat) (Mem.bytes sk.scratch base 32) bad (c.group32 d.toNat) c.w.mctx.ptile c.w.mctx.status r.2)

/-- The tile is one of the workgroup's ring (R247, R248). -/
def Cx.ringTile (c : Cx) (t : BitVec 4) : Bool := match wgOf c.s c.w with | some g => inRing g t.toNat | none => false

/-- `mzero` of a tile (R247). -/
def execMzero (t : BitVec 4) (s : State) : Out :=
  issueSplit (.mzero t) s fun c =>
    match c.matrixCause false (c.ringTile t) with
    | some k => c.trapAt k
    | none => c.enqueue fun c => (c, .zero t.toNat c.w.mctx.status)

/-- `mzero.p` (R247). -/
def execMzeroP (s : State) : Out :=
  issueSplit .mzeroP s fun c =>
    match c.matrixCause (ringMode c.s c.w) false with
    | some k => c.trapAt k
    | none => c.enqueue fun c => (c, .zeroP c.w.mctx.status)

/-- `mmov` of a tile to registers (R248). -/
def execMmovToRegisters (d : BitVec 7) (t : BitVec 4) (l : BitVec 4) (s : State) : Out :=
  issueSplit (.mmovToRegisters d t l) s fun c =>
    match c.matrixCause false (c.ringTile t) with
    | some k => c.trapAt k
    | none => c.enqueue fun c =>
      let r := c.drainPend 0xEE l.toNat d.toNat
      (r.1, .toRegs t.toNat c.w.mctx.status r.2)

/-- `mmov` of registers to a tile (R248). -/
def execMmovToTile (d : BitVec 7) (t : BitVec 4) (s : State) : Out :=
  issueSplit (.mmovToTile d t) s fun c =>
    match c.matrixCause false (c.ringTile t) with
    | some k => c.trapAt k
    | none => c.enqueue fun c => 
      (c, .toTile t.toNat (c.group32 d.toNat) (c.w.mctx.set && c.w.mctx.ptile == t.toNat) c.w.mctx.status)

/-- A tile from first to first + n is the P tile of another warp of the workgroup. -/
def Cx.othersTile (c : Cx) (first n : Nat) : Bool :=
  match wgOf c.s c.w with
  | some g => g.warps.any fun k => k != c.wk && (match Tab.get? c.s.warps k with
      | some w => w.mctx.set && decide (first ≤ w.mctx.ptile) && decide (w.mctx.ptile < first + n)
      | none => false)
  | none => false

/-- A queued instruction that will open a tile. -/
def MatOp.opens : MatOp → Bool
  | .mma _ _ _ _ _ _ _ _ _ _ _ => true
  | .msa _ _ _ _ _ _ _ => false
  | .zero _ _ => false
  | .zeroP _ => false
  | .toRegs _ _ _ => false
  | .toTile _ _ _ _ => false
  | .ring _ => false

/-- The workgroup's ring holds an open or ready tile, or its owner's queue an `mma` for it. -/
def Cx.ringBusy (c : Cx) : Bool :=
  match (wgOf c.s c.w).bind fun g => g.ring with
  | none => false
  | some r => (r.tiles.any fun t => t != .free) ||
      (match Tab.get? c.s.warps r.owner with | some w => w.mqueue.any MatOp.opens | none => false)

/-- `mring` (R242). -/
def execMring (t : BitVec 4) (a b : BitVec 6) (s : State) : Out :=
  issueSplit (.mring t a b) s fun c =>
    let ring := ringMode c.s c.w
    let n := if ring then (c.sp.scalar a.toNat).toNat else 1
    let obj := (c.sp.scalar b.toNat).toNat
    let named : Bool := b != 0
    let bad : Bool :=
      if ring then decide (n < 2) || decide (16 < n) || !named || c.ringBusy || c.othersTile t.toNat n
      else c.othersTile t.toNat 1 || c.ringTile t
    match c.matrixCause false bad with
    | some k => c.trapAt k
    | none =>
      if named ∧ obj % 16 ≠ 0 then c.trapAt 0x08
      else if (named ∧ windowBytes c.s c.w < obj + 16) ∨ tileAllot c.s c.w < t.toNat + n then c.trapAt 0x07
      else c.enqueue fun c =>
        if ring then
          let r : Ring :=
            { owner := c.wk, first := t.toNat, len := n, head := 0, tail := 0, status := c.sp.scalar b.toNat,
              tiles := List.replicate n .free, bits := 0, opened := false }
          (c.updWg fun g => { g with ring := some r }, .ring none)
        else
          let m : MatrixCtx :=
            { c.w.mctx with
              set := true, ptile := t.toNat, status := if named then some (c.sp.scalar b.toNat) else none }
          ({ c with w := { c.w with mctx := m } }, .ring m.status)

/-! ### Execution and delivery (R244 to R250) -/

/-- Rows 48 to 95 of a result differ from rows 0 to 47 (R267). -/
def halvesDiffer (y : List Row) : Bool := y.any fun r => r.take 48 != (r.drop 48).take 48

/-- Columns as the rows of a pending result. -/
def drainRows (y : List Row) (bad : Nat → Nat → Bool) : List (List (Option (Word × Bool))) :=
  y.mapIdx fun c r => r.mapIdx fun i v => some (v, bad i c)

/-- A drain into registers: the pending result is filled, or in a shadow launch marked where its halves differ. -/
def fillDrain (s : State) (wk id : Nat) (y : List Row) (bad : Nat → Nat → Bool) (differ : Bool) : State :=
  let f (p : Pend) : Pend :=
    if p.id = id then
      { p with
        rows := if differ then p.rows.map fun r => r.map fun _ => none else drainRows y bad
        arrived := true, open_ := false, mismatch := differ }
    else p
  settleWarp (State.updWarp s wk fun w => w.mapPends f) wk

/-- Status bits to a vreg-mode warp's status object, where it has one and there are any (R265). -/
def vregStatus (s : State) (skein : Nat) (status : Option Word) (bits pdisc : Nat) : State :=
  match status with
  | some a => if bits = 0 ∧ pdisc = 0 then s else orStatusAt s skein a.toNat bits 0 pdisc
  | none => s

/-- PARITY and POISON held for the close of the ring's tile (R250, R265). -/
def ringStatus (s : State) (g bits : Nat) : State :=
  { s with wgs := Tab.upd s.wgs g fun x => { x with ring := x.ring.map fun r => { r with bits := r.bits ||| bits } } }

/-- The tile a count of the ring uses. -/
def Ring.tileAt (r : Ring) (count : Nat) : Nat := r.first + count % r.len

/-- The state of the tile a count uses. -/
def Ring.stateAt (r : Ring) (count : Nat) : RingTile := r.tiles.getD (count % r.len) .free

/-- The ring with the tile of a count in a state. -/
def Ring.putAt (r : Ring) (count : Nat) (t : RingTile) : Ring := { r with tiles := setAt r.tiles (count % r.len) t }

/-- The close of the ring's open tile: PARITY and POISON into the status object, then an arrival (R250). -/
def closeTile (s : State) (g : Nat) (tag : Tag) (differ : Bool) : State :=
  match Tab.get? s.wgs g with
  | none => s
  | some x => match x.ring with
    | none => s
    | some r =>
      let s1 := { s with wgs := Tab.put s.wgs g { x with ring := some { r.putAt (r.head - 1) (.ready tag differ) with bits := 0 } } }
      engineArrive s1 x.skein r.status.toNat r.bits 0

/-- A ring-mode product waits until the tile at HEAD is free: it opens one, and the epilogue has not yet emptied that (R244, R249). -/
def ringFull (g : Workgroup) (integer z : Bool) : Bool := g.ring.all fun r => (z || !integer) && r.stateAt r.head != .free

/-- The matrix queue of a warp stands: its oldest instruction waits for a tile of the ring. -/
def queueStands (s : State) (w : Warp) : Bool :=
  match w.mqueue, wgOf s w with
  | .mma form _ _ _ _ _ z _ _ _ _ :: _, some g => ringMode s w && ringFull g (matForm form).integer z
  | _, _ => false

/-- A ring-mode product delivered (R244); nothing while the head tile is not free.  An element already in the tile is an operand of
the sum: a poisoned one sets POISON (R245, 25_reliability R344).  A form that opens a tile while an integer tile
is still open, which the manual neither traps nor closes for, opens the next one at HEAD, and the earlier one stays open
(R249; DESIGN CHOICE, log entry 96). -/
def ringDeliver (s : State) (g : Nat) (shadow integer z close : Bool) (y : List Row) (bad : Nat → Nat → Bool) (bits : Nat) :
    Option State :=
  match Tab.get? s.wgs g with
  | none => none
  | some x => match x.ring with
    | none => none
    | some r =>
      if ringFull x integer z then none
      else
        let fresh := z || !integer
        let count := if fresh then r.head else r.head - 1
        let t := r.tileAt count
        let sum := if fresh then y else addColumns (readTile x t) y
        let marks (i c : Nat) : Bool := bad i c || (!fresh && tilePoison x t i c)
        let read := !fresh && !x.accPoison.isEmpty && tilePositions.any fun q => tilePoison x t q.1 q.2
        let r1 := { r.putAt count .open_ with head := count + 1, bits := r.bits ||| bits ||| if read then 2 else 0 }
        let s1 := { s with wgs := Tab.put s.wgs g { writeTile x t sum marks with ring := some r1 } }
        some (if close || !integer then closeTile s1 g (if integer then .i32 else .f32) (shadow && halvesDiffer sum) else s1)

/-- The P-valid bit of a warp. -/
def setPValid (s : State) (wk : Nat) (v : Bool) : State :=
  State.updWarp s wk fun w => { w with mctx := { w.mctx with pvalid := v } }

/-- `msa` of a whole tile (R246). -/
def msaColumns (scales : Row) (cols : List Byte) (c p : List Row) : List Row :=
  c.mapIdx fun k col => col.mapIdx fun i v =>
    BitVec.ofNat 32 (msaElem v.toNat (elemOf p i k).toNat ((scales.getD i 0).toNat % 256) (cols.getD k 0).toNat)

/-- A scale of code 0xFF was applied (R246, R255). -/
def nanScale (rows : List Nat) (cols : List Byte) : Bool := (rows.any fun v => v % 256 == 0xFF) || cols.any fun b => b == 0xFF

/-- Bits POISON and PARITY of a result (R245). -/
def matrixBits (poison : Bool) (parity : Nat) : Nat := (if poison then 2 else 0) + (if parity = 0 then 0 else 4)

/-- The bits of a matrix instruction that is no `mma`: to the warp's status object in vreg mode, held for the close of the
ring's tile in ring mode (R265). -/
def matrixStatus (s : State) (w : Warp) (g : Workgroup) (status : Option Word) (bits : Nat) : State :=
  if ringMode s w then ringStatus s w.wg bits else vregStatus s g.skein status bits 0

/-- One queued matrix instruction executed for a warp; nothing while it must wait.  A parity error in both executions poisons
every element of the destination, and sets PARITY as one alone does (R245, R265; of `mzero.p` and `mring`, which move no element, PARITY
alone).  In a shadow launch a drain of a tile to registers
is compared in ring mode too (R267; DESIGN CHOICE, log entry 97). -/
def runMatrix (s : State) (wk : Nat) (w : Warp) (g : Workgroup) (parity : Nat) (op : MatOp) : Option State :=
  let shadow := isShadow s w
  match op with
  | .mma form rows cols badRows badCols c z close ptile status pend =>
    let f := matForm form
    let y := matProduct f rows cols
    let poison := !badRows.isEmpty || !badCols.isEmpty
    let bad (i k : Nat) : Bool := badRows.contains i || badCols.contains k || decide (2 ≤ parity)
    let bits := matrixBits poison parity
    if ringMode s w then ringDeliver s w.wg shadow f.integer z close y bad bits
    else match pend with
      | some id =>
        let sum := addColumns c y
        some (fillDrain (vregStatus s g.skein status bits 0) wk id sum bad (shadow && halvesDiffer sum))
      | none =>
        let s1 := vregStatus s g.skein status bits (if w.mctx.pvalid then 1 else 0)
        let put (x : Workgroup) : Workgroup := writeTile x ptile y bad
        some (setPValid { s1 with wgs := Tab.upd s1.wgs w.wg put } wk true)
  | .msa scales cols badCols c ptile status id =>
    let p := if w.mctx.pvalid then readTile g ptile else []
    let read (i k : Nat) : Bool := badCols.contains k || (w.mctx.pvalid && tilePoison g ptile i k)
    let bad (i k : Nat) : Bool := read i k || decide (2 ≤ parity)
    let poison := tilePositions.any fun q => read q.1 q.2
    let y := msaColumns scales cols c p
    let bits := matrixBits poison parity + if nanScale (scales.map fun v => v.toNat) cols then 8 else 0
    some (setPValid (fillDrain (vregStatus s g.skein status bits 0) wk id y bad (shadow && halvesDiffer y)) wk false)
  | .zero t status =>
    let put (x : Workgroup) : Workgroup := writeTile x t (List.replicate 32 zeroRow) fun _ _ => decide (2 ≤ parity)
    let s1 := matrixStatus s w g status (matrixBits false parity)
    some { s1 with wgs := Tab.upd s1.wgs w.wg put }
  | .zeroP status => some (setPValid (matrixStatus s w g status (matrixBits false parity)) wk false)
  | .toRegs t status id =>
    let y := readTile g t
    let bad (i k : Nat) : Bool := tilePoison g t i k || decide (2 ≤ parity)
    let poison := tilePositions.any fun q => tilePoison g t q.1 q.2
    some (fillDrain (matrixStatus s w g status (matrixBits poison parity)) wk id y bad (shadow && halvesDiffer y))
  | .toTile t c ownP status =>
    let put (x : Workgroup) : Workgroup := writeTile x t c fun _ _ => decide (2 ≤ parity)
    let s1 := matrixStatus s w g status (matrixBits false parity)
    let s2 := { s1 with wgs := Tab.upd s1.wgs w.wg put }
    some (if ownP then setPValid s2 wk true else s2)
  | .ring status =>
    let s1 := matrixStatus s w g status (matrixBits false parity)
    some (if ringMode s w then s1 else setPValid s1 wk false)

/-- The matrix engine executes the oldest queued instruction of a warp (R239, R244).  `parity` says whether a digit bus
reported an error during the instruction: 0 none, 1 once, 2 also in the second execution (R245). -/
def execMatrixExecute (wk : Nat) (parity : Nat) (s : State) : Out :=
  match Tab.get? s.warps wk with
  | none => .next s
  | some w => match w.mqueue, wgOf s w, skOf s w with
    | op :: rest, some g, some k =>
      if !k.resident then .next s
      else match runMatrix s wk w g parity op with
        | some t => .next (State.updWarp t wk fun x => { x with mqueue := rest })
        | none => .next s
    | _, _, _ => .next s

end Sys2Proof.Machine
end

