-- ==== Sys2Proof/Machine/Epilogue.lean ====
section
/-! DEFINITION. The epilogue engine: `fork` and `rdv` (09_control R163, R164), and the epilogue commands (15_matrix R251 to
R262). -/

namespace Sys2Proof.Machine

/-! ### `fork` and `rdv` -/

/-- A tile of zeros with tag i32 (R251). -/
def Tile.zero : Tile := { elems := List.replicate 3072 0, poison := [], tag := .i32 }

/-- An engine program at its first command (R251). -/
def Engine.start (entry : DWord) (arg : DWord) : Engine :=
  { entry := entry, pc := entry,
    scalars := [0, 0, loWord arg, hiWord arg] ++ List.replicate 60 0, scalarPoison := 0, w := Tile.zero, q := Tile.zero,
    pending := { bits := 0, bndcnt := 0 }, running := true, unack := [0, 0, 0, 0, 0], progress := 0,
    refused := none }

/-- The workgroup's engine program runs. -/
def Workgroup.engineRuns (g : Workgroup) : Bool := match g.engine with | some e => e.running | none => false

/-- `fork` (R163): stalls while the workgroup's program runs (R162). -/
def execFork (a b : BitVec 6) (s : State) : Out :=
  issueSplit (.fork a b) s fun c =>
    let entry := c.sp.scalar64 a.toNat
    if entry.toNat % 4 ≠ 0 then c.trapAt 0x08
    else match wgOf c.s c.w with
      | none => c.trapAt 0x03
      | some g =>
        if g.engineRuns then c.stall .other
        else c.releasing 0 fun c =>
          let n := g.forks + 1
          let start (x : Workgroup) : Workgroup :=
            { x with engine := some (Engine.start entry (c.sp.scalar64 b.toNat)), forks := n }
          (c.updWg start).done

/-- `rdv` (R164): 0 at once where there is nothing to collect, otherwise the ended program's pair. -/
def execRdv (a : BitVec 6) (s : State) : Out :=
  issueSplit (.rdv a) s fun c =>
    match wgOf c.s c.w with
    | none => c.trapAt 0x03
    | some g =>
      if g.forks = 0 ∨ c.w.collected = g.forks then c.scalarDone (c.putScalar64 a.toNat 0)
      else if g.engineRuns then c.stall .other
      else
        let c1 := { c with w := { c.w with collected := g.forks } }
        let c2 := c1.putScalar64 a.toNat (pair g.endPair.1 g.endPair.2)
        let mark (sp : Split) (n : Nat) (v : Word) (p : Bool) : Split := if p then sp.setScalar n v true else sp
        let sp := mark (mark c2.sp a.toNat g.endPair.1 g.endPoison.1) (a.toNat + 1) g.endPair.2 g.endPoison.2
        c.scalarDone { c2 with sp := sp }

/-! ### The tiles and the pending status -/

/-- Status bits added to the pending status (R265). -/
def Ex.status (x : Ex) (bits : Nat) : Ex :=
  { x with en := { x.en with pending := { x.en.pending with bits := x.en.pending.bits ||| BitVec.ofNat 64 bits } } }

/-- POISON where a command has read poisoned data. -/
def Ex.poisonIf (x : Ex) (b : Bool) : Ex := if b then x.status 2 else x

/-- Element e of a tile. -/
def Tile.at (t : Tile) (e : Nat) : Word := t.elems.getD e 0

/-- Row and column of an element. -/
def rowOf (e : Nat) : Nat := e / 32
/-- Its column. -/
def colOf (e : Nat) : Nat := e % 32

/-- Elements of two lists of poison marks. -/
def joinMarks (a b : List Nat) : List Nat := a ++ b.filter fun e => !a.contains e

/-- The bits NV and OV of the status word for flags earned (R265). -/
def engineFlags (f : Flags) : Nat := (if f.nv then 0x80 else 0) + (if f.ov then 0x40 else 0)

/-- W after a command, its elements in row order. -/
def Ex.putW (x : Ex) (t : Tile) : Ex := { x with en := { x.en with w := t } }

/-- The skein of an engine program. -/
def Ex.skein (x : Ex) : Option Skein := Tab.get? x.s.skeins x.wg.skein

/-- Bytes of the window that the engine program reaches. -/
def Ex.window (x : Ex) : Nat :=
  match x.skein with
  | some k => (match Tab.get? x.s.launches k.launch with | some l => skeinWindow k l.kernel | none => 0)
  | none => 0

/-- A scratchpad operand of an engine command: ALIGN, ALLOTMENT, then its bytes. -/
def Ex.withBytes (x : Ex) (addr align n : Nat) (k : Skein → List Byte → Out) : Out :=
  if addr % align ≠ 0 then x.stop 0x08
  else if x.window < addr + n then x.stop 0x07
  else match x.skein with
    | some sk => k sk (Mem.bytes sk.scratch addr n)
    | none => x.stop 0x07

/-! ### `e.pop` (R254) -/

/-- The ring's owner has exited and leaves no instruction in its queue. -/
def ownerGone (s : State) (r : Ring) : Bool :=
  match Tab.get? s.warps r.owner with
  | none => true
  | some w => w.launched &&& ~~~w.exited == 0 && w.mqueue.isEmpty

/-- `e.pop` (R254): a tile whose shadow halves differ stops the program; it is popped none the less, TAIL advances, and Q
stands as it was (R267; DESIGN CHOICE, log entry 98). -/
def execEPop (s : State) : Out :=
  issueEngine .ePop s fun x =>
    match x.wg.ring with
    | none => x.stop 0x03
    | some r => match r.stateAt r.tail with
      | .ready tag differ =>
        let t := r.tileAt r.tail
        let g := { x.wg with ring := some { r.putAt r.tail .free with tail := r.tail + 1 } }
        if differ then Ex.stop { x with wg := g } 0x10
        else
          let cols := readTile x.wg t
          let elems := tilePositions.map fun p => elemOf cols p.1 p.2
          let bad := (List.range 3072).filter fun e => tilePoison x.wg t (rowOf e) (colOf e)
          let q : Tile := { elems := elems, poison := bad, tag := tag }
          (Ex.poisonIf { x with wg := g, en := { x.en with q := q } } (!bad.isEmpty)).done
      | .free =>
        if ownerGone x.s r ∧ r.tiles.all (fun t => t == .free) then x.stop 0x04 else x.wait
      | .open_ => x.wait

/-! ### Arithmetic on W (R255 to R259) -/

/-- `e.sa.scale` and `e.sa.first` (R255). -/
def Ex.scaleW (x : Ex) (first : Bool) (a b : BitVec 6) : Out :=
  let ra := (x.scalar a.toNat).toNat
  let ca := (x.scalar b.toNat).toNat
  if ra % 32 ≠ 0 ∨ ca % 32 ≠ 0 then x.stop 0x08
  else x.withBytes ra 32 96 fun sk rows => x.withBytes ca 32 32 fun _ cols =>
    let w := x.en.w
    let q := x.en.q
    let base (e : Nat) : Nat := if first then 0 else (w.at e).toNat
    let elem (e : Nat) : Word :=
      BitVec.ofNat 32 (msaElem (base e) (q.at e).toNat (rows.getD (rowOf e) 0).toNat (cols.getD (colOf e) 0).toNat)
    let badRow (i : Nat) : Bool := touchesPoison 8 sk.scratchPoison (ra + i) 1
    let badCol (c : Nat) : Bool := touchesPoison 8 sk.scratchPoison (ca + c) 1
    let read := joinMarks (if first then [] else w.poison) q.poison
    let bad := (List.range 3072).filter fun e => read.contains e || badRow (rowOf e) || badCol (colOf e)
    let y := x.putW { elems := (List.range 3072).map elem, poison := bad, tag := .f32 }
    ((y.status (if nanScale (rows.map fun v => v.toNat) cols then 8 else 0)).poisonIf (!bad.isEmpty)).done

/-- `e.sa` (R255). -/
def execESa (o : BitVec 2) (a b : BitVec 6) (s : State) : Out :=
  issueEngine (.eSa o a b) s fun x =>
    let w := x.en.w
    let q := x.en.q
    match o.toNat with
    | 0 => ((x.putW q).poisonIf (!q.poison.isEmpty)).done
    | 1 =>
      if w.tag ≠ .i32 ∨ q.tag ≠ .i32 then x.stop 0x06
      else
        let bad := joinMarks w.poison q.poison
        let t : Tile := { elems := List.zipWith (fun p v => p + v) w.elems q.elems, poison := bad, tag := .i32 }
        ((x.putW t).poisonIf (!bad.isEmpty)).done
    | 2 => if w.tag ≠ .f32 ∨ q.tag ≠ .f32 then x.stop 0x06 else x.scaleW false a b
    | _ => if q.tag ≠ .f32 then x.stop 0x06 else x.scaleW true a b

/-- The sum of two f32 codes under RNE, an invalid operation reported (R256, R260). -/
def addF32 (m v : Word) : Word × Flags :=
  let p := readNum .f32 false m.toNat
  let q := readNum .f32 false v.toNat
  let r := addNum p.1 q.1 .rne
  (BitVec.ofNat 32 (encodeNum .f32 (toWide .f32 r.1 .rne false false 0).1), orFlags (orFlags p.2 q.2) r.2)

/-- `e.bias` (R256). -/
def execEBias (r : BitVec 1) (a : BitVec 6) (s : State) : Out :=
  issueEngine (.eBias r a) s fun x =>
    let w := x.en.w
    let addr := (x.scalar a.toNat).toNat
    let n := if r = 1 then 96 else 32
    if w.tag ≠ .f32 ∧ w.tag ≠ .i32 then x.stop 0x06
    else x.withBytes addr 4 (4 * n) fun sk bs =>
      let vals := (List.range n).map fun k => BitVec.ofNat 32 (leNat ((bs.drop (4 * k)).take 4))
      let place (e : Nat) : Nat := if r = 1 then rowOf e else colOf e
      let sum (e : Nat) : Word × Flags :=
        let v := vals.getD (place e) 0
        if w.tag = .i32 then (w.at e + v, noFlags) else addF32 (w.at e) v
      let rs := (List.range 3072).map sum
      let badVal (k : Nat) : Bool := touchesPoison 8 sk.scratchPoison (addr + 4 * k) 4
      let bad := (List.range 3072).filter fun e => w.poison.contains e || badVal (place e)
      let y := x.putW { elems := rs.map fun p => p.1, poison := bad, tag := w.tag }
      ((y.status (engineFlags (allFlags (rs.map fun p => p.2)))).poisonIf (!bad.isEmpty)).done

/-- x × (1 + erf(x / √2)) / 2 of a finite nonzero x with |x| < 16. -/
def geluApprox (neg : Bool) (m : Nat) (e : Int) (p : Nat) : Approx :=
  let q := p + 600
  let x := fixOf q false m e
  let h := x * x / 2
  let y : Int := (isqrt h.toNat : Nat)
  let s := erfTerms q (h >>> q) (2 * q) 0 y 0
  let rootPi : Int := (isqrt (piFix q * 2 ^ q).toNat : Nat)
  let v := (2 * s * 2 ^ q / rootPi) >>> 300
  let one : Int := 2 ^ (q - 300)
  { a := if neg then -((m : Int) * (one - v)) else (m : Int) * (one + v), e := e - (q - 300 : Nat) - 1 }

/-- x / (1 + e^-x) of a finite nonzero x with |x| < 128. -/
def siluApprox (neg : Bool) (m : Nat) (e : Int) (p : Nat) : Approx :=
  let q := p + 1200
  let x := fixOf q false m e
  let s := expSplit q x
  let t := s.1 <<< s.2.toNat
  let one : Int := 2 ^ q
  let g := if neg then one * one / (one + t) else t * one / (one + t)
  { a := if neg then -((m : Int) * g) else (m : Int) * g, e := e - q }

/-- The activation of one f32 code (R257). -/
def actElem (fn : Nat) (code : Word) : Word :=
  let out (x : Num) : Word := BitVec.ofNat 32 (encodeNum .f32 (toWide .f32 x .rne false false 0).1)
  let ziv (g : Nat → Approx) : Word := BitVec.ofNat 32 (encodeNum .f32 (zivRound .f32 false false g zivBits).1)
  match decodeNum .f32 code.toNat with
  | .nan _ => BitVec.ofNat 32 (canonNan .f32)
  | .inf neg =>
    match fn with
    | 0 => code
    | 1 => if neg then 0 else code
    | 4 => out (.fin neg 1 0)
    | _ => if neg then out (.fin true 0 0) else code
  | .fin neg m e =>
    match fn with
    | 0 => code
    | 1 => if neg || m == 0 then 0 else code
    | 2 =>
      if m = 0 then code
      else if magGe m e 4 then (if neg then out (.fin true 0 0) else code) else ziv (geluApprox neg m e)
    | 3 =>
      if m = 0 then code
      else if magGe m e 7 then (if neg then out (.fin true 0 0) else code) else ziv (siluApprox neg m e)
    | _ => BitVec.ofNat 32 (specialElem .tanh .f32 false false code.toNat).1

/-- `e.act` (R257). -/
def execEAct (f : BitVec 3) (s : State) : Out :=
  issueEngine (.eAct f) s fun x =>
    let w := x.en.w
    if w.tag ≠ .f32 then x.stop 0x06
    else ((x.putW { w with elems := w.elems.map (actElem f.toNat) }).poisonIf (!w.poison.isEmpty)).done

/-- The tag of a target code of `e.cvt` (R258). -/
def tagOfCode (t : Nat) : Tag :=
  match t with
  | 0 => .f32 | 1 => .i32 | 2 => .bf16 | 3 => .f16 | 4 => .e4m3 | _ => .e5m2

/-- The floating-point format of a tag; f32 for i32, which has none. -/
def Tag.fmt : Tag → Fmt
  | .i32 => .f32 | .f32 => .f32 | .bf16 => .bf16 | .f16 => .f16 | .e4m3 => .e4m3 | .e5m2 => .e5m2

/-- Bytes of an element of a tag (R260). -/
def Tag.bytes : Tag → Nat
  | .i32 => 4 | .f32 => 4 | .bf16 => 2 | .f16 => 2 | .e4m3 => 1 | .e5m2 => 1

/-- One element converted (R258): to_wide saturates for bf16 and f16; a conversion to f32 never overflows.  An f32 element that is
converted to f32 keeps its value, a NaN becoming the canonical one (DESIGN CHOICE, log entry 134). -/
def cvtTile (source target : Tag) (rm : Rnd) (code : Word) : Word × Flags :=
  let r := if source = .i32 then (numOfInt code.toInt, noFlags) else readNum .f32 false code.toNat
  let v : Nat × Flags :=
    match target with
    | .i32 => numToInt 32 true r.1 rm 0
    | .f32 => writeNum .f32 r.1 rm false false 0
    | t => writeNum t.fmt r.1 rm true false 0
  (BitVec.ofNat 32 v.1, orFlags r.2 v.2)

/-- `e.cvt` (R258). -/
def execECvt (r t : BitVec 3) (s : State) : Out :=
  issueEngine (.eCvt r t) s fun x =>
    let w := x.en.w
    if w.tag ≠ .f32 ∧ w.tag ≠ .i32 then x.stop 0x06
    else
      let target := tagOfCode t.toNat
      let rs := w.elems.map (cvtTile w.tag target (rndOfCode r.toNat))
      let y := x.putW { elems := rs.map fun p => p.1, poison := w.poison, tag := target }
      ((y.status (engineFlags (allFlags (rs.map fun p => p.2)))).poisonIf (!w.poison.isEmpty)).done

/-- The out-of-bounds elements of an `e.bnd` counted in COUNT and, as events, in BNDCNT (R264). -/
def Ex.countBnd (x : Ex) (n count events : Nat) : Ex :=
  { x with
    wg := { x.wg with selvedge := updAt x.wg.selvedge n fun b => { b with count := bumpCount b.count count } }
    en := { x.en with pending := { x.en.pending with bndcnt := x.en.pending.bndcnt + events } } }

/-- `e.bnd` (R259): a trap action counts the element it meets and stops the program (R264). -/
def execEBnd (n : BitVec 4) (s : State) : Out :=
  issueEngine (.eBnd n) s fun x =>
    let w := x.en.w
    if w.tag ≠ .f32 then x.stop 0x06
    else
      let b := x.wg.selvedge.getD n.toNat { count := 0, act := 0, hi := 0, lo := 0, poison := false }
      let rs := w.elems.map (bndCheck b)
      let hits := (rs.filter fun p => p.2 != .inside).length
      if b.act = 3 ∧ hits ≠ 0 then (x.countBnd n.toNat 1 0).stop 0x0F
      else
        let bits := (if rs.any fun p => p.2 == .flag then 0x10 else 0) + (if rs.any fun p => p.2 == .clamp then 0x20 else 0)
        let marks := if b.poison then List.range 3072 else w.poison
        let y := x.putW { w with elems := rs.map fun p => p.1, poison := marks }
        (((y.countBnd n.toNat hits hits).status bits).poisonIf (!marks.isEmpty)).done

/-! ### Stores (R260) -/

/-- What a tile store covers: rows, columns, element bytes, base and stride, the space. -/
structure StoreShape where
  rows : Nat
  cols : Nat
  width : Nat
  base : DWord
  stride : Nat
  scratch : Bool
  deriving DecidableEq, Repr

/-- The address of element (r, c). -/
def StoreShape.addr (h : StoreShape) (r c : Nat) : DWord := h.base + BitVec.ofNat 64 (r * h.stride + c * h.width)

/-- The elements in store order. -/
def StoreShape.elems (h : StoreShape) : List (Nat × Nat) :=
  (List.range h.rows).flatMap fun r => (List.range h.cols).map fun c => (r, c)

/-- Element (r, c) of W. -/
def Tile.elem (t : Tile) (p : Nat × Nat) : Word := t.at (32 * p.1 + p.2)

/-- Element (r, c) of W is poisoned. -/
def Tile.bad (t : Tile) (p : Nat × Nat) : Bool := t.poison.contains (32 * p.1 + p.2)

/-- The value `e.ast` writes over m (R260). -/
def combineElem (tag : Tag) (m v : Word) : Word × Flags := if tag = .i32 then (m + v, noFlags) else addF32 m v

/-- A store of the engine under way: the state, the units done, flags and poison met, and what stopped it. -/
structure StoreRun where
  s : State
  progress : Nat
  flags : Flags
  poison : Bool
  stop : Option Elem
  deriving DecidableEq, Repr

/-- `e.st` into global memory, one element after another. -/
def storeGlobal (p : Party) (key : Nat) (h : StoreShape) (t : Tile) (a : StoreRun) (e : Nat × Nat) : StoreRun :=
  match a.stop with
  | some _ => a
  | none =>
    match writeGlobal a.s p key (h.addr e.1 e.2) (leBytes h.width (t.elem e).toNat) (List.replicate h.width (t.bad e)) with
    | .ok s _ _ => { a with s := s, progress := a.progress + 1, poison := a.poison || t.bad e }
    | r => { a with stop := some r }

/-- `e.st` into scratchpad, up to the first element beyond the window. -/
def storeWindow (k window : Nat) (h : StoreShape) (t : Tile) (a : StoreRun) (e : Nat × Nat) : StoreRun :=
  let x := h.addr e.1 e.2
  match a.stop with
  | some _ => a
  | none =>
    if window < x.toNat + h.width then { a with stop := some (.stop 0x07 x) }
    else { a with
      s := writeScratch a.s k x.toNat (leBytes h.width (t.elem e).toNat) (t.bad e)
      progress := a.progress + 1
      poison := a.poison || t.bad e }

/-- One element of `e.ast` in scratchpad. -/
def addWindow (k : Nat) (h : StoreShape) (t : Tile) (a : StoreRun) (e : Nat × Nat) : StoreRun :=
  let x := (h.addr e.1 e.2).toNat
  match Tab.get? a.s.skeins k with
  | none => a
  | some sk =>
    let bad := t.bad e || touchesPoison 8 sk.scratchPoison x 4
    let r := combineElem t.tag (BitVec.ofNat 32 (Mem.le sk.scratch x 4)) (t.elem e)
    { a with
      s := writeScratch a.s k x (leBytes 4 r.1.toNat) bad
      flags := orFlags a.flags r.2
      poison := a.poison || bad }

/-- What stops one row line of `e.ast` before it is applied: for a snapshot launch a page outside the package first (25_reliability
R351). -/
def lineObstacle (s : State) (p : Party) (t : Tile) (addr : DWord) : Option Elem :=
  let kind := MemKind.rmw (if t.tag = .i32 then 0 else 12) (if t.tag = .i32 then 0 else 6) false false
  match snapOf s p addr, translate s p.asid addr .write with
  | .outside, _ => some (.stop 0x14 addr)
  | _, .ok l cls _ => if unsupported kind l cls then some (.stop 0x23 addr) else writeObstacle s p [(addr, 4)]
  | _, _ => writeObstacle s p [(addr, 4)]

/-- One element of a row line added onto global memory. -/
def addGlobal (p : Party) (key : Nat) (h : StoreShape) (t : Tile) (a : StoreRun) (e : Nat × Nat) : StoreRun :=
  match readGlobal p key a.s [(h.addr e.1 e.2, 4)] with
  | .ok s bs b =>
    let bad := b.contains true || t.bad e
    let r := combineElem t.tag (BitVec.ofNat 32 (leNat bs)) (t.elem e)
    { a with
      s := writePieces p key s [(h.addr e.1 e.2, 4)] (leBytes 4 r.1.toNat) (List.replicate 4 bad)
      flags := orFlags a.flags r.2
      poison := a.poison || bad }
  | r => { a with stop := some r }

/-- `e.ast` into global memory: one row line, indivisibly; the following lines are the next steps. -/
def addLine (p : Party) (key : Nat) (h : StoreShape) (t : Tile) (a : StoreRun) (r : Nat) : StoreRun :=
  match a.stop with
  | some _ => a
  | none =>
    match lineObstacle a.s p t (h.addr r 0) with
    | some x => { a with stop := some x }
    | none =>
      let b := (List.range h.cols).foldl (fun a c => addGlobal p key h t a (r, c)) a
      { b with progress := b.progress + 1 }

/-- The elements of the row that a store into global memory continues with (R260, R266). -/
def StoreShape.rowFrom (h : StoreShape) (progress : Nat) : List (Nat × Nat) :=
  ((List.range h.cols).drop (progress % h.cols)).map fun c => (progress / h.cols, c)

/-- A tile store's outcome after a row or the whole of it: completed, to be continued by the same program in the next step,
stopped, or held (R260, R266). -/
def Ex.stored (x : Ex) (p : Party) (units total : Nat) (a : StoreRun) : Out :=
  let written := (a.progress - x.en.progress) * units
  let y := Ex.status { x with
    s := a.s
    wg := match Tab.get? a.s.wgs x.g with | some g => { g with engine := x.wg.engine } | none => x.wg
    en := { x.en with progress := a.progress, unack := x.en.unack.map fun n => n + written } } (engineFlags a.flags)
  let y := y.poisonIf a.poison
  match a.stop with
  | none =>
    if a.progress < total then .next { y.commit with focus := .engine x.g }
    else Ex.done { y with en := { y.en with progress := 0 } }
  | some (.stop cause _) => if 0x20 ≤ cause then y.stopFault cause else y.stop cause
  | some (.replay h addr w) => y.hold p h addr w
  | some (.page page) => Ex.wait { y with s := wantPage y.s p.launch page }
  | some .hole => .fault .physicalHole
  | some (.ok _ _ _) => y.wait

/-- The shape a store command's operands give; none for a bad control word. -/
def Ex.shape (x : Ex) (a b c : BitVec 6) : Option StoreShape :=
  let w := x.scalar c.toNat
  let rows := (w >>> 8).toNat % 128
  let cols := (w >>> 16).toNat % 64
  if w &&& 0xFFC080FE ≠ 0 ∨ 96 < rows ∨ 32 < cols then none
  else some
    { rows := if rows = 0 then 96 else rows, cols := if cols = 0 then 32 else cols, width := x.en.w.tag.bytes,
      base := x.scalar64 a.toNat, stride := (x.scalar b.toNat).toNat, scratch := w.getLsbD 0 }

/-- `e.st` (R260). -/
def execESt (a b c : BitVec 6) (s : State) : Out :=
  issueEngine (.eSt a b c) s fun x =>
    match x.shape a b c with
    | none => x.stop 0x04
    | some h =>
      let t := x.en.w
      let p := enginePartyOf x.s x.wg
      let start : StoreRun := { s := x.s, progress := x.en.progress, flags := noFlags, poison := false, stop := none }
      if h.base.toNat % h.width ≠ 0 ∨ h.stride % h.width ≠ 0 then x.stop 0x08
      else if h.scratch then x.stored p 1 (h.rows * h.cols) (h.elems.foldl (storeWindow x.wg.skein x.window h t) start)
      else x.stored p 1 (h.rows * h.cols) ((h.rowFrom x.en.progress).foldl (storeGlobal p (engineKey x.g) h t) start)

/-- `e.ast` (R260). -/
def execEAst (a b c : BitVec 6) (s : State) : Out :=
  issueEngine (.eAst a b c) s fun x =>
    let t := x.en.w
    if t.tag ≠ .i32 ∧ t.tag ≠ .f32 then x.stop 0x06
    else match x.shape a b c with
      | none => x.stop 0x04
      | some h =>
        let p := enginePartyOf x.s x.wg
        let start : StoreRun := { s := x.s, progress := x.en.progress, flags := noFlags, poison := false, stop := none }
        let align := if h.scratch then 4 else 128
        if h.base.toNat % align ≠ 0 ∨ h.stride % align ≠ 0 then x.stop 0x08
        else if h.scratch then
          if h.elems.any fun e => decide (x.window < (h.addr e.1 e.2).toNat + 4) then x.stop 0x07
          else
            let r := h.elems.foldl (addWindow x.wg.skein h t) start
            x.stored p h.cols h.rows { r with progress := h.rows }
        else x.stored p h.cols h.rows (addLine p (engineKey x.g) h t start x.en.progress)

/-! ### Synchronisation (R261) -/

/-- An engine command on a barrier object: ALIGN, ALLOTMENT, then its effect. -/
def Ex.withObject (x : Ex) (addr : Nat) (k : Skein → Out) : Out := x.withBytes addr 16 16 fun sk _ => k sk

/-- `e.arv` (R261): waits until the program's writes are acknowledged at sk scope.  A poisoned object stops a program that reads it,
at `e.wait`, and not one that arrives at it (25_reliability R345; DEDUCED, log entry 135). -/
def execEArv (a b : BitVec 6) (s : State) : Out :=
  issueEngine (.eArv a b) s fun x =>
    let addr := (x.scalar b.toNat).toNat
    x.withObject addr fun sk =>
      if x.en.unack.getD 1 0 ≠ 0 then x.wait
      else
        let token := barPhase sk.scratch addr
        let s1 := engineArrive x.s x.wg.skein addr x.en.pending.bits.toNat x.en.pending.bndcnt
        let y : Ex := { x with s := s1, en := { x.en with pending := { bits := 0, bndcnt := 0 } } }
        (y.putScalar a.toNat (BitVec.ofNat 32 token) false).done

/-- `e.wait` (R261, R160): a poisoned object stops the program (25_reliability R345). -/
def execEWait (a b c : BitVec 6) (s : State) : Out :=
  issueEngine (.eWait a b c) s fun x =>
    let addr := (x.scalar b.toNat).toNat
    x.withObject addr fun sk =>
      if touchesPoison 8 sk.scratchPoison addr 16 then x.stop 0x13
      else if barPhase sk.scratch addr = (x.scalar c.toNat).toNat then x.wait
      else
        let v := BitVec.ofNat 64 (statusAt sk.scratch addr)
        ((x.putScalar a.toNat (loWord v) false).putScalar (a.toNat + 1) (hiWord v) false).done

/-- `e.br` (R261). -/
def execEBr (a : BitVec 6) (o : BitVec 12) (s : State) : Out :=
  issueEngine (.eBr a o) s fun x =>
    if a = 0 ∨ x.scalar a.toNat ≠ 0 then
      .next (Ex.commit { x with en := { x.en with pc := x.en.pc + BitVec.ofInt 64 (4 * o.toInt) } })
    else x.done

/-- `e.end` (R261): the program ends once its writes are acknowledged at wg scope. -/
def execEEnd (s : State) : Out :=
  issueEngine .eEnd s fun x =>
    if x.en.unack.getD 0 0 ≠ 0 then x.wait
    else
      let y := x.leavePair
      let s1 := Ex.commit { y with en := { y.en with running := false, pending := { bits := 0, bndcnt := 0 } } }
      match x.wg.ring with
      | some r => .next (orStatusAt s1 x.wg.skein r.status.toNat x.en.pending.bits.toNat x.en.pending.bndcnt 0)
      | none => .next s1

end Sys2Proof.Machine
end

