-- ==== Sys2Proof/Machine/Near.lean ====
section
/-! DEFINITION. Near-memory commands: `xat.expr`, `xat.fill`, `xat.copy` (21_near_memory R311 to R319), and their stops
(R320 to R322). -/

namespace Sys2Proof.Machine

/-! ### Expressions (R312 to R314) -/

/-- What an operator of R313 does to the stack: how many values it pops and pushes; none for a byte that is no operator. -/
def exprShape (op : Nat) : Option (Nat × Nat) :=
  if op ≤ 0x03 ∨ (0x10 ≤ op ∧ op ≤ 0x13) ∨ op = 0x20 then some (0, 1)
  else if 0x30 ≤ op ∧ op ≤ 0x3A then some (2, 1)
  else if op = 0x40 ∨ op = 0x41 then some (3, 1)
  else if 0x50 ≤ op ∧ op ≤ 0x52 then some (1, 1)
  else if 0x60 ≤ op ∧ op ≤ 0x67 then some (2, 1)
  else if op = 0x70 then some (1, 2)
  else if op = 0x71 then some (2, 2)
  else if op = 0x72 then some (1, 0)
  else none

/-- TYPE of an expression's control word. -/
def exprType (d : List Byte) : Nat := descField d 76 4 % 32

/-- The stack depth after some operators; none where the check of R314 fails. -/
def exprDepth (int : Bool) : Nat → List Nat → Option Nat
  | n, [] => some n
  | n, op :: rest =>
    match exprShape op with
    | none => none
    | some (pops, pushes) =>
      if n < pops ∨ 4 < n - pops + pushes ∨ ((0x38 ≤ op ∧ op ≤ 0x3A) ∧ !int) then none
      else exprDepth int (n - pops + pushes) rest

/-- A descriptor passes the check of R314. -/
def exprOk (d : List Byte) : Bool :=
  let ctl := descField d 76 4
  let nops := ctl / 2 ^ 16 % 32
  let t := exprType d
  ctl / 2 ^ 5 % 8 == 0 && ctl / 2 ^ 13 % 8 == 0 && ctl / 2 ^ 21 == 0 && descField d 80 48 == 0 &&
  (t == 0 || t == 1 || t == 6) && ctl / 2 ^ 8 % 8 != 7 && decide (1 ≤ nops) && decide (nops ≤ 24) &&
  decide (descField d 72 4 ≤ 16384) && exprDepth (t != 6) 0 (exprOps d) == some 1 &&
  descField d 0 8 % 4 == 0 && (exprStreams d).all fun k => descField d (8 + 8 * k) 8 % 4 == 0

/-- What the operators of an expression read: its type and rounding, streams, destination, constants, and the index. -/
structure ExprCx where
  e : ElemCx
  stream : List Nat
  dst : Nat
  consts : List Nat
  index : Nat
  deriving DecidableEq, Repr

/-- The code of an integer in TYPE. -/
def exprInt (e : ElemCx) (n : Nat) : Nat := if classOfType e.t = .int then n else encodeNum .f32 (numOfInt n)

/-- An operator of one operand. -/
def exprUnary (x : ExprCx) (op a : Nat) : Nat :=
  match op with
  | 0x50 => (negElem x.e 0 a 0 0).1
  | 0x51 => (absElem x.e 0 a 0 0).1
  | _ => a ^^^ 0xFFFFFFFF

/-- An operator of two operands. -/
def exprBinary (x : ExprCx) (op a b : Nat) : Nat :=
  match op with
  | 0x30 => (addElem false x.e 0 a b 0).1
  | 0x31 => (addElem true x.e 0 a b 0).1
  | 0x32 => (mulElem x.e 0 a b 0).1
  | 0x33 => (minElem false false x.e 0 a b 0).1
  | 0x34 => (minElem true false x.e 0 a b 0).1
  | 0x35 => a &&& b
  | 0x36 => a ||| b
  | 0x37 => a ^^^ b
  | 0x38 => (shlElem x.e a b).1
  | 0x39 => (shrElem x.e a b).1
  | 0x3A => (sraElem x.e a b).1
  | _ => exprInt x.e (if (cmpElem x.e.t x.e.ftz (op % 8) a b).1 then 1 else 0)

/-- An operator of three operands: `fma`, and `sel`, whose chosen operand is read and written as every operator does. -/
def exprTernary (x : ExprCx) (op a b c : Nat) : Nat :=
  if op = 0x40 then (fmaElem x.e 0 a b c).1
  else if classOfType x.e.t = .int then (if c ≠ 0 then a else b)
  else
    let v := if (fpIn x.e c).1.isZero then b else a
    (fpUnary x.e v fun y => (y, noFlags)).1

/-- One operator on the stack, its top first (R313). -/
def exprStep (x : ExprCx) (stack : List Nat) (op : Nat) : List Nat :=
  if op ≤ 0x02 then x.stream.getD op 0 :: stack
  else if op = 0x03 then x.dst :: stack
  else if op ≤ 0x13 then x.consts.getD (op - 0x10) 0 :: stack
  else if op = 0x20 then exprInt x.e x.index :: stack
  else match stack with
    | [] => []
    | a :: r1 =>
      if op = 0x70 then a :: a :: r1
      else if op = 0x72 then r1
      else if 0x50 ≤ op ∧ op ≤ 0x52 then exprUnary x op a :: r1
      else match r1 with
        | [] => [a]
        | b :: r2 =>
          if op = 0x71 then b :: a :: r2
          else if op ≠ 0x40 ∧ op ≠ 0x41 then exprBinary x op b a :: r2
          else match r2 with
            | [] => [a, b]
            | c :: r3 => exprTernary x op c b a :: r3

/-- What names an element of a command whatever the timing: the launch's seed, the skein's coordinates, the workgroup, the counter,
the word that issued the command, the destination and the operands.  A command's number is none of it: warps that share a counter
take their numbers in the order in which they issue (03_numbers R61, 13_consistency R235). -/
def drawKey (s : State) (x : Cmd) (dst : Nat) (operands : List Nat) : List Nat :=
  let of_ : List Nat := match Tab.get? s.wgs x.wg with
    | none => []
    | some g => match Tab.get? s.skeins g.skein with
      | none => [g.index]
      | some k =>
        let seed := match Tab.get? s.launches k.launch with | some l => l.record.seed.toNat | none => 0
        [seed, k.x, k.y, k.z, g.index]
  of_ ++ [x.counter, x.pc.toNat, dst] ++ operands

/-- The operators in order, each told its place for a stochastic draw (DESIGN CHOICE, log entry 19). -/
def exprRun (x : ExprCx) (key : List Nat) : Nat → List Nat → List Nat → List Nat
  | _, stack, [] => stack
  | k, stack, op :: rest =>
    let y := { x with e := { x.e with bits := (Config.exprDraw (key ++ [x.index, k])).toNat } }
    exprRun x key (k + 1) (exprStep y stack op) rest

/-- The value an expression gives for an element. -/
def exprValue (d : List Byte) (key : List Nat) (e dst : Nat) (stream : List Nat) : Nat :=
  let ctl := descField d 76 4
  let cx : ElemCx :=
    { t := (elemTypeOf (exprType d)).getD .i32, rm := rndOfCode (ctl / 2 ^ 8 % 8), sat := ctl.testBit 11,
      ftz := ctl.testBit 12, bits := 0 }
  let x : ExprCx :=
    { e := cx, stream := stream, dst := dst, consts := (List.range 4).map fun k => descField d (32 + 4 * k) 4, index := e }
  (exprRun x key 0 [] (exprOps d)).headD 0

/-! ### The base dies' translation caches (R301, R320) -/

/-- The translations that a base die holds. -/
def baseOf (s : State) (stack : Nat) : List BaseEntry := Tab.getD s.xlate.baseDie stack []

/-- An entry translates an address for an ASID, with write permission where that is needed. -/
def BaseEntry.hits (x : BaseEntry) (asid : Nat) (a : DWord) (write : Bool) : Bool :=
  x.asid == asid && x.page == a.toNat % 2 ^ 57 / 2 ^ x.bits && (x.write || !write)

/-- The physical address of an address that an entry translates. -/
def BaseEntry.place (x : BaseEntry) (a : DWord) : Nat := x.pa + a.toNat % 2 ^ x.bits

/-- The physical address under which the base die of its stack holds a translation; none where no die does. -/
def baseLookup (s : State) (asid : Nat) (a : DWord) (write : Bool) : Option Nat :=
  (List.range 8).findSome? fun k =>
    ((baseOf s k).find? fun x => x.hits asid a write && hbmStack (x.place a) == k).map fun x => x.place a

/-- A translation installed in the base die of its stack, in place of an earlier one of its page; a full cache gives up its
oldest entry (DESIGN CHOICE, log entry 95). -/
def baseInstall (s : State) (x : BaseEntry) (stack : Nat) : State :=
  let l := (baseOf s stack).filter (fun y => !(y.asid == x.asid && y.bits == x.bits && y.page == x.page)) ++ [x]
  { s with xlate := { s.xlate with baseDie := Tab.put s.xlate.baseDie stack (l.drop (l.length - Config.baseEntries)) } }

/-- The page that maps an address may be written (R287). -/
def leafWritable (s : State) (asid : Nat) (va : DWord) : Bool :=
  match walk s asid (va.toNat % 2 ^ 57) with
  | .leaf e _ _ => pteField e 1 1 == 1
  | .stop _ => false

/-- The issuing die walks an operand's page ahead of the unit or controller, and installs it with the permission the page has, so
that source and destination of one page share its translation; a walk that faults installs nothing (R320). -/
def walkAhead (s : State) (asid : Nat) (expr : Bool) (a : DWord × Bool) : State :=
  match nearXl s asid expr a.1 a.2 with
  | .ok (.hbm pa) cls level =>
    let bits := max 16 (leafBits level)
    baseInstall s
      { asid := asid, bits := bits, page := a.1.toNat % 2 ^ 57 / 2 ^ bits, pa := pa - a.1.toNat % 2 ^ bits, cls := cls,
        write := leafWritable s asid a.1 } (hbmStack pa)
  | _ => s

/-- The pages of element or block e walked ahead. -/
def walkElem (s : State) (x : Cmd) (e : Nat) : State :=
  if nearTotal x.kind ≤ e then s
  else (nearAddrs x.kind e).foldl (fun s a => walkAhead s x.asid x.kind.isExpr a) s

/-! ### Elements and blocks (R315 to R318) -/

/-- A word read by an expression: its value and poison; overlapping writes of the command leave either value (R315, log
entry 18). -/
def exprRead (s0 s : State) (n e : Nat) (pa : Nat) : Nat × Bool :=
  let now := leNat (readLoc s (.hbm pa) 4)
  let old := leNat (readLoc s0 (.hbm pa) 4)
  (if now = old then now else if Config.overlapChoice n e then old else now, poisonLoc s (.hbm pa) 4)

/-- Element e of an expression performed. -/
def exprElem (s0 s : State) (n : Nat) (x : Cmd) (d : List Byte) (launch : Option Nat) (e : Nat) : State :=
  let dst := BitVec.ofNat 64 (descField d 0 8 + 4 * e)
  let place (k : Nat) : Option Nat := baseLookup s x.asid (BitVec.ofNat 64 (descField d (8 + 8 * k) 8 + 4 * e)) false
  match baseLookup s x.asid dst true with
  | none => s
  | some pa =>
    let read (k : Nat) : Nat × Bool :=
      if (exprStreams d).contains k then
        match place k with | some p => if p = pa then (leNat (readLoc s (.hbm pa) 4), poisonLoc s (.hbm pa) 4) else exprRead s0 s n e p | none => (0, false)
      else (0, false)
    let vals := (List.range 3).map read
    let bad := (vals.any fun v => v.2) || poisonLoc s (.hbm pa) 4
    let off (k : Nat) : Bool := descField d (8 + 8 * k) 8 % 32768 != descField d 0 8 % 32768
    let s1 := ((exprStreams d).filter off).foldl (fun s _ => countMisaligned s launch pa) s
    let m := leNat (readLoc s (.hbm pa) 4)
    let v := exprValue d (drawKey s x (descField d 0 8) (m :: vals.map fun v => v.1)) e m (vals.map fun v => v.1)
    writeLoc s1 (.hbm pa) (leBytes 4 v) bad

/-- A block of 4,096 bytes written whole: its contents and the poison of its 64 granules. -/
def writeBlock (s : State) (pa : Nat) (bs : List Byte) (bad : List Nat) : State :=
  let s1 := writeLoc s (.hbm pa) bs false
  { s1 with memPoison := s1.memPoison ++ bad.map fun k => pa / 64 + k }

/-- Block e of a row transfer or fill performed (R316, R317).  No cache holds a value of its own, so R318 asks for nothing
(DESIGN CHOICE, log entry 4). -/
def rowBlock (s0 s : State) (n : Nat) (x : Cmd) (e : Nat) : State :=
  match x.kind with
  | .fill dst _ =>
    (match baseLookup s x.asid (dst + BitVec.ofNat 64 (4096 * e)) true with
      | some pa => writeBlock s pa (List.replicate 4096 0) []
      | none => s)
  | .rowCopy dst src _ =>
    (match baseLookup s x.asid (dst + BitVec.ofNat 64 (4096 * e)) true,
        baseLookup s x.asid (src + BitVec.ofNat 64 (4096 * e)) false with
      | some pa, some from_ =>
        let old := if Config.overlapChoice n e then s0 else s
        writeBlock s pa (Mem.bytes old.mem from_ 4096)
          ((List.range 64).filter fun k => old.memPoison.contains (from_ / 64 + k))
      | _, _ => s)
  | _ => s

/-- What keeps element or block e from being performed: an absent translation, or a page to copy into the snapshot pool. -/
inductive NearBar where
  | none
  | absent (addr : DWord)
  | page (page : Nat)
  | hole
  deriving DecidableEq, Repr

/-- The bar before element or block e: a translation that its base die does not hold, or a page to copy first. -/
def nearBar (s : State) (p : Party) (x : Cmd) (e : Nat) : NearBar :=
  let as := nearAddrs x.kind e
  let dst := match as with | a :: _ => a.1 | [] => 0
  if as.any fun a => nearXl s x.asid x.kind.isExpr a.1 a.2 == .hole then .hole
  else if as.any fun a => (baseLookup s x.asid a.1 a.2).isNone then .absent dst
  else match snapOf s p dst with
    | .copy page => .page page
    | .free => .none
    | .outside => .absent dst

/-- How far a near-memory command came, how far its pages are walked, and what barred it. -/
structure NearRun where
  s : State
  progress : Nat
  walked : Nat
  bar : NearBar
  deriving DecidableEq, Repr

/-- Elements or blocks in ascending order, at most some: the issuing die walks the next one's pages ahead (R320). -/
def nearFrom (s0 : State) (p : Party) (n : Nat) (x : Cmd) : Nat → Nat → Nat → State → NearRun
  | 0, w, e, s => { s := s, progress := e, walked := w, bar := .none }
  | left + 1, w, e, s =>
    let s := if w ≤ e then walkElem s x e else s
    let s := if w ≤ e + 1 then walkElem s x (e + 1) else s
    match nearBar s p x e with
    | .none =>
      let s1 := match x.kind with
        | .expr d => exprElem s0 s n x d p.launch e
        | _ => rowBlock s0 s n x e
      nearFrom s0 p n x left (max w (e + 2)) (e + 1) s1
    | b => { s := s, progress := e, walked := max w (e + 2), bar := b }

/-- A near-memory command goes on for at most some elements or blocks: it completes, stops at an absent translation
(R320), or stands. -/
def nearAdvance (s : State) (n : Nat) (x : Cmd) (limit : Nat) : Out :=
  if cmdHeld s n || cmdPaused s x || x.phase != .active then .next s
  else
    let p := cmdParty s x
    let total := nearTotal x.kind
    let r := nearFrom s p n x (min limit (total - x.progress)) x.walked x.progress s
    let s1 := updCmd r.s n fun y => { y with progress := r.progress, walked := r.walked, issuer := none }
    match r.bar with
    | .none => .next (if total ≤ r.progress then finishCommand s1 n x 0 none else s1)
    | .absent a => .next (updCmd s1 n fun y => { y with phase := .stopped 0x15 a })
    | .page page => .next (wantPage s1 p.launch page)
    | .hole => .fault .physicalHole

/-- A command of the near-memory family. -/
def CmdKind.near : CmdKind → Bool
  | .expr _ => true
  | .fill _ _ => true
  | .rowCopy _ _ _ => true
  | .copy _ _ => false
  | .marker _ _ _ => false
  | .relay _ _ _ => false
  | .mred _ _ _ _ _ _ => false
  | .nput _ _ _ _ _ _ => false
  | .nget _ _ _ _ _ _ => false
  | .nsig _ _ _ _ _ => false

/-- A near-memory command completes once every write is performed in its stacks (R311); in a cancelled launch it ends where
it stands. -/
def execNearCommandComplete (n : Nat) (s : State) : Out :=
  match Tab.get? s.cmds n with
  | none => .next s
  | some x =>
    if !x.kind.near then .next s
    else if cmdCancelled s x then .next (finishCommand s n x (stopBits s x) none)
    else nearAdvance s n x (nearTotal x.kind)

/-- One block of a row transfer or fill commits (R317, R318). -/
def execRowTransferBlockCommit (n : Nat) (s : State) : Out :=
  match Tab.get? s.cmds n with
  | none => .next s
  | some x => match x.kind with
    | .fill _ _ => nearAdvance s n x 1
    | .rowCopy _ _ _ => nearAdvance s n x 1
    | _ => .next s

/-! ### Issue (R311) -/

/-- The issue of a near-memory command whose operands and checks gave a kind: number, first translation. -/
def Cx.nearIssue (c : Cx) (k : BitVec 3) (a : BitVec 6) (kind : CmdKind) : Out :=
  let p := partyOf c.s c.w
  let start := if nearTotal kind = 0 then NearStart.ok else nearStart c.s p.asid kind 0
  let snap := if nearTotal kind = 0 then [] else (nearAddrs kind 0).filter fun x => x.2
  if isSnapshot c.s c.w && snap.any fun x => snapOf c.s p x.1 == .outside then c.trapAt 0x14
  else
    let r := newCommand c.s c.w.wg c.wk k.toNat kind none p.asid
    let d := { c with s := updCmd r.1 r.2.1 fun y => { y with pc := c.here } }.putNumber a r.2.2
    match start with
    | .hole => .fault .physicalHole
    | .hold pages =>
      if faultRoom c.s p.die < pages.length then c.stall .other
      else
        let s1 := updCmd d.s r.2.1 fun y => { y with issuer := some (c.e, lowLane c.sp.lanes) }
        c.scalarDone { d with s := holdPages s1 p r.2.1 pages }
    | .fault cause addr =>
      if cause = 0x13 then c.trapAt 0x13
      else match Tab.get? d.s.cmds r.2.1 with
        | none => c.scalarDone d
        | some x =>
          let s1 := updCmd d.s r.2.1 fun y => { y with phase := .sent }
          let sp := { d.sp with faults := d.sp.faults ++ [nearEntry r.2.1 x cause addr] }
          c.scalarDone { d with s := s1, sp := sp }
    | .ok =>
      c.scalarDone { d with s := if nearTotal kind = 0 then endEmpty d.s r.2.1 else d.s }

/-- `xat.expr` (R311 to R314). -/
def execXatExpr (k : BitVec 3) (a b : BitVec 6) (s : State) : Out :=
  issueSplit (.xatExpr k a b) s fun c => c.releasing 2 fun c =>
    let da := (c.sp.scalar b.toNat).toNat
    c.withObject da 128 128 fun sk =>
      let d := Mem.bytes sk.scratch da 128
      if exprOk d then c.nearIssue k a (.expr d) else c.trapAt 0x04

/-- `xat.fill` (R311, R316). -/
def execXatFill (k : BitVec 3) (a b e : BitVec 6) (s : State) : Out :=
  issueSplit (.xatFill k a b e) s fun c => c.releasing 2 fun c =>
    let dst := c.sp.scalar64 b.toNat
    let len := (c.sp.scalar e.toNat).toNat
    if dst.toNat % 4096 ≠ 0 ∨ len % 4096 ≠ 0 then c.trapAt 0x08 else c.nearIssue k a (.fill dst len)

/-- `xat.copy` (R311, R317). -/
def execXatCopy (k : BitVec 3) (a b e : BitVec 6) (s : State) : Out :=
  issueSplit (.xatCopy k a b e) s fun c => c.releasing 2 fun c =>
    let dst := c.sp.scalar64 b.toNat
    let src := c.sp.scalar64 (b.toNat + 2)
    let len := (c.sp.scalar e.toNat).toNat
    if dst.toNat % 4096 ≠ 0 ∨ src.toNat % 4096 ≠ 0 ∨ len % 4096 ≠ 0 then c.trapAt 0x08
    else c.nearIssue k a (.rowCopy dst src len)

/-! ### The stop of a command (R320) -/

/-- A split that can take a NEAR_PROGRESS trap: stalled, or about to start a run, outside a handler and without a fault of
its own (DESIGN CHOICE, log entry 20). -/
def takesStop (sp : Split) : Bool :=
  !sp.trap.handler && sp.faults.isEmpty && sp.lanes != 0 &&
  (match sp.status with
    | .stalled => true
    | .ready => sp.run.pos == 0
    | .waiting => sp.run.words == [] && sp.run.pos == 0
    | .issuing => false
    | .parkedJoin _ => false
    | .parkedFault => false)

/-- The split of a warp that takes the stop: a stalled one, then one about to start a run, the lowest entry. -/
def stopTaker (w : Warp) : Option Nat :=
  match w.splits.find? fun p => takesStop p.2 && p.2.status == .stalled with
  | some p => some p.1
  | none => (w.splits.find? fun p => takesStop p.2).map fun p => p.1

/-- A split of the warp is left to take a stop by itself: ready, waiting or stalled, or issuing, and in no handler (R16, R320). -/
def Split.comes (sp : Split) : Bool :=
  !sp.trap.handler && sp.lanes != 0 &&
  (sp.status == .ready || sp.status == .waiting || sp.status == .stalled || sp.status == .issuing)

/-- The join that a split outside a handler is parked at, without a fault of its own. -/
def Split.parkedAt (sp : Split) : Option Nat :=
  match sp.status with
  | .parkedJoin j => if sp.trap.handler || !sp.faults.isEmpty then none else some j
  | _ => none

/-- No split of a warp comes by itself to take a stop: of those parked at a join, the one that holds the lowest lane, with its
join (R320). -/
def parkedTaker (w : Warp) : Option (Nat × Nat) :=
  if w.splits.any fun p => p.2.comes then none
  else (w.splits.foldl (fun (best : Option (Nat × Nat × Nat)) p =>
    match p.2.parkedAt with
    | none => best
    | some j => (match best with
      | none => some (lowLane p.2.lanes, p.1, j)
      | some b => if lowLane p.2.lanes < b.1 then some (lowLane p.2.lanes, p.1, j) else best)) none).map fun b => (b.2.1, b.2.2)

/-- The trap of a stop on a split (R320, R321): at its stalled instruction or run start, or out of its park. -/
def Cx.takeStop (c : Cx) (n : Nat) (x : Cmd) (addr : DWord) (fromPark : Option Nat) : Out :=
  match c.mustWait with
  | some _ => .next c.s
  | none =>
    let tpc := match fromPark with | some _ => c.sp.pc - 8 | none => c.here
    let resume := match fromPark with | some _ => c.sp.pc | none => c.here
    let d := { c with s := updCmd c.s n fun y => { y with phase := .sent } }
    d.enterTrap { cause := 0x15, code := 0, fetch := false, tpc := tpc, exec := 0, resume := resume, run := c.sp.run,
                  entries := [{ nearEntry n x 0x15 addr with pc := tpc, window := none, exec := some 0 }],
                  fromPark := fromPark }

/-- A command meets an absent translation and stops at an element or block; the stop is delivered as a trap to a split of
the issuing warp, or cancels the launch when all its lanes have exited (R320). -/
def execNearProgress (n : Nat) (s : State) : Out :=
  match Tab.get? s.cmds n with
  | none => .next s
  | some x =>
    if !x.kind.near || cmdHeld s n || cmdPaused s x then .next s
    else
      let dst := match nearAddrs x.kind x.progress with | a :: _ => a.1 | [] => 0
      let stop : Option DWord :=
        match x.phase with
        | .active => if x.progress < nearTotal x.kind then some dst else none
        | .stopped _ a => some a
        | .sent => none
      match stop, Tab.get? s.warps x.warp with
      | none, _ => .next s
      | some _, none => .next (match (cmdLaunch s x), (Tab.get? s.wgs x.wg).bind fun g => Tab.get? s.skeins g.skein with
          | some _, some k => cancelLaunch s k.launch
          | _, _ => s)
      | some a, some w =>
        let s1 := updCmd s n fun y => { y with phase := .stopped 0x15 a }
        if w.launched &&& ~~~w.exited = 0 then
          .next (match lnKey s1 w with | some l => cancelLaunch s1 l | none => s1)
        else match stopTaker w, parkedTaker w with
          | some e, _ => (match cxOf s1 x.warp e with | some c => c.takeStop n x a none | none => .next s1)
          | none, some (e, j) => (match cxOf s1 x.warp e with | some c => c.takeStop n x a (some j) | none => .next s1)
          | none, none => .next s1

end Sys2Proof.Machine
end

