-- ==== Sys2Proof/Machine/Service.lean ====
section
/-! DEFINITION. The service of waiting accesses: replay and refusal (11_memory R190, 19_translation R292 to R295), translation
caches and host pages (R289 to R293), and ASIDs (R285, 25_reliability R355). -/

namespace Sys2Proof.Machine

/-! ### Replay of a fault-buffer entry (R190, R294) -/

/-- What the waiting accesses ask of the page. -/
def Held.want (h : Held) : Want :=
  match h.waiter with
  | .fetch _ _ => .fetch
  | _ => if h.write then .write else .read

/-- An address is no longer one to wait for: its page is there, or its fault is not replayable, or is one of the host's pages where
it was not before, or the other way round. -/
def addressReady (s : State) (asid : Nat) (host : Bool) (want : Want) (va : DWord) : Bool :=
  match translate s asid va want with
  | .replay h => h != host
  | .hole => false
  | _ => true

/-- A waiting access may be tried again: some of its lanes need no longer wait for the page. -/
def Held.ready (s : State) (h : Held) : Bool :=
  match h.waiter with
  | .lanes _ _ _ reqs _ _ _ => reqs.any fun r => addressReady s h.asid h.host h.want r.va
  | _ => addressReady s h.asid h.host h.want h.va

/-- A waiting access of the warp, issued earlier, or by a lower lane of the same instruction, to a byte the request touches
(R189). -/
def heldEarlier (s : State) (wk : Nat) (kind : MemKind) (r : LaneReq) : Bool :=
  let first (q : LaneReq) : Bool := decide (q.order < r.order) || (q.order == r.order && decide (q.lane < r.lane))
  s.xlate.held.any fun h => match h.2.waiter with
    | .lanes w _ k reqs _ _ _ => w == wk && reqs.any fun q => first q && sameBytes s h.2.asid k kind q r
    | _ => false

/-- What waits on a fault-buffer entry for the lanes of an instruction. -/
structure Waiting where
  warp : Nat
  pend : Option Nat
  kind : MemKind
  pc : Pc
  opcode : Nat
  active : Mask
  /-- the instruction's place in the order of issue -/
  order : Nat
  deriving DecidableEq, Repr

/-- The place of some lanes' instruction in the order of issue. -/
def orderOf (reqs : List LaneReq) : Nat := match reqs with | r :: _ => r.order | [] => 0

/-- A pending result after some of its waiting lanes have finished: their values, and fewer lanes to wait for. -/
def Pend.land (p : Pend) (lanes : Mask) (share : Bool) (vals : List LaneVal) (gone : Mask) : Pend :=
  if p.dest.vector then
    { p with
      rows := addVals p.rows ((shareVals share vals).filter fun v => lanes.getLsbD v.lane)
      held := p.held &&& ~~~gone }
  else
    { p with
      rows := match vals with
        | v :: _ => p.rows.mapIdx fun k _ => [some (valWord v.val k, v.poison)]
        | [] => p.rows
      held := 0 }

/-- Non-replayable faults of waiting lanes brought to a split that holds them (R295): joined to the instruction's entry, or
a new one that traps at the end of the window, at the trailer, or at once when the window has passed (DEDUCED, log entry 21). -/
def Split.addFaults (sp : Split) (q : Waiting) (faults : List (Nat × LaneReq)) : Split :=
  let pend := q.pend.bind fun id => sp.pend.find? fun p => p.id == id
  let scalar : Bool := match pend with | some p => !p.dest.vector | none => false
  let mine := if scalar then faults else faults.filter fun x => sp.lanes.getLsbD x.2.lane
  let same (f : FaultEntry) : Bool := f.cmd.isNone && f.pend == q.pend && f.pc == q.pc
  match mine with
  | [] => sp
  | (cause, r) :: _ =>
    if q.pend.isSome && pend.isNone then sp
    else if sp.faults.any same then { sp with faults := sp.faults.map fun f => if same f then f.join mine else f }
    else
      let over_ : Option Nat := match pend with | some p => if p.inRun then none else some p.ran | none => r.again
      let f : FaultEntry :=
        { cause := cause, pc := q.pc, opcode := q.opcode, addr := r.va, active := if scalar then 1 else q.active &&& sp.lanes,
          done := 0, kind := q.kind, reqs := [], dest := pend.map fun p => p.dest,
          window := match pend with
            | some p => some (if p.inRun then p.window else 0)
            | none => r.again.map fun _ => 0
          cmd := none, pend := q.pend, exec := over_ }
      { sp with faults := sp.faults ++ [f.ofLanes (faultedReqs mine)] }

/-- Accesses of an instruction of a place in the order of issue that are no longer waited for, at every scope: the markers issued
after it count fewer (R190, R209). -/
def dropUnack (s : State) (wk n order : Nat) : State :=
  match Tab.get? s.warps wk with
  | none => s
  | some w =>
    mapMarkers { s with warps := Tab.put s.warps wk { w with unack := w.unack.map fun v => v - n } } wk
      fun k _ need => if order ≤ k then need - n else need

/-- Waiting lanes that finished brought to their warp: values, faults, counts, write-back. -/
def landLanes (s : State) (q : Waiting) (vals : List LaneVal) (faults : List (Nat × LaneReq)) : State :=
  match Tab.get? s.warps q.warp with
  | none => s
  | some w =>
    let gone := maskOf (vals.map (fun v => v.lane) ++ faults.map fun x => x.2.lane)
    let share := isShadow s w && q.kind.writes
    let split (sp : Split) : Split :=
      { sp with pend := sp.pend.map fun p => if some p.id = q.pend then p.land sp.lanes share vals gone else p }
    let f (sp : Split) : Split := (split sp).addFaults q faults
    let w1 := { w with
      splits := Tab.mapVal w.splits f, spill := w.spill.map fun (x : Spilled) => { x with split := f x.split } }
    let writes := q.kind.writes && !(q.kind.near && !q.kind.returns)
    let s1 := dropUnack { s with warps := Tab.put s.warps q.warp w1 } q.warp
      (if writes then faults.length else vals.length + faults.length) q.order
    settleWarp s1 q.warp

/-- A fault-buffer entry removed. -/
def dropHeld (s : State) (k : Nat) : State := { s with xlate := { s.xlate with held := Tab.del s.xlate.held k } }

/-- The lanes of an instruction that go on waiting, by page: the first page keeps the entry's number. -/
def holdAgain (k : Nat) (p : Party) (write : Bool) (w : List LaneReq → Waiter) : Bool → List HeldGroup → State → State
  | _, [], s => s
  | first, g :: rest, s =>
    holdAgain k p write w false rest
      (if first then holdAt s k p g.host g.va write (w g.reqs) else holdOne s p g.host g.va write (w g.reqs))

/-- A refused command of the network has bytes before the refused one still to send, or to place as they come (11_memory R205,
23_pod R341). -/
def Cmd.stopsLater (x : Cmd) (addr : DWord) : Bool :=
  match x.kind with
  | .nput _ _ _ _ _ _ => true
  | .nget a _ _ _ _ _ => decide (x.progress < (addr - a).toNat)
  | _ => false

/-- A command whose page was refused: a near-memory command becomes an entry of its split's faults (21_near_memory R311), one of the
network stops at the byte, and any other records its fault and completes (R205); one of a cancelled launch ends with ABORT
(17_scheduling R283). -/
def refuseCommand (s : State) (c cause : Nat) (addr : DWord) : State :=
  match Tab.get? s.cmds c with
  | none => s
  | some x =>
    if cmdCancelled s x then finishCommand s c x (stopBits s x) none
    else match x.issuer with
    | some _ =>
      let s1 := updCmd s c fun y => { y with phase := .sent, issuer := none }
      let f (e : Nat) (sp : Split) : Split :=
        if x.awaitedBy s x.warp e sp then { sp with faults := sp.faults ++ [nearEntry c x cause addr] } else sp
      State.updWarp s1 x.warp fun w => { w with
        splits := w.splits.map fun p => (p.1, f p.1 p.2)
        spill := w.spill.map fun (y : Spilled) => { y with split := f Config.splitEntries y.split } }
    | none =>
      if x.stopsLater addr then updCmd s c fun y => { y with phase := .stopped cause addr }
      else finishCommand s c x (statusFault + if x.poison then statusPoison else 0) (some cause)

/-- A command once a page it waited for has been serviced: the first translation of a near-memory command is made again, and
may fault now or wait for another page (21_near_memory R311, R321). -/
def retryCommand (s : State) (c : Nat) (p : Party) : State :=
  match Tab.get? s.cmds c with
  | none => s
  | some x =>
    if x.issuer.isNone || cmdHeld s c then s
    else match nearStart s x.asid x.kind x.progress with
      | .ok => updCmd s c fun y => { y with issuer := none }
      | .hole => updCmd s c fun y => { y with issuer := none }
      | .hold pages => holdPages s p c pages
      | .fault cause a => refuseCommand s c cause a

/-- A waiting access tried again: lanes perform their accesses, everything else simply goes on. -/
def retryHeld (s : State) (k : Nat) (h : Held) : State :=
  match h.waiter with
  | .lanes wk pend kind reqs pc opcode active =>
    (match Tab.get? s.warps wk with
      | none => dropHeld s k
      | some w =>
        let p := partyOf s w
        let a := reqs.foldl (replayLane p wk kind fun s r => heldEarlier s wk kind r)
          { s := dropHeld s k, vals := [], held := [], faults := [], poison := false, hole := false }
        let q : Waiting := { warp := wk, pend := pend, kind := kind, pc := pc, opcode := opcode, active := active, order := orderOf reqs }
        let again (l : List LaneReq) : Waiter := .lanes wk pend kind l pc opcode active
        landLanes (holdAgain k p h.write again true (groupHeld a.s p.asid a.held) a.s) q a.vals a.faults)
  | .command c => retryCommand (dropHeld s k) c { asid := h.asid, skein := none, launch := none, die := h.die }
  | .fetch _ _ => dropHeld s k
  | .engine _ => dropHeld s k
  | .retire _ => dropHeld s k
  | .stalled _ _ => dropHeld s k
  | .queue _ => dropHeld s k
  | .graph _ => dropHeld s k
  | .network _ => dropHeld s k

/-- A stalled instruction whose page or module is gone: it is tried again, and traps. -/
def refuseStalled (s : State) (wk e cause : Nat) : State :=
  State.updWarp s wk fun w => { w with splits := Tab.upd w.splits e fun (sp : Split) =>
    if sp.status = .stalled then { sp with stall := .refused cause, status := .ready, readyAt := s.ticks } else sp }

/-- The fetch of a split's run is refused: it traps before the run's first word, once the split's waiting accesses are serviced
(R294, R295). -/
def Cx.deniedFetch (c : Cx) (cause : Nat) : Out :=
  match c.mustWait with
  | some _ => .next (Cx.commit { c with sp := { c.sp with stall := .denied cause, status := .parkedFault } })
  | none => Cx.trapBefore { c with sp := { c.sp with stall := if c.sp.stall = .denied cause then .none else c.sp.stall } } cause true

/-- The waiting accesses of a fault-buffer entry become non-replayable faults of a cause (R292, R294). -/
def refuseHeld (s : State) (k : Nat) (h : Held) (cause : Nat) : State :=
  let s1 := dropHeld s k
  match h.waiter with
  | .lanes wk pend kind reqs pc opcode active =>
    landLanes s1 { warp := wk, pend := pend, kind := kind, pc := pc, opcode := opcode, active := active, order := orderOf reqs } []
      (reqs.map fun r => (cause, r))
  | .command c => refuseCommand (dropHeldCommand s1 c) c cause h.va
  | .fetch wk e => (match cxOf s1 wk e with
    | none => s1
    | some c => match c.deniedFetch cause with | .next t => t | _ => s1)
  | .engine g => { s1 with wgs := Tab.upd s1.wgs g fun x => { x with
      engine := x.engine.map fun en => { en with refused := some cause } } }
  | .retire l => { s1 with launches := Tab.upd s1.launches l fun x => { x with doneCause := some cause } }
  | .stalled wk e => refuseStalled s1 wk e cause
  | .queue q => { s1 with queues := Tab.upd s1.queues q fun x => { x with denied := true } }
  | .graph g => { s1 with graphs := Tab.upd s1.graphs g fun x => { x with denied := true } }
  | .network _ => s1

/-- Entries of the fault buffer that meet a condition, tried again in order. -/
def retryAll (s : State) (f : Held → Bool) : State :=
  s.xlate.held.foldl (fun t h => match Tab.get? t.xlate.held h.1 with
    | some x => if f x && x.ready t then retryHeld t h.1 x else t
    | none => t) s

/-- Entries of the fault buffer that meet a condition, refused in order. -/
def refuseAll (s : State) (f : Held → Bool) (cause : Nat) : State :=
  s.xlate.held.foldl (fun t h => match Tab.get? t.xlate.held h.1 with
    | some x => if f x then refuseHeld t h.1 x cause else t
    | none => t) s

/-! ### Frames and their owners (25_reliability R354, R355) -/

/-- The runs of 64 KiB frames of the local tier that a page table maps. -/
def leafRuns (s : State) : List Nat → Nat → List (Nat × Nat)
  | [], _ => []
  | level :: rest, table =>
    (List.range 512).flatMap fun idx =>
      let e := Mem.le s.mem (table + 8 * idx) 8
      if pteField e 0 1 = 0 then []
      else if level = 0 ∨ pteField e 3 1 = 1 then
        (if pteField e 8 2 = 0 then [(pteField e 16 36, max 1 (2 ^ leafBits level / 65536))] else [])
      else leafRuns s rest (pteField e 12 40 * 4096)

/-- A frame lies in some runs. -/
def inRuns (l : List (Nat × Nat)) (f : Nat) : Bool := l.any fun r => decide (r.1 ≤ f) && decide (f < r.1 + r.2)

/-- The ASID, or tenant, that a frame was last bound to. -/
def frameOwner (l : List (Nat × Nat × Nat)) (f : Nat) : Option Nat :=
  (l.find? fun r => decide (r.1 ≤ f) && decide (f < r.1 + r.2.1)).map fun r => r.2.2

/-- A frame last bound to another owner. -/
def changesOwner (l : List (Nat × Nat × Nat)) (owner f : Nat) : Bool :=
  match frameOwner l f with | some a => a != owner | none => false

/-- Frames of the local tier bound to an ASID: those last bound to another one are zeroed first (R355). -/
def bindFrames (s : State) (asid : Nat) (runs : List (Nat × Nat)) : State :=
  let moved (f : Nat) : Bool := inRuns runs f && changesOwner s.xlate.frames asid f
  { s with
    mem := s.mem.filter fun x => !moved (x.1 / 65536)
    memPoison := s.memPoison.filter fun g => !moved (g / 1024)
    xlate := { s.xlate with frames := runs.map (fun r => (r.1, r.2, asid)) ++ s.xlate.frames } }

/-- Frames of a module bound to a tenant: the module's controller fills those last bound to another one (R355). -/
def bindModuleFrames (s : State) (m first count tenant : Nat) : State :=
  { s with net := { s.net with modules := Tab.upd s.net.modules m fun x =>
      let moved (f : Nat) : Bool := inRuns [(first, count)] f && changesOwner x.tenants tenant f
      { x with
        mem := x.mem.filter fun y => !moved (y.1 / 65536)
        poison := x.poison.filter fun g => !moved (g / 1024)
        tenants := (first, count, tenant) :: x.tenants } } }

/-- The runs that an ASID's tables map. -/
def runsOf (s : State) (x : AddressContext) : List (Nat × Nat) := leafRuns s [4, 3, 2, 1, 0] x.root

/-- Every frame of a run was last bound to an ASID. -/
def runOwned (l : List (Nat × Nat × Nat)) (asid : Nat) (r : Nat × Nat) : Bool :=
  (List.range r.2).all fun k => frameOwner l (r.1 + k) == some asid

/-- A write has changed page tables: frames that a bound ASID has gained by it are bound to the ASID now, if firmware has not
bound them before (R355; DESIGN CHOICE, log entry 52). -/
def claimFrames (old s : State) : State :=
  s.xlate.contexts.foldl (fun t c =>
    let before := runsOf old c.2
    let gained := (runsOf s c.2).filter fun r => !before.contains r && !runOwned t.xlate.frames c.1 r
    if gained = [] then t else bindFrames t c.1 gained) s

/-! ### Device pages (R294) -/

/-- System software writes the entry of a page it has brought in; a level-0 page has 16 entries of consecutive frames
(R287).  A page in a fenced channel is not given out (25_reliability R354). -/
def writePte (s : State) (asid va : Nat) (pte : DWord) : State :=
  match Tab.get? s.xlate.contexts asid with
  | none => s
  | some x => match swapEntry s va x.root [4, 3, 2, 1, 0] with
    | none => s
    | some (at_, level) =>
      if pteField pte.toNat 8 2 = 0 ∧ pageWithdrawn s (pteField pte.toNat 12 40 * 4096) (max 16 (leafBits level)) = true then s
      else if level = 0 then
        let first := at_ / 128 * 128
        let e := pte.toNat - pteField pte.toNat 12 4 * 4096
        { s with mem := (List.range 16).foldl (fun m j => Mem.writeBytes m (first + 8 * j) (leBytes 8 (e + 4096 * j))) s.mem }
      else { s with mem := Mem.writeBytes s.mem at_ (leBytes 8 pte.toNat) }

/-- A page that is paged out: its walk meets SWAP. -/
def pagedOut (s : State) (asid : Nat) (va : DWord) : Bool :=
  match Tab.get? s.xlate.contexts asid with
  | none => false
  | some x => (swapEntry s (va.toNat % 2 ^ 57) x.root [4, 3, 2, 1, 0]).isSome

/-- System software services a replayable device fault that the fault buffer holds: the page is made valid and the waiting accesses
replay, or those that have an entry are refused (R294). -/
def execFaultService (asid : Nat) (va : BitVec 64) (ok : Bool) (pte : BitVec 64) (s : State) : Out :=
  let v := va.toNat % 2 ^ 57
  let mine (h : Held) : Bool := h.entry && h.asid == asid && !h.host && h.page == v / 2 ^ h.bits && pagedOut s asid h.va
  let page (h : Held) : Bool := h.asid == asid && !h.host && h.page == v / 2 ^ h.bits
  if !(s.xlate.held.any fun h => mine h.2) then .next s
  else if ok then .next (retryAll (claimFrames s (writePte s asid v pte)) page)
  else .next (refuseAll s mine 0x25)

/-! ### Host pages (R291 to R293) -/

/-- The waiting accesses to a 4 KiB host page. -/
def hostWaiter (asid page : Nat) (h : Held) : Bool := h.asid == asid && h.host && h.page == page

/-- An ATS completion cached, in place of an earlier one for its page; one that grants nothing is not (R289). -/
def cacheAts (s : State) (a : AtsEntry) : State :=
  let rest := s.xlate.ats.filter fun x => !(x.asid == a.asid && x.page == a.page)
  { s with xlate := { s.xlate with ats := if a.r || a.w then a :: rest else rest } }

/-- The first request that waits for the allocation becomes a page request, where the allocation has room (R291, R292). -/
def grantFirst (allocation open_ : Nat) : List PageRequest → List PageRequest
  | [] => []
  | q :: rest =>
    if q.stage = .withheld ∧ open_ < allocation then { q with stage := .page } :: grantFirst allocation (open_ + 1) rest
    else q :: grantFirst allocation open_ rest

/-- Page requests leave as far as the host's allocation goes, in order. -/
def grantPages (s : State) : State :=
  let open_ := (s.xlate.requests.filter fun q => q.stage == .page).length
  { s with xlate := { s.xlate with requests := grantFirst s.xlate.allocation open_ s.xlate.requests } }

/-- A waiting access needs a fault-buffer entry, has none, and finds one free (R294). -/
def Held.admissible (s : State) (h : Held) : Bool :=
  !h.entry && takesEntry s h.asid h.host h.va && decide (0 < faultRoom s h.die)

/-- Waiting accesses take fault-buffer entries in turn, as far as these are free (R294). -/
def giveEntries (s : State) : State :=
  s.xlate.held.foldl (fun t h =>
    if h.2.admissible t then { t with xlate := { t.xlate with held := Tab.put t.xlate.held h.1 { h.2 with entry := true } } } else t) s

/-- A withheld page has a waiting access with an entry, or none that waits: its page request may leave (R292). -/
def PageRequest.admitted (q : PageRequest) (s : State) : Bool :=
  let mine := s.xlate.held.filter fun h => hostWaiter q.asid q.page h.2
  q.stage == .blocked && (mine.isEmpty || mine.any fun h => h.2.entry)

/-- Some access or request may go on so. -/
def admitDue (s : State) : Bool :=
  (s.xlate.held.any fun h => h.2.admissible s) || s.xlate.requests.any fun q => q.admitted s

/-- Waiting accesses take the entries that are free, and the page requests of those that have one leave as the allocation goes (R292,
R294; DEDUCED, log entry 118). -/
def admitPages (s : State) : State :=
  let t := giveEntries s
  grantPages { t with xlate := { t.xlate with
    requests := t.xlate.requests.map fun q => if q.admitted t then { q with stage := .withheld } else q } }

/-- The page requests after a completion that withholds a permission: one for each page, which further faults join (R292). -/
def withhold (l : List PageRequest) (q : PageRequest) : List PageRequest :=
  if l.any fun x => x.asid == q.asid && x.page == q.page && x.stage != .translation then
    l.map fun x => x.joined q.asid q.page q.write
  else l ++ [{ q with stage := .blocked }]

/-- An ATS completion arrives for the page's first outstanding translation request: cached; the accesses it grants replay, and
those it does not go on to a page request (R291, R292; DEDUCED, log entry 92). -/
def execAtsTranslationCompletion (asid : Nat) (va : BitVec 64) (frame : Nat) (r w : Bool) (s : State) : Out :=
  let page := va.toNat % 2 ^ 57 / 4096
  let asked (q : PageRequest) : Bool := q.asid == asid && q.page == page && q.stage == .translation
  match s.xlate.requests.find? asked with
  | none => .next s
  | some q =>
    let s1 := cacheAts s { asid := asid, page := page, frame := frame, r := r, w := w }
    let rest := s1.xlate.requests.erase q
    let left := if q.write && !w || !q.write && !r then withhold rest q else rest
    .next (admitPages (retryAll { s1 with xlate := { s1.xlate with requests := left } } (hostWaiter asid page)))

/-- What still waits for a host page asks for its translation. -/
def askAgain (s : State) (asid page : Nat) : State :=
  s.xlate.held.foldl (fun t h => if hostWaiter asid page h.2 then askHost t asid page h.2.write else t) s

/-- A page request's response: on success the L7 translates again and replays, otherwise every access that the fault buffer holds for
the page becomes a fault HOSTDENIED; the allocation has room for the next request (R292). -/
def execPriPageResponse (asid : Nat) (va : BitVec 64) (ok : Bool) (frame : Nat) (r w : Bool) (s : State) : Out :=
  let page := va.toNat % 2 ^ 57 / 4096
  let asked (q : PageRequest) : Bool := q.asid == asid && q.page == page && q.stage == .page
  if !(s.xlate.requests.any asked) then .next s
  else
    let s1 := grantPages { s with xlate := { s.xlate with requests := s.xlate.requests.filter fun q => !asked q } }
    if ok then
      let s2 := cacheAts s1 { asid := asid, page := page, frame := frame, r := r, w := w }
      .next (askAgain (retryAll s2 (hostWaiter asid page)) asid page)
    else .next (askAgain (refuseAll s1 (fun h => h.entry && hostWaiter asid page h) 0x24) asid page)

/-! ### Invalidations (R290, R293) -/

/-- The writes of a party that are performed and not yet acknowledged at dev scope. -/
def partyWrites (s : State) (party : Nat) : Nat :=
  match Tab.get? s.warps party with
  | some w => w.unack.getD 2 0 - heldCount s party
  | none => match (Tab.get? s.wgs (party - 2 ^ 65)).bind fun g => g.engine with
    | some e => if 2 ^ 65 ≤ party then e.unack.getD 2 0 else 0
    | none => 0

/-- The parties that access memory under an ASID, or under any. -/
def partiesOf (s : State) (asid : Option Nat) : List Nat :=
  let mine (a : Nat) : Bool := match asid with | some x => x == a | none => true
  ((s.warps.filter fun w => mine (asidOf s w.2)).map fun w => w.1) ++
    (s.wgs.filter fun g => mine (enginePartyOf s g.2).asid).map fun g => engineKey g.1

/-- This package's contributions at the modules, by the commands that sent them: the result goes to the place that was translated
when they were sent, whatever has become of the command since (23_pod R334). -/
def contributions (s : State) : List (Nat × Nat) :=
  s.net.modules.flatMap fun m => (m.2.rounds.flatMap (fun r => r.contribs) ++ m.2.waiting.map fun w => w.2.2).filterMap fun c =>
    c.cmd.map fun n => (n, c.asid)

/-- An invalidation of an ASID's translations, or of all: it waits for what was performed under them (R290).  Which page a write
went to is not kept, so it waits for all the ASID's writes then under way (DEDUCED, log entry 93). -/
def startInvalidation (s : State) (asid : Option Nat) (host : Bool) : State :=
  let parties := partiesOf s asid
  let i : Invalidation :=
    { host := host
      writes := (parties.map fun p => (p, partyWrites s p)).filter fun x => x.2 != 0
      nearOps := (s.nearOps.filter fun x => parties.contains x.2.warp).map fun x => x.1
      queueOps := (s.net.queueOps.filter fun x => parties.contains x.2.warp).map fun x => x.1
      mreds := ((contributions s).filter fun x => match asid with | some a => x.2 == a | none => true).map fun x => x.1 }
  { s with xlate := { s.xlate with invalidations := s.xlate.invalidations ++ [i] } }

/-- Everything an invalidation waits for has been performed, and its writes acknowledged. -/
def Invalidation.complete (s : State) (i : Invalidation) : Bool :=
  (i.writes.all fun x => x.2 == 0 || partyWrites s x.1 == 0) &&
  (i.nearOps.all fun n => (Tab.get? s.nearOps n).isNone) && (i.queueOps.all fun n => (Tab.get? s.net.queueOps n).isNone) &&
  i.mreds.all fun n => !((contributions s).any fun x => x.1 == n)

/-- The first invalidation completes, once it may: the Invalidate Completion is sent, or firmware told (R290, R293). -/
def completeInvalidation (s : State) : State :=
  match s.xlate.invalidations with
  | [] => s
  | i :: rest =>
    if i.complete s then
      { s with xlate := { s.xlate with
        invalidations := rest
        invalidated := s.xlate.invalidated + if i.host then 1 else 0
        flushed := s.xlate.flushed + if i.host then 0 else 1 } }
    else s

/-- An ATS Invalidate Request: the completion leaves the caches, parked accesses are translated again, and the Invalidate
Completion is sent once the invalidation is complete, in the order of the requests (R290, R293).  A request beyond the queue's
depth is not accepted (DESIGN CHOICE, log entry 93). -/
def execAtsInvalidateRequest (asid : Nat) (va : BitVec 64) (s : State) : Out :=
  let page := va.toNat % 2 ^ 57 / 4096
  if Config.invalidateQueue ≤ (s.xlate.invalidations.filter fun i => i.host).length then .next s
  else
    let s1 := { s with xlate := { s.xlate with ats := s.xlate.ats.filter fun x => !(x.asid == asid && x.page == page) } }
    .next (completeInvalidation (startInvalidation s1 (some asid) true))

/-- Firmware invalidates the translation caches by ASID and range of addresses, or for every ASID (R290): the base dies' caches
and the ATS completions; the caches of R289 hold nothing of their own.  Accesses parked under a removed translation are
translated again. -/
def execTranslationInvalidate (asid : Option Nat) (lo hi : Nat) (s : State) : Out :=
  let named (a : Nat) : Bool := match asid with | some x => x == a | none => true
  let inRange (bits page : Nat) : Bool := decide (lo < (page + 1) * 2 ^ bits) && decide (page * 2 ^ bits < hi)
  let s1 := { s with xlate := { s.xlate with
    ats := s.xlate.ats.filter fun x => !(named x.asid && inRange 12 x.page)
    baseDie := Tab.mapVal s.xlate.baseDie fun (l : List BaseEntry) => l.filter fun x => !(named x.asid && inRange x.bits x.page) } }
  .next (completeInvalidation (startInvalidation (retryAll s1 fun h => named h.asid && inRange h.bits h.page) asid false))

/-- A conflicting access at the page's classifier turns a P or R page into S (R185). -/
def execReclassification (asid : Nat) (va : BitVec 64) (launch : Nat) (s : State) : Out :=
  .next (reclassify s asid (va.toNat % 2 ^ 57) (some launch))

/-! ### ASIDs (R285, R355) -/

/-- Firmware binds an ASID to a context; a binding beyond the 4,096th is refused, and one whose tables map withdrawn frames
(R354), and frames that change owner are zeroed first (R285, R355). -/
def execAsidBinding (asid : Nat) (c : AddressContext) (s : State) : Out :=
  let known := (Tab.get? s.xlate.contexts asid).isSome
  let lost (r : Nat × Nat) : Bool := pageWithdrawn s (r.1 * 65536) (if r.2 = 1 then 16 else 21)
  if 2 ^ 16 ≤ asid ∨ c.root % 4096 ≠ 0 ∨ (!known ∧ Config.boundAsids ≤ s.xlate.contexts.length) ∨
      (runsOf s c).any lost = true then .next s
  else
    let t := bindFrames s asid (runsOf s c)
    .next { t with xlate := { t.xlate with contexts := Tab.put t.xlate.contexts asid c } }

/-- An ASID is freed: its translation, base-die and reply-cache entries are removed; no cache holds a line of its own (R355;
DESIGN CHOICE, log entry 4). -/
def execAsidFreeing (asid : Nat) (s : State) : Out :=
  let keep (t : FarTarget) : FarTarget := { t with cache := t.cache.filter fun x => x.2.asid != asid }
  .next { s with
    targets := Tab.mapVal s.targets keep
    xlate := { s.xlate with
      contexts := Tab.del s.xlate.contexts asid
      ats := s.xlate.ats.filter fun x => x.asid != asid
      baseDie := Tab.mapVal s.xlate.baseDie fun (l : List BaseEntry) => l.filter fun x => x.asid != asid
      requests := s.xlate.requests.filter fun q => q.asid != asid } }

end Sys2Proof.Machine
end

