-- ==== Sys2Proof/Machine/Pod.lean ====
section
/-! DEFINITION. Pods: module ports, grants, relays and losses (23_pod R323 to R330), module queues (R331, R332), module
reductions (R333, R334), and `mrelay` (R335). -/

namespace Sys2Proof.Machine

/-! ### The wiring of a pod (R324) -/

/-- The packages of a module in ascending order: for q = 2 as R324 gives them, otherwise as firmware's incidence table does. -/
def headsOf (s : State) (m : Nat) : List Nat :=
  (List.range (podSize s)).filter fun p =>
    if s.net.podq = 2 then p == m || p == (m + 1) % 7 || p == (m + 3) % 7
    else ((Tab.get? s.net.heads m).getD []).contains p

/-- The head number of a package on a module; none where it has none. -/
def headOf (s : State) (m p : Nat) : Option Nat := (headsOf s m).findIdx? fun x => x == p

/-- A module that holds nothing. -/
def Module.empty : Module :=
  { mem := [], poison := [], lost := false, rounds := [], waiting := [], grants := [], tenants := [] }

/-- The state with a record of a module. -/
def State.withModule (s : State) (m : Nat) : State :=
  match Tab.get? s.net.modules m with
  | some _ => s
  | none => { s with net := { s.net with modules := Tab.put s.net.modules m Module.empty } }

/-- A module's record changed. -/
def updModule (s : State) (m : Nat) (f : Module → Module) : State :=
  { s with net := { s.net with modules := Tab.upd s.net.modules m f } }

/-- A module is reached live: known, and not lost. -/
def liveModule (s : State) (m : Nat) : Bool :=
  match Tab.get? s.net.modules m with | some x => !x.lost | none => false

/-! ### Grants (13_consistency R224) -/

/-- Every grant of some pages of a module goes: a request that needs the page for itself. -/
def Module.dropGrants (x : Module) (first n : Nat) : Module :=
  { x with grants := x.grants.filter fun g => !(decide (first ≤ g.page) && decide (g.page < first + n)) }

/-- A page-level back-invalidation: this package's lines of the page are written back and its grant goes (R224).  No cache
holds a value of its own (DESIGN CHOICE, log entry 4). -/
def execBackInvalidation (m page : Nat) (s : State) : Out :=
  .next (updModule s m fun x => { x with grants := x.grants.filter fun g => !(g.page == page && g.pkg == s.net.podpos) })

/-- A module grants this package shared or exclusive access to a page, conflicting holders gone first (R224). -/
def execModuleGrant (m page : Nat) (excl : Bool) (s : State) : Out :=
  if !touchesModule s m || !liveModule s m then .next s
  else
    .next (updModule s m fun x =>
      let me := s.net.podpos
      let mine := (x.grants.find? fun g => g.page == page && g.pkg == me).getD { page := page, pkg := me, excl := false, dirty := [] }
      let others := x.grants.filter fun g => g.page != page || (g.pkg != me && !excl && !g.excl)
      { x with grants := others ++ [{ mine with excl := mine.excl || excl }] })

/-- A write of another package to its module: its exclusive grant, and a notice for each line (R224, R330). -/
def foreignWrite (s : State) (m pkg off : Nat) (bs : List Byte) : State :=
  if podSize s ≤ m ∨ bs = [] ∨ liveModule (s.withModule m) m = false ∨ 65536 < off % 65536 + bs.length then s
  else
    let page := off / 65536
    let lines := granules 128 off bs.length
    let s1 := writeLoc (s.withModule m) (.module m off false) bs false
    updModule s1 m fun x =>
      let mine := (x.grants.find? fun g => g.page == page && g.pkg == pkg).getD { page := page, pkg := pkg, excl := true, dirty := [] }
      let others := x.grants.filter fun g => g.page != page
      { x with grants := others ++ [{ mine with
          excl := true, dirty := mine.dirty ++ lines.filter fun l => !mine.dirty.contains l }] }

/-- Another package writes back a line of a page that it holds exclusively: no notice of the line is left (R330). -/
def lineWriteBack (s : State) (m pkg line : Nat) : State :=
  updModule s m fun x => { x with grants := x.grants.map fun g =>
    if g.pkg = pkg then { g with dirty := g.dirty.filter fun l => l != line } else g }

/-! ### Relays (R327, R328) -/

/-- The module that this package shares with another (R324). -/
def sharedModule (s : State) (p : Nat) : Option Nat :=
  (List.range (podSize s)).find? fun m => (headOf s m p).isSome && (headOf s m s.net.podpos).isSome

/-- This package reaches a relay package over a live module that it shares with it (R327, R328). -/
def reachesPackage (s : State) (p : Nat) : Bool :=
  match sharedModule s p with
  | some m => liveModule s m && touchesModule s m && !s.net.lostPackages.contains p
  | none => false

/-- A relay package gives a route to a module that this package does not touch: another package that is reached, and the module is one
of its own and live (R327, R328). -/
def routeOk (s : State) (m c : Nat) : Bool :=
  !touchesModule s m && c != s.net.podpos && decide (m < podSize s) && liveModule (s.withModule m) m && reachesPackage s c && (headOf s m c).isSome

/-- The routes that the wiring still allows: another takes the place of one that is gone once firmware installs it (R327). -/
def keepRoutes (s : State) : State :=
  { s with net := { s.net with routes := s.net.routes.filter fun r => routeOk s r.1 r.2 } }

/-- Firmware brings up a module port; it refuses one whose module does not report the extensions, and one whose module another port
leads to (R323, R324).  A fenced port stays down (25_reliability R354), and a route that the new wiring does not allow is gone. -/
def execModulePortBringUp (port m : Nat) (ext : Bool) (s : State) : Out :=
  if ext = true ∧ s.plat.fenced.contains (.modulePort port) = false ∧ port < Config.modulePorts ∧ port ≤ s.net.podq ∧
      m < podSize s ∧ (headOf s m s.net.podpos).isSome = true ∧ (s.net.ports.all fun p => p.1 == port || p.2 != m) = true then
    .next (keepRoutes (State.withModule { s with net := { s.net with ports := Tab.put s.net.ports port m } } m))
  else .next s

/-- The relay engine performs a forwarded access on a module this package touches, once (R327): holders of a conflicting grant
are back-invalidated first (R224). -/
def execRelayForward (acc : RelayAccess) (s : State) : Out :=
  let ok (m : Nat) : Bool := touchesModule s m && liveModule s m
  match acc with
  | .read m off _ => .next (if ok m then relayGrants s m off false else s)
  | .write m off data =>
    .next (if ok m then writeLoc (relayGrants s m off true) (.module m off false) data false else s)
  | .atomic m off op type v v2 =>
    if ok m then
      let n := if isWide64 type then 8 else 4
      let l := Loc.module m off false
      let old := leNat (readLoc s l n)
      .next (writeLoc (relayGrants s m off true) l
        (leBytes n (atomNew op type old (v.toNat % 2 ^ (8 * n)) (v2.toNat % 2 ^ (8 * n)))) (poisonLoc s l n))
    else .next s

/-- Firmware installs a new route, or finds none: the waiting accesses use it, or take their fault (R328). -/
def execRouteInstall (m : Nat) (route : Option Nat) (s : State) : Out :=
  let net := { s.net with rerouting := s.net.rerouting.filter fun x => x != m }
  match route with
  | some c =>
    if routeOk s m c = false then .next s
    else .next (retryAll (State.withModule { s with net := { net with routes := Tab.put net.routes m c } } m) fun _ => true)
  | none => .next (retryAll { s with net := { net with routes := Tab.del net.routes m } } fun _ => true)

/-! ### Queue operations (R331, R332) -/

/-- A header is valid (R331, R332); one that is not 64-byte aligned is not a header (DEDUCED, log entry 22). -/
def mqHeaderOk (x : Module) (off : Nat) : Bool :=
  let n := Mem.le x.mem off 4
  off % 64 == 0 && [2, 4, 8, 16, 32, 64, 128, 256, 512].contains n && Mem.le x.mem (off + 12) 52 == 0 &&
  decide (off % 65536 + 64 * (n + 1) ≤ 65536)

/-- `mq.put` at the module: the status, and the module after (R332).  The module needs the header's page for itself, whatever the status,
and every grant of it goes first (13_consistency R224). -/
def mqPutAt (y : Module) (off : Nat) (record : List Byte) (bad : Bool) : Nat × Module :=
  let x := y.dropGrants (off / 65536) 1
  let n := Mem.le x.mem off 4
  let head := Mem.le x.mem (off + 4) 4
  let tail := Mem.le x.mem (off + 8) 4
  if !mqHeaderOk x off then (2, x)
  else if (tail + 2 ^ 32 - head) % 2 ^ 32 = n then (1, x)
  else
    let slot := off + 64 + 64 * (tail % n)
    (0, { x with
      mem := Mem.writeBytes (Mem.writeBytes x.mem slot record) (off + 8) (leBytes 4 (tail + 1))
      poison := poisonAfter 64 x.poison slot 64 bad })

/-- `mq.get` at the module: the status, the record, its poison, and the module after, grants as for `mq.put` (R332). -/
def mqGetAt (y : Module) (off : Nat) : Nat × List Byte × Bool × Module :=
  let x := y.dropGrants (off / 65536) 1
  let n := Mem.le x.mem off 4
  let head := Mem.le x.mem (off + 4) 4
  let tail := Mem.le x.mem (off + 8) 4
  if !mqHeaderOk x off then (2, [], false, x)
  else if tail = head then (1, [], false, x)
  else
    let slot := off + 64 + 64 * (head % n)
    (0, Mem.bytes x.mem slot 64, touchesPoison 64 x.poison slot 64,
      { x with mem := Mem.writeBytes x.mem (off + 4) (leBytes 4 (head + 1)) })

/-- A queue instruction's wait ends in some way, and its split is ready again (01_machine R16). -/
def endQueueOp (s : State) (n : Nat) (q : QueueOp) (stall : Stall) : State :=
  State.updWarp { s with net := { s.net with queueOps := Tab.del s.net.queueOps n } } q.warp fun w =>
    { w with splits := Tab.upd w.splits q.entry fun (sp : Split) =>
      { sp with stall := stall, status := .ready, readyAt := s.ticks } }

/-- The skein of a warp by number. -/
def skeinOfWarp (s : State) (wk : Nat) : Option Nat :=
  ((Tab.get? s.warps wk).bind fun w => wgOf s w).map fun g => g.skein

/-- The module performs a queue operation indivisibly and answers (R332). -/
def execMqModuleAnswer (src : MqSource) (s : State) : Out :=
  match src with
  | .otherPut m off record =>
    .next (if liveModule s m && record.length == 64 then updModule s m fun x => (mqPutAt x off record false).2 else s)
  | .otherGet m off => .next (if liveModule s m then updModule s m fun x => (mqGetAt x off).2.2.2 else s)
  | .own n =>
    match Tab.get? s.net.queueOps n with
    | none => .next s
    | some q => match Tab.get? s.net.modules q.module with
      | none => .next (endQueueOp s n q (.refused 0x27))
      | some x =>
        if q.put then
          let r := mqPutAt x q.off q.record q.bad
          .next (endQueueOp (updModule s q.module fun _ => r.2) n q (.queue n (some r.1)))
        else
          let r := mqGetAt x q.off
          let s1 := endQueueOp (updModule s q.module fun _ => r.2.2.2) n q (.queue n (some r.1))
          .next (match r.1, skeinOfWarp s q.warp with
            | 0, some k => writeScratch s1 k q.local_.toNat r.2.1 r.2.2.1
            | _, _ => s1)

/-- A split stalled on a page that a stalled instruction needs (R294, R332). -/
def Cx.holdStalled (c : Cx) (p : Party) (host : Bool) (addr : DWord) (write : Bool) : Out :=
  let mine : Waiter := .stalled c.wk c.e
  if (c.s.xlate.held.any fun h => h.2.waiter == mine) || noRoom c.s p host addr then c.stall .other
  else Cx.stall { c with s := holdOne c.s p host addr write mine } .other

/-- The bytes of a queue: its header, and the slots of a valid one (R331). -/
def queueBytes (s : State) (m off : Nat) : Nat :=
  match Tab.get? s.net.modules m with
  | some x => if mqHeaderOk x off then 64 * (Mem.le x.mem off 4 + 1) else 64
  | none => 64

/-- A waiting access of the warp to a byte of a queue: its own queue instruction takes effect after it (11_memory R189,
13_consistency R219). -/
def heldAtQueue (s : State) (wk m off : Nat) : Bool :=
  s.xlate.held.any fun h => match h.2.waiter with
    | .lanes w _ k reqs _ _ _ => w == wk && reqs.any fun q =>
        k.mayTouch s h.2.asid q.va (.module m off false) (queueBytes s m off)
    | _ => false

/-- The issue and the answer of a queue instruction (R332).  Both forms write the header, so both need W, and a fault of the header's
translation comes before the class and target of its page (DEDUCED, log entry 132). -/
def Cx.queueInstr (c : Cx) (put : Bool) (a b e : BitVec 6) : Out :=
  match c.sp.stall with
  | .queue _ (some st) => c.scalarDone (c.putScalar a.toNat (BitVec.ofNat 32 st))
  | .queue n none => c.stall (.queue n none)
  | _ =>
    let go (c : Cx) : Out :=
      let l := c.sp.scalar e.toNat
      let addr := c.sp.scalar64 b.toNat
      c.withObject l.toNat 64 64 fun sk =>
        if isSnapshot c.s c.w then c.trapAt 0x14
        else
          let p := partyOf c.s c.w
          match translate c.s p.asid addr .write with
          | .fault cause => c.trapAt cause
          | .poison => c.trapAt 0x13
          | .hole => .fault .physicalHole
          | .replay true => c.trapAt 0x23
          | .replay false => c.holdStalled p false addr true
          | .ok (.hbm _) _ _ => c.trapAt 0x23
          | .ok (.host _) _ _ => c.trapAt 0x23
          | .ok (.module m off _) _ _ =>
            if heldAtQueue c.s c.wk m off then c.stall .other
            else
            let n := c.s.fresh
            let q : QueueOp :=
              { warp := c.wk, entry := c.e, put := put, module := m, off := off,
                record := if put then Mem.bytes sk.scratch l.toNat 64 else [], local_ := l,
                bad := put && touchesPoison 8 sk.scratchPoison l.toNat 64 }
            Cx.stall { c with s := { c.s with
              fresh := n + 1, net := { c.s.net with queueOps := Tab.put c.s.net.queueOps n q } } } (.queue n none)
    if put then c.releasing 3 go else go c

/-- `mq.put` (R332). -/
def execMqPut (a b e : BitVec 6) (s : State) : Out := issueSplit (.mqPut a b e) s fun c => c.queueInstr true a b e

/-- `mq.get` (R332). -/
def execMqGet (a b e : BitVec 6) (s : State) : Out := issueSplit (.mqGet a b e) s fun c => c.queueInstr false a b e

/-! ### Module reductions (R333, R334) -/

/-- The element operation of a reduction, as an operation and TYPE code of R196 and R306 (R333). -/
def mredOp (op : Nat) : Nat × Nat :=
  match op with
  | 0 => (0, 0)
  | 1 => (12, 6)
  | 2 => (12, 7)
  | 3 => (14, 6)
  | 4 => (13, 6)
  | 5 => (2, 0)
  | 6 => (1, 0)
  | _ => (6, 0)

/-- Two lists of elements combined. -/
def combine (op : Nat) (a b : List Word) : List Word :=
  List.zipWith (fun (x y : Word) => BitVec.ofNat 32 (atomNew (mredOp op).1 (mredOp op).2 x.toNat y.toNat 0)) a b

/-- A contribution placed among others by its head, ascending. -/
def insertHead (x : Contribution) : List Contribution → List Contribution
  | [] => [x]
  | y :: rest => if x.head < y.head then x :: y :: rest else y :: insertHead x rest

/-- An element as a reduction writes it: under a floating-point operation every NaN is the canonical one, that of a lone contributor
too (R333, 03_numbers R52). -/
def reducedWord (op : Nat) (w : Word) : Word :=
  let canon (f : Fmt) (v : Nat) : Nat := if (decodeNum f v).isNan then canonNan f else v
  if op = 1 ∨ op = 3 ∨ op = 4 then BitVec.ofNat 32 (canon .f32 w.toNat)
  else if op = 2 then BitVec.ofNat 32 (canon .bf16 (w.toNat % 65536) + 65536 * canon .bf16 (w.toNat / 65536))
  else w

/-- The result of a round: the lowest head's elements, each further head's combined into them in ascending order. -/
def roundResult (l : List Contribution) : List Word :=
  match l.foldr insertHead [] with
  | [] => []
  | x :: rest => (rest.foldl (fun r y => combine x.op r y.data) x.data).map (reducedWord x.op)

/-- A contributor's command completes, with a fault where there is one. -/
def finishOwn (s : State) (cmd : Option Nat) (fault : Option Nat) : State :=
  match cmd with
  | none => s
  | some n => match Tab.get? s.cmds n with
    | none => s
    | some x => finishCommand s n x (if fault.isSome then statusFault else 0) fault

/-- Every command of some contributions completes. -/
def finishAllOwn (s : State) (l : List Contribution) (fault : Option Nat) : State :=
  l.foldl (fun s c => finishOwn s c.cmd fault) s

/-- A round expects a package that is lost (R334). -/
def expectsLost (s : State) (m expect : Nat) : Bool :=
  s.net.lostPackages.any fun p => match headOf s m p with | some h => expect.testBit h | none => false

/-- A complete round takes effect (R334). -/
def closeRound (s : State) (m : Nat) (r : Round) : State :=
  let s1 := updModule s m fun x => { x with rounds := x.rounds.filter fun y => !(y.off == r.off && y.epoch == r.epoch) }
  match r.contribs with
  | [] => s1
  | c :: _ =>
    if r.contribs.all fun d => d.op == c.op && d.count == c.count && d.expect == c.expect then
      let bytes := (roundResult r.contribs).flatMap fun w => leBytes 4 w.toNat
      let s2 := if bytes = [] then s1
        else writeLoc (updModule s1 m fun x => x.dropGrants (r.off / 65536) (bytes.length / 65536 + 2))
          (.module m r.off false) bytes (r.contribs.any fun d => d.bad)
      finishAllOwn s2 r.contribs none
    else finishAllOwn s1 r.contribs (some 0x04)

/-- Every head that a round's first contribution expects has contributed; where the contributions differ in EXPECT, the first one's
decides (R334; DESIGN CHOICE, log entry 133). -/
def Round.complete (r : Round) : Bool :=
  match r.contribs with
  | [] => false
  | c :: _ => (List.range 17).all fun h => !c.expect.testBit h || r.contribs.any fun d => d.head == h

/-- A contribution reaches its module (R334): it is refused, joins or opens a round, or waits for one. -/
def contribute (s : State) (m off : Nat) (epoch : BitVec 32) (c : Contribution) : State :=
  match Tab.get? s.net.modules m with
  | none => finishOwn s c.cmd (some 0x27)
  | some x =>
    if x.lost || expectsLost s m c.expect then finishOwn s c.cmd (some 0x27)
    else if !c.expect.testBit c.head then finishOwn s c.cmd (some 0x04)
    else match x.rounds.find? fun r => r.off == off && r.epoch == epoch with
      | some r =>
        if r.contribs.any fun d => d.head == c.head then finishOwn s c.cmd (some 0x04)
        else
          let r1 := { r with contribs := r.contribs ++ [c] }
          let s1 := updModule s m fun x => { x with
            rounds := x.rounds.map fun y => if y.off = off ∧ y.epoch = epoch then r1 else y }
          if r1.complete then closeRound s1 m r1 else s1
      | none =>
        if Config.openRounds ≤ x.rounds.length then
          updModule s m fun x => { x with waiting := x.waiting ++ [(off, epoch, c)] }
        else
          let r1 : Round := { off := off, epoch := epoch, contribs := [c] }
          let s1 := updModule s m fun x => { x with rounds := x.rounds ++ [r1] }
          if r1.complete then closeRound s1 m r1 else s1

/-- The first waiting contribution that can proceed does so: its round is open, or there is room for one. -/
def admitWaiting (m : Nat) (s : State) : State :=
  match Tab.get? s.net.modules m with
  | none => s
  | some x =>
    let can (w : Nat × BitVec 32 × Contribution) : Bool :=
      decide (x.rounds.length < Config.openRounds) || x.rounds.any fun r => r.off == w.1 && r.epoch == w.2.1
    match x.waiting.findIdx? can with
    | none => s
    | some k => match x.waiting.drop k with
      | [] => s
      | w :: _ => contribute (updModule s m fun y => { y with waiting := y.waiting.eraseIdx k }) m w.1 w.2.1 w.2.2

/-- The waiting contributions of a module proceed as far as they can. -/
def admitAll (s : State) (m : Nat) : State :=
  match Tab.get? s.net.modules m with
  | none => s
  | some x => x.waiting.foldl (fun s _ => admitWaiting m s) s

/-- A contribution, and those that waited behind it. -/
def contributeAll (s : State) (m off : Nat) (epoch : BitVec 32) (c : Contribution) : State :=
  admitAll (contribute s m off epoch c) m

/-- What keeps an address from being a local-tier source (R333); the cause of one of another tier is the model's (DEDUCED, log
entry 117). -/
def localBar (s : State) (asid : Nat) (a : DWord) : Option Elem :=
  match translate s asid a .read with
  | .ok (.hbm _) _ _ => none
  | .ok (.module _ _ _) _ _ => some (.stop 0x23 a)
  | .ok (.host _) _ _ => some (.stop 0x23 a)
  | .replay true => some (.stop 0x23 a)
  | .replay false => some (.replay false a false)
  | .fault c => some (.stop c a)
  | .poison => some (.stop 0x13 a)
  | .hole => some .hole

/-- The words of a contribution read from the local tier. -/
def readWords (s : State) (p : Party) (wk : Nat) (src : DWord) (count : Nat) : Elem :=
  let at_ (e : Nat) : DWord := src + BitVec.ofNat 64 (4 * e)
  match (List.range count).findSome? fun e => localBar s p.asid (at_ e) with
  | some x => x
  | none => readGlobal p wk s ((List.range count).map fun e => (at_ e, 4))

/-- The words of some bytes. -/
def wordsOf (bs : List Byte) : List Word :=
  (List.range (bs.length / 4)).map fun k => BitVec.ofNat 32 (leNat ((bs.drop (4 * k)).take 4))

/-- A page lies in the relay tier, whatever its route (R325). -/
def relayTier (s : State) (asid : Nat) (va : DWord) : Bool :=
  (leafModule s asid va).any fun m => !moduleGone s m && !touchesModule s m

/-- The translation of a word of a result: a page of the relay tier is refused at once, with or without a route (R334). -/
def resultXl (s : State) (asid : Nat) (va : DWord) : Xl :=
  match translate s asid va .write with
  | .replay false => if relayTier s asid va then .fault 0x23 else .replay false
  | .fault c => if c = 0x27 ∧ relayTier s asid va = true then .fault 0x23 else .fault c
  | x => x

/-- The result's place: its first and last word in one module of the module tier, in a row (R333, R334); one elsewhere completes with
UNSUPPORTED_ATOMIC (DEDUCED, log entry 117). -/
def mredPlace (s : State) (asid : Nat) (obj : DWord) (count : Nat) : Xl :=
  let last := 4 * (max 1 count - 1)
  match resultXl s asid obj, resultXl s asid (obj + BitVec.ofNat 64 last) with
  | .ok (.module m off false) cls lv, .ok (.module m2 off2 false) _ _ =>
    if m2 = m ∧ off2 = off + last then .ok (.module m off false) cls lv else .fault 0x23
  | .ok (.module _ _ false) _ _, .fault c => .fault c
  | .ok (.module _ _ false) _ _, .replay false => .replay false
  | .ok (.module _ _ false) _ _, .poison => .poison
  | .ok (.module _ _ false) _ _, .hole => .hole
  | .ok _ _ _, _ => .fault 0x23
  | .replay true, _ => .fault 0x23
  | x, _ => x

/-- The address of a result's place that a replayable fault is about: OBJ, or its last word where the page of OBJ is there. -/
def mredAbsent (s : State) (asid : Nat) (obj : DWord) (count : Nat) : DWord :=
  match resultXl s asid obj with
  | .replay _ => obj
  | _ => obj + BitVec.ofNat 64 (4 * (max 1 count - 1))

/-- A contribution of this package's command is read and sent; an absent page of the result's place holds it, and is the page that it
waits for (R334, 11_memory R205, 19_translation R294). -/
def ownContribution (s : State) (n : Nat) (x : Cmd) (op : Nat) (obj src : DWord) (count : Nat) (epoch : Word) (expect : Nat) :
    Out :=
  let p := cmdParty s x
  let stop (cause : Nat) : Out := .next (finishCommand s n x statusFault (some cause))
  match mredPlace s x.asid obj count with
  | .fault cause => stop cause
  | .poison => stop 0x13
  | .hole => .fault .physicalHole
  | .replay _ => .next (holdCommand s p n false (mredAbsent s x.asid obj count) true)
  | .ok (.module m off _) _ _ =>
    (match readWords s p x.warp src count with
      | .stop cause _ => stop cause
      | .hole => .fault .physicalHole
      | .replay h a w => .next (holdCommand s p n h a w)
      | .page _ => .next s
      | .ok s1 bs bad =>
        let c : Contribution :=
          { head := (headOf s m s.net.podpos).getD 17, op := op, count := count, expect := expect, data := wordsOf bs,
            cmd := some n, bad := bad.contains true, asid := x.asid }
        .next (contributeAll (updCmd s1 n fun y => { y with phase := .sent }) m off epoch c))
  | .ok _ _ _ => stop 0x23

/-- A contribution arrives at the module; the last one of a round computes and writes the result (R334). -/
def execMredContribution (src : MredSource) (s : State) : Out :=
  match src with
  | .other m off epoch head op count expect data =>
    if liveModule s m ∧ off % 64 = 0 ∧ head < 17 ∧ count ≤ 16384 ∧ data.length = count ∧ expect < 2 ^ 17 ∧ op < 8 then
      .next (contributeAll s m off epoch
        { head := head, op := op, count := count, expect := expect, data := data, cmd := none, bad := false })
    else .next s
  | .own n =>
    match Tab.get? s.cmds n with
    | none => .next s
    | some x => match x.kind with
      | .mred op obj from_ count epoch expect =>
        if x.phase != .active || cmdHeld s n || cmdPaused s x then .next s
        else if cmdCancelled s x then .next (finishCommand s n x (stopBits s x) none)
        else ownContribution s n x op obj from_ count epoch expect
      | _ => .next s

/-- A descriptor of `mred` passes its check (R333, R334); an OBJ or SRC that is not aligned fails it too (DEDUCED, log entry 117). -/
def mredOk (d : List Byte) : Bool :=
  descField d 0 8 % 64 == 0 && descField d 8 8 % 4 == 0 && decide (descField d 16 4 ≤ 16384) &&
  decide (descField d 24 4 < 2 ^ 17) && descField d 28 36 == 0

/-- `mred` (R333, R334). -/
def execMred (o k : BitVec 3) (a b : BitVec 6) (s : State) : Out :=
  issueSplit (.mred o k a b) s fun c => c.releasing 3 fun c =>
    let da := (c.sp.scalar b.toNat).toNat
    c.withObject da 64 64 fun sk =>
      let d := Mem.bytes sk.scratch da 64
      if !mredOk d then c.trapAt 0x04
      else if isSnapshot c.s c.w then c.trapAt 0x14
      else
        let kind : CmdKind := .mred o.toNat (BitVec.ofNat 64 (descField d 0 8)) (BitVec.ofNat 64 (descField d 8 8))
          (descField d 16 4) (BitVec.ofNat 32 (descField d 20 4)) (descField d 24 4)
        let r := newCommand c.s c.w.wg c.wk k.toNat kind none (asidOf c.s c.w)
        c.scalarDone ({ c with s := r.1 }.putNumber a r.2.2)

/-! ### `mrelay` (R335) -/

/-- `mrelay` (R335): the checks of `xat.copy` with multiples of 64. -/
def execMrelay (k : BitVec 3) (a b e : BitVec 6) (s : State) : Out :=
  issueSplit (.mrelay k a b e) s fun c => c.releasing 2 fun c =>
    let dst := c.sp.scalar64 b.toNat
    let src := c.sp.scalar64 (b.toNat + 2)
    let len := (c.sp.scalar e.toNat).toNat
    if dst.toNat % 64 ≠ 0 ∨ src.toNat % 64 ≠ 0 ∨ len % 64 ≠ 0 then c.trapAt 0x08
    else if isSnapshot c.s c.w then c.trapAt 0x14
    else
      let r := newCommand c.s c.w.wg c.wk k.toNat (.relay dst src len) none (asidOf c.s c.w)
      let d := { c with s := r.1 }.putNumber a r.2.2
      c.scalarDone { d with s := if len = 0 then endEmpty d.s r.2.1 else d.s }

/-! ### Losses (R328 to R330, R334) -/

/-- A waiting entry whose accesses are under way through the route of one of some modules: they wait for the relay engine's
answer, not for a page. -/
def Held.underWay (s : State) (gone : List Nat) (h : Held) : Bool :=
  match h.waiter, translate s h.asid h.va h.want with
  | .lanes _ _ _ _ _ _ _, .ok (.module m _ true) _ _ => gone.contains m
  | _, _ => false

/-- The routes that meet a condition on module and relay package are gone until firmware installs new ones; accesses and queue
instructions in flight through them fault (R328). -/
def dropRoutes (s : State) (f : Nat → Nat → Bool) : State :=
  let gone := (s.net.routes.filter fun r => f r.1 r.2).map fun r => r.1
  let s0 := refuseAll s (fun h => h.underWay s gone) 0x27
  let s1 := { s0 with net := { s0.net with
    routes := s0.net.routes.filter fun r => !f r.1 r.2
    rerouting := s0.net.rerouting ++ gone.filter fun m => !s0.net.rerouting.contains m } }
  s1.net.queueOps.foldl (fun s q => if gone.contains q.2.module then endQueueOp s q.1 q.2 (.refused 0x27) else s) s1

/-- The rounds of a module that meet a condition complete every command with fault MODULE (R334). -/
def breakRounds (s : State) (m : Nat) (f : Round → Bool) : State :=
  match Tab.get? s.net.modules m with
  | none => s
  | some x =>
    (x.rounds.filter f).foldl (fun s r => finishAllOwn s r.contribs (some 0x27))
      (updModule s m fun y => { y with rounds := y.rounds.filter fun r => !f r })

/-- A module is lost (R328, R329). -/
def execModuleLoss (m : Nat) (s : State) : Out :=
  if podSize s ≤ m then .next s
  else
    let s0 := dropRoutes (s.withModule m) fun r c => r == m || sharedModule s c == some m
    let s1 := breakRounds s0 m fun _ => true
    let waiting := match Tab.get? s1.net.modules m with | some x => x.waiting | none => []
    let s2 := waiting.foldl (fun s w => finishOwn s w.2.2.cmd (some 0x27)) s1
    let s3 := updModule s2 m fun _ => { Module.empty with lost := true }
    let s4 := s3.net.queueOps.foldl (fun s q =>
      if q.2.module = m then endQueueOp s q.1 q.2 (.refused 0x27) else s) s3
    .next (retryAll { s4 with net := { s4.net with rerouting := s4.net.rerouting.filter fun x => x != m } } fun _ => true)

/-- A package is lost: its grants go and the lines it modified are poisoned (R330); routes through it and rounds that expect
it are broken (R328, R334). -/
def execPackageLoss (p : Nat) (s : State) : Out :=
  if p = s.net.podpos ∨ s.net.lostPackages.contains p = true then .next s
  else
    let lose (x : Module) : Module :=
      let lines := (x.grants.filter fun g => g.pkg == p && g.excl).flatMap fun g => g.dirty
      { x with
        poison := (lines.flatMap fun l => [2 * l, 2 * l + 1]).foldl (fun ps g => if ps.contains g then ps else g :: ps) x.poison
        grants := x.grants.filter fun g => g.pkg != p }
    let s0 := dropRoutes s fun _ c => c == p
    let s1 := { s0 with net := { s0.net with
      lostPackages := s0.net.lostPackages ++ [p], modules := Tab.mapVal s0.net.modules lose } }
    let hit (m : Nat) (r : Round) : Bool :=
      r.contribs.any fun c => match headOf s1 m p with | some h => c.expect.testBit h | none => false
    let s2 := s1.net.modules.foldl (fun t m => admitAll (breakRounds t m.1 (hit m.1)) m.1) s1
    .next (retryAll s2 fun _ => true)

end Sys2Proof.Machine
end

