-- ==== Sys2Proof/Machine/Network.lean ====
section
/-! DEFINITION. The Reltex network: connections and packets (23_pod R336 to R340), `nput`, `nget` and `nsig` (R341), and
`nwait` (R342). -/

namespace Sys2Proof.Machine

/-! ### Packets (R337) -/

/-- The code of OP. -/
def opCode : ReltexOp → Nat
  | .put => 1
  | .signal => 2
  | .getRequest => 3
  | .getResponse => 4
  | .acknowledgement => 5

/-- The header fields of a packet, each with its bits, in the order of R337. -/
def packetFields (p : Packet) : List (Nat × Nat) :=
  [(22, p.dep), (22, p.sep), (16, p.tenant), (16, p.conn), (32, p.psn), (32, p.msn), (8, opCode p.op), (4, p.win),
    (40, p.roff), (32, p.mlen), (32, p.poff)]

/-- A packet as the wire can carry it: each field within its bits, 4,096 bytes of payload at most (R337). -/
def packetOk (p : Packet) : Bool := ((packetFields p).all fun f => decide (f.2 < 2 ^ f.1)) && decide (p.payload.length ≤ 4096)

/-! ### Connections (R336) -/

/-- A connection's record changed. -/
def updConn (s : State) (c : Nat) (f : Conn → Conn) : State :=
  { s with net := { s.net with conns := Tab.upd s.net.conns c f } }

/-- A binding that firmware may make (R336, R339, R340). -/
def bindingOk (c : Nat) (b : ConnBinding) : Bool :=
  decide (c < 65536) && decide (b.remoteEndpoint < 2 ^ 22) && decide (b.remoteConn < 65536) &&
  decide (b.tenant < 2 ^ 16) && (b.windows.all fun w => decide (w.1 < 16) && decide (w.2.tenant < 2 ^ 16)) && b.stride.getLsbD 0 &&
  decide (10000 ≤ b.timeoutNs) && decide (b.timeoutNs ≤ 100000000)

/-- Firmware binds a connection, or rebinds a failed one (R336). -/
def execConnectionBinding (c : Nat) (b : ConnBinding) (s : State) : Out :=
  let open_ := match Tab.get? s.net.conns c with | some x => !x.failed | none => false
  if open_ || !bindingOk c b then .next s
  else
    let x : Conn :=
      { binding := b, failed := false, nextPsn := 1, nextMsn := 1, out := [], mark := 0, received := [], messages := [],
        complete := 0, arrival := 0, requests := [], acks := [], entropy := b.entropy }
    .next { s with net := { s.net with conns := Tab.put s.net.conns c x } }

/-- A connection bound to an ASID. -/
def connOf (s : State) (c asid : Nat) : Option Conn :=
  (Tab.get? s.net.conns c).bind fun x => if x.binding.asid = asid then some x else none

/-! ### Sending (R337 to R341) -/

/-- The offsets of a message's packets: at most 4,096 bytes each, one packet for an empty message. -/
def packetOffsets (len : Nat) : List Nat := if len = 0 then [0] else (List.range ((len + 4095) / 4096)).map fun k => 4096 * k

/-- Packets put on the wire, each with the connection's next sequence number. -/
def Conn.send (x : Conn) (cmd : Option Nat) (now : Nat) (ps : List Packet) : Conn :=
  ps.foldl (fun x p => { x with
    nextPsn := (x.nextPsn + 1) % 2 ^ 32
    out := x.out ++ [{ pkt := { p with psn := x.nextPsn }, cmd := cmd, tries := 0, sentAt := now }] }) x

/-- A packet of a message, its payload cut from the message's bytes (R337). -/
def Conn.packet (x : Conn) (epid : Nat) (op : ReltexOp) (msn win roff mlen : Nat) (bytes : List Byte) (o : Nat) : Packet :=
  { dport := Config.reltexPort, sport := x.entropy, dep := x.binding.remoteEndpoint, sep := epid, conn := x.binding.remoteConn,
    tenant := x.binding.tenant, psn := 0, msn := msn, op := op, win := win, roff := roff, mlen := mlen, poff := o,
    payload := (bytes.drop o).take 4096 }

/-- The first bytes of a message whose source faults after them: they leave for the receiver, and no later one does
(11_memory R205, R341). -/
def sendBefore (s : State) (p : Party) (x : Cmd) (conn : Nat) (addr : DWord) (k : Nat) (f : Conn → List Byte → List Packet) : State :=
  if (Tab.get? s.net.conns conn).all fun c => c.failed then s
  else match readGlobal p x.warp s ((List.range k).map fun j => (addr + BitVec.ofNat 64 j, 1)) with
    | .ok s1 bs _ => updConn s1 conn fun c => c.send none s.timer ((f c bs).filter fun q => !q.payload.isEmpty)
    | _ => s

/-- An `nput` stops at a byte of its source: the bytes before it leave, and the command completes with the fault (11_memory R205, R341). -/
def stopPut (s : State) (n : Nat) (x : Cmd) (cause : Nat) (a : DWord) : State :=
  match x.kind with
  | .nput addr roff len conn win msn =>
    finishCommand (sendBefore s (cmdParty s x) x conn addr (a - addr).toNat fun c bs =>
      (packetOffsets len).map (c.packet s.net.epid .put msn win roff len bs)) n x statusFault (some cause)
  | _ => s

/-- A command's message is sent (R341): its source is read, its packets leave, and it waits for their acknowledgement.  One whose page
was refused stops there. -/
def sendMessage (n : Nat) (s : State) : Out :=
  match Tab.get? s.cmds n with
  | none => .next s
  | some x =>
    if x.phase == .sent || cmdHeld s n || cmdPaused s x then .next s
    else if cmdCancelled s x then .next (finishCommand s n x (stopBits s x) none)
    else match x.phase with
    | .stopped cause a => .next (stopPut s n x cause a)
    | _ =>
      let send (s : State) (conn : Nat) (f : Conn → List Packet) : Out :=
        match Tab.get? s.net.conns conn with
        | none => .next (finishCommand s n x statusFault (some 0x27))
        | some c =>
          if c.failed then .next (finishCommand s n x statusFault (some 0x27))
          else .next (updConn (updCmd s n fun y => { y with phase := .sent }) conn fun c => c.send (some n) s.timer (f c))
      match x.kind with
      | .nput addr roff len conn win msn =>
        let p := cmdParty s x
        (match readGlobal p x.warp s ((List.range len).map fun k => (addr + BitVec.ofNat 64 k, 1)) with
          | .stop cause a => .next (stopPut s n x cause a)
          | .hole => .fault .physicalHole
          | .replay h a w => .next (holdCommand s p n h a w)
          | .page _ => .next s
          | .ok s1 bs _ => send s1 conn fun c => (packetOffsets len).map (c.packet s.net.epid .put msn win roff len bs))
      | .nsig roff conn win msn v => send s conn fun c => [c.packet s.net.epid .signal msn win roff 8 (leBytes 8 v.toNat) 0]
      | .nget _ roff len conn win msn => send s conn fun c => [c.packet s.net.epid .getRequest msn win roff len [] 0]
      | _ => .next s

/-- A descriptor of `nput`, `nget` or `nsig` passes its check (R341), the connection apart. -/
def netOk (d : List Byte) (signal : Bool) : Bool :=
  decide (descField d 8 8 < 2 ^ 40) && descField d 22 1 / 16 == 0 && descField d 23 1 == 0 &&
  (if signal then descField d 8 8 % 8 == 0 else decide (descField d 16 4 ≤ 2 ^ 28) && descField d 24 8 == 0)

/-- The issue of a command of the network (R341): the kind it makes of the descriptor and its message number. -/
def Cx.netIssue (c : Cx) (k : BitVec 3) (a b : BitVec 6) (signal : Bool) (kind : List Byte → Nat → CmdKind)
    (empty : List Byte → Bool) : Out :=
  let request (s : State) (d : List Byte) (msn : Nat) : State :=
    updConn s (descField d 20 2) fun x => x.send none s.timer
      [x.packet s.net.epid .getRequest msn (descField d 22 1) (descField d 8 8) 0 [] 0]
  c.releasing 4 fun c =>
    let da := (c.sp.scalar b.toNat).toNat
    c.withObject da 32 32 fun sk =>
      let d := Mem.bytes sk.scratch da 32
      match connOf c.s (descField d 20 2) (asidOf c.s c.w) with
      | none => c.trapAt 0x04
      | some x =>
        if x.failed || !netOk d signal then c.trapAt 0x04
        else if isSnapshot c.s c.w then c.trapAt 0x14
        else
          let s1 := updConn c.s (descField d 20 2) fun y => { y with nextMsn := (y.nextMsn + 1) % 2 ^ 32 }
          let r := newCommand s1 c.w.wg c.wk k.toNat (kind d x.nextMsn) none (asidOf c.s c.w)
          let e := { c with s := r.1 }.putNumber a r.2.2
          c.scalarDone (if empty d then { e with s := request (endEmpty e.s r.2.1) d x.nextMsn } else e)

/-- LOCAL of a descriptor. -/
def netLocal (d : List Byte) : DWord := BitVec.ofNat 64 (descField d 0 8)

/-- `nput` (R341). -/
def execNput (k : BitVec 3) (a b : BitVec 6) (s : State) : Out :=
  issueSplit (.nput k a b) s fun c => c.netIssue k a b false
    (fun d msn => .nput (netLocal d) (descField d 8 8) (descField d 16 4) (descField d 20 2) (descField d 22 1) msn)
    fun _ => false

/-- `nget` (R341): with LEN 0 it completes at once.  The message number it has taken reaches the receiver in an empty request, so that
later messages do not wait for it (DESIGN CHOICE, log entry 110). -/
def execNget (k : BitVec 3) (a b : BitVec 6) (s : State) : Out :=
  issueSplit (.nget k a b) s fun c => c.netIssue k a b false
    (fun d msn => .nget (netLocal d) (descField d 8 8) (descField d 16 4) (descField d 20 2) (descField d 22 1) msn)
    fun d => descField d 16 4 == 0

/-- `nsig` (R341). -/
def execNsig (k : BitVec 3) (a b : BitVec 6) (s : State) : Out :=
  issueSplit (.nsig k a b) s fun c => c.netIssue k a b true
    (fun d msn => .nsig (descField d 8 8) (descField d 20 2) (descField d 22 1) msn (BitVec.ofNat 64 (descField d 24 8)))
    fun _ => false

/-- The connection a command uses. -/
def CmdKind.conn : CmdKind → Option Nat
  | .nput _ _ _ c _ _ => some c
  | .nget _ _ _ c _ _ => some c
  | .nsig _ c _ _ _ => some c
  | .copy _ _ => none
  | .marker _ _ _ => none
  | .expr _ => none
  | .fill _ _ => none
  | .rowCopy _ _ _ => none
  | .relay _ _ _ => none
  | .mred _ _ _ _ _ _ => none

/-- A connection fails: its outstanding commands complete with fault MODULE (R339). -/
def failConn (s : State) (c : Nat) : State :=
  let s1 := updConn s c fun x => { x with failed := true, out := [] }
  s1.cmds.foldl (fun t y => if y.2.kind.conn = some c then finishOwn t (some y.1) (some 0x27) else t) s1

/-- An unacknowledged packet's timeout expires: it is sent again, or after the set number of times the connection fails
(R339). -/
def execRetransmitTimeout (c : Nat) (s : State) : Out :=
  match Tab.get? s.net.conns c with
  | none => .next s
  | some x =>
    let due := x.out.filter fun o => o.sentAt + x.binding.timeoutNs ≤ s.timer
    let again (o : OutPacket) : OutPacket :=
      if due.contains o then { o with pkt := { o.pkt with sport := x.entropy }, tries := o.tries + 1, sentAt := s.timer } else o
    if x.failed || due.isEmpty then .next s
    else if due.any (fun o => decide (x.binding.retries ≤ o.tries)) then .next (failConn s c)
    else .next (updConn s c fun x => { x with out := x.out.map again })

/-- A command whose packets are all acknowledged is complete; an `nget` waits for its bytes (R341). -/
def settleSent (s : State) (conn n : Nat) : State :=
  match Tab.get? s.net.conns conn, Tab.get? s.cmds n with
  | some c, some x => (match x.kind with
    | .nget _ _ _ _ _ _ => s
    | _ => if c.out.any fun o => o.cmd == some n then s else finishCommand s n x 0 none)
  | _, _ => s

/-- The open connection at which a packet arrives: it is one the wire can carry, for this package's endpoint and Reltex port, from the
connection's remote endpoint (R336, R337).  A packet for a connection that is not bound, or has failed, is dropped as any other is
(DESIGN CHOICE, log entry 101). -/
def arrivesAt (s : State) (p : Packet) : Option Conn :=
  (Tab.get? s.net.conns p.conn).bind fun x =>
    if packetOk p = true ∧ p.dport = Config.reltexPort ∧ p.dep = s.net.epid ∧ p.sep = x.binding.remoteEndpoint ∧ x.failed = false then some x
    else none

/-- The `nget` that a response answers: same connection and message number. -/
def getOf (s : State) (c msn : Nat) : Option (Nat × Cmd × DWord × Nat) :=
  s.cmds.findSome? fun y => match y.2.kind with
    | .nget a _ len conn _ m => if conn = c ∧ m = msn ∧ y.2.phase ≠ .active then some (y.1, y.2, a, len) else none
    | _ => none

/-- An acknowledgement or refusal arrives at the sender (R338, R340).  After a refusal the command's other packets are still sent
until they are answered, as the receiver's mark needs (R339).  A get that its receiver has to refuse only when its turn comes is
told by its message number (DESIGN CHOICE, log entry 101). -/
def execReltexAckReceive (a : ReltexAck) (s : State) : Out :=
  let n := a.pkt.conn
  match arrivesAt s a.pkt with
  | none => .next s
  | some x =>
    let s1 := if a.ecn then updConn s n fun x => { x with entropy := x.entropy + x.binding.stride } else s
    match x.out.find? fun o => o.pkt.psn == a.pkt.psn with
    | none => .next (match a.refused, getOf s1 n a.pkt.msn with
        | true, some y => finishOwn s1 (some y.1) (some 0x21)
        | _, _ => s1)
    | some o =>
      if a.refused && o.cmd.isSome then
        let left := (x.out.filter fun y => y.pkt.psn != a.pkt.psn).map fun y => if y.cmd = o.cmd then { y with cmd := none } else y
        .next (finishOwn (updConn s1 n fun x => { x with out := left }) o.cmd (some 0x21))
      else
        let s2 := updConn s1 n fun x => { x with out := x.out.filter fun y => y.pkt.psn != a.pkt.psn }
        .next (match o.cmd with | some m => settleSent s2 n m | none => s2)

/-! ### Receiving (R338, R339, R342) -/

/-- Bytes cut at 64-byte granules. -/
def cutLines : Nat → DWord → List Byte → List (DWord × List Byte)
  | 0, _, _ => []
  | _, _, [] => []
  | n + 1, a, bs =>
    let k := 64 - a.toNat % 64
    (a, bs.take k) :: cutLines n (a + BitVec.ofNat 64 k) (bs.drop k)

/-- Bytes placed at an address by the network, or what stops it. -/
def placeBytes (s : State) (p : Party) (a : DWord) (bs : List Byte) : Elem :=
  let ls := cutLines (bs.length + 1) a bs
  match writeObstacle s p (ls.map fun l => (l.1, l.2.length)) with
  | some x => x
  | none => .ok (ls.foldl (fun s l => writeWhole p 0 false s l.1 l.2) s) [] []

/-- A sequence number lies at or below another, modulo 2^32. -/
def seqLe (a b : Nat) : Bool := decide ((b + 2 ^ 32 - a % 2 ^ 32) % 2 ^ 32 < 2 ^ 31)

/-- The committed mark moves over the numbers received above it. -/
def Conn.settleMark (x : Conn) : Conn :=
  x.received.foldl (fun x _ =>
    let n := (x.mark + 1) % 2 ^ 32
    if x.received.contains n then { x with mark := n, received := x.received.filter fun k => k != n } else x) x

/-- A packet has arrived (R339). -/
def Conn.mark_ (x : Conn) (psn : Nat) : Conn := Conn.settleMark { x with received := x.received ++ [psn] }

/-- Bytes of a message placed. -/
def Conn.placed (x : Conn) (p : Packet) : Conn :=
  if x.messages.any fun m => m.msn == p.msn then
    { x with messages := x.messages.map fun m => if m.msn = p.msn then { m with placed := m.placed + p.payload.length } else m }
  else
    { x with messages := x.messages ++
      [{ msn := p.msn, signal := p.op == .signal, counts := true, need := p.mlen, placed := p.payload.length }] }

/-- The party that a connection's packets act for at the receiver, in die 0's fault buffer (DESIGN CHOICE, log entry 130). -/
def Conn.party (x : Conn) : Party := { asid := x.binding.asid, skein := none, launch := none, die := 0 }

/-- The window a packet names passes the checks of R338; a number that the connection has not bound fails them (DESIGN CHOICE, log entry
145). -/
def Conn.window (x : Conn) (p : Packet) : Option Window :=
  match x.binding.windows.find? fun w => w.1 == p.win with
  | none => none
  | some (_, w) =>
    if p.tenant ≠ w.tenant ∨ w.length < p.roff + p.mlen ∨ (p.op = .put ∧ !w.writable) ∨ p.mlen < p.poff + p.payload.length then
      none
    else some w

/-- The answer to a packet leaves: an acknowledgement of its PSN, or a refusal; what else its header holds is the packet's own
(R338, R339; DESIGN CHOICE, log entry 101). -/
def Conn.answer (x : Conn) (epid : Nat) (p : Packet) (refused : Bool) : Conn :=
  { x with acks := x.acks ++
    [{ pkt := { p with
         dport := Config.reltexPort, sport := x.entropy, dep := x.binding.remoteEndpoint, sep := epid,
         conn := x.binding.remoteConn, tenant := x.binding.tenant, op := .acknowledgement, payload := [], ce := false }
       refused := refused, ecn := p.ce }] }

/-- A packet has arrived, and is acknowledged or refused. -/
def takePacket (s : State) (p : Packet) (refused : Bool) : State :=
  updConn s p.conn fun y => (y.mark_ p.psn).answer s.net.epid p refused

/-- The first answer of a connection leaves the package. -/
def sendAck (s : State) (c : Nat) : State := updConn s c fun x => { x with acks := x.acks.drop 1 }

/-- A translation that is not present at the receiver raises a page request (R338): one waits already, or there is no room. -/
def askFor (s : State) (c : Nat) (p : Party) (host : Bool) (a : DWord) (write : Bool) : State :=
  let pg := pageOf s p.asid host a
  if (s.xlate.held.any fun h => h.2.waiter == .network c && h.2.asid == p.asid && h.2.bits == pg.1 && h.2.page == pg.2 &&
      (h.2.write || !write)) || noRoom s p host a then s
  else holdOne s p host a write (.network c)

/-- The bytes that a get request asks for, or what stops them. -/
def readWindow (s : State) (x : Conn) (p : Packet) (w : Window) : Elem :=
  readGlobal x.party 0 s ((List.range p.mlen).map fun k => (w.base + BitVec.ofNat 64 (p.roff + k), 1))

/-- A get request whose earlier messages have been placed is served: its bytes are read and leave in response packets; none
where it has to wait for a page, and a refusal where a page faults (R338, R341; DESIGN CHOICE, log entry 101). -/
def serveGet (s : State) (c : Nat) (x : Conn) (p : Packet) : State × Bool :=
  match x.window p with
  | none => (updConn s c fun y => y.answer s.net.epid p true, true)
  | some w => match readWindow s x p w with
    | .ok s1 bs _ =>
      (updConn s1 c fun y => y.send none s.timer
        ((packetOffsets p.mlen).map (y.packet s.net.epid .getResponse p.msn p.win p.roff p.mlen bs)), true)
    | .replay h a _ => (askFor s c x.party h a false, false)
    | _ => (updConn s c fun y => y.answer s.net.epid p true, true)

/-- The next message of a connection, in message order, is complete or served (R341, R342). -/
def settleNext (c : Nat) (s : State) : State :=
  match Tab.get? s.net.conns c with
  | none => s
  | some x =>
    let n := (x.complete + 1) % 2 ^ 32
    match x.messages.find? fun m => m.msn == n && decide (m.need ≤ m.placed) with
    | some m => updConn s c fun y => { y with
        complete := n, messages := y.messages.filter fun k => k.msn != n
        arrival := if m.counts then y.arrival + 1 else y.arrival }
    | none => match x.requests.find? fun r => r.msn == n with
      | none => s
      | some r => match serveGet s c x r with
        | (t, false) => t
        | (t, true) => updConn t c fun y => { y with complete := n, requests := y.requests.filter fun k => k.msn != n }

/-- The messages of a connection settle as far as they go. -/
def settleMessages (s : State) (c : Nat) : State :=
  match Tab.get? s.net.conns c with
  | none => s
  | some x => (x.messages.map (fun m => m.msn) ++ x.requests.map fun r => r.msn).foldl (fun s _ => settleNext c s) s

/-- A put or a signal in its window: bytes placed, or the addend added indivisibly (R338, R339, R341). -/
def receiveWrite (s : State) (x : Conn) (p : Packet) (w : Window) : Out :=
  let va := w.base + BitVec.ofNat 64 (p.roff + p.poff)
  let arrived (s : State) : Out :=
    .next (settleMessages (takePacket (updConn s p.conn fun y => y.placed p) p false) p.conn)
  let refused : Out := .next (takePacket s p true)
  match p.op with
  | .signal =>
    let r : LaneReq := { lane := 0, va := va, data := BitVec.ofNat 128 (leNat (p.payload.take 8)), data2 := 0, poison := false }
    (match accessLane s x.party 0 (.rmw 0 11 false false) r with
      | .ok s1 _ _ => arrived s1
      | .replay h => .next (askFor s p.conn x.party h va true)
      | .fault _ => refused
      | .poison => refused
      | .hole => .fault .physicalHole)
  | _ =>
    match placeBytes s x.party va p.payload with
    | .ok s1 _ _ => arrived s1
    | .replay h a _ => .next (askFor s p.conn x.party h a true)
    | .stop _ _ => refused
    | .page _ => refused
    | .hole => .fault .physicalHole

/-- A get request refused: there is nothing of it to place, and later messages do not wait for it (log entry 101). -/
def refuseGet (s : State) (p : Packet) : State :=
  let none_ : InMessage := { msn := p.msn, signal := false, counts := false, need := 0, placed := 0 }
  settleMessages (takePacket (updConn s p.conn fun y => { y with messages := y.messages ++ [none_] }) p true) p.conn

/-- A get request in its window: dropped where a page is absent, refused where one faults, otherwise it waits its turn among the
connection's messages (R338, R341). -/
def receiveGet (s : State) (x : Conn) (p : Packet) (w : Window) : Out :=
  match readWindow s x p w with
  | .replay h a _ => .next (askFor s p.conn x.party h a false)
  | .hole => .fault .physicalHole
  | .ok _ _ _ => .next (settleMessages (takePacket (updConn s p.conn fun y => { y with requests := y.requests ++ [p] }) p false) p.conn)
  | _ => .next (refuseGet s p)

/-- The first of n bytes at an address that may not be written now, by pages, and what stops it. -/
def firstBar (s : State) (p : Party) (a : DWord) (n : Nat) : Option (Elem × Nat) :=
  let first := 4096 - a.toNat % 4096
  (0 :: (List.range (n / 4096 + 1)).map fun k => first + 4096 * k).findSome? fun o =>
    if n ≤ o then none else (writeObstacle s p [(a + BitVec.ofNat 64 o, 1)]).map fun x => (x, o)

/-- A response's bytes before the byte at which the `nget` has stopped, all of them where it has not, are written at LOCAL; with the last
of those it waits for, the command completes (11_memory R205, R341). -/
def placeResponse (s : State) (p : Packet) (n : Nat) (y : Cmd) (a : DWord) (len : Nat) (stop : Option (Nat × Nat)) : Out :=
  let limit := match stop with | some x => x.2 | none => len
  let bytes := p.payload.take (limit - p.poff)
  match placeBytes s (cmdParty s y) (a + BitVec.ofNat 64 p.poff) bytes with
  | .ok s2 _ _ =>
    let phase : CmdPhase := match stop with | some x => .stopped x.1 (a + BitVec.ofNat 64 x.2) | none => y.phase
    let z := { y with progress := y.progress + bytes.length, phase := phase }
    let s3 := updCmd (takePacket s2 p (decide (bytes.length < p.payload.length))) n fun _ => z
    .next (if z.progress < limit then s3
      else finishCommand s3 n z (if stop.isSome then statusFault else 0) (stop.map fun x => x.1))
  | .replay h b w => .next (if cmdHeld s n then s else holdCommand s (cmdParty s y) n h b w)
  | .stop cause _ => .next (finishCommand (takePacket s p true) n y statusFault (some cause))
  | .page page => .next (wantPage s (cmdParty s y).launch page)
  | .hole => .fault .physicalHole

/-- A response's bytes are written at LOCAL (R341).  A local fault stops the command at the first byte that may not be written: the
bytes before it are written as they come, none from it onward is, and the command then completes with the fault.  An absent page holds
the command: a response to it or to what lies after it is dropped unanswered, and comes again once the page is serviced, or the page is
refused and the command stops there (11_memory R205, R338). -/
def receiveResponse (s : State) (p : Packet) : Out :=
  match getOf s p.conn p.msn with
  | none => .next (takePacket s p false)
  | some (n, y, a, len) =>
    if len < p.poff + p.payload.length then .next (takePacket s p true)
    else
      let q := cmdParty s y
      match y.phase with
      | .stopped cause b => placeResponse s p n y a len (some (cause, (b - a).toNat))
      | _ => match firstBar s q a (p.poff + p.payload.length) with
        | none => placeResponse s p n y a len none
        | some (.stop cause _, o) => placeResponse s p n y a len (some (cause, o))
        | some (.replay h b w, _) => .next (if cmdHeld s n then s else holdCommand s q n h b w)
        | some (.page page, _) => .next (wantPage s q.launch page)
        | some (.hole, _) => .fault .physicalHole
        | some (.ok _ _ _, _) => .next s

/-- A packet of a window arrives for the first time: placed, dropped or refused. -/
def receiveNew (s : State) (x : Conn) (p : Packet) : Out :=
  match p.op, x.window p with
  | .getResponse, _ => receiveResponse s p
  | .getRequest, none => .next (refuseGet s p)
  | .getRequest, some w => receiveGet s x p w
  | .acknowledgement, _ => .next s
  | .put, none => .next (takePacket s p true)
  | .put, some w => receiveWrite s x p w
  | .signal, none => .next (takePacket s p true)
  | .signal, some w => receiveWrite s x p w

/-- The packet names a window whose checks refuse it, each time it arrives (R338). -/
def Conn.refuses (x : Conn) (p : Packet) : Bool :=
  match p.op with
  | .put => (x.window p).isNone
  | .signal => (x.window p).isNone
  | .getRequest => (x.window p).isNone
  | .getResponse => false
  | .acknowledgement => false

/-- A packet arrives: a duplicate is answered again, one beyond the received map is dropped unanswered, any other is placed,
dropped or refused, and the committed mark moves (R338, R339). -/
def execReltexPacketReceive (p : Packet) (s : State) : Out :=
  match arrivesAt s p with
  | none => .next s
  | some x =>
    let ahead := (p.psn + 2 ^ 32 - x.mark % 2 ^ 32) % 2 ^ 32
    if p.op = .acknowledgement then execReltexAckReceive { pkt := p, refused := false, ecn := false } s
    else if seqLe p.psn x.mark || x.received.contains p.psn then
      .next (updConn s p.conn fun y => y.answer s.net.epid p (x.refuses p))
    else if 4096 < ahead then .next s
    else receiveNew s x p

/-! ### `nwait` (R342) -/

/-- `nwait` (R342): stalls until the arrival milestone is reached; a failed connection traps MODULE, unless its milestone is reached
(DEDUCED, log entry 113). -/
def execNwait (a b : BitVec 6) (s : State) : Out :=
  issueSplit (.nwait a b) s fun c =>
    match connOf c.s (c.sp.scalar a.toNat).toNat (asidOf c.s c.w) with
    | none => c.trapAt 0x04
    | some x =>
      if (c.sp.scalar64 b.toNat).toNat ≤ x.arrival then c.done
      else if x.failed then c.trapAt 0x27
      else c.stall .other

/-- `nwait.rd` (R342): reads the arrival milestone. -/
def execNwaitRd (a b : BitVec 6) (s : State) : Out :=
  issueSplit (.nwaitRd a b) s fun c =>
    match connOf c.s (c.sp.scalar a.toNat).toNat (asidOf c.s c.w) with
    | none => c.trapAt 0x04
    | some x => c.scalarDone (c.putScalar64 b.toNat (BitVec.ofNat 64 x.arrival))

end Sys2Proof.Machine
end

