-- ==== Sys2Proof/Machine/Place.lean ====
section
/-! DEFINITION. Where skeins may be placed: the pools of a quad (01_machine R42), the test of R46, and a search for a placement
(17_scheduling R276, R277, R282).  Which of the placements that pass is taken is the scheduler's choice (DESIGN CHOICE, log entry 2). -/

namespace Sys2Proof.Machine

/-- A resident skein's demands on its quad: the cores it spans, and per workgroup its core and the quarter of each warp. -/
structure Load where
  age : Nat
  kernel : Kernel
  full : Bool
  span : List Nat
  cores : List Nat
  quarters : List (List Nat)
  deriving DecidableEq, Repr

/-- The pools of R42, and the places of R13 and R32. -/
inductive Pool where
  | vregs (core quarter : Nat)
  | places (core quarter : Nat)
  | tiles (core : Nat)
  | groups (core : Nat)
  | scratch
  deriving DecidableEq, Repr

/-- A sum. -/
def sumOf (l : List Nat) : Nat := l.foldl (fun a b => a + b) 0

/-- The warps of a skein in a quarter. -/
def Load.seats (l : Load) (core quarter : Nat) : Nat :=
  sumOf (List.zipWith (fun c qs => if c = core then (qs.filter fun q => q == quarter).length else 0) l.cores l.quarters)

/-- The workgroups of a skein on a core. -/
def Load.groups (l : Load) (core : Nat) : Nat := (l.cores.filter fun c => c == core).length

/-- A skein's amount of a pool under its prologue or full allotment. -/
def Load.amount (l : Load) (p : Pool) (full : Bool) : Nat :=
  match p with
  | .vregs c q => l.seats c q * (if full then l.kernel.vregF else l.kernel.vregP)
  | .places c q => l.seats c q
  | .tiles c => l.groups c * (if full then l.kernel.tilesF else l.kernel.tilesP)
  | .groups c => l.groups c
  | .scratch => if full then l.kernel.scrF else l.kernel.scrP

/-- current_allotment of R46. -/
def Load.current (l : Load) (p : Pool) : Nat := l.amount p l.full

/-- increment of R46. -/
def Load.increment (l : Load) (p : Pool) : Nat := l.amount p true - l.current p

/-- The size of a pool, given the scratchpad shares of the quad's cores (R35, R42). -/
def poolSize (shares : Nat) : Pool → Nat
  | .vregs _ _ => 512
  | .places _ _ => 8
  | .tiles _ => 16
  | .groups _ => 32
  | .scratch => 16 * shares

/-- The share a core has from the skeins resident on it (R276): a core that no resident skein spans is free to be set. -/
def coreShare (loads : List Load) (core : Nat) : Option Nat :=
  (loads.find? fun l => l.span.contains core).map fun l => l.kernel.share

/-- The share of a core (R35): the last skein placed on it set it (R276), and it stays set when that skein has gone; 0 before
the first (DESIGN CHOICE, log entry 102). -/
def shareOf (s : State) (core : Nat) : Nat := (Tab.get? s.shares core).getD 0

/-- The shares once a skein is placed: its own on the cores that it spans. -/
def sharesWith (shares : Nat → Nat) (l : Load) (core : Nat) : Nat :=
  if l.span.contains core then l.kernel.share else shares core

/-- The shares set on the cores of a quad. -/
def quadShares (shares : Nat → Nat) (quad : Nat) : Nat := sumOf ((List.range 4).map fun k => shares (4 * quad + k))

/-- A load placed among others by age. -/
def insertLoad (x : Load) : List Load → List Load
  | [] => [x]
  | y :: rest => if x.age < y.age then x :: y :: rest else y :: insertLoad x rest

/-- Loads in age order, oldest first. -/
def byAge (l : List Load) : List Load := l.foldr insertLoad []

/-- The test of R46 for one pool from some free capacity: none where it fails. -/
def ageTest (p : Pool) (free : Nat) (l : List Load) : Bool :=
  (l.foldl (fun (r : Option Nat) x => match r with
    | none => none
    | some n => if n < x.increment p then none else some (n + x.current p)) (some free)).isSome

/-- The test of R46 for one pool with some skeins resident. -/
def poolTest (shares : Nat) (loads : List Load) (p : Pool) : Bool :=
  let used := sumOf (loads.map fun l => l.current p)
  decide (used ≤ poolSize shares p) && ageTest p (poolSize shares p - used) loads

/-- The pools a skein draws from. -/
def Load.pools (l : Load) : List Pool :=
  Pool.scratch :: (distinct l.cores).flatMap fun c =>
    [Pool.tiles c, Pool.groups c] ++ (List.range 4).flatMap fun q => [Pool.vregs c q, Pool.places c q]

/-- grant_ok of R46 for one pool, r one of the skeins. -/
def poolGrant (shares : Nat) (loads : List Load) (r : Load) (p : Pool) : Bool :=
  let used := sumOf (loads.map fun l => l.current p)
  let free := poolSize shares p - used
  decide (used ≤ poolSize shares p) && decide (r.increment p ≤ free) &&
  (loads.foldl (fun (t : Option Nat) x => match t with
    | none => none
    | some n =>
      if x = r then some (n + x.amount p true)
      else if n < x.increment p then none
      else some (n + x.current p)) (some (free - r.increment p))).isSome

/-- Warps of a workgroup (01_machine R12). -/
def warpsOfLanes (lanes : Nat) : Nat := (lanes + 95) / 96

/-- A placement is one the hardware can make: CORES distinct cores of the quad, on which the shares agree; workgroups on
those cores and warps in their quarters; and the test of R46 passes (R276). -/
def placementFits (usable : List Nat) (quad : Nat) (shares : Nat → Nat) (loads : List Load) (l : Load) : Bool :=
  let k := l.kernel
  let free (c : Nat) : Bool := match coreShare loads c with | none => true | some x => x == k.share
  let all := byAge (loads ++ [l])
  l.cores.length == k.wgs && l.quarters.length == k.wgs &&
  (l.quarters.all fun qs => qs.length == warpsOfLanes k.lanes && qs.all fun q => decide (q < 4)) &&
  l.span.length == k.cores && distinct l.span == l.span &&
  (l.span.all fun c => usable.contains c && c / 4 == quad && free c) && (l.cores.all fun c => l.span.contains c) &&
  l.pools.all (poolTest (quadShares (sharesWith shares l) quad) all)

/-! ### A search for a placement -/

/-- The choices of n from a list, in order. -/
def choices : Nat → List Nat → List (List Nat)
  | 0, _ => [[]]
  | _, [] => []
  | n + 1, x :: rest => (choices n rest).map (fun l => x :: l) ++ choices (n + 1) rest

/-- The ordered choices of n from a list. -/
def arrangements : Nat → List Nat → List (List Nat)
  | 0, _ => [[]]
  | n + 1, l => l.flatMap fun x => (arrangements n (l.filter fun y => y != x)).map fun r => x :: r

/-- The test of R46 for pools that the shares do not size, with a load beside the others. -/
def seatsFit (loads : List Load) (l : Load) (ps : List Pool) : Bool := ps.all (poolTest 0 (byAge (loads ++ [l])))

/-- A skein's load with one more workgroup, of which some warps are seated. -/
def Load.withGroup (l : Load) (core : Nat) (qs : List Nat) : Load :=
  { l with cores := l.cores ++ [core], quarters := l.quarters ++ [qs] }

/-- A quarter of a core that passes the test of R46 with one more warp of the skein there.  The test of a quarter depends on how many of
the skein's warps sit in it, and in no other, so that the first that passes leaves as much room as any (R13, R276). -/
def seatWarp (loads : List Load) (l : Load) (core : Nat) (qs : List Nat) (j : Nat) : Option Nat :=
  ((List.range 4).map fun k => (j + k) % 4).find? fun q =>
    seatsFit loads (l.withGroup core (qs ++ [q])) [.places core q, .vregs core q]

/-- The quarters of a workgroup's warps on a core. -/
def seatGroup (loads : List Load) (l : Load) (core : Nat) : Option (List Nat) :=
  if seatsFit loads (l.withGroup core []) [.groups core, .tiles core] then
    (List.range (warpsOfLanes l.kernel.lanes)).foldl (fun (r : Option (List Nat)) j => match r with
      | none => none
      | some qs => (seatWarp loads l core qs j).map fun q => qs ++ [q]) (some [])
  else none

/-- One more workgroup seated on the first of some cores with room. -/
def seatNext (loads : List Load) (cores : List Nat) (l : Load) : Option Load :=
  cores.findSome? fun c => (seatGroup loads l c).map fun qs => l.withGroup c qs

/-- A skein seated on some cores, workgroup i beginning with core i of the list, or all on given cores. -/
def seatAll (loads : List Load) (l : Load) (coresOf : Nat → List Nat) : Option Load :=
  (List.range l.kernel.wgs).foldl (fun (r : Option Load) i => match r with
    | none => none
    | some x => seatNext loads (coresOf i) x) (some { l with cores := [], quarters := [] })

/-- A list turned so that it begins at its k-th element. -/
def turn (k : Nat) (l : List Nat) : List Nat := l.drop (k % max 1 l.length) ++ l.take (k % max 1 l.length)

/-- Runs of n of some cores, taken round. -/
def windows (n : Nat) (l : List Nat) : List (List Nat) := (List.range l.length).map fun k => (turn k l).take n

/-- A placement of a skein in a quad: a new skein on any cores, its workgroups spread over them or packed into the first ones,
a saved one on cores that keep its grouping (R282). -/
def planQuad (usable : List Nat) (quad : Nat) (shares : Nat → Nat) (loads : List Load) (l : Load) (saved packed : Bool) :
    Option Load :=
  let ok (r : Option Load) : Option Load := match r with
    | some x => if placementFits usable quad shares loads x then some x else none
    | none => none
  if saved then
    (arrangements l.span.length usable).findSome? fun cs =>
      ok (seatAll loads { l with span := cs } fun i => match l.span.findIdx? fun c => some c == l.cores[i]? with
        | some k => (cs.drop k).take 1
        | none => [])
  else if packed then
    (windows l.kernel.cores usable ++ arrangements l.kernel.cores usable).findSome? fun cs =>
      ok (seatAll loads { l with span := cs } fun _ => cs)
  else (choices l.kernel.cores usable).findSome? fun cs => ok (seatAll loads { l with span := cs } fun i => turn i cs)

/-- Quads of the package. -/
def quads : Nat := Config.cores / 4

/-- A placement of a skein anywhere. -/
def planAny (usable : Nat → List Nat) (shares : Nat → Nat) (loads : Nat → List Load) (l : Load) (saved packed : Bool) :
    Option (Nat × Load) :=
  (List.range quads).findSome? fun q => (planQuad (usable q) q shares (loads q) l saved packed).map fun x => (q, x)

/-- Placements for n new skeins of a kernel, one after another; none where they do not all fit. -/
def planGrid (usable : Nat → List Nat) (shares : Nat → Nat) (loads : Nat → List Load) (l : Load) (packed : Bool) :
    Nat → List (Nat × Load) → Option (List (Nat × Load))
  | 0, got => some got
  | n + 1, got =>
    let taken := got.map fun x => x.2
    match planAny usable (fun c => (coreShare taken c).getD (shares c))
        (fun q => loads q ++ (got.filter fun x => x.1 == q).map fun x => x.2) { l with age := l.age + got.length } false packed with
    | none => none
    | some x => planGrid usable shares loads l packed n (got ++ [x])

/-! ### The machine's loads -/

/-- The cores of a quad that are not fenced (25_reliability R354). -/
def soundCores (s : State) (quad : Nat) : List Nat :=
  ((List.range 4).map fun k => 4 * quad + k).filter fun c => !s.plat.fenced.contains (.core c)

/-- The cores of a quad on which skeins may be placed: started, not fenced, and not power-gated (25_reliability R354, R359). -/
def usableCores (s : State) (quad : Nat) : List Nat :=
  (soundCores s quad).filter fun c => decide (c < s.plat.startedCores) && !s.plat.gated.contains (c / Config.groupCores)

/-- A skein's demands as it stands. -/
def loadOf (s : State) (k : Skein) (n : Kernel) : Load :=
  let gs := k.wgs.filterMap fun g => Tab.get? s.wgs g
  { age := k.age, kernel := n, full := k.full, span := k.cores, cores := gs.map fun g => g.core, quarters := gs.map fun g => g.quarters }

/-- The resident skeins of a quad with their demands. -/
def quadLoads (s : State) (quad : Nat) : List Load :=
  s.skeins.filterMap fun k =>
    if k.2.resident && k.2.quad == quad then (Tab.get? s.launches k.2.launch).map fun l => loadOf s k.2 l.kernel else none

/-- The demands of a new skein of a launch. -/
def newLoad (s : State) (n : Kernel) : Load :=
  { age := s.admissions, kernel := n, full := n.coop, span := [], cores := [], quarters := [] }

/-- Workgroups of a kernel that one core with nothing resident holds under their full allotments (R13, R32, R42). -/
def coreCapacity (n : Kernel) : Nat :=
  min (min 32 (if n.tilesF = 0 then 32 else 16 / n.tilesF)) (4 * min 8 (512 / max 1 n.vregF) / max 1 (warpsOfLanes n.lanes))

/-- Skeins of a kernel that some cores of one quad with nothing resident hold under their full allotments: as many as their
workgroups leave room for, and as their scratchpads do on the cores they can span. -/
def quadCapacity (n : Kernel) (cores : Nat) : Nat :=
  let c := coreCapacity n
  let m :=
    if cores < n.cores ∨ n.cores * c < n.wgs then 0
    else if n.cores = 1 then cores * (c / max 1 n.wgs)
    else cores * c / max 1 n.wgs
  ((List.range (m + 1)).reverse.find? fun k => decide (k * n.scrF ≤ 16 * n.share * min cores (k * n.cores))).getD 0

/-- A package with nothing resident holds a whole `.coop` grid under its full allotments (R49, R271). -/
def coopFits (s : State) (n : Kernel) (skeins : Nat) : Bool :=
  decide (skeins ≤ sumOf ((List.range quads).map fun q => quadCapacity n (soundCores s q).length))

/-! ### `racq` (R44, R46) -/

/-- Every pool of a skein grants its increment. -/
def grantOk (s : State) (k : Skein) : Bool :=
  match Tab.get? s.launches k.launch with
  | none => false
  | some l =>
    let loads := byAge (quadLoads s k.quad)
    let r := loadOf s k l.kernel
    r.pools.all (poolGrant (quadShares (shareOf s) k.quad) loads r)

/-- One waiting request tested and granted: the window's new bytes read as zero (R45). -/
def grantOne (s : State) (n : Nat) : State :=
  match Tab.get? s.skeins n with
  | none => s
  | some k =>
    if k.requested && k.resident && grantOk s k then
      { s with skeins := Tab.put s.skeins n { k with full := true, requested := false } }
    else s

/-- A skein's number placed among others by age. -/
def insertAge (x : Nat × Skein) : List (Nat × Skein) → List (Nat × Skein)
  | [] => [x]
  | y :: rest => if x.2.age < y.2.age then x :: y :: rest else y :: insertAge x rest

/-- Skeins in age order, oldest first. -/
def skeinsByAge (s : State) : List (Nat × Skein) := s.skeins.foldr insertAge []

/-- The waiting requests tested again, oldest skein first (R46). -/
def grantRequests (s : State) : State :=
  ((skeinsByAge s).filter fun k => k.2.requested).foldl (fun s k => grantOne s k.1) s

/-- `racq` (R44, R173): one request for the skein; every warp waits until it is granted. -/
def execRacq (s : State) : Out :=
  issueSplit .racq s fun c =>
    match skOf c.s c.w with
    | none => c.done
    | some k =>
      if k.full then c.done
      else
        let n := c.skKey
        let s1 := grantRequests { c.s with skeins := Tab.put c.s.skeins n { k with requested := true } }
        let granted := match Tab.get? s1.skeins n with | some x => x.full | none => false
        if granted then Cx.done { c with s := s1 } else Cx.stall { c with s := s1 } .other

end Sys2Proof.Machine
end

