-- ==== Sys2Proof/Machine/Graph.lean ====
section
/-! DEFINITION. Graphs as data: nodes, the checks of a graph, and the arrivals of its nodes (17_scheduling R273 to R275). -/

namespace Sys2Proof.Machine

/-! ### Nodes (R273, R274) -/

/-- A node of a graph from its bytes. -/
def nodeOfBytes (b : List Byte) : GraphNode :=
  { kind := descField b 0 1, nt := descField b 1 1, nf := descField b 2 1, npred := descField b 4 2,
    arg0 := BitVec.ofNat 64 (descField b 8 8), arg1 := BitVec.ofNat 64 (descField b 16 8),
    succ := (List.range 6).map fun k => descField b (24 + 2 * k) 2 }

/-- The reserved fields of a node are zero, and its kind, counts and arguments are what R273 allows; those that R274 does not list are
refused with the others (DEDUCED, log entry 58). -/
def nodeClean (b : List Byte) : Bool :=
  let x := nodeOfBytes b
  descField b 3 1 == 0 && descField b 6 2 == 0 && descField b 36 28 == 0 && decide (x.kind ≤ 5) && decide (x.nt + x.nf ≤ 6) &&
  (x.nf == 0 || x.kind == 2) && (x.arg1 == 0 || decide (3 ≤ x.kind)) && (x.kind != 3 || decide (x.arg1.toNat < 2 ^ 32)) &&
  (decide (x.kind ≤ 1) || x.arg0.toNat % 8 == 0)

/-- The successors of a node. -/
def GraphNode.out (x : GraphNode) : List Nat := x.succ.take (x.nt + x.nf)

/-- The body range of a while node. -/
def GraphNode.body (x : GraphNode) : Nat × Nat := (x.arg1.toNat % 65536, x.arg1.toNat / 65536 % 65536)

/-- A node lies in a while node's body. -/
def GraphNode.holds (x : GraphNode) (n : Nat) : Bool := x.kind == 3 && decide (x.body.1 ≤ n) && decide (n ≤ x.body.2)

/-- The edges of a graph. -/
def edgesOf (g : List GraphNode) : List (Nat × Nat) := (g.mapIdx fun n x => x.out.map fun m => (n, m)).flatten

/-- The nodes left once those with no predecessor among them have gone, some times over. -/
def peel (edges : List (Nat × Nat)) : Nat → List Nat → List Nat
  | 0, l => l
  | k + 1, l => peel edges k (l.filter fun n => edges.any fun e => e.2 == n && l.contains e.1)

/-- A body range is one that R274 allows. -/
def bodyOk (g : List GraphNode) (edges : List (Nat × Nat)) (n : Nat) (x : GraphNode) : Bool :=
  x.kind != 3 ||
  (decide (x.body.1 ≤ x.body.2) && decide (x.body.2 < g.length) && !x.holds n &&
   edges.all (fun e => x.holds e.1 == x.holds e.2) &&
   g.all fun y => y.kind != 3 || decide (y.body.2 < x.body.1) || decide (x.body.2 < y.body.1) ||
     (decide (x.body.1 ≤ y.body.1) && decide (y.body.2 ≤ x.body.2)) ||
     (decide (y.body.1 ≤ x.body.1) && decide (x.body.2 ≤ y.body.2)))

/-- The checks of R274 on the nodes together. -/
def graphOk (g : List GraphNode) : Bool :=
  let edges := edgesOf g
  edges.all (fun e => decide (e.2 < g.length)) &&
  (g.mapIdx fun n x => x.npred == (edges.filter fun e => e.2 == n).length && bodyOk g edges n x).all (fun b => b) &&
  (peel edges g.length (List.range g.length)).isEmpty

/-! ### Arrivals (R275) -/

/-- The length of a body range. -/
def GraphNode.span (x : GraphNode) : Nat := x.body.2 - x.body.1

/-- The innermost while node whose body holds a node; of two with one range, the lower-numbered (R275; DESIGN CHOICE, log entry 123). -/
def innermost (g : List GraphNode) (n : Nat) : Option Nat :=
  ((g.mapIdx fun w x => (w, x)).foldl (fun (best : Option (Nat × Nat)) p =>
    if p.2.holds n then
      match best with
      | some b => if p.2.span < b.2 then some (p.1, p.2.span) else best
      | none => some (p.1, p.2.span)
    else best) none).map fun b => b.1

/-- The nodes of a graph as it starts: those without predecessors outside every body are ready. -/
def startNodes (g : List GraphNode) : List NodeState :=
  g.mapIdx fun n x => if x.npred = 0 ∧ (innermost g n).isNone then .waiting 1 0 else .waiting 0 0

/-- A node of a graph. -/
def Graph.node (x : Graph) (n : Nat) : GraphNode :=
  x.prog.getD n { kind := 0, nt := 0, nf := 0, npred := 0, arg0 := 0, arg1 := 0, succ := [] }

/-- An arrival at a node. -/
def NodeState.arrive (real : Bool) : NodeState → NodeState
  | .waiting r k => if real then .waiting (r + 1) k else .waiting r (k + 1)
  | .running => .running
  | .retired => .retired
  | .skipped => .skipped

/-- Arrivals at some nodes. -/
def Graph.arrive (x : Graph) (real : Bool) (l : List Nat) : Graph :=
  { x with nodes := l.foldl (fun t m => updAt t m (NodeState.arrive real)) x.nodes }

/-- A node retires and sends its arrivals: the first NT successors on true, the next NF on false. -/
def Graph.retire (x : Graph) (n : Nat) (taken : Bool) : Graph :=
  let y := x.node n
  let x1 := { x with nodes := setAt x.nodes n .retired }
  if y.kind = 2 then
    (x1.arrive taken (y.succ.take y.nt)).arrive (!taken) ((y.succ.drop y.nt).take y.nf)
  else x1.arrive true y.out

/-- A node is neither retired nor skipped. -/
def NodeState.isOpen (t : NodeState) : Bool := t != .retired && t != .skipped

/-- Every node of a while node's body that has not retired since the last reset is skipped, and with each while node among them its
own body, which may lie elsewhere (R275); at most some bodies within bodies. -/
def Graph.skipWithin : Nat → Graph → Nat → Graph
  | 0, x, _ => x
  | depth + 1, x, n =>
    let w := x.node n
    let skip (m : Nat) (t : NodeState) : NodeState := if w.holds m && t != .retired then .skipped else t
    let inner := (List.range x.nodes.length).filter fun m =>
      w.holds m && (x.node m).kind == 3 && (x.nodes.getD m .retired).isOpen
    inner.foldl (fun y m => Graph.skipWithin depth y m) { x with nodes := x.nodes.mapIdx skip }

/-- A while node's body is skipped. -/
def Graph.skipBody (x : Graph) (n : Nat) : Graph := Graph.skipWithin (x.nodes.length + 1) x n

/-- A node is skipped: a skip arrival to every successor, and for a while node its whole body skipped. -/
def Graph.skip (x : Graph) (n : Nat) : Graph :=
  let x1 := if (x.node n).kind = 3 then x.skipBody n else x
  { x1 with nodes := setAt x1.nodes n .skipped }.arrive false (x.node n).out

/-- A while node starts its body again. -/
def Graph.startBody (x : Graph) (n : Nat) : Graph :=
  let w := x.node n
  let fresh (m : Nat) (t : NodeState) : NodeState :=
    if w.holds m then (if (x.node m).npred = 0 ∧ innermost x.prog m = some n then .waiting 1 0 else .waiting 0 0) else t
  { x with nodes := setAt (x.nodes.mapIdx fresh) n .running }

/-- Every node of a while node's body has retired or been skipped. -/
def Graph.bodyDone (x : Graph) (n : Nat) : Bool :=
  let w := x.node n
  (x.nodes.mapIdx fun m t => !w.holds m || t == .retired || t == .skipped).all fun b => b

/-- Arrivals from every predecessor, and at least the one that starts a node without any. -/
def Graph.isReady (x : Graph) (n : Nat) : Bool :=
  match x.nodes.getD n .retired with
  | .waiting r k => decide (max 1 (x.node n).npred ≤ r + k)
  | .running => (x.node n).kind == 3 && x.bodyDone n
  | .retired => false
  | .skipped => false

/-- The first ready node. -/
def Graph.ready (x : Graph) : Option Nat := (List.range x.nodes.length).find? x.isReady

/-- A ready node whose arrivals are all skips. -/
def Graph.allSkips (x : Graph) (n : Nat) : Bool :=
  match x.nodes.getD n .retired with
  | .waiting r _ => r == 0
  | .running => false
  | .retired => false
  | .skipped => false

/-- A node is set running. -/
def Graph.run (x : Graph) (n : Nat) : Graph := { x with nodes := setAt x.nodes n .running }

/-- Every node has retired or been skipped. -/
def Graph.ended (x : Graph) : Bool := x.nodes.all fun t => t == .retired || t == .skipped

/-- Every node that has not retired is cancelled; a running kernel's launch ends by itself (R283). -/
def Graph.cancel (x : Graph) : Graph :=
  let stop (n : Nat) (t : NodeState) : NodeState :=
    match t with
    | .retired => .retired
    | .skipped => .skipped
    | .running => if (x.node n).kind = 0 then .running else .skipped
    | .waiting _ _ => .skipped
  { x with cancelled := true, nodes := x.nodes.mapIdx stop }

end Sys2Proof.Machine
end

