-- ==== Sys2Proof/Machine/Queue.lean ====
section
/-! DEFINITION. Launch queues and records (17_scheduling R268 to R272), cancellation (R283), and the retirement of a grid
(13_consistency R232). -/

namespace Sys2Proof.Machine

/-! ### Queues (R268, R269) -/

/-- HEAD of a queue's header. -/
def queueHead (s : State) (q : Queue) : Nat := Mem.le s.mem (q.header + 12) 4

/-- TAIL of a queue's header. -/
def queueTail (s : State) (q : Queue) : Nat := Mem.le s.mem (q.header + 16) 4

/-- The TAIL up to which records may start: a host-fed queue's is announced by its doorbell (R269). -/
def queueEnd (s : State) (q : Queue) : Nat := if q.hostFed then q.rung else queueTail s q

/-- A distance modulo 2^32. -/
def dist32 (a b : Nat) : Nat := (b + 2 ^ 32 - a % 2 ^ 32) % 2 ^ 32

/-- The slot of a record's index. -/
def Queue.slotAt (q : Queue) (index : Nat) : Nat := q.base.toNat + 128 * (index % max 1 q.entries)

/-- A queue's record changed. -/
def updQueue (s : State) (q : Nat) (f : Queue → Queue) : State := { s with queues := Tab.upd s.queues q f }

/-- Bytes of physical device memory written by the L7. -/
def putPhys (s : State) (pa : Nat) (bs : List Byte) : State := writeLoc s (.hbm pa) bs false

/-- RESULT of a slot (R270). -/
def putResult (s : State) (q : Queue) (index code cause : Nat) : State :=
  putPhys s (q.slotAt index + 120) (leBytes 8 (code + 256 * cause))

/-- A binding of a queue that firmware may make (R268). -/
def queueBindingOk (b : QueueBinding) : Bool :=
  (List.range 17).any (fun k => decide (1 ≤ k) && b.entries == 2 ^ k) && b.base.toNat % 128 == 0 && b.header % 64 == 0 &&
  decide (b.level < 4) && decide (b.asid < 2 ^ 16) && decide (b.header + 64 ≤ Config.localBytes) &&
  decide (b.base.toNat + 128 * b.entries ≤ Config.localBytes)

/-- Firmware binds a launch queue and writes its header (R268); a queue with records not yet retired keeps its binding (DESIGN CHOICE,
log entry 139). -/
def execLaunchQueueBinding (q : Nat) (b : QueueBinding) (s : State) : Out :=
  let busy := match Tab.get? s.queues q with
    | some x => queueHead s x != queueTail s x
    | none => false
  if Config.launchQueues ≤ q || busy || !queueBindingOk b then .next s
  else
    let s1 := putPhys s b.header
      (leBytes 8 b.base.toNat ++ leBytes 4 b.entries ++ leBytes 8 0 ++
        leBytes 1 b.level ++ leBytes 1 (if b.hostFed then 0 else 1) ++ leBytes 2 b.asid ++ List.replicate 40 0)
    let x : Queue :=
      { header := b.header, asid := b.asid, level := b.level, hostFed := b.hostFed, base := b.base, entries := b.entries,
        next := 0, rung := 0, retired := [], accepted := [], tracing := false, trace := [], traceRoom := 0, traceLost := 0,
        waitingSince := none, cancelled := [], denied := false }
    .next { s1 with queues := Tab.put s1.queues q x }

/-- A host write to HOST_DBELL: the queue's TAIL is read (R269, 25_reliability R361).  In RECOVERY the link does not offer it
(R357). -/
def execHostDbell (v : BitVec 32) (s : State) : Out :=
  let q := v.toNat % 1024
  .next (if s.plat.power = .recovery then s else match Tab.get? s.queues q with
    | some x => if x.hostFed then updQueue s q fun y => { y with rung := queueTail s x } else s
    | none => s)

/-! ### Records and kernel descriptors (R270, R271) -/

/-- A field of a record or descriptor as a 64-bit value. -/
def field64 (b : List Byte) (at_ : Nat) : DWord := BitVec.ofNat 64 (descField b at_ 8)

/-- A launch record. -/
def recordOf (b : List Byte) : Record :=
  { target := field64 b 0, dbase := field64 b 8, arg := field64 b 16, gx := descField b 24 4, gy := descField b 28 2,
    gz := descField b 30 2, seed := BitVec.ofNat 32 (descField b 32 4), kind := descField b 36 1,
    serial := (descField b 37 1).testBit 0, doneAddr := field64 b 40, doneVal := field64 b 48 }

/-- A kernel descriptor. -/
def kernelOfBytes (d : List Byte) : Kernel :=
  let flags := descField d 13 1
  let joins := descField d 20 1
  let stages := descField d 23 1
  { entry := field64 d 0, lanes := descField d 8 2, wgs := descField d 10 1, cores := descField d 11 1,
    share := descField d 12 1, ring := flags.testBit 0, shadow := flags.testBit 1, snapshot := flags.testBit 2,
    coop := flags.testBit 3, vregP := descField d 14 1, vregF := descField d 15 1, scrP := descField d 16 2,
    scrF := descField d 18 2, joinsP := joins % 16, joinsF := joins / 16, tilesP := descField d 21 1,
    tilesF := descField d 22 1, stages := stages, slot := 64 * descField d 24 2,
    stcount := (List.range stages).map fun k => descField d 28 4 / 2 ^ (4 * k) % 16 + 1 }

/-- No reserved field of a record is set, and its addresses are aligned. -/
def recordClean (b : List Byte) : Bool :=
  descField b 37 1 / 2 == 0 && descField b 38 2 == 0 && descField b 56 64 == 0 && decide (descField b 36 1 ≤ 1) &&
  descField b 0 8 % 64 == 0 && descField b 8 8 % 65536 == 0 && descField b 40 8 % 8 == 0

/-- No reserved field of a descriptor is set, and its entry is aligned.  A field of STCOUNT above STAGES, which is zero, counts as
reserved (DEDUCED, log entry 140). -/
def kernelClean (d : List Byte) : Bool :=
  descField d 13 1 / 16 == 0 && descField d 26 2 == 0 && descField d 32 32 == 0 && descField d 0 8 % 4 == 0 &&
  descField d 28 4 / 2 ^ (4 * min 8 (descField d 23 1)) == 0

/-- A number of vector registers of R271. -/
def vregsOk (n : Nat) : Bool := n % 8 == 0 && decide (8 ≤ n) && decide (n ≤ 120)

/-- The fields of a descriptor and of its record lie in their ranges, no full component below its prologue one.  An ENTRY that is no
canonical address counts as out of its range (DEDUCED, log entry 115). -/
def kernelInRange (b : List Byte) (k : Kernel) : Bool :=
  canonical k.entry && decide (1 ≤ k.lanes) && decide (k.lanes ≤ 1536) && decide (1 ≤ k.wgs) && decide (k.wgs ≤ 16) &&
  decide (1 ≤ k.cores) && decide (k.cores ≤ 4) && decide (k.share ≤ 10) && vregsOk k.vregP && vregsOk k.vregF &&
  decide (k.scrP ≤ k.scrF) && decide (k.scrF ≤ 640) && decide (k.joinsP ≤ k.joinsF) && decide (k.joinsF ≤ 4) &&
  decide (k.tilesP ≤ k.tilesF) && decide (k.tilesF ≤ 16) && decide (k.vregP ≤ k.vregF) &&
  decide (1 ≤ k.stages) && decide (k.stages ≤ 8) &&
  (k.stages == 1 || (decide (64 ≤ k.slot) && decide (k.slot ≤ 4096))) && decide (descField b 24 4 < 2 ^ 31)

/-- One skein's full allotment fits one quad at SHARE (R42).  Its scratchpad is held against the shares of its own CORES, where
its window lies (01_machine R34): the shares of the quad's other cores are not the launch's to set (DESIGN CHOICE, log
entry 49). -/
def kernelFits (k : Kernel) : Bool :=
  decide (k.wgs ≤ k.cores * coreCapacity k) && decide (k.scrF ≤ 16 * k.cores * k.share)

/-- The first failing check of R271 for a kernel's record. -/
def kernelCause (s : State) (b d : List Byte) : Option Nat :=
  let k := kernelOfBytes d
  if !recordClean b || !kernelClean d then some 1
  else if !kernelInRange b k then some 2
  else if sumOf k.stcount ≠ k.wgs ∨ 4096 * k.scrP < (k.stages - 1) * 8 * k.slot then some 3
  else if !kernelFits k then some 4
  else if (k.shadow ∧ k.lanes % 96 ≠ 0) ∨ (k.ring ∧ k.tilesF < 2) then some 5
  else if k.coop ∧ !coopFits s k (gridSize (recordOf b)) then some 6
  else none

/-- A launch that has not yet placed a skein. -/
def launchOf (origin : LaunchOrigin) (asid level : Nat) (r : Record) (k : Kernel) : Launch :=
  { origin := origin, asid := asid, level := level, record := r, kernel := k, next := 0, reclass := 0, nmfb := 0,
    phase := .started, cancelled := false, copied := [], wanted := [], rollbacks := 0, rollbackWanted := false, failing := 0,
    pool := 0, refusal := 0, doneCause := none }

/-- A kernel of nothing, for a record that never starts one. -/
def Kernel.none : Kernel :=
  { entry := 0, lanes := 0, wgs := 0, cores := 0, share := 0, ring := false, shadow := false, snapshot := false,
    coop := false, vregP := 0, vregF := 0, scrP := 0, scrF := 0, joinsP := 0, joinsF := 0, tilesP := 0, tilesF := 0,
    stages := 0, slot := 0, stcount := [] }

/-- The launches of a queue, its graphs' among them. -/
def queueLaunches (s : State) (q : Nat) : List (Nat × Launch) := s.launches.filter fun l => queueOf s l.1 == some q

/-- A launch with skeins still to place. -/
def Launch.unplaced (l : Launch) : Bool := l.phase == .started && decide (l.next < gridSize l.record)

/-- What may be placed next from a queue. -/
inductive Candidate where
  | saved (k : Nat)
  | fresh (l : Nat)
  deriving DecidableEq, Repr

/-- The candidate of a queue: its oldest saved skein, then the next skein of its first launch with unplaced ones. -/
def candidateOf (s : State) (q : Nat) : Option Candidate :=
  let mine := queueLaunches s q
  match (skeinsByAge s).find? fun k => k.2.phase == .saved && !k.2.debugStop &&
      mine.any fun l => l.1 == k.2.launch && l.2.phase == .started with
  | some k => some (.saved k.1)
  | none => (mine.find? fun l => l.2.unplaced).map fun l => .fresh l.1

/-- The head skein of a queue begins to wait in the later state, if none of the queue waited in the earlier one (R280). -/
def beginWaitOf (s : State) (q : Nat) (t : State) : State :=
  if (candidateOf s q).isSome || (candidateOf t q).isNone then t
  else updQueue t q fun x => { x with waitingSince := some t.timer }

/-- The same for the queue of a launch. -/
def beginWait (s : State) (l : Nat) (t : State) : State :=
  match queueOf t l with
  | none => t
  | some q => beginWaitOf s q t

/-- The same for every queue. -/
def beginWaits (s t : State) : State := t.queues.foldl (fun t q => beginWaitOf s q.1 t) t

/-- A launch added to the state. -/
def addLaunch (s : State) (l : Launch) : State :=
  beginWait s s.fresh { s with fresh := s.fresh + 1, launches := Tab.put s.launches s.fresh l }

/-- A record that only has to retire: refused with a cause, cancelled, or a graph that has ended. -/
def addEnded (s : State) (origin : LaunchOrigin) (asid level : Nat) (r : Record) (refusal : Nat) (cancelled : Bool) : State :=
  addLaunch s { launchOf origin asid level r Kernel.none with
    phase := .done, next := gridSize r, refusal := refusal, cancelled := cancelled }

/-- What reading a descriptor or graph under an ASID comes to. -/
inductive Peek where
  | ok (bytes : List Byte)
  | replay (host : Bool) (addr : DWord)
  | bad
  | hole
  deriving DecidableEq, Repr

/-- Bytes that lie in one page, read by the command processor. -/
def peekPage (s : State) (asid : Nat) (a : DWord) (n : Nat) : Peek :=
  match translate s asid a .read with
  | .ok l _ _ => if poisonLoc s l n then .bad else .ok (readLoc s l n)
  | .replay h => .replay h a
  | .fault _ => .bad
  | .poison => .bad
  | .hole => .hole

/-- Bytes read by the command processor, in the one or two pages of 4 KiB, the smallest, that they lie in. -/
def peek (s : State) (asid : Nat) (a : DWord) (n : Nat) : Peek :=
  let k := 4096 - a.toNat % 4096
  if n ≤ k then peekPage s asid a n
  else match peekPage s asid a k with
    | .ok b => (match peekPage s asid (a + BitVec.ofNat 64 k) (n - k) with
      | .ok rest => .ok (b ++ rest)
      | r => r)
    | r => r

/-- The party of the command processor for a queue, and of what it does for graphs and retirements; what of it waits has entries of die
0's fault buffer (19_translation R294; DESIGN CHOICE, log entry 130). -/
def queueParty (asid : Nat) : Party := { asid := asid, skein := none, launch := none, die := 0 }

/-- The state after a look at an address: of a module page the package takes a grant, conflicting holders back-invalidated, or the
relay engine's read does so for it (13_consistency R224). -/
def lookAt (s : State) (asid : Nat) (a : DWord) : State :=
  match translate s asid a .read with
  | .ok (.module m off relay) cls _ => beforeAccess s (queueParty asid) (a.toNat % 2 ^ 57) (.module m off relay) cls false
  | _ => s

/-- The state after n bytes at an address are looked at, in the one or two pages that `peek` finds them in. -/
def look (s : State) (asid : Nat) (a : DWord) (n : Nat) : State :=
  let k := 4096 - a.toNat % 4096
  if n ≤ k then lookAt s asid a else lookAt (lookAt s asid a) asid (a + BitVec.ofNat 64 k)

/-! ### `launch` (R172, R269) -/

/-- An accepted record copied to its slot, TAIL advanced; with it the descriptor that was checked, which the record will start
with (R271; DEDUCED, log entry 54). -/
def enqueue (s : State) (q : Nat) (x : Queue) (b d : List Byte) : State :=
  let tail := queueTail s x
  let s1 := putPhys s (x.slotAt tail) (b.take 120 ++ leBytes 8 0)
  updQueue (putPhys s1 (x.header + 16) (leBytes 4 ((tail + 1) % 2 ^ 32))) q fun y => { y with accepted := Tab.put y.accepted tail d }

/-- `launch` (R172, R269, R271).  A queue that firmware has not bound gives status 2 (DESIGN CHOICE, log entry 126). -/
def execLaunch (a b e : BitVec 6) (s : State) : Out :=
  issueSplit (.launch a b e) s fun c => c.releasing 2 fun c =>
    let addr := c.sp.scalar64 b.toNat
    let q := (c.sp.scalar e.toNat).toNat
    let p := partyOf c.s c.w
    let status (c : Cx) (v : Nat) : Out := c.scalarDone (c.putScalar a.toNat (BitVec.ofNat 32 v))
    if isSnapshot c.s c.w then c.trapAt 0x14
    else match Tab.get? c.s.queues q with
      | none => status c 2
      | some x =>
        if Config.launchQueues ≤ q ∨ x.hostFed = true ∨ x.asid ≠ p.asid ∨ addr.toNat % 128 ≠ 0 then status c 2
        else if dist32 (queueHead c.s x) (queueTail c.s x) = x.entries then status c 1
        else match readGlobal p c.wk c.s (pieces addr 128) with
          | .stop cause _ => c.trapAt cause
          | .hole => .fault .physicalHole
          | .page _ => c.stall .other
          | .replay h a _ => c.holdStalled p h a false
          | .ok s1 rec_ bad =>
            let c1 := { c with s := s1 }
            if bad.contains true then c1.trapAt 0x13
            else if descField rec_ 36 1 = 1 then
              status (if recordClean rec_ then { c1 with s := enqueue s1 q x rec_ [] } else c1) (if recordClean rec_ then 0 else 2)
            else
              let s2 := look s1 x.asid (field64 rec_ 0) 64
              let c2 := { c with s := s2 }
              match peek s1 x.asid (field64 rec_ 0) 64 with
              | .hole => .fault .physicalHole
              | .replay h a => c2.holdStalled p h a false
              | .bad => status c2 2
              | .ok d => match kernelCause s1 rec_ d with
                | some _ => status c2 2
                | none => status { c2 with s := enqueue s2 q x rec_ d } 0

/-! ### Retirement of a record (R232, R272) -/

/-- HEAD advances past every slot from HEAD onward whose record has retired (R272). -/
def advanceHead (s : State) (q : Nat) : State :=
  match Tab.get? s.queues q with
  | none => s
  | some x =>
    x.retired.foldl (fun s _ => match Tab.get? s.queues q with
      | none => s
      | some y =>
        let h := queueHead s y
        if y.retired.contains h then
          updQueue (putPhys s (y.header + 12) (leBytes 4 ((h + 1) % 2 ^ 32))) q fun z =>
            { z with retired := z.retired.filter fun k => k != h }
        else s) s

/-- The code that a retiring record writes into RESULT (R270). -/
def Launch.result (l : Launch) : Nat := if l.refusal ≠ 0 then 3 else if l.cancelled then 4 else 2

/-- A graph node's launch has retired, and the node with it (R275). -/
def nodeEnded (s : State) (g n : Nat) : State := { s with graphs := Tab.upd s.graphs g fun x => x.retire n true }

/-- The last steps of a record's retirement, its DONEADDR settled. -/
def closeLaunch (s : State) (n : Nat) (l : Launch) (fault : Option Nat) : State :=
  let s1 := { s with launches := Tab.del s.launches n }
  match l.origin with
  | .slot q index =>
    let s2 := match fault with
      | some cause => { s1 with plat := { s1.plat with doneFaults := s1.plat.doneFaults ++ [(q, index, cause)] } }
      | none => s1
    advanceHead (updQueue s2 q fun x => { x with retired := x.retired ++ [index] }) q
  | .node g k =>
    let s2 := match fault, Tab.get? s1.graphs g with
      | some cause, some x => { s1 with plat := { s1.plat with doneFaults := s1.plat.doneFaults ++ [(x.queue, x.index, cause)] } }
      | _, _ => s1
    nodeEnded s2 g k

/-- Every access of a launch's parties is performed: no skein, far task, call, waiting ones among them, or near-memory operation
of it is left. -/
def launchQuiet (s : State) (n : Nat) : Bool :=
  !(s.skeins.any fun k => k.2.launch == n) && !(s.nearOps.any fun x => x.2.launch == n) &&
  !(s.callMsgs.any fun m => m.2.launch == n) && !(s.targets.any fun t => (t.2.waiting ++ t.2.entered).any fun m => m.launch == n) &&
  !(s.warps.any fun w => match w.2.far with | some f => f.launch == n | none => false)

/-- A grid retires (R232, R272): RESULT, then DONEADDR, then HEAD.  A page of DONEADDR that is not there holds it.  A record refused for a
misaligned DONEADDR stores DONEVAL there too (DESIGN CHOICE, log entry 141). -/
def execGridRetire (n : Nat) (s : State) : Out :=
  match Tab.get? s.launches n with
  | none => .next s
  | some l =>
    if l.rollbackWanted || (l.phase == .started && decide (l.next < gridSize l.record)) || !launchQuiet s n then .next s
    else
      let s1 := match l.origin with
        | .slot q index => (match Tab.get? s.queues q with
          | some x => putResult s x index l.result l.refusal
          | none => s)
        | .node _ _ => s
      let p := queueParty l.asid
      if l.record.doneAddr = 0 then .next (closeLaunch s1 n l none)
      else match l.doneCause with
        | some cause => .next (closeLaunch s1 n l (some cause))
        | none =>
          if s.xlate.held.any fun h => h.2.waiter == .retire n then .next s
          else match writeGlobal s1 p 0 l.record.doneAddr (leBytes 8 l.record.doneVal.toNat) [] with
            | .ok s2 _ _ => .next (closeLaunch s2 n l none)
            | .stop cause _ => .next (closeLaunch s1 n l (some cause))
            | .hole => .fault .physicalHole
            | .page _ => .next s
            | .replay h a w =>
              if noRoom s p h a then .next s else .next (holdOne s p h a w (.retire n))

/-! ### Cancellation (R283) -/

/-- Every node of a graph that has not retired is cancelled; a running kernel's launch stops. -/
def cancelGraph (s : State) (g : Nat) : State :=
  match Tab.get? s.graphs g with
  | none => s
  | some x =>
    let s1 := { s with
      graphs := Tab.put s.graphs g x.cancel
      cmds := s.cmds.filter fun c => match c.2.node with | some (h, _) => h != g | none => true }
    s1.launches.foldl (fun s l => match l.2.origin with
      | .node h _ => if h = g ∧ l.2.phase ≠ .done then cancelLaunch s l.1 else s
      | .slot _ _ => s) s1

/-- Firmware, or the host through it, cancels the record in a slot of a queue (R283). -/
def execCancelRecord (q slot : Nat) (s : State) : Out :=
  match Tab.get? s.queues q with
  | none => .next s
  | some x =>
    let head := queueHead s x
    let index := (head + (slot + x.entries - head % max 1 x.entries) % max 1 x.entries) % 2 ^ 32
    if x.entries ≤ slot ∨ dist32 head (queueEnd s x) ≤ dist32 head index ∨ x.retired.contains index = true then .next s
    else if dist32 head x.next ≤ dist32 head index then
      .next (updQueue s q fun y => { y with
        cancelled := if y.cancelled.contains index then y.cancelled else y.cancelled ++ [index] })
    else
      let mine (l : Nat × Launch) : Bool := match l.2.origin with | .slot a b => a == q && b == index | .node _ _ => false
      let s1 := (s.launches.filter mine).foldl (fun s l => if l.2.phase = .done then s else cancelLaunch s l.1) s
      .next ((s1.graphs.filter fun g => g.2.queue == q && g.2.index == index).foldl (fun s g => cancelGraph s g.1) s1)

end Sys2Proof.Machine
end

