-- ==== Sys2Proof/Machine/Nodes.lean ====
section
/-! DEFINITION. The graph walker: starting a graph, running its nodes, and ending it (17_scheduling R273 to R275). -/

namespace Sys2Proof.Machine

/-! ### Reading a graph (R273, R274) -/

/-- What reading a graph comes to; a graph that breaks R274 or cannot be read is refused under cause 7. -/
inductive GraphRead where
  | ok (g : List GraphNode)
  | refused
  | replay (host : Bool) (addr : DWord)
  | hole
  deriving DecidableEq, Repr

/-- A node read from its bytes; a copy node's descriptor must name global spaces alone. -/
def readNode (s : State) (asid : Nat) (b : List Byte) : State × GraphRead :=
  let x := nodeOfBytes b
  if !nodeClean b then (s, .refused)
  else if x.kind ≠ 1 then (s, .ok [x])
  else
    (look s asid x.arg0 128,
      match peek s asid x.arg0 128 with
      | .bad => .refused
      | .hole => .hole
      | .replay h y => .replay h y
      | .ok d => if descSspace d = 0 ∧ descDspace d = 0 then .ok [x] else .refused)

/-- The nodes from the n-th on, and the state once they have been looked at. -/
def readNodes (asid : Nat) (addr : DWord) : Nat → Nat → State → State × GraphRead
  | 0, _, s => (s, .ok [])
  | left + 1, n, s =>
    let a := addr + BitVec.ofNat 64 (64 + 64 * n)
    let s := look s asid a 64
    match peek s asid a 64 with
    | .bad => (s, .refused)
    | .hole => (s, .hole)
    | .replay h x => (s, .replay h x)
    | .ok b => (match readNode s asid b with
      | (s, .ok l) => (match readNodes asid addr left (n + 1) s with
        | (s, .ok rest) => (s, .ok (l ++ rest))
        | r => r)
      | r => r)

/-- A graph read and checked, and the state once it has been looked at. -/
def readGraph (s : State) (asid : Nat) (addr : DWord) : State × GraphRead :=
  let s := look s asid addr 64
  match peek s asid addr 64 with
  | .bad => (s, .refused)
  | .hole => (s, .hole)
  | .replay h x => (s, .replay h x)
  | .ok b =>
    if descField b 2 62 ≠ 0 then (s, .refused)
    else match readNodes asid addr (descField b 0 2) 0 s with
      | (s, .ok g) => (s, if graphOk g then .ok g else .refused)
      | r => r

/-! ### Running a node (R275) -/

/-- The graph's record changed. -/
def updGraph (s : State) (g : Nat) (f : Graph → Graph) : State := { s with graphs := Tab.upd s.graphs g f }

/-- The walker waits for a page. -/
def holdGraph (s : State) (g asid : Nat) (host : Bool) (addr : DWord) (write : Bool) : Out :=
  if noRoom s (queueParty asid) host addr then .next s else .next (holdOne s (queueParty asid) host addr write (.graph g))

/-- A kernel node's record is started, or refused (R271, R272, R351); a graph within a graph is refused.  A node whose record is refused
retires as one whose grid has (R275; DEDUCED, log entry 124). -/
def startNode (s : State) (g n : Nat) (x : Graph) (level : Nat) : Out :=
  let a := (x.node n).arg0
  let origin := LaunchOrigin.node g n
  let run (s : State) : State := updGraph s g fun y => y.run n
  let refuse (s : State) (b : List Byte) (cause : Nat) : Out :=
    .next (addEnded (run s) origin x.asid level (recordOf b) cause false)
  if a.toNat % 128 ≠ 0 then refuse s [] 1
  else
    let seen := look s x.asid a 128
    match peek s x.asid a 128 with
    | .bad => refuse seen [] 1
    | .hole => .fault .physicalHole
    | .replay h y => holdGraph seen g x.asid h y false
    | .ok b =>
      if !recordClean b then refuse seen b 1
      else if descField b 36 1 = 1 then refuse seen b 2
      else
        let seen := look seen x.asid (field64 b 0) 64
        match peek s x.asid (field64 b 0) 64 with
        | .bad => refuse seen b 1
        | .hole => .fault .physicalHole
        | .replay h y => holdGraph seen g x.asid h y false
        | .ok d =>
          if (kernelOfBytes d).snapshot then refuse seen b 1
          else match kernelCause s b d with
          | some cause => refuse seen b cause
          | none => .next (addLaunch (run seen) (launchOf origin x.asid level (recordOf b) (kernelOfBytes d)))

/-- The party number of a graph's commands. -/
def graphKey : Nat := 2 ^ 66

/-- A copy node's one command (R275); a descriptor that fails R203 copies nothing, and one that cannot be read cancels the graph
(DEDUCED, log entry 59). -/
def startCopy (s : State) (g n : Nat) (x : Graph) : Out :=
  let a := (x.node n).arg0
  let seen := look s x.asid a 128
  match peek s x.asid a 128 with
  | .bad => .next (cancelGraph seen g)
  | .hole => .fault .physicalHole
  | .replay h y => holdGraph seen g x.asid h y false
  | .ok d =>
    let s1 := updGraph seen g fun y => y.run n
    if descOk d false ∧ 0 < descTotal d then
      .next { s1 with
        fresh := s1.fresh + 1
        cmds := Tab.put s1.cmds s1.fresh
          { wg := graphKey, warp := graphKey, counter := 0, number := 0, kind := .copy d false, barrier := none,
            progress := 0, phase := .active, poison := false, issuer := none, node := some (g, n), asid := x.asid } }
    else .next s1

/-- The word of a node read once (R232, R275); a page that cannot be read cancels the graph. -/
def withWord (s : State) (g n : Nat) (x : Graph) (k : State → Nat → Out) : Out :=
  let a := (x.node n).arg0
  let seen := look s x.asid a 8
  match peek s x.asid a 8 with
  | .ok b => k seen (leNat b)
  | .bad => .next (cancelGraph seen g)
  | .hole => .fault .physicalHole
  | .replay h y => holdGraph seen g x.asid h y false

/-- A signal node's store (R275); one that takes a fault cancels the graph (DEDUCED, log entry 58). -/
def signalNode (s : State) (g n : Nat) (x : Graph) : Out :=
  let y := x.node n
  match writeGlobal s (queueParty x.asid) graphKey y.arg0 (leBytes 8 y.arg1.toNat) [] with
  | .ok s1 _ _ => .next (updGraph s1 g fun z => z.retire n true)
  | .stop _ _ => .next (cancelGraph s g)
  | .page _ => .next s
  | .hole => .fault .physicalHole
  | .replay h a w => holdGraph s g x.asid h a w

/-- A ready node with a real arrival runs. -/
def runNode (s : State) (g n : Nat) (x : Graph) (level : Nat) : Out :=
  match (x.node n).kind with
  | 0 => startNode s g n x level
  | 1 => startCopy s g n x
  | 2 => withWord s g n x fun s v => .next (updGraph s g fun y => y.retire n (v != 0))
  | 3 => withWord s g n x fun s v =>
      .next (updGraph s g fun y => if v ≠ 0 then y.startBody n else (y.skipBody n).retire n true)
  | 4 => .next (updGraph s g fun y => y.run n)
  | _ => signalNode s g n x

/-- A copy node whose command is complete, by a fault or otherwise (DEDUCED, log entry 59). -/
def copyEnded (s : State) (g : Nat) (x : Graph) : Option Nat :=
  (List.range x.nodes.length).find? fun n =>
    (x.node n).kind == 1 && x.nodes.getD n .retired == .running && !(s.cmds.any fun c => c.2.node == some (g, n))

/-- The walker waits for a page of its graph. -/
def graphHeld (s : State) (g : Nat) : Bool := s.xlate.held.any fun h => h.2.waiter == .graph g

/-- A node of a cancelled graph has still to be cancelled: one that waits or runs, or a kernel whose launch goes on (R283). -/
def cancelDue (s : State) (g : Nat) (x : Graph) : Bool :=
  x.cancelled &&
    ((List.range x.nodes.length).any (fun n => (x.nodes.getD n .retired).isOpen &&
        !((x.node n).kind == 0 && x.nodes.getD n .retired == .running)) ||
      s.launches.any fun l => !l.2.cancelled && l.2.phase != .done && match l.2.origin with
        | .node h _ => h == g
        | .slot _ _ => false)

/-- A graph whose walker has something to do. -/
def graphBusy (s : State) (g : Nat) (x : Graph) : Bool :=
  cancelDue s g x || !graphHeld s g && (x.denied || x.ended || x.ready.isSome || (copyEnded s g x).isSome)

/-- One act of a graph's walker: a ready node runs or is skipped, a copy node retires, or the graph ends. -/
def graphStep (s : State) (g : Nat) : Out :=
  match Tab.get? s.graphs g with
  | none => .next s
  | some x =>
    let level := match Tab.get? s.queues x.queue with | some q => q.level | none => 3
    if cancelDue s g x then .next (cancelGraph s g)
    else if graphHeld s g then .next s
    else if x.denied then .next (cancelGraph (updGraph s g fun y => { y with denied := false }) g)
    else if x.ended then
      .next (addEnded { s with graphs := Tab.del s.graphs g } (.slot x.queue x.index) x.asid level x.record 0 x.cancelled)
    else match x.ready, copyEnded s g x with
      | some n, _ => if x.allSkips n then .next (updGraph s g fun y => y.skip n) else runNode s g n x level
      | none, some n => .next (updGraph s g fun y => y.retire n true)
      | none, none => .next s

/-- A wait node's word reaches its value: the node acquires and retires (R275). -/
def execGraphWaitSatisfied (g n : Nat) (s : State) : Out :=
  match Tab.get? s.graphs g with
  | none => .next s
  | some x =>
    let y := x.node n
    if x.nodes.getD n .retired ≠ .running ∨ y.kind ≠ 4 ∨ graphHeld s g = true then .next s
    else withWord s g n x fun s v => .next (if y.arg1.toNat ≤ v then updGraph s g fun z => z.retire n true else s)

end Sys2Proof.Machine
end

