-- ==== Sys2Proof/Machine/Sched.lean ====
section
/-! DEFINITION. The scheduler: starting records (17_scheduling R272), placing and admitting skeins (R276, R277, R279),
pre-emption (R280 to R282), and the retirement of warps and skeins (09_control R175, R279). -/

namespace Sys2Proof.Machine

/-! ### Starting a record (R272) -/

/-- A graph may still start a kernel: one of its kernel nodes waits, or lies in the body of a while node that has not ended. -/
def Graph.mayPlace (x : Graph) : Bool :=
  let kernels := (List.range x.nodes.length).filter fun n => (x.node n).kind == 0
  let live (n : Nat) : Bool := match x.nodes.getD n .retired with
    | .waiting _ _ => true
    | .running => true
    | .retired => false
    | .skipped => false
  (kernels.any fun n => live n && x.nodes.getD n .retired != .running) ||
  (List.range x.nodes.length).any fun n => (x.node n).kind == 3 && live n && kernels.any (x.node n).holds

/-- The next record of a queue may be looked at: there is one, and every skein of the one before has been placed (R272). -/
def queueEligible (s : State) (q : Nat) (x : Queue) : Bool :=
  x.next != queueEnd s x && !((queueLaunches s q).any fun l => l.2.unplaced) &&
  !(s.graphs.any fun g => g.2.queue == q && g.2.mayPlace) && !(s.xlate.held.any fun h => h.2.waiter == .queue q)

/-- The next record has been taken from its queue. -/
def takeRecord (s : State) (q : Nat) : State :=
  updQueue s q fun x => { x with
    next := (x.next + 1) % 2 ^ 32, denied := false, cancelled := x.cancelled.filter fun k => k != x.next
    accepted := Tab.del x.accepted x.next }

/-- A record that starts: RESULT 1. -/
def markStarted (s : State) (q : Nat) (x : Queue) : State := putResult (takeRecord s q) x x.next 1 0

/-- The head record of a queue is started, or refused and retired (R271, R272).  A record that `launch` has accepted starts with
the descriptor that was checked there; of any other the descriptor is read and checked now.  The causes under which an unreadable
graph or descriptor is refused are the model's (DEDUCED, log entry 53). -/
def execLaunchRecordStart (q : Nat) (s : State) : Out :=
  match Tab.get? s.queues q with
  | none => .next s
  | some x =>
    let b := Mem.bytes s.mem (x.slotAt x.next) 128
    let r := recordOf b
    let origin := LaunchOrigin.slot q x.next
    let refuse (s : State) (cause : Nat) : Out := .next (addEnded (takeRecord s q) origin x.asid x.level r cause false)
    let hold (s : State) (h : Bool) (a : DWord) : Out :=
      if noRoom s (queueParty x.asid) h a then .next s else .next (holdOne s (queueParty x.asid) h a false (.queue q))
    let start (s : State) (d : List Byte) : Out :=
      .next (addLaunch (markStarted s q x) (launchOf origin x.asid x.level r (kernelOfBytes d)))
    if !queueEligible s q x then .next s
    else if x.cancelled.contains x.next then .next (addEnded (takeRecord s q) origin x.asid x.level r 0 true)
    else if r.serial && queueHead s x != x.next then .next s
    else if !recordClean b || x.denied then refuse s 1
    else if r.kind = 1 then
      let (seen, found) := readGraph s x.asid r.target
      match found with
      | .refused => refuse seen 7
      | .hole => .fault .physicalHole
      | .replay h a => hold seen h a
      | .ok g => .next { markStarted seen q x with
          fresh := s.fresh + 1
          graphs := Tab.put s.graphs s.fresh
            { queue := q, index := x.next, asid := x.asid, prog := g, record := r, nodes := startNodes g, cancelled := false,
              denied := false } }
    else match Tab.get? x.accepted x.next with
      | some d => start s d
      | none =>
        let seen := look s x.asid r.target 64
        match peek s x.asid r.target 64 with
        | .bad => refuse seen 1
        | .hole => .fault .physicalHole
        | .replay h a => hold seen h a
        | .ok d => match kernelCause s b d with
          | some cause => refuse seen cause
          | none => start seen d

/-! ### Admission (R44, R45, R277) -/

/-- The stage of a workgroup, stage 0 first (01_machine R37). -/
def stageOf (counts : List Nat) (i : Nat) : Nat :=
  ((List.range counts.length).find? fun k => decide (i < sumOf (counts.take (k + 1)))).getD 0

/-- A workgroup at admission. -/
def Workgroup.start (skein index stage core lanes : Nat) (warps quarters : List Nat) : Workgroup :=
  { skein := skein, index := index, stage := stage, core := core, lanes := lanes, warps := warps, quarters := quarters,
    selvedge := List.replicate 16 { count := 0, act := 0, hi := 0, lo := 0, poison := false },
    counters := List.replicate 8 Milestone.zero, cpyflt := 0, cpyfln := 0, est := 0, tvec := 0, acc := [], accPoison := [],
    ring := none, engine := none, forks := 0, endPair := (0, 0), endPoison := (false, false) }

/-- The launched lanes of warp j of a workgroup of some lanes (01_machine R12). -/
def launchedLanes (lanes j : Nat) : Mask := laneRange 0 (min 96 (lanes - 96 * j))

/-- A workgroup's warps at admission, each with the next call identity (R171). -/
def addWarps (s : State) (g core lanes : Nat) (entry : Pc) (quarters : List Nat) : State :=
  (quarters.mapIdx fun j q => (j, q)).foldl (fun s p =>
    let m := launchedLanes lanes p.1
    let w := Warp.start g p.1 core p.2 m (Split.start entry m (List.replicate 64 0) s.ticks)
    { s with identity := s.identity + 1, warps := Tab.put s.warps s.identity w }) s

/-- A workgroup added at admission. -/
def addGroup (n : Kernel) (k : Nat) (s : State) (p : Nat × Nat × List Nat) : State :=
  let g := s.fresh
  let warps := (List.range p.2.2.length).map fun j => s.identity + j
  let x := Workgroup.start k p.1 (stageOf n.stcount p.1) p.2.1 n.lanes warps p.2.2
  addWarps { s with fresh := g + 1, wgs := Tab.put s.wgs g x } g p.2.1 n.lanes (n.entry.setWidth 57) p.2.2

/-- The cores that a skein spans take its share (01_machine R35, R276). -/
def setShares (t : Tab Nat) (l : Load) : Tab Nat := l.span.foldl (fun t c => Tab.put t c l.kernel.share) t

/-- A skein at admission: its coordinate in linear order with x fastest (R276), every allotment zero (R45). -/
def admitOne (lk : Nat) (s : State) (x : Nat × Load) : State :=
  match Tab.get? s.launches lk with
  | none => s
  | some l =>
    let k := s.fresh
    let n := l.kernel
    let r := l.record
    let s1 := { s with fresh := k + 1 }
    let s2 := (List.zip (List.range n.wgs) (List.zip x.2.cores x.2.quarters)).foldl (addGroup n k) s1
    let sk : Skein :=
      { launch := lk, x := l.next % max 1 r.gx, y := l.next / max 1 r.gx % max 1 r.gy, z := l.next / max 1 (r.gx * r.gy),
        age := s.admissions, phase := .admitted, quad := x.1, cores := x.2.span,
        wgs := (s2.wgs.filter fun g => g.2.skein == k).map fun g => g.1,
        scratch := [], scratchPoison := [],
        queues := List.replicate (n.stages - 1) { pushed := 0, committed := [], popped := 0, emptied := [] },
        full := n.coop, requested := false, resident := true, placedAt := s.timer, debugStop := false }
    { s2 with
      admissions := s.admissions + 1
      shares := setShares s.shares x.2
      skeins := Tab.put s2.skeins k sk
      launches := Tab.put s2.launches lk { l with next := l.next + 1 } }

/-- The commands of some workgroups once their die may have changed: the pages of what is left are walked again. -/
def rewalk (s : State) (gs : List Nat) : State :=
  let again (x : Cmd) : Cmd := if gs.contains x.wg then { x with walked := x.progress } else x
  { s with cmds := Tab.mapVal s.cmds again }

/-- A saved skein resumed where it is placed (R282). -/
def resumeOne (k : Nat) (s : State) (x : Nat × Load) : State :=
  match Tab.get? s.skeins k with
  | none => s
  | some sk =>
    let place (s : State) (p : Nat × Nat × List Nat) : State :=
      match Tab.get? s.wgs p.1 with
      | none => s
      | some g =>
        let seat (w : Warp) : Warp := { w with core := p.2.1, quarter := p.2.2.getD w.index w.quarter }
        { s with
          wgs := Tab.put s.wgs p.1 { g with core := p.2.1, quarters := p.2.2 }
          warps := s.warps.map fun w => if g.warps.contains w.1 then (w.1, seat w.2) else w }
    let s1 := rewalk ((List.zip sk.wgs (List.zip x.2.cores x.2.quarters)).foldl place s) sk.wgs
    { s1 with shares := setShares s1.shares x.2, skeins := Tab.put s1.skeins k { sk with
        quad := x.1, cores := x.2.span, resident := true, phase := .resuming, placedAt := s.timer } }

/-! ### Placement (R276, R282) -/

/-- The queues of a level in round-robin order, after the one served last (R276). -/
def queuesOfLevel (s : State) (level : Nat) : List Nat :=
  let qs := (s.queues.filter fun q => q.2.level == level).map fun q => q.1
  let last := s.turns.getD level 0
  (qs.filter fun q => decide (last < q)) ++ qs.filter fun q => decide (q ≤ last)

/-- The candidates of every queue, highest level first, each with its queue and level. -/
def candidates (s : State) : List (Nat × Nat × Candidate) :=
  (List.range 4).flatMap fun level => (queuesOfLevel s level).filterMap fun q =>
    (candidateOf s q).map fun c => (level, q, c)

/-- A placement as a load of a candidate. -/
def Load.seated (l : Load) (p : Placement) : Load := { l with span := p.span, cores := p.cores, quarters := p.quarters }

/-- Two lists of cores group workgroups alike (R282). -/
def sameGroups (a b : List Nat) : Bool :=
  a.length == b.length && (List.zip a b).all fun x => (List.zip a b).all fun y => (x.1 == y.1) == (x.2 == y.2)

/-- The place of a candidate's skein: the one given, where it fits, or one that the search finds. -/
def placeFor (s : State) (l : Load) (saved : Bool) (plan : Option Placement) : Option (Nat × Load) :=
  match plan with
  | none => planAny (usableCores s) (shareOf s) (quadLoads s) l saved false
  | some p =>
    let x := l.seated p
    if placementFits (usableCores s p.quad) p.quad (shareOf s) (quadLoads s p.quad) x && decide (p.quad < quads) &&
        (!saved || sameGroups l.cores p.cores) then some (p.quad, x)
    else none

/-- A grid's saved skeins, resumed together; none where one of them cannot be placed (R49). -/
def resumeGrid (n : Kernel) : List Nat → State → Option State
  | [], s => some s
  | k :: rest, s =>
    match Tab.get? s.skeins k with
    | none => none
    | some sk => match placeFor s (loadOf s sk n) true none with
      | none => none
      | some x => resumeGrid n rest (resumeOne k s x)

/-- The places of a whole grid (R49): after a given first one, or all of them as the search finds them, its workgroups spread
over the cores or, where that does not fit, packed. -/
def gridFor (s : State) (l : Launch) (first : Nat × Load) (given : Bool) : Option (List (Nat × Load)) :=
  let plan (packed : Bool) (n : Nat) (got : List (Nat × Load)) : Option (List (Nat × Load)) :=
    planGrid (usableCores s) (shareOf s) (quadLoads s) (newLoad s l.kernel) packed n got
  let n := gridSize l.record
  match plan false (n - 1) [first] with
  | some xs => some xs
  | none => if given then plan true (n - 1) [first] else plan true n []

/-- A candidate placed: one skein, or every skein of a `.coop` grid (R49). -/
def placeCandidate (s : State) (c : Candidate) (plan : Option Placement) : Option State :=
  match c with
  | .fresh lk =>
    match Tab.get? s.launches lk with
    | none => none
    | some l => match placeFor s (newLoad s l.kernel) false plan with
      | none => none
      | some x =>
        if l.kernel.coop then
          (gridFor s l x plan.isSome).map fun xs => xs.foldl (admitOne lk) s
        else some (admitOne lk s x)
  | .saved k =>
    match Tab.get? s.skeins k with
    | none => none
    | some sk => match Tab.get? s.launches sk.launch with
      | none => none
      | some l => match placeFor s (loadOf s sk l.kernel) true plan with
        | none => none
        | some x =>
          let s1 := resumeOne k s x
          let grid := s.skeins.filter fun y => y.2.launch == sk.launch
          if l.kernel.coop then
            if grid.all fun y => y.2.phase == .saved then
              resumeGrid l.kernel ((grid.filter fun y => y.1 != k).map fun y => y.1) s1
            else none
          else some s1

/-- A queue has been served: the round robin moves on, and its next skein begins to wait. -/
def served (s : State) (level q : Nat) : State :=
  updQueue { s with turns := setAt s.turns level q } q fun x => { x with
    waitingSince := if (candidateOf s q).isSome then some s.timer else none }

/-! ### Pre-emption (R280, R281) -/

/-- The L7 or firmware requests pre-emption of a resident skein (R280). -/
def execPreemptionRequest (k : Nat) (s : State) : Out := .next (requestPreempt s k)

/-- The level of a skein's launch. -/
def levelOf (s : State) (k : Skein) : Nat := match Tab.get? s.launches k.launch with | some l => l.level | none => 3

/-- The resident skein to pre-empt for a candidate of a level that cannot be placed: of the lowest lower level, the
youngest (R280). -/
def victimFor (s : State) (level : Nat) : Option Nat :=
  ((s.skeins.filter fun k => k.2.active && decide (level < levelOf s k.2)).foldl
    (fun (best : Option (Nat × Nat × Nat)) k =>
      let key := (levelOf s k.2, k.2.age)
      match best with
      | none => some (key.1, key.2, k.1)
      | some b => if b.1 < key.1 ∨ (b.1 = key.1 ∧ b.2.1 < key.2) then some (key.1, key.2, k.1) else best) none).map fun b => b.2.2

/-- The machine with no skein of a level below the given one resident. -/
def withoutLower (s : State) (level : Nat) : State :=
  { s with skeins := s.skeins.filter fun k => !(k.2.resident && decide (level < levelOf s k.2)) }

/-- A candidate waits for pre-emption: it cannot be placed, and would fit with the resident skeins of lower levels gone (R280; with
none of them in its way it waits for its own level, DESIGN CHOICE, log entry 103). -/
def awaitsRoom (s : State) (x : Nat × Nat × Candidate) : Bool :=
  (placeCandidate s x.2.2 none).isNone && (placeCandidate (withoutLower s x.1) x.2.2 none).isSome

/-- The first candidate that waits for pre-emption, the highest level first. -/
def firstAwaiting (s : State) : Option (Nat × Nat × Candidate) := (candidates s).find? (awaitsRoom s)

/-- The candidates that may be placed now, highest level first (R276): while one waits for pre-emption none of a lower level is
placed, since it would take what the pre-emption frees (R280; DESIGN CHOICE, log entry 103). -/
def topCandidates (s : State) : List (Nat × Nat × Candidate) :=
  match firstAwaiting s with
  | none => candidates s
  | some x => (candidates s).filter fun y => decide (y.1 ≤ x.1)

/-- The pre-emption that the first waiting candidate calls for, when none is under way. -/
def preemptFor (s : State) : Option Nat :=
  match firstAwaiting s with
  | none => none
  | some x => if s.skeins.any fun k => k.2.phase == .preempting then none else victimFor s x.1

/-- The first candidate that can be placed is (R276): with the given plan where there is one; a candidate that could be
placed elsewhere is not overtaken. -/
def placeFirst (s : State) (plan : Option Placement) : List (Nat × Nat × Candidate) → Option State
  | [] => none
  | (level, q, c) :: rest =>
    match placeCandidate s c plan with
    | some t => some (served t level q)
    | none => if plan.isSome && (placeCandidate s c none).isSome then none
      else placeFirst s plan rest

/-- The scheduler places a skein on a quad and admits it if the test passes (R276). -/
def execSkeinPlacement (plan : Placement) (s : State) : Out :=
  .next ((placeFirst s (some plan) (topCandidates s)).getD s)

/-- A queue's head skein has waited longer than its level's slice, which 0 disables (R280). -/
def sliceOver (s : State) (x : Queue) : Bool :=
  let us := s.slices.getD x.level 0
  match x.waitingSince with
  | some t => us != 0 && decide (t + 1000 * us < s.timer)
  | none => false

/-- A queue's head skein has waited longer than its level's slice: the longest-resident skein of the level from another
queue is pre-empted (R280). -/
def execTimeSliceExpiry (q : Nat) (s : State) : Out :=
  match Tab.get? s.queues q with
  | none => .next s
  | some x =>
    if sliceOver s x = false then .next s
    else if (candidateOf s q).isNone = true then .next (updQueue s q fun y => { y with waitingSince := none })
    else
      let others := s.skeins.filter fun k => k.2.active && levelOf s k.2 == x.level && queueOf s k.2.launch != some q
      let longest := others.foldl (fun (best : Option (Nat × Nat)) k => match best with
        | none => some (k.2.placedAt, k.1)
        | some b => if k.2.placedAt < b.1 then some (k.2.placedAt, k.1) else best) none
      let s1 := updQueue s q fun y => { y with waitingSince := some s.timer }
      .next (match longest with | some b => requestPreempt s1 b.2 | none => s1)

/-- The warps of a skein that are still in the machine. -/
def skeinWarps (s : State) (k : Nat) : List (Nat × Warp) :=
  let ws := warpsOfSkein s k
  s.warps.filter fun w => ws.contains w.1

/-- Accesses, commands and queue instructions of a skein that are still under way. -/
def skeinHeld (s : State) (k : Nat) (sk : Skein) : Bool :=
  let ws := warpsOfSkein s k
  let mine (c : Nat) : Bool := match Tab.get? s.cmds c with | some x => sk.wgs.contains x.wg | none => false
  (s.xlate.held.any fun h => match h.2.waiter with
    | .lanes w _ _ _ _ _ _ => ws.contains w
    | .command c => mine c
    | .fetch w _ => ws.contains w
    | .stalled w _ => ws.contains w
    | .engine g => sk.wgs.contains g
    | .retire _ => false
    | .queue _ => false
    | .graph _ => false
    | .network _ => false) || s.net.queueOps.any fun q => ws.contains q.2.warp

/-- A stalled queue instruction has its answer, and completes before its skein is saved (23_pod R332). -/
def Split.answered (sp : Split) : Bool :=
  match sp.stall with | .queue _ (some _) => true | _ => false

/-- The result of an `rwait` that has no reply yet (09_control R169). -/
def Pend.awaitsReply (p : Pend) : Bool := !p.done && p.open_ && p.tag.isSome

/-- A result is saved as it stands, after some earlier ones: it is written back, or its window is open; it is that of a matrix
instruction, where the queue stands and starts no more of them (R266); or its value is there, and it comes after one so saved (R84).
Everything else is waited for, a matrix instruction that can still start, and an `rwait` until its reply or its timer, among it (R88,
R281; DEDUCED, log entry 127). -/
def Pend.savedAs (stands : Bool) (earlier : List Pend) (p : Pend) : Bool :=
  p.done || decide (0 < p.window) || (stands && p.open_ && p.tag.isNone) ||
    (p.arrived && !p.open_ && p.held == 0 && !p.due earlier)

/-- Every result of a list, in program order, is saved as it stands. -/
def allSaved (stands : Bool) : List Pend → List Pend → Bool
  | _, [] => true
  | earlier, p :: rest => p.savedAs stands earlier && allSaved stands (p :: earlier) rest

/-- No write of a split is waited for before a save. -/
def Split.drained (stands : Bool) (sp : Split) : Bool := allSaved stands [] sp.pend

/-- An issuing split cannot go on: its word had to stay in the run, and none of its results has come any further since.  While its
warp's matrix queue stands it is saved as it is, stalled in mid-run (R266, R281; DEDUCED, log entry 127). -/
def Split.heldBack (stands : Bool) (sp : Split) : Bool :=
  stands && sp.stuck != 0 && sp.stuck == sp.undone && !(sp.pend.any fun p => p.awaitsReply)

/-- A split whose state may be saved (R281): it is not issuing, or its word cannot go on before a queued matrix instruction; at its
trailer it waits for one; a queue instruction has no answer; and no other write is still to come. -/
def Split.quiet (s : State) (wk e : Nat) (stands : Bool) (sp : Split) : Bool :=
  (sp.status != .issuing || sp.heldBack stands) &&
  (sp.status != .waiting || sp.run.words == [] || trailerHolds s wk e sp) && !sp.answered && sp.drained stands

/-- A warp whose state may be saved; a spilled split executes nothing, and is saved as it is once its writes have drained
(09_control R150). -/
def Warp.quiet (s : State) (wk : Nat) (w : Warp) : Bool :=
  let stands := queueStands s w
  w.unack.getD 2 0 == 0 && (w.splits.all fun p => p.2.quiet s wk p.1 stands) && w.spill.all fun x => x.split.drained stands

/-- A party of the skein executes. -/
def skeinFocused (s : State) (k : Nat) (sk : Skein) : Bool :=
  match s.focus with
  | .none => false
  | .split wk _ => (warpsOfSkein s k).contains wk
  | .engine g => sk.wgs.contains g

/-- A pre-empting skein has drained (R281, 13_consistency R231, 21_near_memory R322). -/
def skeinDrained (s : State) (k : Nat) (sk : Skein) : Bool :=
  !skeinFocused s k sk && !skeinHeld s k sk && ((skeinWarps s k).all fun w => w.2.quiet s w.1) &&
  !(s.nearOps.any fun x => (warpsOfSkein s k).contains x.2.warp) &&
  sk.wgs.all fun g => match (Tab.get? s.wgs g).bind fun x => x.engine with
    | some e => e.unack.getD 2 0 == 0
    | none => true

/-- A run whose slot is released in mid-run is fetched again when its split resumes; one that stands at its trailer is not
(R151).  A run that had been issued goes on as issued: pre-emption is no occasion to re-gang (R50). -/
def Split.unslot (sp : Split) : Split :=
  match sp.status with
  | .waiting => { sp with run := { sp.run with slot := none } }
  | .issuing => { sp with
      status := .ready, stall := if sp.stall = .none then .issued else sp.stall, run := { sp.run with words := [], slot := none } }
  | _ => { sp with run := { sp.run with words := [], slot := none } }

/-- A pre-empting skein has drained: its state is saved and its resources are freed (R281). -/
def execPreemptionSaveComplete (k : Nat) (s : State) : Out :=
  match Tab.get? s.skeins k with
  | none => .next s
  | some sk =>
    if sk.phase ≠ .preempting ∨ skeinDrained s k sk = false then .next s
    else
      let ws := warpsOfSkein s k
      let save (w : Warp) : Warp := { w with splits := Tab.mapVal w.splits Split.unslot }
      let s1 := { s with
        warps := s.warps.map fun w => if ws.contains w.1 then (w.1, save w.2) else w
        skeins := Tab.put s.skeins k { sk with phase := .saved, resident := false } }
      .next (grantRequests (beginWait s sk.launch s1))

/-! ### Retirement (R175, R279) -/

/-- A warp with nothing left to do. -/
def warpDone (s : State) (wk : Nat) (w : Warp) : Bool :=
  w.far.isNone && w.launched &&& ~~~w.exited == 0 && w.splits.isEmpty && w.spill.isEmpty && w.mqueue.isEmpty &&
  w.unack.getD 4 0 == 0 && !(s.nearOps.any fun x => x.2.warp == wk) && !(s.cmds.any fun c => c.2.warp == wk) &&
  !(s.xlate.held.any fun h => match h.2.waiter with
    | .lanes x _ _ _ _ _ _ => x == wk
    | _ => false)

/-- The open slots of a retiring warp: pushes are committed, pops emptied (11_memory R195). -/
def closeSlots (s : State) (k : Nat) (w : Warp) : State :=
  let change (s : State) (q : Nat) (f : WeftQueue → WeftQueue) : State :=
    { s with skeins := Tab.upd s.skeins k fun y => { y with queues := updAt y.queues q f } }
  let s1 := w.openPush.foldl (fun s p => change s p.1 fun x => x.commit p.2) s
  w.openPop.foldl (fun s p => change s p.1 fun x => x.clear p.2) s1

/-- A skein whose last warp has retired is retiring (R279). -/
def lastRetired (s : State) (k : Nat) : State :=
  if skeinWarps s k = [] then { s with skeins := Tab.upd s.skeins k fun x => if x.active then { x with phase := .retiring } else x }
  else s

/-- A warp whose lanes have all exited retires once its outstanding work has drained (R175). -/
def execWarpRetire (wk : Nat) (s : State) : Out :=
  match Tab.get? s.warps wk with
  | none => .next s
  | some w =>
    if warpDone s wk w = false then .next s
    else match wgOf s w with
      | none => .next s
      | some g =>
        let s1 := closeSlots { s with warps := Tab.del s.warps wk } g.skein w
        .next (lastRetired (testBarriers s1 g.skein) g.skein)

/-- A skein's launch is stopping. -/
def skeinStopping (s : State) (sk : Skein) : Bool :=
  match Tab.get? s.launches sk.launch with | some l => l.phase == .stopping | none => true

/-- A skein has nothing left: its warps have retired, or in a stopping launch stand at run boundaries; its engine programs
and commands have ended. -/
def skeinDone (s : State) (k : Nat) (sk : Skein) : Bool :=
  let ws := skeinWarps s k
  !skeinHeld s k sk && !(s.cmds.any fun c => sk.wgs.contains c.2.wg) &&
  (sk.wgs.all fun g => match (Tab.get? s.wgs g).bind fun x => x.engine with
    | some e => !e.running
    | none => true) &&
  !(s.nearOps.any fun x => ws.any fun w => w.1 == x.2.warp) &&
  (if skeinStopping s sk then ws.all fun w => w.2.splits.all fun p => p.2.status != .issuing else ws.isEmpty)

/-- A skein retires: its warps, workgroups and page ownerships go, and its capacity is free (R184, R279). -/
def execSkeinRetire (k : Nat) (s : State) : Out :=
  match Tab.get? s.skeins k with
  | none => .next s
  | some sk =>
    if skeinDone s k sk = false then .next s
    else
      let ws := warpsOfSkein s k
      .next (grantRequests { s with
        warps := s.warps.filter fun w => !ws.contains w.1
        wgs := s.wgs.filter fun g => !sk.wgs.contains g.1
        skeins := Tab.del s.skeins k
        xlate := { s.xlate with owners := s.xlate.owners.filter fun o => o.2 != k } })

/-- The engine program of a stopping launch ends at its command boundary, with ABORT to the ring's status object (R265,
R283), but for a rollback, which discards its queued work without ABORT (25_reliability R352). -/
def abortEngine (g : Nat) (s : State) : Out :=
  match Tab.get? s.wgs g with
  | none => .next s
  | some x => match x.engine with
    | none => .next s
    | some e =>
      let s1 := { s with wgs := Tab.put s.wgs g { x with engine := some { e with running := false } } }
      let back := match Tab.get? s.skeins x.skein with
        | some k => (match Tab.get? s.launches k.launch with | some l => l.rollbackWanted | none => false)
        | none => false
      .next (match x.ring with
        | some r => if back then s1 else orStatusAt s1 x.skein r.status.toNat statusAbort 0 0
        | none => s1)

end Sys2Proof.Machine
end

