-- ==== Sys2Proof/Machine/Select.lean ====
section
/-! DEFINITION. Fetching a run into an instruction-buffer slot (09_control R151, 19_translation R294), and the issue selector
(17_scheduling R278, 01_machine R22). -/

namespace Sys2Proof.Machine

/-! ### Fetch -/

/-- What fetching words comes to. -/
inductive Fetch where
  | ok (s : State) (words : List Word)
  | replay (host : Bool) (addr : DWord)
  | fault (cause : Nat)
  | hole
  deriving DecidableEq, Repr

/-- One word fetched. -/
def fetchWord (s : State) (p : Party) (a : DWord) : Fetch :=
  match translate s p.asid a .fetch with
  | .fault c => .fault c
  | .poison => .fault 0x13
  | .hole => .hole
  | .replay h => .replay h a
  | .ok l cls _ =>
    if poisonLoc s l 4 then .fault 0x13
    else
      let s1 := beforeAccess s p (a.toNat % 2 ^ 57) l cls false
      .ok s1 [BitVec.ofNat 32 (leNat (readLoc s1 l 4))]

/-- The words of a run: from its start to the first trailer, 24 at most (05_encoding R80). -/
def fetchRun (p : Party) : Nat → State → Pc → Fetch
  | 0, s, _ => .ok s []
  | n + 1, s, pc =>
    match fetchWord s p (pc64 pc) with
    | .ok s1 (w :: _) =>
      if isTrailer w then .ok s1 [w]
      else (match fetchRun p n s1 (pc + 4) with
        | .ok s2 rest => .ok s2 (w :: rest)
        | r => r)
    | r => r

/-- The resident warps and far tasks of a quarter. -/
def quarterWarps (s : State) (core quarter : Nat) : List (Nat × Warp) :=
  s.warps.filter fun w => w.2.core == core && w.2.quarter == quarter &&
    (w.2.far.isSome || match skOf s w.2 with | some k => k.resident | none => false)

/-- The splits of a warp whose run holds a slot of a kind. -/
def slotsHeld (w : Warp) (b : BufferSlot) : Nat := (w.splits.filter fun p => p.2.run.slot == some b).length

/-- The slot a run goes into: a shared one while one is free, then its warp's reserved one (R151).  A warp admitted while
shared runs fill what is left has its reserved slot at once, those runs keeping theirs, and a far task's own slot (R165) lies beyond
the quarter's 24 (DESIGN CHOICE, log entry 108). -/
def freeSlot (s : State) (w : Warp) : Option BufferSlot :=
  let ws := quarterWarps s w.core w.quarter
  let resident := (ws.filter fun x => x.2.far.isNone).length
  let used := sumOf (ws.map fun x => slotsHeld x.2 .shared)
  if used + resident < Config.bufferSlots then some .shared
  else if slotsHeld w .reserved = 0 then some .reserved
  else none

/-- A split whose run is to be fetched: it stands at a word and holds no slot. -/
def Split.wantsFetch (sp : Split) : Bool :=
  (sp.status == .ready || ((sp.status == .waiting || sp.status == .stalled) && sp.run.words == [])) && sp.run.slot.isNone &&
    (sp.lanes != 0 || sp.trap.handler)

/-- The status of a split that waits for its run: one that stalls at a word of it stalls still. -/
def Split.fetching (sp : Split) (st : SplitStatus) : SplitStatus := if sp.status = .stalled then .stalled else st

/-- A run is fetched whole into a slot (R151), held for a page, or its fetch faults (R294). -/
def execRunFetch (wk e : Nat) (s : State) : Out :=
  match cxOf s wk e with
  | none => .next s
  | some c =>
    if !c.sp.wantsFetch || s.xlate.held.any fun h => h.2.waiter == .fetch wk e then .next s
    else match c.sp.stall with
    | .denied cause => c.deniedFetch cause
    | _ => match freeSlot s c.w with
      | none => .next (Cx.commit { c with sp := { c.sp with status := c.sp.fetching .waiting } })
      | some b =>
        let p := partyOf s c.w
        let at_ (st : SplitStatus) : Cx := { c with sp := { c.sp with status := st } }
        match fetchRun p Config.runWords s c.sp.run.start with
        | .ok s1 ws =>
          let d := c.reread s1
          let back := d.sp.status == .waiting
          .next (Cx.commit { d with sp := { d.sp with
            status := d.sp.fetching .ready, readyAt := if back then s.ticks else d.sp.readyAt,
            run := { d.sp.run with words := ws, slot := some b } } })
        | .replay h a =>
          if noRoom s p h a then .next (at_ (c.sp.fetching .waiting)).commit
          else .next (holdOne (at_ (c.sp.fetching .waiting)).commit p h a false (.fetch wk e))
        | .fault cause => (at_ .ready).trapBefore cause true
        | .hole => .fault .physicalHole

/-! ### The selector (R278) -/

/-- A split that the selector may choose: ready, with its run in a slot. -/
def Split.selectable (sp : Split) : Bool := sp.status == .ready && sp.run.slot.isSome

/-- The splits of a warp that re-gang: at one run-start address, none in a handler (01_machine R16, R22, R24). -/
def mayRegang (sp : Split) : Bool :=
  sp.selectable && !sp.yielded && !sp.trap.handler && sp.stall == .none && sp.run.pos == 0 && sp.faults.isEmpty

/-- The groups of two or more splits of a warp that re-gang, by address. -/
def regangGroups (w : Warp) : List (List Nat × Pc) :=
  let l := w.splits.filter fun p => mayRegang p.2
  ((distinct (l.map fun p => p.2.run.start)).map fun pc =>
    ((l.filter fun p => p.2.run.start == pc).map fun p => p.1, pc)).filter fun g => decide (2 ≤ g.1.length)

/-- A warp's splits re-gang before the choice (R22, R278). -/
def regangWarp (clock : Nat) (w : Warp) : Warp :=
  if regangGroups w = [] then w
  else ((regangGroups w).foldl (fun w g => w.regang g.1 g.2 clock) w).refill clock

/-- A warp issues new runs: its skein is neither pre-empting nor stopping (R281, R283). -/
def mayIssue (s : State) (w : Warp) : Bool :=
  if w.far.isSome then true
  else match skOf s w, lnOf s w with
    | some k, some l => k.active && l.phase == .started
    | _, _ => false

/-- A split may issue: its warp issues new runs, or it goes on with a queue instruction that its module has answered, which
completes before the skein is saved (23_pod R332). -/
def maySelect (s : State) (w : Warp) (sp : Split) : Bool :=
  mayIssue s w || (sp.answered && match lnOf s w with | some l => l.phase == .started | none => false)

/-- The key of a candidate: skein age, workgroup, warp, address, entry.  The warps of a skein are numbered by workgroup, then within it,
and a far task, which has no skein, comes after every skein (R278; DESIGN CHOICE, log entry 125). -/
def selectKey (s : State) (w : Warp) (e : Nat) (sp : Split) : List Nat :=
  match skOf s w, wgOf s w with
  | some k, some g => [k.age, g.index, w.index, sp.run.here.toNat, e]
  | _, _ => [s.admissions, 0, 0, sp.run.here.toNat, e]

/-- Lexicographic order. -/
def lexLt : List Nat → List Nat → Bool
  | a :: as, b :: bs => decide (a < b) || (a == b && lexLt as bs)
  | [], _ :: _ => true
  | _, [] => false

/-- The least of some keyed candidates. -/
def leastOf (l : List (List Nat × Nat × Nat)) : Option (Nat × Nat) :=
  (l.foldl (fun (best : Option (List Nat × Nat × Nat)) x => match best with
    | none => some x
    | some b => if lexLt x.1 b.1 then some x else best) none).map fun b => b.2

/-- The split that a quarter issues next (R278): the oldest of age 256 or more, then by skein, warp, address and entry
among the splits not marked by `yield`, then among the marked ones.  Of two of one such age the first in the warp table's order issues
(DESIGN CHOICE, log entry 125). -/
def chooseSplit (s : State) (core quarter : Nat) : Option (Nat × Nat) :=
  let all := (quarterWarps s core quarter).flatMap fun w =>
    (w.2.splits.filter fun p => p.2.selectable && maySelect s w.2 p.2).map fun p => (w, p)
  let aged := all.filter fun x => decide (256 ≤ s.ticks - x.2.2.readyAt)
  let keyed (x : (Nat × Warp) × (Nat × Split)) : List Nat × Nat × Nat :=
    (selectKey s x.1.2 x.2.1 x.2.2, x.1.1, x.2.1)
  match leastOf (aged.map fun x => ([x.2.2.readyAt], x.1.1, x.2.1)) with
  | some b => some b
  | none => match leastOf ((all.filter fun x => !x.2.2.yielded).map keyed) with
    | some b => some b
    | none => leastOf (all.map keyed)

/-- A skein whose first run issues is running (R279). -/
def runSkein (s : State) (w : Warp) : State :=
  match wgOf s w with
  | none => s
  | some g => { s with skeins := Tab.upd s.skeins g.skein fun k =>
      if k.phase = .admitted ∨ k.phase = .resuming then { k with phase := .running } else k }

/-- What a split waits for once its run issues: a run that had been issued before a save is under way again, and what comes after is
as if there had been no save (01_machine R50). -/
def Stall.begun (x : Stall) : Stall := if x = .issued then .none else x

/-- The quarter q, counted over the package, re-gangs and chooses its next split, whose run then issues (R278). -/
def execIssueSelector (q : Nat) (s : State) : Out :=
  let core := q / 4
  let quarter := q % 4
  let mine := ((quarterWarps s core quarter).filter fun w => mayIssue s w.2).map fun w => w.1
  let s1 := { s with warps := s.warps.map fun w => if mine.contains w.1 then (w.1, regangWarp s.ticks w.2) else w }
  match chooseSplit s1 core quarter with
  | none => .next s1
  | some (wk, e) => match cxOf s1 wk e with
    | none => .next s1
    | some c =>
      let s2 := runSkein (Cx.commit { c with sp := { c.sp with status := .issuing, yielded := false, readyAt := s.ticks, stall := c.sp.stall.begun } }) c.w
      .next { s2 with focus := .split wk e }

end Sys2Proof.Machine
end

