-- ==== Sys2Proof/Machine/Reliability.lean ====
section
/-! DEFINITION. Errors and scrubbing (25_reliability R343), snapshot launches and rollback (R349 to R353), fencing (R354),
limits (R356), start and reset (R357 to R360), and the host's registers (R361). -/

namespace Sys2Proof.Machine

/-! ### The host's registers (R361) -/

/-- The platform changed. -/
def updPlat (s : State) (f : Platform → Platform) : State := { s with plat := f s.plat }

/-- A bit of HOST_EVENT set: 0 CE, 1 UE, 2 FENCE, 3 THERMAL, 4 ROLLBACK. -/
def raiseEvent (s : State) (bit : Nat) : State := updPlat s fun p => { p with hostEvent := p.hostEvent ||| (1#5 <<< bit) }

/-- PHASE of HOST_STATE. -/
def hostPhase (p : Power) : Nat :=
  match p with
  | .ready => 1
  | .recovery => 2
  | .fatal => 3
  | .unpowered => 0
  | .step1 => 0
  | .dies _ => 0
  | .stacks _ => 0
  | .coreGroups _ => 0

/-- Cores not fenced. -/
def liveCores (s : State) : Nat :=
  ((List.range Config.cores).filter fun c => !s.plat.fenced.contains (.core c)).length

/-- Usable HBM in GiB.  A 64 KiB frame lies in the channels of two numbers of every stack, by bits [19:16] of its address, so a fenced
channel withdraws a sixteenth of all frames, 24 GiB (21_near_memory R302; DEDUCED, log entry 94). -/
def liveHbm (s : State) : Nat := 384 - 24 * ((List.range 16).filter fun k => pageWithdrawn s (k * 2 ^ 16) 16).length

/-- The host link offers its registers: in RECOVERY it offers HOST_STATE and SPDM alone (R357). -/
def linkOpen (s : State) : Bool := s.plat.power != .recovery

/-- A register of BAR0 as the host reads it; none where the link does not offer it. -/
def hostRegister (s : State) (offset : Nat) : Option Word :=
  if offset = 0x004 then some (BitVec.ofNat 32 (hostPhase s.plat.power + if s.plat.fenced.isEmpty then 0 else 8))
  else if linkOpen s = false then none
  else match offset with
    | 0x000 => some 0x4C370100
    | 0x008 => some (BitVec.ofNat 32 (liveHbm s * 65536 + liveCores s))
    | 0x00C => some (s.plat.hostEvent.setWidth 32)
    | _ => some 0

/-- A host write of 1 clears bits of HOST_EVENT (R361). -/
def execHostEvent (v : BitVec 32) (s : State) : Out :=
  .next (if linkOpen s then updPlat s fun p => { p with hostEvent := p.hostEvent &&& ~~~(v.setWidth 5) } else s)

/-- The four measurements (R358): the ROM, the Evonto image, the firmware policy, and the fuse settings with the map of fenced
units. -/
def measurements (s : State) : List (List Byte) :=
  [Config.romHash, Config.imageHash s.plat.image, Config.policyHash s.plat.policy,
    Config.fuseHash s.plat.fuseVersion s.plat.fenced]

/-- An SPDM request is answered from the device key and the measurements; the manual gives no bytes for the answer (R358,
DESIGN CHOICE, log entry 17). -/
def execSpdmRequest (m : Nat) (s : State) : Out :=
  .next (updPlat s fun p => { p with
    spdm := p.spdm ++ [(m, Config.spdmAnswer s.clock m s.plat.deviceKey (measurements s))] })

/-! ### Errors (R343) -/

/-- The base die scrubs its stack: no value that any party reads changes (R343). -/
def execScrub (_stack : Nat) (s : State) : Out := .next s

/-- A correctable error was corrected and counted. -/
def countCorrected (s : State) : State := raiseEvent (updPlat s fun p => { p with corrected := p.corrected + 1 }) 0

/-- An uncorrectable error was detected. -/
def countUncorrected (s : State) : State := raiseEvent (updPlat s fun p => { p with uncorrected := p.uncorrected + 1 }) 1

/-! ### Snapshot launches (R349 to R352) -/

/-- A 64 KiB page of the local tier as it stands. -/
def copyPage (s : State) (page : Nat) : PageCopy :=
  { bytes := (s.mem.filter fun x => x.1 / 65536 == page).map fun x => (x.1 % 65536, x.2)
    poison := (s.memPoison.filter fun g => g / 1024 == page).map fun g => g % 1024 }

/-- A page put back as it was copied. -/
def restorePage (s : State) (page : Nat) (c : PageCopy) : State :=
  { s with
    mem := c.bytes.foldl (fun m x => Mem.write m (page * 65536 + x.1) x.2) (s.mem.filter fun x => x.1 / 65536 != page)
    memPoison := (s.memPoison.filter fun g => g / 1024 != page) ++ c.poison.map fun g => page * 1024 + g }

/-- The copy of a page into the snapshot pool completes, and the writes that wait for it proceed (R349); a full pool makes
them wait (R350). -/
def execSnapshotPageCopy (l page : Nat) (s : State) : Out :=
  match Tab.get? s.launches l with
  | none => .next s
  | some x =>
    if !x.wanted.contains page || decide (x.pool ≤ x.copied.length) then .next s
    else
      .next { s with launches := Tab.put s.launches l { x with
        copied := Tab.put x.copied page (copyPage s page), wanted := x.wanted.filter fun p => p != page } }

/-- Firmware sizes or enlarges the pool of a launch, or declines and the launch is cancelled (R350). -/
def execSnapshotPoolDecision (l : Nat) (grow : Option Nat) (s : State) : Out :=
  match Tab.get? s.launches l, grow with
  | none, _ => .next s
  | some x, some n => .next { s with launches := Tab.put s.launches l { x with pool := x.pool + n } }
  | some x, none => .next (if x.wanted ≠ [] ∧ x.pool ≤ x.copied.length then cancelLaunch s l else s)

/-- A snapshot launch is stopped, restored from the pool and replayed; the third time it is cancelled, and firmware reports the
address that failed (R352). -/
def execRollback (l : Nat) (s : State) : Out :=
  match Tab.get? s.launches l with
  | none => .next s
  | some x =>
    if !x.rollbackWanted || !launchQuiet s l then .next s
    else
      let s1 := raiseEvent (x.copied.foldl (fun s c => restorePage s c.1 c.2) s) 4
      let again := launchOf x.origin x.asid x.level x.record x.kernel
      if x.cancelled || decide (2 ≤ x.rollbacks) then
        .next { s1 with
          launches := Tab.put s1.launches l { x with copied := [], wanted := [], rollbackWanted := false, cancelled := true }
          plat := { s1.plat with failures := s1.plat.failures ++ if x.cancelled then [] else [(l, x.failing)] } }
      else
        let s2 := beginWait s1 l
          { s1 with launches := Tab.put s1.launches l { again with rollbacks := x.rollbacks + 1, pool := x.pool } }
        .next (match x.origin with
          | .slot q index => (match Tab.get? s2.queues q with
            | some y => putResult s2 y index 1 0
            | none => s2)
          | .node _ _ => s2)

/-! ### Fencing and limits (R354, R356) -/

/-- A unit the package has.  Its five dies, joined in a full mesh, have ten causeway links, numbered from 0 (00_scope R4; the numbering
is a DESIGN CHOICE, log entry 111). -/
def unitExists (u : FencedUnit) : Bool :=
  match u with
  | .core n => decide (n < Config.cores)
  | .l2Slice n => decide (n < 96)
  | .hbmChannel n => decide (n < 256)
  | .causewayLink n => decide (n < 10)
  | .modulePort n => decide (n < Config.modulePorts)
  | .ethernetPort n => decide (n < 4)

/-- A core is fenced, and is no target of far tasks any more: the calls that wait there, those entered and not started among them, are
on their way again, to another core of the die (R354, 09_control R165; DEDUCED, log entry 138). -/
def releaseCalls (s : State) (core : Nat) : State :=
  match Tab.get? s.targets core with
  | none => s
  | some t =>
    let calls := t.entered ++ t.waiting
    let entered (x : CacheEntry) : Bool := t.entered.any fun m => m.caller == x.caller && m.seq == x.seq
    let s1 := { s with targets := Tab.put s.targets core { t with
      waiting := [], entered := [], cache := t.cache.filter fun x => !entered x.2 } }
    calls.foldl (fun s m => { s with fresh := s.fresh + 1, callMsgs := Tab.put s.callMsgs s.fresh m }) s1

/-- Firmware fences a failing unit (R354): a fenced module port loses its module for this package, a fenced core its waiting calls. -/
def execUnitFencing (u : FencedUnit) (s : State) : Out :=
  if !unitExists u || s.plat.fenced.contains u then .next s
  else
    let s1 := raiseEvent (updPlat s fun p => { p with fenced := p.fenced ++ [u] }) 2
    match u with
    | .modulePort n => (match Tab.get? s1.net.ports n with
      | some m => execModuleLoss m s1
      | none => .next s1)
    | .core n => .next (releaseCalls s1 n)
    | _ => .next s1

/-- Package current above the limit: matrix issue is paused per core, by rotation (R356): on the core after the one paused
last, from core 0 (DESIGN CHOICE, log entry 104). -/
def nextPaused (p : Platform) : Nat := match p.matrixPaused with | some c => (c + 1) % Config.cores | none => 0

/-- The pause begins, or moves to the next core. -/
def execCurrentLimit (s : State) : Out :=
  .next (raiseEvent (updPlat s fun p => { p with matrixPaused := some (nextPaused p) }) 3)

/-- The pause moves to the next core while the limit acts. -/
def rotatePause (s : State) : State := updPlat s fun p => { p with matrixPaused := some (nextPaused p) }

/-- Junction temperature of 105 °C: the arithmetic clock is lowered (R356). -/
def execTemperatureLimit (s : State) : Out := .next (raiseEvent (updPlat s fun p => { p with halfClock := true }) 3)

/-- 125 °C or excess current: every unit stops until board power is cycled (R356). -/
def execFatalLimit (s : State) : Out :=
  .next (raiseEvent { updPlat s fun p => { p with power := if p.power = .unpowered then .unpowered else .fatal } with focus := .none } 3)

/-! ### Start and reset (R357 to R360) -/

/-- What outlives a loss of power or a reset: the fuses, and what lies outside the package: host memory, the modules, and
the world's inputs still to come. -/
def restarted (s : State) (power : Power) : State :=
  let forget (m : Module) : Module :=
    { m with
      grants := m.grants.filter fun g => g.pkg != s.net.podpos
      lost := false
      rounds := m.rounds.map fun r => { r with contribs := r.contribs.map fun c => { c with cmd := none } }
      waiting := m.waiting.map fun w => (w.1, w.2.1, { w.2.2 with cmd := none }) }
  { State.reset with
    clock := s.clock, agenda := s.agenda, host := s.host, debugger := s.debugger
    net := { Net.empty with modules := Tab.mapVal s.net.modules forget, heads := s.net.heads }
    plat := { Platform.start with power := power, fuseVersion := s.plat.fuseVersion } }

/-- Power-good with PERST# deasserted starts step 1 (R360). -/
def execPowerGood (s : State) : Out := .next (if s.plat.power = .unpowered then restarted s .step1 else s)

/-- Loss of board power leaves the package holding only its fuses (R360). -/
def execBoardPowerRemoved (s : State) : Out := .next (restarted s .unpowered)

/-- A PCIe conventional reset restarts the sequence at step 1 (R359); a package that is off or FATAL stays so. -/
def execConventionalReset (s : State) : Out :=
  .next (if s.plat.power = .unpowered ∨ s.plat.power = .fatal then s else restarted s .step1)

/-- The next group of cores may start: it is the first of a start, or 4 µs have passed since the group before it (R359). -/
def groupDue (s : State) : Bool := s.plat.power == .coreGroups 0 || decide (s.plat.groupStartedAt + Config.groupSpacingNs ≤ s.timer)

/-- The cores of a group start their clocks (R359). -/
def clockGroup (s : State) (g : Nat) (p : Platform) : Platform :=
  { p with
    groupStartedAt := s.timer
    coreStart := (List.range Config.groupCores).foldl (fun t k => Tab.put t (Config.groupCores * g + k) s.ticks) p.coreStart }

/-- A group of 16 cores has started (R359). -/
def startGroup (s : State) (g : Nat) : State :=
  updPlat s fun p => { clockGroup s g p with
    power := if g + 1 < 20 then .coreGroups (g + 1) else .ready
    startedCores := Config.groupCores * (g + 1) }

/-- A core of a group is in use: a resident skein spans it, a far task runs on it or waits there, or its reply cache holds a call,
which a retry must meet (09_control R170). -/
def groupBusy (s : State) (g : Nat) : Bool :=
  (s.skeins.any fun k => k.2.resident && k.2.cores.any fun c => c / Config.groupCores == g) ||
  (s.warps.any fun w => match w.2.far with | some f => f.core / Config.groupCores == g | none => false) ||
  s.targets.any fun t => t.1 / Config.groupCores == g && !(t.2.waiting.isEmpty && t.2.cache.isEmpty)

/-- Firmware power-gates an idle core group of a package that is READY (R359; the manual says only that groups leave power gating:
DESIGN CHOICE, log entry 105). -/
def gateGroup (s : State) (g : Nat) : State :=
  if s.plat.power = .ready ∧ g < Config.cores / Config.groupCores ∧ s.plat.gated.contains g = false ∧ groupBusy s g = false then
    updPlat s fun p => { p with gated := p.gated ++ [g] }
  else s

/-- The checks of R357 on the firmware image. -/
def imageOk (s : State) (img : ImageCheck) : Bool := img.ecdsa && img.lms && decide (s.plat.fuseVersion ≤ img.version)

/-- The Evonto image is checked: the device key of this start is derived from it, and the dies start, or the package stays in RECOVERY
(R357 to R359).  The image that a start measures is the one it was given, accepted or not (DEDUCED, log entry 137). -/
def checkImage (s : State) (img : ImageCheck) : State :=
  updPlat s fun p => { p with
    power := if imageOk s img then .dies 0 else .recovery
    image := img.image, deviceKey := Config.deviceKey Config.romHash (Config.imageHash img.image) }

/-- A unit reports ready and the next one starts (R357, R359). -/
def execPowerUpStepReady (img : ImageCheck) (s : State) : Out :=
  let go (p : Power) : Out := .next (updPlat s fun x => { x with power := p })
  match s.plat.power with
  | .step1 => .next (checkImage s img)
  | .dies n => go (if n + 1 < 4 then .dies (n + 1) else .stacks 0)
  | .stacks n => go (if n + 1 < 8 then .stacks (n + 1) else .coreGroups 0)
  | .coreGroups n => .next (if groupDue s then startGroup s n else s)
  | .unpowered => .next s
  | .ready => .next s
  | .recovery => .next s
  | .fatal => .next s

/-- A core group starts, 4 µs after the one before: the one whose turn it is, or in a package that is READY one that leaves power
gating (R359). -/
def execCoreGroupStart (g : Nat) (s : State) : Out :=
  .next (
    if groupDue s = false then s
    else if s.plat.power = .coreGroups g then startGroup s g
    else if s.plat.power = .ready ∧ s.plat.gated.contains g = true then
      updPlat s fun p => { clockGroup s g p with gated := p.gated.filter fun x => x != g }
    else s)

/-- Every record of a queue that has not retired is cancelled (R283). -/
def cancelQueue (s : State) (q : Nat) : State :=
  match Tab.get? s.queues q with
  | none => s
  | some x =>
    let n := dist32 (queueHead s x) (queueTail s x)
    (List.range n).foldl (fun s k => match execCancelRecord q ((queueHead s x + k) % max 1 x.entries) s with
      | .next t => t
      | _ => s) s

/-- A Function Level Reset (R359): every record is cancelled, and the frames and cached entries of every bound ASID are
zeroed or removed as at its freeing (R355). -/
def execFunctionLevelReset (s : State) : Out :=
  let s1 := s.queues.foldl (fun s q => cancelQueue s q.1) s
  let bound := s1.xlate.contexts.map fun c => c.1
  let owned (f : Nat) : Bool := match frameOwner s1.xlate.frames f with | some a => bound.contains a | none => false
  let s2 := { s1 with
    mem := s1.mem.filter fun x => !owned (x.1 / 65536)
    memPoison := s1.memPoison.filter fun g => !owned (g / 1024) }
  .next (bound.foldl (fun s a => match execAsidFreeing a s with | .next t => t | _ => s) s2)

end Sys2Proof.Machine
end

