-- ==== Sys2Proof/Machine/Inputs.lean ====
section
/-! DEFINITION. What the world outside does to the package beside the events of the opcode table: writes by the host and by other
packages, detected errors, and firmware's settings (DESIGN CHOICE, log entry 3). -/

namespace Sys2Proof.Machine

/-- A poisoned granule marked once. -/
def addMark (l : List Nat) (g : Nat) : List Nat := if l.contains g then l else g :: l

/-- A warp's record after an uncorrectable error in it (25_reliability R343). -/
def hitWarp (s : State) (wk : Nat) (f : Warp → Warp) : State := countUncorrected (State.updWarp s wk f)

/-- A workgroup's record after an uncorrectable error in it. -/
def hitGroup (s : State) (g : Nat) (f : Workgroup → Workgroup) : State :=
  countUncorrected { s with wgs := Tab.upd s.wgs g f }

/-- The orders q of a pod: prime powers from 2 to 16 (23_pod R324). -/
def podOrders : List Nat := [2, 3, 4, 5, 7, 8, 9, 11, 13, 16]

/-- The module ports that the pod's wiring has: ports above q are down, and one that leads to a module on which the package has no head
goes down (23_pod R324).  Of the routes those stay that the wiring still allows, and accesses under way look for their route again
(R327, R328). -/
def keepPorts (s : State) : State :=
  let up (p : Nat × Nat) : Bool :=
    s.net.podq != 0 && decide (p.1 ≤ s.net.podq) && decide (p.2 < podSize s) && (headOf s p.2 s.net.podpos).isSome
  keepRoutes { s with net := { s.net with ports := s.net.ports.filter up } }

/-- The place of the package in a pod, or outside any (23_pod R324, R325). -/
def setPod (s : State) (q pos : Nat) : State :=
  let heads := if q = s.net.podq then s.net.heads else []
  if q = 0 then keepPorts { s with net := { s.net with podq := 0, podpos := 0xFFFFFFFF, heads := heads } }
  else if podOrders.contains q ∧ pos < q * q + q + 1 then
    keepPorts { s with net := { s.net with podq := q, podpos := pos, heads := heads } }
  else s

/-- A list of packages that firmware's incidence table may give a module (R324): q + 1 packages of the pod in ascending order,
exactly one of them common with any other module's. -/
def headsOk (s : State) (m : Nat) (l : List Nat) : Bool :=
  decide (m < podSize s) && l.length == s.net.podq + 1 && l == (List.range (podSize s)).filter (fun p => l.contains p) &&
  s.net.heads.all fun x => x.1 == m || (x.2.filter fun p => l.contains p).length == 1

/-- The scalars that lie in a granule of a spilled split's record and image.  The spill area is device memory, whose granule is 64
bytes; the 32 bytes of the record and the 288 of its image after it are five of them, and s0 to s63 are bytes 32 to 287 (09_control
R149, R344; DEDUCED, log entry 68). -/
def spillScalars (granule : Nat) : BitVec 64 :=
  match granule with
  | 0 => 0xFE
  | 1 => 0xFFFF#64 <<< 8
  | 2 => 0xFFFF#64 <<< 24
  | 3 => 0xFFFF#64 <<< 40
  | 4 => 0xFF#64 <<< 56
  | _ => 0

/-- A poisoned granule of a spilled split's record and image: its scalars are poisoned, and with the record's own granule, or that of
the unawaited marks, what the split runs by (R149, R343). -/
def spillPoison (granule : Nat) (x : Spilled) : Spilled :=
  { x with split := { x.split with
      scalarPoison := x.split.scalarPoison ||| spillScalars granule
      recordPoison := x.split.recordPoison || granule == 0 || granule == 4 } }

/-- The entry of an instruction buffer is discarded: its run is fetched again (25_reliability R343). -/
def Split.refetched (sp : Split) : Split :=
  if sp.run.slot.isSome then { sp with run := { sp.run with words := [], slot := none } } else sp

/-- An entry of a base die's translation cache is discarded, and its page walked again (25_reliability R343). -/
def walkAgain (s : State) (stack n : Nat) : State :=
  let l := baseOf s stack
  match l.drop n with
  | [] => s
  | x :: _ =>
    let va : DWord := (BitVec.ofNat 57 (x.page * 2 ^ x.bits)).signExtend 64
    walkAhead { s with xlate := { s.xlate with baseDie := Tab.put s.xlate.baseDie stack (l.eraseIdx n) } } x.asid false (va, false)

/-- An input other than an event of the table. -/
def applyInput (i : Input) (s : State) : State :=
  match i with
  | .event _ => s
  | .hostWrite a bs => if a + bs.length ≤ Config.localBytes ∧ linkOpen s = true then claimFrames s (putPhys s a bs) else s
  | .hostMemory a bs => { s with host := Mem.writeBytes s.host a bs }
  | .moduleWrite m p off bs => foreignWrite s m p off bs
  | .poisonLocal g => countUncorrected { s with memPoison := addMark s.memPoison g }
  | .poisonModule m g => countUncorrected (updModule s m fun x => { x with poison := addMark x.poison g })
  | .poisonScratch k g =>
    countUncorrected { s with skeins := Tab.upd s.skeins k fun x => { x with scratchPoison := addMark x.scratchPoison g } }
  | .poisonVector wk r m => hitWarp s wk fun w => { w with
      vregPoison := Tab.put w.vregPoison r (Tab.getD w.vregPoison r 0 ||| (m &&& w.launched)) }
  | .poisonScalar wk e r => hitWarp s wk fun w => { w with splits := Tab.upd w.splits e fun (sp : Split) =>
      { sp with scalarPoison := sp.scalarPoison ||| (1#64 <<< r) } }
  | .poisonPredicate wk r k => hitWarp s wk fun w => { w with
      predPoison := if r = 0 then w.predPoison else w.predPoison ||| (1#24 <<< (3 * r + k % 3)) }
  | .poisonJoin wk r => hitWarp s wk fun w => { w with joinPoison := w.joinPoison ||| (1#4 <<< r) }
  | .poisonSelvedge g r => hitGroup s g fun x => { x with
      selvedge := updAt x.selvedge r fun (y : Selvedge) => { y with poison := true } }
  | .poisonCounter g r => hitGroup s g fun x => { x with
      counters := updAt x.counters r fun (y : Milestone) => { y with poison := true } }
  | .poisonTile g e => hitGroup s g fun x => { x with accPoison := addMark x.accPoison e }
  | .poisonTemporary wk e r m => hitWarp s wk fun w => { w with splits := Tab.upd w.splits e fun (sp : Split) =>
      { sp with tempPoison := Tab.put sp.tempPoison r (Tab.getD sp.tempPoison r 0 ||| m) } }
  | .poisonLatch wk e => hitWarp s wk fun w => { w with splits := Tab.upd w.splits e fun (sp : Split) =>
      { sp with latchPoison := true } }
  | .poisonSpill wk seq g => hitWarp s wk fun w => { w with
      spill := w.spill.map fun x => if x.seq = seq then spillPoison g x else x }
  | .poisonEngine g r => hitGroup s g fun x => { x with engine := x.engine.map fun (e : Engine) =>
      { e with scalarPoison := if r = 0 then e.scalarPoison else e.scalarPoison ||| (1#64 <<< r) } }
  | .discardRun wk e => hitWarp s wk fun w => { w with splits := Tab.upd w.splits e Split.refetched }
  | .discardAts asid page => countUncorrected { s with xlate := { s.xlate with
      ats := s.xlate.ats.filter fun x => !(x.asid == asid && x.page == page) } }
  | .discardWalk stack n => countUncorrected (walkAgain s stack n)
  | .corrected => countCorrected s
  | .trace q room on => updQueue s q fun x => { x with
      tracing := on, traceRoom := room, trace := if on then x.trace else [], traceLost := if on then x.traceLost else 0 }
  | .slice level us => { s with slices := setAt s.slices level (us % 65536) }
  | .allocation n => grantPages { s with xlate := { s.xlate with allocation := n } }
  | .lineWriteBack m pkg line => lineWriteBack s m pkg line
  | .bindFrames asid first n => bindFrames s asid [(first, n)]
  | .bindModuleFrames m first n tenant => bindModuleFrames s m first n tenant
  | .policy n => updPlat s fun p => { p with policy := n }
  | .gate g => gateGroup s g
  | .debugger on =>
    beginWaits s { s with
      debugger := on
      skeins := if on then s.skeins else Tab.mapVal s.skeins fun (k : Skein) => { k with debugStop := false } }
  | .endpoint n => { s with net := { s.net with epid := n % 2 ^ 22 } }
  | .pod q pos => setPod s q pos
  | .heads m l => if headsOk s m l then keepPorts { s with net := { s.net with heads := Tab.put s.net.heads m l } } else s

end Sys2Proof.Machine
end

