-- ==== Sys2Proof/Machine/Arbiter.lean ====
section
/-! DEFINITION. Who acts in a step: an input of the agenda, the split or engine program that has the focus, or the act the
arbiter chooses among all that are enabled, in rotation (DESIGN CHOICE, log entry 2). -/

namespace Sys2Proof.Machine

/-! ### The acts of the machine -/

/-- An act that needs no instruction word. -/
inductive Act where
  | fetch (wk e : Nat)
  | select (q : Nat)
  | leave (wk e : Nat)
  | unpark (wk e : Nat)
  | poll (wk e : Nat)
  | land (wk p : Nat)
  | ack (party scope : Nat)
  | matrix (wk : Nat)
  | rotatePause
  | resumeMatrix
  | deadlock (wk : Nat)
  | parkTrap (wk e : Nat)
  | sleepEnd (wk e : Nat)
  | retireWarp (wk : Nat)
  | callTimeout (wk slot : Nat)
  | stopFar (wk : Nat)
  | endFar (wk : Nat)
  | startWaiting (core : Nat)
  | callArrives (n core : Nat)
  | replyArrives (n : Nat)
  | expireCache (core n : Nat)
  | engine (g : Nat)
  | endEngine (g : Nat)
  | copy (c : Nat)
  | marker (c : Nat)
  | near (c : Nat)
  | nearStop (c : Nat)
  | reduce (c : Nat)
  | send (c : Nat)
  | dropCommand (c : Nat)
  | nearOp (n : Nat)
  | queueAnswer (n : Nat)
  | retransmit (c : Nat)
  | serve (c : Nat)
  | sendAck (c : Nat)
  | invalidated
  | admitPages
  | retry (k : Nat)
  | record (q : Nat)
  | slice (q : Nat)
  | place
  | preempt (k : Nat)
  | save (k : Nat)
  | retireSkein (k : Nat)
  | retireGrid (l : Nat)
  | rollback (l : Nat)
  | copyPage (l page : Nat)
  | graph (g : Nat)
  | graphWait (g n : Nat)
  deriving DecidableEq, Repr

/-- A fault-buffer entry meets a condition. -/
def anyHeld (s : State) (f : Waiter → Bool) : Bool := s.xlate.held.any fun h => f h.2.waiter

/-- A stalled split whose wait may have ended by what others did.  The ends of a barrier, a sleep, a queue instruction and a refused
service make it ready themselves. -/
def mayPoll (s : State) (w : Warp) (wk e : Nat) (sp : Split) : Bool :=
  let look := mayIssue s w && sp.run.words != [] && !anyHeld s fun x => x == .stalled wk e
  match sp.stall with
  | .queue _ _ => false
  | .kbar _ => false
  | .gbar _ => false
  | .sleep _ _ => false
  | .refused _ => false
  | .denied _ => false
  | .issued => false
  | .near n => look && !nearPending s wk e n
  | .none => look
  | .other => look

/-- A ready split whose run may be fetched now. -/
def fetchDue (s : State) (wk : Nat) (w : Warp) (e : Nat) (sp : Split) : Bool :=
  sp.wantsFetch && maySelect s w sp && !anyHeld s fun x => x == .fetch wk e

/-- A ready split of a warp's quarter has still to be given a slot or found none: the selector chooses among splits that
have one, and a split that finds none waits (R151, R278; DEDUCED, log entry 85). -/
def slotsDue (s : State) (w : Warp) : Bool :=
  (quarterWarps s w.core w.quarter).any fun x =>
    x.2.splits.any fun p => p.2.status == .ready && fetchDue s x.1 x.2 p.1 p.2

/-- The acts of a split. -/
def splitActs (s : State) (wk : Nat) (w : Warp) (e : Nat) (sp : Split) : List Act :=
  let fetch : List Act := if fetchDue s wk w e sp then [.fetch wk e] else []
  let due : List Act := match sp.stall with
    | .sleep t false => if t ≤ s.timer then [.sleepEnd wk e] else []
    | _ => []
  let status : List Act := match sp.status with
    | .ready => if sp.selectable && maySelect s w sp && !slotsDue s w then [.select (4 * w.core + w.quarter)] else []
    | .waiting => if sp.run.words ≠ [] ∧ trailerHolds s wk e sp = false then [.leave wk e] else []
    | .issuing => [.poll wk e]
    | .stalled => if mayPoll s w wk e sp then [.poll wk e] else []
    | .parkedFault => (match cxOf s wk e with | some c => if c.heldAny then [] else [.unpark wk e] | none => [])
    | .parkedJoin _ => (match cxOf s wk e with
        | some c => if sp.faults != [] && c.mustWait.isNone then [.parkTrap wk e] else []
        | none => [])
  fetch ++ due ++ status

/-- The results of a split that may arrive. -/
def landActs (wk : Nat) (sp : Split) : List Act :=
  (sp.pend.filter fun p => !p.arrived && !p.done && !p.open_ && p.held == 0).map fun p => .land wk p.id

/-- The acknowledgements that a party's writes await. -/
def ackActs (party : Nat) (u : List Nat) (held : Nat) : List Act :=
  ((List.range 5).filter fun k => decide (held < u.getD k 0)).map fun k => .ack party k

/-- The trap of a deadlocked warp whose accesses have all been serviced (R157, R295). -/
def deadlockActs (s : State) (wk : Nat) (w : Warp) : List Act :=
  match deadlocked w with
  | none => []
  | some (e, _) => match cxOf s wk e with
    | some c => if c.mustWait.isNone then [.deadlock wk] else []
    | none => []

/-- The ends of a far task: it has run for 10 ms, or its reply may leave (R168, 13_consistency R228). -/
def farActs (s : State) (wk : Nat) (w : Warp) (f : FarTask) : List Act :=
  if f.ending.isSome then (if w.released then [.endFar wk] else [])
  else if f.started + Config.farTaskNs ≤ s.timer then [.stopFar wk] else []

/-- The acts of a warp or far task. -/
def warpActs (s : State) (wk : Nat) (w : Warp) : List Act :=
  let resident := w.far.isSome || match skOf s w with | some k => k.resident | none => false
  let run : List Act := if resident then w.splits.flatMap fun p => splitActs s wk w p.1 p.2 else []
  run ++ (if resident then deadlockActs s wk w else []) ++ (w.splits.flatMap fun p => landActs wk p.2) ++ (w.spill.flatMap fun x => landActs wk x.split) ++
  ackActs wk w.unack (heldCount s wk) ++
  (if resident && !w.mqueue.isEmpty && s.plat.matrixPaused != some w.core then [Act.matrix wk] else []) ++
  (if warpDone s wk w then [Act.retireWarp wk] else []) ++
  ((w.calls.filter fun x => x.2.reply.isNone && !x.2.timedOut && decide (x.2.deadline ≤ s.timer)).map fun x =>
    Act.callTimeout wk x.1) ++
  (match w.far with | some f => farActs s wk w f | none => [])

/-- The acts of a workgroup's engine program. -/
def groupActs (s : State) (g : Nat) (x : Workgroup) : List Act :=
  match x.engine, Tab.get? s.skeins x.skein with
  | some e, some k =>
    let held := anyHeld s fun y => y == .engine g
    let run : List Act :=
      if !e.running || held then []
      else if skeinStopping s k then [.endEngine g]
      else if k.active || k.phase == .retiring then [.engine g]
      else []
    run ++ ackActs (engineKey g) e.unack 0
  | _, _ => []

/-- The act that a command is ready for.  Of a cancelled launch it ends at once, held for a page or not; R283 says so of copy commands,
and the other engines' commands end alike (17_scheduling R283; DESIGN CHOICE, log entry 112). -/
def cmdActs (s : State) (n : Nat) (x : Cmd) : List Act :=
  if cmdCancelled s x then [.dropCommand n]
  else if cmdHeld s n then []
  else if cmdPaused s x then []
  else
    let active : Bool := x.phase == .active
    match x.kind with
    | .copy _ _ => [.copy n]
    | .relay _ _ _ => [.copy n]
    | .marker _ _ _ => [.marker n]
    | .expr _ => if active then [.near n] else if x.phase == .sent then [] else [.nearStop n]
    | .fill _ _ => if active then [.near n] else if x.phase == .sent then [] else [.nearStop n]
    | .rowCopy _ _ _ => if active then [.near n] else if x.phase == .sent then [] else [.nearStop n]
    | .mred _ _ _ _ _ _ => if active then [.reduce n] else []
    | .nput _ _ _ _ _ _ => if x.phase == .sent then [] else [.send n]
    | .nget _ _ _ _ _ _ => if active then [.send n] else []
    | .nsig _ _ _ _ _ => if active then [.send n] else []

/-- The acts of a launch. -/
def launchActs (s : State) (n : Nat) (l : Launch) : List Act :=
  let pages : List Act := if l.copied.length < l.pool then l.wanted.map fun p => .copyPage n p else []
  if !launchQuiet s n || l.unplaced then pages
  else if l.rollbackWanted then [.rollback n]
  else if anyHeld s fun x => x == .retire n then []
  else [.retireGrid n]

/-- The acts of a skein. -/
def skeinActs (s : State) (n : Nat) (k : Skein) : List Act :=
  (if k.phase == .preempting && skeinDrained s n k then [Act.save n] else []) ++
  (if skeinDone s n k then [Act.retireSkein n] else [])

/-- The acts of the scheduler. -/
def schedActs (s : State) : List Act :=
  ((s.queues.filter fun q => queueEligible s q.1 q.2).map fun q => Act.record q.1) ++
  ((s.queues.filter fun q => sliceOver s q.2).map fun q => Act.slice q.1) ++
  (if candidates s = [] then []
   else if (placeFirst s none (topCandidates s)).isSome then [Act.place]
   else match preemptFor s with | some k => [Act.preempt k] | none => [])

/-- The acts of graphs. -/
def graphActs (s : State) (g : Nat) (x : Graph) : List Act :=
  (if graphBusy s g x then [Act.graph g] else []) ++
  ((List.range x.nodes.length).filter fun n => x.nodes.getD n .retired == .running && (x.node n).kind == 4).map fun n =>
    Act.graphWait g n

/-- The core that takes a far call, of the die that its address gives: one that has the call already, which a retry meets there
(09_control R170), or one that is started, not fenced and not power-gated (R165, DESIGN CHOICE, log entry 6).  Where the die has none,
the call waits on its way. -/
def callCore (s : State) (m : CallMsg) : Option Nat :=
  let first := m.addr.toNat / 4096 % Config.cores
  let n := Config.dieCores
  let cores := (List.range n).map fun k => first / n * n + (first + k) % n
  match cores.find? fun c => hasCall s c m with
  | some c => some c
  | none => cores.find? fun c => (usableCores s (c / 4)).contains c

/-- The acts of calls, replies, modules and connections. -/
def messageActs (s : State) : List Act :=
  (s.callMsgs.filterMap fun m => (callCore s m.2).map fun c => Act.callArrives m.1 c) ++
  (s.replyMsgs.map fun m => Act.replyArrives m.1) ++
  (s.targets.flatMap fun t => (t.2.cache.filter fun x =>
    x.2.reply.isSome && decide (x.2.sentAt + Config.replyKeepNs ≤ s.timer)).map fun x => Act.expireCache t.1 x.1) ++
  (s.nearOps.map fun x => Act.nearOp x.1) ++ (s.net.queueOps.map fun x => Act.queueAnswer x.1) ++
  ((s.net.conns.filter fun c => !c.2.failed && c.2.out.any fun o =>
    decide (o.sentAt + c.2.binding.timeoutNs ≤ s.timer)).map fun c => Act.retransmit c.1) ++
  ((s.net.conns.filter fun c => !c.2.requests.isEmpty && !anyHeld s fun x => x == .network c.1).map fun c => Act.serve c.1) ++
  ((s.net.conns.filter fun c => !c.2.acks.isEmpty).map fun c => Act.sendAck c.1) ++
  ((s.targets.filter fun t => t.2.due s t.1).map fun t => Act.startWaiting t.1) ++
  (match s.xlate.invalidations with | i :: _ => if i.complete s then [Act.invalidated] else [] | [] => []) ++
  (if admitDue s then [Act.admitPages] else [])

/-- Everything the machine can do by itself now. -/
def acts (s : State) : List Act :=
  (s.warps.flatMap fun w => warpActs s w.1 w.2) ++ (s.wgs.flatMap fun g => groupActs s g.1 g.2) ++
  (s.cmds.flatMap fun c => cmdActs s c.1 c.2) ++ (s.launches.flatMap fun l => launchActs s l.1 l.2) ++
  (s.skeins.flatMap fun k => skeinActs s k.1 k.2) ++ schedActs s ++ (s.graphs.flatMap fun g => graphActs s g.1 g.2) ++
  messageActs s ++ ((s.xlate.held.filter fun h => h.2.ready s).map fun h => Act.retry h.1) ++
  (if s.plat.matrixPaused.isSome then [Act.rotatePause, Act.resumeMatrix] else [])

/-! ### Performing an act -/

/-- A split takes the focus: its word is tried, or tried again. -/
def focusSplit (s : State) (wk e : Nat) : State :=
  State.updWarp { s with focus := .split wk e } wk fun w => { w with
    splits := Tab.upd w.splits e fun (sp : Split) => { sp with status := .issuing } }

/-- A stalled split whose wait is over becomes ready (01_machine R16). -/
def wakeSplit (s : State) (wk e : Nat) : State :=
  State.updWarp s wk fun w => { w with splits := Tab.upd w.splits e fun (sp : Split) =>
    { sp with status := .ready, readyAt := s.ticks, stall := if sp.stall = .other then .none else sp.stall } }

/-- An act performed. -/
def perform (a : Act) (s : State) : Out :=
  match a with
  | .fetch wk e => execRunFetch wk e s
  | .select q => execIssueSelector q s
  | .leave wk e => (match cxOf s wk e with | some c => c.leave | none => .next s)
  | .unpark wk e => (match cxOf s wk e with | some c => c.unpark | none => .next s)
  | .poll wk e => .next (focusSplit s wk e)
  | .land wk p => execLongLatencyWriteback wk p s
  | .ack party scope => execWriteAcknowledged party scope s
  | .matrix wk => execMatrixExecute wk 0 s
  | .rotatePause => .next (rotatePause s)
  | .resumeMatrix => .next (updPlat s fun p => { p with matrixPaused := none })
  | .deadlock wk => checkDeadlock s wk
  | .parkTrap wk e => (match cxOf s wk e with | some c => c.parkTrap | none => .next s)
  | .sleepEnd wk e => execSleepExpiry wk e s
  | .retireWarp wk => execWarpRetire wk s
  | .callTimeout wk slot => execRcallTimeout wk slot s
  | .stopFar wk => execFarTaskStopped wk s
  | .endFar wk => .next (finishFar s wk)
  | .startWaiting core => .next (startWaiting s core)
  | .callArrives n core => execFarCallArrival n core s
  | .replyArrives n => execFarReplyArrival n s
  | .expireCache core n => execReplyCacheExpiry core n s
  | .engine g => .next { s with focus := .engine g }
  | .endEngine g => abortEngine g s
  | .copy c => execCopyCommandComplete c s
  | .marker c => execMstepComplete c s
  | .near c => execNearCommandComplete c s
  | .nearStop c => execNearProgress c s
  | .reduce c => execMredContribution (.own c) s
  | .send c => sendMessage c s
  | .dropCommand c => (match Tab.get? s.cmds c with | some x => .next (finishCommand s c x (stopBits s x) none) | none => .next s)
  | .nearOp n => execNearOperationPerformed n s
  | .queueAnswer n => execMqModuleAnswer (.own n) s
  | .retransmit c => execRetransmitTimeout c s
  | .serve c => .next (settleMessages s c)
  | .sendAck c => .next (sendAck s c)
  | .invalidated => .next (completeInvalidation s)
  | .admitPages => .next (admitPages s)
  | .retry k => (match Tab.get? s.xlate.held k with | some h => .next (retryHeld s k h) | none => .next s)
  | .record q => execLaunchRecordStart q s
  | .slice q => execTimeSliceExpiry q s
  | .place => .next ((placeFirst s none (topCandidates s)).getD s)
  | .preempt k => execPreemptionRequest k s
  | .save k => execPreemptionSaveComplete k s
  | .retireSkein k => execSkeinRetire k s
  | .retireGrid l => execGridRetire l s
  | .rollback l => execRollback l s
  | .copyPage l page => execSnapshotPageCopy l page s
  | .graph g => graphStep s g
  | .graphWait g n => execGraphWaitSatisfied g n s

/-! ### Whose turn it is -/

/-- Time passes: a free number of arithmetic clocks (DESIGN CHOICE, log entry 5), of 10/7 ns each at 700 MHz and twice that
while the clock is lowered (00_scope R3, 09_control R178, 25_reliability R356). -/
def passTime (s : State) : State :=
  let clocks := Config.elapsedClocks s.clock
  let fine := s.sevenths + clocks * (if s.plat.halfClock then 20 else 10)
  { s with clock := s.clock + 1, timer := s.timer + fine / 7, sevenths := fine % 7, ticks := s.ticks + clocks }

/-- What happens in a step: an instruction or event executes in a state, a stalled split's instruction is tried to see whether its
wait is over, or something else is done. -/
inductive Turn where
  | run (i : Instr) (s : State)
  | trial (i : Instr) (wk e : Nat) (s : State)
  | done (o : Out)

/-- A word as an instruction; a word that is none as the event that it is. -/
def instrOf (w : Word) : Instr :=
  match decode w with
  | .ok i => i
  | .error _ => .wordNotAnInstruction w

/-- A split looks again: one that issues tries its word again; of a stalled one the word is tried, once its run is there. -/
def pollTurn (wk e : Nat) (s : State) : Turn :=
  match cxOf s wk e with
  | none => .done (.next s)
  | some c =>
    if c.sp.status ≠ .stalled then .done (.next (focusSplit s wk e))
    else match c.sp.run.words.drop c.sp.run.pos with
      | w :: _ => .trial (instrOf w) wk e s
      | [] => .done (.next s)

/-- What comes of a trial: the split stalls still, or it is ready, and executes the word once the selector issues its run
(01_machine R16). -/
def settleTrial (wk e : Nat) (s : State) (o : Out) : Out :=
  match o with
  | .next t => (match cxOf t wk e with
    | some c => .next (if c.sp.status = .stalled then t else wakeSplit s wk e)
    | none => .next (wakeSplit s wk e))
  | _ => o

/-- The arbiter's choice: the enabled acts in rotation from the last to the first, so that an act that stays enabled is
reached however many before it come and go; with none, nothing happens. -/
def arbitrate (s : State) : Turn :=
  let l := acts s
  let k := if s.turn = 0 ∨ l.length < s.turn then l.length else s.turn
  let t := { s with turn := k - 1 }
  match l.drop (k - 1) with
  | [] => .done (.next s)
  | .poll wk e :: _ => pollTurn wk e t
  | a :: _ => .done (perform a t)

/-- The turn of a split: its next word, or its run is to be fetched. -/
def splitTurn (wk e : Nat) (s : State) : Turn :=
  match cxOf s wk e with
  | none => .done (.next (unfocus s))
  | some c => match c.sp.run.words.drop c.sp.run.pos with
    | w :: _ => .run (instrOf w) s
    | [] => .done (.next (unfocus (Cx.commit { c with sp := { c.sp with
        status := .ready, run := { c.sp.run with words := [], slot := none } } })))

/-- The turn of an engine program: the command at its program counter (15_matrix R252). -/
def engineTurn (g : Nat) (s : State) : Turn :=
  match exOf s g with
  | none => .done (.next (unfocus s))
  | some x =>
    let p := enginePartyOf s x.wg
    match fetchWord s p x.en.pc with
    | .ok s1 (w :: _) => .run (instrOf w) s1
    | .ok _ [] => .done (.next (unfocus s))
    | .fault cause => .done (x.stop cause)
    | .hole => .done (.fault .physicalHole)
    | .replay h a => (match x.en.refused with
      | some cause => .done (x.stop cause)
      | none => .done (x.hold p h a false))

/-- The package is off, or FATAL: every unit is stopped (R356, R360). -/
def poweredDown (s : State) : Bool := s.plat.power == .unpowered || s.plat.power == .fatal

/-- What still happens then: board power goes or comes, and the world outside goes on. -/
def Input.outside (i : Input) : Bool :=
  match i with
  | .event e => e == .boardPowerRemoved || e == .powerGood
  | .hostMemory _ _ => true
  | .moduleWrite _ _ _ _ => true
  | .lineWriteBack _ _ _ => true
  | .debugger _ => true
  | _ => false

/-- Whose turn it is: the agenda's first input, the holder of the focus, or the arbiter's choice.  Before the package is
READY, and once it is stopped, only inputs happen (25_reliability R356, R359). -/
def turnOf (s : State) : Turn :=
  match s.agenda with
  | i :: rest =>
    let t := { s with agenda := rest }
    if poweredDown s && !i.outside then .done (.next t)
    else match i with
      | .event e => if (encode e).isSome then .done (.next t) else .run e t
      | _ => .done (.next (applyInput i t))
  | [] =>
    if s.plat.power ≠ .ready then .done (.next s)
    else match s.focus with
      | .split wk e => splitTurn wk e s
      | .engine g => engineTurn g s
      | .none => arbitrate s

end Sys2Proof.Machine
end

