-- ==== Sys2Proof/Machine/Boot.lean ====
section
/-! DEFINITION. A machine with a word placed where the next step finds it: at the split or engine program that has the focus,
or in a warp, far task or engine program set up for it, since from reset nobody executes until firmware binds a queue and a
launch is placed (DESIGN CHOICE, log entry 3). -/

namespace Sys2Proof.Machine

/-- A kernel with every allotment at its largest, in vreg mode. -/
def bootKernel : Kernel :=
  { Kernel.none with
    entry := 0x100000, lanes := 96, wgs := 1, cores := 1, share := 10, coop := true, vregP := 120, vregF := 120, scrP := 160,
    scrF := 160, joinsP := 4, joinsF := 4, tilesP := 16, tilesF := 16, stages := 8, slot := 64,
    stcount := [1, 0, 0, 0, 0, 0, 0, 0] }

/-- A launch record of one skein. -/
def bootRecord : Record :=
  { target := 0, dbase := 0, arg := 0, gx := 1, gy := 1, gz := 1, seed := 0, kind := 0, serial := false, doneAddr := 0, doneVal := 0 }

/-- Three page-table entries that map the first GiB of the local tier at address 0, class S, writable and executable, in the
tables at 0x1000, 0x2000 and 0x3000 (19_translation R287). -/
def bootTables (m : Mem) : Mem :=
  Mem.writeBytes (Mem.writeBytes (Mem.writeBytes m 0x1000 (leBytes 8 0x2001)) 0x2000 (leBytes 8 0x3001)) 0x3000 (leBytes 8 0x4F)

/-- An engine program at an address. -/
def bootEngine (entry : DWord) : Engine :=
  { entry := entry, pc := entry, scalars := List.replicate 64 0, scalarPoison := 0,
    w := { elems := List.replicate 3072 0, poison := [], tag := .f32 }, q := { elems := List.replicate 3072 0, poison := [], tag := .f32 },
    pending := { bits := 0, bndcnt := 0 }, running := true, unack := [0, 0, 0, 0, 0], progress := 0, refused := none }

/-- A split whose run is a word and a trailer that names nothing, its first word next. -/
def bootSplit (lanes : Mask) (w : Word) (clock : Nat) : Split :=
  { Split.start 0x100000 lanes (List.replicate 64 0) clock with
    status := .issuing, run := { start := 0x100000, words := [w, 0xFF7F7F7F], pos := 0, slot := some .shared } }

/-- The objects of one launch of one warp under ASID 1, all numbered above those in use. -/
def bootObjects (s : State) (w : Word) : State :=
  let k := s.fresh
  let wk := s.identity
  let origin := LaunchOrigin.slot Config.launchQueues 0
  let engine := 0xF0 ≤ (w >>> 24).toNat && (w >>> 24).toNat ≤ 0xF7
  let far : Option FarTask :=
    if (w >>> 24).toNat = 0x98 then
      some { caller := wk, seq := 0, core := 0, asid := 1, started := s.timer, launch := k, ending := none }
    else none
  let lanes : Mask := if far.isSome then 0xFF else allLanes
  let sk : Skein :=
    { launch := k, x := 0, y := 0, z := 0, age := s.admissions, phase := .running, quad := 0, cores := [0], wgs := [k], scratch := [],
      scratchPoison := [], queues := List.replicate 7 { pushed := 0, committed := [], popped := 0, emptied := [] },
      full := true, requested := false, resident := true, placedAt := s.timer, debugStop := false }
  let g := { Workgroup.start k 0 0 0 96 [wk] [0] with
    engine := if engine then some (bootEngine 0x100000) else none }
  { s with
    fresh := k + 1
    identity := wk + 1
    admissions := s.admissions + 1
    mem := if engine then Mem.writeBytes (bootTables s.mem) 0x100000 (leBytes 4 w.toNat) else bootTables s.mem
    xlate := { s.xlate with contexts := Tab.put s.xlate.contexts 1 { root := 0x1000, pasid := 0, tenant := 1, host := true } }
    launches := Tab.put s.launches k { launchOf origin 1 0 bootRecord bootKernel with next := 1 }
    skeins := Tab.put s.skeins k sk
    shares := Tab.put s.shares 0 bootKernel.share
    wgs := Tab.put s.wgs k g
    warps := Tab.put s.warps wk { Warp.start k 0 0 0 lanes (bootSplit lanes w s.ticks) with far := far }
    focus := if engine then .engine k else .split wk 0 }

/-- A package that is READY, with its cores started. -/
def bootPower (s : State) : State :=
  { s with agenda := [], plat := { s.plat with power := .ready, startedCores := Config.cores } }

/-- A word at the place where a split's run stands. -/
def Run.withWord (r : Run) (w : Word) : Run :=
  { r with words := r.words.take r.pos ++ List.replicate (r.pos - r.words.length) 0 ++ w :: r.words.drop (r.pos + 1) }

/-- A word stored where an engine program fetches next, where that is mapped. -/
def Ex.withWord (x : Ex) (w : Word) : State :=
  match translate x.s (enginePartyOf x.s x.wg).asid x.en.pc .fetch with
  | .ok l _ _ => writeLoc x.s l (leBytes 4 w.toNat) false
  | _ => x.s

/-- The state with a word where the next step finds it. -/
def placeWord (s : State) (w : Word) : State :=
  let t := bootPower s
  match t.focus with
  | .split wk e => (match cxOf t wk e with
    | some c => Cx.commit { c with sp := { c.sp with run := c.sp.run.withWord w } }
    | none => bootObjects t w)
  | .engine g => (match exOf t g with
    | some x => x.withWord w
    | none => bootObjects t w)
  | .none => bootObjects t w

end Sys2Proof.Machine
end

