-- ==== Sys2Proof/Machine/Collective.lean ====
section
/-! DEFINITION. Shuffles and lane collectives, opcodes 0x70 to 0x78 (07_scalar_vector R138 to R143, 03_numbers R71), and
what they give in a shadow launch (25_reliability R346, R347). -/

namespace Sys2Proof.Machine

/-! ### Shuffles (R138) -/

/-- The value a lane shuffles in: the source lane's, for a copy lane of a shadow launch the source within its own half, and 0
where the source names no lane of active_lanes (R28, R138, R346). -/
def shuffleFrom (shadow : Bool) (m : Mask) (vals : List DWord) (lane : Nat) (src : Int) : DWord :=
  if src < 0 then 0
  else
    let j := src.toNat
    let p := if shadow ∧ 48 ≤ lane then (if j < 48 then j + 48 else 96) else j
    if p < 96 ∧ m.getLsbD p then vals.getD p 0 else 0

/-- A shuffle whose source lane is a function of the lane. -/
def shuffle (i : Instr) (s : State) (d a : BitVec 7) (w : BitVec 1) (src : Cx → Nat → Int) : Out :=
  issueSplit i s fun c =>
    let m := c.active
    let shadow := isShadow c.s c.w
    let vals := c.operand a.toNat (w == 1)
    (c.putOperand d.toNat (w == 1) m ((List.range 96).map fun lane => shuffleFrom shadow m vals lane (src c lane))).done

/-- The distance of a shuffle: an immediate, or a scalar read as natural (R138). -/
def Cx.distance (c : Cx) (b : BitVec 7) (u : BitVec 1) : Nat := if u = 1 then (c.sp.scalar b.toNat).toNat else b.toNat

/-- `vshfl` (R138). -/
def execVshfl (d a b : BitVec 7) (w : BitVec 1) (s : State) : Out :=
  shuffle (.vshfl d a b w) s d a w fun c lane => (((c.row b.toNat).getD lane 0).toNat : Int)

/-- `vshfu` (R138). -/
def execVshfu (d a b : BitVec 7) (w u : BitVec 1) (s : State) : Out :=
  shuffle (.vshfu d a b w u) s d a w fun c lane =>
    (logicalLane (isShadow c.s c.w) lane : Int) - (c.distance b u : Int)

/-- `vshfd` (R138). -/
def execVshfd (d a b : BitVec 7) (w u : BitVec 1) (s : State) : Out :=
  shuffle (.vshfd d a b w u) s d a w fun c lane => ((logicalLane (isShadow c.s c.w) lane + c.distance b u : Nat) : Int)

/-- `vshfx` (R138). -/
def execVshfx (d a b : BitVec 7) (w u : BitVec 1) (s : State) : Out :=
  shuffle (.vshfx d a b w u) s d a w fun c lane => ((logicalLane (isShadow c.s c.w) lane ^^^ c.distance b u : Nat) : Int)

/-! ### Votes (R139) -/

/-- A vote over the lanes of a mask: the value of s[d] (R139). -/
def voteValue (x : BitVec 3) (m v : Mask) : Word :=
  let yes := m &&& v
  match x.toNat with
  | 0 => if yes = 0 then 0 else 1
  | 1 => if yes = m then 1 else 0
  | 2 => if yes = m ∨ yes = 0 then 1 else 0
  | _ => BitVec.ofNat 32 (popMask yes)

/-- The copy half of a mask, moved to lanes 0 to 47. -/
def highHalf (m : Mask) : Mask := m >>> 48

/-- The lower half of a mask. -/
def lowHalf (m : Mask) : Mask := m &&& laneRange 0 48

/-- `vote` (R139); in a shadow launch each half votes and the halves are compared (R346, R347). -/
def execVote (d : BitVec 7) (n : BitVec 1) (a x : BitVec 3) (s : State) : Out :=
  issueSplit (.vote d n a x) s fun c =>
    let m := c.active
    let v := c.predOperand a n
    let shadow := isShadow c.s c.w
    if x = 4 then
      let b := if shadow then lowHalf (m &&& v) else m &&& v
      if shadow && lowHalf (m &&& v) != highHalf (m &&& v) then c.trapAt 0x10
      else c.scalarDone (((c.putScalar d.toNat (maskWord b 0)).putScalar (d.toNat + 1) (maskWord b 1)).putScalar
        (d.toNat + 2) (maskWord b 2))
    else
      let r := if shadow then voteValue x (lowHalf m) (lowHalf v) else voteValue x m v
      if shadow && r != voteValue x (highHalf m) (highHalf v) then c.trapAt 0x10
      else c.scalarDone (c.putScalar d.toNat r)

/-! ### Reductions and scans (R140, R141, R71) -/

/-- A leaf or node of the tree: elements of the value, the status its subtree earned, and the lowest present lane. -/
structure Node where
  elems : List Nat
  flags : Flags
  lane : Nat
  deriving DecidableEq, Repr

/-- The element type an operator of R140 works in: 32-bit words for the bitwise ones. -/
def redType (x : BitVec 3) (t : ElemType) : ElemType := if x.toNat < 5 then t else .n32

/-- The empty value of an operator, per element (R140). -/
def redEmpty (x : BitVec 3) (t : ElemType) : Nat :=
  let w := elemBits t
  let f := elemFmt t
  let lowest : Bool := x = 2 || x = 4
  match x.toNat with
  | 0 => 0
  | 5 => 2 ^ 32 - 1
  | 6 => 0
  | 7 => 0
  | _ =>
    if classOfType t = .int then
      if elemSigned t then (if lowest then 2 ^ (w - 1) else 2 ^ (w - 1) - 1) else (if lowest then 0 else 2 ^ w - 1)
    else if classOfType t = .wide then encodeNum f (.inf lowest) else encodeNum f (maxf f lowest)

/-- One element of one node (R140). -/
def redElem (x : BitVec 3) (e : ElemCx) (a b : Nat) : Nat × Flags :=
  match x.toNat with
  | 0 => addElem false e 0 a b 0
  | 1 => minElem false false e 0 a b 0
  | 2 => minElem true false e 0 a b 0
  | 3 => minElem false true e 0 a b 0
  | 4 => minElem true true e 0 a b 0
  | 5 => (a &&& b, noFlags)
  | 6 => (a ||| b, noFlags)
  | _ => (a ^^^ b, noFlags)

/-- The operator at a node of width w and index j; element k draws with e = 2^16 k + 2^8 w + j (R61). -/
def Cx.redNode (c : Cx) (x : BitVec 3) (t : ElemType) (rm : Rnd) (w j : Nat) (l h : Node) : Node :=
  let sat := modeSat c.sp.mode
  let ftz := modeFtz c.sp.mode
  let rs := (List.zip l.elems h.elems).mapIdx fun k p =>
    redElem x { t := t, rm := rm, sat := sat, ftz := ftz,
                bits := if x = 0 then c.srDraw rm l.lane (2 ^ 16 * k + 2 ^ 8 * w + j) else 0 } p.1 p.2
  { elems := rs.map fun r => r.1, flags := orFlags (orFlags l.flags h.flags) (allFlags (rs.map fun r => r.2)), lane := l.lane }

/-- The leaves of a mask: lane base + j at leaf j. -/
def leavesOf (t : ElemType) (m : Mask) (vals : List DWord) (base n : Nat) : List (Option Node) :=
  (List.range n).map fun j =>
    if m.getLsbD (base + j) then
      some { elems := splitElems (elemBits t) (elemCount t) ((vals.getD (base + j) 0).toNat), flags := noFlags, lane := base + j }
    else none

/-- An element as a collective writes it: under an FP type a NaN is the canonical one, that of a lone present leaf too (R52); a
lone subnormal is read by no operator, and stays (R53, R71; DEDUCED, log entry 99). -/
def writtenElem (t : ElemType) (v : Nat) : Nat :=
  if classOfType t = .wide ∧ (decodeNum (elemFmt t) v).isNan = true then canonNan (elemFmt t) else v

/-- The value of a tree, the empty value for none. -/
def nodeValue (x : BitVec 3) (t : ElemType) (n : Option Node) : DWord :=
  match n with
  | some r => BitVec.ofNat 64 (packElems (elemBits t) (r.elems.map (writtenElem t)))
  | none => BitVec.ofNat 64 (packElems (elemBits t) (List.replicate (elemCount t) (redEmpty x t)))

/-- The status of a tree. -/
def nodeFlags (n : Option Node) : Flags := match n with | some r => r.flags | none => noFlags

/-- The halves over which collectives run: the whole warp, or each half of a shadow launch (R346). -/
def halves (shadow : Bool) : List (Nat × Nat) := if shadow then [(0, 48), (48, 48)] else [(0, 96)]

/-- `vred` (R140).  A tree of one present leaf applies no operator: its value is written with no status bit, a NaN as the
canonical one, a subnormal unflushed under FTZ (R52, R53, R71; DEDUCED, log entry 99). -/
def execVred (d a : BitVec 7) (x : BitVec 3) (s : State) : Out :=
  issueSplit (.vred d a x) s fun c =>
    match if x.toNat < 5 then elemTypeOf c.type else some .n32 with
    | none => c.trapAt 0x06
    | some t =>
      let m := c.active
      let wide := isWide64 c.type && x.toNat < 5
      let rm := c.rounding 0
      let vals := c.operand a.toNat wide
      let trees := (halves (isShadow c.s c.w)).map fun h =>
        (h, treeReduce (c.redNode x t rm) (leavesOf t m vals h.1 h.2))
      let out := trees.flatMap fun r => List.replicate r.1.2 (nodeValue x t r.2)
      let c1 := c.putOperand d.toNat wide m out
      let c2 := c1.setStatus (allFlags (trees.map fun r => nodeFlags r.2))
      (if x = 0 ∧ classOfType t ≠ .int then c2.countSr rm m else c2).done

/-- The leaves up to a position, the position itself left out in an exclusive scan (R71). -/
def scanLeaves (leaves : List (Option Node)) (excl : Bool) (j : Nat) : List (Option Node) :=
  leaves.take (if excl then j else j + 1)

/-- `vscan` (R141); a tree of one present leaf is as for `vred`: canonical NaN, no flush under FTZ, no status bit (DEDUCED, log
entry 99). -/
def execVscan (d a : BitVec 7) (ex : BitVec 1) (x : BitVec 3) (s : State) : Out :=
  issueSplit (.vscan d a ex x) s fun c =>
    match if x.toNat < 5 then elemTypeOf c.type else some .n32 with
    | none => c.trapAt 0x06
    | some t =>
      let m := c.active
      let wide := isWide64 c.type && x.toNat < 5
      let rm := c.rounding 0
      let vals := c.operand a.toNat wide
      let trees := (halves (isShadow c.s c.w)).flatMap fun h =>
        let leaves := leavesOf t m vals h.1 h.2
        (List.range h.2).map fun j =>
          if m.getLsbD (h.1 + j) then treeReduce (c.redNode x t rm) (scanLeaves leaves (ex == 1) j) else none
      let c1 := c.putOperand d.toNat wide m (trees.map (nodeValue x t))
      let c2 := c1.setStatus (allFlags (trees.map nodeFlags))
      (if x = 0 ∧ classOfType t ≠ .int then c2.countSr rm m else c2).done

/-- `vmatch` (R142): the mask of lanes of active_lanes that hold an equal value, in a shadow launch within the half. -/
def execVmatch (d a : BitVec 7) (w : BitVec 1) (s : State) : Out :=
  issueSplit (.vmatch d a w) s fun c =>
    let m := c.active
    let vals := c.operand a.toNat (w == 1)
    let equal (i : Nat) : Mask := maskWhere m fun j => vals.getD j 0 == vals.getD i 0
    let masks := (List.range 96).map fun i =>
      if isShadow c.s c.w then (if i < 48 then lowHalf (equal i) else highHalf (equal i)) else equal i
    let c1 := (List.range 3).foldl (fun c k => c.putRow (d.toNat + k) m (masks.map fun x => maskWord x k)) c
    c1.done

/-! ### Width (R29, R143) -/

/-- Slices of eight lanes that hold an active lane (R20). -/
def occupiedSlices (act : Mask) : Nat := ((List.range 12).filter fun k => act &&& laneRange (8 * k) 8 != 0).length

/-- Beats per instruction (R20). -/
def beatsOf (act : Mask) : Nat := max 1 ((occupiedSlices act + 3) / 4)

/-- The word `width` writes (R143). -/
def widthWord (launched act : Mask) : Word :=
  BitVec.ofNat 32 (popMask act + 2 ^ 8 * occupiedSlices act + 2 ^ 12 * beatsOf act + 2 ^ 16 * popMask launched)

/-- `width` (R143). -/
def execWidth (d : BitVec 7) (s : State) : Out :=
  issueSplit (.width d) s fun c => c.scalarDone (c.putScalar d.toNat (widthWord c.w.launched c.sp.act))

end Sys2Proof.Machine
end

