-- ==== Sys2Proof/Machine/Dispatch.lean ====
section
/-! DEFINITION. The meaning of every constructor of Instr: one arm per row of spec/opcode_table.json. -/

namespace Sys2Proof.Machine

/-- The meaning of a step. -/
def exec (i : Instr) (s : State) : Host.Outcome State Fault Refusal :=
  match i with
  | .nop => Sys2Proof.Machine.execNop s
  | .sadd x0 x1 x2 => Sys2Proof.Machine.execSadd x0 x1 x2 s
  | .ssub x0 x1 x2 => Sys2Proof.Machine.execSsub x0 x1 x2 s
  | .smul x0 x1 x2 => Sys2Proof.Machine.execSmul x0 x1 x2 s
  | .smulh x0 x1 x2 => Sys2Proof.Machine.execSmulh x0 x1 x2 s
  | .smulhn x0 x1 x2 => Sys2Proof.Machine.execSmulhn x0 x1 x2 s
  | .sand x0 x1 x2 => Sys2Proof.Machine.execSand x0 x1 x2 s
  | .sor x0 x1 x2 => Sys2Proof.Machine.execSor x0 x1 x2 s
  | .sxor x0 x1 x2 => Sys2Proof.Machine.execSxor x0 x1 x2 s
  | .sshl x0 x1 x2 => Sys2Proof.Machine.execSshl x0 x1 x2 s
  | .sshr x0 x1 x2 => Sys2Proof.Machine.execSshr x0 x1 x2 s
  | .ssra x0 x1 x2 => Sys2Proof.Machine.execSsra x0 x1 x2 s
  | .smin x0 x1 x2 => Sys2Proof.Machine.execSmin x0 x1 x2 s
  | .smax x0 x1 x2 => Sys2Proof.Machine.execSmax x0 x1 x2 s
  | .sminn x0 x1 x2 => Sys2Proof.Machine.execSminn x0 x1 x2 s
  | .smaxn x0 x1 x2 => Sys2Proof.Machine.execSmaxn x0 x1 x2 s
  | .sclz x0 x1 => Sys2Proof.Machine.execSclz x0 x1 s
  | .spopc x0 x1 => Sys2Proof.Machine.execSpopc x0 x1 s
  | .sbfe x0 x1 x2 x3 => Sys2Proof.Machine.execSbfe x0 x1 x2 x3 s
  | .sbfi x0 x1 x2 => Sys2Proof.Machine.execSbfi x0 x1 x2 s
  | .saddi x0 x1 x2 => Sys2Proof.Machine.execSaddi x0 x1 x2 s
  | .sandi x0 x1 x2 => Sys2Proof.Machine.execSandi x0 x1 x2 s
  | .sori x0 x1 x2 => Sys2Proof.Machine.execSori x0 x1 x2 s
  | .sxori x0 x1 x2 => Sys2Proof.Machine.execSxori x0 x1 x2 s
  | .sshli x0 x1 x2 => Sys2Proof.Machine.execSshli x0 x1 x2 s
  | .sshri x0 x1 x2 => Sys2Proof.Machine.execSshri x0 x1 x2 s
  | .smovi x0 x1 => Sys2Proof.Machine.execSmovi x0 x1 s
  | .smoviHi x0 x1 => Sys2Proof.Machine.execSmoviHi x0 x1 s
  | .sadd64 x0 x1 x2 => Sys2Proof.Machine.execSadd64 x0 x1 x2 s
  | .ssub64 x0 x1 x2 => Sys2Proof.Machine.execSsub64 x0 x1 x2 s
  | .sshf64 x0 x1 x2 x3 => Sys2Proof.Machine.execSshf64 x0 x1 x2 x3 s
  | .scmp x0 x1 x2 x3 => Sys2Proof.Machine.execScmp x0 x1 x2 x3 s
  | .ssel x0 x1 x2 => Sys2Proof.Machine.execSsel x0 x1 x2 s
  | .vadd x0 x1 x2 x3 => Sys2Proof.Machine.execVadd x0 x1 x2 x3 s
  | .vsub x0 x1 x2 x3 => Sys2Proof.Machine.execVsub x0 x1 x2 x3 s
  | .vmul x0 x1 x2 x3 => Sys2Proof.Machine.execVmul x0 x1 x2 x3 s
  | .vmulh x0 x1 x2 => Sys2Proof.Machine.execVmulh x0 x1 x2 s
  | .vfma x0 x1 x2 x3 => Sys2Proof.Machine.execVfma x0 x1 x2 x3 s
  | .vmin x0 x1 x2 => Sys2Proof.Machine.execVmin x0 x1 x2 s
  | .vmax x0 x1 x2 => Sys2Proof.Machine.execVmax x0 x1 x2 s
  | .vminp x0 x1 x2 => Sys2Proof.Machine.execVminp x0 x1 x2 s
  | .vmaxp x0 x1 x2 => Sys2Proof.Machine.execVmaxp x0 x1 x2 s
  | .vabs x0 x1 => Sys2Proof.Machine.execVabs x0 x1 s
  | .vneg x0 x1 => Sys2Proof.Machine.execVneg x0 x1 s
  | .vand x0 x1 x2 => Sys2Proof.Machine.execVand x0 x1 x2 s
  | .vor x0 x1 x2 => Sys2Proof.Machine.execVor x0 x1 x2 s
  | .vxor x0 x1 x2 => Sys2Proof.Machine.execVxor x0 x1 x2 s
  | .vnot x0 x1 => Sys2Proof.Machine.execVnot x0 x1 s
  | .vshl x0 x1 x2 => Sys2Proof.Machine.execVshl x0 x1 x2 s
  | .vshr x0 x1 x2 => Sys2Proof.Machine.execVshr x0 x1 x2 s
  | .vsra x0 x1 x2 => Sys2Proof.Machine.execVsra x0 x1 x2 s
  | .vclz x0 x1 => Sys2Proof.Machine.execVclz x0 x1 s
  | .vpopc x0 x1 => Sys2Proof.Machine.execVpopc x0 x1 s
  | .vbfe x0 x1 x2 x3 => Sys2Proof.Machine.execVbfe x0 x1 x2 x3 s
  | .vbfi x0 x1 x2 => Sys2Proof.Machine.execVbfi x0 x1 x2 s
  | .vdot4 x0 x1 x2 x3 => Sys2Proof.Machine.execVdot4 x0 x1 x2 x3 s
  | .vscale x0 x1 x2 x3 => Sys2Proof.Machine.execVscale x0 x1 x2 x3 s
  | .vfrac x0 x1 => Sys2Proof.Machine.execVfrac x0 x1 s
  | .vrnd x0 x1 x2 => Sys2Proof.Machine.execVrnd x0 x1 x2 s
  | .vclass x0 x1 => Sys2Proof.Machine.execVclass x0 x1 s
  | .vaddi x0 x1 x2 => Sys2Proof.Machine.execVaddi x0 x1 x2 s
  | .vmuli x0 x1 x2 => Sys2Proof.Machine.execVmuli x0 x1 x2 s
  | .vandi x0 x1 x2 => Sys2Proof.Machine.execVandi x0 x1 x2 s
  | .vori x0 x1 x2 => Sys2Proof.Machine.execVori x0 x1 x2 s
  | .vxori x0 x1 x2 => Sys2Proof.Machine.execVxori x0 x1 x2 s
  | .vshli x0 x1 x2 => Sys2Proof.Machine.execVshli x0 x1 x2 s
  | .vshri x0 x1 x2 => Sys2Proof.Machine.execVshri x0 x1 x2 s
  | .vsrai x0 x1 x2 => Sys2Proof.Machine.execVsrai x0 x1 x2 s
  | .vmini x0 x1 x2 => Sys2Proof.Machine.execVmini x0 x1 x2 s
  | .vmaxi x0 x1 x2 => Sys2Proof.Machine.execVmaxi x0 x1 x2 s
  | .vrcp x0 x1 => Sys2Proof.Machine.execVrcp x0 x1 s
  | .vrsq x0 x1 => Sys2Proof.Machine.execVrsq x0 x1 s
  | .vsqrt x0 x1 => Sys2Proof.Machine.execVsqrt x0 x1 s
  | .vexp2 x0 x1 => Sys2Proof.Machine.execVexp2 x0 x1 s
  | .vlog2 x0 x1 => Sys2Proof.Machine.execVlog2 x0 x1 s
  | .vsin x0 x1 => Sys2Proof.Machine.execVsin x0 x1 s
  | .vcos x0 x1 => Sys2Proof.Machine.execVcos x0 x1 s
  | .vtanh x0 x1 => Sys2Proof.Machine.execVtanh x0 x1 s
  | .vsigm x0 x1 => Sys2Proof.Machine.execVsigm x0 x1 s
  | .verf x0 x1 => Sys2Proof.Machine.execVerf x0 x1 s
  | .vcvt x0 x1 x2 x3 => Sys2Proof.Machine.execVcvt x0 x1 x2 x3 s
  | .vpack x0 x1 x2 => Sys2Proof.Machine.execVpack x0 x1 x2 s
  | .vunpk x0 x1 x2 => Sys2Proof.Machine.execVunpk x0 x1 x2 s
  | .vqblk x0 x1 x2 x3 => Sys2Proof.Machine.execVqblk x0 x1 x2 x3 s
  | .vcmp x0 x1 x2 x3 => Sys2Proof.Machine.execVcmp x0 x1 x2 x3 s
  | .vcmpi x0 x1 x2 x3 => Sys2Proof.Machine.execVcmpi x0 x1 x2 x3 s
  | .pand x0 x1 x2 x3 x4 => Sys2Proof.Machine.execPand x0 x1 x2 x3 x4 s
  | .por x0 x1 x2 x3 x4 => Sys2Proof.Machine.execPor x0 x1 x2 x3 x4 s
  | .pxor x0 x1 x2 x3 x4 => Sys2Proof.Machine.execPxor x0 x1 x2 x3 x4 s
  | .pmov x0 x1 x2 => Sys2Proof.Machine.execPmov x0 x1 x2 s
  | .pmovV2p x0 x1 x2 => Sys2Proof.Machine.execPmovV2p x0 x1 x2 s
  | .pmovP2v x0 x1 x2 => Sys2Proof.Machine.execPmovP2v x0 x1 x2 s
  | .vsel x0 x1 x2 x3 => Sys2Proof.Machine.execVsel x0 x1 x2 x3 s
  | .vmov x0 x1 x2 => Sys2Proof.Machine.execVmov x0 x1 x2 s
  | .vmovi x0 x1 => Sys2Proof.Machine.execVmovi x0 x1 s
  | .vmovh x0 x1 => Sys2Proof.Machine.execVmovh x0 x1 s
  | .vbcs x0 x1 x2 => Sys2Proof.Machine.execVbcs x0 x1 x2 s
  | .vget x0 x1 x2 => Sys2Proof.Machine.execVget x0 x1 x2 s
  | .vput x0 x1 x2 => Sys2Proof.Machine.execVput x0 x1 x2 s
  | .vlid x0 x1 => Sys2Proof.Machine.execVlid x0 x1 s
  | .vbnd x0 x1 x2 => Sys2Proof.Machine.execVbnd x0 x1 x2 s
  | .vshfl x0 x1 x2 x3 => Sys2Proof.Machine.execVshfl x0 x1 x2 x3 s
  | .vshfu x0 x1 x2 x3 x4 => Sys2Proof.Machine.execVshfu x0 x1 x2 x3 x4 s
  | .vshfd x0 x1 x2 x3 x4 => Sys2Proof.Machine.execVshfd x0 x1 x2 x3 x4 s
  | .vshfx x0 x1 x2 x3 x4 => Sys2Proof.Machine.execVshfx x0 x1 x2 x3 x4 s
  | .vote x0 x1 x2 x3 => Sys2Proof.Machine.execVote x0 x1 x2 x3 s
  | .vred x0 x1 x2 => Sys2Proof.Machine.execVred x0 x1 x2 s
  | .vscan x0 x1 x2 x3 => Sys2Proof.Machine.execVscan x0 x1 x2 x3 s
  | .vmatch x0 x1 x2 => Sys2Proof.Machine.execVmatch x0 x1 x2 s
  | .width x0 => Sys2Proof.Machine.execWidth x0 s
  | .br x0 => Sys2Proof.Machine.execBr x0 s
  | .bra x0 x1 x2 => Sys2Proof.Machine.execBra x0 x1 x2 s
  | .brc x0 x1 x2 => Sys2Proof.Machine.execBrc x0 x1 x2 s
  | .brx x0 x1 => Sys2Proof.Machine.execBrx x0 x1 s
  | .brxU x0 => Sys2Proof.Machine.execBrxU x0 s
  | .call x0 => Sys2Proof.Machine.execCall x0 s
  | .ret x0 => Sys2Proof.Machine.execRet x0 s
  | .jarm x0 => Sys2Proof.Machine.execJarm x0 s
  | .jarv x0 => Sys2Proof.Machine.execJarv x0 s
  | .jwait x0 => Sys2Proof.Machine.execJwait x0 s
  | .jclr x0 => Sys2Proof.Machine.execJclr x0 s
  | .yield => Sys2Proof.Machine.execYield s
  | .exit => Sys2Proof.Machine.execExit s
  | .warpRetire x0 => Sys2Proof.Machine.execWarpRetire x0 s
  | .trap x0 => Sys2Proof.Machine.execTrap x0 s
  | .tret => Sys2Proof.Machine.execTret s
  | .mode x0 x1 => Sys2Proof.Machine.execMode x0 x1 s
  | .barInit x0 x1 => Sys2Proof.Machine.execBarInit x0 x1 s
  | .barArv x0 x1 x2 => Sys2Proof.Machine.execBarArv x0 x1 x2 s
  | .barWait x0 x1 x2 => Sys2Proof.Machine.execBarWait x0 x1 x2 s
  | .kbar => Sys2Proof.Machine.execKbar s
  | .gbar => Sys2Proof.Machine.execGbar s
  | .fork x0 x1 => Sys2Proof.Machine.execFork x0 x1 s
  | .rdv x0 => Sys2Proof.Machine.execRdv x0 s
  | .rcall x0 x1 x2 x3 => Sys2Proof.Machine.execRcall x0 x1 x2 x3 s
  | .rcallRetry x0 x1 x2 x3 => Sys2Proof.Machine.execRcallRetry x0 x1 x2 x3 s
  | .rret x0 => Sys2Proof.Machine.execRret x0 s
  | .rwait x0 x1 x2 => Sys2Proof.Machine.execRwait x0 x1 x2 s
  | .launch x0 x1 x2 => Sys2Proof.Machine.execLaunch x0 x1 x2 s
  | .racq => Sys2Proof.Machine.execRacq s
  | .brk x0 => Sys2Proof.Machine.execBrk x0 s
  | .sbnd x0 x1 x2 x3 => Sys2Proof.Machine.execSbnd x0 x1 x2 x3 s
  | .ldN8 x0 x1 x2 x3 => Sys2Proof.Machine.execLdN8 x0 x1 x2 x3 s
  | .ldI8 x0 x1 x2 x3 => Sys2Proof.Machine.execLdI8 x0 x1 x2 x3 s
  | .ldN16 x0 x1 x2 x3 => Sys2Proof.Machine.execLdN16 x0 x1 x2 x3 s
  | .ldI16 x0 x1 x2 x3 => Sys2Proof.Machine.execLdI16 x0 x1 x2 x3 s
  | .ld32 x0 x1 x2 x3 => Sys2Proof.Machine.execLd32 x0 x1 x2 x3 s
  | .ld64 x0 x1 x2 x3 => Sys2Proof.Machine.execLd64 x0 x1 x2 x3 s
  | .ld128 x0 x1 x2 x3 => Sys2Proof.Machine.execLd128 x0 x1 x2 x3 s
  | .st x0 x1 x2 x3 => Sys2Proof.Machine.execSt x0 x1 x2 x3 s
  | .ldl32 x0 x1 x2 x3 => Sys2Proof.Machine.execLdl32 x0 x1 x2 x3 s
  | .ldl128 x0 x1 x2 x3 => Sys2Proof.Machine.execLdl128 x0 x1 x2 x3 s
  | .stl x0 x1 x2 x3 => Sys2Proof.Machine.execStl x0 x1 x2 x3 s
  | .ldlQ x0 x1 x2 x3 x4 x5 => Sys2Proof.Machine.execLdlQ x0 x1 x2 x3 x4 x5 s
  | .stlQ x0 x1 x2 x3 x4 => Sys2Proof.Machine.execStlQ x0 x1 x2 x3 x4 s
  | .ldc x0 x1 x2 x3 => Sys2Proof.Machine.execLdc x0 x1 x2 x3 s
  | .sld x0 x1 x2 x3 x4 => Sys2Proof.Machine.execSld x0 x1 x2 x3 x4 s
  | .red x0 x1 x2 x3 => Sys2Proof.Machine.execRed x0 x1 x2 x3 s
  | .atomAdd x0 x1 x2 x3 => Sys2Proof.Machine.execAtomAdd x0 x1 x2 x3 s
  | .atomMin x0 x1 x2 x3 => Sys2Proof.Machine.execAtomMin x0 x1 x2 x3 s
  | .atomMax x0 x1 x2 x3 => Sys2Proof.Machine.execAtomMax x0 x1 x2 x3 s
  | .atomMinn x0 x1 x2 x3 => Sys2Proof.Machine.execAtomMinn x0 x1 x2 x3 s
  | .atomMaxn x0 x1 x2 x3 => Sys2Proof.Machine.execAtomMaxn x0 x1 x2 x3 s
  | .atomAnd x0 x1 x2 x3 => Sys2Proof.Machine.execAtomAnd x0 x1 x2 x3 s
  | .atomOr x0 x1 x2 x3 => Sys2Proof.Machine.execAtomOr x0 x1 x2 x3 s
  | .atomXor x0 x1 x2 x3 => Sys2Proof.Machine.execAtomXor x0 x1 x2 x3 s
  | .atomSwap x0 x1 x2 x3 => Sys2Proof.Machine.execAtomSwap x0 x1 x2 x3 s
  | .atomCas x0 x1 x2 x3 => Sys2Proof.Machine.execAtomCas x0 x1 x2 x3 s
  | .atomInc x0 x1 x2 x3 => Sys2Proof.Machine.execAtomInc x0 x1 x2 x3 s
  | .atomDec x0 x1 x2 x3 => Sys2Proof.Machine.execAtomDec x0 x1 x2 x3 s
  | .atomFadd x0 x1 x2 x3 => Sys2Proof.Machine.execAtomFadd x0 x1 x2 x3 s
  | .atoml x0 x1 x2 => Sys2Proof.Machine.execAtoml x0 x1 x2 s
  | .reclassification x0 x1 x2 => Sys2Proof.Machine.execReclassification x0 x1 x2 s
  | .cpy x0 x1 x2 x3 => Sys2Proof.Machine.execCpy x0 x1 x2 x3 s
  | .cpyz x0 x1 x2 x3 => Sys2Proof.Machine.execCpyz x0 x1 x2 x3 s
  | .copyCommandComplete x0 => Sys2Proof.Machine.execCopyCommandComplete x0 s
  | .mrd x0 x1 x2 => Sys2Proof.Machine.execMrd x0 x1 x2 s
  | .mwait x0 x1 x2 => Sys2Proof.Machine.execMwait x0 x1 x2 s
  | .mstep x0 x1 x2 => Sys2Proof.Machine.execMstep x0 x1 x2 s
  | .mstepComplete x0 => Sys2Proof.Machine.execMstepComplete x0 s
  | .fence x0 x1 => Sys2Proof.Machine.execFence x0 x1 s
  | .writeAcknowledged x0 x1 => Sys2Proof.Machine.execWriteAcknowledged x0 x1 s
  | .pref x0 x1 x2 => Sys2Proof.Machine.execPref x0 x1 x2 s
  | .cinv x0 x1 x2 => Sys2Proof.Machine.execCinv x0 x1 x2 s
  | .cwb x0 x1 x2 => Sys2Proof.Machine.execCwb x0 x1 x2 s
  | .xatAdd x0 x1 x2 => Sys2Proof.Machine.execXatAdd x0 x1 x2 s
  | .xatRed x0 x1 x2 x3 => Sys2Proof.Machine.execXatRed x0 x1 x2 x3 s
  | .xatRmw x0 x1 x2 x3 => Sys2Proof.Machine.execXatRmw x0 x1 x2 x3 s
  | .nearOperationPerformed x0 => Sys2Proof.Machine.execNearOperationPerformed x0 s
  | .xatExpr x0 x1 x2 => Sys2Proof.Machine.execXatExpr x0 x1 x2 s
  | .xatFill x0 x1 x2 x3 => Sys2Proof.Machine.execXatFill x0 x1 x2 x3 s
  | .xatCopy x0 x1 x2 x3 => Sys2Proof.Machine.execXatCopy x0 x1 x2 x3 s
  | .rowTransferBlockCommit x0 => Sys2Proof.Machine.execRowTransferBlockCommit x0 s
  | .nearCommandComplete x0 => Sys2Proof.Machine.execNearCommandComplete x0 s
  | .nearProgress x0 => Sys2Proof.Machine.execNearProgress x0 s
  | .xwait => Sys2Proof.Machine.execXwait s
  | .mqPut x0 x1 x2 => Sys2Proof.Machine.execMqPut x0 x1 x2 s
  | .mqGet x0 x1 x2 => Sys2Proof.Machine.execMqGet x0 x1 x2 s
  | .mqModuleAnswer x0 => Sys2Proof.Machine.execMqModuleAnswer x0 s
  | .mred x0 x1 x2 x3 => Sys2Proof.Machine.execMred x0 x1 x2 x3 s
  | .mredContribution x0 => Sys2Proof.Machine.execMredContribution x0 s
  | .mrelay x0 x1 x2 x3 => Sys2Proof.Machine.execMrelay x0 x1 x2 x3 s
  | .nput x0 x1 x2 => Sys2Proof.Machine.execNput x0 x1 x2 s
  | .nget x0 x1 x2 => Sys2Proof.Machine.execNget x0 x1 x2 s
  | .nsig x0 x1 x2 => Sys2Proof.Machine.execNsig x0 x1 x2 s
  | .nwait x0 x1 => Sys2Proof.Machine.execNwait x0 x1 s
  | .nwaitRd x0 x1 => Sys2Proof.Machine.execNwaitRd x0 x1 s
  | .mmaI8t2 x0 x1 x2 x3 => Sys2Proof.Machine.execMmaI8t2 x0 x1 x2 x3 s
  | .mmaE4t2 x0 x1 x2 x3 => Sys2Proof.Machine.execMmaE4t2 x0 x1 x2 x3 s
  | .mmaI8i4 x0 x1 x2 x3 => Sys2Proof.Machine.execMmaI8i4 x0 x1 x2 x3 s
  | .mmaI8i8 x0 x1 x2 x3 => Sys2Proof.Machine.execMmaI8i8 x0 x1 x2 x3 s
  | .mmaE4e4 x0 x1 x2 x3 => Sys2Proof.Machine.execMmaE4e4 x0 x1 x2 x3 s
  | .mmaE4e5 x0 x1 x2 x3 => Sys2Proof.Machine.execMmaE4e5 x0 x1 x2 x3 s
  | .mmaE5e4 x0 x1 x2 x3 => Sys2Proof.Machine.execMmaE5e4 x0 x1 x2 x3 s
  | .mmaE5e5 x0 x1 x2 x3 => Sys2Proof.Machine.execMmaE5e5 x0 x1 x2 x3 s
  | .mmaE2e2 x0 x1 x2 x3 => Sys2Proof.Machine.execMmaE2e2 x0 x1 x2 x3 s
  | .mmaBf16 x0 x1 x2 x3 => Sys2Proof.Machine.execMmaBf16 x0 x1 x2 x3 s
  | .mmaF16 x0 x1 x2 x3 => Sys2Proof.Machine.execMmaF16 x0 x1 x2 x3 s
  | .mmaBft2 x0 x1 x2 x3 => Sys2Proof.Machine.execMmaBft2 x0 x1 x2 x3 s
  | .msa x0 x1 x2 x3 => Sys2Proof.Machine.execMsa x0 x1 x2 x3 s
  | .matrixExecute x0 x1 => Sys2Proof.Machine.execMatrixExecute x0 x1 s
  | .mzero x0 => Sys2Proof.Machine.execMzero x0 s
  | .mzeroP => Sys2Proof.Machine.execMzeroP s
  | .mmovToRegisters x0 x1 x2 => Sys2Proof.Machine.execMmovToRegisters x0 x1 x2 s
  | .mmovToTile x0 x1 => Sys2Proof.Machine.execMmovToTile x0 x1 s
  | .mring x0 x1 x2 => Sys2Proof.Machine.execMring x0 x1 x2 s
  | .ePop => Sys2Proof.Machine.execEPop s
  | .eSa x0 x1 x2 => Sys2Proof.Machine.execESa x0 x1 x2 s
  | .eBias x0 x1 => Sys2Proof.Machine.execEBias x0 x1 s
  | .eAct x0 => Sys2Proof.Machine.execEAct x0 s
  | .eCvt x0 x1 => Sys2Proof.Machine.execECvt x0 x1 s
  | .eBnd x0 => Sys2Proof.Machine.execEBnd x0 s
  | .eSt x0 x1 x2 => Sys2Proof.Machine.execESt x0 x1 x2 s
  | .eAst x0 x1 x2 => Sys2Proof.Machine.execEAst x0 x1 x2 s
  | .eArv x0 x1 => Sys2Proof.Machine.execEArv x0 x1 s
  | .eBr x0 x1 => Sys2Proof.Machine.execEBr x0 x1 s
  | .eWait x0 x1 x2 => Sys2Proof.Machine.execEWait x0 x1 x2 s
  | .eEnd => Sys2Proof.Machine.execEEnd s
  | .srd x0 x1 => Sys2Proof.Machine.execSrd x0 x1 s
  | .swr x0 x1 => Sys2Proof.Machine.execSwr x0 x1 s
  | .ctlModeWrite x0 => Sys2Proof.Machine.execCtlModeWrite x0 s
  | .ctlCpyfltWrite x0 => Sys2Proof.Machine.execCtlCpyfltWrite x0 s
  | .ctlEstWrite x0 => Sys2Proof.Machine.execCtlEstWrite x0 s
  | .ctlTcauseWrite x0 => Sys2Proof.Machine.execCtlTcauseWrite x0 s
  | .clk x0 x1 => Sys2Proof.Machine.execClk x0 x1 s
  | .sleep x0 => Sys2Proof.Machine.execSleep x0 s
  | .sleepExpiry x0 x1 => Sys2Proof.Machine.execSleepExpiry x0 x1 s
  | .id x0 x1 => Sys2Proof.Machine.execId x0 x1 s
  | .dbg x0 x1 x2 => Sys2Proof.Machine.execDbg x0 x1 x2 s
  | .endRun x0 x1 x2 => Sys2Proof.Machine.execEndRun x0 x1 x2 s
  | .issueSelector x0 => Sys2Proof.Machine.execIssueSelector x0 s
  | .runFetch x0 x1 => Sys2Proof.Machine.execRunFetch x0 x1 s
  | .longLatencyWriteback x0 x1 => Sys2Proof.Machine.execLongLatencyWriteback x0 x1 s
  | .farCallArrival x0 x1 => Sys2Proof.Machine.execFarCallArrival x0 x1 s
  | .farReplyArrival x0 => Sys2Proof.Machine.execFarReplyArrival x0 s
  | .rcallTimeout x0 x1 => Sys2Proof.Machine.execRcallTimeout x0 x1 s
  | .replyCacheExpiry x0 x1 => Sys2Proof.Machine.execReplyCacheExpiry x0 x1 s
  | .farTaskStopped x0 => Sys2Proof.Machine.execFarTaskStopped x0 s
  | .hostDbell x0 => Sys2Proof.Machine.execHostDbell x0 s
  | .launchRecordStart x0 => Sys2Proof.Machine.execLaunchRecordStart x0 s
  | .skeinPlacement x0 => Sys2Proof.Machine.execSkeinPlacement x0 s
  | .skeinRetire x0 => Sys2Proof.Machine.execSkeinRetire x0 s
  | .gridRetire x0 => Sys2Proof.Machine.execGridRetire x0 s
  | .graphWaitSatisfied x0 x1 => Sys2Proof.Machine.execGraphWaitSatisfied x0 x1 s
  | .preemptionRequest x0 => Sys2Proof.Machine.execPreemptionRequest x0 s
  | .timeSliceExpiry x0 => Sys2Proof.Machine.execTimeSliceExpiry x0 s
  | .preemptionSaveComplete x0 => Sys2Proof.Machine.execPreemptionSaveComplete x0 s
  | .cancelRecord x0 x1 => Sys2Proof.Machine.execCancelRecord x0 x1 s
  | .translationInvalidate x0 x1 x2 => Sys2Proof.Machine.execTranslationInvalidate x0 x1 x2 s
  | .atsTranslationCompletion x0 x1 x2 x3 x4 => Sys2Proof.Machine.execAtsTranslationCompletion x0 x1 x2 x3 x4 s
  | .priPageResponse x0 x1 x2 x3 x4 x5 => Sys2Proof.Machine.execPriPageResponse x0 x1 x2 x3 x4 x5 s
  | .atsInvalidateRequest x0 x1 => Sys2Proof.Machine.execAtsInvalidateRequest x0 x1 s
  | .faultService x0 x1 x2 x3 => Sys2Proof.Machine.execFaultService x0 x1 x2 x3 s
  | .backInvalidation x0 x1 => Sys2Proof.Machine.execBackInvalidation x0 x1 s
  | .moduleGrant x0 x1 x2 => Sys2Proof.Machine.execModuleGrant x0 x1 x2 s
  | .relayForward x0 => Sys2Proof.Machine.execRelayForward x0 s
  | .routeInstall x0 x1 => Sys2Proof.Machine.execRouteInstall x0 x1 s
  | .moduleLoss x0 => Sys2Proof.Machine.execModuleLoss x0 s
  | .packageLoss x0 => Sys2Proof.Machine.execPackageLoss x0 s
  | .reltexPacketReceive x0 => Sys2Proof.Machine.execReltexPacketReceive x0 s
  | .reltexAckReceive x0 => Sys2Proof.Machine.execReltexAckReceive x0 s
  | .retransmitTimeout x0 => Sys2Proof.Machine.execRetransmitTimeout x0 s
  | .scrub x0 => Sys2Proof.Machine.execScrub x0 s
  | .snapshotPageCopy x0 x1 => Sys2Proof.Machine.execSnapshotPageCopy x0 x1 s
  | .snapshotPoolDecision x0 x1 => Sys2Proof.Machine.execSnapshotPoolDecision x0 x1 s
  | .rollback x0 => Sys2Proof.Machine.execRollback x0 s
  | .unitFencing x0 => Sys2Proof.Machine.execUnitFencing x0 s
  | .currentLimit => Sys2Proof.Machine.execCurrentLimit s
  | .temperatureLimit => Sys2Proof.Machine.execTemperatureLimit s
  | .fatalLimit => Sys2Proof.Machine.execFatalLimit s
  | .powerGood => Sys2Proof.Machine.execPowerGood s
  | .powerUpStepReady x0 => Sys2Proof.Machine.execPowerUpStepReady x0 s
  | .coreGroupStart x0 => Sys2Proof.Machine.execCoreGroupStart x0 s
  | .conventionalReset => Sys2Proof.Machine.execConventionalReset s
  | .functionLevelReset => Sys2Proof.Machine.execFunctionLevelReset s
  | .boardPowerRemoved => Sys2Proof.Machine.execBoardPowerRemoved s
  | .spdmRequest x0 => Sys2Proof.Machine.execSpdmRequest x0 s
  | .hostEvent x0 => Sys2Proof.Machine.execHostEvent x0 s
  | .wordNotAnInstruction x0 => Sys2Proof.Machine.execWordNotAnInstruction x0 s
  | .asidBinding x0 x1 => Sys2Proof.Machine.execAsidBinding x0 x1 s
  | .asidFreeing x0 => Sys2Proof.Machine.execAsidFreeing x0 s
  | .connectionBinding x0 x1 => Sys2Proof.Machine.execConnectionBinding x0 x1 s
  | .launchQueueBinding x0 x1 => Sys2Proof.Machine.execLaunchQueueBinding x0 x1 s
  | .modulePortBringUp x0 x1 x2 => Sys2Proof.Machine.execModulePortBringUp x0 x1 x2 s

end Sys2Proof.Machine
end

