-- ==== Sys2Proof/Machine/Step.lean ====
section
/-! DEFINITION. One step of the package: time passes, and whoever's turn it is acts. -/

namespace Sys2Proof.Machine

/-- One step. -/
def step (s : State) : Host.Outcome State Fault Refusal :=
  match turnOf (passTime s) with
  | .run i t => exec i t
  | .trial i wk e t => settleTrial wk e t (exec i (focusSplit t wk e))
  | .done o => o

/-- The state with an instruction word, bit 0 the least significant, placed where the next step finds it. -/
def State.withFetchWord (s : State) (_nbits w : Nat) : State := placeWord s (BitVec.ofNat 32 w)

end Sys2Proof.Machine
end

