-- ==== Sys2Proof/Safety.lean ====
section
/-! DEFINITION. The terms claims are stated in: a step that stops and what a run reaches, who executes an instruction and
when nothing keeps it from executing (05_encoding R84, R85, R96, R97, R345), the shape of a state's tables, and what an
instruction leaves unchanged. -/

namespace Sys2Proof.Machine

/-- A step that does not stop. -/
def goesOn : Out → Bool
  | .next _ => true
  | .fault _ => false
  | .refused _ => false

/-- The states that runs of the machine from a state reach. -/
inductive Reaches (s : State) : State → Prop where
  | here : Reaches s s
  | step {t u : State} : Reaches s t → Sys2Proof.Machine.step t = .next u → Reaches s u

/-- A safe state: no run from it stops with a fault or a refusal. -/
def Safe (s : State) : Prop := ∀ t, Reaches s t → goesOn (Sys2Proof.Machine.step t) = true

/-- The memories of the state in their canonical form. -/
def State.memWf (s : State) : Bool := Mem.wf s.mem && Mem.wf s.host

/-! ### Who executes -/

/-- The split that has the focus. -/
def executing (s : State) : Option Cx :=
  match s.focus with
  | .split wk e => cxOf s wk e
  | .none => none
  | .engine _ => none

/-- The engine program that has the focus. -/
def running (s : State) : Option Ex :=
  match s.focus with
  | .engine g => exOf s g
  | .none => none
  | .split _ _ => none

/-- No refused page waits for the split: its stall is not that of R294. -/
def Stall.served : Stall → Bool
  | .refused _ => false
  | .denied _ => true
  | .issued => true
  | .none => true
  | .kbar _ => true
  | .gbar _ => true
  | .sleep _ _ => true
  | .queue _ _ => true
  | .near _ => true
  | .other => true

/-- Nothing keeps the split from executing the instruction: no fault is due, nothing reissued is still to be translated, no page was
refused, no cause of R97 ranks 2 to
8 holds, no outstanding write to an operand remains, no operand is poisoned or mismatched, and no handler is asked for what
R299 forbids. -/
def Cx.issues (c : Cx) (i : Instr) : Bool :=
  !c.sp.faultDue && c.reissueWait.isNone && c.sp.stall.served && (c.issueCause i).isNone && (c.holds i).isNone && !c.mismatched i &&
  !c.consumesPoison i && !(c.sp.trap.handler && forbiddenInHandler i)

/-- A split is to execute an instruction and nothing keeps it from that. -/
def Ready (i : Instr) (s : State) (c : Cx) : Prop := executing s = some c ∧ c.issues i = true

/-- Nothing keeps the engine program from executing the command (15_matrix R252). -/
def Ex.issues (x : Ex) (i : Instr) : Bool :=
  x.en.refused.isNone && engineOpcode (opcodeOf i) && lookOf i == 0 && !x.poisoned i

/-- An engine program is to execute a command and nothing keeps it from that. -/
def EngineReady (i : Instr) (s : State) (x : Ex) : Prop := running s = some x ∧ x.issues i = true

/-! ### Shape -/

/-- The split's tables have the sizes the manual gives: 64 scalars, 8 predicates, 4 join registers, 96 lanes in every
vector register and temporary written so far (01_machine R10, R25, 09_control R152). -/
def Cx.shaped (c : Cx) : Bool :=
  c.sp.scalars.length == 64 && c.w.preds.length == 8 && c.w.joins.length == 4 &&
  c.w.vregs.all (fun r => r.2.length == 96) && c.sp.temps.all (fun r => r.2.length == 96)

/-- An engine program's tables have the sizes of R251. -/
def Ex.shaped (x : Ex) : Bool :=
  x.en.scalars.length == 64 && x.en.w.elems.length == 3072 && x.en.q.elems.length == 3072

/-- A split's tables have their sizes, and so do those that a trap has saved. -/
def Split.shaped (sp : Split) : Bool :=
  sp.scalars.length == 64 && sp.temps.all (fun r => r.2.length == 96) && sp.trap.savedTemps.all fun r => r.2.length == 96

/-- A warp's tables have their sizes, and so do those of its splits. -/
def Warp.shaped (w : Warp) : Bool :=
  w.preds.length == 8 && w.joins.length == 4 && w.vregs.all (fun r => r.2.length == 96) &&
  w.splits.all (fun p => p.2.shaped) && w.spill.all fun x => x.split.shaped

/-- The tables of every warp and engine program have the sizes the manual gives: `Cx.shaped` and `Ex.shaped` of everybody. -/
def State.shaped (s : State) : Bool :=
  s.warps.all (fun w => w.2.shaped) &&
  s.wgs.all fun g => g.2.engine.all fun e =>
    e.scalars.length == 64 && e.w.elems.length == 3072 && e.q.elems.length == 3072

/-! ### Reading -/

/-- The value of a vector register or temporary in one lane. -/
def Cx.lane (c : Cx) (r lane : Nat) : Word := (c.row r).getD lane 0

/-- The value of a register, or of a pair under a 64-bit type, in one lane. -/
def Cx.wideLane (c : Cx) (r : Nat) (wide : Bool) (lane : Nat) : DWord :=
  if wide then pair (c.lane r lane) (c.lane (r + 1) lane) else (c.lane r lane).setWidth 64

/-- Element k of a lane's operand under the type in force (03_numbers R58). -/
def Cx.elem (c : Cx) (t : ElemType) (r lane k : Nat) : Nat :=
  elemAt (elemBits t) k (c.wideLane r (isWide64 c.type) lane).toNat

/-- The number of vector registers an operand takes under the type in force. -/
def Cx.regs (c : Cx) : Nat := if isWide64 c.type then 2 else 1

/-- The registers from one on. -/
def regsFrom (r n : Nat) : List Nat := (List.range n).map fun k => r + k

/-! ### What stays -/

/-- What an instruction may write in its split and warp: scalars, vector registers in some lanes, predicates in some lanes,
status, stochastic counts. -/
structure Writes where
  scalars : List Nat
  vectors : List Nat
  preds : List Nat
  lanes : Mask
  status : Bool
  draws : Bool
  deriving DecidableEq, Repr

/-- Nothing. -/
def Writes.none : Writes := { scalars := [], vectors := [], preds := [], lanes := 0, status := false, draws := false }

/-- A split without the parts that `Keeps` speaks of one by one. -/
def Split.rest (sp : Split) : Split :=
  { sp with scalars := [], scalarPoison := 0, act := 0, temps := [], tempPoison := [], fpst := 0, pend := [] }

/-- A warp without the parts that `Keeps` speaks of one by one. -/
def Warp.rest (w : Warp) : Warp := { w with vregs := [], vregPoison := [], preds := [], predPoison := 0, srCount := [] }

/-- The outstanding results of a split, but for the marks of settlement and of later writes. -/
def Cx.outstanding (c : Cx) : List Pend := c.sp.pend.map fun p => { p with settled := false, kept := [] }

/-- An instruction's own frame: the state around the split, the warp and the split keep everything but the named writes.
s61 to s63 stand for the activity mask (R26).  The outstanding results stay outstanding; which lanes of them a later write
keeps is R84's and is spoken of by itself. -/
def Keeps (ws : Writes) (c d : Cx) : Prop :=
  d.s = c.s ∧ d.wk = c.wk ∧ d.e = c.e ∧ d.w.rest = c.w.rest ∧ d.sp.rest = c.sp.rest ∧
  (∀ n, n < 64 → n ∉ ws.scalars → d.sp.scalar n = c.sp.scalar n) ∧
  (∀ r l, l < 96 → ¬(r ∈ ws.vectors ∧ ws.lanes.getLsbD l = true) → d.lane r l = c.lane r l) ∧
  (∀ n l, l < 96 → ¬(n ∈ ws.preds ∧ ws.lanes.getLsbD l = true) → (d.pred n).getLsbD l = (c.pred n).getLsbD l) ∧
  d.outstanding = c.outstanding ∧
  (if ws.status then c.sp.fpst &&& d.sp.fpst = c.sp.fpst else d.sp.fpst = c.sp.fpst) ∧
  (ws.draws = false → d.w.srCount = c.w.srCount)

/-- A write of a value in a shadow launch to the activity mask passes the check of R31: unchanged, or with equal halves. -/
def Cx.maskPasses (c : Cx) (act : Mask) : Bool :=
  !isShadow c.s c.w || act == c.sp.act || act.extractLsb' 0 48 == act.extractLsb' 48 48

/-- The split executed an instruction and moves on with what it left: windows close and results are written back. -/
def Completes (i : Instr) (s : State) (d : Cx) : Prop := exec i s = .next d.advance.commit

/-- An instruction of a split answers a next state in which nothing but the named writes is changed, and what else is said of
the split it leaves. -/
def Does (i : Instr) (s : State) (c : Cx) (ws : Writes) (also : Cx → Prop) : Prop :=
  ∃ d : Cx, Completes i s d ∧ Keeps ws c d ∧ d.shaped = true ∧ also d

/-- Writes of scalars. -/
def writesScalars (l : List Nat) : Writes := { Writes.none with scalars := l }

/-- Writes of vector registers in some lanes. -/
def writesVectors (l : List Nat) (m : Mask) : Writes := { Writes.none with vectors := l, lanes := m }

/-- Writes of vector registers in some lanes, with status. -/
def writesArith (l : List Nat) (m : Mask) (draws : Bool) : Writes :=
  { Writes.none with vectors := l, lanes := m, status := true, draws := draws }

/-- Writes of a predicate in some lanes. -/
def writesPred (n : Nat) (m : Mask) (status : Bool) : Writes := { Writes.none with preds := [n], lanes := m, status := status }

end Sys2Proof.Machine
end

