-- ==== Sys2Proof/Certificates/Slice0/Obligations.lean ====
section
/-! DEFINITION. The statements about the machine, with the tables of results they are stated by. -/

namespace Sys2Proof.Claims

open Sys2Proof.Machine

/-- Position and width of a bit field (07_scalar_vector R111). -/
def fieldOf (b : Word) : Nat × Nat :=
  let o := b.toNat % 64
  let w := min (b.toNat / 2 ^ 8 % 64) 32
  if 32 ≤ o then (o, 0) else (o, min w (32 - o))

/-- `bfe` of R111. -/
def fieldValue (a b : Word) (signed : Bool) : Word :=
  let o := (fieldOf b).1
  let w := (fieldOf b).2
  let f := a.toNat / 2 ^ o % 2 ^ w
  if signed = true ∧ 0 < w ∧ f / 2 ^ (w - 1) % 2 = 1 then BitVec.ofInt 32 ((f : Int) - 2 ^ w) else BitVec.ofNat 32 f

/-- `bfi` of R111, bit by bit. -/
def fieldInsert (d a b : Word) : Word :=
  let o := (fieldOf b).1
  let w := (fieldOf b).2
  BitVec.ofBoolListLE ((List.range 32).map fun i => if o ≤ i ∧ i < o + w then a.getLsbD (i - o) else d.getLsbD i)

/-- The conditions of `scmp` (R114). -/
def compares (x : BitVec 3) (a b : Word) : Prop :=
  match x.toNat with
  | 0 => a.toNat = b.toNat
  | 1 => a.toNat ≠ b.toNat
  | 2 => a.toInt < b.toInt
  | 3 => b.toInt ≤ a.toInt
  | 4 => a.toNat < b.toNat
  | 5 => b.toNat ≤ a.toNat
  | 6 => ∃ i, a.getLsbD i = true ∧ b.getLsbD i = true
  | _ => ∀ i, a.getLsbD i = true → b.getLsbD i = false

/-- The scalar instructions of 0x01 to 0x1A and 0x1F: destination and result, computed exactly over the integers and
narrowed once (07_scalar_vector R110 to R112). -/
def scalarResult (i : Instr) (r : Nat → Word) : Option (Nat × Word) :=
  let nat (v : Nat) : Word := BitVec.ofNat 32 v
  let int (v : Int) : Word := BitVec.ofInt 32 v
  match i with
  | .sadd d a b => some (d.toNat, int ((r a.toNat).toInt + (r b.toNat).toInt))
  | .ssub d a b => some (d.toNat, int ((r a.toNat).toInt - (r b.toNat).toInt))
  | .smul d a b => some (d.toNat, int ((r a.toNat).toInt * (r b.toNat).toInt))
  | .smulh d a b => some (d.toNat, int ((r a.toNat).toInt * (r b.toNat).toInt / 2 ^ 32))
  | .smulhn d a b => some (d.toNat, nat ((r a.toNat).toNat * (r b.toNat).toNat / 2 ^ 32))
  | .sand d a b => some (d.toNat, r a.toNat &&& r b.toNat)
  | .sor d a b => some (d.toNat, r a.toNat ||| r b.toNat)
  | .sxor d a b => some (d.toNat, r a.toNat ^^^ r b.toNat)
  | .sshl d a b => some (d.toNat, nat (if 32 ≤ (r b.toNat).toNat then 0 else (r a.toNat).toNat * 2 ^ (r b.toNat).toNat))
  | .sshr d a b => some (d.toNat, nat (if 32 ≤ (r b.toNat).toNat then 0 else (r a.toNat).toNat / 2 ^ (r b.toNat).toNat))
  | .ssra d a b => some (d.toNat, int ((r a.toNat).toInt / 2 ^ (min 32 (r b.toNat).toNat)))
  | .smin d a b => some (d.toNat, int (min (r a.toNat).toInt (r b.toNat).toInt))
  | .smax d a b => some (d.toNat, int (max (r a.toNat).toInt (r b.toNat).toInt))
  | .sminn d a b => some (d.toNat, nat (min (r a.toNat).toNat (r b.toNat).toNat))
  | .smaxn d a b => some (d.toNat, nat (max (r a.toNat).toNat (r b.toNat).toNat))
  | .sclz d a => some (d.toNat, nat ((List.range 32).takeWhile fun k => !(r a.toNat).getLsbD (31 - k)).length)
  | .spopc d a => some (d.toNat, nat ((List.range 32).countP fun k => (r a.toNat).getLsbD k))
  | .sbfe d a b g => some (d.toNat, fieldValue (r a.toNat) (r b.toNat) (g == 1))
  | .sbfi d a b => some (d.toNat, (fieldInsert (r d.toNat) (r a.toNat) (r b.toNat)).setWidth 32)
  | .saddi d a k => some (d.toNat, int ((r a.toNat).toInt + k.toInt))
  | .sandi d a k => some (d.toNat, r a.toNat &&& int k.toInt)
  | .sori d a k => some (d.toNat, r a.toNat ||| int k.toInt)
  | .sxori d a k => some (d.toNat, r a.toNat ^^^ int k.toInt)
  | .sshli d a k => some (d.toNat, nat ((r a.toNat).toNat * 2 ^ k.toNat))
  | .sshri d a k => some (d.toNat, nat ((r a.toNat).toNat / 2 ^ k.toNat))
  | .smovi d k => some (d.toNat, int k.toInt)
  | .smoviHi d k => some (d.toNat, nat (k.toNat * 2 ^ 16 + (r d.toNat).toNat % 2 ^ 16))
  | .ssel d a b => some (d.toNat, if (r d.toNat).toNat ≠ 0 then r a.toNat else r b.toNat)
  | _ => none

/-- What a write of a scalar leaves to be read: nothing in s0, the bits of lanes of the split in s61 to s63, the value
elsewhere (01_machine R25 to R27). -/
def scalarAfter (c : Cx) (n : Nat) (v : Word) : Word :=
  if n = 0 then 0
  else if 61 ≤ n then v &&& c.sp.lanes.extractLsb' (32 * (n - 61)) 32
  else v

end Sys2Proof.Claims

open Sys2Proof Sys2Proof.Machine Sys2Proof.Claims

/-- 0x01 to 0x1A and 0x1F executed by a split: the result, modulo 2^32, goes to the destination, which may be the activity
mask, and nothing else changes; the instruction executes whatever the activity mask is. -/
def Obligations.ScalarResults : Prop :=
  ∀ (i : Instr) (s : State) (c : Cx) (n : Nat) (v : Word),
    scalarResult i c.sp.scalar = some (n, v) → wellFormed i = true → c.shaped = true → Ready i s c →
    c.maskPasses (c.sp.setScalar n v false).act = true →
    Does i s c (writesScalars [n]) fun d => d.sp.scalar n = scalarAfter c n v

namespace Sys2Proof.Claims

open Sys2Proof.Machine

/-- The lane a shuffle reads, none where it names no active lane: the source itself (R138), but in a launch with `.shadow` lane
i + 48 reads the source's copy, none beyond 47 (R346). -/
def shuffleLane (c : Cx) (lane : Nat) (src : Int) : Option Nat :=
  if src < 0 then none
  else
    let p : Option Nat :=
      if isShadow c.s c.w = true ∧ 48 ≤ lane then (if src < 48 then some (src.toNat + 48) else none)
      else if src < 96 then some src.toNat else none
    p.bind fun l => if c.active.getLsbD l then some l else none

/-- The value a shuffle gives a lane: register k of the group at the source lane, or 0. -/
def shuffled (c : Cx) (a k : Nat) (src : Option Nat) : Word :=
  match src with
  | some l => c.lane (a + k) l
  | none => 0

/-- The index a lane has for the shuffles and `vlid` (R136, R346). -/
def laneIndex (c : Cx) (l : Nat) : Nat := if isShadow c.s c.w then l % 48 else l

/-- The index a lane has in its workgroup (01_machine R13, R346); a far task's lanes are numbered as they are. -/
def laneInGroup (c : Cx) (l : Nat) : Nat :=
  if isShadow c.s c.w then 48 * c.w.index + l % 48 else if c.w.far.isSome then l else 96 * c.w.index + l

/-- The distance operand of `vshfu`, `vshfd` and `vshfx`. -/
def shiftOf (c : Cx) (b : BitVec 7) (u : BitVec 1) : Nat := if u = 1 then (c.sp.scalar b.toNat).toNat else b.toNat

/-- Bit q of the mask `vmatch` gives a lane: the lane q that it stands for is active and holds the same value (R142, R346). -/
def matchBit (c : Cx) (a : Nat) (wide : Bool) (l q : Nat) : Bool :=
  let p := if isShadow c.s c.w then q + 48 * (l / 48) else q
  (if isShadow c.s c.w then decide (q < 48) else decide (q < 96)) && c.active.getLsbD p &&
    c.wideLane a wide p == c.wideLane a wide l

/-- The instructions whose result in a lane is a word computed from that lane, or another one: first destination register,
how many, and the word of register k and lane l (07_scalar_vector R120, R121, R134 to R136, R138, R142). -/
def laneResult (i : Instr) (c : Cx) : Option (Nat × Nat × (Nat → Nat → Word)) :=
  let n (r : BitVec 7) : Nat := r.toNat
  let regs (w : BitVec 1) : Nat := if w = 1 then 2 else 1
  match i with
  | .vand d a b => some (n d, 1, fun _ l => c.lane (n a) l &&& c.lane (n b) l)
  | .vor d a b => some (n d, 1, fun _ l => c.lane (n a) l ||| c.lane (n b) l)
  | .vxor d a b => some (n d, 1, fun _ l => c.lane (n a) l ^^^ c.lane (n b) l)
  | .vnot d a => some (n d, 1, fun _ l => ~~~(c.lane (n a) l))
  | .vbfe d a b g => some (n d, 1, fun _ l => fieldValue (c.lane (n a) l) (c.lane (n b) l) (g == 1))
  | .vbfi d a b => some (n d, 1, fun _ l => (fieldInsert (c.lane (n d) l) (c.lane (n a) l) (c.lane (n b) l)).setWidth 32)
  | .vandi d a k => some (n d, 1, fun _ l => c.lane (n a) l &&& BitVec.ofInt 32 k.toInt)
  | .vori d a k => some (n d, 1, fun _ l => c.lane (n a) l ||| BitVec.ofInt 32 k.toInt)
  | .vxori d a k => some (n d, 1, fun _ l => c.lane (n a) l ^^^ BitVec.ofInt 32 k.toInt)
  | .pmovP2v d a g => some (n d, 1, fun _ l => if (c.pred a.toNat).getLsbD l != (g == 1) then 1 else 0)
  | .vmov d a w => some (n d, regs w, fun k l => c.lane (n a + k) l)
  | .vmovi d k => some (n d, 1, fun _ _ => BitVec.ofInt 32 k.toInt)
  | .vmovh d k => some (n d, 1, fun _ l => BitVec.ofNat 32 (k.toNat * 2 ^ 16 + (c.lane (n d) l).toNat % 2 ^ 16))
  | .vbcs d a w => some (n d, regs w, fun k _ => c.sp.scalar (n a + k))
  | .vlid d w => some (n d, 1, fun _ l => BitVec.ofNat 32 (if w = 1 then laneInGroup c l else laneIndex c l))
  | .vshfl d a b w => some (n d, regs w, fun k l => shuffled c (n a) k (shuffleLane c l (c.lane (n b) l).toNat))
  | .vshfu d a b w u => some (n d, regs w, fun k l => shuffled c (n a) k (shuffleLane c l ((laneIndex c l : Int) - shiftOf c b u)))
  | .vshfd d a b w u => some (n d, regs w, fun k l => shuffled c (n a) k (shuffleLane c l (laneIndex c l + shiftOf c b u : Nat)))
  | .vshfx d a b w u => some (n d, regs w, fun k l => shuffled c (n a) k (shuffleLane c l (laneIndex c l ^^^ shiftOf c b u : Nat)))
  | .vmatch d a w => some (n d, 3, fun k l =>
      (BitVec.ofBoolListLE ((List.range 32).map fun j => matchBit c (n a) (w == 1) l (32 * k + j))).setWidth 32)
  | _ => none

/-- The exact integer result of an element, from its operands read in the type's signedness (07_scalar_vector R117, R121). -/
def exactElem (i : Instr) (a b d : Int) : Option Int :=
  match i with
  | .vadd _ _ _ _ => some (a + b)
  | .vsub _ _ _ _ => some (a - b)
  | .vmul _ _ _ _ => some (a * b)
  | .vfma _ _ _ _ => some (a * b + d)
  | .vabs _ _ => some (if a < 0 then -a else a)
  | .vneg _ _ => some (-a)
  | .vmin _ _ _ => some (min a b)
  | .vmax _ _ _ => some (max a b)
  | .vaddi _ _ k => some (a + k.toInt)
  | .vmuli _ _ k => some (a * k.toInt)
  | .vmini _ _ k => some (min a k.toInt)
  | .vmaxi _ _ k => some (max a k.toInt)
  | _ => none

/-- The operand registers of a typed instruction: destination, a and b (a again where it has one operand). -/
def typedOperands (i : Instr) : Option (Nat × Nat × Nat) :=
  match i with
  | .vadd d a b _ | .vsub d a b _ | .vmul d a b _ | .vfma d a b _ => some (d.toNat, a.toNat, b.toNat)
  | .vmulh d a b | .vmin d a b | .vmax d a b | .vminp d a b | .vmaxp d a b | .vshl d a b | .vshr d a b | .vsra d a b =>
      some (d.toNat, a.toNat, b.toNat)
  | .vabs d a | .vneg d a | .vclz d a | .vpopc d a | .vfrac d a | .vclass d a | .vrnd d a _ => some (d.toNat, a.toNat, a.toNat)
  | .vaddi d a _ | .vmuli d a _ | .vmini d a _ | .vmaxi d a _ => some (d.toNat, a.toNat, a.toNat)
  | .vshli d a _ | .vshri d a _ | .vsrai d a _ => some (d.toNat, a.toNat, a.toNat)
  | .vrcp d a | .vrsq d a | .vsqrt d a | .vexp2 d a | .vlog2 d a | .vsin d a | .vcos d a | .vtanh d a | .vsigm d a
  | .verf d a => some (d.toNat, a.toNat, a.toNat)
  | .vscale d a b _ => some (d.toNat, a.toNat, b.toNat)
  | _ => none

/-- fit_int of R64: out of range, the nearest end when saturating, and otherwise the value modulo 2^w. -/
def fits (w : Nat) (signed sat : Bool) (x y : Int) : Prop :=
  let lo : Int := if signed then -2 ^ (w - 1) else 0
  let hi : Int := if signed then 2 ^ (w - 1) - 1 else 2 ^ w - 1
  lo ≤ y ∧ y ≤ hi ∧
  (if sat = true ∧ hi < x then y = hi else if sat = true ∧ x < lo then y = lo else (2 ^ w : Int) ∣ y - x)

/-- The code of a shift, a count or the high half of a product under an integer type of w bits (R117, R119). -/
def bitElem (i : Instr) (w : Nat) (signed : Bool) (a b : Nat) : Option Nat :=
  let sra (n : Nat) : Nat := ((intOf w true a / 2 ^ (min n w)) % 2 ^ w).toNat
  match i with
  | .vshl _ _ _ => some (if w ≤ b then 0 else a * 2 ^ b % 2 ^ w)
  | .vshr _ _ _ => some (if w ≤ b then 0 else a / 2 ^ b)
  | .vsra _ _ _ => some (sra b)
  | .vshli _ _ k => some (if w ≤ k.toNat then 0 else a * 2 ^ k.toNat % 2 ^ w)
  | .vshri _ _ k => some (if w ≤ k.toNat then 0 else a / 2 ^ k.toNat)
  | .vsrai _ _ k => some (sra k.toNat)
  | .vclz _ _ => some ((List.range w).takeWhile fun k => !a.testBit (w - 1 - k)).length
  | .vpopc _ _ => some ((List.range w).countP fun k => a.testBit k)
  | .vmulh _ _ _ => some ((intOf w signed a * intOf w signed b / 2 ^ w) % 2 ^ w).toNat
  | _ => none

/-- The exact floating-point result of an element from its operands' values (R116, R118, R123), with the instruction's
rounding field. -/
def exactFloat (i : Instr) (rm : Rnd) (x y z : Machine.Num) : Option (Nat × Machine.Num) :=
  match i with
  | .vadd _ _ _ r => some (r.toNat, (addNum x y rm).1)
  | .vsub _ _ _ r => some (r.toNat, (addNum x y.negate rm).1)
  | .vmul _ _ _ r => some (r.toNat, (mulNum x y).1)
  | .vfma _ _ _ r => some (r.toNat, (fmaNum x y z rm).1)
  | .vrnd _ _ r => some (r.toNat, rintNum x rm 0)
  | .vabs _ _ => some (0, x.abs)
  | .vneg _ _ => some (0, x.negate)
  | .vfrac _ _ => some (0, (fracNum x).1)
  | _ => none

/-- The bit of a lane that a predicate instruction writes (07_scalar_vector R134), with its destination. -/
def predResult (i : Instr) (c : Cx) : Option (Nat × (Nat → Bool)) :=
  let p (a : BitVec 3) (neg : BitVec 1) (l : Nat) : Bool := (c.pred a.toNat).getLsbD l != (neg == 1)
  match i with
  | .pand d a b m n => some (d.toNat, fun l => p a n l && p b m l)
  | .por d a b m n => some (d.toNat, fun l => p a n l || p b m l)
  | .pxor d a b m n => some (d.toNat, fun l => p a n l != p b m l)
  | .pmov d a n => some (d.toNat, p a n)
  | .pmovV2p d a n => some (d.toNat, fun l => (c.lane a.toNat l != 0) != (n == 1))
  | _ => none

/-- The conditions of `vcmp` and `vcmpi` on integers: `.ord` always holds and `.unord` never does (R132). -/
def intCompares (x : BitVec 3) (a b : Int) : Bool :=
  match x.toNat with
  | 0 => a == b
  | 1 => a != b
  | 2 => decide (a < b)
  | 3 => decide (a ≤ b)
  | 4 => decide (b < a)
  | 5 => decide (b ≤ a)
  | 6 => true
  | _ => false

end Sys2Proof.Claims

/-- The instructions that move or combine whole words of lanes: each active lane gets its word, nothing else changes.  None
of them consults TYPE. -/
def Sys2Proof.Claims.LaneResultsAlone : Prop :=
  ∀ (i : Instr) (s : State) (c : Cx) (d n : Nat) (f : Nat → Nat → Word),
    laneResult i c = some (d, n, f) → wellFormed i = true → c.shaped = true → Ready i s c →
    Does i s c (writesVectors (regsFrom d n) c.active) fun e =>
      ∀ k l, k < n → l < 96 → c.active.getLsbD l = true → e.lane (d + k) l = f k l

/-- `vand`, `vor`, `vxor`, `vnot`, `vbfe` and `vbfi` give each active lane what `sand`, `sor`, `sxor`, complement, `sbfe` and
`sbfi` give on the lane's own words, under every TYPE (R120). -/
def Obligations.LaneLogic : Prop :=
  ∀ (s : State) (c : Cx) (d a b : BitVec 7) (g : BitVec 1) (k : Fin 6),
    let i : Instr := match k.val with
      | 0 => .vand d a b | 1 => .vor d a b | 2 => .vxor d a b | 3 => .vnot d a | 4 => .vbfe d a b g | _ => .vbfi d a b
    let j : Instr := match k.val with
      | 0 => .sand 3 1 2 | 1 => .sor 3 1 2 | 2 => .sxor 3 1 2 | 3 => .sxori 3 1 0x3FF | 4 => .sbfe 3 1 2 g | _ => .sbfi 3 1 2
    c.shaped = true → Ready i s c →
    Does i s c (writesVectors [d.toNat] c.active) fun e =>
      ∀ l, l < 96 → c.active.getLsbD l = true →
        scalarResult j (fun r => if r = 1 then c.lane a.toNat l else if r = 2 then c.lane b.toNat l else c.lane d.toNat l) =
          some (3, e.lane d.toNat l)

/-- `vsel` is opcode 0x66 with its operands in the fields D, A, B and X; it writes a where predicate x of the lane is 1 and b
otherwise, in the lanes of the guard (R135). -/
def Obligations.Select : Prop :=
  ∀ (d a b : BitVec 7) (x : BitVec 3), wellFormed (.vsel d a b x) = true →
    decode (0x66#8 ++ d ++ a ++ b ++ x) = .ok (.vsel d a b x) ∧
    ∀ (s : State) (c : Cx), c.shaped = true → Ready (.vsel d a b x) s c →
      Does (.vsel d a b x) s c (writesVectors [d.toNat] c.active) fun e =>
        ∀ l, l < 96 → c.active.getLsbD l = true →
          e.lane d.toNat l = if (c.pred x.toNat).getLsbD l then c.lane a.toNat l else c.lane b.toNat l

/-- Integer arithmetic per element: exact, then fit_int under SAT (R64, R117). -/
def Sys2Proof.Claims.IntegerArithmeticAlone : Prop :=
  ∀ (i : Instr) (s : State) (c : Cx) (d a b : Nat) (t : ElemType) (f : Int → Int → Int → Int),
    typedOperands i = some (d, a, b) → (∀ x y z, exactElem i x y z = some (f x y z)) → wellFormed i = true →
    elemTypeOf c.type = some t → classOfType t = .int → c.shaped = true → Ready i s c →
    Does i s c (writesArith (regsFrom d c.regs) c.active false) fun e =>
      ∀ l k, l < 96 → c.active.getLsbD l = true → k < elemCount t →
        let w := elemBits t
        let v (r : Nat) : Int := intOf w (elemSigned t) (c.elem t r l k)
        fits w (elemSigned t) (modeSat c.sp.mode) (f (v a) (v b) (v d)) (intOf w (elemSigned t) (e.elem t d l k))

/-- Floating-point arithmetic per element under a rounding mode other than SR: the exact result of the operands as they are
read, rounded once into the type (R109, R116, R118, R123).  Under SR these instructions are left to `TypedFrames`. -/
def Obligations.FloatArithmetic : Prop :=
  ∀ (i : Instr) (s : State) (c : Cx) (d a b : Nat) (t : ElemType) (x : Nat) (f : Machine.Num → Machine.Num → Machine.Num → Machine.Num),
    typedOperands i = some (d, a, b) → (∀ u v w, exactFloat i (c.rounding x) u v w = some (x, f u v w)) → wellFormed i = true →
    elemTypeOf c.type = some t → classOfType t ≠ .int → c.rounding x ≠ .sr → c.shaped = true → Ready i s c →
    Does i s c (writesArith (regsFrom d c.regs) c.active false) fun e =>
      ∀ l k, l < 96 → c.active.getLsbD l = true → k < elemCount t →
        let ftz := modeFtz c.sp.mode
        let v (r : Nat) : Machine.Num := (readNum (elemFmt t) ftz (c.elem t r l k)).1
        e.elem t d l k = (writeNum (elemFmt t) (f (v a) (v b) (v d)) (c.rounding x) (modeSat c.sp.mode) ftz 0).1

/-- Shifts, counts and `vmulh` per element of an integer type (R117, R119). -/
def Sys2Proof.Claims.IntegerBits : Prop :=
  ∀ (i : Instr) (s : State) (c : Cx) (d a b : Nat) (t : ElemType) (f : Nat → Nat → Nat),
    typedOperands i = some (d, a, b) → (∀ x y, bitElem i (elemBits t) (elemSigned t) x y = some (f x y)) →
    elemTypeOf c.type = some t → c.shaped = true → Ready i s c →
    Does i s c (writesVectors (regsFrom d c.regs) c.active) fun e =>
      ∀ l k, l < 96 → c.active.getLsbD l = true → k < elemCount t →
        e.elem t d l k = f (c.elem t a l k) (c.elem t b l k)

/-- Every typed lane-wise instruction, special functions among them, executes: it writes its destination in the active lanes
and leaves every other register, every inactive lane, the predicates and memory alone; status bits are only set. -/
def Sys2Proof.Claims.TypedFramesAlone : Prop :=
  ∀ (i : Instr) (s : State) (c : Cx) (d a b : Nat),
    typedOperands i = some (d, a, b) → wellFormed i = true → c.shaped = true → Ready i s c →
    Does i s c (writesArith (regsFrom d c.regs) c.active true) fun _ => True

/-- The predicate instructions: the bit of each active lane, and a write to p0 has no effect (R134). -/
def Sys2Proof.Claims.PredicateResults : Prop :=
  ∀ (i : Instr) (s : State) (c : Cx) (d : Nat) (f : Nat → Bool),
    predResult i c = some (d, f) → c.shaped = true → Ready i s c →
    Does i s c (writesPred d c.active false) fun e =>
      ∀ l, l < 96 → c.active.getLsbD l = true → (e.pred d).getLsbD l = if d = 0 then true else f l

/-- `vcmp` and `vcmpi` under an integer type (R132, R133): the condition on every element, exactly. -/
def Sys2Proof.Claims.IntegerCompares : Prop :=
  ∀ (s : State) (c : Cx) (d : BitVec 3) (a b k : BitVec 7) (x : BitVec 3) (t : ElemType) (imm : Bool),
    let i : Instr := if imm then .vcmpi d a k x else .vcmp d a b x
    elemTypeOf c.type = some t → classOfType t = .int → c.shaped = true → Ready i s c →
    Does i s c (writesPred d.toNat c.active false) fun e =>
      ∀ l, l < 96 → c.active.getLsbD l = true → (e.pred d.toNat).getLsbD l = if d = 0 then true else
        (List.range (elemCount t)).all fun j =>
          intCompares x (intOf (elemBits t) (elemSigned t) (c.elem t a.toNat l j))
            (if imm then k.toInt else intOf (elemBits t) (elemSigned t) (c.elem t b.toNat l j))

namespace Sys2Proof.Claims

open Sys2Proof.Machine

/-- A pair of scalars through a register function, as a natural number (03_numbers R58). -/
def pairNat (r : Nat → Word) (n : Nat) : Nat := (r n).toNat + 2 ^ 32 * (r (n + 1)).toNat

/-- The scalar instructions that write a pair: destination and value (07_scalar_vector R112, R113). -/
def pairResult (i : Instr) (r : Nat → Word) : Option (Nat × Nat) :=
  match i with
  | .sadd64 d a b => some (d.toNat, (pairNat r a.toNat + pairNat r b.toNat) % 2 ^ 64)
  | .ssub64 d a b => some (d.toNat, (pairNat r a.toNat + 2 ^ 64 - pairNat r b.toNat) % 2 ^ 64)
  | .sshf64 d a b x =>
    let v := pairNat r a.toNat
    let n := (r b.toNat).toNat
    some (d.toNat,
      if x = 0 then (if 64 ≤ n then 0 else v * 2 ^ n % 2 ^ 64)
      else if x = 1 then (if 64 ≤ n then 0 else v / 2 ^ n)
      else (((if 2 ^ 63 ≤ v then (v : Int) - 2 ^ 64 else (v : Int)) / 2 ^ (min n 64)) % 2 ^ 64).toNat)
  | _ => none

/-- What an engine program's command leaves beside scalars: the program moves on by one word, nothing else changes. -/
def engineKeeps (x y : Ex) : Prop :=
  y.s = x.s ∧ y.g = x.g ∧ y.wg = x.wg ∧
  y.en = { x.en with scalars := y.en.scalars, scalarPoison := y.en.scalarPoison, pc := x.en.pc + 4 }

/-- The vote over the lanes of a mask (R139), v the values of the predicate. -/
def voteOf (x : BitVec 3) (m v : Mask) : Word :=
  let yes (l : Nat) : Bool := m.getLsbD l && v.getLsbD l
  let all := (List.range 96).all fun l => !m.getLsbD l || v.getLsbD l
  let any := (List.range 96).any yes
  match x.toNat with
  | 0 => if any then 1 else 0
  | 1 => if all then 1 else 0
  | 2 => if all ∨ ¬any then 1 else 0
  | _ => BitVec.ofNat 32 ((List.range 96).countP yes)

/-- The lanes of one half of a mask, as lanes 0 to 47 (25_reliability R346). -/
def half (m : Mask) (h : Nat) : Mask := (m >>> (48 * h)) &&& 0xFFFFFFFFFFFF#96

/-- The lanes over which a collective of lane l runs: the warp, or the lane's half in a shadow launch (R346). -/
def peers (c : Cx) (l : Nat) : List Nat :=
  (List.range 96).filter fun q => c.active.getLsbD q && (!isShadow c.s c.w || q / 48 == l / 48)

/-- The operators of `vred` and `vscan` on integers of w bits, x = 0 to 2 (R140). -/
def reduceInt (x : BitVec 3) (w : Nat) (signed : Bool) (l : List Int) : Int :=
  let lo : Int := if signed then -2 ^ (w - 1) else 0
  let hi : Int := if signed then 2 ^ (w - 1) - 1 else 2 ^ w - 1
  match x.toNat with
  | 0 => l.foldr (fun a b => a + b) 0
  | 1 => l.foldr min hi
  | _ => l.foldr max lo

/-- The bitwise operators, x = 5 to 7. -/
def reduceBits (x : BitVec 3) (l : List Word) : Word :=
  match x.toNat with
  | 5 => l.foldr (fun a b => a &&& b) 0xFFFFFFFF
  | 6 => l.foldr (fun a b => a ||| b) 0
  | _ => l.foldr (fun a b => a ^^^ b) 0

/-- The lanes a lane's result of `vred`, or of `vscan` with or without `.ex`, combines (R140, R141). -/
def combined (c : Cx) (scan ex : Bool) (l : Nat) : List Nat :=
  (peers c l).filter fun q => !scan || decide (if ex then q < l else q ≤ l)

/-- The conversions: destination registers and how many, the types looked at, and whether stochastic counts may advance
(07_scalar_vector R128 to R131). -/
def conversion (i : Instr) (c : Cx) : Option (Nat × Nat × Bool) :=
  match i with
  | .vcvt d _ x _ => (match elemTypeOf c.type, elemTypeOf x.toNat with
    | some t, some u =>
      some (d.toNat, max 1 (32 / min (elemBits t) (elemBits u)) * elemBits t / 32, true)
    | _, _ => none)
  | .vpack d _ x => some (d.toNat, 1, x == 0)
  | .vunpk d _ x => some (d.toNat, if x = 2 then 16 else 8, false)
  | .vred d _ x => some (d.toNat, if x.toNat < 5 then c.regs else 1, x == 0)
  | .vscan d _ _ x => some (d.toNat, if x.toNat < 5 then c.regs else 1, x == 0)
  | .vdot4 d _ _ _ => some (d.toNat, 1, false)
  | .vqblk d _ _ _ => some (d.toNat, 1, false)
  | _ => none

end Sys2Proof.Claims

/-- `scmp` writes 1 where its condition holds and 0 otherwise (R114). -/
def Obligations.ScalarCompare : Prop :=
  ∀ (s : State) (c : Cx) (d a b : BitVec 7) (x : BitVec 3) (v : Word),
    wellFormed (.scmp d a b x) = true → c.shaped = true → Ready (.scmp d a b x) s c →
    (v = 1 ∧ compares x (c.sp.scalar a.toNat) (c.sp.scalar b.toNat) ∨
      v = 0 ∧ ¬compares x (c.sp.scalar a.toNat) (c.sp.scalar b.toNat)) →
    c.maskPasses (c.sp.setScalar d.toNat v false).act = true →
    Does (.scmp d a b x) s c (writesScalars [d.toNat]) fun e => e.sp.scalar d.toNat = scalarAfter c d.toNat v

/-- `sadd64`, `ssub64` and `sshf64`: the pair, modulo 2^64 (R112, R113). -/
def Sys2Proof.Claims.PairResults : Prop :=
  ∀ (i : Instr) (s : State) (c : Cx) (n v : Nat),
    pairResult i c.sp.scalar = some (n, v) → wellFormed i = true → c.shaped = true → Ready i s c →
    c.maskPasses ((c.sp.setScalar n (BitVec.ofNat 32 v) false).setScalar (n + 1) (BitVec.ofNat 32 (v / 2 ^ 32)) false).act = true →
    Does i s c (writesScalars [n, n + 1]) fun e =>
      e.sp.scalar n = scalarAfter c n (BitVec.ofNat 32 v) ∧
      e.sp.scalar (n + 1) = scalarAfter c (n + 1) (BitVec.ofNat 32 (v / 2 ^ 32))

/-- A scalar instruction of a shadow launch that would leave the activity mask changed and its halves unequal traps
SHADOW_MISMATCH and writes nothing (01_machine R31). -/
def Sys2Proof.Claims.ShadowMaskTrap : Prop :=
  ∀ (i : Instr) (s : State) (c : Cx) (n : Nat) (v : Word),
    scalarResult i c.sp.scalar = some (n, v) → wellFormed i = true → Ready i s c →
    c.maskPasses (c.sp.setScalar n v false).act = false → exec i s = (c.settle i).trapAt 0x10

/-- The scalar instructions executed by an engine program: s61 to s63 are ordinary scalars there (15_matrix R251, R252). -/
def Sys2Proof.Claims.EngineScalarsAlone : Prop :=
  ∀ (i : Instr) (s : State) (x : Ex), wellFormed i = true → x.shaped = true → EngineReady i s x →
    (∀ n v, scalarResult i x.scalar = some (n, v) → ∃ y : Ex, exec i s = .next y.commit ∧ engineKeeps x y ∧
      ∀ m, m < 64 → y.scalar m = if m = n ∧ n ≠ 0 then v else x.scalar m) ∧
    (∀ n v, pairResult i x.scalar = some (n, v) → ∃ y : Ex, exec i s = .next y.commit ∧ engineKeeps x y ∧
      ∀ m, m < 64 → y.scalar m =
        if m = n ∧ n ≠ 0 then BitVec.ofNat 32 v else if m = n + 1 then BitVec.ofNat 32 (v / 2 ^ 32) else x.scalar m) ∧
    (∀ d a b k v, i = .scmp d a b k →
      (v = 1 ∧ compares k (x.scalar a.toNat) (x.scalar b.toNat) ∨ v = 0 ∧ ¬compares k (x.scalar a.toNat) (x.scalar b.toNat)) →
      ∃ y : Ex, exec i s = .next y.commit ∧ engineKeeps x y ∧
        ∀ m, m < 64 → y.scalar m = if m = d.toNat ∧ d ≠ 0 then v else x.scalar m) ∧
    (i = .nop → ∃ y : Ex, exec i s = .next y.commit ∧ engineKeeps x y ∧ y.en.scalars = x.en.scalars)

/-- `vget` and `vput` (R137); in a shadow launch `vput` writes the pair and `vget` compares it (R346, R347). -/
def Sys2Proof.Claims.VectorGetPut : Prop :=
  ∀ (s : State) (c : Cx) (d a b : BitVec 7) (v : Word), c.shaped = true →
    let n := (c.sp.scalar b.toNat).toNat
    let size := if isShadow c.s c.w then 48 else 96
    (wellFormed (.vget d a b) = true → Ready (.vget d a b) s c →
      v = (if n < size ∧ c.active.getLsbD n = true then c.lane a.toNat n else 0) →
      (isShadow c.s c.w = true → n < 48 → c.active.getLsbD n = c.active.getLsbD (n + 48) ∧
        (c.active.getLsbD n = true → c.lane a.toNat n = c.lane a.toNat (n + 48))) →
      c.maskPasses (c.sp.setScalar d.toNat v false).act = true →
      Does (.vget d a b) s c (writesScalars [d.toNat]) fun e => e.sp.scalar d.toNat = scalarAfter c d.toNat v) ∧
    (wellFormed (.vput d a b) = true → Ready (.vput d a b) s c →
      Does (.vput d a b) s c (writesVectors [d.toNat] c.active) fun e =>
        ∀ l, l < 96 → c.active.getLsbD l = true →
          e.lane d.toNat l = if (if isShadow c.s c.w then l % 48 = n else l = n) then c.sp.scalar a.toNat
            else c.lane d.toNat l)

/-- Votes (R139); in a shadow launch the halves vote alike or the instruction traps (R346, R347). -/
def Sys2Proof.Claims.Votes : Prop :=
  ∀ (s : State) (c : Cx) (d : BitVec 7) (n : BitVec 1) (a x : BitVec 3),
    let i : Instr := .vote d n a x
    let p := if n = 1 then ~~~(c.pred a.toNat) else c.pred a.toNat
    wellFormed i = true → c.shaped = true → Ready i s c →
    (x ≠ 4 → ∀ v,
      (if isShadow c.s c.w then
        v = voteOf x (half c.active 0) (half p 0) ∧ v = voteOf x (half c.active 1) (half p 1)
      else v = voteOf x c.active p) →
      c.maskPasses (c.sp.setScalar d.toNat v false).act = true →
      Does i s c (writesScalars [d.toNat]) fun e => e.sp.scalar d.toNat = scalarAfter c d.toNat v) ∧
    (x = 4 → ∀ b : Mask,
      (if isShadow c.s c.w then b = half (c.active &&& p) 0 ∧ b = half (c.active &&& p) 1 else b = c.active &&& p) →
      c.maskPasses (((c.sp.setScalar d.toNat (maskWord b 0) false).setScalar (d.toNat + 1) (maskWord b 1) false).setScalar
        (d.toNat + 2) (maskWord b 2) false).act = true →
      Does i s c (writesScalars [d.toNat, d.toNat + 1, d.toNat + 2]) fun e =>
        ∀ k, k < 3 → e.sp.scalar (d.toNat + k) = scalarAfter c (d.toNat + k) (maskWord b k)) ∧
    (isShadow c.s c.w = true → x = 4 → half (c.active &&& p) 0 ≠ half (c.active &&& p) 1 → exec i s = (c.settle i).trapAt 0x10)

/-- `vcvt`, `vpack`, `vunpk`, `vdot4`, `vqblk`, `vred` and `vscan` execute: each writes its group of destination registers
in the active lanes and nothing else but status bits, which are only set, and the stochastic counts of those that round. -/
def Sys2Proof.Claims.ConversionFrames : Prop :=
  ∀ (i : Instr) (s : State) (c : Cx) (d n : Nat) (draws : Bool),
    conversion i c = some (d, n, draws) → wellFormed i = true → c.shaped = true → Ready i s c →
    Does i s c (writesArith (regsFrom d n) c.active draws) fun _ => True

/-- `vred` and `vscan` under an integer type, and the bitwise operators under every type: what the lanes hold combined, from
the empty value, by an operator that does not depend on the order of the tree (R140, R141, R71).  Sums that saturate at a
node are left to `ConversionFrames`. -/
def Obligations.IntegerReductions : Prop :=
  ∀ (s : State) (c : Cx) (d a : BitVec 7) (x : BitVec 3) (scan : Bool) (ex : BitVec 1),
    let i : Instr := if scan then .vscan d a ex x else .vred d a x
    wellFormed i = true → c.shaped = true → Ready i s c →
    (∀ t, elemTypeOf c.type = some t → classOfType t = .int → x.toNat < 3 → (x = 0 → modeSat c.sp.mode = false) →
      Does i s c (writesArith (regsFrom d.toNat c.regs) c.active false) fun e =>
        ∀ l k, l < 96 → c.active.getLsbD l = true → k < elemCount t →
          ((2 ^ elemBits t : Nat) : Int) ∣
            reduceInt x (elemBits t) (elemSigned t)
              ((combined c scan (ex == 1) l).map fun q => intOf (elemBits t) (elemSigned t) (c.elem t a.toNat q k)) -
            intOf (elemBits t) (elemSigned t) (e.elem t d.toNat l k)) ∧
    (5 ≤ x.toNat →
      Does i s c (writesVectors [d.toNat] c.active) fun e =>
        ∀ l, l < 96 → c.active.getLsbD l = true →
          e.lane d.toNat l = reduceBits x ((combined c scan (ex == 1) l).map fun q => c.lane a.toNat q))

/-- `vcmp` under a floating-point type: the predicate in the active lanes, and status bits only set; a lane's bit is 1 only
where each element's condition holds (R132). -/
def Sys2Proof.Claims.FloatCompares : Prop :=
  ∀ (s : State) (c : Cx) (d : BitVec 3) (a b : BitVec 7) (x : BitVec 3) (t : ElemType),
    elemTypeOf c.type = some t → classOfType t ≠ .int → c.shaped = true → Ready (.vcmp d a b x) s c →
    Does (.vcmp d a b x) s c (writesPred d.toNat c.active true) fun e =>
      ∀ l, l < 96 → c.active.getLsbD l = true → d ≠ 0 →
        ((e.pred d.toNat).getLsbD l = true ↔ ∀ k, k < elemCount t →
          (cmpElem t (modeFtz c.sp.mode) x.toNat (c.elem t a.toNat l k) (c.elem t b.toNat l k)).1 = true)

/-- `width`, `clk` and `id`: the launched lanes, the slices and lanes of the activity mask (R143); the timer and the core's
own clocks (R178); the coordinates, each selector's by its table (R180), the first lane of a warp of a shadow launch being 48 times its number
(25_reliability R346; the model's reading, log entry 42). -/
def Obligations.Measures : Prop :=
  ∀ (s : State) (c : Cx), c.shaped = true →
    (∀ d : BitVec 7, wellFormed (.width d) = true → Ready (.width d) s c →
      let count (m : Mask) : Nat := (List.range 96).countP fun l => m.getLsbD l
      let slices := (List.range 12).countP fun k => (List.range 8).any fun j => c.sp.act.getLsbD (8 * k + j)
      let v : Word := BitVec.ofNat 32
        (count c.sp.act + 256 * slices + 4096 * max 1 ((slices + 3) / 4) + 65536 * count c.w.launched)
      c.maskPasses (c.sp.setScalar d.toNat v false).act = true →
      Does (.width d) s c (writesScalars [d.toNat]) fun e => e.sp.scalar d.toNat = scalarAfter c d.toNat v) ∧
    (∀ (a : BitVec 6) (core : BitVec 1), wellFormed (.clk a core) = true → Ready (.clk a core) s c →
      let t := if core = 1 then s.ticks - Tab.getD s.plat.coreStart c.w.core 0 else s.timer
      let lo : Word := BitVec.ofNat 32 t
      let hi : Word := BitVec.ofNat 32 (t / 2 ^ 32)
      c.maskPasses ((c.sp.setScalar a.toNat lo false).setScalar (a.toNat + 1) hi false).act = true →
      Does (.clk a core) s c (writesScalars [a.toNat, a.toNat + 1]) fun e =>
        e.sp.scalar a.toNat = scalarAfter c a.toNat lo ∧ e.sp.scalar (a.toNat + 1) = scalarAfter c (a.toNat + 1) hi) ∧
    (∀ (k : BitVec 5) (a : BitVec 6), wellFormed (.id k a) = true → Ready (.id k a) s c →
      let v : Word := BitVec.ofNat 32 (idValue s c.w k.toNat)
      c.maskPasses (c.sp.setScalar a.toNat v false).act = true →
      Does (.id k a) s c (writesScalars [a.toNat]) fun e => e.sp.scalar a.toNat = scalarAfter c a.toNat v) ∧
    (∀ k : BitVec 5,
      (k = 15 → idValue s c.w k.toNat = if c.w.far.isSome then 1 else 0) ∧
      (k = 16 → idValue s c.w k.toNat = c.w.core) ∧ (k = 17 → idValue s c.w k.toNat = c.w.quarter) ∧
      (k = 18 → idValue s c.w k.toNat = c.w.core / 80) ∧ (k = 19 → idValue s c.w k.toNat = c.w.core % 80 / 4) ∧
      (k = 21 → idValue s c.w k.toNat = s.net.epid) ∧ (k = 22 → idValue s c.w k.toNat = s.net.podpos) ∧
      (k = 23 → idValue s c.w k.toNat = s.net.podq) ∧ (∀ f, c.w.far = some f → k = 20 → idValue s c.w k.toNat = f.asid) ∧
      (c.w.far.isSome = true → k.toNat < 3 → idValue s c.w k.toNat = 0xFFFFFFFF) ∧
      (c.w.far.isSome = true → 3 ≤ k.toNat → k.toNat < 15 → idValue s c.w k.toNat = if k = 6 then 8 else 0)) ∧
    (∀ (g : Workgroup) (sk : Skein) (l : Launch), c.w.far = none → wgOf s c.w = some g → Tab.get? s.skeins g.skein = some sk →
      Tab.get? s.launches sk.launch = some l →
      let id (k : Nat) : Nat := idValue s c.w k
      id 0 = sk.x ∧ id 1 = sk.y ∧ id 2 = sk.z ∧ id 3 = g.index ∧ id 4 = g.stage ∧ id 5 = c.w.index ∧ id 6 = g.lanes ∧
        id 7 = l.record.gx ∧ id 8 = l.record.gy ∧ id 9 = l.record.gz ∧ id 10 = l.kernel.wgs ∧ id 11 = l.kernel.stages ∧
        id 12 = l.kernel.stcount.getD g.stage 0 ∧ id 13 = g.index - (l.kernel.stcount.take g.stage).sum ∧
        id 14 = (if l.kernel.shadow then 48 else 96) * c.w.index ∧ id 20 = l.asid)

namespace Sys2Proof.Claims

open Sys2Proof.Machine

/-- An f32 code is a NaN. -/
def nanCode (x : Word) : Bool := decide (0x7F800000 < x.toNat % 2 ^ 31)

/-- The place of an f32 code that is no NaN among the others: −0 and +0 share one. -/
def rankOf (x : Word) : Int := if x.toNat < 2 ^ 31 then (x.toNat : Int) else 2 ^ 31 - (x.toNat : Int)

/-- x < y as IEEE 754-2019 compares f32 codes: false with a NaN. -/
def belowCode (x y : Word) : Bool := !nanCode x && !nanCode y && decide (rankOf x < rankOf y)

/-- A value lies outside the bounds of an active selvedge register (15_matrix R264). -/
def outOfBounds (b : Selvedge) (x : Word) : Bool := b.act != 0 && (nanCode x || belowCode x b.lo || belowCode b.hi x)

/-- What bnd_check writes (15_matrix R264): of an inactive register the value as it stands, otherwise the canonical NaN of a NaN
(03_numbers R52), under ACT 2 the bound that a value passes, and any other value itself. -/
def boundTo (b : Selvedge) (x : Word) : Word :=
  if b.act = 0 then x
  else if nanCode x then 0x7FC00000
  else if b.act = 2 then (if belowCode x b.lo then b.lo else if belowCode b.hi x then b.hi else x)
  else x

/-- The event of bnd_check. -/
def eventOf (b : Selvedge) (x : Word) : BndEvent :=
  if outOfBounds b x then (if b.act = 1 then .flag else if b.act = 2 then .clamp else .trap) else .inside

end Sys2Proof.Claims

/-- `vbnd`: with the register inactive a move; otherwise a NaN, a value below LO and one above HI are outside and counted, kept under
ACT 1, replaced by the bound under ACT 2, a NaN kept, and under ACT 3 the instruction traps and nothing is written; every other value
passes, and a NaN is written as the canonical one (15_matrix R264, 03_numbers R52).  A far task has no selvedge registers, and there it
is a move (log entry 15).  That a subnormal is compared as it stands under FTZ is the model's reading (log entry 119). -/
def Obligations.BoundsChecks : Prop :=
  ∀ (s : State) (c : Cx) (d a : BitVec 7) (n : BitVec 4),
    let i : Instr := .vbnd d a n
    let x (l : Nat) : Word := c.lane a.toNat l
    wellFormed i = true → c.shaped = true → Ready i s c →
    (wgOf s c.w = none →
      Does i s c (writesVectors [d.toNat] c.active) fun e =>
        ∀ l, l < 96 → c.active.getLsbD l = true → e.lane d.toNat l = x l) ∧
    (∀ (g : Workgroup) (b : Selvedge),
      wgOf s c.w = some g → g.selvedge[n.toNat]? = some b → b.poison = false →
      let hits := (List.range 96).countP fun l => c.active.getLsbD l && outOfBounds b (x l)
      (b.act = 3 → 0 < hits → exec i s = (c.settle i).trapAt 0x0F) ∧
      ((b.act = 3 → hits = 0) → ∃ e : Cx, Completes i s e ∧
        (∀ l, l < 96 → c.active.getLsbD l = true → e.lane d.toNat l = boundTo b (x l)) ∧
        (∃ g' : Workgroup, Tab.get? e.s.wgs c.w.wg = some g' ∧ g'.selvedge[n.toNat]? = some { b with
          count := BitVec.ofNat 32 (min (b.count.toNat + hits) (2 ^ 32 - 1)) } ∧ { g' with selvedge := g.selvedge } = g) ∧
        Keeps (writesVectors [d.toNat] c.active) c { e with s := c.s }) ∧
      ∀ l, bndCheck b (x l) = (boundTo b (x l), eventOf b (x l)))

namespace Sys2Proof.Claims

open Sys2Proof.Machine

/-- A split executes a run-ending instruction: the named writes, and where it goes after the trailer (05_encoding R81). -/
def Goes (i : Instr) (s : State) (c : Cx) (ws : Writes) (a : After) (also : Cx → Prop) : Prop :=
  ∃ e : Cx, Completes i s e ∧ e.sp.after = a ∧ also e ∧ e.shaped = true ∧
    Keeps ws c { e with sp := { e.sp with after := c.sp.after } }

/-- An address a run can start at: a multiple of 4, canonical (09_control R144). -/
def runnable (t : DWord) : Prop := t.toNat % 4 = 0 ∧ canonical t = true

/-- The target of a branch of the whole split (R144). -/
def branchTarget (i : Instr) (c : Cx) : Option DWord :=
  match i with
  | .br off => some (pc64 c.here + BitVec.ofInt 64 (4 * off.toInt))
  | .call off => some (pc64 c.here + BitVec.ofInt 64 (4 * off.toInt))
  | .ret a => some (pair (c.sp.scalar a.toNat) (c.sp.scalar (a.toNat + 1)))
  | .brxU a => some (pair (c.sp.scalar a.toNat) (c.sp.scalar (a.toNat + 1)))
  | _ => none

/-- The condition of `brc` (R146). -/
def branchHolds (cc : BitVec 3) (v : Word) : Prop :=
  match cc.toNat with
  | 0 => v.toNat = 0
  | 1 => v.toNat ≠ 0
  | 2 => v.toInt < 0
  | 3 => 0 ≤ v.toInt
  | 4 => 0 < v.toInt
  | 5 => v.toInt ≤ 0
  | 6 => v.toNat % 2 = 1
  | _ => v.toNat % 2 = 0

/-- The split of a warp that holds a lane: in the table or spilled. -/
def holdsLane (w : Warp) (l : Nat) (p : Split → Prop) : Prop :=
  (∃ x ∈ w.splits, x.2.lanes.getLsbD l = true ∧ p x.2) ∨ (∃ x ∈ w.spill, x.split.lanes.getLsbD l = true ∧ p x.split)

/-- Where a split that has divided goes: its run goes on to an address, or it has left for it. -/
def headsFor (sp : Split) (t : Pc) : Prop := sp.after = .goto t ∨ sp.pc = t

/-- No trap of the split has to wait, and no fault of its run comes first (19_translation R295). -/
def trapsNow (c : Cx) : Prop := c.sp.faults = [] ∧ c.heldAny = false ∧ c.sp.pend = []

/-- The reply that leaves under the next number of the state. -/
def ReplyLeaves (s t : State) (caller seq core status cause : Nat) : Prop :=
  ∃ m, Tab.get? t.replyMsgs s.fresh = some m ∧ m.caller = caller ∧ m.seq = seq ∧ m.core = core ∧ m.status = status ∧
    m.cause = cause ∧ m.values = []

/-- The split stands at its handler with a trap recorded (R297, R298). -/
def inHandlerWith (c : Cx) (t : State) (cause code : Nat) (fetch : Bool) (tpc trpc : Pc) : Prop :=
  t.focus = .none ∧ ∃ d : Cx, cxOf t c.wk c.e = some d ∧ { d.w with splits := c.w.splits } = c.w ∧
    { t with warps := c.s.warps, focus := c.s.focus } = c.s ∧
    d.sp.trap.handler = true ∧ d.sp.trap.cause = cause ∧ d.sp.trap.code = code ∧ d.sp.trap.fetch = fetch ∧
    d.sp.trap.tpc = tpc ∧ d.sp.trap.trpc = trpc ∧ d.sp.trap.nent = 0 ∧ d.sp.trap.entries = [] ∧
    d.sp.trap.saved = [c.sp.scalar 56, c.sp.scalar 57, c.sp.scalar 58, c.sp.scalar 59] ∧ d.sp.trap.savedMode = c.sp.mode ∧
    d.sp.mode = 0 ∧ d.sp.pc = c.tvec ∧ d.sp.status = .ready ∧ d.sp.lanes = c.sp.lanes ∧ d.sp.act = c.sp.act ∧
    d.sp.fpst = c.sp.fpst ∧ d.sp.scalars = c.sp.scalars ∧ d.sp.pend = [] ∧ d.sp.unawaited = [] ∧ d.sp.tsel.toNat < 32

end Sys2Proof.Claims

/-- `brc` branches when its condition on s[s] holds, and otherwise the split goes on at its fall-through (R146). -/
def Obligations.BranchConditions : Prop :=
  ∀ (s : State) (c : Cx) (cc : BitVec 3) (r : BitVec 6) (off : BitVec 15), c.shaped = true → Ready (.brc cc r off) s c →
    let t := pc64 c.here + BitVec.ofInt 64 (4 * off.toInt)
    (branchHolds cc (c.sp.scalar r.toNat) → runnable t →
      Goes (.brc cc r off) s c Writes.none (.goto (t.setWidth 57)) fun _ => True) ∧
    (¬branchHolds cc (c.sp.scalar r.toNat) → Goes (.brc cc r off) s c Writes.none .fall fun _ => True)

/-- `br`, `call`, `ret` and `brx.u` send the split to their target, `call` with the address after the trailer in s58 and s59;
a target that is unaligned or non-canonical traps at the branch and writes nothing (R144). -/
def Sys2Proof.Claims.BranchesAlone : Prop :=
  ∀ (i : Instr) (s : State) (c : Cx) (t : DWord), branchTarget i c = some t → c.shaped = true → Ready i s c →
    (runnable t → (∀ off, i ≠ .call off) → Goes i s c Writes.none (.goto (t.setWidth 57)) fun _ => True) ∧
    (runnable t → (∃ off, i = .call off) → Goes i s c (writesScalars [58, 59]) (.goto (t.setWidth 57)) fun e =>
      pair (e.sp.scalar 58) (e.sp.scalar 59) = pc64 (c.here + 8)) ∧
    (t.toNat % 4 ≠ 0 → exec i s = (c.settle i).trapAt 0x08) ∧
    (t.toNat % 4 = 0 → canonical t = false → exec i s = (c.settle i).trapBefore 0x22 true)

/-- `bra` and `brx` with no divergence (R145, R147): taken by every lane of the activity mask, or by none. -/
def Sys2Proof.Claims.UniformBranches : Prop :=
  ∀ (s : State) (c : Cx), c.shaped = true →
    (isShadow s c.w = true → ∀ l, l < 48 → c.sp.act.getLsbD l = c.sp.act.getLsbD (l + 48)) →
    (∀ (k : BitVec 3) (n : BitVec 1) (off : BitVec 20), Ready (.bra k n off) s c →
      let t := pc64 c.here + BitVec.ofInt 64 (4 * off.toInt)
      let takes (l : Nat) : Bool := (c.pred k.toNat).getLsbD l != (n == 1)
      ((∀ l, l < 96 → c.sp.act.getLsbD l = true → takes l = false) →
        Goes (.bra k n off) s c Writes.none .fall fun _ => True) ∧
      ((∀ l, l < 96 → c.sp.act.getLsbD l = true → takes l = true) → c.sp.act ≠ 0 → runnable t →
        Goes (.bra k n off) s c Writes.none (.goto (t.setWidth 57)) fun _ => True)) ∧
    (∀ (a b : BitVec 7) (t : DWord), wellFormed (.brx a b) = true → Ready (.brx a b) s c →
      (∀ l, l < 96 → c.sp.act.getLsbD l = true →
        pair (c.sp.scalar a.toNat) (c.sp.scalar (a.toNat + 1)) + BitVec.ofInt 64 (4 * (c.lane b.toNat l).toInt) = t) →
      (c.sp.act = 0 → Goes (.brx a b) s c Writes.none .fall fun _ => True) ∧
      (c.sp.act ≠ 0 → runnable t → Goes (.brx a b) s c Writes.none (.goto (t.setWidth 57)) fun _ => True))

/-- A divergent `bra` outside a handler divides the split: with room for a new split the taken lanes head for the target, the
other lanes for the fall-through, and the new split has the parent's scalars, status and trap state; with none it traps
SPLIT_OVERFLOW (01_machine R17, R145, 09_control R148).  In a shadow launch the lanes of a pair go the same way, or the branch traps
SHADOW_MISMATCH (01_machine R31, 25_reliability R347). -/
def Sys2Proof.Claims.DivergentBranch : Prop :=
  ∀ (s : State) (c : Cx) (k : BitVec 3) (n : BitVec 1) (off : BitVec 20), c.shaped = true → Ready (.bra k n off) s c →
    let t := pc64 c.here + BitVec.ofInt 64 (4 * off.toInt)
    let taken := c.sp.act &&& (if n = 1 then ~~~(c.pred k.toNat) else c.pred k.toNat)
    let room := (freeEntries c.w.splits).length + (Config.spillRecords - c.w.spill.length)
    let paired := ∀ l, l < 48 → c.sp.act.getLsbD l = c.sp.act.getLsbD (l + 48) ∧ taken.getLsbD l = taken.getLsbD (l + 48)
    (isShadow c.s c.w = true → ¬paired → exec (.bra k n off) s = (c.settle (.bra k n off)).trapAt 0x10) ∧
    (taken ≠ 0 → taken ≠ c.sp.act → runnable t → (isShadow c.s c.w = true → paired) → c.sp.trap.handler = false →
      (room = 0 → exec (.bra k n off) s = (c.settle (.bra k n off)).trapAt 0x0C) ∧
      (1 ≤ room →
        ∃ u w sp, exec (.bra k n off) s = .next u ∧ Tab.get? u.warps c.wk = some w ∧ { u with warps := s.warps } = s ∧
          Tab.get? w.splits c.e = some sp ∧ sp.lanes = c.sp.lanes &&& ~~~taken ∧ sp.act = c.sp.act &&& ~~~taken ∧
          sp.after = .fall ∧ sp.mode = c.sp.mode ∧ sp.trap = c.sp.trap ∧ sp.tsel = c.sp.tsel ∧
          ∀ l, l < 96 → taken.getLsbD l = true →
            holdsLane w l fun x => x.lanes = taken ∧ x.act = taken ∧ headsFor x (t.setWidth 57) ∧ x.mode = c.sp.mode ∧
              x.fpst = sp.fpst ∧ x.trap = sp.trap ∧ x.tsel = sp.tsel ∧ ∀ m, m < 61 → x.scalar m = sp.scalar m))

/-- A divergent `brx`: every lane of the activity mask ends in a split that heads for the lane's own target (R147). -/
def Sys2Proof.Claims.IndexedBranch : Prop :=
  ∀ (s : State) (c : Cx) (a b : BitVec 7), wellFormed (.brx a b) = true → c.shaped = true → Ready (.brx a b) s c →
    let f (l : Nat) : DWord :=
      pair (c.sp.scalar a.toNat) (c.sp.scalar (a.toNat + 1)) + BitVec.ofInt 64 (4 * (c.lane b.toNat l).toInt)
    (∀ l, l < 96 → c.sp.act.getLsbD l = true → runnable (f l)) → c.sp.act ≠ 0 → isShadow c.s c.w = false →
    c.sp.trap.handler = false → c.sp.act &&& ~~~c.sp.lanes = 0 → c.w.splits = [(c.e, c.sp)] → c.e < Config.splitEntries →
    c.w.spill = [] → (∃ l : List DWord, l.length ≤ 24 ∧ ∀ k, k < 96 → c.sp.act.getLsbD k = true → f k ∈ l) →
    ∃ u w, exec (.brx a b) s = .next u ∧ Tab.get? u.warps c.wk = some w ∧ { u with warps := s.warps } = s ∧
      ∀ l, l < 96 → c.sp.act.getLsbD l = true →
        holdsLane w l fun sp => sp.act.getLsbD l = true ∧ headsFor sp ((f l).setWidth 57)

/-- In a handler a `bra` or `brx` that would divide the split, and an instruction that R299 forbids, trap ILLEGAL_CONTEXT, which is
a double trap there. -/
def Sys2Proof.Claims.HandlerLimits : Prop :=
  ∀ (s : State) (c : Cx), c.sp.trap.handler = true →
    (∀ (k : BitVec 3) (n : BitVec 1) (off : BitVec 20), Ready (.bra k n off) s c → isShadow c.s c.w = false →
      let taken := c.sp.act &&& (if n = 1 then ~~~(c.pred k.toNat) else c.pred k.toNat)
      taken ≠ 0 → taken ≠ c.sp.act → runnable (pc64 c.here + BitVec.ofInt 64 (4 * off.toInt)) →
      exec (.bra k n off) s = (c.settle (.bra k n off)).trapAt 0x03) ∧
    (∀ (a b : BitVec 7) (l m : Nat), wellFormed (.brx a b) = true → Ready (.brx a b) s c → isShadow c.s c.w = false →
      let f (l : Nat) : DWord :=
        pair (c.sp.scalar a.toNat) (c.sp.scalar (a.toNat + 1)) + BitVec.ofInt 64 (4 * (c.lane b.toNat l).toInt)
      (∀ k, k < 96 → c.sp.act.getLsbD k = true → runnable (f k)) → l < 96 → m < 96 → c.sp.act.getLsbD l = true →
      c.sp.act.getLsbD m = true → f l ≠ f m →
      exec (.brx a b) s = (c.settle (.brx a b)).trapAt 0x03) ∧
    (∀ i f, forbiddenInHandler i = true → c.sp.faultDue = false → c.reissueWait = none → c.sp.stall.served = true → c.issueCause i = none →
      c.holds i = none → c.mismatched i = false → c.consumesPoison i = false → c.issue i f = c.trapAt 0x03)

/-- The join instructions on an undisturbed warp (R152 to R155): `jarm` arms with the activity mask, the lanes parked counting
as arrived; `jarv` and `jwait` add the activity mask to the arrived lanes of an armed join, `jwait` parking the split at the
trailer; `jclr` makes every parked split ready at the fall-through of its own `jwait`, disarms, and counts one lost
reconvergence where any was parked.  After `jarm` and `jarv` every join is tested. -/
def Sys2Proof.Claims.JoinRegisters : Prop :=
  ∀ (s : State) (c : Cx) (j : BitVec 2), c.shaped = true →
    let x := c.w.join j.toNat
    let parked := c.w.splits.filter fun p => p.2.status == .parkedJoin j.toNat
    let more (y : Join) : Join := { y with arrived := y.arrived ||| c.sp.act }
    let upd (w : Warp) (y : Join) : Warp := { w with joins := w.joins.set j.toNat y }
    let cleared : BitVec 4 := c.w.joinPoison &&& ~~~(1#4 <<< j.toNat)
    (Ready (.jarm j) s c →
      let arrived := parked.foldl (fun m p => m ||| p.2.lanes) 0
      let w := { upd c.w ⟨c.sp.act, arrived⟩ with joinPoison := cleared }
      Completes (.jarm j) s { c.settle (.jarm j) with w := testJoins w s.ticks }) ∧
    (c.w.joinPoison.getLsbD j.toNat = false → c.w.unack.getD 0 0 = 0 →
      (Ready (.jarv j) s c →
        (x.expected = 0 → Completes (.jarv j) s (c.settle (.jarv j))) ∧
        (x.expected ≠ 0 →
          let w := testJoins (upd c.w (more x)) s.ticks
          Completes (.jarv j) s { c.settle (.jarv j) with w := w })) ∧
      (Ready (.jwait j) s c →
        let w := if x.expected = 0 then c.w else upd c.w (more x)
        Goes (.jwait j) s { c with w := w } Writes.none (.park j.toNat) fun _ => True)) ∧
    (Ready (.jclr j) s c → ∃ e : Cx, Completes (.jclr j) s e ∧ e.s = c.s ∧ e.w.joins = c.w.joins.set j.toNat ⟨0, 0⟩ ∧
      e.w.joinPoison = cleared ∧
      e.w.jlost = (if parked = [] ∨ c.w.jlost = 0xFFFFFFFF then c.w.jlost else c.w.jlost + 1) ∧
      e.w.splits = c.w.splits.map fun p =>
        if p.2.status = .parkedJoin j.toNat then
          (p.1, { p.2 with
            status := .ready
            readyAt := s.ticks
            run := Run.none p.2.pc
            after := .fall
            awaited := []
            stall := .none
            pend := p.2.outOfRun })
        else p)

/-- A join whose expected lanes have all arrived or exited is disarmed by the test, a lane that never arrived counting as a lost
reconvergence; one not so satisfied is left as it is (R152, R154, R156).  The splits parked on a satisfied one re-gang by address:
the merged split stands in the lowest of their entries, with the lanes of all and the bank, mode and trap state of the one with the
lowest active lane, and is ready at the fall-through; the other entries are free, and no other split is touched (01_machine R23). -/
def Sys2Proof.Claims.JoinTest : Prop :=
  ∀ (w : Warp) (clock j : Nat), j < 4 → w.joins.length = 4 →
    let x := w.join j
    let t := resolveJoin clock w j
    (x.expected &&& ~~~(x.arrived ||| w.exited) ≠ 0 → t = w) ∧
    (x.expected &&& ~~~(x.arrived ||| w.exited) = 0 →
      t.joins = w.joins.set j ⟨0, 0⟩ ∧
      t.jlost = (if x.expected &&& ~~~x.arrived = 0 ∨ w.jlost = 0xFFFFFFFF then w.jlost else w.jlost + 1) ∧
      ((w.splits.map fun p => p.1).Pairwise (fun a b => a < b) → w.spill = [] →
        (∀ p ∈ w.splits, p.2.status ≠ .parkedJoin j → Tab.get? t.splits p.1 = some p.2) ∧
        ∀ (pc : Pc) (e : Nat) (sp : Split) (rest : List (Nat × Split)),
          (w.splits.filter fun p => p.2.status == .parkedJoin j && p.2.pc == pc) = (e, sp) :: rest →
          let all := (e, sp) :: rest
          (∀ p ∈ rest, Tab.get? t.splits p.1 = none) ∧
          ∃ m, Tab.get? t.splits e = some m ∧ m.lanes = all.foldl (fun a p => a ||| p.2.lanes) 0 ∧
            m.act = all.foldl (fun a p => a ||| p.2.act) 0 ∧ m.fpst = all.foldl (fun a p => a ||| p.2.fpst) 0 ∧
            m.pc = pc ∧ m.run = Run.none pc ∧ m.status = .ready ∧ m.readyAt = clock ∧ m.after = .fall ∧
            ∀ p ∈ all, ∀ l, p.2.act.getLsbD l = true →
              (∀ q ∈ all, ∀ k, q.2.act.getLsbD k = true → l ≤ k ∧ (k = l → q = p)) →
              m.scalars = p.2.scalars ∧ m.mode = p.2.mode ∧ m.trap = p.2.trap ∧ m.tsel = p.2.tsel))

/-- `yield`, `exit`, `tret` and `mode` (R174, R175, R90): the first three say what the trailer does, `exit` with its lanes
gone from the split and noted as exited, a stopped command of the trap state that it discards in a handler being complete (the model's
reading of R175, log entry 35); `mode` replaces the fields its destination names.  `tret` outside a handler traps,
and so does one whose resume address the handler has left unaligned (05_encoding R74). -/
def Obligations.SplitState : Prop :=
  ∀ (s : State) (c : Cx), c.shaped = true →
    (Ready .yield s c → Goes .yield s c Writes.none .yielded fun _ => True) ∧
    (Ready .tret s c →
      (c.sp.trap.handler = true → c.sp.trap.trpc.toNat % 4 = 0 → Goes .tret s c Writes.none .returned fun _ => True) ∧
      (c.sp.trap.handler = true → c.sp.trap.trpc.toNat % 4 ≠ 0 → exec .tret s = (c.settle .tret).trapAt 0x08) ∧
      (c.sp.trap.handler = false → exec .tret s = (c.settle .tret).trapAt 0x03)) ∧
    (Ready .exit s c → c.w.unack.getD 0 0 = 0 → c.sp.trap.handler = false →
      let w := testJoins { c.w with exited := c.w.exited ||| c.sp.act } s.ticks
      let sp := { (c.settle .exit).sp with lanes := c.sp.lanes &&& ~~~c.sp.act, act := 0, after := .ended }
      Completes .exit s { c.settle .exit with w := w, sp := sp }) ∧
    (∀ f k x, Ready .exit s c → c.w.unack.getD 0 0 = 0 → c.sp.trap.handler = true → c.sp.lanes &&& ~~~c.sp.act = 0 →
      c.sp.trap.entries = [f] → f.cmd = some k → Tab.get? s.cmds k = some x →
      ∃ e : Cx, Completes .exit s e ∧ e.s = finishCommand s k x 0 none ∧ e.sp.lanes = 0 ∧ e.sp.after = .ended ∧
        e.sp.trap.entries = [] ∧ e.w.exited = c.w.exited ||| c.sp.act) ∧
    (∀ (d : BitVec 5) (k : BitVec 14), Ready (.mode d k) s c → ∃ e : Cx, Completes (.mode d k) s e ∧
      Keeps Writes.none c { e with sp := { e.sp with mode := c.sp.mode } } ∧
      ∀ b, b < 32 → e.sp.mode.getLsbD b = if (modeSelected d).getLsbD b then k.getLsbD b else c.sp.mode.getLsbD b)

/-- What a split holds once it has left a trailer that named some codes: its run is over, destinations neither named nor settled are
unawaited, its lanes and its bank are as before (R85, R86). -/
def Sys2Proof.Claims.leftTrailer (s : State) (c : Cx) (codes : List Nat) (sp : Split) : Prop :=
  sp.run = Run.none sp.pc ∧ sp.after = .fall ∧ sp.readyAt = s.ticks ∧ sp.temps = [] ∧ sp.lanes = c.sp.lanes ∧ sp.act = c.sp.act ∧
  sp.scalars = c.sp.scalars ∧ sp.mode = c.sp.mode ∧ sp.unawaited = c.sp.unawaited.filter fun x => !namesDest codes x

/-- The trailer (R81, R85, R86): with no named register outstanding, no access untranslated and no fault, the split leaves for the
target of its run, ready to fetch there, one that yielded behind the others, and one of whose lanes some have exited with the rest;
destinations neither named nor settled are unawaited. -/
def Sys2Proof.Claims.TrailerAlone : Prop :=
  ∀ (s : State) (c : Cx) (a b d : BitVec 8) (after : After), Ready (.endRun a b d) s c → c.sp.pend = [] →
    c.sp.faults = [] → untranslated s c.wk c.e c.sp = false → c.sp.after = after →
    (after = .fall ∨ (∃ t, after = .goto t) ∨ after = .yielded ∨ after = .ended ∧ c.sp.lanes ≠ 0) →
    ∃ u e, exec (.endRun a b d) s = .next u ∧ u.focus = .none ∧ cxOf u c.wk c.e = some e ∧
      { u with warps := s.warps, focus := s.focus } = s ∧
      e.sp.status = .ready ∧ (∀ t, after = .goto t → e.sp.pc = t) ∧ ((∀ t, after ≠ .goto t) → e.sp.pc = c.here + 4) ∧
      (after = .yielded → e.sp.yielded = true) ∧ (after ≠ .yielded → e.sp.yielded = c.sp.yielded) ∧
      leftTrailer s c [a.toNat, b.toNat, d.toNat] e.sp

/-- The trailer waits for a result that one of its codes names (R86), and marks unawaited a result of the run that it does not
name and that no later instruction has settled (R85); one for s0 alone, which ignores writes (01_machine R25), leaves no register to
mark, which is the model's reading (log entry 120). -/
def Sys2Proof.Claims.TrailerWaits : Prop :=
  ∀ (s : State) (c : Cx) (a b d : BitVec 8) (p : Pend), Ready (.endRun a b d) s c → c.sp.pend = [p] → p.done = false →
    p.arrived = false → isMatrix p.opcode = false → p.mismatch = false → c.sp.faults = [] →
    untranslated s c.wk c.e c.sp = false → c.sp.after = .fall → isShadow s c.w = false ∨ p.dest.masks = false →
    let codes := [a.toNat, b.toNat, d.toNat]
    ∃ u e, exec (.endRun a b d) s = .next u ∧ u.focus = .none ∧ cxOf u c.wk c.e = some e ∧
      (namesDest codes p.dest = true → e.sp.status = .waiting ∧ ∃ q ∈ e.sp.pend, q.id = p.id ∧ q.done = false) ∧
      (namesDest codes p.dest = false → e.sp.status = .ready ∧ e.sp.pc = c.here + 4 ∧
        (p.dest ∈ e.sp.unawaited ↔ p.dest ∈ c.sp.unawaited ∨
          (p.inRun = true ∧ p.settled = false ∧ (p.dest.vector = true ∨ 1 < p.dest.base + p.dest.count) ∧ 0 < p.dest.count)))

/-- A precise trap at the executing word (R295, R297, R298): where the split has no trap to wait for and its workgroup has a
handler, the split stands at the handler with mode zero and its record holds cause, address, the saved scalars and mode. -/
def Sys2Proof.Claims.TrapEntryAlone : Prop :=
  ∀ (s : State) (c : Cx) (cause : Nat) (fetch : Bool), executing s = some c → trapsNow c → c.w.far = none →
    c.sp.trap.handler = false → c.tvec ≠ 0 → (isSnapshot s c.w = true → cause ≠ 0x13 ∧ cause ≠ 0x10) →
    ∃ t, c.trapBefore cause fetch = .next t ∧ inHandlerWith c t cause 0 fetch c.here c.here

/-- `trap n` and `brk n` without a debugger take their traps with code n, and the handler returns to the next word (R174,
R363); with a debugger attached `brk` stops the skein. -/
def Sys2Proof.Claims.TrapInstructionsAlone : Prop :=
  ∀ (s : State) (c : Cx) (n : BitVec 6), trapsNow c → c.w.far = none → c.sp.trap.handler = false → c.tvec ≠ 0 →
    (Ready (.trap n) s c → ∃ t, exec (.trap n) s = .next t ∧ inHandlerWith c t 0x11 n.toNat false c.here (c.here + 4)) ∧
    (Ready (.brk n) s c → s.debugger = false →
      ∃ t, exec (.brk n) s = .next t ∧ inHandlerWith c t 0x12 n.toNat false c.here (c.here + 4)) ∧
    (∀ g, Ready (.brk n) s c → s.debugger = true → wgOf s c.w = some g →
      exec (.brk n) s = (c.settle (.brk n)).debugStop n.toNat g.skein)

/-- A trap of a far task ends it with a reply of status 1 for a fault and 2 for another cause (R168), which leaves once its
writes are acknowledged at dev scope (13_consistency R228); in a handler it is a double trap, and without a handler the launch
is cancelled: the skein stops and firmware has its report (R298, R299).  Poison or a mismatch in a snapshot launch starts a
rollback instead, in a handler or out of one, whether or not the workgroup has a handler (25_reliability R345, R348). -/
def Sys2Proof.Claims.TrapsWithoutHandler : Prop :=
  ∀ (s : State) (c : Cx) (cause : Nat) (fetch : Bool), executing s = some c → trapsNow c →
    (∀ f, c.w.far = some f → ∃ t m, c.trapBefore cause fetch = .next t ∧
      m.caller = f.caller ∧ m.seq = f.seq ∧ m.core = f.core ∧ m.values = [] ∧
      m.status = (if 0x20 ≤ cause then 1 else 2) ∧ m.cause = cause ∧
      (c.w.unack.getD 2 0 = 0 → Tab.get? t.warps c.wk = none ∧ Tab.get? t.replyMsgs s.fresh = some m) ∧
      (c.w.unack.getD 2 0 ≠ 0 → t.replyMsgs = s.replyMsgs ∧ ∃ w, Tab.get? t.warps c.wk = some w ∧ w.splits = [] ∧ w.spill = [] ∧
        w.far = some { f with ending := some m } ∧ w.unack = c.w.unack)) ∧
    (c.w.far = none → isSnapshot s c.w = true → cause = 0x13 ∨ cause = 0x10 →
      ∃ t, c.trapBefore cause fetch = .next t ∧ t.focus = .none ∧ t.plat = s.plat ∧
        ∀ l x, lnKey s c.w = some l → Tab.get? s.launches l = some x →
          ∃ y, Tab.get? t.launches l = some y ∧ y.rollbackWanted = true ∧ y.cancelled = x.cancelled ∧ y.phase = .stopping) ∧
    (c.w.far = none → (c.sp.trap.handler = true ∨ c.tvec = 0) → (isSnapshot s c.w = true → cause ≠ 0x13 ∧ cause ≠ 0x10) →
      ∃ t r, c.trapBefore cause fetch = .next t ∧ t.focus = .none ∧ t.plat.reports = s.plat.reports ++ [r] ∧
        r.warp = c.wk ∧ r.entry = c.e ∧
        (c.sp.trap.handler = true → r.trap = c.sp.trap ∧ r.second = some (cause, c.here)) ∧
        (c.sp.trap.handler = false → r.trap.cause = cause ∧ r.trap.tpc = c.here ∧ r.second = none) ∧
        ∀ l x, lnKey s c.w = some l → Tab.get? s.launches l = some x →
          ∃ y, Tab.get? t.launches l = some y ∧ y.cancelled = true ∧ y.phase = .stopping)

/-- A handler has nothing to reissue and has left the resume address as the trap set it. -/
def Sys2Proof.Claims.returnsPlainly (c : Cx) : Prop :=
  c.sp.trap.handler = true ∧ c.sp.trap.entries = [] ∧ c.sp.trap.trpc = c.sp.trap.trpcSet ∧ c.sp.trap.savedPend = [] ∧
  c.sp.trap.fromPark = none ∧ c.sp.lanes ≠ 0 ∧ c.sp.trap.saved.length = 4 ∧ c.shaped = true

/-- The split has returned from its handler (R300): s56 to s59 and the mode are restored, HANDLER is clear, and it is ready where it
was. -/
def Sys2Proof.Claims.hasReturned (s : State) (c : Cx) (t : State) : Prop :=
  t.focus = .none ∧ { t with warps := s.warps, focus := s.focus } = s ∧ ∃ d, cxOf t c.wk c.e = some d ∧
    d.sp.trap.handler = false ∧ d.sp.mode = c.sp.trap.savedMode ∧ d.sp.run = c.sp.trap.savedRun ∧
    d.sp.pc = c.sp.trap.savedRun.start ∧ d.sp.status = .ready ∧ d.sp.pend = [] ∧
    (∀ k, k < 4 → d.sp.scalar (56 + k) = c.sp.trap.saved.getD k 0) ∧
    (∀ n, n < 64 → n < 56 ∨ 60 ≤ n → d.sp.scalar n = c.sp.scalar n) ∧ d.sp.lanes = c.sp.lanes ∧ d.sp.act = c.sp.act ∧
    d.sp.fpst = c.sp.fpst

/-- Return from a handler (R300), with no entry to reissue and the resume address as the trap set it. -/
def Sys2Proof.Claims.TrapReturn : Prop :=
  ∀ (s : State) (c : Cx), executing s = some c → returnsPlainly c → ∃ t, c.returnFromTrap = .next t ∧ hasReturned s c t

/-- The trailer of the other runs (R81, R152, R168, R175, R300), with nothing to wait for and no fault: after `jwait` the split parks
at its fall-through and every join is tested; after `tret` it returns from its handler; after `rret` the far task replies with status 0
and its values, once its writes are acknowledged at dev scope; after `exit` of all its lanes its entry is free.  That the join is tested
here is the model's reading (log entry 10). -/
def Sys2Proof.Claims.TrailerEnds : Prop :=
  ∀ (s : State) (c : Cx) (a b d : BitVec 8), Ready (.endRun a b d) s c → c.sp.pend = [] → c.sp.faults = [] →
    untranslated s c.wk c.e c.sp = false →
    let i : Instr := .endRun a b d
    let around (u : State) : Prop := u.focus = .none ∧ { u with warps := s.warps, focus := s.focus } = s
    (∀ j, c.sp.after = .park j → ∃ u w p, exec i s = checkDeadlock u c.wk ∧ around u ∧
      Tab.get? u.warps c.wk = some (testJoins w s.ticks) ∧ { w with splits := c.w.splits } = c.w ∧
      (∀ k, k ≠ c.e → Tab.get? w.splits k = Tab.get? c.w.splits k) ∧ Tab.get? w.splits c.e = some p ∧
      p.status = .parkedJoin j ∧ p.pc = c.here + 4 ∧ leftTrailer s c [a.toNat, b.toNat, d.toNat] p) ∧
    (c.sp.after = .returned → returnsPlainly c → ∃ t, exec i s = .next t ∧ hasReturned s c t) ∧
    (c.sp.after = .returned → ∃ v : Cx, exec i s = v.returnFromTrap ∧ v.s = s ∧ v.wk = c.wk ∧ v.e = c.e ∧ v.w = c.w ∧
      v.sp.trap = c.sp.trap ∧ v.sp.lanes = c.sp.lanes ∧ v.sp.act = c.sp.act ∧ v.sp.scalars = c.sp.scalars ∧ v.sp.pend = [] ∧
      v.sp.faults = []) ∧
    (∀ vals f, c.sp.after = .replied vals → c.w.far = some f → ∃ t m, exec i s = .next t ∧ m.caller = f.caller ∧ m.seq = f.seq ∧
      m.core = f.core ∧ m.values = vals ∧ m.status = 0 ∧ m.cause = 0 ∧
      (c.w.unack.getD 2 0 = 0 → Tab.get? t.warps c.wk = none ∧ Tab.get? t.replyMsgs s.fresh = some m) ∧
      (c.w.unack.getD 2 0 ≠ 0 → t.replyMsgs = s.replyMsgs ∧ ∃ w, Tab.get? t.warps c.wk = some w ∧ w.splits = [] ∧ w.spill = [] ∧
        w.far = some { f with ending := some m } ∧ w.unack = c.w.unack)) ∧
    (c.sp.after = .ended → c.sp.lanes = 0 → c.w.spill = [] → ∃ u w, exec i s = checkDeadlock u c.wk ∧ around u ∧
      Tab.get? u.warps c.wk = some w ∧ Tab.get? w.splits c.e = none ∧ w.exited = c.w.exited)

/-- JOIN_DEADLOCK (R157, 19_translation R363), which is looked for when a split parks and when one exits: with every split of the table
parked at a join, the one that holds the lowest lane leaves its park and stands at its handler, its record holding the address of its
`jwait`, and a return to the fall-through, where no run has begun; with another split in the table nothing happens. -/
def Sys2Proof.Claims.JoinDeadlock : Prop :=
  ∀ (s : State) (wk e : Nat) (c : Cx), cxOf s wk e = some c →
    ((∃ p ∈ c.w.splits, ∀ j, p.2.status ≠ .parkedJoin j) → checkDeadlock s wk = .next s) ∧
    ((∀ p ∈ c.w.splits, ∃ j, p.2.status = .parkedJoin j) →
      (∀ p ∈ c.w.splits, p.1 ≠ e → lowLane c.sp.lanes < lowLane p.2.lanes) → trapsNow c →
      (∀ f, c.w.far = some f → ∃ t, checkDeadlock s wk = .next t ∧ (c.w.unack.getD 2 0 = 0 → Tab.get? t.warps wk = none ∧
        ReplyLeaves s t f.caller f.seq f.core 2 0x0D)) ∧
      (c.w.far = none → c.sp.trap.handler = false → c.tvec ≠ 0 →
        ∃ t v, checkDeadlock s wk = .next t ∧ inHandlerWith c t 0x0D 0 false (c.sp.pc - 8) c.sp.pc ∧ cxOf t wk e = some v ∧
          v.sp.trap.savedRun = Run.none c.sp.pc ∧ v.sp.trap.fromPark = none))

namespace Sys2Proof.Claims

open Sys2Proof.Machine

/-- The effect of an instruction on the state around the split and on the split: the state, the named writes, what else. -/
def Acts (i : Instr) (s : State) (c : Cx) (around : State) (ws : Writes) (also : Cx → Prop) : Prop :=
  ∃ e : Cx, Completes i s e ∧ e.s = around ∧ also e ∧ e.shaped = true ∧ Keeps ws c { e with s := c.s }

/-- The split stalls at the word, which holds its place in its run (01_machine R16, 09_control R162). -/
def Stalls (i : Instr) (s : State) (c : Cx) (around : State) (why : Stall) : Prop :=
  exec i s = .next { Cx.commit { c.settle i with
    s := around
    sp := { (c.settle i).sp with status := .stalled, stall := why } } with focus := .none }

/-- The fields of a barrier object in a scratchpad (09_control R158): phase, expected, pending, status. -/
def barrierAt (m : Mem) (a : Nat) : Nat × Nat × Nat × Nat :=
  (Mem.le m (a + 6) 2, Mem.le m (a + 4) 2, Mem.le m a 2, Mem.le m (a + 8) 8)

/-- n arrivals on a barrier object (R160); the write of EXCESS leaves the status word's reserved bits [47:11] zero. -/
def arrivedAt (o : Nat × Nat × Nat × Nat) (n : Nat) : Nat × Nat × Nat × Nat :=
  let (phase, expected, pending, status) := o
  if n = 0 then o
  else if pending ≤ n then ((phase + 1) % 2 ^ 16, expected, expected, if pending < n then (status / 2 ^ 48 * 2 ^ 48 + status % 2 ^ 11) ||| 0x400 else status)
  else (phase, expected, pending - n, status)

/-- A skein's window with nothing but the 16 bytes of an object changed. -/
def onlyObject (k k' : Skein) (a : Nat) : Prop :=
  { k' with scratch := k.scratch, scratchPoison := k.scratchPoison } = k ∧
  ∀ b, b < a ∨ a + 16 ≤ b → Mem.byte k'.scratch b = Mem.byte k.scratch b

/-- One skein changed, and nothing else of the state. -/
def skeinChanged (s t : State) (n : Nat) (k : Skein) : Prop :=
  { t with skeins := s.skeins } = s ∧ Tab.get? t.skeins n = some k ∧ ∀ m, m ≠ n → Tab.get? t.skeins m = Tab.get? s.skeins m

/-- The writes of a scalar of one register pass the check of R31. -/
def passes1 (c : Cx) (d : Nat) (v : Word) : Prop := c.maskPasses (c.sp.setScalar d v false).act = true

/-- The writes of a scalar pair pass the check of R31. -/
def passes2 (c : Cx) (d : Nat) (lo hi : Word) : Prop :=
  c.maskPasses ((c.sp.setScalar d lo false).setScalar (d + 1) hi false).act = true

/-- The pair of scalars holds a value as it lands. -/
def holdsPair (c e : Cx) (d : Nat) (lo hi : Word) : Prop :=
  e.sp.scalar d = scalarAfter c d lo ∧ e.sp.scalar (d + 1) = scalarAfter c (d + 1) hi

/-- The numbers of the control registers (09_control R177). -/
def listed (n : Nat) : Bool :=
  decide (n ≤ 0x003) || (decide (0x010 ≤ n) && decide (n ≤ 0x016)) || (decide (0x020 ≤ n) && decide (n ≤ 0x022)) ||
  (decide (0x030 ≤ n) && decide (n ≤ 0x03F)) || (decide (0x040 ≤ n) && decide (n ≤ 0x04E)) || n == 0x050 || n == 0x051

/-- The listed numbers whose register has a writable field, but for those that an instruction of its own writes (R177). -/
def writableListed (n : Nat) : Bool :=
  n == 0x001 || n == 0x002 || n == 0x021 || (decide (0x030 ≤ n) && decide (n ≤ 0x03F)) || n == 0x043 || n == 0x044 || n == 0x045 ||
  n == 0x050 || n == 0x051

/-- Bits [56:32] of an address, in [24:0]. -/
def highPart (a : Nat) : Word := BitVec.ofNat 32 (a / 2 ^ 32 % 2 ^ 25)

/-- What an entry of a trap state shows (19_translation R297). -/
def entryWord (t : Trap) (f : FaultEntry) (n : Nat) : Word :=
  if n = 0x046 then BitVec.ofNat 32 (2 ^ 24 * f.cause + 2 ^ 8 * ((f.pc - t.tpc).toNat / 4 % 32) + f.opcode)
  else if n = 0x047 then BitVec.ofNat 32 f.addr.toNat
  else if n = 0x048 then highPart f.addr.toNat
  else if n ≤ 0x04B then BitVec.ofNat 32 (f.active.toNat / 2 ^ (32 * (n - 0x049)))
  else BitVec.ofNat 32 (f.done.toNat / 2 ^ (32 * (n - 0x04C)))

/-- The value of a control register of a split, with its workgroup and launch (R177, 03_numbers R61, R65, 05_encoding R89, R156,
R171, 11_memory R185, R194, R205, 15_matrix R262, R263, 17_scheduling R270, 19_translation R297, R298, 21_near_memory R309). -/
def controlOf (c : Cx) (g : Workgroup) (l : Launch) (n : Nat) : Word :=
  let t := c.sp.trap
  if n = 0x000 then c.sp.mode
  else if n = 0x001 then c.sp.fpst
  else if n = 0x002 then c.w.jlost
  else if n = 0x003 then BitVec.ofNat 32 c.w.callSeq
  else if n = 0x010 then l.record.seed
  else if n = 0x011 then BitVec.ofNat 32 l.record.dbase.toNat
  else if n = 0x012 then highPart l.record.dbase.toNat
  else if n = 0x013 then BitVec.ofNat 32 l.record.arg.toNat
  else if n = 0x014 then highPart l.record.arg.toNat
  else if n = 0x015 then l.reclass
  else if n = 0x016 then l.nmfb
  else if n = 0x020 then g.cpyflt
  else if n = 0x021 then g.cpyfln
  else if n = 0x022 then (if g.engineRuns then g.est ||| 1 else g.est)
  else if 0x030 ≤ n ∧ n ≤ 0x03F then (match g.selvedge[n - 0x030]? with | some x => x.count | none => 0)
  else if n = 0x040 then
    BitVec.ofNat 32 (2 ^ 24 * t.cause + 2 ^ 18 * t.code + (if t.fetch then 2 ^ 17 else 0) + (if t.handler then 2 ^ 16 else 0) +
      2 ^ 8 * (t.nent % 32) + t.exec % 32)
  else if n = 0x041 then BitVec.ofNat 32 t.tpc.toNat
  else if n = 0x042 then highPart t.tpc.toNat
  else if n = 0x043 then BitVec.ofNat 32 t.trpc.toNat
  else if n = 0x044 then highPart t.trpc.toNat
  else if n = 0x045 then c.sp.tsel
  else if n = 0x050 then BitVec.ofNat 32 g.tvec.toNat
  else if n = 0x051 then highPart g.tvec.toNat
  else match t.entries[c.sp.tsel.toNat % 32]? with
    | some f => entryWord t f n
    | none => 0

end Sys2Proof.Claims

/-- `bar.init`, `bar.arv` and `bar.wait` on a barrier object inside the window (R158, R160): what the object holds after, the
token and the status returned, reserved bits [47:11] of it as zero, and the stall before the phase changes; other bytes of the
window stay. -/
def Sys2Proof.Claims.BarrierObjects : Prop :=
  ∀ (s : State) (c : Cx) (a : BitVec 6) (k : Skein), c.shaped = true → skOf s c.w = some k →
    let addr := (c.sp.scalar a.toNat).toNat
    let n := c.skKey
    addr % 16 = 0 → addr + 16 ≤ windowBytes s c.w → Mem.wf k.scratch = true →
    Tab.get? s.skeins n = some k →
    (∀ b, Ready (.barInit a b) s c → 1 ≤ (c.sp.scalar b.toNat).toNat → (c.sp.scalar b.toNat).toNat ≤ 65535 →
      ∃ (k' : Skein) (t : State), onlyObject k k' addr ∧ skeinChanged s t n k' ∧
        barrierAt k'.scratch addr = (0, (c.sp.scalar b.toNat).toNat, (c.sp.scalar b.toNat).toNat, 0) ∧
        Acts (.barInit a b) s c t Writes.none fun _ => True) ∧
    (∀ d b, Ready (.barArv d a b) s c → c.w.unack.getD 1 0 = 0 →
      let count := if b = 0 then 1 else (c.sp.scalar b.toNat).toNat
      let token := BitVec.ofNat 32 (Mem.le k.scratch (addr + 6) 2)
      passes1 c d.toNat token →
      ∃ (k' : Skein) (t : State), onlyObject k k' addr ∧ skeinChanged s t n k' ∧
        barrierAt k'.scratch addr = arrivedAt (barrierAt k.scratch addr) count ∧
        Acts (.barArv d a b) s c t (writesScalars [d.toNat]) fun e => e.sp.scalar d.toNat = scalarAfter c d.toNat token) ∧
    (∀ d b, Ready (.barWait d a b) s c → wellFormed (.barWait d a b) = true → k.scratchPoison = [] →
      let phase := Mem.le k.scratch (addr + 6) 2
      let lo := BitVec.ofNat 32 (Mem.le k.scratch (addr + 8) 8 % 2 ^ 11)
      let hi := BitVec.ofNat 32 (Mem.le k.scratch (addr + 8) 8 / 2 ^ 48 * 2 ^ 16)
      (phase = (c.sp.scalar b.toNat).toNat → Stalls (.barWait d a b) s c s .other) ∧
      (phase ≠ (c.sp.scalar b.toNat).toNat → passes2 c d.toNat lo hi →
        Does (.barWait d a b) s c (writesScalars [d.toNat, d.toNat + 1]) fun e => holdsPair c e d.toNat lo hi))

/-- The trap of a barrier object's address (R158): ALIGN before ALLOTMENT, and `bar.init` of no or too many arrivals traps
ILLEGAL_OPERAND. -/
def Sys2Proof.Claims.BarrierTraps : Prop :=
  ∀ (s : State) (c : Cx) (a b d : BitVec 6) (k : Fin 3),
    let i : Instr := match k.val with | 0 => .barInit a b | 1 => .barArv d a b | _ => .barWait d a b
    let addr := (c.sp.scalar a.toNat).toNat
    Ready i s c → skOf s c.w ≠ none →
    (addr % 16 ≠ 0 → exec i s = (c.settle i).trapAt 0x08) ∧
    (addr % 16 = 0 → windowBytes s c.w < addr + 16 → exec i s = (c.settle i).trapAt 0x07) ∧
    (k = 0 → addr % 16 = 0 → addr + 16 ≤ windowBytes s c.w →
      (c.sp.scalar b.toNat).toNat = 0 ∨ 65535 < (c.sp.scalar b.toNat).toNat → exec i s = (c.settle i).trapAt 0x04)

/-- `kbar` and `gbar` (R161): a split whose barrier has completed goes on; one that arrives stalls there, and the arrival of
the last warp, where every warp of the skein, or of a grid placed whole, has arrived, completes the barrier for all. -/
def Sys2Proof.Claims.SkeinAndGridBarriers : Prop :=
  ∀ (s : State) (c : Cx), c.shaped = true →
    (Ready .kbar s c →
      (c.sp.stall = .kbar true → Does .kbar s c Writes.none fun _ => True) ∧
      (c.sp.stall = .none → c.w.unack.getD 1 0 = 0 →
        let t : State := { Cx.commit { c.settle .kbar with
          sp := { (c.settle .kbar).sp with status := .stalled, stall := .kbar false } } with focus := .none }
        let ws := warpsOfSkein t c.skKey
        (allArrived t false ws = false → exec .kbar s = .next t) ∧
        (allArrived t false ws = true → exec .kbar s = .next (completeBarrier t false ws))) ∧
      (c.sp.stall = .none → c.w.unack.getD 1 0 ≠ 0 → Stalls .kbar s c s .other)) ∧
    (Ready .gbar s c → ∀ n l, kernelOf s c.w = some n → lnKey s c.w = some l →
      (c.sp.stall = .gbar true → Does .gbar s c Writes.none fun _ => True) ∧
      (c.sp.stall = .none → n.coop = false → exec .gbar s = (c.settle .gbar).trapAt 0x0E) ∧
      (c.sp.stall = .none → n.coop = true → c.w.unack.getD 2 0 = 0 →
        let t : State := { Cx.commit { c.settle .gbar with
          sp := { (c.settle .gbar).sp with status := .stalled, stall := .gbar false } } with focus := .none }
        let ws := warpsOfLaunch t l
        ((allPlaced t l && allArrived t true ws) = false → exec .gbar s = .next t) ∧
        ((allPlaced t l && allArrived t true ws) = true → exec .gbar s = .next (completeBarrier t true ws))))

/-- `fork` and `rdv` (R163, R164): `fork` starts an engine program at its entry with the pair in its s2 and s3, once no other
runs; `rdv` writes 0 where there is nothing to collect, waits for a running program, and writes the pair of an ended one. -/
def Sys2Proof.Claims.EngineProgramsForkedAlone : Prop :=
  ∀ (s : State) (c : Cx) (g : Workgroup), c.shaped = true → wgOf s c.w = some g →
    (∀ a b, Ready (.fork a b) s c → wellFormed (.fork a b) = true →
      let entry := pair (c.sp.scalar a.toNat) (c.sp.scalar (a.toNat + 1))
      (entry.toNat % 4 ≠ 0 → exec (.fork a b) s = (c.settle (.fork a b)).trapAt 0x08) ∧
      (entry.toNat % 4 = 0 → g.engineRuns = true → Stalls (.fork a b) s c s .other) ∧
      (entry.toNat % 4 = 0 → g.engineRuns = false → c.w.unack.getD 0 0 = 0 →
        ∃ en : Engine, en.entry = entry ∧ en.pc = entry ∧ en.running = true ∧ en.scalars.length = 64 ∧
          (∀ n, n < 64 → en.scalars.getD n 0 =
            if n = 2 then c.sp.scalar b.toNat else if n = 3 then c.sp.scalar (b.toNat + 1) else 0) ∧
          Acts (.fork a b) s c { s with wgs := Tab.upd s.wgs c.w.wg fun x => { x with engine := some en, forks := g.forks + 1 } }
            Writes.none fun _ => True)) ∧
    (∀ a, Ready (.rdv a) s c → wellFormed (.rdv a) = true →
      (g.forks = 0 ∨ c.w.collected = g.forks → passes2 c a.toNat 0 0 →
        Does (.rdv a) s c (writesScalars [a.toNat, a.toNat + 1]) fun e => holdsPair c e a.toNat 0 0) ∧
      (g.forks ≠ 0 → c.w.collected ≠ g.forks → g.engineRuns = true → Stalls (.rdv a) s c s .other) ∧
      (g.forks ≠ 0 → c.w.collected ≠ g.forks → g.engineRuns = false → g.endPoison = (false, false) →
        passes2 c a.toNat g.endPair.1 g.endPair.2 →
        ∃ e : Cx, Completes (.rdv a) s e ∧ e.w.collected = g.forks ∧ holdsPair c e a.toNat g.endPair.1 g.endPair.2 ∧
          Keeps (writesScalars [a.toNat, a.toNat + 1]) c { e with w := { e.w with collected := c.w.collected } }))

/-- `rcall` and `rcall.retry` (R165): the lowest free call slot is taken, the call leaves with its payload, and the tag is
slot and sequence; a retry takes the sequence of its tag register and leaves the warp's counter.  With eight calls
outstanding it stalls; an unaligned entry traps ALIGN. -/
def Sys2Proof.Claims.FarCallsAlone : Prop :=
  ∀ (s : State) (c : Cx) (n : BitVec 5) (d b e : BitVec 6) (retry : Bool), c.shaped = true →
    let i : Instr := if retry then .rcallRetry n d b e else .rcall n d b e
    let entry := pair (c.sp.scalar b.toNat) (c.sp.scalar (b.toNat + 1))
    Ready i s c → wellFormed i = true →
    (entry.toNat % 4 ≠ 0 → exec i s = (c.settle i).trapAt 0x08) ∧
    (entry.toNat % 4 = 0 → (∀ k, k < 8 → Tab.get? c.w.calls k ≠ none) → Stalls i s c s .other) ∧
    (∀ slot, entry.toNat % 4 = 0 → slot < 8 → Tab.get? c.w.calls slot = none → (∀ k, k < slot → Tab.get? c.w.calls k ≠ none) →
      c.w.unack.getD 2 0 = 0 →
      let seq := if retry then (c.sp.scalar d.toNat).toNat % 2 ^ 16 else c.w.callSeq
      let tag : Word := BitVec.ofNat 32 (slot * 2 ^ 16 + seq)
      passes1 c d.toNat tag →
      ∃ (x : Cx) (m : CallMsg), Completes i s x ∧ x.sp.scalar d.toNat = scalarAfter c d.toNat tag ∧
        Tab.get? x.s.callMsgs s.fresh = some m ∧ m.caller = c.wk ∧ m.seq = seq ∧ m.slot = slot ∧ m.entry = entry ∧
        m.addr = pair (c.sp.scalar e.toNat) (c.sp.scalar (e.toNat + 1)) ∧ m.asid = asidOf s c.w ∧
        m.payload = (List.range n.toNat).map (fun k => c.sp.scalar (16 + k)) ∧
        { x.s with callMsgs := s.callMsgs, fresh := s.fresh } = s ∧
        x.w.callSeq = (if retry then c.w.callSeq else (c.w.callSeq + 1) % 2 ^ 16) ∧
        (∃ y, Tab.get? x.w.calls slot = some y ∧ y.seq = seq ∧ y.reply = none ∧ y.timedOut = false) ∧
        Keeps (writesScalars [d.toNat]) c { x with s := c.s, w := { x.w with calls := c.w.calls, callSeq := c.w.callSeq } })

/-- `rwait` (R169): a pending group of 16 scalars; with the reply already there its words are the status, cause and count word,
the values and zeros, and the slot is free; otherwise it stays open for the tag.  `rret` (R168) in a far task releases and
ends it at the trailer with s16 onward; in a warp it traps ILLEGAL_CONTEXT. -/
def Sys2Proof.Claims.FarReplies : Prop :=
  ∀ (s : State) (c : Cx), c.shaped = true →
    (∀ (d a : BitVec 7) (l : BitVec 4), Ready (.rwait d a l) s c → wellFormed (.rwait d a l) = true →
      let tag := c.sp.scalar a.toNat
      ∃ (x : Cx) (p : Pend), Completes (.rwait d a l) s x ∧ p ∈ x.sp.pend ∧ p.id = c.w.nextPend ∧ p.opcode = 0x99 ∧
        p.dest = { vector := false, base := d.toNat, count := 16 } ∧ p.window = c.window l.toNat ∧ p.done = false ∧
        (callOutcome c.w.calls tag = none → p.open_ = true ∧ p.tag = some tag ∧ x.w.calls = c.w.calls ∧ x.s = s) ∧
        (∀ y r, Tab.get? c.w.calls (tag.toNat / 2 ^ 16) = some y → y.seq = tag.toNat % 2 ^ 16 → y.reply = some r →
          p.open_ = false ∧ Tab.get? x.w.calls (tag.toNat / 2 ^ 16) = none ∧
          p.rows.map (fun v => v.map fun o => o.map fun z => z.1) =
            (replyWords r.1 r.2.1 r.2.2).map fun v => [some v])) ∧
    (∀ n : BitVec 4, Ready (.rret n) s c →
      (c.w.far = none → exec (.rret n) s = (c.settle (.rret n)).trapAt 0x03) ∧
      (∀ f, c.w.far = some f → c.w.unack.getD 2 0 = 0 →
        Goes (.rret n) s c Writes.none (.replied ((List.range n.toNat).map fun k => c.sp.scalar (16 + k))) fun _ => True))

/-- `srd` (R176, R177): every listed register goes to the destination, unless it is a poisoned selvedge count; another number traps
ILLEGAL_OPERAND.  A far task reads its mode and status, and zero of every other number. -/
def Sys2Proof.Claims.ControlReads : Prop :=
  ∀ (s : State) (c : Cx) (a : BitVec 6) (n : BitVec 12), c.shaped = true → Ready (.srd a n) s c →
    let gets (v : Word) : Prop := passes1 c a.toNat v →
      Does (.srd a n) s c (writesScalars [a.toNat]) fun e => e.sp.scalar a.toNat = scalarAfter c a.toNat v
    (c.w.far ≠ none → gets (if n = 0 then c.sp.mode else if n = 1 then c.sp.fpst else 0)) ∧
    ∀ g l, c.w.far = none → wgOf s c.w = some g → lnOf s c.w = some l →
      let bad : Prop := 0x030 ≤ n.toNat ∧ n.toNat ≤ 0x03F ∧ ∃ x, g.selvedge[n.toNat - 0x030]? = some x ∧ x.poison = true
      (listed n.toNat = true → ¬bad → gets (controlOf c g l n.toNat)) ∧
      (bad → exec (.srd a n) s = (c.settle (.srd a n)).trapAt 0x13) ∧
      (listed n.toNat = false → exec (.srd a n) s = (c.settle (.srd a n)).trapAt 0x04)

/-- `swr` to the registers that have no instruction of their own (R176, R177, R297, R298): each writable one takes the bits that its
map has and leaves everything else as it is; a number with no writable field traps ILLEGAL_OPERAND.  A far task writes CTL_FPST, and
traps ILLEGAL_CONTEXT for every other of these numbers. -/
def Sys2Proof.Claims.ControlWrites : Prop :=
  ∀ (s : State) (c : Cx) (a : BitVec 6) (n : BitVec 12), c.shaped = true → Ready (.swr a n) s c → wellFormed (.swr a n) = true →
    let i : Instr := .swr a n
    let v := c.sp.scalar a.toNat
    let group (f : Workgroup → Workgroup) : Prop :=
      Acts i s c { s with wgs := Tab.upd s.wgs c.w.wg f } Writes.none fun _ => True
    (n = 0x001 → ∃ e : Cx, Completes i s e ∧ e.sp.fpst = v &&& 7 ∧ e.shaped = true ∧
      Keeps Writes.none c { e with sp := { e.sp with fpst := c.sp.fpst } }) ∧
    (c.w.far ≠ none → n ≠ 0x001 → exec i s = (c.settle i).trapAt 0x03) ∧
    (c.w.far = none →
      (n = 0x002 → ∃ e : Cx, Completes i s e ∧ e.w.jlost = v ∧ e.shaped = true ∧
        Keeps Writes.none c { e with w := { e.w with jlost := c.w.jlost } }) ∧
      (n = 0x021 → group fun g => { g with cpyfln := v }) ∧
      (∀ k : Nat, k < 16 → n.toNat = 0x030 + k → ∀ g x, wgOf s c.w = some g → g.selvedge[k]? = some x →
        group fun h => { h with selvedge := g.selvedge.set k { x with count := v, poison := false } }) ∧
      (n = 0x043 ∨ n = 0x044 → ∃ e : Cx, Completes i s e ∧ e.shaped = true ∧
        e.sp.trap.trpc.toNat = (if n = 0x043 then c.sp.trap.trpc.toNat / 2 ^ 32 * 2 ^ 32 + v.toNat
          else v.toNat % 2 ^ 25 * 2 ^ 32 + c.sp.trap.trpc.toNat % 2 ^ 32) ∧
        Keeps Writes.none c { e with sp := { e.sp with trap := { e.sp.trap with trpc := c.sp.trap.trpc } } }) ∧
      (n = 0x045 → ∃ e : Cx, Completes i s e ∧ e.sp.tsel = v &&& 31 ∧ e.shaped = true ∧
        Keeps Writes.none c { e with sp := { e.sp with tsel := c.sp.tsel } }) ∧
      (n = 0x050 → group fun g => { g with tvec := BitVec.ofNat 57 (g.tvec.toNat / 2 ^ 32 * 2 ^ 32 + v.toNat / 4 * 4) }) ∧
      (n = 0x051 → group fun g => { g with tvec := BitVec.ofNat 57 (v.toNat % 2 ^ 25 * 2 ^ 32 + g.tvec.toNat % 2 ^ 32) }) ∧
      (writableListed n.toNat = false → exec i s = (c.settle i).trapAt 0x04))

/-- `swr` to CTL_MODE (05_encoding R89), CTL_CPYFLT (11_memory R205), CTL_EST (15_matrix R262) and CTL_TCAUSE (19_translation
R297).  A far task has the first (R176), and for the others traps ILLEGAL_CONTEXT. -/
def Sys2Proof.Claims.ControlForms : Prop :=
  ∀ (s : State) (c : Cx) (a : BitVec 6), c.shaped = true →
    let v := c.sp.scalar a.toNat
    let nent := v.toNat / 2 ^ 8 % 32
    (Ready (.ctlModeWrite a) s c →
      (v.toNat / 2 ^ 9 % 8 = 7 → exec (.ctlModeWrite a) s = (c.settle (.ctlModeWrite a)).trapAt 0x02) ∧
      (v.toNat / 2 ^ 9 % 8 ≠ 7 → ∃ e : Cx, Completes (.ctlModeWrite a) s e ∧ e.sp.mode = v &&& 0x3FFF ∧ e.shaped = true ∧
        Keeps Writes.none c { e with sp := { e.sp with mode := c.sp.mode } })) ∧
    (∀ i, i = .ctlCpyfltWrite a ∨ i = .ctlEstWrite a ∨ i = .ctlTcauseWrite a → Ready i s c → c.w.far ≠ none →
      exec i s = (c.settle i).trapAt 0x03) ∧
    (c.w.far = none →
      (Ready (.ctlCpyfltWrite a) s c → Acts (.ctlCpyfltWrite a) s c
        { s with wgs := Tab.upd s.wgs c.w.wg fun g =>
          if v.getLsbD 3 then { g with cpyflt := (v &&& 0xFF000007) ||| (g.cpyflt &&& 8) } else { g with cpyflt := 0, cpyfln := 0 } }
        Writes.none fun _ => True) ∧
      (Ready (.ctlEstWrite a) s c → Acts (.ctlEstWrite a) s c
        (if v.getLsbD 1 then s else { s with wgs := Tab.upd s.wgs c.w.wg fun g => { g with est := 0 } })
        Writes.none fun _ => True) ∧
      (Ready (.ctlTcauseWrite a) s c → nent ≠ 0 → Does (.ctlTcauseWrite a) s c Writes.none fun _ => True) ∧
      (Ready (.ctlTcauseWrite a) s c → nent = 0 → ∃ e : Cx, Completes (.ctlTcauseWrite a) s e ∧ e.shaped = true ∧
        e.sp.trap = { c.sp.trap with
          nent := 0
          entries := []
          savedPend := c.sp.trap.savedPend.filter fun p =>
            !(c.sp.trap.handler && p.done && c.sp.trap.entries.any fun f => f.pend == some p.id) } ∧
        (c.sp.trap.handler = false ∨ (∀ f ∈ c.sp.trap.entries, f.cmd = none) → e.s = s) ∧
        (∀ f k x, c.sp.trap.handler = true → c.sp.trap.entries = [f] → f.cmd = some k → Tab.get? s.cmds k = some x →
          Tab.get? e.s.cmds k = none ∧ e.s = finishCommand s k x 0 none) ∧
        Keeps Writes.none c { e with s := c.s, sp := { e.sp with trap := c.sp.trap } }))

/-- `sbnd` writes bounds and action of a selvedge register, with a count of 0 (15_matrix R263). -/
def Sys2Proof.Claims.SelvedgeSet : Prop :=
  ∀ (s : State) (c : Cx) (t : BitVec 2) (n : BitVec 4) (a b : BitVec 6), c.shaped = true → Ready (.sbnd t n a b) s c →
    Acts (.sbnd t n a b) s c
      { s with wgs := Tab.upd s.wgs c.w.wg fun g =>
        { g with selvedge := g.selvedge.set n.toNat ⟨0, t.toNat, c.sp.scalar b.toNat, c.sp.scalar a.toNat, false⟩ } }
      Writes.none fun _ => True

/-- `sleep` (R179): a duration of 0, and a sleep that has ended, complete; otherwise the split stalls until its deadline, which
the expiry event makes it ready at.  `dbg` (R181) leaves its record, or nothing; `nop` nothing. -/
def Obligations.SleepAndTrace : Prop :=
  ∀ (s : State) (c : Cx), c.shaped = true →
    (Ready .nop s c → Does .nop s c Writes.none fun _ => True) ∧
    (∀ a, Ready (.sleep a) s c →
      let d := (c.sp.scalar a.toNat).toNat
      (c.sp.stall = .none → d = 0 → Does (.sleep a) s c Writes.none fun _ => True) ∧
      (∀ t, c.sp.stall = .sleep t true → Does (.sleep a) s c Writes.none fun _ => True) ∧
      (c.sp.stall = .none → d ≠ 0 → Stalls (.sleep a) s c s (.sleep (s.timer + d) false)) ∧
      (∀ t, c.sp.stall = .sleep t false → Stalls (.sleep a) s c s (.sleep t false))) ∧
    (∀ wk e t, cxOf s wk e = some c → c.sp.stall = .sleep t false →
      exec (.sleepExpiry wk e) s = .next (if t ≤ s.timer then
        Cx.commit { c with sp := { c.sp with stall := .sleep t true, status := .ready, readyAt := s.ticks } } else s)) ∧
    (∀ a b d, Ready (.dbg a b d) s c →
      ((lnKey s c.w).bind (queueOf s) = none → Does (.dbg a b d) s c Writes.none fun _ => True) ∧
      (∀ q, (lnKey s c.w).bind (queueOf s) = some q →
        let words := [c.sp.scalar a.toNat, c.sp.scalar b.toNat, c.sp.scalar d.toNat]
        let caller := match c.w.far with | some f => f.caller | none => c.wk
        let rec_ : List Byte := leBytes 8 s.timer ++ leBytes 8 (c.here.signExtend 64).toNat ++ leBytes 8 caller ++
          leBytes 4 (c.e % 256) ++ (words.flatMap fun w => leBytes 4 w.toNat) ++ leBytes 8 0
        Acts (.dbg a b d) s c { s with queues := Tab.upd s.queues q fun x =>
          if !x.tracing then x
          else if x.traceRoom ≤ x.trace.length then { x with traceLost := x.traceLost + 1 }
          else { x with trace := x.trace ++ [rec_] } } Writes.none fun _ => True))

namespace Sys2Proof.Claims

open Sys2Proof.Machine

/-- global_address of a lane (11_memory R187). -/
def addressOf (c : Cx) (a s l : Nat) : DWord :=
  if s = 0 then pair (c.lane a l) (c.lane (a + 1) l)
  else pair (c.sp.scalar s) (c.sp.scalar (s + 1)) + (c.lane a l).signExtend 64

/-- The words of a lane's register group as one number. -/
def groupOf (c : Cx) (d n l : Nat) : Nat := (List.range n).foldr (fun k x => (c.lane (d + k) l).toNat * 2 ^ (32 * k) + x) 0

/-- A global form of memory: kind, address registers, registers of the destination, of data and of second data. -/
structure GlobalForm where
  kind : MemKind
  a : Nat
  s : Nat
  dest : Option Dest
  data : Nat × Nat
  data2 : Nat × Nat

/-- Registers of an operand under the type in force, where it is one of memory's types (R197). -/
def width (c : Cx) : Nat := if isWide64 c.type then 2 else 1

/-- The loads, the stores and the atomics on global memory (R191, R192, R196 to R198, 21_near_memory R305 to R307). -/
def globalForm (i : Instr) (c : Cx) : Option GlobalForm :=
  let load (d a : BitVec 7) (s : BitVec 6) (bytes regs : Nat) (signed : Bool) : Option GlobalForm :=
    some ⟨.load bytes signed, a.toNat, s.toNat, some ⟨true, d.toNat, regs⟩, (0, 0), (0, 0)⟩
  let atom (op : Nat) (d a : BitVec 7) (s : BitVec 6) : Option GlobalForm :=
    some ⟨.rmw op c.type false true, a.toNat, s.toNat, some ⟨true, d.toNat, width c⟩, (d.toNat, width c),
      if op = 9 then (d.toNat + width c, width c) else (0, 0)⟩
  match i with
  | .ldN8 d a s _ => load d a s 1 1 false
  | .ldI8 d a s _ => load d a s 1 1 true
  | .ldN16 d a s _ => load d a s 2 1 false
  | .ldI16 d a s _ => load d a s 2 1 true
  | .ld32 d a s _ => load d a s 4 1 false
  | .ld64 d a s _ => load d a s 8 2 false
  | .ld128 d a s _ => load d a s 16 4 false
  | .st d a s z => some ⟨.store (2 ^ z.toNat), a.toNat, s.toNat, none, (d.toNat, max 1 (2 ^ z.toNat / 4)), (0, 0)⟩
  | .atomAdd d a s _ => atom 0 d a s
  | .atomMin d a s _ => atom 1 d a s
  | .atomMax d a s _ => atom 2 d a s
  | .atomMinn d a s _ => atom 3 d a s
  | .atomMaxn d a s _ => atom 4 d a s
  | .atomAnd d a s _ => atom 5 d a s
  | .atomOr d a s _ => atom 6 d a s
  | .atomXor d a s _ => atom 7 d a s
  | .atomSwap d a s _ => atom 8 d a s
  | .atomCas d a s _ => atom 9 d a s
  | .atomInc d a s _ => atom 10 d a s
  | .atomDec d a s _ => atom 11 d a s
  | .atomFadd d a s _ => atom 12 d a s
  | .red d a s o => some ⟨.rmw o.toNat c.type false false, a.toNat, s.toNat, none, (d.toNat, width c),
      if o = 9 then (d.toNat + width c, width c) else (0, 0)⟩
  | .xatAdd d a s => some ⟨.rmw 12 6 true false, a.toNat, s.toNat, none, (d.toNat, 1), (0, 0)⟩
  | .xatRed d a s o => some ⟨.rmw o.toNat c.type true false, a.toNat, s.toNat, none, (d.toNat, width c), (0, 0)⟩
  | .xatRmw d a s _ => some ⟨.rmw (if typeMeets .wide c.type then 12 else 0) c.type true true, a.toNat, s.toNat,
      some ⟨true, d.toNat, width c⟩, (d.toNat, width c), (0, 0)⟩
  | _ => none

/-- The requests of the lanes that access: the active ones, in a shadow launch's writes those of the lower half (R190, R347). -/
def requests (f : GlobalForm) (c : Cx) : List LaneReq :=
  ((List.range 96).filter fun l => c.active.getLsbD l && (!(isShadow c.s c.w && f.kind.writes) || decide (l < 48))).map fun l =>
    { lane := l, va := addressOf c f.a f.s l, data := BitVec.ofNat 128 (groupOf c f.data.1 f.data.2 l),
      data2 := BitVec.ofNat 64 (groupOf c f.data2.1 f.data2.2 l), poison := false, order := c.s.fresh }

/-- A lane's address meets the alignment rule of its form (R188, 21_near_memory R304). -/
def alignedFor (kind : MemKind) (va : DWord) : Prop :=
  if kind.near then va.toNat % 4096 + kind.bytes ≤ 4096 else va.toNat % kind.bytes = 0

/-- The addresses of the active lanes pass the checks of R188. -/
def addressesPass (f : GlobalForm) (c : Cx) : Prop :=
  ∀ l, l < 96 → c.active.getLsbD l = true →
    alignedFor f.kind (addressOf c f.a f.s l) ∧ canonical (addressOf c f.a f.s l) = true

/-- Paired lanes of a shadow launch ask the same (R347). -/
def pairsAgree (f : GlobalForm) (c : Cx) : Prop :=
  isShadow c.s c.w = true → f.kind.writes = true → ∀ l, l < 48 →
    c.active.getLsbD l = c.active.getLsbD (l + 48) ∧
    (c.active.getLsbD l = true → addressOf c f.a f.s l = addressOf c f.a f.s (l + 48) ∧
      BitVec.ofNat 128 (groupOf c f.data.1 f.data.2 l) = BitVec.ofNat 128 (groupOf c f.data.1 f.data.2 (l + 48)) ∧
      BitVec.ofNat 64 (groupOf c f.data2.1 f.data2.2 l) = BitVec.ofNat 64 (groupOf c f.data2.1 f.data2.2 (l + 48)))

/-- The split as it was, but for a new outstanding result, faults, and counts of the warp. -/
def likeBefore (c e : Cx) : Cx :=
  { e with
    s := c.s
    w := { e.w with nextPend := c.w.nextPend, unack := c.w.unack }
    sp := { e.sp with pend := c.sp.pend, faults := c.sp.faults } }

/-- The bytes of the local tier that the lanes of a form store to, one lane after another: address and length.  A return-free
near-memory operation stores later, at its stack.  A conflict with another skein's page, and a write of a class R page,
reclassify its page-table group (R184, R185). -/
def storedRanges (p : Party) (wk : Nat) (kind : MemKind) (blocked : LaneReq → Bool) : LaneRun → List LaneReq → List (Nat × Nat)
  | _, [] => []
  | a, r :: rest =>
    (match translate a.s p.asid r.va (if kind.writes then .write else .read) with
      | .ok (.hbm pa) cls _ =>
        (if kind.writes = true ∧ (kind.near = false ∨ kind.returns = true) then [(pa, kind.bytes)] else []) ++
        (if cls < 2 ∧ kind.near = false then
          (match walk a.s p.asid (r.va.toNat % 2 ^ 57) with
            | .leaf _ _ at_ => [(at_ / 128 * 128, 128)]
            | .stop _ => [])
          else [])
      | _ => []) ++ storedRanges p wk kind blocked (runLane p wk kind blocked a r) rest

/-- The new value of the integer atomics on words of w bits (R196). -/
def atomicValue (op w m v v2 : Nat) : Nat :=
  let int (x : Nat) : Int := if x < 2 ^ (w - 1) then x else (x : Int) - 2 ^ w
  match op with
  | 0 => (m + v) % 2 ^ w
  | 1 => if int v < int m then v else m
  | 2 => if int m < int v then v else m
  | 3 => min m v
  | 4 => max m v
  | 5 => m &&& v
  | 6 => m ||| v
  | 7 => m ^^^ v
  | 8 => v
  | 9 => if m = v then v2 else m
  | 10 => if v ≤ m then 0 else m + 1
  | _ => if m = 0 ∨ v < m then v else m - 1

/-- The local address of a lane (R187). -/
def localOf (c : Cx) (a s l : Nat) : Nat := ((if s = 0 then 0 else c.sp.scalar s) + c.lane a l).toNat

/-- A read of n bytes of scratchpad gives the words of an outstanding result. -/
def resultOf (p : Pend) (k l : Nat) : Option Word := ((p.rows.getD k []).getD l none).map fun v => v.1

end Sys2Proof.Claims

/-- Every global load, store and atomic whose lanes' accesses all succeed (R188 to R192, R196 to R198, R304 to R307): the state
is what the lanes leave in ascending order, a returning form has one outstanding result with the lanes' values, the warp counts
its unacknowledged writes, and nothing else changes. -/
def Sys2Proof.Claims.GlobalAccessesAlone : Prop :=
  ∀ (i : Instr) (s : State) (c : Cx) (f : GlobalForm), globalForm i c = some f → wellFormed i = true → c.shaped = true →
    Ready i s c → addressesPass f c → pairsAgree f c → (f.kind.writes = true → isSnapshot s c.w = false) →
    let r := runLanes s (partyOf s c.w) c.wk f.kind (requests f c)
    r.held = [] → r.faults = [] → r.poison = false → r.hole = false →
    ∃ e : Cx, Completes i s e ∧ e.s = r.s ∧
      (e.w.unack = if f.kind.writes && !(f.kind.near && !f.kind.returns) then c.w.unack.map (fun n => n + r.vals.length)
        else c.w.unack) ∧ e.sp.faults = c.sp.faults ∧
      Keeps Writes.none c (likeBefore c e) ∧
      (f.dest = none → e.outstanding = c.outstanding) ∧
      (∀ d, f.dest = some d → ∃ p, e.sp.pend.getLast? = some p ∧ e.sp.pend.length = c.sp.pend.length + 1 ∧
        p.id = c.w.nextPend ∧ p.opcode = opcodeOf i ∧ p.dest = d ∧ p.held = 0 ∧ p.open_ = false ∧ p.inRun = true ∧
        p.done = decide (requests f c = []) ∧ p.arrived = decide (requests f c = []) ∧
        p.window = c.window (lookOf i) ∧
        ∀ k, k < d.count → ∀ v ∈ r.vals, (∀ u ∈ r.vals, u.lane = v.lane → u = v) →
          resultOf p k v.lane = some (BitVec.ofNat 32 (v.val.toNat / 2 ^ (32 * k))))

/-- An unaligned address of an active lane traps ALIGN, and with none unaligned a non-canonical one traps NON_CANONICAL, before
any access (R188); paired lanes of a shadow launch that differ trap SHADOW_MISMATCH (R347). -/
def Sys2Proof.Claims.GlobalTraps : Prop :=
  ∀ (i : Instr) (s : State) (c : Cx) (f : GlobalForm), globalForm i c = some f → wellFormed i = true → Ready i s c →
    let va (l : Nat) : DWord := addressOf c f.a f.s l
    ((∃ l, l < 96 ∧ c.active.getLsbD l = true ∧ ¬alignedFor f.kind (va l)) → exec i s = (c.settle i).trapAt 0x08) ∧
    ((∀ l, l < 96 → c.active.getLsbD l = true → alignedFor f.kind (va l)) →
      (∃ l, l < 96 ∧ c.active.getLsbD l = true ∧ canonical (va l) = false) → exec i s = (c.settle i).trapAt 0x22) ∧
    (addressesPass f c → ¬pairsAgree f c → exec i s = (c.settle i).trapAt 0x10)

/-- One lane's access to a class S or wider page of the local tier: a load gives the bytes there, little-endian, and changes
nothing; a store writes its bytes and no other; an integer atomic gives the old value and writes the new one of R196. -/
def Sys2Proof.Claims.LaneAccessAlone : Prop :=
  ∀ (s : State) (p : Party) (wk : Nat) (kind : MemKind) (r : LaneReq) (pa cls level : Nat),
    translate s p.asid r.va (if kind.writes then .write else .read) = .ok (.hbm pa) cls level → 2 ≤ cls →
    s.nearOps = [] → Mem.wf s.mem = true →
    (∀ n signed, kind = .load n signed → n ≤ 16 →
      accessLane s p wk kind r = .ok s
        (BitVec.ofInt 128 (intOf (8 * n) signed (leNat ((List.range n).map fun k => Mem.byte s.mem (pa + k)))))
        (poisonLoc s (.hbm pa) n)) ∧
    (∀ n, kind = .store n → n ≤ 16 → ∃ t, accessLane s p wk kind r = .ok t 0 false ∧
      { t with mem := s.mem, memPoison := s.memPoison } = s ∧
      (∀ k, k < n → Mem.byte t.mem (pa + k) = BitVec.ofNat 8 (r.data.toNat / 2 ^ (8 * k))) ∧
      ∀ x, x < pa ∨ pa + n ≤ x → Mem.byte t.mem x = Mem.byte s.mem x) ∧
    (∀ op ty near, kind = .rmw op ty near true → op < 12 → near = false ∨ withdrawn s pa = false →
      let n := if isWide64 ty then 8 else 4
      let m := Mem.le s.mem pa n
      ∃ t, accessLane s p wk kind r = .ok t (BitVec.ofNat 128 m) (poisonLoc s (.hbm pa) n) ∧
        (∀ x, x < pa ∨ pa + n ≤ x → Mem.byte t.mem x = Mem.byte s.mem x) ∧
        Mem.le t.mem pa n =
          atomicValue op (8 * n) m (r.data.toNat % 2 ^ (8 * n)) (r.data2.toNat % 2 ^ (8 * n)) % 2 ^ (8 * n))

/-- Whatever comes of it, a global form leaves every byte of the local tier as it was but those its lanes store to, which a load
has only where it reclassifies a page. -/
def Obligations.GlobalFrames : Prop :=
  ∀ (i : Instr) (s t : State) (c : Cx) (f : GlobalForm), globalForm i c = some f → wellFormed i = true → c.shaped = true →
    Ready i s c → Mem.wf s.mem = true → s.nearOps = [] → exec i s = .next t →
    ∀ x, (∀ q ∈ storedRanges (partyOf s c.w) c.wk f.kind (fun r => heldOverlap s c.wk f.kind r)
        ⟨s, [], [], [], false, false⟩ (requests f c), x < q.1 ∨ q.1 + q.2 ≤ x) →
      Mem.byte t.mem x = Mem.byte s.mem x

/-- The class of a page (R184, R185): an unowned class P page becomes the accessing skein's; one owned by it changes nothing; one
owned by another skein, and a write of a class R page, turn the group's entries to class S and count one reclassification. -/
def Sys2Proof.Claims.PageClasses : Prop :=
  ∀ (s : State) (p : Party) (va pa k : Nat) (write : Bool), p.skein = some k →
    let frame := pa / 65536
    (Tab.get? s.xlate.owners frame = none → ∃ t, classAccess s p va pa 0 write = t ∧ { t with xlate := s.xlate } = s ∧
      Tab.get? t.xlate.owners frame = some k) ∧
    (Tab.get? s.xlate.owners frame = some k → classAccess s p va pa 0 write = s) ∧
    (classAccess s p va pa 1 false = s) ∧ (∀ cls, 2 ≤ cls → classAccess s p va pa cls write = s) ∧
    (∀ e at_ l x, (Tab.get? s.xlate.owners frame ≠ none ∧ Tab.get? s.xlate.owners frame ≠ some k ∨ write = true) →
      walk s p.asid va = .leaf e 0 at_ → pteField e 5 3 < 2 → pteField e 8 2 = 0 → p.launch = some l →
      Tab.get? s.launches l = some x → Mem.wf s.mem = true →
      ∀ t, t = classAccess s p va pa (if write then 1 else 0) write →
        (∀ b, b < at_ / 128 * 128 ∨ at_ / 128 * 128 + 128 ≤ b → Mem.byte t.mem b = Mem.byte s.mem b) ∧
        (∃ y, Tab.get? t.launches l = some y ∧ y.reclass = if x.reclass = 0xFFFFFFFF then x.reclass else x.reclass + 1) ∧
        pteField (Mem.le t.mem (at_ / 128 * 128) 8) 5 3 = 2)

/-- The scratchpad forms of the active lanes inside the window (R193, R199): `ldl.32` and `ldl.128` have one outstanding result
with the bytes there; `stl` leaves in each byte the highest-numbered lane's, and every other byte as it was. -/
def Sys2Proof.Claims.ScratchpadAccessesAlone : Prop :=
  ∀ (s : State) (c : Cx) (d a : BitVec 7) (b : BitVec 6) (k : Skein) (z : Nat) (i : Instr), c.shaped = true →
    skOf s c.w = some k → Tab.get? s.skeins c.skKey = some k → c.w.far = none → Mem.wf k.scratch = true →
    ((∃ l, i = .ldl32 d a b l) ∧ z = 4 ∨ (∃ l, i = .ldl128 d a b l) ∧ z = 16 ∨ ∃ w, i = .stl d a b w ∧ z = 2 ^ w.toNat) →
    wellFormed i = true → Ready i s c →
    let addr (l : Nat) : Nat := localOf c a.toNat b.toNat l
    (∀ l, l < 96 → c.active.getLsbD l = true → addr l % z = 0 ∧ addr l + z ≤ windowBytes s c.w) →
    ((∀ w, i ≠ .stl d a b w) → ∃ e p, Completes i s e ∧ e.s = s ∧ Keeps Writes.none c (likeBefore c e) ∧
      e.sp.pend.getLast? = some p ∧ p.id = c.w.nextPend ∧ p.dest = ⟨true, d.toNat, z / 4⟩ ∧
      ∀ l j, l < 96 → c.active.getLsbD l = true → j < z / 4 →
        resultOf p j l = some (BitVec.ofNat 32 (Mem.le k.scratch (addr l + 4 * j) 4))) ∧
    ((∃ w, i = .stl d a b w) →
      (isShadow s c.w = true → ∀ l, l < 48 → c.active.getLsbD l = c.active.getLsbD (l + 48) ∧ (c.active.getLsbD l = true →
        addr l = addr (l + 48) ∧ groupOf c d.toNat (max 1 (z / 4)) l = groupOf c d.toNat (max 1 (z / 4)) (l + 48))) →
      ∃ e k', Completes i s e ∧ skeinChanged s e.s c.skKey k' ∧
      Keeps Writes.none c (likeBefore c e) ∧ { k' with scratch := k.scratch, scratchPoison := k.scratchPoison } = k ∧
      (∀ x, (∀ l, l < 96 → c.active.getLsbD l = true → x < addr l ∨ addr l + z ≤ x) →
        Mem.byte k'.scratch x = Mem.byte k.scratch x) ∧
      (∀ l j, l < 96 → c.active.getLsbD l = true → j < z →
        (∀ m, l < m → m < 96 → c.active.getLsbD m = true → addr l + j < addr m ∨ addr m + z ≤ addr l + j) →
        Mem.byte k'.scratch (addr l + j) = BitVec.ofNat 8 (groupOf c d.toNat (max 1 (z / 4)) l / 2 ^ (8 * j))))

/-- `atoml` by one active lane (R199): the old word in the destination at once, the new word of R196 in its place. -/
def Sys2Proof.Claims.ScratchpadAtomics : Prop :=
  ∀ (s : State) (c : Cx) (d a : BitVec 7) (o : BitVec 7) (k : Skein) (l : Nat), c.shaped = true →
    wellFormed (.atoml d a o) = true → Ready (.atoml d a o) s c → skOf s c.w = some k →
    Tab.get? s.skeins c.skKey = some k → c.w.far = none → Mem.wf k.scratch = true → isShadow s c.w = false → l < 96 →
    c.active = 1#96 <<< l → o.toNat < 12 →
    let n := 4 * width c
    let addr := (c.lane a.toNat l).toNat
    addr % n = 0 → addr + n ≤ windowBytes s c.w →
    let m := Mem.le k.scratch addr n
    ∃ e k', Completes (.atoml d a o) s e ∧ skeinChanged s e.s c.skKey k' ∧
      (∀ x, x < addr ∨ addr + n ≤ x → Mem.byte k'.scratch x = Mem.byte k.scratch x) ∧
      Mem.le k'.scratch addr n = atomicValue o.toNat (8 * n) m (groupOf c d.toNat (width c) l)
        (if o = 9 then groupOf c (d.toNat + width c) (width c) l else 0) % 2 ^ (8 * n) ∧
      groupOf e d.toNat (width c) l = m ∧
      (∀ r q, q < 96 → ¬(r ∈ regsFrom d.toNat (width c) ∧ q = l) → e.lane r q = c.lane r q) ∧
      e.sp.scalars = c.sp.scalars

/-- `ldc` and `sld` by a split (R194): one access, at the data segment or at the pair plus the scalar; its value is outstanding
for the scalar or the pair.  An unaligned or non-canonical address traps: precisely at the word, which is the model's reading (log
entry 82); the data segment of a far task is its caller's by log entry 41. -/
def Obligations.ScalarLoads : Prop :=
  (∀ (s : State) (c : Cx) (x : BitVec 7) (w : BitVec 12) (l : BitVec 4), Ready (.ldc x 1 w l) s c → w.toNat % 2 = 1 →
    exec (.ldc x 1 w l) s = (c.settle (.ldc x 1 w l)).trapAt 0x08) ∧
  ∀ (i : Instr) (s : State) (c : Cx) (d n : Nat) (addr : DWord) (look : BitVec 4), c.shaped = true → Ready i s c →
    ((∃ (x : BitVec 7) (p : BitVec 1) (w : BitVec 12), i = .ldc x p w look ∧ d = x.toNat ∧ n = (if p = 1 then 8 else 4) ∧
        (p = 1 → w.toNat % 2 = 0) ∧
        addr = (match (lnKey s c.w).bind (Tab.get? s.launches) with | some l => l.record.dbase | none => 0) +
          BitVec.ofNat 64 (4 * w.toNat)) ∨
      ∃ (x : BitVec 7) (p : BitVec 1) (a b : BitVec 6), i = .sld x p a b look ∧ d = x.toNat ∧ n = (if p = 1 then 8 else 4) ∧
        addr = (if b = 0 then 0 else pair (c.sp.scalar b.toNat) (c.sp.scalar (b.toNat + 1))) +
          (c.sp.scalar a.toNat).signExtend 64) →
    let r : LaneReq := { lane := lowLane c.sp.lanes, va := addr, data := 0, data2 := 0, poison := false, order := s.fresh }
    (addr.toNat % n ≠ 0 → exec i s = (c.settle i).trapAt 0x08) ∧
    (addr.toNat % n = 0 → canonical addr = false → exec i s = (c.settle i).trapAt 0x22) ∧
    (∀ t v b, addr.toNat % n = 0 → canonical addr = true → heldOverlap s c.wk (.load n false) r = false →
      byRelay s (asidOf s c.w) addr (.load n false) = false →
      accessLane s (partyOf s c.w) c.wk (.load n false) r = .ok t v b →
      ∃ e p, Completes i s e ∧ e.s = t ∧ Keeps Writes.none c (likeBefore c e) ∧ e.sp.pend.getLast? = some p ∧
        p.id = c.w.nextPend ∧ p.dest = ⟨false, d, n / 4⟩ ∧ p.arrived = false ∧ p.window = c.window look.toNat ∧
        ∀ k, k < n / 4 → resultOf p k 0 = some (BitVec.ofNat 32 (v.toNat / 2 ^ (32 * k))))

/-- `ldc` and `sld` by an engine program complete before its next command (15_matrix R252). -/
def Sys2Proof.Claims.EngineScalarLoads : Prop :=
  ∀ (i : Instr) (s : State) (x : Ex) (d : BitVec 7) (p : BitVec 1) (addr : DWord) (l : BitVec 4), x.shaped = true →
    ((∃ w : BitVec 12, i = .ldc d p w l ∧ (p = 1 → w.toNat % 2 = 0) ∧
        addr = (match (Tab.get? s.skeins x.wg.skein).bind (fun k => Tab.get? s.launches k.launch) with
          | some y => y.record.dbase | none => 0) + BitVec.ofNat 64 (4 * w.toNat)) ∨
      ∃ a b : BitVec 6, i = .sld d p a b l ∧
        addr = (if b = 0 then 0 else pair (x.scalar b.toNat) (x.scalar (b.toNat + 1))) + (x.scalar a.toNat).signExtend 64) →
    let n := if p = 1 then 8 else 4
    let r : LaneReq := { lane := 0, va := addr, data := 0, data2 := 0, poison := false }
    wellFormed i = true → EngineReady i s x → addr.toNat % n = 0 →
    ∀ t v, accessLane s (enginePartyOf s x.wg) (engineKey x.g) (.load n false) r = .ok t v false →
    ∃ y : Ex, exec i s = .next y.commit ∧ y.s = t ∧ y.g = x.g ∧ y.wg = x.wg ∧ y.en.pc = x.en.pc + 4 ∧
      { y.en with scalars := x.en.scalars, scalarPoison := x.en.scalarPoison, pc := x.en.pc } = x.en ∧
      ∀ m, m < 64 → y.scalar m =
        if m = d.toNat ∧ m ≠ 0 then BitVec.ofNat 32 v.toNat
        else if m = d.toNat + 1 ∧ p = 1 then BitVec.ofNat 32 (v.toNat / 2 ^ 32)
        else x.scalar m

/-- The weft queues (R195, 01_machine R38 to R40): `stl.q` takes the next slot, or goes on with its open one, and stalls until it
is free; it then writes each active lane's data at the lane's own offset, the highest lane's where lanes overlap, and with
commit commits and closes the slot; `ldl.q` takes the oldest slot and stalls until it is committed, then reads it, and with free
empties and closes it.  A queue the launch does not have traps, and so do paired lanes of a shadow launch that push different
data or offsets (25_reliability R347). -/
def Obligations.WeftQueues : Prop :=
  ∀ (s : State) (c : Cx) (d a : BitVec 7) (m w : BitVec 1) (q : BitVec 3) (k : Skein) (n : Kernel) (x : WeftQueue),
    c.shaped = true → skOf s c.w = some k → kernelOf s c.w = some n → Tab.get? s.skeins c.skKey = some k →
    Mem.wf k.scratch = true →
    let size := if w = 1 then 16 else 4
    let data (l : Nat) : Nat := groupOf c d.toNat (size / 4) l
    let off (l : Nat) : Nat := (c.lane a.toNat l).toNat
    let inside := ∀ l, l < 96 → c.active.getLsbD l = true → off l % size = 0 ∧ off l + size ≤ n.slot
    let base (slot : Nat) : Nat := q.toNat * 8 * n.slot + slot % 8 * n.slot
    let agree : Prop := isShadow s c.w = true → ∀ l, l < 48 → c.active.getLsbD l = c.active.getLsbD (l + 48) ∧
      (c.active.getLsbD l = true → off l = off (l + 48) ∧ data l = data (l + 48))
    (∀ i, (i = .stlQ d a m w q ∨ ∃ l, i = .ldlQ d a m w q l) → Ready i s c → n.stages ≤ q.toNat + 1 →
      exec i s = (c.settle i).trapAt 0x04) ∧
    (q.toNat + 1 < n.stages → inside → k.queues[q.toNat]? = some x →
      (Ready (.stlQ d a m w q) s c → ¬agree → exec (.stlQ d a m w q) s = (c.settle (.stlQ d a m w q)).trapAt 0x10) ∧
      (Ready (.stlQ d a m w q) s c → wellFormed (.stlQ d a m w q) = true → agree → (m = 1 → c.w.unack.getD 1 0 = 0) →
        let opened := Tab.get? c.w.openPush q.toNat
        let slot := opened.getD x.pushed
        let pushed := if opened = none then x.pushed + 1 else x.pushed
        (x.free slot = false → ∃ t k', exec (.stlQ d a m w q) s = .next t ∧ t.focus = .none ∧
          Tab.get? t.skeins c.skKey = some k' ∧ k'.scratch = k.scratch ∧ k'.queues[q.toNat]? = some { x with pushed := pushed } ∧
          ∃ v, cxOf t c.wk c.e = some v ∧ v.sp.status = .stalled ∧ Tab.get? v.w.openPush q.toNat = some slot) ∧
        (x.free slot = true → ∃ e k' y, Completes (.stlQ d a m w q) s e ∧ skeinChanged s e.s c.skKey k' ∧
          k'.queues[q.toNat]? = some y ∧ y.pushed = pushed ∧
          y.committed = (if m = 1 then x.committed ++ [slot] else x.committed) ∧ y.popped = x.popped ∧
          Tab.get? e.w.openPush q.toNat = (if m = 1 then none else some slot) ∧
          Keeps Writes.none c { likeBefore c e with w := { (likeBefore c e).w with openPush := c.w.openPush } } ∧
          (∀ b, (∀ l, l < 96 → c.active.getLsbD l = true → b < base slot + off l ∨ base slot + off l + size ≤ b) →
            Mem.byte k'.scratch b = Mem.byte k.scratch b) ∧
          (∀ l j, l < 96 → c.active.getLsbD l = true → j < size →
            (∀ v, l < v → v < 96 → c.active.getLsbD v = true → off l + j < off v ∨ off v + size ≤ off l + j) →
            Mem.byte k'.scratch (base slot + off l + j) = BitVec.ofNat 8 (data l / 2 ^ (8 * j))))) ∧
      (∀ l, Ready (.ldlQ d a m w q l) s c → wellFormed (.ldlQ d a m w q l) = true →
        let opened := Tab.get? c.w.openPop q.toNat
        let slot := opened.getD x.popped
        (x.committed.contains slot = false → ∃ t, exec (.ldlQ d a m w q l) s = .next t ∧ t.focus = .none ∧
          ∃ v, cxOf t c.wk c.e = some v ∧ v.sp.status = .stalled ∧ Tab.get? v.w.openPop q.toNat = some slot) ∧
        (x.committed.contains slot = true → ∃ e p y k', Completes (.ldlQ d a m w q l) s e ∧
          skeinChanged s e.s c.skKey k' ∧ k'.queues[q.toNat]? = some y ∧ k'.scratch = k.scratch ∧
          y.popped = (if opened = none then x.popped + 1 else x.popped) ∧
          y.emptied = (if m = 1 then x.emptied ++ [slot] else x.emptied) ∧
          Tab.get? e.w.openPop q.toNat = (if m = 1 then none else some slot) ∧
          Keeps Writes.none c { likeBefore c e with w := { (likeBefore c e).w with openPop := c.w.openPop } } ∧
          e.sp.pend.getLast? = some p ∧ p.dest = ⟨true, d.toNat, size / 4⟩ ∧ p.window = c.window l.toNat ∧
          ∀ j v, v < 96 → c.active.getLsbD v = true → j < size / 4 →
            resultOf p j v = some (BitVec.ofNat 32 (Mem.le k.scratch (base slot + off v + 4 * j) 4)))))

namespace Sys2Proof.Claims

open Sys2Proof.Machine

/-- What an instruction that issues a command makes of its operands: counter, destination of the number, the command, its
barrier object, and the scope of the release at issue. -/
structure CommandForm where
  counter : Nat
  number : Nat
  kind : CmdKind
  barrier : Option Word
  scope : Nat

/-- A pair of scalars of a split. -/
def pairOf (c : Cx) (n : Nat) : DWord := pair (c.sp.scalar n) (c.sp.scalar (n + 1))

/-- The bytes of a descriptor in the warp's window. -/
def descriptor (k : Skein) (a n : Nat) : List Byte := (List.range n).map fun j => Mem.byte k.scratch (a + j)

/-- An object of n bytes, aligned to n, inside the window. -/
def objectFits (c : Cx) (a n : Nat) : Prop := a % n = 0 ∧ a + n ≤ windowBytes c.s c.w

/-- The command of a network descriptor (23_pod R341). -/
def netForm (c : Cx) (sk : Skein) (i : Instr) (msn : Nat) : Option CmdKind :=
  let f (b : BitVec 6) : Nat → Nat → Nat := descField (descriptor sk (c.sp.scalar b.toNat).toNat 32)
  match i with
  | .nput _ _ b => some (.nput (BitVec.ofNat 64 (f b 0 8)) (f b 8 8) (f b 16 4) (f b 20 2) (f b 22 1) msn)
  | .nget _ _ b => some (.nget (BitVec.ofNat 64 (f b 0 8)) (f b 8 8) (f b 16 4) (f b 20 2) (f b 22 1) msn)
  | .nsig _ _ b => some (.nsig (f b 8 8) (f b 20 2) (f b 22 1) msn (BitVec.ofNat 64 (f b 24 8)))
  | _ => none

/-- The commands of the copy engine, of near memory and of the pod, by their instruction (11_memory R202, R209, 21_near_memory
R311, 23_pod R333, R335). -/
def commandForm (i : Instr) (c : Cx) (sk : Skein) (m : Milestone) : Option CommandForm :=
  let d (b : BitVec 6) (n : Nat) : List Byte := descriptor sk (c.sp.scalar b.toNat).toNat n
  match i with
  | .cpy k a b e => some ⟨k.toNat, a.toNat, .copy (d b 128) false, if e = 0 then none else some (c.sp.scalar e.toNat), 0⟩
  | .cpyz k a b e => some ⟨k.toNat, a.toNat, .copy (d b 128) true, if e = 0 then none else some (c.sp.scalar e.toNat), 0⟩
  | .mstep o k a => some ⟨k.toNat, a.toNat, .marker (c.w.unack.getD o.toNat 0) o.toNat m.issued, none, 5⟩
  | .xatExpr k a b => some ⟨k.toNat, a.toNat, .expr (d b 128), none, 2⟩
  | .xatFill k a b e => some ⟨k.toNat, a.toNat, .fill (pairOf c b.toNat) (c.sp.scalar e.toNat).toNat, none, 2⟩
  | .xatCopy k a b e =>
    some ⟨k.toNat, a.toNat, .rowCopy (pairOf c b.toNat) (pairOf c (b.toNat + 2)) (c.sp.scalar e.toNat).toNat, none, 2⟩
  | .mrelay k a b e =>
    some ⟨k.toNat, a.toNat, .relay (pairOf c b.toNat) (pairOf c (b.toNat + 2)) (c.sp.scalar e.toNat).toNat, none, 2⟩
  | .mred o k a b => some ⟨k.toNat, a.toNat, .mred o.toNat (BitVec.ofNat 64 (descField (d b 64) 0 8))
      (BitVec.ofNat 64 (descField (d b 64) 8 8)) (descField (d b 64) 16 4) (BitVec.ofNat 32 (descField (d b 64) 20 4))
      (descField (d b 64) 24 4), none, 3⟩
  | _ => none

/-- The checks that a command passes at issue (R203, R311, R314, R334, R335). -/
def commandPasses (i : Instr) (c : Cx) (sk : Skein) : Prop :=
  let r (b : BitVec 6) : Nat := (c.sp.scalar b.toNat).toNat
  match i with
  | .cpy _ _ b e => objectFits c (r b) 128 ∧ (e ≠ 0 → objectFits c (r e) 16) ∧ descOk (descriptor sk (r b) 128) false = true
  | .cpyz _ _ b e => objectFits c (r b) 128 ∧ (e ≠ 0 → objectFits c (r e) 16) ∧ descOk (descriptor sk (r b) 128) true = true
  | .mstep _ _ _ => True
  | .xatExpr _ _ b => objectFits c (r b) 128 ∧ exprOk (descriptor sk (r b) 128) = true
  | .xatFill _ _ b e => (pairOf c b.toNat).toNat % 4096 = 0 ∧ r e % 4096 = 0
  | .xatCopy _ _ b e => (pairOf c b.toNat).toNat % 4096 = 0 ∧ (pairOf c (b.toNat + 2)).toNat % 4096 = 0 ∧ r e % 4096 = 0
  | .mrelay _ _ b e => (pairOf c b.toNat).toNat % 64 = 0 ∧ (pairOf c (b.toNat + 2)).toNat % 64 = 0 ∧ r e % 64 = 0
  | .mred _ _ _ b => objectFits c (r b) 64 ∧ mredOk (descriptor sk (r b) 64) = true
  | _ => False

/-- A copy with an extent of 0, a near-memory command of COUNT or length 0, a relay of length 0: nothing to do (R204, R211, R311,
R335). -/
def nothingToDo (kind : CmdKind) : Prop :=
  match kind with
  | .copy d _ => ∃ j, j < descDims d ∧ descExt d j = 0
  | .expr d => descField d 72 4 = 0
  | .fill _ n => n = 0
  | .rowCopy _ _ n => n = 0
  | .relay _ _ n => n = 0
  | _ => False

/-- A page that a command of a snapshot launch may write: one of the local tier, or of no target yet (25_reliability R351). -/
def inPackage (c : Cx) (va : DWord) : Prop := canonical va = false ∨ leafTarget c.s (asidOf c.s c.w) va = 0

/-- What a snapshot launch may issue (25_reliability R351): a copy whose first destination page, and near-memory work whose first
pages written, lie in the package; no command of the pod. -/
def snapshotPasses (c : Cx) (kind : CmdKind) : Prop :=
  match kind with
  | .copy d _ => descDspace d ≠ 0 ∨ inPackage c (descDst d 0)
  | .marker _ _ _ => True
  | .expr _ | .fill _ _ | .rowCopy _ _ _ => ∀ x ∈ nearAddrs kind 0, x.2 = true → inPackage c x.1
  | _ => False

/-- The command that a split issues: nothing of it is done. -/
def commandOf (c : Cx) (m : Milestone) (f : CommandForm) : Cmd where
  wg := c.w.wg
  warp := c.wk
  counter := f.counter
  number := m.issued + 1
  kind := f.kind
  barrier := f.barrier
  progress := 0
  phase := .active
  poison := false
  issuer := none
  node := none
  asid := asidOf c.s c.w
  walked := 0
  pc := if f.kind.near then c.here else 0
  again := none

/-- A command of a split has been issued: the counter's next number, and the command under the state's next number. -/
def commandIssued (c : Cx) (t : State) (m : Milestone) (f : CommandForm) : Prop :=
  (∃ g g', Tab.get? c.s.wgs c.w.wg = some g ∧ Tab.get? t.wgs c.w.wg = some g' ∧
    g'.counters = g.counters.set f.counter { m with issued := m.issued + 1 } ∧ { g' with counters := g.counters } = g) ∧
  (∀ n, n ≠ c.w.wg → Tab.get? t.wgs n = Tab.get? c.s.wgs n) ∧
  Tab.get? t.cmds c.s.fresh = some (commandOf c m f) ∧
  (∀ n, n ≠ c.s.fresh → Tab.get? t.cmds n = Tab.get? c.s.cmds n) ∧
  { t with wgs := c.s.wgs, cmds := c.s.cmds, fresh := c.s.fresh, net := c.s.net } = c.s

/-- The number of a command in its destination pair, or nowhere. -/
def numbered (i : Instr) (s : State) (c : Cx) (a n : Nat) (also : Cx → Prop) : Prop :=
  ∃ e : Cx, Completes i s e ∧ also e ∧
    Keeps (writesScalars (if a = 0 then [] else [a, a + 1])) c { e with s := c.s } ∧
    (a ≠ 0 → holdsPair c e a (BitVec.ofNat 32 n) (BitVec.ofNat 32 (n / 2 ^ 32)))

end Sys2Proof.Claims

/-- `cpy`, `cpyz`, `mstep`, `xat.expr`, `xat.fill`, `xat.copy`, `mrelay` and `mred` (R202, R206, R209, R311, R333, R335): with the
release done and the checks passed, the command enters its engine with the next number of its counter, the number goes to the
named pair, and nothing else changes. -/
def Sys2Proof.Claims.CommandsIssuedAlone : Prop :=
  ∀ (i : Instr) (s : State) (c : Cx) (sk : Skein) (g : Workgroup) (m : Milestone) (f : CommandForm),
    skOf s c.w = some sk → wgOf s c.w = some g → commandForm i c sk m = some f → g.counters[f.counter]? = some m →
    wellFormed i = true → c.shaped = true → Ready i s c → c.w.unack.getD f.scope 0 = 0 → commandPasses i c sk →
    (isSnapshot s c.w = true → snapshotPasses c f.kind) → ¬nothingToDo f.kind →
    (f.kind.near = true → nearStart s (asidOf s c.w) f.kind 0 = .ok) →
    (f.number = 0 ∨ passes2 c f.number (BitVec.ofNat 32 (m.issued + 1)) (BitVec.ofNat 32 ((m.issued + 1) / 2 ^ 32))) →
    numbered i s c f.number (m.issued + 1) fun e => commandIssued c e.s m f ∧ e.s.net = s.net

/-- In a snapshot launch a command that writes outside the package, and every command of the pod, traps SNAPSHOT and takes no number
(25_reliability R351). -/
def Sys2Proof.Claims.SnapshotCommands : Prop :=
  (∀ (i : Instr) (s : State) (c : Cx) (sk : Skein) (m : Milestone) (f : CommandForm),
    skOf s c.w = some sk → commandForm i c sk m = some f → wellFormed i = true → Ready i s c → c.w.unack.getD f.scope 0 = 0 →
    commandPasses i c sk → isSnapshot s c.w = true → ¬snapshotPasses c f.kind →
    ¬nothingToDo f.kind ∨ (∃ d e n, f.kind = .relay d e n) → exec i s = (c.settle i).trapAt 0x14) ∧
  ∀ (i : Instr) (s : State) (c : Cx) (sk : Skein) (k : BitVec 3) (a b : BitVec 6) (x : Conn),
    i = .nput k a b ∨ i = .nget k a b ∨ i = .nsig k a b → skOf s c.w = some sk → wellFormed i = true → Ready i s c →
    c.w.unack.getD 4 0 = 0 →
    let d := descriptor sk (c.sp.scalar b.toNat).toNat 32
    objectFits c (c.sp.scalar b.toNat).toNat 32 → connOf s (descField d 20 2) (asidOf s c.w) = some x → x.failed = false →
    netOk d (i == .nsig k a b) = true → isSnapshot s c.w = true → exec i s = (c.settle i).trapAt 0x14

/-- `nput`, `nget` and `nsig` (R341): as other commands, with the connection's next message number. -/
def Sys2Proof.Claims.MessagesIssued : Prop :=
  ∀ (i : Instr) (s : State) (c : Cx) (sk : Skein) (g : Workgroup) (m : Milestone) (k : BitVec 3) (a b : BitVec 6) (x : Conn)
    (kind : CmdKind),
    i = .nput k a b ∨ i = .nget k a b ∨ i = .nsig k a b → netForm c sk i x.nextMsn = some kind →
    skOf s c.w = some sk → wgOf s c.w = some g → g.counters[k.toNat]? = some m → wellFormed i = true → c.shaped = true →
    Ready i s c → isSnapshot s c.w = false → c.w.unack.getD 4 0 = 0 →
    let d := descriptor sk (c.sp.scalar b.toNat).toNat 32
    let n := descField d 20 2
    objectFits c (c.sp.scalar b.toNat).toNat 32 → connOf s n (asidOf s c.w) = some x → x.failed = false →
    netOk d (i == .nsig k a b) = true → (i = .nget k a b → descField d 16 4 ≠ 0) →
    (a.toNat = 0 ∨ passes2 c a.toNat (BitVec.ofNat 32 (m.issued + 1)) (BitVec.ofNat 32 ((m.issued + 1) / 2 ^ 32))) →
    numbered i s c a.toNat (m.issued + 1) fun e =>
      commandIssued c e.s m ⟨k.toNat, a.toNat, kind, none, 4⟩ ∧ { e.s.net with conns := s.net.conns } = s.net ∧
      Tab.get? e.s.net.conns n = some { x with nextMsn := (x.nextMsn + 1) % 2 ^ 32 } ∧
      ∀ q, q ≠ n → Tab.get? e.s.net.conns q = Tab.get? s.net.conns q

/-- `nget` of LEN 0 (R341): it takes its numbers and completes at once, in number order.  The empty request that leaves for the
receiver under its message number is the model's choice (log entry 110). -/
def Sys2Proof.Claims.EmptyGets : Prop :=
  ∀ (s : State) (c : Cx) (sk : Skein) (g : Workgroup) (m : Milestone) (k : BitVec 3) (a b : BitVec 6) (x : Conn),
    skOf s c.w = some sk → wgOf s c.w = some g → g.counters[k.toNat]? = some m → wellFormed (.nget k a b) = true →
    c.shaped = true → Ready (.nget k a b) s c → isSnapshot s c.w = false → c.w.unack.getD 4 0 = 0 →
    Tab.get? s.cmds s.fresh = none →
    let d := descriptor sk (c.sp.scalar b.toNat).toNat 32
    let n := descField d 20 2
    objectFits c (c.sp.scalar b.toNat).toNat 32 → connOf s n (asidOf s c.w) = some x → x.failed = false →
    netOk d false = true → descField d 16 4 = 0 →
    (a.toNat = 0 ∨ passes2 c a.toNat (BitVec.ofNat 32 (m.issued + 1)) (BitVec.ofNat 32 ((m.issued + 1) / 2 ^ 32))) →
    numbered (.nget k a b) s c a.toNat (m.issued + 1) fun e => (∀ j, Tab.get? e.s.cmds j = Tab.get? s.cmds j) ∧
      (∃ g', Tab.get? e.s.wgs c.w.wg = some g' ∧
        { g' with counters := g.counters } = g ∧
        g'.counters = g.counters.set k.toNat (Milestone.complete { m with issued := m.issued + 1 } (m.issued + 1))) ∧
      ∃ y o, Tab.get? e.s.net.conns n = some y ∧ y.nextMsn = (x.nextMsn + 1) % 2 ^ 32 ∧ y.out = x.out ++ [o] ∧
        o.pkt.op = .getRequest ∧ o.pkt.msn = x.nextMsn ∧ o.pkt.mlen = 0 ∧ o.pkt.payload = [] ∧ o.cmd = none

/-- `mrd` and `mwait` (R207, R208), `fence` (R210), `pref`, `cinv` and `cwb` (R201), `xwait` (R310), `nwait` and `nwait.rd` (R342):
what is read, and what is waited for.  An acquire waits for the split's accesses that the fault buffer holds, a release for the
acknowledgements of its scope, and `cwb` of a range counts as one unacknowledged write at sys scope (log entry 4).  That an `nwait`
whose milestone is reached completes on a failed connection too is the model's reading (log entry 113). -/
def Obligations.Waits : Prop :=
  ∀ (s : State) (c : Cx), c.shaped = true →
    (∀ (iss : BitVec 1) (k : BitVec 3) (a : BitVec 6) (g : Workgroup) (m : Milestone), wgOf s c.w = some g →
      g.counters[k.toNat]? = some m → m.poison = false →
      let v := if iss = 1 then m.issued else m.done
      (wellFormed (.mrd iss k a) = true → Ready (.mrd iss k a) s c →
        passes2 c a.toNat (BitVec.ofNat 32 v) (BitVec.ofNat 32 (v / 2 ^ 32)) →
        Does (.mrd iss k a) s c (writesScalars [a.toNat, a.toNat + 1]) fun e =>
          holdsPair c e a.toNat (BitVec.ofNat 32 v) (BitVec.ofNat 32 (v / 2 ^ 32))) ∧
      (∀ o, Ready (.mwait o k a) s c →
        ((pairOf c a.toNat).toNat ≤ m.done → Does (.mwait o k a) s c Writes.none fun _ => True) ∧
        (m.done < (pairOf c a.toNat).toNat → Stalls (.mwait o k a) s c s .other))) ∧
    (∀ o sc, Ready (.fence o sc) s c →
      let acquired := o = 1 ∨ c.heldLanes = false
      let released := o = 0 ∨ c.w.unack.getD sc.toNat 0 = 0
      (acquired ∧ released → Does (.fence o sc) s c Writes.none fun _ => True) ∧
      (¬(acquired ∧ released) → Stalls (.fence o sc) s c s .other)) ∧
    (∀ v a b, (Ready (.pref v a b) s c → Does (.pref v a b) s c Writes.none fun _ => True) ∧
      (Ready (.cinv v a b) s c → Does (.cinv v a b) s c Writes.none fun _ => True) ∧
      (Ready (.cwb v a b) s c → ∃ e : Cx, Completes (.cwb v a b) s e ∧
        e.w.unack = (if c.sp.scalar b.toNat = 0 then c.w.unack else updAt c.w.unack 4 fun n => n + 1) ∧
        Keeps Writes.none c { e with w := { e.w with unack := c.w.unack } })) ∧
    (Ready .xwait s c →
      let before := match c.sp.stall with | .near n => n | _ => s.fresh
      (nearPending s c.wk c.e before = false → Does .xwait s c Writes.none fun _ => True) ∧
      (nearPending s c.wk c.e before = true → Stalls .xwait s c s (.near before))) ∧
    (∀ (a b : BitVec 6) (x : Conn), connOf s (c.sp.scalar a.toNat).toNat (asidOf s c.w) = some x →
      (Ready (.nwait a b) s c →
        ((pairOf c b.toNat).toNat ≤ x.arrival → Does (.nwait a b) s c Writes.none fun _ => True) ∧
        (x.arrival < (pairOf c b.toNat).toNat → x.failed = true → exec (.nwait a b) s = (c.settle (.nwait a b)).trapAt 0x27) ∧
        (x.arrival < (pairOf c b.toNat).toNat → x.failed = false → Stalls (.nwait a b) s c s .other)) ∧
      (wellFormed (.nwaitRd a b) = true → Ready (.nwaitRd a b) s c →
        passes2 c b.toNat (BitVec.ofNat 32 x.arrival) (BitVec.ofNat 32 (x.arrival / 2 ^ 32)) →
        Does (.nwaitRd a b) s c (writesScalars [b.toNat, b.toNat + 1]) fun e =>
          holdsPair c e b.toNat (BitVec.ofNat 32 x.arrival) (BitVec.ofNat 32 (x.arrival / 2 ^ 32))))

/-- `mq.put` and `mq.get` (R332): the operation leaves for the module with its record, the split stalls until the answer, and the
answer's status goes to the destination; while an access of the warp to the queue's own bytes is held the instruction waits for it
(13_consistency R219, R220).  At the module every grant of the queue's page goes first (13_consistency R224); a put takes the slot at TAIL of a queue that is not full, and a get
frees the slot at HEAD of one that is not empty, indivisibly. -/
def Sys2Proof.Claims.ModuleQueuesAlone : Prop :=
  (∀ (s : State) (c : Cx) (a b e : BitVec 6) (put : Bool), c.shaped = true →
    let i : Instr := if put then .mqPut a b e else .mqGet a b e
    Ready i s c →
    (∀ n st, c.sp.stall = .queue n (some st) → passes1 c a.toNat (BitVec.ofNat 32 st) →
      Does i s c (writesScalars [a.toNat]) fun x => x.sp.scalar a.toNat = scalarAfter c a.toNat (BitVec.ofNat 32 st)) ∧
    (∀ n, c.sp.stall = .queue n none → Stalls i s c s (.queue n none)) ∧
    (∀ sk m off relay cls lv, c.sp.stall = .none → skOf s c.w = some sk → isSnapshot s c.w = false →
      (put = true → c.w.unack.getD 3 0 = 0) → objectFits c (c.sp.scalar e.toNat).toNat 64 →
      translate s (asidOf s c.w) (pairOf c b.toNat) .write = .ok (.module m off relay) cls lv →
      (heldAtQueue s c.wk m off = true → Stalls i s c s .other) ∧
      (heldAtQueue s c.wk m off = false → ∃ q t, Stalls i s c t (.queue s.fresh none) ∧ Tab.get? t.net.queueOps s.fresh = some q ∧ q.put = put ∧ q.module = m ∧
        q.off = off ∧ q.warp = c.wk ∧ q.entry = c.e ∧ q.local_ = c.sp.scalar e.toNat ∧
        (put = true → q.record = descriptor sk (c.sp.scalar e.toNat).toNat 64)))) ∧
  (∀ (x : Module) (off : Nat) (rec_ : List Byte) (bad : Bool), mqHeaderOk x off = true → rec_.length = 64 →
    Mem.wf x.mem = true →
    let word (m : Module) (k : Nat) : Nat := Mem.le m.mem (off + 4 * k) 4
    let n := word x 0
    let used := (word x 2 + 2 ^ 32 - word x 1) % 2 ^ 32
    let gone (y : Module) : Prop := { y with mem := x.mem, poison := x.poison, grants := x.grants } = x ∧
      ∀ g, g ∈ y.grants ↔ g ∈ x.grants ∧ g.page ≠ off / 65536
    gone (mqPutAt x off rec_ bad).2 ∧ gone (mqGetAt x off).2.2.2 ∧
    (used = n → (mqPutAt x off rec_ bad).1 = 1 ∧ (mqPutAt x off rec_ bad).2.mem = x.mem) ∧
    (used ≠ n → (mqPutAt x off rec_ bad).1 = 0 ∧
      (let y := (mqPutAt x off rec_ bad).2
       word y 0 = n ∧ word y 1 = word x 1 ∧ word y 2 = (word x 2 + 1) % 2 ^ 32 ∧
       Mem.bytes y.mem (off + 64 + 64 * (word x 2 % n)) 64 = rec_)) ∧
    (word x 1 = word x 2 → (mqGetAt x off).1 = 1 ∧ (mqGetAt x off).2.2.2.mem = x.mem) ∧
    (word x 1 ≠ word x 2 → (mqGetAt x off).1 = 0 ∧
      (mqGetAt x off).2.1 = Mem.bytes x.mem (off + 64 + 64 * (word x 1 % n)) 64 ∧
      (let y := (mqGetAt x off).2.2.2
       word y 0 = n ∧ word y 1 = (word x 1 + 1) % 2 ^ 32 ∧ word y 2 = word x 2)))

/-- `racq` (R44, R173) and `launch` (R172, R269): a skein with its full allotment goes on; a request that is granted at once goes on
with it, another stalls; `launch` to a queue that is not there, not device-fed, bound to another ASID, or with an unaligned record,
gives 2 (a queue firmware has not bound too: log entry 126), and to a full one 1, and enqueues nothing; of a record that fails a check
of R271, or whose descriptor cannot be read, it gives 2 as well, and another it enqueues with its descriptor, as one that is already
checked (R269, R271).  That a record of KIND 1 is held to its reserved bits and alignments alone at `launch` is the model's (log
entries 54 and 55), and so is the slot of a queue as a physical address (log entry 56); that an unreadable descriptor gives 2 is its
reading (log entry 53). -/
def Obligations.RequestsToTheScheduler : Prop :=
  ∀ (s : State) (c : Cx), c.shaped = true →
    (∀ k, Ready .racq s c → skOf s c.w = some k →
      (k.full = true → Does .racq s c Writes.none fun _ => True) ∧
      (k.full = false →
        let t := grantRequests { s with skeins := Tab.put s.skeins c.skKey { k with requested := true } }
        let full := match Tab.get? t.skeins c.skKey with | some x => x.full | none => false
        (full = true → Acts .racq s c t Writes.none fun _ => True) ∧ (full = false → Stalls .racq s c t .other))) ∧
    (∀ (a b e : BitVec 6), Ready (.launch a b e) s c → c.w.unack.getD 2 0 = 0 → isSnapshot s c.w = false →
      let q := (c.sp.scalar e.toNat).toNat
      let bad := Config.launchQueues ≤ q ∨ (pairOf c b.toNat).toNat % 128 ≠ 0 ∨ ∀ x, Tab.get? s.queues q = some x →
        x.hostFed = true ∨ x.asid ≠ asidOf s c.w
      (bad → passes1 c a.toNat 2 →
        Does (.launch a b e) s c (writesScalars [a.toNat]) fun x => x.sp.scalar a.toNat = scalarAfter c a.toNat 2) ∧
      (∀ x, ¬bad → Tab.get? s.queues q = some x → dist32 (queueHead s x) (queueTail s x) = x.entries → passes1 c a.toNat 1 →
        Does (.launch a b e) s c (writesScalars [a.toNat]) fun x => x.sp.scalar a.toNat = scalarAfter c a.toNat 1) ∧
      (∀ x t rec_ marks, ¬bad → Tab.get? s.queues q = some x → dist32 (queueHead s x) (queueTail s x) ≠ x.entries →
        readGlobal (partyOf s c.w) c.wk s (pieces (pairOf c b.toNat) 128) = .ok t rec_ marks → true ∉ marks →
        descField rec_ 36 1 = 1 →
        (recordClean rec_ = true → passes1 c a.toNat 0 →
          Acts (.launch a b e) s c (enqueue t q x rec_ []) (writesScalars [a.toNat]) fun x =>
            x.sp.scalar a.toNat = scalarAfter c a.toNat 0) ∧
        (recordClean rec_ = false → passes1 c a.toNat 2 →
          Acts (.launch a b e) s c t (writesScalars [a.toNat]) fun x => x.sp.scalar a.toNat = scalarAfter c a.toNat 2)) ∧
      (∀ x t rec_ marks, ¬bad → Tab.get? s.queues q = some x → dist32 (queueHead s x) (queueTail s x) ≠ x.entries →
        readGlobal (partyOf s c.w) c.wk s (pieces (pairOf c b.toNat) 128) = .ok t rec_ marks → true ∉ marks →
        descField rec_ 36 1 ≠ 1 →
        peek t x.asid (field64 rec_ 0) 64 = .bad ∨
          (∃ d, peek t x.asid (field64 rec_ 0) 64 = .ok d ∧ kernelCause t rec_ d ≠ none) →
        passes1 c a.toNat 2 →
        Acts (.launch a b e) s c (look t x.asid (field64 rec_ 0) 64) (writesScalars [a.toNat]) fun x =>
          x.sp.scalar a.toNat = scalarAfter c a.toNat 2) ∧
      (∀ x t rec_ d marks, ¬bad → Tab.get? s.queues q = some x → dist32 (queueHead s x) (queueTail s x) ≠ x.entries →
        readGlobal (partyOf s c.w) c.wk s (pieces (pairOf c b.toNat) 128) = .ok t rec_ marks → true ∉ marks →
        descField rec_ 36 1 ≠ 1 → peek t x.asid (field64 rec_ 0) 64 = .ok d → kernelCause t rec_ d = none → passes1 c a.toNat 0 →
        Acts (.launch a b e) s c (enqueue (look t x.asid (field64 rec_ 0) 64) q x rec_ d) (writesScalars [a.toNat]) fun x =>
          x.sp.scalar a.toNat = scalarAfter c a.toNat 0))

namespace Sys2Proof.Claims

open Sys2Proof.Machine

/-- A matrix instruction's own conditions beside convergence (15_matrix R240 to R248): what traps ILLEGAL_CONTEXT. -/
def matrixContext (i : Instr) (ring : Bool) : Prop :=
  (∃ d a b l, i = .msa d a b l) ∨ i = .mzeroP → ring = false

/-- A tile lies outside the workgroup's ring (R247, R248). -/
def outsideRing (g : Workgroup) (t : Nat) : Prop := ∀ r, g.ring = some r → t < r.first ∨ r.first + r.len ≤ t

/-- The form number, operand fields of an `mma` (R237). -/
def mmaForm (i : Instr) : Option (Nat × BitVec 7 × BitVec 7 × BitVec 6 × BitVec 4) :=
  match i with
  | .mmaI8t2 d a b l => some (0, d, a, b, l)
  | .mmaE4t2 d a b l => some (1, d, a, b, l)
  | .mmaI8i4 d a b l => some (2, d, a, b, l)
  | .mmaI8i8 d a b l => some (3, d, a, b, l)
  | .mmaE4e4 d a b l => some (4, d, a, b, l)
  | .mmaE4e5 d a b l => some (5, d, a, b, l)
  | .mmaE5e4 d a b l => some (6, d, a, b, l)
  | .mmaE5e5 d a b l => some (7, d, a, b, l)
  | .mmaE2e2 d a b l => some (8, d, a, b, l)
  | .mmaBf16 d a b l => some (9, d, a, b, l)
  | .mmaF16 d a b l => some (10, d, a, b, l)
  | .mmaBft2 d a b l => some (11, d, a, b, l)
  | _ => none

/-- An instruction of the matrix engine. -/
def ofMatrix (i : Instr) : Prop :=
  (mmaForm i).isSome = true ∨ (∃ d a b l, i = .msa d a b l) ∨ (∃ t, i = .mzero t) ∨ i = .mzeroP ∨
  (∃ d t l, i = .mmovToRegisters d t l) ∨ (∃ d t, i = .mmovToTile d t) ∨ ∃ t a b, i = .mring t a b

/-- The 32 registers of a group as columns. -/
def columnsOf (c : Cx) (d : Nat) : List Row := (List.range 32).map fun k => c.row (d + k)

/-- A matrix instruction enters its warp's queue (R239): the entry, the outstanding register group of a drain, the ring or
the matrix context that it sets, and nothing else. -/
def Queues (i : Instr) (s : State) (c : Cx) (op : MatOp) (drain : Option Nat) (around : State) (ctx : MatrixCtx) : Prop :=
  ∃ e : Cx, Completes i s e ∧ e.s = around ∧ e.shaped = true ∧ e.w.mqueue = c.w.mqueue ++ [op] ∧ e.w.mctx = ctx ∧
    Keeps Writes.none c { e with
      s := c.s
      w := { e.w with mqueue := c.w.mqueue, mctx := c.w.mctx, nextPend := c.w.nextPend }
      sp := { e.sp with pend := e.sp.pend.take c.sp.pend.length } } ∧
    match drain with
    | none => e.sp.pend.length = c.sp.pend.length ∧ e.w.nextPend = c.w.nextPend
    | some d => e.w.nextPend = c.w.nextPend + 1 ∧ ∃ p, e.sp.pend.drop c.sp.pend.length = [p] ∧ p.id = c.w.nextPend ∧
        p.dest = ⟨true, d, 32⟩ ∧ p.open_ = true ∧ p.arrived = false ∧ p.pc = c.here

/-- A matrix instruction enters its warp's queue, or stalls, with nothing done, while the queue is full (R239). -/
def Enters (i : Instr) (s : State) (c : Cx) (op : MatOp) (drain : Option Nat) (around : State) (ctx : MatrixCtx) : Prop :=
  (4 ≤ c.w.mqueue.length → Stalls i s c s .other) ∧ (c.w.mqueue.length < 4 → Queues i s c op drain around ctx)

/-- Row and column of a tile's element e, in row order. -/
def placeOf (e : Nat) : Nat × Nat := (e / 32, e % 32)

/-- A command of an engine program on its tiles: the tiles, status bits and BNDCNT events it leaves; the program moves on. -/
def OnTiles (i : Instr) (s : State) (x : Ex) (bits : Nat) (also : Tile → Tile → Prop) : Prop :=
  ∃ y : Ex, exec i s = .next y.commit ∧ y.s = x.s ∧ y.g = x.g ∧ y.wg = x.wg ∧ also y.en.w y.en.q ∧
    y.en = { x.en with
      w := y.en.w
      q := y.en.q
      pending := { x.en.pending with bits := x.en.pending.bits ||| BitVec.ofNat 64 bits }
      pc := x.en.pc + 4 }

/-- An operand of n bytes of an engine command: aligned, inside its window (R253). -/
def engineFits (x : Ex) (a align n : Nat) : Prop := a % align = 0 ∧ a + n ≤ x.window

/-- What a store command's control word says (R260): space, rows, columns; none for a word with a reserved bit or a wrong
count. -/
def storeControl (w : Nat) : Option (Bool × Nat × Nat) :=
  let rows := w / 256 % 128
  let cols := w / 65536 % 64
  if w % 256 / 2 ≠ 0 ∨ w / 2 ^ 15 % 2 ≠ 0 ∨ w / 2 ^ 22 ≠ 0 ∨ 96 < rows ∨ 32 < cols then none
  else some (decide (w % 2 = 1), if rows = 0 then 96 else rows, if cols = 0 then 32 else cols)

/-- Bytes of an element by its tag (R260). -/
def tagBytes (t : Tag) : Nat :=
  match t with | .i32 => 4 | .f32 => 4 | .bf16 => 2 | .f16 => 2 | .e4m3 => 1 | .e5m2 => 1

/-- Elements stored one after another into global memory, where none of them faults. -/
def storedAll (p : Party) (key : Nat) : State → List (DWord × List Byte) → Option State
  | s, [] => some s
  | s, (va, bs) :: rest =>
    match writeGlobal s p key va bs (List.replicate bs.length false) with
    | .ok t _ _ => storedAll p key t rest
    | _ => none

/-- i32 or f32 elements added onto global memory one after another, where none of them faults. -/
def addedAll (p : Party) (key : Nat) (tag : Tag) : State → List (DWord × Word) → Option State
  | s, [] => some s
  | s, (va, v) :: rest =>
    match readGlobal p key s [(va, 4)] with
    | .ok t bs marks =>
      if true ∈ marks then none
      else
        let sum := leBytes 4 (combineElem tag (BitVec.ofNat 32 (leNat bs)) v).1.toNat
        addedAll p key tag (writePieces p key t [(va, 4)] sum (List.replicate 4 false)) rest
    | _ => none

end Sys2Proof.Claims

/-- Decode and encode agree: a well-formed instruction's word decodes to it, and a word decodes to an instruction only where it
is that instruction's word, so that every word has one meaning (05_encoding R76 to R96). -/
def Obligations.DecodeEncode : Prop :=
  (∀ (i : Instr) (w : Word), wellFormed i = true → encode i = some w → decode w = .ok i) ∧
  ∀ (i : Instr) (w : Word), decode w = .ok i → encode i = some w ∧ wellFormed i = true

/-- Some words of the manual's examples and what they decode to. -/
def Obligations.DecodedWords : Prop :=
  decode 0x010A1838 = .ok (.sadd 5 6 7) ∧ decode 0x1A12FFFD = .ok (.smovi 9 0xFFFD) ∧
  decode 0x98040000 = .ok (.rret 1) ∧ decode 0xC208A000 = .ok (.mrd 0 2 10) ∧ decode 0xD7003505 = .ok (.mqPut 3 20 5) ∧
  decode 0x90004140 = .ok (.barInit 4 5) ∧ decode 0xF8005001 = .ok (.srd 5 1) ∧ decode 0x00000000 = .ok .nop ∧
  decode 0xFF7F7F7F = .ok (.endRun 0x7F 0x7F 0x7F)

/-- A step runs the decoded instruction: time passes, and the word at the split's place in its run, or at the engine program's
counter, executes; a word that is no instruction is the event of R96.  The package timer and the arithmetic clocks go together, 7
clocks to 10 ns, and half as many while the clock is lowered (00_scope R3, R178; 25_reliability R356).  That an event on the agenda
happens first (log entry 3), and how many clocks pass (log entry 5), are the model's choices. -/
def Obligations.StepRunsDecoded : Prop :=
  (∀ s : State, (passTime s).clock = s.clock + 1 ∧
    { passTime s with clock := s.clock, timer := s.timer, sevenths := s.sevenths, ticks := s.ticks } = s ∧
    s.ticks ≤ (passTime s).ticks ∧
    7 * (passTime s).timer + (passTime s).sevenths =
      7 * s.timer + s.sevenths + (if s.plat.halfClock then 20 else 10) * ((passTime s).ticks - s.ticks)) ∧
  (∀ (s : State) (wk e : Nat) (c : Cx) (w : Word) (rest : List Word), s.agenda = [] → s.plat.power = .ready →
    s.focus = .split wk e → cxOf s wk e = some c → c.sp.run.words.drop c.sp.run.pos = w :: rest →
    (∀ i, decode w = .ok i → step s = exec i (passTime s)) ∧
    (∀ r, decode w = .error r → step s = exec (.wordNotAnInstruction w) (passTime s))) ∧
  (∀ (s s1 : State) (g : Nat) (x : Ex) (w : Word) (rest : List Word), s.agenda = [] → s.plat.power = .ready →
    s.focus = .engine g → exOf s g = some x →
    fetchWord (passTime s) (enginePartyOf (passTime s) x.wg) x.en.pc = .ok s1 (w :: rest) →
    (∀ i, decode w = .ok i → step s = exec i s1) ∧
    (∀ r, decode w = .error r → step s = exec (.wordNotAnInstruction w) s1)) ∧
  (∀ (s : State) (i : Instr) (rest : List Input), s.agenda = .event i :: rest → encode i = none → poweredDown s = false →
    step s = exec i { passTime s with agenda := rest })

/-- A word that is no instruction (R96, R97): an unassigned opcode traps ILLEGAL_OPCODE, an opcode outside the context that
executes it ILLEGAL_CONTEXT, and another ILLEGAL_ENCODING; in a warp with a handler the split stands at it, and an engine
program stops. -/
def Obligations.WordsThatAreNoInstruction : Prop :=
  ∀ (s : State) (w : Word) (r : DecodeError), decode w = .error r →
    let cause (ok : Bool) : Nat := if r = .illegalOpcode then 0x01 else if ok then 0x02 else 0x03
    (∀ c, executing s = some c → trapsNow c → c.w.far = none → c.sp.trap.handler = false → c.tvec ≠ 0 →
      ∃ t, exec (.wordNotAnInstruction w) s = .next t ∧
        inHandlerWith c t (cause (c.contextOk (w.toNat / 2 ^ 24))) 0 false c.here c.here) ∧
    (∀ x, running s = some x → exec (.wordNotAnInstruction w) s = x.stop (cause (engineOpcode (w.toNat / 2 ^ 24))) ∧
      ∃ t e, x.stop (cause (engineOpcode (w.toNat / 2 ^ 24))) = .next t ∧ (Tab.get? t.wgs x.g).bind (fun g => g.engine) = some e ∧
        e.running = false)

/-- Every step keeps the memories of the local tier and of the host in their canonical form. -/
def Obligations.MemoryInvariant : Prop :=
  ∀ s t : State, s.memWf = true → step s = .next t → t.memWf = true

/-- Every step keeps the sizes of the register tables (01_machine R10, R25, 09_control R152, 15_matrix R251): in every warp 8 predicates,
4 join registers and rows of 96 lanes, in every split of it, spilled ones too, 64 scalars and temporaries of 96 lanes, and in every engine
program 64 scalars and tiles of 3,072 elements. -/
def Obligations.RegisterTables : Prop :=
  ∀ s t : State, s.shaped = true → step s = .next t → t.shaped = true

/-- What reset leaves (25_reliability R359, R360): the package at step 1 of its power-up, holding only its fuses; nothing bound,
nothing placed, nobody executing, the memories canonical and every register table of its size. -/
def Obligations.ResetState : Prop :=
  State.reset.memWf = true ∧ State.reset.shaped = true ∧ State.reset.mem = [] ∧ State.reset.plat.power = .step1 ∧ State.reset.focus = .none ∧
  State.reset.agenda = [] ∧ State.reset.launches = [] ∧ State.reset.skeins = [] ∧ State.reset.wgs = [] ∧
  State.reset.warps = [] ∧ State.reset.queues = [] ∧ State.reset.xlate.contexts = [] ∧ State.reset.cmds = []

/-- A matrix instruction traps ILLEGAL_CONVERGENCE in a warp that is not fully ganged (R240, 01_machine R30). -/
def Sys2Proof.Claims.MatrixConvergence : Prop :=
  ∀ (i : Instr) (s : State) (c : Cx), ofMatrix i → Ready i s c → (skOf s c.w).isSome = true →
    ¬(c.w.spill = [] ∧ c.w.splits.length = 1 ∧ c.sp.act = allLanes) → exec i s = (c.settle i).trapAt 0x05

/-- `mma` in every form (R237, R239, R243, R244): its rows and columns are read at issue, the model's choice where R239 orders no
read (log entry 23), and the product enters the warp's queue, with the old register group of an integer product in vreg mode;
while the queue is full the split stalls. -/
def Sys2Proof.Claims.ProductsQueued : Prop :=
  ∀ (i : Instr) (s : State) (c : Cx) (n : Nat) (d a : BitVec 7) (b : BitVec 6) (l : BitVec 4) (k : Skein) (g : Workgroup),
    mmaForm i = some (n, d, a, b, l) → wellFormed i = true → c.shaped = true → Ready i s c → skOf s c.w = some k →
    wgOf s c.w = some g → c.w.spill = [] → c.w.splits.length = 1 → c.sp.act = allLanes →
    let f := matForm n
    let bytes := f.rowBytes
    let ring := ringMode s c.w
    let z := ring && l.getLsbD 0
    let close := ring && l.getLsbD 1
    let base := if b = 0 then 0 else (c.sp.scalar b.toNat).toNat
    let row (j : Nat) : Nat := (c.lane a.toNat j).toNat
    (ring = true → ∃ r, g.ring = some r ∧ r.owner = c.wk ∧ (f.integer = true → z = false → r.opened = true)) →
    (ring = false → f.integer = false → c.w.mctx.set = true) →
    base % 2048 = 0 → base + 2048 ≤ windowBytes s c.w → (∀ j, j < 96 → row j % 64 = 0 ∧ row j + bytes ≤ windowBytes s c.w) →
    (4 ≤ c.w.mqueue.length → Stalls i s c s .other) ∧
    (c.w.mqueue.length < 4 → k.scratchPoison = [] →
      let drain := if ring = false ∧ f.integer = true then some d.toNat else none
      let op : MatOp :=
        .mma n ((c.row a.toNat).map fun v => Mem.bytes k.scratch v.toNat bytes)
          ((List.range 32).map fun j => Mem.bytes k.scratch (base + 64 * j) 64) [] []
          (if drain.isSome then columnsOf c d.toNat else []) z close c.w.mctx.ptile c.w.mctx.status
          (drain.map fun _ => c.w.nextPend)
      ∃ t, Queues i s c op drain t c.w.mctx ∧ { t with wgs := s.wgs } = s ∧
        (ring = false → t = s) ∧
        ∃ g', Tab.get? t.wgs c.w.wg = some g' ∧ { g' with ring := g.ring } = g ∧
          (ring = true → g'.ring = g.ring.map fun r => { r with opened := f.integer && !close }))

/-- `msa`, `mzero`, `mzero.p`, `mmov` and `mring` (R242, R246 to R248) enter the warp's queue where they are allowed, and stall
while it is full: no `msa` and `mzero.p` in ring mode, no tile of the ring.  Columns, the column-scale record and the old group of `msa`
are read at issue, the model's reading where R239 orders no read (log entry 23).  `mring` in ring mode makes a ring, or puts another in the place of one whose tiles are
all free; one that holds an open or ready tile is busy, and so, in the model's reading, is one whose owner has a product queued (log
entry 24). -/
def Sys2Proof.Claims.MatrixQueuedAlone : Prop :=
  ∀ (s : State) (c : Cx) (k : Skein) (g : Workgroup), c.shaped = true → skOf s c.w = some k → wgOf s c.w = some g →
    c.w.spill = [] → c.w.splits.length = 1 → c.sp.act = allLanes →
    let ring := ringMode s c.w
    (∀ (d a : BitVec 7) (b : BitVec 6) (l : BitVec 4), Ready (.msa d a b l) s c →
      let base := if b = 0 then 0 else (c.sp.scalar b.toNat).toNat
      (ring = true → exec (.msa d a b l) s = (c.settle (.msa d a b l)).trapAt 0x03) ∧
      (ring = false → base % 32 = 0 → base + 32 ≤ windowBytes s c.w → k.scratchPoison = [] →
        Enters (.msa d a b l) s c
          (.msa (c.row a.toNat) (Mem.bytes k.scratch base 32) [] (columnsOf c d.toNat) c.w.mctx.ptile c.w.mctx.status c.w.nextPend)
          (some d.toNat) s c.w.mctx)) ∧
    (Ready .mzeroP s c →
      (ring = true → exec .mzeroP s = (c.settle .mzeroP).trapAt 0x03) ∧
      (ring = false → Enters .mzeroP s c (.zeroP c.w.mctx.status) none s c.w.mctx)) ∧
    (∀ t : BitVec 4, Ready (.mzero t) s c →
      (¬outsideRing g t.toNat → exec (.mzero t) s = (c.settle (.mzero t)).trapAt 0x04) ∧
      (outsideRing g t.toNat → Enters (.mzero t) s c (.zero t.toNat c.w.mctx.status) none s c.w.mctx)) ∧
    (∀ (d : BitVec 7) (t l : BitVec 4),
      (Ready (.mmovToRegisters d t l) s c →
        (¬outsideRing g t.toNat → exec (.mmovToRegisters d t l) s = (c.settle (.mmovToRegisters d t l)).trapAt 0x04) ∧
        (outsideRing g t.toNat →
          Enters (.mmovToRegisters d t l) s c (.toRegs t.toNat c.w.mctx.status c.w.nextPend) (some d.toNat) s c.w.mctx)) ∧
      (Ready (.mmovToTile d t) s c →
        (¬outsideRing g t.toNat → exec (.mmovToTile d t) s = (c.settle (.mmovToTile d t)).trapAt 0x04) ∧
        (outsideRing g t.toNat → Enters (.mmovToTile d t) s c
          (.toTile t.toNat (columnsOf c d.toNat) (c.w.mctx.set && c.w.mctx.ptile == t.toNat) c.w.mctx.status) none s c.w.mctx))) ∧
    (∀ (t : BitVec 4) (a b : BitVec 6), Ready (.mring t a b) s c →
      let n := (c.sp.scalar a.toNat).toNat
      let obj := (c.sp.scalar b.toNat).toNat
      let other (m : Nat) : Prop := ∃ q w, q ∈ g.warps ∧ q ≠ c.wk ∧ Tab.get? s.warps q = some w ∧ w.mctx.set = true ∧
        t.toNat ≤ w.mctx.ptile ∧ w.mctx.ptile < t.toNat + m
      (b ≠ 0 → obj % 16 = 0 ∧ obj + 16 ≤ windowBytes s c.w) →
      let busy : Prop := ∃ r, g.ring = some r ∧ ((∃ x ∈ r.tiles, x ≠ .free) ∨
        ∃ w, Tab.get? s.warps r.owner = some w ∧ ∃ op ∈ w.mqueue, op.opens = true)
      (ring = true → n < 2 ∨ 16 < n ∨ b = 0 ∨ busy ∨ other n → exec (.mring t a b) s = (c.settle (.mring t a b)).trapAt 0x04) ∧
      (ring = false → other 1 ∨ ¬outsideRing g t.toNat → exec (.mring t a b) s = (c.settle (.mring t a b)).trapAt 0x04) ∧
      (ring = true → 2 ≤ n → n ≤ 16 → b ≠ 0 → ¬busy → ¬other n → t.toNat + n ≤ tileAllot s c.w →
        ∃ u, Enters (.mring t a b) s c (.ring none) none u c.w.mctx ∧ { u with wgs := s.wgs } = s ∧
          (∀ m, m ≠ c.w.wg → Tab.get? u.wgs m = Tab.get? s.wgs m) ∧
          let r : Ring := ⟨c.wk, t.toNat, n, 0, 0, c.sp.scalar b.toNat, List.replicate n .free, 0, false⟩
          Tab.get? u.wgs c.w.wg = some { g with ring := some r }) ∧
      (ring = false → ¬other 1 → outsideRing g t.toNat → t.toNat + 1 ≤ tileAllot s c.w →
        let named := if b = 0 then none else some (c.sp.scalar b.toNat)
        Enters (.mring t a b) s c (.ring named) none s { c.w.mctx with set := true, ptile := t.toNat, status := named }))

/-- Element (i, j) of a product (R244): the exact integer sum modulo 2^32 of row i and column j, or their block sum (03_numbers
R68, R69), and nothing else of the operands. -/
def Sys2Proof.Claims.ProductElements : Prop :=
  ∀ (n : Nat) (rows cols : List (List Byte)), n < 12 → rows.length = 96 → cols.length = 32 →
    let f := matForm n
    let y := matProduct f rows cols
    let A (i k : Nat) : Nat := leNat (rows.getD i []) / 2 ^ (f.a.bits * k) % 2 ^ f.a.bits
    let B (j k : Nat) : Nat := leNat (cols.getD j []) / 2 ^ (f.b.bits * k) % 2 ^ f.b.bits
    y.length = 32 ∧ (∀ r ∈ y, r.length = 96) ∧
    ∀ i j, i < 96 → j < 32 →
      elemOf y i j =
        if f.integer then BitVec.ofInt 32 ((List.range f.k).map fun k => f.a.int (A i k) * f.b.int (B j k)).sum
        else BitVec.ofNat 32 (blockSum ((List.range f.k).map fun k => (mulNum (f.a.num (A i k)) (f.b.num (B j k))).1))

/-- The matrix engine executes a warp's oldest entry (R239, R242, R244 to R250), without poison and without an error on the digit
bus: the entry leaves the queue, and the tile, the register group or the warp's P-valid is as the instruction says; a product over a
valid P counts in PDISC of the warp's status object (R265).  That a form which opens a tile does so while an integer tile is still
open is the model's choice (log entry 96). -/
def Sys2Proof.Claims.MatrixExecutesAlone : Prop :=
  ∀ (s : State) (wk : Nat) (w : Warp) (g : Workgroup) (k : Skein) (op : MatOp) (rest : List MatOp),
    Tab.get? s.warps wk = some w → w.mqueue = op :: rest → wgOf s w = some g → skOf s w = some k → k.resident = true →
    Mem.wf g.acc = true → isShadow s w = false →
    let i : Instr := .matrixExecute wk 0
    let taken (t : State) : Prop := ∃ v, Tab.get? t.warps wk = some v ∧ v.mqueue = rest
    let pvalid (t : State) : Option Bool := (Tab.get? t.warps wk).map fun v => v.mctx.pvalid
    let tiles (t : State) (n : Nat) (f : Nat → Nat → Word) : Prop := ∃ g', Tab.get? t.wgs w.wg = some g' ∧
      (∀ r c, r < 96 → c < 32 → elemOf (readTile g' n) r c = f r c) ∧
      ∀ m, m < 16 → m ≠ n → readTile g' m = readTile g m
    (∀ n st, op = .zero n st → ∃ t, exec i s = .next t ∧ taken t ∧ tiles t n fun _ _ => 0) ∧
    (∀ st, op = .zeroP st → ∃ t, exec i s = .next t ∧ taken t ∧ pvalid t = some false ∧ t.wgs = s.wgs) ∧
    (∀ st, op = .ring st → ∃ t, exec i s = .next t ∧ taken t ∧ t.wgs = s.wgs ∧ pvalid t = some (ringMode s w && w.mctx.pvalid)) ∧
    (∀ n c own st, op = .toTile n c own st → ∃ t, exec i s = .next t ∧ taken t ∧ tiles t n (fun r q => elemOf c r q) ∧
      pvalid t = some (own || w.mctx.pvalid)) ∧
    (∀ id (y : Nat → Nat → Word), g.accPoison = [] →
      (∃ n st, op = .toRegs n st id ∧ y = elemOf (readTile g n)) ∨
      (∃ scales cols c p st, op = .msa scales cols [] c p st id ∧ c.length = 32 ∧ (∀ q ∈ c, q.length = 96) ∧
        y = fun r q => BitVec.ofNat 32 (msaElem (elemOf c r q).toNat
          (if w.mctx.pvalid then (elemOf (readTile g p) r q).toNat else 0) ((scales.getD r 0).toNat % 256) (cols.getD q 0).toNat)) ∨
      (∃ n rows cols c z close p st, op = .mma n rows cols [] [] c z close p st (some id) ∧ ringMode s w = false ∧
        rows.length = 96 ∧ cols.length = 32 ∧ c.length = 32 ∧ (∀ q ∈ c, q.length = 96) ∧
        y = fun r q => elemOf c r q + elemOf (matProduct (matForm n) rows cols) r q) →
      ∃ t, exec i s = .next t ∧ taken t ∧
        pvalid t = some (w.mctx.pvalid && !(match op with | .msa _ _ _ _ _ _ _ => true | _ => false)) ∧ ∀ e sp p, Tab.get? w.splits e = some sp → sp.pend = [p] → p.id = id →
        p.inRun = true → 0 < p.window → ∃ v sp' p', Tab.get? t.warps wk = some v ∧ Tab.get? v.splits e = some sp' ∧
          sp'.pend = [p'] ∧ p'.arrived = true ∧ p'.open_ = false ∧
          ∀ r q, r < 96 → q < 32 → resultOf p' q r = some (y r q)) ∧
    (∀ n rows cols c z close p st, op = .mma n rows cols [] [] c z close p st none → ringMode s w = false →
      ∃ t k', exec i s = .next t ∧ taken t ∧ tiles t p (fun r q => elemOf (matProduct (matForm n) rows cols) r q) ∧
        pvalid t = some true ∧ Tab.get? t.skeins g.skein = some k' ∧
        (w.mctx.pvalid = false ∨ st = none → k' = k) ∧
        ∀ a, w.mctx.pvalid = true → st = some a → Mem.wf k.scratch = true →
          let v := Mem.le k.scratch (a.toNat + 8) 8
          Mem.le k'.scratch (a.toNat + 8) 8 =
            v % 2 ^ 11 + v / 2 ^ 48 % 2 ^ 8 * 2 ^ 48 + min 255 (v / 2 ^ 56 + 1) * 2 ^ 56) ∧
    (∀ n rows cols c z close p st, op = .mma n rows cols [] [] c z close p st none → ringMode s w = true →
      ∀ r, g.ring = some r → r.tiles.getD (r.head % r.len) .free ≠ .free → z || !(matForm n).integer →
      exec i s = .next s) ∧
    (∀ n rows cols c z close p st, op = .mma n rows cols [] [] c z close p st none → ringMode s w = true →
      ∀ r, g.ring = some r → r.tiles.getD (r.head % r.len) .free = .free → z || !(matForm n).integer →
      let slot := r.head % r.len
      let closed := close || !(matForm n).integer
      let mark : RingTile := if closed then .ready (if (matForm n).integer then .i32 else .f32) false else .open_
      let r' : Ring :=
        { r with head := r.head + 1, tiles := r.tiles.set slot mark, bits := if closed then 0 else r.bits }
      ∃ t g', exec i s = .next t ∧ taken t ∧ Tab.get? t.wgs w.wg = some g' ∧ g'.ring = some r' ∧
        ∀ i j, i < 96 → j < 32 → elemOf (readTile g' (r.first + slot)) i j = elemOf (matProduct (matForm n) rows cols) i j) ∧
    (∀ n rows cols c close p st, op = .mma n rows cols [] [] c false close p st none → ringMode s w = true →
      (matForm n).integer = true → rows.length = 96 → cols.length = 32 → g.accPoison = [] →
      ∀ r, g.ring = some r → 0 < r.head →
      let slot := (r.head - 1) % r.len
      let mark : RingTile := if close then .ready .i32 false else .open_
      let r' : Ring := { r with tiles := r.tiles.set slot mark, bits := if close then 0 else r.bits }
      ∃ t g', exec i s = .next t ∧ taken t ∧ Tab.get? t.wgs w.wg = some g' ∧ g'.ring = some r' ∧
        ∀ i j, i < 96 → j < 32 → elemOf (readTile g' (r.first + slot)) i j =
          elemOf (readTile g (r.first + slot)) i j + elemOf (matProduct (matForm n) rows cols) i j)

/-- `e.pop` (R254): the tile at TAIL becomes Q with its tag, is freed, and TAIL advances; without a ring the program stops.  While the
tile is open, or is free and the ring's owner may still fill one, the command waits; once the owner has exited with nothing queued and
every tile is free the program stops.  That matrix instructions still queued of an exited owner count as filling is the model's reading
of R254, which speaks of tiles open or ready alone (log entry 25). -/
def Sys2Proof.Claims.RingPops : Prop :=
  ∀ (s : State) (x : Ex), x.shaped = true → EngineReady .ePop s x →
    (x.wg.ring = none → exec .ePop s = x.stop 0x03) ∧
    ∀ r, x.wg.ring = some r →
      let slot := r.tail % r.len
      let left : Prop := ∃ w, Tab.get? s.warps r.owner = some w ∧ (w.launched &&& ~~~w.exited ≠ 0 ∨ w.mqueue ≠ [])
      let filled : Prop := ∃ v ∈ r.tiles, v ≠ .free
      (r.tiles.getD slot .free = .open_ → exec .ePop s = .next x.commit) ∧
      (r.tiles.getD slot .free = .free → left ∨ filled → exec .ePop s = .next x.commit) ∧
      (r.tiles.getD slot .free = .free → ¬left → ¬filled → exec .ePop s = x.stop 0x04) ∧
      (∀ tag, r.tiles.getD slot .free = .ready tag false → x.wg.accPoison = [] →
        ∃ y : Ex, exec .ePop s = .next y.commit ∧ y.s = x.s ∧ y.g = x.g ∧
          y.en = { x.en with q := y.en.q, pc := x.en.pc + 4 } ∧ y.en.q.tag = tag ∧ y.en.q.poison = [] ∧
          (∀ e, e < 3072 → y.en.q.at e = elemOf (readTile x.wg (r.first + slot)) (placeOf e).1 (placeOf e).2) ∧
          y.wg = { x.wg with ring := some { r with tail := r.tail + 1, tiles := r.tiles.set slot .free } })

/-- The commands on W and Q (R255 to R259), on tiles without poison: what becomes of each element and of the tag, and the status
bits; a tag that a command does not take stops the program with TYPE.  The count of a trapping `e.bnd` is the model's (log
entry 31), and so is what `e.cvt` makes of f32 for f32 (log entry 134); that the check of `e.bnd` compares a subnormal as it stands is its
reading (log entry 119), and that a signalling NaN sets NV in `e.bias` and `e.cvt` (log entry 29). -/
def Obligations.TileArithmetic : Prop :=
  ∀ (s : State) (x : Ex) (a b : BitVec 6), x.shaped = true → x.en.w.poison = [] → x.en.q.poison = [] →
    let w := x.en.w
    let q := x.en.q
    let same (t : Tile) : Prop := t = q
    (EngineReady (.eSa 0 a b) s x → OnTiles (.eSa 0 a b) s x 0 fun t u => t = q ∧ same u) ∧
    (EngineReady (.eSa 1 a b) s x →
      (w.tag = .i32 ∧ q.tag = .i32 → OnTiles (.eSa 1 a b) s x 0 fun t u =>
        same u ∧ t.tag = .i32 ∧ t.poison = [] ∧ ∀ e, e < 3072 → t.at e = w.at e + q.at e) ∧
      (w.tag ≠ .i32 ∨ q.tag ≠ .i32 → exec (.eSa 1 a b) s = x.stop 0x06)) ∧
    (∀ (first : Bool) (k : Skein), x.skein = some k → k.scratchPoison = [] →
      let o : BitVec 2 := if first then 3 else 2
      let ra := (x.scalar a.toNat).toNat
      let ca := (x.scalar b.toNat).toNat
      let row (e : Nat) : Byte := Mem.byte k.scratch (ra + (placeOf e).1)
      let col (e : Nat) : Byte := Mem.byte k.scratch (ca + (placeOf e).2)
      let nan : Bool := (List.range 3072).any fun e => row e == 0xFF || col e == 0xFF
      q.tag = .f32 → (first = false → w.tag = .f32) → engineFits x ra 32 96 → engineFits x ca 32 32 →
      EngineReady (.eSa o a b) s x → OnTiles (.eSa o a b) s x (if nan then 8 else 0) fun t u =>
        same u ∧ t.tag = .f32 ∧ t.poison = [] ∧ ∀ e, e < 3072 →
          t.at e = BitVec.ofNat 32 (msaElem (if first then 0 else (w.at e).toNat) (q.at e).toNat (row e).toNat (col e).toNat)) ∧
    (∀ (r : BitVec 1) (k : Skein), x.skein = some k → k.scratchPoison = [] →
      let at_ := (x.scalar a.toNat).toNat
      let bias (e : Nat) : Word := BitVec.ofNat 32 (Mem.le k.scratch (at_ + 4 * (if r = 1 then (placeOf e).1 else (placeOf e).2)) 4)
      EngineReady (.eBias r a) s x →
      (w.tag ≠ .f32 → w.tag ≠ .i32 → exec (.eBias r a) s = x.stop 0x06) ∧
      (engineFits x at_ 4 (if r = 1 then 384 else 128) →
        (w.tag = .i32 → OnTiles (.eBias r a) s x 0 fun t u =>
          same u ∧ t.tag = .i32 ∧ t.poison = [] ∧ ∀ e, e < 3072 → t.at e = w.at e + bias e) ∧
        (w.tag = .f32 →
          OnTiles (.eBias r a) s x (engineFlags (allFlags ((List.range 3072).map fun e => (addF32 (w.at e) (bias e)).2))) fun t u =>
            same u ∧ t.tag = .f32 ∧ t.poison = [] ∧ ∀ e, e < 3072 → t.at e = (addF32 (w.at e) (bias e)).1))) ∧
    (∀ f : BitVec 3, EngineReady (.eAct f) s x → f.toNat < 5 →
      (w.tag ≠ .f32 → exec (.eAct f) s = x.stop 0x06) ∧
      (w.tag = .f32 → OnTiles (.eAct f) s x 0 fun t u =>
        same u ∧ t.tag = .f32 ∧ t.poison = [] ∧ ∀ e, e < 3072 →
          let v := (w.at e).toNat
          t.at e = actElem f.toNat (w.at e) ∧
          (v % 2 ^ 31 > 0x7F800000 → t.at e = 0x7FC00000) ∧
          (v % 2 ^ 31 ≤ 0x7F800000 → (f = 0 → t.at e = w.at e) ∧ (f = 1 → t.at e = if v < 2 ^ 31 then w.at e else 0)) ∧
          (v = 0x7F800000 → t.at e = if f = 4 then 0x3F800000 else 0x7F800000) ∧
          (v = 0xFF800000 → 2 ≤ f.toNat → t.at e = if f = 4 then 0xBF800000 else 0x80000000))) ∧
    (∀ r t : BitVec 3, EngineReady (.eCvt r t) s x → r.toNat < 6 → t.toNat < 6 →
      let target : Tag := match t.toNat with | 0 => .f32 | 1 => .i32 | 2 => .bf16 | 3 => .f16 | 4 => .e4m3 | _ => .e5m2
      (w.tag ≠ .f32 → w.tag ≠ .i32 → exec (.eCvt r t) s = x.stop 0x06) ∧
      (w.tag = .f32 ∨ w.tag = .i32 →
        let y (e : Nat) : Word × Flags := cvtTile w.tag target (rndOfCode r.toNat) (w.at e)
        let bits := engineFlags (allFlags ((List.range 3072).map fun e => (y e).2))
        OnTiles (.eCvt r t) s x bits fun u v => same v ∧ u.tag = target ∧ u.poison = [] ∧ u.elems.length = 3072 ∧
          (∀ e, e < 3072 → u.at e = (y e).1) ∧ (w.tag = .i32 → t = 1 → bits = 0 ∧ u.elems = w.elems))) ∧
    (∀ (n : BitVec 4) (v : Selvedge), x.wg.selvedge[n.toNat]? = some v → v.poison = false → EngineReady (.eBnd n) s x →
      (w.tag ≠ .f32 → exec (.eBnd n) s = x.stop 0x06) ∧
      (w.tag = .f32 →
        let hits := (List.range 3072).countP fun e => outOfBounds v (w.at e)
        let counted (m : Nat) : Workgroup :=
          let u : Selvedge := { v with count := BitVec.ofNat 32 (min (2 ^ 32 - 1) (v.count.toNat + m)) }
          { x.wg with selvedge := x.wg.selvedge.set n.toNat u }
        (v.act = 3 → hits ≠ 0 → exec (.eBnd n) s = Ex.stop { x with wg := counted 1 } 0x0F) ∧
        ((v.act = 3 → hits = 0) → ∃ y : Ex, exec (.eBnd n) s = .next y.commit ∧ y.s = x.s ∧ y.g = x.g ∧ y.wg = counted hits ∧
          y.en.pending = ⟨x.en.pending.bits ||| BitVec.ofNat 64
              (if hits = 0 then 0 else if v.act = 1 then 0x10 else if v.act = 2 then 0x20 else 0), x.en.pending.bndcnt + hits⟩ ∧ y.en.q = q ∧ y.en.pc = x.en.pc + 4 ∧ y.en.w.tag = .f32 ∧
          ∀ e, e < 3072 → y.en.w.at e = boundTo v (w.at e))))

/-- `e.st` and `e.ast` (R260), without poison: into scratchpad the whole tile at once, into global memory one row in a step, `e.ast` a
row line indivisibly, the command completing with the last row; a bad control word, a misaligned base or stride stops the program.
That a row is a step is the model's choice (log entry 26), and that `e.ast` stops with TYPE before it looks at its control word its
reading (log entry 30). -/
def Obligations.TileStores : Prop :=
  ∀ (s : State) (x : Ex) (a b c : BitVec 6) (ast : Bool), x.shaped = true → x.en.w.poison = [] →
    let i : Instr := if ast then .eAst a b c else .eSt a b c
    let w := x.en.w
    let n := tagBytes w.tag
    let base := pair (x.scalar a.toNat) (x.scalar (a.toNat + 1))
    let stride := (x.scalar b.toNat).toNat
    let addr (r q : Nat) : DWord := base + BitVec.ofNat 64 (r * stride + q * n)
    EngineReady i s x →
    (ast = true → w.tag ≠ .i32 → w.tag ≠ .f32 → exec i s = x.stop 0x06) ∧ ((ast = true → w.tag = .i32 ∨ w.tag = .f32) →
    (storeControl (x.scalar c.toNat).toNat = none → exec i s = x.stop 0x04) ∧
    ∀ scratch rows cols, storeControl (x.scalar c.toNat).toNat = some (scratch, rows, cols) →
      let align := if ast && !scratch then 128 else n
      (base.toNat % align ≠ 0 ∨ stride % align ≠ 0 → exec i s = x.stop 0x08) ∧
      (base.toNat % align = 0 → stride % align = 0 →
        (∀ k, scratch = true → x.en.progress = 0 → x.skein = some k → Mem.wf k.scratch = true → k.scratchPoison = [] → cols * n ≤ stride →
          base.toNat + rows * stride ≤ x.window →
          ∃ (y : Ex) (k' : Skein), exec i s = .next y.commit ∧ y.g = x.g ∧ y.wg = x.wg ∧ skeinChanged s y.s x.wg.skein k' ∧
            { y.en with pending := x.en.pending } =
              { x.en with pc := x.en.pc + 4, unack := x.en.unack.map fun u => u + rows * cols } ∧
            (w.tag = .i32 ∨ ast = false → y.en.pending = x.en.pending) ∧
            (∀ r q, r < rows → q < cols → Mem.le k'.scratch (addr r q).toNat n =
              if ast then (combineElem w.tag (BitVec.ofNat 32 (Mem.le k.scratch (addr r q).toNat 4)) (w.at (32 * r + q))).1.toNat
              else (w.at (32 * r + q)).toNat % 2 ^ (8 * n)) ∧
            ∀ z, (∀ r, r < rows → z < (addr r 0).toNat ∨ (addr r 0).toNat + cols * n ≤ z) →
              Mem.byte k'.scratch z = Mem.byte k.scratch z) ∧
        ∀ (t : State) (r : Nat), scratch = false → r < rows →
          let rowDone (units : Nat) : Prop := ∃ y : Ex, y.s = t ∧ y.g = x.g ∧
            y.en.unack = x.en.unack.map (fun u => u + cols) ∧ y.en.w = x.en.w ∧ y.en.scalars = x.en.scalars ∧
            (r + 1 < rows → exec i s = .next { y.commit with focus := .engine x.g } ∧ y.en.progress = (r + 1) * units ∧
              y.en.pc = x.en.pc) ∧
            (r + 1 = rows → exec i s = .next y.commit ∧ y.en.progress = 0 ∧ y.en.pc = x.en.pc + 4)
          (ast = false → x.en.progress = r * cols →
            storedAll (enginePartyOf s x.wg) (engineKey x.g) s
              ((List.range cols).map fun q => (addr r q, leBytes n (w.at (32 * r + q)).toNat)) = some t → rowDone cols) ∧
          (ast = true → x.en.progress = r → lineObstacle s (enginePartyOf s x.wg) w (addr r 0) = none →
            addedAll (enginePartyOf s x.wg) (engineKey x.g) w.tag s
              ((List.range cols).map fun q => (addr r q, w.at (32 * r + q))) = some t → rowDone 1)))

/-- `e.arv`, `e.wait`, `e.br` and `e.end` (R261).  `e.arv` is stated of a poisoned object too (the model's reading of 25_reliability
R345, log entry 135), `e.wait` of one without poison. -/
def Sys2Proof.Claims.EngineSynchronisationAlone : Prop :=
  ∀ (s : State) (x : Ex), x.shaped = true →
    (∀ (a b : BitVec 6) (k : Skein), EngineReady (.eArv a b) s x → x.skein = some k → Mem.wf k.scratch = true →
      let addr := (x.scalar b.toNat).toNat
      engineFits x addr 16 16 →
      (x.en.unack.getD 1 0 ≠ 0 → exec (.eArv a b) s = .next x.commit) ∧
      (x.en.unack.getD 1 0 = 0 →
        let old := barrierAt k.scratch addr
        let status := (old.2.2.2 % 2 ^ 11 ||| x.en.pending.bits.toNat % 2 ^ 11) +
          min 255 (old.2.2.2 / 2 ^ 48 % 256 + x.en.pending.bndcnt) * 2 ^ 48 + old.2.2.2 / 2 ^ 56 * 2 ^ 56
        ∃ (y : Ex) (k' : Skein), exec (.eArv a b) s = .next y.commit ∧ y.g = x.g ∧ y.wg = x.wg ∧ skeinChanged s y.s x.wg.skein k' ∧
          barrierAt k'.scratch addr = arrivedAt (old.1, old.2.1, old.2.2.1, status) 1 ∧
          (∀ z, z < addr ∨ addr + 16 ≤ z → Mem.byte k'.scratch z = Mem.byte k.scratch z) ∧
          y.en.pending = ⟨0, 0⟩ ∧ y.en.pc = x.en.pc + 4 ∧
          ∀ m, m < 64 → y.scalar m = if m = a.toNat ∧ m ≠ 0 then BitVec.ofNat 32 old.1 else x.scalar m)) ∧
    (∀ (a b c : BitVec 6) (k : Skein), EngineReady (.eWait a b c) s x → wellFormed (.eWait a b c) = true → x.skein = some k →
      k.scratchPoison = [] →
      let addr := (x.scalar b.toNat).toNat
      let phase := Mem.le k.scratch (addr + 6) 2
      engineFits x addr 16 16 →
      (phase = (x.scalar c.toNat).toNat → exec (.eWait a b c) s = .next x.commit) ∧
      (phase ≠ (x.scalar c.toNat).toNat → ∃ y : Ex, exec (.eWait a b c) s = .next y.commit ∧ engineKeeps x y ∧
        ∀ m, m < 64 → y.scalar m =
          if m = 0 then x.scalar m
          else if m = a.toNat then BitVec.ofNat 32 (Mem.le k.scratch (addr + 8) 8 % 2 ^ 11)
          else if m = a.toNat + 1 then BitVec.ofNat 32 (Mem.le k.scratch (addr + 8) 8 / 2 ^ 48 * 2 ^ 16) else x.scalar m)) ∧
    (∀ (a : BitVec 6) (o : BitVec 12), EngineReady (.eBr a o) s x →
      exec (.eBr a o) s = .next (Ex.commit { x with en := { x.en with
        pc := x.en.pc + (if a = 0 ∨ x.scalar a.toNat ≠ 0 then BitVec.ofInt 64 (4 * o.toInt) else 4) } })) ∧
    (EngineReady .eEnd s x →
      (x.en.unack.getD 0 0 ≠ 0 → exec .eEnd s = .next x.commit) ∧
      (x.en.unack.getD 0 0 = 0 → ∃ t g, exec .eEnd s = .next t ∧ Tab.get? t.wgs x.g = some g ∧
        { g with engine := x.wg.engine, endPair := x.wg.endPair, endPoison := x.wg.endPoison } = x.wg ∧
        g.endPair = (x.scalar 2, x.scalar 3) ∧ g.engineRuns = false ∧
        (x.wg.ring = none → t.skeins = s.skeins)))

/-- A stop of an engine program (R262): it runs no more, CTL_EST records cause and offset, and `rdv` finds its pair. -/
def Sys2Proof.Claims.EngineStops : Prop :=
  ∀ (s : State) (x : Ex) (cause : Nat), running s = some x → cause < 256 →
    ∃ t g, x.stop cause = .next t ∧ t.focus = .none ∧ Tab.get? t.wgs x.g = some g ∧ g.engineRuns = false ∧
      g.endPair = (x.scalar 2, x.scalar 3) ∧ g.est.toNat / 2 ^ 24 = cause ∧
      g.est.toNat / 2 ^ 8 % 2 ^ 16 = (x.en.pc.setWidth 57 - x.en.entry.setWidth 57).toNat / 4 % 2 ^ 16 ∧
      g.est.toNat % 256 = 2 ∧ (x.wg.ring = none →
        (∀ k l, cause = 0x10 → x.skein = some k → Tab.get? s.launches k.launch = some l → l.kernel.snapshot = false) →
        t.skeins = s.skeins)

namespace Sys2Proof.Claims

open Sys2Proof.Machine

/-- A command leaves with status bits and a fault (11_memory R205, R206): its number is complete at its counter, its barrier
object has the status and one arrival, the first fault of the workgroup is recorded, and the command is gone. -/
def CommandEnds (s t : State) (n : Nat) (x : Cmd) (bits : Nat) (fault : Option Nat) : Prop :=
  Tab.get? t.cmds n = none ∧ (∀ k, k ≠ n → Tab.get? t.cmds k = Tab.get? s.cmds k) ∧
  t.warps = s.warps ∧ t.mem = s.mem ∧ t.host = s.host ∧ t.net = s.net ∧
  ∀ g m, Tab.get? s.wgs x.wg = some g → g.counters[x.counter]? = some m →
    (∃ g', Tab.get? t.wgs x.wg = some g' ∧ g'.counters = g.counters.set x.counter (m.complete x.number) ∧
      { g' with counters := g.counters, cpyflt := g.cpyflt, cpyfln := g.cpyfln } = g ∧
      (fault = none ∨ g.cpyflt.getLsbD 3 = true → g'.cpyflt = g.cpyflt ∧ g'.cpyfln = g.cpyfln) ∧
      ∀ cause, fault = some cause → g.cpyflt.getLsbD 3 = false →
        g'.cpyflt = BitVec.ofNat 32 (cause * 2 ^ 24 + 8 + x.counter) ∧ g'.cpyfln = BitVec.ofNat 32 x.number) ∧
    (x.barrier = none → t.skeins = s.skeins) ∧
    ∀ a k, x.barrier = some a → Tab.get? s.skeins g.skein = some k → Mem.wf k.scratch = true →
      let o := barrierAt k.scratch a.toNat
      ∃ k', skeinChanged { s with wgs := t.wgs, cmds := t.cmds, xlate := t.xlate } t g.skein k' ∧
        barrierAt k'.scratch a.toNat =
          arrivedAt (o.1, o.2.1, o.2.2.1, (o.2.2.2 / 2 ^ 48 * 2 ^ 48 + o.2.2.2 % 2 ^ 11) ||| bits) 1

/-- `cpy` and `cpyz` with an extent of 0, `xat.expr` of COUNT 0, `xat.fill`, `xat.copy` and `mrelay` of length 0 (R204, R211, R311,
R335): the command takes its number and completes at once, in number order, with status 0 and its arrival; nothing is translated, in
a snapshot launch too, where a relay traps. -/
def EmptyCommands : Prop :=
  ∀ (i : Instr) (s : State) (c : Cx) (sk : Skein) (g : Workgroup) (m : Milestone) (f : CommandForm),
    skOf s c.w = some sk → wgOf s c.w = some g → commandForm i c sk m = some f → g.counters[f.counter]? = some m →
    wellFormed i = true → c.shaped = true → Ready i s c → c.w.unack.getD f.scope 0 = 0 → commandPasses i c sk →
    nothingToDo f.kind → (isSnapshot s c.w = true → ∀ d e n, f.kind ≠ .relay d e n) →
    (f.number = 0 ∨ passes2 c f.number (BitVec.ofNat 32 (m.issued + 1)) (BitVec.ofNat 32 ((m.issued + 1) / 2 ^ 32))) →
    numbered i s c f.number (m.issued + 1) fun e =>
      ∃ t, commandIssued c t m f ∧ t.net = s.net ∧ CommandEnds t e.s s.fresh (commandOf c m f) 0 none

/-- The status of a command in a launch that stops: ABORT (17_scheduling R283), but nothing where the launch is rolled back
(25_reliability R352). -/
def abortBits (s : State) (x : Cmd) : Nat :=
  if (cmdLaunch s x).any fun l => l.rollbackWanted then 0 else 0x200

/-- The invalidations under way wait for n acknowledgements at dev scope of a party fewer (19_translation R290; log entry 93). -/
def writesSeen (s t : State) (party n : Nat) : Prop :=
  t.xlate.invalidations = s.xlate.invalidations.map fun i =>
    { i with writes := i.writes.map fun x => (x.1, if x.1 = party then x.2 - n else x.2) }

/-- Every field of a packet fits in its bits, and its payload in 4,096 bytes (23_pod R337). -/
def wireFits (p : Packet) : Prop :=
  p.dep < 2 ^ 22 ∧ p.sep < 2 ^ 22 ∧ p.tenant < 2 ^ 16 ∧ p.conn < 2 ^ 16 ∧ p.psn < 2 ^ 32 ∧ p.msn < 2 ^ 32 ∧ p.win < 2 ^ 4 ∧
  p.roff < 2 ^ 40 ∧ p.mlen < 2 ^ 32 ∧ p.poff < 2 ^ 32 ∧ p.payload.length ≤ 4096

/-- A packet arrives at an open connection: for this package's endpoint and the Reltex port, from the remote endpoint (23_pod
R336, R337). -/
def arrivesFor (s : State) (p : Packet) (x : Conn) : Prop :=
  wireFits p ∧ Tab.get? s.net.conns p.conn = some x ∧ x.failed = false ∧ p.dport = 19511 ∧ p.dep = s.net.epid ∧
  p.sep = x.binding.remoteEndpoint

/-- One answer more leaves a connection: an acknowledgement of a packet's PSN to the remote endpoint, or a refusal, with the
echo of its congestion mark (23_pod R338 to R340; log entry 101). -/
def answered (s : State) (x y : Conn) (p : Packet) (refused : Bool) : Prop :=
  ∃ a : ReltexAck, y.acks = x.acks ++ [a] ∧ a.refused = refused ∧ a.ecn = p.ce ∧ a.pkt.op = .acknowledgement ∧ a.pkt.psn = p.psn ∧
    a.pkt.conn = x.binding.remoteConn ∧ a.pkt.dep = x.binding.remoteEndpoint ∧ a.pkt.sep = s.net.epid ∧ a.pkt.payload = []

/-- Nothing but the translation caches and the record of invalidations differs. -/
def invalidatedIn (s t : State) : Prop :=
  { t with xlate := s.xlate } = s ∧
  { t.xlate with
    ats := s.xlate.ats
    baseDie := s.xlate.baseDie
    invalidations := s.xlate.invalidations
    invalidated := s.xlate.invalidated
    flushed := s.xlate.flushed } = s.xlate

/-- Nothing is under way that an invalidation waits for: no write unacknowledged at dev scope, no near-memory operation, no
queue instruction and no contribution (19_translation R290; log entry 93). -/
def nothingUnderWay (s : State) : Prop :=
  s.nearOps = [] ∧ s.net.queueOps = [] ∧ contributions s = [] ∧ (∀ w ∈ s.warps, partyWrites s w.1 = 0) ∧ ∀ g ∈ s.wgs, partyWrites s (engineKey g.1) = 0

/-- What the refusal of an access leaves of the one who waits for it (11_memory R190, 17_scheduling R272, 19_translation R294,
R295): a trap, a fault of a run, a command that faults, or stops at the refused byte where bytes before it are still to send or to
come (23_pod R341), a stopped engine program, or the record that a walker or retirement meets next.  That a command of a cancelled launch ends with ABORT whatever its kind, where 17_scheduling R283 speaks of copy commands, is the
model's choice (log entry 112); the window and the EXEC of a refused lane's entry are its reading (log entries 21 and 106). -/
def RefusedWaiter (s : State) (w : Waiter) (va : DWord) (cause : Nat) (out : Out) : Prop :=
  let freed : State := { s with xlate := { s.xlate with held := [] } }
  match w with
  | .retire n => ∀ l, Tab.get? s.launches n = some l → ∃ t, out = .next t ∧ t.xlate.held = [] ∧
      Tab.get? t.launches n = some { l with doneCause := some cause }
  | .queue q => ∀ x, Tab.get? s.queues q = some x → ∃ t, out = .next t ∧ t.xlate.held = [] ∧
      Tab.get? t.queues q = some { x with denied := true }
  | .graph g => ∀ x, Tab.get? s.graphs g = some x → ∃ t, out = .next t ∧ t.xlate.held = [] ∧
      Tab.get? t.graphs g = some { x with denied := true }
  | .engine g => ∀ x e, Tab.get? s.wgs g = some x → x.engine = some e → ∃ t, out = .next t ∧ t.xlate.held = [] ∧
      Tab.get? t.wgs g = some { x with engine := some { e with refused := some cause } }
  | .stalled wk e => ∀ c, cxOf s wk e = some c → c.sp.status = .stalled → ∃ t d, out = .next t ∧ t.xlate.held = [] ∧
      cxOf t wk e = some d ∧ d.sp = { c.sp with stall := .refused cause, status := .ready, readyAt := s.ticks }
  | .fetch wk e => ∀ c, cxOf freed wk e = some c → trapsNow c → c.sp.stall ≠ .denied cause → out = c.trapBefore cause true
  | .network _ => out = .next freed
  | .command n => ∀ x, Tab.get? s.cmds n = some x →
      (cmdCancelled s x = true → ∃ t, out = .next t ∧ CommandEnds s t n x (abortBits s x) none) ∧
      let later : Prop := match x.kind with
        | .nput _ _ _ _ _ _ => True
        | .nget a _ _ _ _ _ => x.progress < (va - a).toNat
        | _ => False
      (cmdCancelled s x = false → x.issuer = none → ¬later →
        ∃ t, out = .next t ∧ CommandEnds s t n x (1 + if x.poison then 2 else 0) (some cause)) ∧
      (cmdCancelled s x = false → x.issuer = none → later →
        ∃ t, out = .next t ∧ t.xlate.held = [] ∧ Tab.get? t.cmds n = some { x with phase := .stopped cause va }) ∧
      ∀ e0 l v e sp, cmdCancelled s x = false → x.issuer = some (e0, l) → Tab.get? s.warps x.warp = some v →
        v.splits = [(e, sp)] → v.spill = [] → sp.lanes.getLsbD l = true →
        ∃ t u, out = .next t ∧ Tab.get? t.warps x.warp = some u ∧ { u with splits := v.splits } = v ∧
          u.splits = [(e, { sp with faults := sp.faults ++ [nearEntry n x cause va] })] ∧
          Tab.get? t.cmds n = some { x with phase := .sent, issuer := none }
  | .lanes wk pend _ reqs pc opcode _ => ∀ v e sp r, Tab.get? s.warps wk = some v → v.splits = [(e, sp)] → e < 8 → v.spill = [] →
      sp.pend = [] → sp.faults = [] → pend = none → reqs.head? = some r → (∀ q ∈ reqs, sp.lanes.getLsbD q.lane = true) →
      reqs.Pairwise (fun a b => a.lane < b.lane) →
      ∃ t u sp' f, out = .next t ∧ t.xlate.held = [] ∧ Tab.get? t.warps wk = some u ∧ u.splits = [(e, sp')] ∧ sp'.faults = [f] ∧
        { sp' with faults := sp.faults } = sp ∧ f.cause = cause ∧ f.pc = pc ∧ f.opcode = opcode ∧ f.addr = r.va ∧
        f.reqs = reqs.map (fun q => { q with fault := cause }) ∧ f.exec = r.again ∧ f.window = r.again.map fun _ => 0

/-- The memory of a module and its grants, but for what is said of it. -/
def moduleIn (t : State) (m : Nat) (f : Module → Prop) : Prop := ∃ x, Tab.get? t.net.modules m = some x ∧ f x

end Sys2Proof.Claims

/-- The issue selector and the fetch of a run (01_machine R22, 09_control R151, 17_scheduling R278): a quarter with one split to
issue issues it; a run is fetched whole into a free slot, that of a stalled split too, and a fetch that faults, or whose page has
been refused, traps at its start, or, where the run is resumed in its middle, at the word where it stood (the model's reading, log
entry 64). -/
def Sys2Proof.Claims.SelectionAndFetchAlone : Prop :=
  (∀ (s : State) (q wk e : Nat) (w : Warp) (sp : Split), Tab.get? s.warps wk = some w → w.core = q / 4 → w.quarter = q % 4 →
    mayIssue s w = true → w.splits = [(e, sp)] → w.spill = [] → sp.selectable = true →
    (∀ x ∈ s.warps, x.1 ≠ wk → x.2.core = q / 4 → x.2.quarter = q % 4 → ∀ p ∈ x.2.splits, p.2.selectable = false) →
    (∀ x ∈ s.warps, x.1 = wk → x.2 = w) →
    ∃ t c, exec (.issueSelector q) s = .next t ∧ t.focus = .split wk e ∧ cxOf t wk e = some c ∧
      c.sp = { sp with
        status := .issuing
        yielded := false
        readyAt := s.ticks
        stall := if sp.stall = .issued then .none else sp.stall } ∧
      { t with warps := s.warps, skeins := s.skeins, focus := s.focus } = s) ∧
  (∀ (s : State) (wk e : Nat) (c : Cx) (b : BufferSlot), cxOf s wk e = some c → c.sp.wantsFetch = true →
    (∀ h ∈ s.xlate.held, h.2.waiter ≠ .fetch wk e) →
    (∀ cause, c.sp.stall = .denied cause → trapsNow c →
      exec (.runFetch wk e) s = Cx.trapBefore { c with sp := { c.sp with stall := .none } } cause true) ∧
    ((∀ cause, c.sp.stall ≠ .denied cause) → freeSlot s c.w = some b →
    (∀ s1 ws d, fetchRun (partyOf s c.w) 24 s c.sp.run.start = .ok s1 ws → cxOf s1 wk e = some d →
      ∃ t u, exec (.runFetch wk e) s = .next t ∧ cxOf t wk e = some u ∧ u.sp.run.words = ws ∧ u.sp.run.slot = some b ∧
        u.sp.run.start = d.sp.run.start ∧ u.sp.status = (if d.sp.status = .stalled then .stalled else .ready) ∧
        { t with warps := s1.warps } = s1) ∧
    (∀ cause, fetchRun (partyOf s c.w) 24 s c.sp.run.start = .fault cause →
      exec (.runFetch wk e) s = Cx.trapBefore { c with sp := { c.sp with status := .ready } } cause true)))

/-- Results and acknowledgements arrive (05_encoding R84, 13_consistency R218, 11_memory R209): a result whose window has closed
is written back where it has a value; an acknowledgement at a scope counts at every narrower one, and markers see it, but for the
earlier accesses that still wait in the fault buffer. -/
def Sys2Proof.Claims.Arrivals : Prop :=
  (∀ (s : State) (wk e : Nat) (w : Warp) (sp : Split) (p : Pend), Tab.get? s.warps wk = some w → e < 8 → w.splits = [(e, sp)] →
    w.spill = [] → sp.pend = [p] → p.held = 0 → p.open_ = false → p.done = false → p.window = 0 → p.inRun = false →
    p.mismatch = false → p.dest.vector = true → (∀ k, p.kept.getD k 0 = 0) → (∀ r ∈ w.vregs, r.2.length = 96) →
    (∀ f ∈ sp.faults, f.pend ≠ some p.id) →
    ∃ t v sp', exec (.longLatencyWriteback wk p.id) s = .next t ∧ Tab.get? t.warps wk = some v ∧ v.splits = [(e, sp')] ∧
      sp'.pend = [] ∧ { sp' with pend := sp.pend } = sp ∧
      ∀ r l, l < 96 → (Tab.getD v.vregs r zeroRow).getD l 0 =
        match (if p.dest.base ≤ r ∧ r < p.dest.base + p.dest.count then
          (p.rows.getD (r - p.dest.base) []).getD l none else none) with
        | some x => x.1
        | none => (Tab.getD w.vregs r zeroRow).getD l 0) ∧
  (∀ (s : State) (wk scope : Nat) (w : Warp), wk < 2 ^ 65 → Tab.get? s.warps wk = some w → w.unack.length = 5 → scope < 5 →
    heldCount s wk < w.unack.getD scope 0 →
    let n := w.unack.getD scope 0 - 1
    let after (j : Nat) : Nat :=
      if j = scope then n else if j < scope then min (w.unack.getD j 0) n else w.unack.getD j 0
    ∃ t v, exec (.writeAcknowledged wk scope) s = .next t ∧ Tab.get? t.warps wk = some v ∧ { v with unack := w.unack } = w ∧
      (∀ j, j < 5 → v.unack.getD j 0 = after j) ∧ (∀ k, k ≠ wk → Tab.get? t.warps k = Tab.get? s.warps k) ∧
      { t with warps := s.warps, cmds := s.cmds, xlate := s.xlate } = s ∧
      { t.xlate with invalidations := s.xlate.invalidations } = s.xlate ∧
      writesSeen s t wk (w.unack.getD 2 0 - after 2) ∧
      ∀ c x, Tab.get? s.cmds c = some x →
        (∀ need sc earlier, x.warp = wk → x.kind = .marker need sc earlier → sc < 5 →
          Tab.get? t.cmds c = some { x with
            kind := .marker (max (need - (w.unack.getD sc 0 - after sc)) (heldBefore s wk c)) sc earlier }) ∧
        (x.warp ≠ wk → Tab.get? t.cmds c = some x)) ∧
  (∀ (s : State) (g scope : Nat) (x : Workgroup) (e : Engine), Tab.get? s.wgs g = some x → x.engine = some e → e.unack.length = 5 →
    scope < 5 →
    ∃ t y e', exec (.writeAcknowledged (engineKey g) scope) s = .next t ∧ Tab.get? t.wgs g = some y ∧ y.engine = some e' ∧
      { y with engine := x.engine } = x ∧ { e' with unack := e.unack } = e ∧
      e'.unack.getD scope 0 = e.unack.getD scope 0 - 1 ∧ { t with wgs := s.wgs, xlate := s.xlate } = s ∧
      { t.xlate with invalidations := s.xlate.invalidations } = s.xlate ∧
      writesSeen s t (engineKey g) (e.unack.getD 2 0 - e'.unack.getD 2 0))

/-- Copy commands, relays and markers complete (R205, R206, R209): with all elements moved, with the fault that stopped them,
with ABORT in a cancelled launch (17_scheduling R283), relays too, of which R283 does not speak (the model's choice, log entry 112); a
marker once its writes are acknowledged and earlier commands complete. -/
def Obligations.CommandsComplete : Prop :=
  ∀ (s : State) (n : Nat) (x : Cmd), Tab.get? s.cmds n = some x →
    (∀ total, copyTotal x.kind = some total →
      (cmdCancelled s x = true → ∃ t, exec (.copyCommandComplete n) s = .next t ∧ CommandEnds s t n x (abortBits s x) none) ∧
      (cmdCancelled s x = false → cmdHeld s n = false → cmdPaused s x = false →
        let r := copyFrom s (cmdParty s x) n x (total - x.progress) x.progress s x.poison
        let bits := if r.poison then 2 else 0
        (r.stop = none → ∃ t, exec (.copyCommandComplete n) s = .next t ∧ CommandEnds r.s t n x bits none) ∧
        (∀ cause a, r.stop = some (.stop cause a) →
          ∃ t, exec (.copyCommandComplete n) s = .next t ∧ CommandEnds r.s t n x (1 + bits) (some cause)))) ∧
    (∀ need scope earlier g m, x.kind = .marker need scope earlier → Tab.get? s.wgs x.wg = some g →
      g.counters[x.counter]? = some m →
      (need = 0 → earlier ≤ m.done → ∃ t, exec (.mstepComplete n) s = .next t ∧ CommandEnds s t n x 0 none) ∧
      (need ≠ 0 ∨ m.done < earlier → exec (.mstepComplete n) s = .next s))

/-- Near-memory commands (21_near_memory R311, R317, R320): they complete when their last element or block is done, a row
transfer goes block by block, and one stopped at an absent translation is a trap of a split of its warp: of which, the model
chooses (log entry 20).  That a cancelled one ends at once with ABORT is the model's choice too, 17_scheduling R283 speaking of
copy commands (log entry 112). -/
def Sys2Proof.Claims.NearCommandsAlone : Prop :=
  ∀ (s : State) (n : Nat) (x : Cmd), Tab.get? s.cmds n = some x → x.kind.near = true → cmdHeld s n = false →
    cmdPaused s x = false →
    let total := nearTotal x.kind
    (cmdCancelled s x = true → ∃ t, exec (.nearCommandComplete n) s = .next t ∧ CommandEnds s t n x (abortBits s x) none) ∧
    (∀ r, cmdCancelled s x = false → x.phase = .active → x.progress ≤ total →
      r = nearFrom s (cmdParty s x) n x (total - x.progress) x.walked x.progress s → r.bar = .none →
      ∃ t, exec (.nearCommandComplete n) s = .next t ∧ CommandEnds r.s t n x 0 none) ∧
    (∀ r, (∀ d, x.kind ≠ .expr d) → x.phase = .active → x.progress < total →
      r = nearFrom s (cmdParty s x) n x 1 x.walked x.progress s → r.bar = .none →
      ∃ t, exec (.rowTransferBlockCommit n) s = .next t ∧
        (x.progress + 1 = total → CommandEnds r.s t n x 0 none) ∧
        (∀ y, x.progress + 1 < total → Tab.get? r.s.cmds n = some y →
          Tab.get? t.cmds n = some { y with progress := x.progress + 1, walked := r.walked, issuer := none } ∧
            { t with cmds := r.s.cmds } = r.s)) ∧
    (∀ cause a w e c, x.phase = .stopped cause a → Tab.get? s.warps x.warp = some w → w.launched &&& ~~~w.exited ≠ 0 →
      stopTaker w = some e → cxOf s x.warp e = some c → trapsNow c → w.far = none → c.sp.trap.handler = false → c.tvec ≠ 0 →
      ∃ t d, exec (.nearProgress n) s = .next t ∧ cxOf t x.warp e = some d ∧ d.sp.trap.handler = true ∧ d.sp.trap.cause = 0x15 ∧
        d.sp.trap.tpc = c.here ∧ d.sp.trap.nent = 1 ∧ d.sp.pc = c.tvec ∧ d.sp.mode = 0 ∧
        Tab.get? t.cmds n = some { x with phase := .sent })

/-- A return-free near-memory operation is performed at its unit (R308, R196, R306): its word takes the operation's value, and
the operation is gone. -/
def Sys2Proof.Claims.NearOperations : Prop :=
  ∀ (s : State) (n : Nat) (x : NearOp) (op ty : Nat), Tab.get? s.nearOps n = some x → x.kind = .rmw op ty true false →
    Mem.wf s.mem = true → s.memPoison = [] →
    let b := if isWide64 ty then 8 else 4
    (∀ p ∈ s.nearOps, p.1 < n → p.2.warp = x.warp → p.2.pa + p.2.kind.bytes ≤ x.pa ∨ x.pa + b ≤ p.2.pa) →
    ∃ t, exec (.nearOperationPerformed n) s = .next t ∧ Tab.get? t.nearOps n = none ∧
      (∀ k, k ≠ n → Tab.get? t.nearOps k = Tab.get? s.nearOps k) ∧
      Mem.le t.mem x.pa b = atomNew op ty (Mem.le s.mem x.pa b) (x.req.data.toNat % 2 ^ (8 * b))
        (x.req.data2.toNat % 2 ^ (8 * b)) % 2 ^ (8 * b) ∧
      (∀ a, a < x.pa ∨ x.pa + b ≤ a → Mem.byte t.mem a = Mem.byte s.mem a) ∧
      { t with mem := s.mem, memPoison := s.memPoison, nearOps := s.nearOps } = s

/-- Far calls on the way (09_control R165 to R170): a call is entered as executing in a free entry of the reply cache, and starts
its far task in a free slot; with every slot taken it waits as entered, with every entry taken before that; it replies at once for an
entry that is no address; a repeated call executes nothing again, whether its reply is there or still to come; replies reach the slot
that awaits them, and are discarded where its millisecond is over; timers and stops; a fenced core takes no call that it does not have (25_reliability R354). -/
def Obligations.FarTasks : Prop :=
  (∀ (s : State) (n core : Nat) (m : CallMsg), Tab.get? s.callMsgs n = some m →
    320 ≤ core ∨ s.plat.fenced.contains (.core core) = true ∧ (∀ x, Tab.get? s.targets core = some x →
      (∀ e ∈ x.cache, e.2.caller ≠ m.caller ∨ e.2.seq ≠ m.seq) ∧ ∀ y ∈ x.waiting, y.caller ≠ m.caller ∨ y.seq ≠ m.seq) →
    exec (.farCallArrival n core) s = .next s) ∧
  (∀ (s : State) (n core : Nat) (m : CallMsg), Tab.get? s.callMsgs n = some m → core < 320 →
    s.plat.fenced.contains (.core core) = false →
    ((∀ x, Tab.get? s.targets core = some x → x.waiting = [] ∧ x.cache = [] ∧ x.entered = []) →
      (farRunning s core < 4 → canonical m.entry = true →
        ∃ t w sp, exec (.farCallArrival n core) s = .next t ∧ Tab.get? t.callMsgs n = none ∧
          (∃ y, Tab.get? t.targets core = some y ∧ y.waiting = [] ∧ y.entered = [] ∧
            y.cache = [(s.fresh, ⟨m.caller, m.seq, m.asid, none, 0⟩)]) ∧
          Tab.get? t.warps (2 ^ 64 + (s.fresh + 1)) = some w ∧
          w.far = some ⟨m.caller, m.seq, core, m.asid, s.timer, m.launch, none⟩ ∧ w.core = core ∧ w.launched = 0xFF ∧
          w.splits = [(0, sp)] ∧ sp.pc = m.entry.setWidth 57 ∧ sp.lanes = 0xFF ∧ sp.act = 0xFF ∧ sp.mode = 0 ∧
          sp.scalar 14 = m.addr.setWidth 32 ∧ sp.scalar 15 = (m.addr >>> 32).setWidth 32 ∧
          (∀ k, k < 14 → sp.scalar k = 0) ∧ ∀ k, k < 16 → sp.scalar (16 + k) = m.payload.getD k 0) ∧
      (farRunning s core < 4 → canonical m.entry = false →
        ∃ t, exec (.farCallArrival n core) s = .next t ∧ t.warps = s.warps ∧
          ∃ r, Tab.get? t.replyMsgs (s.fresh + 2) = some r ∧ r.caller = m.caller ∧ r.seq = m.seq ∧ r.status = 1 ∧
            r.cause = 0x22) ∧
      (4 ≤ farRunning s core →
        ∃ t x, exec (.farCallArrival n core) s = .next t ∧ t.warps = s.warps ∧ Tab.get? t.targets core = some x ∧
          x.waiting = [] ∧ x.entered = [m] ∧ x.cache = [(s.fresh, ⟨m.caller, m.seq, m.asid, none, 0⟩)])) ∧
    (∀ x, Tab.get? s.targets core = some x → x.waiting = [] → 64 ≤ x.cache.length →
      (∀ e ∈ x.cache, e.2.caller ≠ m.caller ∨ e.2.seq ≠ m.seq) →
      ∃ t, exec (.farCallArrival n core) s = .next t ∧ t.warps = s.warps ∧
        Tab.get? t.targets core = some { x with waiting := [m] }) ∧
    (∀ x k e, Tab.get? s.targets core = some x → x.waiting = [] → x.cache = [(k, e)] → e.caller = m.caller → e.seq = m.seq →
      e.reply = none → ∃ t, exec (.farCallArrival n core) s = .next t ∧ t.warps = s.warps ∧ t.targets = s.targets ∧
        t.replyMsgs = s.replyMsgs ∧ Tab.get? t.callMsgs n = none) ∧
    (∀ x k e r, Tab.get? s.targets core = some x → x.waiting = [] → x.cache = [(k, e)] → e.caller = m.caller → e.seq = m.seq →
      e.reply = some r → ∃ t, exec (.farCallArrival n core) s = .next t ∧ t.warps = s.warps ∧
        Tab.get? t.replyMsgs s.fresh = some r) ∧
    (∀ x, Tab.get? s.targets core = some x → x.waiting ≠ [] → (∀ e ∈ x.cache, e.2.caller ≠ m.caller ∨ e.2.seq ≠ m.seq) →
      ∃ t, exec (.farCallArrival n core) s = .next t ∧ t.warps = s.warps ∧
        Tab.get? t.targets core = some { x with waiting := x.waiting ++ [m] })) ∧
  (∀ (s : State) (n : Nat) (m : ReplyMsg), Tab.get? s.replyMsgs n = some m →
    (∀ w slot x, Tab.get? s.warps m.caller = some w → openWaits w = [] → w.calls = [(slot, x)] → x.seq = m.seq →
      x.reply = none → x.timedOut = false → s.timer < x.deadline →
      ∃ t v, exec (.farReplyArrival n) s = .next t ∧ Tab.get? t.replyMsgs n = none ∧ Tab.get? t.warps m.caller = some v ∧
        v.calls = [(slot, { x with reply := some (m.status, m.cause, m.values), core := some m.core })]) ∧
    (∀ w, Tab.get? s.warps m.caller = some w → (∀ x ∈ w.calls, x.2.seq = m.seq → x.2.deadline ≤ s.timer) →
      ∃ t, exec (.farReplyArrival n) s = .next t ∧ { t with replyMsgs := s.replyMsgs } = s ∧ Tab.get? t.replyMsgs n = none)) ∧
  (∀ (s : State) (wk slot : Nat) (w : Warp) (x : CallSlot), Tab.get? s.warps wk = some w → Tab.get? w.calls slot = some x →
    openWaits w = [] → x.reply = none → x.timedOut = false →
    (x.deadline ≤ s.timer → ∃ t v, exec (.rcallTimeout wk slot) s = .next t ∧ Tab.get? t.warps wk = some v ∧
      Tab.get? v.calls slot = some { x with timedOut := true }) ∧
    (s.timer < x.deadline → exec (.rcallTimeout wk slot) s = .next s)) ∧
  (∀ (s : State) (core n : Nat) (x : FarTarget) (e : CacheEntry), Tab.get? s.targets core = some x → Tab.get? x.cache n = some e →
    e.reply.isSome = true → e.sentAt + 100000000 ≤ s.timer →
    ∃ t y, exec (.replyCacheExpiry core n) s = .next t ∧ { t with targets := s.targets } = s ∧
      Tab.get? t.targets core = some y ∧ Tab.get? y.cache n = none ∧ y.waiting = x.waiting ∧
      ∀ k, k ≠ n → Tab.get? y.cache k = Tab.get? x.cache k) ∧
  (∀ (s : State) (wk : Nat) (w : Warp) (f : FarTask), Tab.get? s.warps wk = some w → w.far = some f →
    (f.ending = none → f.started + 10000000 ≤ s.timer → w.unack.getD 2 0 = 0 →
      ∃ t, exec (.farTaskStopped wk) s = .next t ∧ Tab.get? t.warps wk = none ∧ ReplyLeaves s t f.caller f.seq f.core 4 0) ∧
    (f.ending = none → f.started + 10000000 ≤ s.timer → w.unack.getD 2 0 ≠ 0 →
      ∃ t v e, exec (.farTaskStopped wk) s = .next t ∧ Tab.get? t.warps wk = some v ∧ v.splits = [] ∧ v.spill = [] ∧
        v.unack = w.unack ∧ v.far = some { f with ending := some e } ∧ e.status = 4 ∧ e.seq = f.seq ∧
        t.replyMsgs = s.replyMsgs) ∧
    (s.timer < f.started + 10000000 → exec (.farTaskStopped wk) s = .next s))

/-- Warps, skeins and grids retire (09_control R175, 13_consistency R232, 17_scheduling R272, R279): nothing of them is left, and
a record's RESULT and its queue's HEAD say so. -/
def Sys2Proof.Claims.RetirementAlone : Prop :=
  (∀ (s : State) (wk : Nat) (w : Warp) (g : Workgroup), Tab.get? s.warps wk = some w → wgOf s w = some g →
    (warpDone s wk w = true → ∃ t, exec (.warpRetire wk) s = .next t ∧ Tab.get? t.warps wk = none ∧ t.mem = s.mem ∧
      t.wgs = s.wgs ∧ (skeinWarps t g.skein = [] → ∀ k, Tab.get? t.skeins g.skein = some k → k.active = false)) ∧
    (w.launched &&& ~~~w.exited ≠ 0 ∨ w.splits ≠ [] ∨ w.mqueue ≠ [] → exec (.warpRetire wk) s = .next s)) ∧
  (∀ (s : State) (n : Nat) (k : Skein), Tab.get? s.skeins n = some k →
    (skeinDone s n k = true → ∃ t, exec (.skeinRetire n) s = .next t ∧ Tab.get? t.skeins n = none ∧
      (∀ g ∈ k.wgs, Tab.get? t.wgs g = none) ∧ (∀ w ∈ warpsOfSkein s n, Tab.get? t.warps w = none) ∧
      (∀ o ∈ t.xlate.owners, o.2 ≠ n) ∧ t.mem = s.mem) ∧
    (skeinDone s n k = false → exec (.skeinRetire n) s = .next s)) ∧
  (∀ (s : State) (n q index : Nat) (l : Launch) (x : Queue), Tab.get? s.launches n = some l → l.origin = .slot q index →
    Tab.get? s.queues q = some x → l.rollbackWanted = false → (l.phase = .started → gridSize l.record ≤ l.next) →
    launchQuiet s n = true → l.record.doneAddr = 0 → x.retired = [] → queueHead s x = index → Mem.wf s.mem = true →
    l.refusal < 256 →
    (x.header + 64 ≤ x.slotAt index ∨ x.slotAt index + 128 ≤ x.header) →
    ∃ t y, exec (.gridRetire n) s = .next t ∧ Tab.get? t.launches n = none ∧ Tab.get? t.queues q = some y ∧ y = x ∧
      Mem.le t.mem (x.slotAt index + 120) 8 = (if l.refusal ≠ 0 then 3 else if l.cancelled then 4 else 2) + 256 * l.refusal ∧
      queueHead t x = (index + 1) % 2 ^ 32 ∧ queueTail t x = queueTail s x) ∧
  (∀ (s s2 : State) (n g k : Nat) (l : Launch), Tab.get? s.launches n = some l → l.origin = .node g k → l.rollbackWanted = false →
    (l.phase = .started → gridSize l.record ≤ l.next) → launchQuiet s n = true → l.record.doneAddr ≠ 0 → l.doneCause = none →
    (∀ h ∈ s.xlate.held, h.2.waiter ≠ .retire n) →
    writeGlobal s (queueParty l.asid) 0 l.record.doneAddr (leBytes 8 l.record.doneVal.toNat) [] = .ok s2 [] [] →
    ∃ t, exec (.gridRetire n) s = .next t ∧ Tab.get? t.launches n = none ∧ t.mem = s2.mem ∧ t.host = s2.host ∧ t.net = s2.net) ∧
  (∀ (s : State) (n q index : Nat) (l : Launch) (x : Queue), Tab.get? s.launches n = some l → l.origin = .slot q index →
    Tab.get? s.queues q = some x → l.rollbackWanted = false → (l.phase = .started → gridSize l.record ≤ l.next) →
    launchQuiet s n = true → l.record.doneAddr ≠ 0 → x.retired = [] → Mem.wf s.mem = true → l.refusal < 256 →
    (x.header + 64 ≤ x.slotAt index ∨ x.slotAt index + 128 ≤ x.header) →
    let slot := x.slotAt index
    let code := (if l.refusal ≠ 0 then 3 else if l.cancelled then 4 else 2) + 256 * l.refusal
    let done := putPhys s (slot + 120) (leBytes 8 code)
    let retiredFrom (u t : State) : Prop := Tab.get? t.launches n = none ∧ t.host = u.host ∧ t.net = u.net ∧
      (queueHead u x = index → queueHead t x = (index + 1) % 2 ^ 32) ∧
      ∀ a, a < x.header ∨ x.header + 64 ≤ a → Mem.byte t.mem a = Mem.byte u.mem a
    (∀ s2, l.doneCause = none → (∀ h ∈ s.xlate.held, h.2.waiter ≠ .retire n) →
      writeGlobal done (queueParty l.asid) 0 l.record.doneAddr (leBytes 8 l.record.doneVal.toNat) [] = .ok s2 [] [] →
      s2.queues = s.queues → Mem.wf s2.mem = true →
      ∃ t, exec (.gridRetire n) s = .next t ∧ retiredFrom s2 t ∧ t.plat.doneFaults = s2.plat.doneFaults) ∧
    (∀ cause, l.doneCause = some cause → ∃ t, exec (.gridRetire n) s = .next t ∧ retiredFrom done t ∧
      t.plat.doneFaults = s.plat.doneFaults ++ [(q, index, cause)]))

/-- The scheduler (R276, R277, R280, R281): a skein that fits is admitted where it is placed, with its coordinate and nothing
allotted; pre-emption begins on request or after a time slice, and ends with the skein saved. -/
def Sys2Proof.Claims.Scheduling : Prop :=
  (∀ (s : State) (plan : Placement) (level q lk : Nat) (l : Launch), candidates s = [(level, q, .fresh lk)] →
    Tab.get? s.launches lk = some l → l.kernel.coop = false →
    placementFits (usableCores s plan.quad) plan.quad (shareOf s) (quadLoads s plan.quad)
      ((newLoad s l.kernel).seated plan) = true →
    plan.quad < quads →
    ∃ t k, exec (.skeinPlacement plan) s = .next t ∧ Tab.get? t.skeins s.fresh = some k ∧ k.launch = lk ∧ k.phase = .admitted ∧
      k.quad = plan.quad ∧ k.resident = true ∧ k.full = false ∧ k.scratch = [] ∧ k.age = s.admissions ∧
      k.x = l.next % max 1 l.record.gx ∧ k.y = l.next / max 1 l.record.gx % max 1 l.record.gy ∧
      k.z = l.next / max 1 (l.record.gx * l.record.gy) ∧
      Tab.get? t.launches lk = some { l with next := l.next + 1 } ∧ t.mem = s.mem ∧
      ∀ c, shareOf t c = if c ∈ plan.span then l.kernel.share else shareOf s c) ∧
  (∀ (s : State) (n : Nat) (k : Skein), s.skeins = [(n, k)] → k.active = true →
    (∃ t, exec (.preemptionRequest n) s = .next t ∧ t.skeins = [(n, { k with phase := .preempting })] ∧
      { t with skeins := s.skeins } = s) ∧
    (∀ q x since, Tab.get? s.queues q = some x → x.waitingSince = some since → s.slices.getD x.level 0 ≠ 0 →
      since + 1000 * s.slices.getD x.level 0 < s.timer → (candidateOf s q).isSome = true → levelOf s k = x.level →
      queueOf s k.launch ≠ some q →
      ∃ t, exec (.timeSliceExpiry q) s = .next t ∧ t.skeins = [(n, { k with phase := .preempting })])) ∧
  (∀ (s : State) (n : Nat) (k : Skein), s.skeins = [(n, k)] → k.phase = .preempting → k.requested = false →
    (skeinDrained s n k = true → ∃ t, exec (.preemptionSaveComplete n) s = .next t ∧
      t.skeins = [(n, { k with phase := .saved, resident := false })] ∧ t.wgs = s.wgs ∧ t.mem = s.mem ∧
      ∀ w v, Tab.get? s.warps w = some v → ∃ u, Tab.get? t.warps w = some u ∧ u.vregs = v.vregs ∧ u.preds = v.preds ∧
        u.joins = v.joins ∧ u.spill = v.spill ∧ u.splits.map (fun p => p.1) = v.splits.map fun p => p.1) ∧
    (skeinDrained s n k = false → exec (.preemptionSaveComplete n) s = .next s))

/-- Launch queues (R268 to R272, R275, R283): a binding writes the header, a doorbell announces TAIL, the head record is checked
and starts or is refused, a cancelled one does not start or stops, and a wait node retires when its word is there.  HEAD and TAIL
of 0 at a binding are the model's choice (log entry 84), that a refused record stays until its retirement too (log entry 57), and
that an accepted record starts with the descriptor checked at `launch` is its reading (log entry 54). -/
def Obligations.LaunchQueues : Prop :=
  (∀ (s : State) (q : Nat) (b : QueueBinding), q < 1024 → queueBindingOk b = true → Mem.wf s.mem = true →
    (∀ x, Tab.get? s.queues q = some x → queueHead s x = queueTail s x) →
    ∃ t x, exec (.launchQueueBinding q b) s = .next t ∧ Tab.get? t.queues q = some x ∧ x.asid = b.asid ∧ x.level = b.level ∧
      x.hostFed = b.hostFed ∧ x.entries = b.entries ∧ x.base = b.base ∧ x.header = b.header ∧ x.next = 0 ∧
      Mem.le t.mem b.header 8 = b.base.toNat ∧ Mem.le t.mem (b.header + 8) 4 = b.entries ∧ queueHead t x = 0 ∧ queueTail t x = 0 ∧
      (∀ a, a < b.header ∨ b.header + 64 ≤ a → Mem.byte t.mem a = Mem.byte s.mem a)) ∧
  (∀ (s : State) (v : Word) (x : Queue), Tab.get? s.queues (v.toNat % 1024) = some x → x.hostFed = true →
    s.plat.power ≠ .recovery →
    ∃ t, exec (.hostDbell v) s = .next t ∧ { t with queues := s.queues } = s ∧
      Tab.get? t.queues (v.toNat % 1024) = some { x with rung := Mem.le s.mem (x.header + 16) 4 }) ∧
  (∀ (s : State) (q : Nat) (x : Queue), Tab.get? s.queues q = some x → queueEligible s q x = true →
    x.cancelled.contains x.next = false → x.denied = false →
    let b := Mem.bytes s.mem (x.slotAt x.next) 128
    let r := recordOf b
    let starts (t : State) (l : Launch) : Prop := ∃ y, Tab.get? t.launches s.fresh = some l ∧ t.fresh = s.fresh + 1 ∧
      Tab.get? t.queues q = some y ∧ y.next = (x.next + 1) % 2 ^ 32
    (r.serial = true → queueHead s x = x.next) →
    (recordClean b = false → ∃ t l, exec (.launchRecordStart q) s = .next t ∧ starts t l ∧ l.phase = .done ∧ l.refusal = 1) ∧
    (∀ d, recordClean b = true → r.kind ≠ 1 → Tab.get? x.accepted x.next = some d →
      ∃ t, exec (.launchRecordStart q) s = .next t ∧
        starts t (launchOf (.slot q x.next) x.asid x.level r (kernelOfBytes d))) ∧
    (∀ d, recordClean b = true → r.kind ≠ 1 → Tab.get? x.accepted x.next = none → peek s x.asid r.target 64 = .ok d →
      (kernelCause s b d = none → ∃ t, exec (.launchRecordStart q) s = .next t ∧
        starts t (launchOf (.slot q x.next) x.asid x.level r (kernelOfBytes d))) ∧
      (∀ cause, kernelCause s b d = some cause → ∃ t l, exec (.launchRecordStart q) s = .next t ∧ starts t l ∧
        l.phase = .done ∧ l.refusal = cause))) ∧
  (∀ (s : State) (q : Nat) (x : Queue), Tab.get? s.queues q = some x → queueEligible s q x = true →
    x.cancelled.contains x.next = true →
    ∃ t l y, exec (.launchRecordStart q) s = .next t ∧ Tab.get? t.launches s.fresh = some l ∧ l.phase = .done ∧ l.cancelled = true ∧
      l.refusal = 0 ∧ l.origin = .slot q x.next ∧ Tab.get? t.queues q = some y ∧ y.next = (x.next + 1) % 2 ^ 32 ∧
      y.cancelled.contains x.next = false ∧ t.skeins = s.skeins ∧ t.mem = s.mem) ∧
  (∀ (s : State) (q slot : Nat) (x : Queue), Tab.get? s.queues q = some x → slot < x.entries → x.retired = [] →
    let head := queueHead s x
    let index := (head + (slot + x.entries - head % x.entries) % x.entries) % 2 ^ 32
    let distance (a : Nat) : Nat := (a + 2 ^ 32 - head) % 2 ^ 32
    distance index < distance (queueEnd s x) →
    (distance x.next ≤ distance index → ∃ t y, exec (.cancelRecord q slot) s = .next t ∧ Tab.get? t.queues q = some y ∧
      y.cancelled.contains index = true ∧ { t with queues := s.queues } = s) ∧
    (∀ n l, distance index < distance x.next → s.launches = [(n, l)] → l.origin = .slot q index → l.phase = .started →
      s.graphs = [] →
      ∃ t, exec (.cancelRecord q slot) s = .next t ∧
        t.launches = [(n, { l with phase := .stopping, cancelled := true })])) ∧
  (∀ (s : State) (g n : Nat) (x : Graph) (b : List Byte), Tab.get? s.graphs g = some x → x.nodes.getD n .retired = .running →
    (x.node n).kind = 4 → graphHeld s g = false → peek s x.asid (x.node n).arg0 8 = .ok b →
    ((x.node n).arg1.toNat ≤ leNat b → ∃ t, exec (.graphWaitSatisfied g n) s = .next t ∧
      Tab.get? t.graphs g = some (x.retire n true) ∧ { t with graphs := s.graphs } = look s x.asid (x.node n).arg0 8) ∧
    (leNat b < (x.node n).arg1.toNat → exec (.graphWaitSatisfied g n) s = .next (look s x.asid (x.node n).arg0 8)))

/-- Translation and its service (19_translation R285, R289 to R294, 11_memory R185, 25_reliability R355): caches after an
invalidation, a completion and a response, what a serviced or refused access leaves of whoever waits for it, the class of a page
after a conflict, and what the binding and freeing of an ASID leave.  That an invalidation waits for all writes then under way of
its ASIDs, and drops a host request beyond the 32nd, is the model's reading (log entry 93), and so are the request that a completion
answers (log entry 92) and the frames that a binding zeroes (log entry 52).  That a refused command of a cancelled launch ends with
ABORT whatever its kind is its choice (17_scheduling R283; log entry 112), and the window and EXEC of a refused lane's entry its
reading (log entries 21 and 106), as is that a refusal reaches only those that have an entry of the fault buffer (log entry 118). -/
def Obligations.TranslationService : Prop :=
  (∀ (s : State) (asid : Option Nat) (lo hi : Nat), s.xlate.held = [] →
    let named (a bits page : Nat) : Prop := (asid = none ∨ asid = some a) ∧ lo < (page + 1) * 2 ^ bits ∧ page * 2 ^ bits < hi
    ∃ t, exec (.translationInvalidate asid lo hi) s = .next t ∧ invalidatedIn s t ∧
      (∀ x, x ∈ t.xlate.ats ↔ x ∈ s.xlate.ats ∧ ¬named x.asid 12 x.page) ∧
      (∀ k x, x ∈ Tab.getD t.xlate.baseDie k [] ↔ x ∈ Tab.getD s.xlate.baseDie k [] ∧ ¬named x.asid x.bits x.page) ∧
      (s.xlate.invalidations = [] → nothingUnderWay s →
        t.xlate.invalidations = [] ∧ t.xlate.flushed = s.xlate.flushed + 1 ∧ t.xlate.invalidated = s.xlate.invalidated) ∧
      ∀ wk w, s.xlate.invalidations = [] → Tab.get? s.warps wk = some w → (asid = none ∨ asid = some (asidOf s w)) →
        0 < partyWrites s wk → ∃ i, t.xlate.invalidations = [i] ∧ i.host = false ∧ (wk, partyWrites s wk) ∈ i.writes ∧
          t.xlate.flushed = s.xlate.flushed) ∧
  (∀ (s : State) (asid frame : Nat) (va : DWord) (r w : Bool), s.xlate.held = [] →
    let page := va.toNat % 2 ^ 57 / 4096
    let entry : AtsEntry := { asid := asid, page := page, frame := frame, r := r, w := w }
    let pages (t : State) : Nat := (t.xlate.requests.filter fun q => q.stage == .page).length
    let asked (q : PageRequest) : Bool := q.asid == asid && q.page == page && q.stage == .translation
    (∀ q, s.xlate.requests.find? asked = some q → (r = true ∨ w = true) →
      ∃ t, exec (.atsTranslationCompletion asid va frame r w) s = .next t ∧ entry ∈ t.xlate.ats ∧
        (∀ x ∈ t.xlate.ats, x.asid = asid → x.page = page → x = entry) ∧
        t.xlate.requests.countP asked + 1 = s.xlate.requests.countP asked ∧
        ((if q.write then w = false else r = false) →
          ∃ p ∈ t.xlate.requests, p.asid = asid ∧ p.page = page ∧ (p.stage = .withheld ∨ p.stage = .page)) ∧
        (¬(if q.write then w = false else r = false) → (∀ p ∈ s.xlate.requests, p.stage ≠ .blocked ∧ p.stage ≠ .withheld) →
          t.xlate.requests = s.xlate.requests.erase q) ∧
        pages t ≤ max s.xlate.allocation (pages s)) ∧
    ((∃ q ∈ s.xlate.requests, q.asid = asid ∧ q.page = page) →
      (∀ q ∈ s.xlate.requests, q.asid = asid → q.page = page → q.stage = .page) → (r = true ∨ w = true) → ∀ ok,
      ∃ t, exec (.priPageResponse asid va ok frame r w) s = .next t ∧ (ok = true → entry ∈ t.xlate.ats) ∧
        (ok = false → t.xlate.ats = s.xlate.ats) ∧ (∀ q ∈ t.xlate.requests, q.asid = asid → q.page ≠ page) ∧
        pages t ≤ max s.xlate.allocation (pages s))) ∧
  (∀ (s : State) (asid : Nat) (va : DWord), let depth := (s.xlate.invalidations.filter fun i => i.host).length
    (32 ≤ depth → exec (.atsInvalidateRequest asid va) s = .next s) ∧
    (depth < 32 → ∃ t, exec (.atsInvalidateRequest asid va) s = .next t ∧ invalidatedIn s t ∧
      t.xlate.baseDie = s.xlate.baseDie ∧
      (∀ x, x ∈ t.xlate.ats ↔ x ∈ s.xlate.ats ∧ ¬(x.asid = asid ∧ x.page = va.toNat % 2 ^ 57 / 4096)) ∧
      (s.xlate.invalidations = [] → nothingUnderWay s →
        t.xlate.invalidations = [] ∧ t.xlate.invalidated = s.xlate.invalidated + 1 ∧ t.xlate.flushed = s.xlate.flushed) ∧
      ∀ wk w, s.xlate.invalidations = [] → Tab.get? s.warps wk = some w → asidOf s w = asid → 0 < partyWrites s wk →
        ∃ i, t.xlate.invalidations = [i] ∧ i.host = true ∧ (wk, partyWrites s wk) ∈ i.writes ∧
          t.xlate.invalidated = s.xlate.invalidated)) ∧
  (∀ (s : State) (asid k : Nat) (va pte : DWord) (h : Held), s.xlate.held = [(k, h)] → h.asid = asid → h.host = false →
    h.page = va.toNat % 2 ^ 57 / 2 ^ h.bits → pagedOut s asid h.va = true →
    (h.entry = false → ∀ ok, exec (.faultService asid va ok pte) s = .next s) ∧
    (h.entry = true → RefusedWaiter s h.waiter h.va 0x25 (exec (.faultService asid va false pte) s)) ∧
    ∀ u, h.entry = true → u = claimFrames s (writePte s asid (va.toNat % 2 ^ 57) pte) → h.ready u = true →
      (∀ a b c d e f g, h.waiter ≠ .lanes a b c d e f g) → (∀ n, h.waiter ≠ .command n) →
      exec (.faultService asid va true pte) s = .next { u with xlate := { u.xlate with held := [] } }) ∧
  (∀ (s : State) (asid lk e at_ : Nat) (va : DWord) (l : Launch), walk s asid (va.toNat % 2 ^ 57) = .leaf e 0 at_ →
    pteField e 5 3 < 2 → pteField e 8 2 = 0 → Tab.get? s.launches lk = some l → l.reclass ≠ 0xFFFFFFFF → Mem.wf s.mem = true →
    ∃ t, exec (.reclassification asid va lk) s = .next t ∧ Tab.get? t.launches lk = some { l with reclass := l.reclass + 1 } ∧
      Tab.get? t.xlate.owners (pteField e 16 36) = none ∧
      (∀ k, ∀ y ∈ Tab.getD t.xlate.baseDie k [], y.asid = asid → y.page = va.toNat % 2 ^ 57 / 2 ^ y.bits → y.cls = 2) ∧
      (∀ j, j < 16 → pteField (Mem.le t.mem (at_ / 128 * 128 + 8 * j) 8) 5 3 = 2)) ∧
  (∀ (s : State) (asid : Nat) (c : AddressContext), asid < 2 ^ 16 → c.root % 4096 = 0 →
    ((Tab.get? s.xlate.contexts asid).isSome = true ∨ s.xlate.contexts.length < 4096) → s.xlate.frames = [] →
    s.plat.fenced = [] →
    ∃ t, exec (.asidBinding asid c) s = .next t ∧ Tab.get? t.xlate.contexts asid = some c ∧ t.mem = s.mem ∧
      (∀ a, a ≠ asid → Tab.get? t.xlate.contexts a = Tab.get? s.xlate.contexts a)) ∧
  (∀ (s : State) (asid : Nat) (c : AddressContext), Tab.get? s.xlate.contexts asid = none → 4096 ≤ s.xlate.contexts.length →
    exec (.asidBinding asid c) s = .next s) ∧
  (∀ (s : State) (asid : Nat), ∃ t, exec (.asidFreeing asid) s = .next t ∧ Tab.get? t.xlate.contexts asid = none ∧
    (∀ x ∈ t.xlate.ats, x.asid ≠ asid) ∧ (∀ q ∈ t.xlate.requests, q.asid ≠ asid) ∧
    (∀ k, ∀ x ∈ Tab.getD t.xlate.baseDie k [], x.asid ≠ asid) ∧
    (∀ x ∈ t.targets, ∀ e ∈ x.2.cache, e.2.asid ≠ asid) ∧ t.mem = s.mem ∧ t.warps = s.warps)

namespace Sys2Proof.Claims

open Sys2Proof.Machine

/-- The sum of two codes of a format, rounded to nearest even, subnormals kept (23_pod R333). -/
def sumCode (f : Fmt) (a b : Nat) : Nat := (writeNum f (addNum (readNum f false a).1 (readNum f false b).1 .rne).1 .rne false false 0).1

/-- The greater, or the lesser, of two f32 codes, −0 below +0, a NaN only of two (maximumNumber and minimumNumber, 03_numbers R71). -/
def pickCode (greater : Bool) (a b : Word) : Word :=
  let place (x : Word) : Int := if x.toNat < 2 ^ 31 then (x.toNat : Int) else 2 ^ 31 - 1 - (x.toNat : Int)
  if nanCode a && nanCode b then 0x7FC00000
  else if nanCode a then b
  else if nanCode b then a
  else if greater then (if place a < place b then b else a) else (if place b < place a then b else a)

/-- r := op(r, c) of a reduction (23_pod R333). -/
def reduceWord (op : Nat) (r c : Word) : Word :=
  match op with
  | 0 => r + c
  | 1 => BitVec.ofNat 32 (sumCode .f32 r.toNat c.toNat)
  | 2 => BitVec.ofNat 32 (sumCode .bf16 (r.toNat % 2 ^ 16) (c.toNat % 2 ^ 16) +
      2 ^ 16 * sumCode .bf16 (r.toNat / 2 ^ 16) (c.toNat / 2 ^ 16))
  | 3 => pickCode true r c
  | 4 => pickCode false r c
  | 5 => if r.toInt < c.toInt then c else r
  | 6 => if c.toInt < r.toInt then c else r
  | _ => r ||| c

/-- An element of a lone contributor as it is written: under a floating-point operation a NaN is the canonical one (R333, 03_numbers
R52). -/
def loneWord (op : Nat) (w : Word) : Word :=
  let half (v : Nat) : Nat := if 0x7F80 < v % 2 ^ 15 then 0x7FC0 else v
  if op = 2 then BitVec.ofNat 32 (half (w.toNat % 2 ^ 16) + 2 ^ 16 * half (w.toNat / 2 ^ 16))
  else if (op = 1 ∨ op = 3 ∨ op = 4) ∧ nanCode w = true then 0x7FC00000
  else w

/-- Element e of some contributions, by head, ascending. -/
def elementsOf (l : List Contribution) (e : Nat) : List Word :=
  (List.range 17).filterMap fun h => (l.find? fun d => d.head == h).map fun d => d.data.getD e 0

end Sys2Proof.Claims

/-- A reduction of two or more heads (23_pod R333, R334): the last contribution that an open round expects closes it.  Where all carry
one operation, COUNT and EXPECT, each element of the result is the lowest head's with every further head's combined into it, in
ascending order, and no other byte of the module changes; otherwise nothing is written and every contributor's command has the fault
ILLEGAL_OPERAND.  Either way they are complete. -/
def Sys2Proof.Claims.Reductions : Prop :=
  ∀ (s : State) (m off op count expect head : Nat) (epoch : BitVec 32) (data : List Word) (x : Module) (first : Contribution)
    (more : List Contribution),
    Tab.get? s.net.modules m = some x → x.lost = false → x.waiting = [] → x.rounds = [⟨off, epoch, first :: more⟩] →
    Mem.wf x.mem = true → s.net.lostPackages = [] → off % 64 = 0 → op < 8 → count ≤ 16384 → data.length = count →
    expect < 2 ^ 17 → expect.testBit head = true →
    let mine : Contribution :=
      { head := head, op := op, count := count, expect := expect, data := data, cmd := none, bad := false }
    let all := first :: more ++ [mine]
    (∀ d ∈ all, d.head < 17 ∧ d.data.length = d.count) → (all.map fun d => d.head).Nodup →
    (∀ h, h < 17 → (first.expect.testBit h = true ↔ ∃ d ∈ all, d.head = h)) →
    let alike : Prop := ∀ d ∈ all, d.op = op ∧ d.count = count ∧ d.expect = expect
    ∃ t, exec (.mredContribution (.other m off epoch head op count expect data)) s = .next t ∧ t.mem = s.mem ∧ t.warps = s.warps ∧
      (alike → moduleIn t m fun y => y.rounds = [] ∧
        (∀ e v rest, e < count → elementsOf all e = v :: rest → Mem.le y.mem (off + 4 * e) 4 = (rest.foldl (reduceWord op) v).toNat) ∧
        ∀ a, a < off ∨ off + 4 * count ≤ a → Mem.byte y.mem a = Mem.byte x.mem a) ∧
      (¬alike → moduleIn t m fun y => y = { x with rounds := [] }) ∧
      (∀ d ∈ all, ∀ n, d.cmd = some n → Tab.get? t.cmds n = none) ∧
      ∀ n y, more = [] → first.cmd = some n → Tab.get? s.cmds n = some y → ∃ u, { u with net := s.net } = s ∧
        (alike → CommandEnds u t n y 0 none) ∧ (¬alike → CommandEnds u t n y 1 (some 0x04))

/-- Modules (13_consistency R224, 23_pod R323 to R334): ports, grants, relays and routes, queue answers, reductions, and the loss
of a module or a package. -/
def Sys2Proof.Claims.Modules : Prop :=
  (∀ (s : State) (port m : Nat), port < 17 → port ≤ s.net.podq → m < podSize s → (headOf s m s.net.podpos).isSome = true →
    (s.plat.fenced.contains (.modulePort port) = true → exec (.modulePortBringUp port m true) s = .next s) ∧
    (s.plat.fenced.contains (.modulePort port) = false → (∀ p ∈ s.net.ports, p.1 = port ∨ p.2 ≠ m) →
      ∃ t, exec (.modulePortBringUp port m true) s = .next t ∧ Tab.get? t.net.ports port = some m ∧
        (Tab.get? t.net.modules m).isSome = true) ∧
    ((∃ p ∈ s.net.ports, p.1 ≠ port ∧ p.2 = m) → exec (.modulePortBringUp port m true) s = .next s) ∧
    exec (.modulePortBringUp port m false) s = .next s) ∧
  (∀ (s : State) (m page : Nat) (x : Module), Tab.get? s.net.modules m = some x →
    (∃ t, exec (.backInvalidation m page) s = .next t ∧ moduleIn t m fun y => { y with grants := x.grants } = x ∧
      ∀ g, g ∈ y.grants ↔ g ∈ x.grants ∧ ¬(g.page = page ∧ g.pkg = s.net.podpos)) ∧
    (∀ excl, touchesModule s m = true → x.lost = false →
      ∃ t, exec (.moduleGrant m page excl) s = .next t ∧ moduleIn t m fun y => { y with grants := x.grants } = x ∧
        (∃ g ∈ y.grants, g.page = page ∧ g.pkg = s.net.podpos ∧ (excl = true → g.excl = true)) ∧
        (∀ g ∈ y.grants, g.page = page → g.pkg ≠ s.net.podpos → excl = false ∧ g.excl = false) ∧
        ∀ g, g.page ≠ page → (g ∈ y.grants ↔ g ∈ x.grants)) ∧
    (∀ off n, touchesModule s m = true → x.lost = false →
      ∃ t, exec (.relayForward (.read m off n)) s = .next t ∧ moduleIn t m fun y => { y with grants := x.grants } = x ∧
        ∀ g, g ∈ y.grants ↔ g ∈ x.grants ∧ ¬(g.page = off / 65536 ∧ g.excl = true)) ∧
    (∀ off data, touchesModule s m = true → x.lost = false → Mem.wf x.mem = true →
      ∃ t, exec (.relayForward (.write m off data)) s = .next t ∧ moduleIn t m fun y =>
        (∀ g, g ∈ y.grants ↔ g ∈ x.grants ∧ g.page ≠ off / 65536) ∧
        ∀ a, Mem.byte y.mem a = if off ≤ a ∧ a < off + data.length then data.getD (a - off) 0 else Mem.byte x.mem a) ∧
    (∀ off op ty (v v2 : DWord), touchesModule s m = true → x.lost = false → Mem.wf x.mem = true →
      let b := if isWide64 ty then 8 else 4
      ∃ t, exec (.relayForward (.atomic m off op ty v v2)) s = .next t ∧ moduleIn t m fun y =>
        Mem.le y.mem off b = atomNew op ty (Mem.le x.mem off b) (v.toNat % 2 ^ (8 * b)) (v2.toNat % 2 ^ (8 * b)) % 2 ^ (8 * b) ∧
        ∀ a, a < off ∨ off + b ≤ a → Mem.byte y.mem a = Mem.byte x.mem a) ∧
    (∀ n q w sp, Tab.get? s.net.queueOps n = some q → q.module = m → Tab.get? s.warps q.warp = some w →
      Tab.get? w.splits q.entry = some sp →
      ∃ t v sp', exec (.mqModuleAnswer (.own n)) s = .next t ∧ Tab.get? t.net.queueOps n = none ∧
        Tab.get? t.warps q.warp = some v ∧ Tab.get? v.splits q.entry = some sp' ∧ sp'.status = .ready ∧
        { sp' with stall := sp.stall, status := sp.status, readyAt := sp.readyAt } = sp ∧
        (q.put = true → sp'.stall = .queue n (some (mqPutAt x q.off q.record q.bad).1) ∧
          Tab.get? t.net.modules m = some (mqPutAt x q.off q.record q.bad).2) ∧
        (q.put = false → sp'.stall = .queue n (some (mqGetAt x q.off).1) ∧
          Tab.get? t.net.modules m = some (mqGetAt x q.off).2.2.2)) ∧
    (∀ off epoch head op count data, x.lost = false → off % 64 = 0 → head < 17 → op < 8 → count ≤ 16384 → data.length = count →
      x.rounds = [] → x.waiting = [] → s.net.lostPackages = [] → Mem.wf x.mem = true → 0 < count →
      let own : MredSource := .other m off epoch head op count (2 ^ head) data
      ∃ t, exec (.mredContribution own) s = .next t ∧ moduleIn t m fun y => y.rounds = [] ∧
        ∀ e, e < count → Mem.le y.mem (off + 4 * e) 4 = (loneWord op (data.getD e 0)).toNat)) ∧
  (∀ (s : State) (m : Nat), s.xlate.held = [] →
    (∀ c, touchesModule s m = false → m < podSize s → reachesPackage s c = true → (headOf s m c).isSome = true →
      (∀ x, Tab.get? s.net.modules m = some x → x.lost = false) →
      ∃ t, exec (.routeInstall m (some c)) s = .next t ∧ Tab.get? t.net.routes m = some c ∧ m ∉ t.net.rerouting) ∧
    (∃ t, exec (.routeInstall m none) s = .next t ∧ Tab.get? t.net.routes m = none ∧ m ∉ t.net.rerouting)) ∧
  (∀ (s : State) (m : Nat), m < podSize s → s.xlate.held = [] → s.net.queueOps = [] → s.cmds = [] →
    ∃ t, exec (.moduleLoss m) s = .next t ∧ Tab.get? t.net.routes m = none ∧ t.mem = s.mem ∧
      moduleIn t m fun y => y.lost = true ∧ y.mem = [] ∧ y.grants = []) ∧
  (∀ (s : State) (p m : Nat) (x : Module), p ≠ s.net.podpos → s.net.lostPackages.contains p = false → s.xlate.held = [] →
    s.cmds = [] → s.net.modules = [(m, x)] → x.rounds = [] → x.waiting = [] →
    ∃ t, exec (.packageLoss p) s = .next t ∧ p ∈ t.net.lostPackages ∧ (∀ r ∈ t.net.routes, r.2 ≠ p) ∧ moduleIn t m fun y => y.mem = x.mem ∧
      (∀ g ∈ y.grants, g.pkg ≠ p) ∧
      ∀ g ∈ x.grants, g.pkg = p → g.excl = true → ∀ line ∈ g.dirty, 2 * line ∈ y.poison ∧ 2 * line + 1 ∈ y.poison)

/-- Reltex (23_pod R336 to R342): a binding, a put that arrives in its window or outside any, a packet seen before or beyond the
map or that no wire carries, an acknowledgement, a refusal, after which the command's other packets are still sent, and a packet that
is sent again or fails its connection.  Packets numbered from 1 are the model's choice (log entry 84), and so are what an answer's
header holds beside PSN and endpoints and how a get's late refusal names it (log entry 101); that a refused packet counts as arrived
is its reading (log entry 72). -/
def Obligations.Reltex : Prop :=
  (∀ (s : State) (c : Nat) (b : ConnBinding), bindingOk c b = true →
    (∀ x, Tab.get? s.net.conns c = some x → x.failed = true) →
    ∃ t x, exec (.connectionBinding c b) s = .next t ∧ Tab.get? t.net.conns c = some x ∧ x.binding = b ∧ x.failed = false ∧
      x.nextPsn = 1 ∧ x.nextMsn = 1 ∧ x.out = [] ∧ x.acks = [] ∧ x.arrival = 0 ∧ (∀ k, k ≠ c → Tab.get? t.net.conns k = Tab.get? s.net.conns k)) ∧
  (∀ (s : State) (c : Nat) (b : ConnBinding) (x : Conn), Tab.get? s.net.conns c = some x → x.failed = false →
    exec (.connectionBinding c b) s = .next s) ∧
  (∀ (s s1 : State) (p : Packet) (x : Conn) (w : Window), arrivesFor s p x → p.op = .put → p.msn = 1 → p.psn = 1 → x.mark = 0 → x.received = [] → x.messages = [] → x.requests = [] → x.complete = 0 →
    x.binding.windows = [(p.win, w)] → p.tenant = w.tenant → w.writable = true → p.roff + p.mlen ≤ w.length → p.poff = 0 →
    p.payload.length = p.mlen → s1.net = s.net →
    placeBytes s x.party (w.base + BitVec.ofNat 64 p.roff) p.payload = .ok s1 [] [] →
    ∃ t y, exec (.reltexPacketReceive p) s = .next t ∧ t.mem = s1.mem ∧ t.host = s1.host ∧
      Tab.get? t.net.conns p.conn = some y ∧ y.mark = 1 ∧ y.complete = 1 ∧ y.arrival = x.arrival + 1 ∧ y.messages = [] ∧
      answered s x y p false) ∧
  (∀ (s : State) (p : Packet) (x : Conn), arrivesFor s p x → p.op = .put → x.binding.windows = [] → p.psn = 1 → x.mark = 0 →
    x.received = [] →
    ∃ t y, exec (.reltexPacketReceive p) s = .next t ∧ { t with net := s.net } = s ∧ Tab.get? t.net.conns p.conn = some y ∧
      y.mark = 1 ∧ { y with mark := 0, acks := x.acks } = x ∧ answered s x y p true) ∧
  (∀ (s : State) (p : Packet), ¬wireFits p ∨ (∃ x, Tab.get? s.net.conns p.conn = some x ∧ x.failed = true) →
    exec (.reltexPacketReceive p) s = .next s) ∧
  (∀ (s : State) (p : Packet) (x : Conn), arrivesFor s p x → p.op ≠ .acknowledgement →
    (p.psn ∈ x.received → ∃ t y, exec (.reltexPacketReceive p) s = .next t ∧ { t with net := s.net } = s ∧
      Tab.get? t.net.conns p.conn = some y ∧ { y with acks := x.acks } = x ∧ answered s x y p (x.refuses p)) ∧
    (p.psn ∉ x.received → x.mark < 2 ^ 32 → p.psn < 2 ^ 32 → 4096 < (p.psn + 2 ^ 32 - x.mark) % 2 ^ 32 →
      (p.psn + 2 ^ 32 - x.mark) % 2 ^ 32 ≤ 2 ^ 31 → exec (.reltexPacketReceive p) s = .next s)) ∧
  (∀ (s : State) (a : ReltexAck) (x : Conn) (o : OutPacket), arrivesFor s a.pkt x → x.out = [o] →
    o.pkt.psn = a.pkt.psn → o.cmd = none →
    ∃ t y, exec (.reltexAckReceive a) s = .next t ∧ Tab.get? t.net.conns a.pkt.conn = some y ∧ y.out = [] ∧
      y.entropy = x.entropy + (if a.ecn then x.binding.stride else 0) ∧ { y with out := x.out, entropy := x.entropy } = x) ∧
  (∀ (s : State) (a : ReltexAck) (x : Conn) (o : OutPacket) (n : Nat) (y : Cmd), arrivesFor s a.pkt x →
    x.out = [o] → o.pkt.psn = a.pkt.psn → o.cmd = some n → Tab.get? s.cmds n = some y → a.ecn = false →
    (∀ l r k c w q, y.kind ≠ .nget l r k c w q) →
    ∃ t, exec (.reltexAckReceive a) s = .next t ∧
      (∃ u, { u with net := s.net } = s ∧
        CommandEnds u t n y (if a.refused then 1 else 0) (if a.refused then some 0x21 else none)) ∧
      ∃ z, Tab.get? t.net.conns a.pkt.conn = some z ∧ z.out = []) ∧
  (∀ (s : State) (a : ReltexAck) (x : Conn) (o o2 : OutPacket) (n : Nat) (y : Cmd), arrivesFor s a.pkt x → x.out = [o, o2] →
    o.pkt.psn = a.pkt.psn → o2.pkt.psn ≠ a.pkt.psn → o.cmd = some n → o2.cmd = some n → Tab.get? s.cmds n = some y →
    a.refused = true → a.ecn = false →
    ∃ t, exec (.reltexAckReceive a) s = .next t ∧ (∃ u, { u with net := s.net } = s ∧ CommandEnds u t n y 1 (some 0x21)) ∧
      ∃ z, Tab.get? t.net.conns a.pkt.conn = some z ∧ z.out = [{ o2 with cmd := none }]) ∧
  (∀ (s : State) (a : ReltexAck) (x : Conn) (n : Nat) (y : Cmd) (l : DWord) (r k w : Nat), arrivesFor s a.pkt x → x.out = [] →
    a.refused = true → a.ecn = false → s.cmds = [(n, y)] → y.kind = .nget l r k a.pkt.conn w a.pkt.msn → y.phase ≠ .active →
    ∃ t, exec (.reltexAckReceive a) s = .next t ∧ CommandEnds s t n y 1 (some 0x21)) ∧
  (∀ (s : State) (c : Nat) (x : Conn) (o : OutPacket), Tab.get? s.net.conns c = some x → x.out = [o] → x.failed = false →
    o.sentAt + x.binding.timeoutNs ≤ s.timer →
    (o.tries < x.binding.retries → ∃ t, exec (.retransmitTimeout c) s = .next t ∧
      Tab.get? t.net.conns c = some { x with
        out := [{ o with pkt := { o.pkt with sport := x.entropy }, tries := o.tries + 1, sentAt := s.timer }] } ∧
      { t with net := s.net } = s) ∧
    (x.binding.retries ≤ o.tries → s.cmds = [] → ∃ t, exec (.retransmitTimeout c) s = .next t ∧
      Tab.get? t.net.conns c = some { x with failed := true, out := [] }))

/-- Snapshot launches (25_reliability R349 to R352): a page's copy in the pool, firmware's answer to a full pool, and a launch
put back and replayed, its slot's RESULT being 1 again, the third time cancelled and its failing address reported: after its pages are
put back, which is the model's reading (log entry 65). -/
def Obligations.Snapshots : Prop :=
  (∀ (s : State) (n page : Nat) (l : Launch), Tab.get? s.launches n = some l → page ∈ l.wanted →
    (l.copied.length < l.pool → ∃ t y c, exec (.snapshotPageCopy n page) s = .next t ∧ { t with launches := s.launches } = s ∧
      Tab.get? t.launches n = some y ∧ Tab.get? y.copied page = some c ∧ page ∉ y.wanted ∧
      ∀ a, a < 65536 → Mem.wf s.mem = true → Mem.byte c.bytes a = Mem.byte s.mem (page * 65536 + a)) ∧
    (l.pool ≤ l.copied.length → exec (.snapshotPageCopy n page) s = .next s) ∧
    (∀ k, ∃ t, exec (.snapshotPoolDecision n (some k)) s = .next t ∧ Tab.get? t.launches n = some { l with pool := l.pool + k }) ∧
    (l.pool ≤ l.copied.length → ∃ t y, exec (.snapshotPoolDecision n none) s = .next t ∧ Tab.get? t.launches n = some y ∧
      y.cancelled = true ∧ y.phase = .stopping) ∧
    (l.copied.length < l.pool → exec (.snapshotPoolDecision n none) s = .next s)) ∧
  (∀ (s : State) (n q index : Nat) (l : Launch) (x : Queue), Tab.get? s.launches n = some l → l.rollbackWanted = true →
    launchQuiet s n = true → l.origin = .slot q index → l.kernel.snapshot = true → Tab.get? s.queues q = some x → Mem.wf s.mem = true →
    (l.copied.map fun p => p.1).Nodup → (∀ p ∈ l.copied, Mem.wf p.2.bytes = true ∧ ∀ b ∈ p.2.bytes, b.1 < 65536) →
    let again : Prop := l.cancelled = false ∧ l.rollbacks < 2
    let restored (t : State) (a : Nat) : Prop := Mem.byte t.mem a = match Tab.get? l.copied (a / 65536) with
      | some c => Mem.byte c.bytes (a % 65536)
      | none => Mem.byte s.mem a
    ∃ t y, exec (.rollback n) s = .next t ∧ Tab.get? t.launches n = some y ∧ y.copied = [] ∧ y.rollbackWanted = false ∧
      y.origin = l.origin ∧ y.record = l.record ∧ y.kernel = l.kernel ∧ t.plat.hostEvent.getLsbD 4 = true ∧
      (again → y.phase = .started ∧ y.next = 0 ∧ y.rollbacks = l.rollbacks + 1 ∧ y.cancelled = false ∧
        Mem.le t.mem (x.slotAt index + 120) 8 = 1 ∧
        ∀ a, a < x.slotAt index + 120 ∨ x.slotAt index + 128 ≤ a → restored t a) ∧
      (¬again → y.cancelled = true ∧ (l.cancelled = false → (n, l.failing) ∈ t.plat.failures) ∧ ∀ a, restored t a))

/-- Power, start and reset (25_reliability R357 to R360): the order of the steps, the check of the image and the device key of the
start, the 4 µs between two groups of cores, and what a reset leaves and a loss of power keeps.  That a start whose image is refused has
its device key from it too is the model's reading (log entry 137). -/
def Sys2Proof.Claims.PowerAndReset : Prop :=
  (∀ s : State,
    let startsOver (t : State) (p : Power) : Prop := t.plat.power = p ∧ t.plat.fuseVersion = s.plat.fuseVersion ∧
      t.plat.startedCores = 0 ∧ t.mem = [] ∧ t.launches = [] ∧ t.skeins = [] ∧ t.warps = [] ∧ t.wgs = [] ∧ t.queues = [] ∧
      t.cmds = [] ∧ t.xlate = Xlate.empty ∧ t.focus = .none ∧ t.host = s.host
    (s.plat.power = .unpowered → ∃ t, exec .powerGood s = .next t ∧ startsOver t .step1) ∧
    (∃ t, exec .boardPowerRemoved s = .next t ∧ startsOver t .unpowered) ∧
    (s.plat.power ≠ .unpowered → s.plat.power ≠ .fatal → ∃ t, exec .conventionalReset s = .next t ∧ startsOver t .step1)) ∧
  (∀ (s : State) (img : ImageCheck),
    let step (p : Power) : Prop := exec (.powerUpStepReady img) s = .next { s with plat := { s.plat with power := p } }
    let checked (p : Power) : Prop := exec (.powerUpStepReady img) s = .next { s with plat := { s.plat with
      power := p, image := img.image, deviceKey := Config.deviceKey Config.romHash (Config.imageHash img.image) } }
    (s.plat.power = .step1 → img.ecdsa = true → img.lms = true → s.plat.fuseVersion ≤ img.version → checked (.dies 0)) ∧
    (s.plat.power = .step1 → img.ecdsa = false ∨ img.lms = false ∨ img.version < s.plat.fuseVersion → checked .recovery) ∧
    (∀ n, s.plat.power = .dies n → step (if n < 3 then .dies (n + 1) else .stacks 0)) ∧
    (∀ n, s.plat.power = .stacks n → step (if n < 7 then .stacks (n + 1) else .coreGroups 0))) ∧
  (∀ (s : State) (g : Nat), (s.plat.power = .coreGroups g ∧ g ≠ 0) ∨ s.plat.power = .ready →
    s.timer < s.plat.groupStartedAt + 4000 → exec (.coreGroupStart g) s = .next s) ∧
  (∀ (s : State) (g : Nat), s.plat.power = .ready → g ∈ s.plat.gated → s.plat.groupStartedAt + 4000 ≤ s.timer →
    ∃ t, exec (.coreGroupStart g) s = .next t ∧ g ∉ t.plat.gated ∧ t.plat.groupStartedAt = s.timer ∧
      t.plat.power = .ready ∧ (∀ k, k < 16 → Tab.get? t.plat.coreStart (16 * g + k) = some s.ticks) ∧ { t with plat := s.plat } = s) ∧
  (∀ (s : State) (g : Nat), s.plat.power = .coreGroups g → g = 0 ∨ s.plat.groupStartedAt + 4000 ≤ s.timer →
    ∃ t, exec (.coreGroupStart g) s = .next t ∧ t.plat.power = (if g < 19 then .coreGroups (g + 1) else .ready) ∧
      t.plat.startedCores = 16 * (g + 1) ∧ t.plat.groupStartedAt = s.timer ∧ (∀ k, k < 16 → Tab.get? t.plat.coreStart (16 * g + k) = some s.ticks) ∧
      { t with plat := s.plat } = s) ∧
  (∀ s : State, ∃ t, exec .functionLevelReset s = .next t ∧ (s.queues = [] → t.xlate.contexts = [] ∧
    (∀ a x, x ∈ s.xlate.frames → s.xlate.frames.head? = some x → x.1 ≤ a / 65536 → a / 65536 < x.1 + x.2.1 →
      (Tab.get? s.xlate.contexts x.2.2).isSome = true → Mem.wf s.mem = true → Mem.byte t.mem a = 0)))

/-- The host's registers, limits and fencing (R343, R354, R356, R358, R361): events raised and cleared, matrix issue paused, the
clock halved, everything stopped, a unit fenced, the calls that wait at a fenced core being on their way again (R354, the model's reading, log entry 138), an SPDM request answered with a value the manual leaves open (log entry 17),
a scrub that changes no value, and the ten causeway links of a full mesh of five dies under the numbers 0 to 9, which is the model's
numbering (log entry 111). -/
def Sys2Proof.Claims.PlatformEvents : Prop :=
  ∀ s : State,
    let raised (p : Platform) (bit : Nat) : Platform := { p with hostEvent := p.hostEvent ||| (1#5 <<< bit) }
    (∀ v : Word, exec (.hostEvent v) s = .next { s with plat := { s.plat with
      hostEvent := if s.plat.power = .recovery then s.plat.hostEvent else s.plat.hostEvent &&& ~~~(v.extractLsb' 0 5) } }) ∧
    exec .currentLimit s = .next { s with plat := raised { s.plat with
      matrixPaused := some (match s.plat.matrixPaused with | some c => (c + 1) % 320 | none => 0) } 3 } ∧
    exec .temperatureLimit s = .next { s with plat := raised { s.plat with halfClock := true } 3 } ∧
    (s.plat.power ≠ .unpowered →
      exec .fatalLimit s = .next { s with focus := .none, plat := raised { s.plat with power := .fatal } 3 }) ∧
    (∀ n, n < 320 → s.plat.fenced.contains (.core n) = false → Tab.get? s.targets n = none → exec (.unitFencing (.core n)) s =
      .next { s with plat := raised { s.plat with fenced := s.plat.fenced ++ [.core n] } 2 }) ∧
    (∀ n x, n < 320 → s.plat.fenced.contains (.core n) = false → Tab.get? s.targets n = some x →
      ∃ t y, exec (.unitFencing (.core n)) s = .next t ∧ t.plat = raised { s.plat with fenced := s.plat.fenced ++ [.core n] } 2 ∧
        Tab.get? t.targets n = some y ∧ y.waiting = [] ∧ y.entered = [] ∧
        (∀ e, e ∈ y.cache ↔ e ∈ x.cache ∧ ∀ m ∈ x.entered, ¬(m.caller = e.2.caller ∧ m.seq = e.2.seq)) ∧
        (∀ m ∈ x.entered ++ x.waiting, ∃ k, Tab.get? t.callMsgs k = some m) ∧
        { t with plat := s.plat, targets := s.targets, callMsgs := s.callMsgs, fresh := s.fresh } = s) ∧
    (∀ n, 320 ≤ n → exec (.unitFencing (.core n)) s = .next s) ∧
    (∀ n, n < 10 → s.plat.fenced.contains (.causewayLink n) = false → exec (.unitFencing (.causewayLink n)) s =
      .next { s with plat := raised { s.plat with fenced := s.plat.fenced ++ [.causewayLink n] } 2 }) ∧
    (∀ m, ∃ t bytes, exec (.spdmRequest m) s = .next t ∧ t.plat.spdm = s.plat.spdm ++ [(m, bytes)] ∧
      { t with plat := s.plat } = s) ∧
    (∀ k, exec (.scrub k) s = .next s)

/-- sadd64, ssub64 and sshf64 write their pair modulo 2^64; a scalar write that would leave a shadow mask unequal traps. -/
def Obligations.ScalarPairs : Prop :=
  Sys2Proof.Claims.PairResults ∧
  Sys2Proof.Claims.ShadowMaskTrap

/-- Scalar instructions, nop, ldc and sld executed by an engine program. -/
def Obligations.EngineScalars : Prop :=
  Sys2Proof.Claims.EngineScalarsAlone ∧
  Sys2Proof.Claims.EngineScalarLoads

/-- Whole-word lane instructions, moves, shuffles, vmatch and predicate instructions: each active lane gets its value, nothing else changes. -/
def Obligations.LaneResults : Prop :=
  Sys2Proof.Claims.LaneResultsAlone ∧
  Sys2Proof.Claims.PredicateResults

/-- Integer arithmetic, shifts, counts and vmulh per element of every integer type. -/
def Obligations.IntegerArithmetic : Prop :=
  Sys2Proof.Claims.IntegerArithmeticAlone ∧
  Sys2Proof.Claims.IntegerBits

/-- Every typed instruction, special function, conversion and collective executes and writes only its destination group. -/
def Obligations.TypedFrames : Prop :=
  Sys2Proof.Claims.TypedFramesAlone ∧
  Sys2Proof.Claims.ConversionFrames

/-- vcmp and vcmpi: the predicate bit of each active lane, under integer and floating-point types. -/
def Obligations.VectorCompares : Prop :=
  Sys2Proof.Claims.IntegerCompares ∧
  Sys2Proof.Claims.FloatCompares

/-- vget, vput and vote, in ordinary and in shadow launches. -/
def Obligations.ScalarsFromLanes : Prop :=
  Sys2Proof.Claims.VectorGetPut ∧
  Sys2Proof.Claims.Votes

/-- br, call, ret and brx.u, and bra and brx taken by all lanes or none. -/
def Obligations.Branches : Prop :=
  Sys2Proof.Claims.BranchesAlone ∧
  Sys2Proof.Claims.UniformBranches

/-- Divergent bra and brx divide the split without losing a lane; in a handler they trap ILLEGAL_CONTEXT.  A division of a shadow
launch, SPLIT_OVERFLOW and what a new split copies are said of bra; of brx, which divides by the same operation, its targets. -/
def Obligations.DividingBranches : Prop :=
  Sys2Proof.Claims.HandlerLimits ∧
  Sys2Proof.Claims.DivergentBranch ∧
  Sys2Proof.Claims.IndexedBranch

/-- jarm, jarv, jwait and jclr, the test of a join, the re-gang of the splits parked on it, and JOIN_DEADLOCK.  That the age of a merged split begins
anew is the model's choice (log entry 107), and that the join is tested at the trailer of `jwait` its reading (log entry 10). -/
def Obligations.Joins : Prop :=
  Sys2Proof.Claims.JoinRegisters ∧
  Sys2Proof.Claims.JoinTest ∧
  Sys2Proof.Claims.JoinDeadlock

/-- The trailer: the split leaves for its target, parks, returns, replies or ends as its run said, waits for a named register, and marks
unnamed destinations unawaited.  That a join is tested at the trailer of `jwait` is the model's reading (log entry 10). -/
def Obligations.Trailer : Prop :=
  Sys2Proof.Claims.TrailerAlone ∧
  Sys2Proof.Claims.TrailerWaits ∧
  Sys2Proof.Claims.TrailerEnds

/-- Taking a trap: saved registers, mode zero and the handler address; a double trap or no handler cancels; a far task replies. -/
def Obligations.TrapEntry : Prop :=
  Sys2Proof.Claims.TrapEntryAlone ∧
  Sys2Proof.Claims.TrapsWithoutHandler

/-- trap n, brk n and the return from a handler. -/
def Obligations.TrapInstructions : Prop :=
  Sys2Proof.Claims.TrapInstructionsAlone ∧
  Sys2Proof.Claims.TrapReturn

/-- bar.init, bar.arv, bar.wait, kbar and gbar. -/
def Obligations.Barriers : Prop :=
  Sys2Proof.Claims.BarrierObjects ∧
  Sys2Proof.Claims.BarrierTraps ∧
  Sys2Proof.Claims.SkeinAndGridBarriers

/-- fork, rdv and the stop of an engine program. -/
def Obligations.EngineProgramsForked : Prop :=
  Sys2Proof.Claims.EngineProgramsForkedAlone ∧
  Sys2Proof.Claims.EngineStops

/-- rcall, rcall.retry, rwait and rret. -/
def Obligations.FarCalls : Prop :=
  Sys2Proof.Claims.FarCallsAlone ∧
  Sys2Proof.Claims.FarReplies

/-- srd, swr and its forms, and sbnd: what each number reads and writes, what is ignored, and what traps, in a warp and in a far
task.  That a write of 0 to VALID clears CAUSE, COUNTER and CTL_CPYFLN with it is the model's reading (log entry 37), and so are the
zero that a far task reads for a number outside the table (log entry 40) and the fields of five bits that hold NENT, EXEC and OFFSET
(log entry 114).  That a write of 0 to NENT leaves of a load in its window what its other lanes received is its reading of R297 and
R300 (log entry 36); a stopped command completes by it (19_translation R300, 21_near_memory R321). -/
def Obligations.ControlRegisters : Prop :=
  Sys2Proof.Claims.ControlReads ∧
  Sys2Proof.Claims.ControlWrites ∧
  Sys2Proof.Claims.ControlForms ∧
  Sys2Proof.Claims.SelvedgeSet

/-- Every global load, store and atomic: lanes in ascending order, the outstanding result, and the traps of its addresses.  That an
access takes effect when its instruction issues is the model's choice (log entry 4), and that a non-canonical address traps
precisely at the word its reading of R188 against R295 (log entry 82). -/
def Obligations.GlobalAccesses : Prop :=
  Sys2Proof.Claims.GlobalAccessesAlone ∧
  Sys2Proof.Claims.GlobalTraps

/-- One access to the local tier: bytes loaded, stored or combined, and the class of the page. -/
def Obligations.LaneAccess : Prop :=
  Sys2Proof.Claims.LaneAccessAlone ∧
  Sys2Proof.Claims.PageClasses

/-- ldl, stl and atoml on the scratchpad. -/
def Obligations.ScratchpadAccesses : Prop :=
  Sys2Proof.Claims.ScratchpadAccessesAlone ∧
  Sys2Proof.Claims.ScratchpadAtomics

/-- The commands of the copy engine, near memory, modules and network enter their engine with the next number of their counter. -/
def Obligations.CommandsIssued : Prop :=
  Sys2Proof.Claims.CommandsIssuedAlone ∧
  Sys2Proof.Claims.EmptyCommands ∧
  Sys2Proof.Claims.SnapshotCommands ∧
  Sys2Proof.Claims.MessagesIssued ∧
  Sys2Proof.Claims.EmptyGets

/-- mq.put and mq.get, and what the modules of the pod do.  That a write relayed for another package drops every grant of its page is
the model's reading (log entry 75), and that a back-invalidation leaves the module's memory as it is too, since no cache holds a value
(log entry 4); so are the wait behind held accesses whose place is not known (13_consistency R219, R220; log entry 128), and a poisoned
queue read by its bytes (log entry 69).  That the mask of the contribution that opened a round says when it closes is its choice (log
entry 133). -/
def Obligations.ModuleQueues : Prop :=
  Sys2Proof.Claims.ModuleQueuesAlone ∧
  Sys2Proof.Claims.Reductions ∧
  Sys2Proof.Claims.Modules

/-- mma, msa, mzero, mzero.p, mmov and mring enter their queue where allowed, and stall while it is full; a warp not fully ganged traps
ILLEGAL_CONVERGENCE.  That a ring whose owner has a product queued is busy is the model's reading (log entry 24), and so is that
scratchpad operands and registers are read at issue (log entry 23). -/
def Obligations.MatrixQueued : Prop :=
  Sys2Proof.Claims.MatrixConvergence ∧
  Sys2Proof.Claims.MatrixQueuedAlone ∧
  Sys2Proof.Claims.ProductsQueued

/-- The matrix engine executes the oldest entry of a warp: elements of a product, tiles of a warp and of its ring, register groups,
P-valid and PDISC. -/
def Obligations.MatrixExecutes : Prop :=
  Sys2Proof.Claims.ProductElements ∧
  Sys2Proof.Claims.MatrixExecutesAlone

/-- e.pop, e.arv, e.wait, e.br and e.end.  When e.pop waits for an exited owner, and when it stops, is the model's reading (log entry
25), and so is that e.arv goes on at a poisoned object, where the last sentence of 25_reliability R345 is read of e.wait (log entry
135). -/
def Obligations.EngineSynchronisation : Prop :=
  Sys2Proof.Claims.RingPops ∧
  Sys2Proof.Claims.EngineSynchronisationAlone

/-- The issue selector, the fetch of a run, long-latency write-backs and acknowledgements.  That the acknowledgements a marker waits
for are the oldest ones is the model's reading (log entry 50), and so is what invalidations see of them (log entry 93), and the address
of a fetch fault of a run resumed in its middle, the word where it stood (log entry 64). -/
def Obligations.SelectionAndFetch : Prop :=
  Sys2Proof.Claims.SelectionAndFetchAlone ∧
  Sys2Proof.Claims.Arrivals

/-- Near-memory commands complete or stop with NEAR_PROGRESS; a return-free operation is performed at its unit.  The split that takes
the stop (log entry 20) and the ABORT end of a cancelled command (17_scheduling R283; log entry 112) are the model's choices. -/
def Obligations.NearCommands : Prop :=
  Sys2Proof.Claims.NearCommandsAlone ∧
  Sys2Proof.Claims.NearOperations

/-- Retirement of warps, skeins and grids; admission, pre-emption and saving of skeins. -/
def Obligations.Retirement : Prop :=
  Sys2Proof.Claims.RetirementAlone ∧
  Sys2Proof.Claims.Scheduling

/-- Power, start, reset, limits, fencing, host registers, SPDM and scrub.  What a conventional reset keeps is the model's reading (log
entry 66), what a Function Level Reset does too (log entry 67), and a scrub's leaving everything as it is (log entry 68); which
core's matrix issue is paused is its choice (log entry 104), and that groups are gated again (log entry 105). -/
def Obligations.Platform : Prop :=
  Sys2Proof.Claims.PowerAndReset ∧
  Sys2Proof.Claims.PlatformEvents
end

