-- ==== Sys2Proof/Laws/PerInstr.lean ====
section
/-! SUPPORT. The round trip of each instruction word, constructor by constructor: decoding the encoding of a well-formed
instruction gives it back.  An event has no encoding. -/

set_option linter.unusedSimpArgs false

namespace Sys2Proof.Laws

/-- A field of a concatenation that lies in its low part. -/
theorem extract_low {n m k l : Nat} (a : BitVec n) (b : BitVec m) (h : k + l ≤ m) :
    (a ++ b).extractLsb' k l = b.extractLsb' k l := by
  ext i hi
  simp only [BitVec.getElem_extractLsb', BitVec.getLsbD_append]
  rw [if_pos (by omega)]

/-- A field of a concatenation that lies in its high part. -/
theorem extract_high {n m k l : Nat} (a : BitVec n) (b : BitVec m) (h : m ≤ k) :
    (a ++ b).extractLsb' k l = a.extractLsb' (k - m) l := by
  ext i hi
  simp only [BitVec.getElem_extractLsb', BitVec.getLsbD_append]
  rw [if_neg (by omega)]
  congr 1; omega

/-- The whole of a vector is a field of it. -/
theorem extract_whole {n : Nat} (a : BitVec n) : a.extractLsb' 0 n = a := by simp

/-- A bit of a concatenation that lies in its low part. -/
theorem bit_low {n m k : Nat} (a : BitVec n) (b : BitVec m) (h : k < m) : (a ++ b).getLsbD k = b.getLsbD k := by
  rw [BitVec.getLsbD_append, if_pos h]

/-- A bit of a concatenation that lies in its high part. -/
theorem bit_high {n m k : Nat} (a : BitVec n) (b : BitVec m) (h : m ≤ k) :
    (a ++ b).getLsbD k = a.getLsbD (k - m) := by
  rw [BitVec.getLsbD_append, if_neg (by omega)]

/-- A word decodes to what `raw` reads from it where that is well formed and encodes as the word. -/
theorem decode_of_raw (i : Instr) (w : Word) (hr : raw w = .ok i) (he : encode i = some w) (hw : wellFormed i = true) :
    decode w = .ok i := by
  simp only [decode, hr]
  exact if_pos ⟨he, hw⟩

/-- The round trip of one instruction. -/
def RoundTrip.Statement (i : Instr) : Prop := ∀ w, encode i = some w → wellFormed i = true → decode w = .ok i

/-- The round trip from what `raw` reads of an encoding. -/
theorem roundTrip_of_raw (i : Instr) (w : Word) (he : encode i = some w) (hr : wellFormed i = true → raw w = .ok i) :
    RoundTrip.Statement i := by
  intro x hx hw
  have : w = x := Option.some.inj (he.symm.trans hx)
  exact this ▸ decode_of_raw i w (hr hw) he hw

/-- The fields of a word made of 8, 7, 7, 7, 3 bits. -/
theorem fields_8_7_7_7_3 (P : BitVec 8) (A : BitVec 7) (B : BitVec 7) (C : BitVec 7) (D : BitVec 3) :
    @BitVec.extractLsb' (8+7+7+7+3) 28 4 (P ++ A ++ B ++ C ++ D) = P.extractLsb' 4 4 ∧
    @BitVec.extractLsb' (8+7+7+7+3) 24 4 (P ++ A ++ B ++ C ++ D) = P.extractLsb' 0 4 ∧
    @BitVec.extractLsb' (8+7+7+7+3) 17 7 (P ++ A ++ B ++ C ++ D) = A ∧
    @BitVec.extractLsb' (8+7+7+7+3) 10 7 (P ++ A ++ B ++ C ++ D) = B ∧
    @BitVec.extractLsb' (8+7+7+7+3) 3 7 (P ++ A ++ B ++ C ++ D) = C ∧
    @BitVec.extractLsb' (8+7+7+7+3) 0 3 (P ++ A ++ B ++ C ++ D) = D ∧
    @BitVec.getLsbD (8+7+7+7+3) (P ++ A ++ B ++ C ++ D) 0 = D.getLsbD 0 := by
  refine ⟨?_, ?_, ?_, ?_, ?_, ?_, ?_⟩ <;>
    (simp (disch := omega) only [extract_low, extract_high, extract_whole, bit_low, bit_high]) <;>
    first | rfl | exact extract_whole _

/-- The fields of a word made of 8, 7, 7, 10 bits. -/
theorem fields_8_7_7_10 (P : BitVec 8) (A : BitVec 7) (B : BitVec 7) (C : BitVec 10) :
    @BitVec.extractLsb' (8+7+7+10) 28 4 (P ++ A ++ B ++ C) = P.extractLsb' 4 4 ∧
    @BitVec.extractLsb' (8+7+7+10) 24 4 (P ++ A ++ B ++ C) = P.extractLsb' 0 4 ∧
    @BitVec.extractLsb' (8+7+7+10) 17 7 (P ++ A ++ B ++ C) = A ∧
    @BitVec.extractLsb' (8+7+7+10) 10 7 (P ++ A ++ B ++ C) = B ∧
    @BitVec.extractLsb' (8+7+7+10) 0 10 (P ++ A ++ B ++ C) = C ∧
    @BitVec.getLsbD (8+7+7+10) (P ++ A ++ B ++ C) 0 = C.getLsbD 0 := by
  refine ⟨?_, ?_, ?_, ?_, ?_, ?_⟩ <;>
    (simp (disch := omega) only [extract_low, extract_high, extract_whole, bit_low, bit_high]) <;>
    first | rfl | exact extract_whole _

/-- The fields of a word made of 8, 7, 7, 7, 2, 1 bits. -/
theorem fields_8_7_7_7_2_1 (P : BitVec 8) (A : BitVec 7) (B : BitVec 7) (C : BitVec 7) (D : BitVec 2) (E : BitVec 1) :
    @BitVec.extractLsb' (8+7+7+7+2+1) 28 4 (P ++ A ++ B ++ C ++ D ++ E) = P.extractLsb' 4 4 ∧
    @BitVec.extractLsb' (8+7+7+7+2+1) 24 4 (P ++ A ++ B ++ C ++ D ++ E) = P.extractLsb' 0 4 ∧
    @BitVec.extractLsb' (8+7+7+7+2+1) 17 7 (P ++ A ++ B ++ C ++ D ++ E) = A ∧
    @BitVec.extractLsb' (8+7+7+7+2+1) 10 7 (P ++ A ++ B ++ C ++ D ++ E) = B ∧
    @BitVec.extractLsb' (8+7+7+7+2+1) 3 7 (P ++ A ++ B ++ C ++ D ++ E) = C ∧
    @BitVec.extractLsb' (8+7+7+7+2+1) 0 1 (P ++ A ++ B ++ C ++ D ++ E) = E := by
  refine ⟨?_, ?_, ?_, ?_, ?_, ?_⟩ <;>
    (simp (disch := omega) only [extract_low, extract_high, extract_whole, bit_low, bit_high]) <;>
    first | rfl | exact extract_whole _

/-- The fields of a word made of 8, 7, 7, 5, 5 bits. -/
theorem fields_8_7_7_5_5 (P : BitVec 8) (A : BitVec 7) (B : BitVec 7) (C : BitVec 5) (D : BitVec 5) :
    @BitVec.extractLsb' (8+7+7+5+5) 28 4 (P ++ A ++ B ++ C ++ D) = P.extractLsb' 4 4 ∧
    @BitVec.extractLsb' (8+7+7+5+5) 24 4 (P ++ A ++ B ++ C ++ D) = P.extractLsb' 0 4 ∧
    @BitVec.extractLsb' (8+7+7+5+5) 17 7 (P ++ A ++ B ++ C ++ D) = A ∧
    @BitVec.extractLsb' (8+7+7+5+5) 10 7 (P ++ A ++ B ++ C ++ D) = B ∧
    @BitVec.extractLsb' (8+7+7+5+5) 0 5 (P ++ A ++ B ++ C ++ D) = D := by
  refine ⟨?_, ?_, ?_, ?_, ?_⟩ <;>
    (simp (disch := omega) only [extract_low, extract_high, extract_whole, bit_low, bit_high]) <;>
    first | rfl | exact extract_whole _

/-- The fields of a word made of 8, 7, 1, 16 bits. -/
theorem fields_8_7_1_16 (P : BitVec 8) (A : BitVec 7) (B : BitVec 1) (C : BitVec 16) :
    @BitVec.extractLsb' (8+7+1+16) 28 4 (P ++ A ++ B ++ C) = P.extractLsb' 4 4 ∧
    @BitVec.extractLsb' (8+7+1+16) 24 4 (P ++ A ++ B ++ C) = P.extractLsb' 0 4 ∧
    @BitVec.getLsbD (8+7+1+16) (P ++ A ++ B ++ C) 16 = B.getLsbD 0 ∧
    @BitVec.extractLsb' (8+7+1+16) 17 7 (P ++ A ++ B ++ C) = A ∧
    @BitVec.extractLsb' (8+7+1+16) 0 16 (P ++ A ++ B ++ C) = C := by
  refine ⟨?_, ?_, ?_, ?_, ?_⟩ <;>
    (simp (disch := omega) only [extract_low, extract_high, extract_whole, bit_low, bit_high]) <;>
    first | rfl | exact extract_whole _

/-- The fields of a word made of 8, 7, 7, 7, 1, 2 bits. -/
theorem fields_8_7_7_7_1_2 (P : BitVec 8) (A : BitVec 7) (B : BitVec 7) (C : BitVec 7) (D : BitVec 1) (E : BitVec 2) :
    @BitVec.extractLsb' (8+7+7+7+1+2) 28 4 (P ++ A ++ B ++ C ++ D ++ E) = P.extractLsb' 4 4 ∧
    @BitVec.extractLsb' (8+7+7+7+1+2) 24 4 (P ++ A ++ B ++ C ++ D ++ E) = P.extractLsb' 0 4 ∧
    @BitVec.extractLsb' (8+7+7+7+1+2) 17 7 (P ++ A ++ B ++ C ++ D ++ E) = A ∧
    @BitVec.extractLsb' (8+7+7+7+1+2) 10 7 (P ++ A ++ B ++ C ++ D ++ E) = B ∧
    @BitVec.extractLsb' (8+7+7+7+1+2) 3 7 (P ++ A ++ B ++ C ++ D ++ E) = C ∧
    @BitVec.extractLsb' (8+7+7+7+1+2) 0 2 (P ++ A ++ B ++ C ++ D ++ E) = E := by
  refine ⟨?_, ?_, ?_, ?_, ?_, ?_⟩ <;>
    (simp (disch := omega) only [extract_low, extract_high, extract_whole, bit_low, bit_high]) <;>
    first | rfl | exact extract_whole _

/-- The fields of a word made of 8, 7, 7, 3, 7 bits. -/
theorem fields_8_7_7_3_7 (P : BitVec 8) (A : BitVec 7) (B : BitVec 7) (C : BitVec 3) (D : BitVec 7) :
    @BitVec.extractLsb' (8+7+7+3+7) 28 4 (P ++ A ++ B ++ C ++ D) = P.extractLsb' 4 4 ∧
    @BitVec.extractLsb' (8+7+7+3+7) 24 4 (P ++ A ++ B ++ C ++ D) = P.extractLsb' 0 4 ∧
    @BitVec.extractLsb' (8+7+7+3+7) 17 7 (P ++ A ++ B ++ C ++ D) = A ∧
    @BitVec.extractLsb' (8+7+7+3+7) 10 7 (P ++ A ++ B ++ C ++ D) = B ∧
    @BitVec.extractLsb' (8+7+7+3+7) 0 7 (P ++ A ++ B ++ C ++ D) = D := by
  refine ⟨?_, ?_, ?_, ?_, ?_⟩ <;>
    (simp (disch := omega) only [extract_low, extract_high, extract_whole, bit_low, bit_high]) <;>
    first | rfl | exact extract_whole _

/-- The fields of a word made of 8, 7, 7, 4, 3, 3 bits. -/
theorem fields_8_7_7_4_3_3 (P : BitVec 8) (A : BitVec 7) (B : BitVec 7) (C : BitVec 4) (D : BitVec 3) (E : BitVec 3) :
    @BitVec.extractLsb' (8+7+7+4+3+3) 28 4 (P ++ A ++ B ++ C ++ D ++ E) = P.extractLsb' 4 4 ∧
    @BitVec.extractLsb' (8+7+7+4+3+3) 24 4 (P ++ A ++ B ++ C ++ D ++ E) = P.extractLsb' 0 4 ∧
    @BitVec.extractLsb' (8+7+7+4+3+3) 17 7 (P ++ A ++ B ++ C ++ D ++ E) = A ∧
    @BitVec.extractLsb' (8+7+7+4+3+3) 10 7 (P ++ A ++ B ++ C ++ D ++ E) = B ∧
    @BitVec.extractLsb' (8+7+7+4+3+3) 6 4 (P ++ A ++ B ++ C ++ D ++ E) = C ∧
    @BitVec.extractLsb' (8+7+7+4+3+3) 3 3 (P ++ A ++ B ++ C ++ D ++ E) = D := by
  refine ⟨?_, ?_, ?_, ?_, ?_, ?_⟩ <;>
    (simp (disch := omega) only [extract_low, extract_high, extract_whole, bit_low, bit_high]) <;>
    first | rfl | exact extract_whole _

/-- The fields of a word made of 8, 7, 7, 5, 2, 3 bits. -/
theorem fields_8_7_7_5_2_3 (P : BitVec 8) (A : BitVec 7) (B : BitVec 7) (C : BitVec 5) (D : BitVec 2) (E : BitVec 3) :
    @BitVec.extractLsb' (8+7+7+5+2+3) 28 4 (P ++ A ++ B ++ C ++ D ++ E) = P.extractLsb' 4 4 ∧
    @BitVec.extractLsb' (8+7+7+5+2+3) 24 4 (P ++ A ++ B ++ C ++ D ++ E) = P.extractLsb' 0 4 ∧
    @BitVec.extractLsb' (8+7+7+5+2+3) 17 7 (P ++ A ++ B ++ C ++ D ++ E) = A ∧
    @BitVec.extractLsb' (8+7+7+5+2+3) 10 7 (P ++ A ++ B ++ C ++ D ++ E) = B ∧
    @BitVec.extractLsb' (8+7+7+5+2+3) 3 2 (P ++ A ++ B ++ C ++ D ++ E) = D ∧
    @BitVec.extractLsb' (8+7+7+5+2+3) 0 3 (P ++ A ++ B ++ C ++ D ++ E) = E := by
  refine ⟨?_, ?_, ?_, ?_, ?_, ?_⟩ <;>
    (simp (disch := omega) only [extract_low, extract_high, extract_whole, bit_low, bit_high]) <;>
    first | rfl | exact extract_whole _

/-- The fields of a word made of 8, 4, 3, 7, 7, 3 bits. -/
theorem fields_8_4_3_7_7_3 (P : BitVec 8) (A : BitVec 4) (B : BitVec 3) (C : BitVec 7) (D : BitVec 7) (E : BitVec 3) :
    @BitVec.extractLsb' (8+4+3+7+7+3) 28 4 (P ++ A ++ B ++ C ++ D ++ E) = P.extractLsb' 4 4 ∧
    @BitVec.extractLsb' (8+4+3+7+7+3) 24 4 (P ++ A ++ B ++ C ++ D ++ E) = P.extractLsb' 0 4 ∧
    @BitVec.extractLsb' (8+4+3+7+7+3) 17 3 (P ++ A ++ B ++ C ++ D ++ E) = B ∧
    @BitVec.extractLsb' (8+4+3+7+7+3) 10 7 (P ++ A ++ B ++ C ++ D ++ E) = C ∧
    @BitVec.extractLsb' (8+4+3+7+7+3) 3 7 (P ++ A ++ B ++ C ++ D ++ E) = D ∧
    @BitVec.extractLsb' (8+4+3+7+7+3) 0 3 (P ++ A ++ B ++ C ++ D ++ E) = E := by
  refine ⟨?_, ?_, ?_, ?_, ?_, ?_⟩ <;>
    (simp (disch := omega) only [extract_low, extract_high, extract_whole, bit_low, bit_high]) <;>
    first | rfl | exact extract_whole _

/-- The fields of a word made of 8, 4, 3, 4, 3, 4, 3, 1, 1, 1 bits. -/
theorem fields_8_4_3_4_3_4_3_1_1_1 (P : BitVec 8) (A : BitVec 4) (B : BitVec 3) (C : BitVec 4) (D : BitVec 3) (E : BitVec 4) (F : BitVec 3) (G : BitVec 1) (H : BitVec 1) (I : BitVec 1) :
    @BitVec.extractLsb' (8+4+3+4+3+4+3+1+1+1) 28 4 (P ++ A ++ B ++ C ++ D ++ E ++ F ++ G ++ H ++ I) = P.extractLsb' 4 4 ∧
    @BitVec.extractLsb' (8+4+3+4+3+4+3+1+1+1) 24 4 (P ++ A ++ B ++ C ++ D ++ E ++ F ++ G ++ H ++ I) = P.extractLsb' 0 4 ∧
    @BitVec.extractLsb' (8+4+3+4+3+4+3+1+1+1) 17 3 (P ++ A ++ B ++ C ++ D ++ E ++ F ++ G ++ H ++ I) = B ∧
    @BitVec.extractLsb' (8+4+3+4+3+4+3+1+1+1) 10 3 (P ++ A ++ B ++ C ++ D ++ E ++ F ++ G ++ H ++ I) = D ∧
    @BitVec.extractLsb' (8+4+3+4+3+4+3+1+1+1) 3 3 (P ++ A ++ B ++ C ++ D ++ E ++ F ++ G ++ H ++ I) = F ∧
    @BitVec.extractLsb' (8+4+3+4+3+4+3+1+1+1) 1 1 (P ++ A ++ B ++ C ++ D ++ E ++ F ++ G ++ H ++ I) = H ∧
    @BitVec.extractLsb' (8+4+3+4+3+4+3+1+1+1) 0 1 (P ++ A ++ B ++ C ++ D ++ E ++ F ++ G ++ H ++ I) = I := by
  refine ⟨?_, ?_, ?_, ?_, ?_, ?_, ?_⟩ <;>
    (simp (disch := omega) only [extract_low, extract_high, extract_whole, bit_low, bit_high]) <;>
    first | rfl | exact extract_whole _

/-- The fields of a word made of 8, 4, 3, 4, 3, 9, 1 bits. -/
theorem fields_8_4_3_4_3_9_1 (P : BitVec 8) (A : BitVec 4) (B : BitVec 3) (C : BitVec 4) (D : BitVec 3) (E : BitVec 9) (F : BitVec 1) :
    @BitVec.extractLsb' (8+4+3+4+3+9+1) 28 4 (P ++ A ++ B ++ C ++ D ++ E ++ F) = P.extractLsb' 4 4 ∧
    @BitVec.extractLsb' (8+4+3+4+3+9+1) 24 4 (P ++ A ++ B ++ C ++ D ++ E ++ F) = P.extractLsb' 0 4 ∧
    @BitVec.extractLsb' (8+4+3+4+3+9+1) 1 2 (P ++ A ++ B ++ C ++ D ++ E ++ F) = E.extractLsb' 0 2 ∧
    @BitVec.extractLsb' (8+4+3+4+3+9+1) 17 3 (P ++ A ++ B ++ C ++ D ++ E ++ F) = B ∧
    @BitVec.extractLsb' (8+4+3+4+3+9+1) 10 3 (P ++ A ++ B ++ C ++ D ++ E ++ F) = D ∧
    @BitVec.extractLsb' (8+4+3+4+3+9+1) 0 1 (P ++ A ++ B ++ C ++ D ++ E ++ F) = F := by
  refine ⟨?_, ?_, ?_, ?_, ?_, ?_⟩ <;>
    (simp (disch := omega) only [extract_low, extract_high, extract_whole, bit_low, bit_high]) <;>
    first | rfl | exact extract_whole _

/-- The fields of a word made of 8, 4, 3, 7, 9, 1 bits. -/
theorem fields_8_4_3_7_9_1 (P : BitVec 8) (A : BitVec 4) (B : BitVec 3) (C : BitVec 7) (D : BitVec 9) (E : BitVec 1) :
    @BitVec.extractLsb' (8+4+3+7+9+1) 28 4 (P ++ A ++ B ++ C ++ D ++ E) = P.extractLsb' 4 4 ∧
    @BitVec.extractLsb' (8+4+3+7+9+1) 24 4 (P ++ A ++ B ++ C ++ D ++ E) = P.extractLsb' 0 4 ∧
    @BitVec.extractLsb' (8+4+3+7+9+1) 1 2 (P ++ A ++ B ++ C ++ D ++ E) = D.extractLsb' 0 2 ∧
    @BitVec.extractLsb' (8+4+3+7+9+1) 17 3 (P ++ A ++ B ++ C ++ D ++ E) = B ∧
    @BitVec.extractLsb' (8+4+3+7+9+1) 10 7 (P ++ A ++ B ++ C ++ D ++ E) = C ∧
    @BitVec.extractLsb' (8+4+3+7+9+1) 0 1 (P ++ A ++ B ++ C ++ D ++ E) = E := by
  refine ⟨?_, ?_, ?_, ?_, ?_, ?_⟩ <;>
    (simp (disch := omega) only [extract_low, extract_high, extract_whole, bit_low, bit_high]) <;>
    first | rfl | exact extract_whole _

/-- The fields of a word made of 8, 7, 4, 3, 9, 1 bits. -/
theorem fields_8_7_4_3_9_1 (P : BitVec 8) (A : BitVec 7) (B : BitVec 4) (C : BitVec 3) (D : BitVec 9) (E : BitVec 1) :
    @BitVec.extractLsb' (8+7+4+3+9+1) 28 4 (P ++ A ++ B ++ C ++ D ++ E) = P.extractLsb' 4 4 ∧
    @BitVec.extractLsb' (8+7+4+3+9+1) 24 4 (P ++ A ++ B ++ C ++ D ++ E) = P.extractLsb' 0 4 ∧
    @BitVec.extractLsb' (8+7+4+3+9+1) 1 2 (P ++ A ++ B ++ C ++ D ++ E) = D.extractLsb' 0 2 ∧
    @BitVec.extractLsb' (8+7+4+3+9+1) 17 7 (P ++ A ++ B ++ C ++ D ++ E) = A ∧
    @BitVec.extractLsb' (8+7+4+3+9+1) 10 3 (P ++ A ++ B ++ C ++ D ++ E) = C ∧
    @BitVec.extractLsb' (8+7+4+3+9+1) 0 1 (P ++ A ++ B ++ C ++ D ++ E) = E := by
  refine ⟨?_, ?_, ?_, ?_, ?_, ?_⟩ <;>
    (simp (disch := omega) only [extract_low, extract_high, extract_whole, bit_low, bit_high]) <;>
    first | rfl | exact extract_whole _

/-- The fields of a word made of 8, 7, 7, 9, 1 bits. -/
theorem fields_8_7_7_9_1 (P : BitVec 8) (A : BitVec 7) (B : BitVec 7) (C : BitVec 9) (D : BitVec 1) :
    @BitVec.extractLsb' (8+7+7+9+1) 28 4 (P ++ A ++ B ++ C ++ D) = P.extractLsb' 4 4 ∧
    @BitVec.extractLsb' (8+7+7+9+1) 24 4 (P ++ A ++ B ++ C ++ D) = P.extractLsb' 0 4 ∧
    @BitVec.extractLsb' (8+7+7+9+1) 17 7 (P ++ A ++ B ++ C ++ D) = A ∧
    @BitVec.extractLsb' (8+7+7+9+1) 10 7 (P ++ A ++ B ++ C ++ D) = B ∧
    @BitVec.extractLsb' (8+7+7+9+1) 0 1 (P ++ A ++ B ++ C ++ D) = D := by
  refine ⟨?_, ?_, ?_, ?_, ?_⟩ <;>
    (simp (disch := omega) only [extract_low, extract_high, extract_whole, bit_low, bit_high]) <;>
    first | rfl | exact extract_whole _

/-- The fields of a word made of 8, 7, 17 bits. -/
theorem fields_8_7_17 (P : BitVec 8) (A : BitVec 7) (B : BitVec 17) :
    @BitVec.extractLsb' (8+7+17) 28 4 (P ++ A ++ B) = P.extractLsb' 4 4 ∧
    @BitVec.extractLsb' (8+7+17) 24 4 (P ++ A ++ B) = P.extractLsb' 0 4 ∧
    @BitVec.extractLsb' (8+7+17) 17 7 (P ++ A ++ B) = A ∧
    @BitVec.extractLsb' (8+7+17) 0 17 (P ++ A ++ B) = B := by
  refine ⟨?_, ?_, ?_, ?_⟩ <;>
    (simp (disch := omega) only [extract_low, extract_high, extract_whole, bit_low, bit_high]) <;>
    first | rfl | exact extract_whole _

/-- The fields of a word made of 8, 7, 16, 1 bits. -/
theorem fields_8_7_16_1 (P : BitVec 8) (A : BitVec 7) (B : BitVec 16) (C : BitVec 1) :
    @BitVec.extractLsb' (8+7+16+1) 28 4 (P ++ A ++ B ++ C) = P.extractLsb' 4 4 ∧
    @BitVec.extractLsb' (8+7+16+1) 24 4 (P ++ A ++ B ++ C) = P.extractLsb' 0 4 ∧
    @BitVec.extractLsb' (8+7+16+1) 17 7 (P ++ A ++ B ++ C) = A ∧
    @BitVec.extractLsb' (8+7+16+1) 0 1 (P ++ A ++ B ++ C) = C := by
  refine ⟨?_, ?_, ?_, ?_⟩ <;>
    (simp (disch := omega) only [extract_low, extract_high, extract_whole, bit_low, bit_high]) <;>
    first | rfl | exact extract_whole _

/-- The fields of a word made of 8, 7, 7, 3, 4, 3 bits. -/
theorem fields_8_7_7_3_4_3 (P : BitVec 8) (A : BitVec 7) (B : BitVec 7) (C : BitVec 3) (D : BitVec 4) (E : BitVec 3) :
    @BitVec.extractLsb' (8+7+7+3+4+3) 28 4 (P ++ A ++ B ++ C ++ D ++ E) = P.extractLsb' 4 4 ∧
    @BitVec.extractLsb' (8+7+7+3+4+3) 24 4 (P ++ A ++ B ++ C ++ D ++ E) = P.extractLsb' 0 4 ∧
    @BitVec.extractLsb' (8+7+7+3+4+3) 17 7 (P ++ A ++ B ++ C ++ D ++ E) = A ∧
    @BitVec.extractLsb' (8+7+7+3+4+3) 10 7 (P ++ A ++ B ++ C ++ D ++ E) = B ∧
    @BitVec.extractLsb' (8+7+7+3+4+3) 3 4 (P ++ A ++ B ++ C ++ D ++ E) = D := by
  refine ⟨?_, ?_, ?_, ?_, ?_⟩ <;>
    (simp (disch := omega) only [extract_low, extract_high, extract_whole, bit_low, bit_high]) <;>
    first | rfl | exact extract_whole _

/-- The fields of a word made of 8, 7, 7, 7, 1, 1, 1 bits. -/
theorem fields_8_7_7_7_1_1_1 (P : BitVec 8) (A : BitVec 7) (B : BitVec 7) (C : BitVec 7) (D : BitVec 1) (E : BitVec 1) (F : BitVec 1) :
    @BitVec.extractLsb' (8+7+7+7+1+1+1) 28 4 (P ++ A ++ B ++ C ++ D ++ E ++ F) = P.extractLsb' 4 4 ∧
    @BitVec.extractLsb' (8+7+7+7+1+1+1) 24 4 (P ++ A ++ B ++ C ++ D ++ E ++ F) = P.extractLsb' 0 4 ∧
    @BitVec.extractLsb' (8+7+7+7+1+1+1) 17 7 (P ++ A ++ B ++ C ++ D ++ E ++ F) = A ∧
    @BitVec.extractLsb' (8+7+7+7+1+1+1) 10 7 (P ++ A ++ B ++ C ++ D ++ E ++ F) = B ∧
    @BitVec.extractLsb' (8+7+7+7+1+1+1) 3 7 (P ++ A ++ B ++ C ++ D ++ E ++ F) = C ∧
    @BitVec.extractLsb' (8+7+7+7+1+1+1) 1 1 (P ++ A ++ B ++ C ++ D ++ E ++ F) = E ∧
    @BitVec.extractLsb' (8+7+7+7+1+1+1) 0 1 (P ++ A ++ B ++ C ++ D ++ E ++ F) = F := by
  refine ⟨?_, ?_, ?_, ?_, ?_, ?_, ?_⟩ <;>
    (simp (disch := omega) only [extract_low, extract_high, extract_whole, bit_low, bit_high]) <;>
    first | rfl | exact extract_whole _

/-- The fields of a word made of 8, 7, 3, 1, 3, 7, 3 bits. -/
theorem fields_8_7_3_1_3_7_3 (P : BitVec 8) (A : BitVec 7) (B : BitVec 3) (C : BitVec 1) (D : BitVec 3) (E : BitVec 7) (F : BitVec 3) :
    @BitVec.extractLsb' (8+7+3+1+3+7+3) 28 4 (P ++ A ++ B ++ C ++ D ++ E ++ F) = P.extractLsb' 4 4 ∧
    @BitVec.extractLsb' (8+7+3+1+3+7+3) 24 4 (P ++ A ++ B ++ C ++ D ++ E ++ F) = P.extractLsb' 0 4 ∧
    @BitVec.extractLsb' (8+7+3+1+3+7+3) 17 7 (P ++ A ++ B ++ C ++ D ++ E ++ F) = A ∧
    @BitVec.extractLsb' (8+7+3+1+3+7+3) 13 1 (P ++ A ++ B ++ C ++ D ++ E ++ F) = C ∧
    @BitVec.extractLsb' (8+7+3+1+3+7+3) 10 3 (P ++ A ++ B ++ C ++ D ++ E ++ F) = D ∧
    @BitVec.extractLsb' (8+7+3+1+3+7+3) 0 3 (P ++ A ++ B ++ C ++ D ++ E ++ F) = F := by
  refine ⟨?_, ?_, ?_, ?_, ?_, ?_⟩ <;>
    (simp (disch := omega) only [extract_low, extract_high, extract_whole, bit_low, bit_high]) <;>
    first | rfl | exact extract_whole _

/-- The fields of a word made of 8, 7, 7, 6, 1, 3 bits. -/
theorem fields_8_7_7_6_1_3 (P : BitVec 8) (A : BitVec 7) (B : BitVec 7) (C : BitVec 6) (D : BitVec 1) (E : BitVec 3) :
    @BitVec.extractLsb' (8+7+7+6+1+3) 28 4 (P ++ A ++ B ++ C ++ D ++ E) = P.extractLsb' 4 4 ∧
    @BitVec.extractLsb' (8+7+7+6+1+3) 24 4 (P ++ A ++ B ++ C ++ D ++ E) = P.extractLsb' 0 4 ∧
    @BitVec.extractLsb' (8+7+7+6+1+3) 17 7 (P ++ A ++ B ++ C ++ D ++ E) = A ∧
    @BitVec.extractLsb' (8+7+7+6+1+3) 10 7 (P ++ A ++ B ++ C ++ D ++ E) = B ∧
    @BitVec.extractLsb' (8+7+7+6+1+3) 3 1 (P ++ A ++ B ++ C ++ D ++ E) = D ∧
    @BitVec.extractLsb' (8+7+7+6+1+3) 0 3 (P ++ A ++ B ++ C ++ D ++ E) = E ∧
    @BitVec.extractLsb' (8+7+7+6+1+3) 4 6 (P ++ A ++ B ++ C ++ D ++ E) = C := by
  refine ⟨?_, ?_, ?_, ?_, ?_, ?_, ?_⟩ <;>
    (simp (disch := omega) only [extract_low, extract_high, extract_whole, bit_low, bit_high]) <;>
    first | rfl | exact extract_whole _

/-- The fields of a word made of 8, 24 bits. -/
theorem fields_8_24 (P : BitVec 8) (A : BitVec 24) :
    @BitVec.extractLsb' (8+24) 28 4 (P ++ A) = P.extractLsb' 4 4 ∧
    @BitVec.extractLsb' (8+24) 24 4 (P ++ A) = P.extractLsb' 0 4 ∧
    @BitVec.extractLsb' (8+24) 0 24 (P ++ A) = A ∧
    @BitVec.getLsbD (8+24) (P ++ A) 22 = A.getLsbD 22 ∧
    @BitVec.extractLsb' (8+24) 18 6 (P ++ A) = A.extractLsb' 18 6 := by
  refine ⟨?_, ?_, ?_, ?_, ?_⟩ <;>
    (simp (disch := omega) only [extract_low, extract_high, extract_whole, bit_low, bit_high]) <;>
    first | rfl | exact extract_whole _

/-- The fields of a word made of 8, 3, 1, 20 bits. -/
theorem fields_8_3_1_20 (P : BitVec 8) (A : BitVec 3) (B : BitVec 1) (C : BitVec 20) :
    @BitVec.extractLsb' (8+3+1+20) 28 4 (P ++ A ++ B ++ C) = P.extractLsb' 4 4 ∧
    @BitVec.extractLsb' (8+3+1+20) 24 4 (P ++ A ++ B ++ C) = P.extractLsb' 0 4 ∧
    @BitVec.extractLsb' (8+3+1+20) 21 3 (P ++ A ++ B ++ C) = A ∧
    @BitVec.extractLsb' (8+3+1+20) 20 1 (P ++ A ++ B ++ C) = B ∧
    @BitVec.extractLsb' (8+3+1+20) 0 20 (P ++ A ++ B ++ C) = C := by
  refine ⟨?_, ?_, ?_, ?_, ?_⟩ <;>
    (simp (disch := omega) only [extract_low, extract_high, extract_whole, bit_low, bit_high]) <;>
    first | rfl | exact extract_whole _

/-- The fields of a word made of 8, 3, 6, 15 bits. -/
theorem fields_8_3_6_15 (P : BitVec 8) (A : BitVec 3) (B : BitVec 6) (C : BitVec 15) :
    @BitVec.extractLsb' (8+3+6+15) 28 4 (P ++ A ++ B ++ C) = P.extractLsb' 4 4 ∧
    @BitVec.extractLsb' (8+3+6+15) 24 4 (P ++ A ++ B ++ C) = P.extractLsb' 0 4 ∧
    @BitVec.extractLsb' (8+3+6+15) 21 3 (P ++ A ++ B ++ C) = A ∧
    @BitVec.extractLsb' (8+3+6+15) 15 6 (P ++ A ++ B ++ C) = B ∧
    @BitVec.extractLsb' (8+3+6+15) 0 15 (P ++ A ++ B ++ C) = C := by
  refine ⟨?_, ?_, ?_, ?_, ?_⟩ <;>
    (simp (disch := omega) only [extract_low, extract_high, extract_whole, bit_low, bit_high]) <;>
    first | rfl | exact extract_whole _

/-- The fields of a word made of 8, 4, 2, 18 bits. -/
theorem fields_8_4_2_18 (P : BitVec 8) (A : BitVec 4) (B : BitVec 2) (C : BitVec 18) :
    @BitVec.extractLsb' (8+4+2+18) 28 4 (P ++ A ++ B ++ C) = P.extractLsb' 4 4 ∧
    @BitVec.extractLsb' (8+4+2+18) 24 4 (P ++ A ++ B ++ C) = P.extractLsb' 0 4 ∧
    @BitVec.extractLsb' (8+4+2+18) 18 2 (P ++ A ++ B ++ C) = B := by
  refine ⟨?_, ?_, ?_⟩ <;>
    (simp (disch := omega) only [extract_low, extract_high, extract_whole, bit_low, bit_high]) <;>
    first | rfl | exact extract_whole _

/-- The fields of a word made of 8, 6, 18 bits. -/
theorem fields_8_6_18 (P : BitVec 8) (A : BitVec 6) (B : BitVec 18) :
    @BitVec.extractLsb' (8+6+18) 28 4 (P ++ A ++ B) = P.extractLsb' 4 4 ∧
    @BitVec.extractLsb' (8+6+18) 24 4 (P ++ A ++ B) = P.extractLsb' 0 4 ∧
    @BitVec.extractLsb' (8+6+18) 18 6 (P ++ A ++ B) = A := by
  refine ⟨?_, ?_, ?_⟩ <;>
    (simp (disch := omega) only [extract_low, extract_high, extract_whole, bit_low, bit_high]) <;>
    first | rfl | exact extract_whole _

/-- The fields of a word made of 8, 2, 5, 3, 14 bits. -/
theorem fields_8_2_5_3_14 (P : BitVec 8) (A : BitVec 2) (B : BitVec 5) (C : BitVec 3) (D : BitVec 14) :
    @BitVec.extractLsb' (8+2+5+3+14) 28 4 (P ++ A ++ B ++ C ++ D) = P.extractLsb' 4 4 ∧
    @BitVec.extractLsb' (8+2+5+3+14) 24 4 (P ++ A ++ B ++ C ++ D) = P.extractLsb' 0 4 ∧
    @BitVec.extractLsb' (8+2+5+3+14) 17 5 (P ++ A ++ B ++ C ++ D) = B ∧
    @BitVec.extractLsb' (8+2+5+3+14) 0 14 (P ++ A ++ B ++ C ++ D) = D := by
  refine ⟨?_, ?_, ?_, ?_⟩ <;>
    (simp (disch := omega) only [extract_low, extract_high, extract_whole, bit_low, bit_high]) <;>
    first | rfl | exact extract_whole _

/-- The fields of a word made of 8, 6, 6, 6, 6 bits. -/
theorem fields_8_6_6_6_6 (P : BitVec 8) (A : BitVec 6) (B : BitVec 6) (C : BitVec 6) (D : BitVec 6) :
    @BitVec.extractLsb' (8+6+6+6+6) 28 4 (P ++ A ++ B ++ C ++ D) = P.extractLsb' 4 4 ∧
    @BitVec.extractLsb' (8+6+6+6+6) 24 4 (P ++ A ++ B ++ C ++ D) = P.extractLsb' 0 4 ∧
    @BitVec.extractLsb' (8+6+6+6+6) 12 6 (P ++ A ++ B ++ C ++ D) = B ∧
    @BitVec.extractLsb' (8+6+6+6+6) 6 6 (P ++ A ++ B ++ C ++ D) = C ∧
    @BitVec.extractLsb' (8+6+6+6+6) 0 6 (P ++ A ++ B ++ C ++ D) = D ∧
    @BitVec.getLsbD (8+6+6+6+6) (P ++ A ++ B ++ C ++ D) 18 = A.getLsbD 0 ∧
    @BitVec.extractLsb' (8+6+6+6+6) 18 6 (P ++ A ++ B ++ C ++ D) = A ∧
    @BitVec.extractLsb' (8+6+6+6+6) 23 1 (P ++ A ++ B ++ C ++ D) = A.extractLsb' 5 1 := by
  refine ⟨?_, ?_, ?_, ?_, ?_, ?_, ?_, ?_⟩ <;>
    (simp (disch := omega) only [extract_low, extract_high, extract_whole, bit_low, bit_high]) <;>
    first | rfl | exact extract_whole _

/-- The fields of a word made of 8, 6, 6, 12 bits. -/
theorem fields_8_6_6_12 (P : BitVec 8) (A : BitVec 6) (B : BitVec 6) (C : BitVec 12) :
    @BitVec.extractLsb' (8+6+6+12) 28 4 (P ++ A ++ B ++ C) = P.extractLsb' 4 4 ∧
    @BitVec.extractLsb' (8+6+6+12) 24 4 (P ++ A ++ B ++ C) = P.extractLsb' 0 4 ∧
    @BitVec.extractLsb' (8+6+6+12) 12 6 (P ++ A ++ B ++ C) = B ∧
    @BitVec.extractLsb' (8+6+6+12) 18 6 (P ++ A ++ B ++ C) = A ∧
    @BitVec.extractLsb' (8+6+6+12) 0 12 (P ++ A ++ B ++ C) = C := by
  refine ⟨?_, ?_, ?_, ?_, ?_⟩ <;>
    (simp (disch := omega) only [extract_low, extract_high, extract_whole, bit_low, bit_high]) <;>
    first | rfl | exact extract_whole _

/-- The fields of a word made of 8, 1, 5, 6, 6, 6 bits. -/
theorem fields_8_1_5_6_6_6 (P : BitVec 8) (A : BitVec 1) (B : BitVec 5) (C : BitVec 6) (D : BitVec 6) (E : BitVec 6) :
    @BitVec.extractLsb' (8+1+5+6+6+6) 28 4 (P ++ A ++ B ++ C ++ D ++ E) = P.extractLsb' 4 4 ∧
    @BitVec.extractLsb' (8+1+5+6+6+6) 24 4 (P ++ A ++ B ++ C ++ D ++ E) = P.extractLsb' 0 4 ∧
    @BitVec.getLsbD (8+1+5+6+6+6) (P ++ A ++ B ++ C ++ D ++ E) 23 = A.getLsbD 0 ∧
    @BitVec.extractLsb' (8+1+5+6+6+6) 18 5 (P ++ A ++ B ++ C ++ D ++ E) = B ∧
    @BitVec.extractLsb' (8+1+5+6+6+6) 12 6 (P ++ A ++ B ++ C ++ D ++ E) = C ∧
    @BitVec.extractLsb' (8+1+5+6+6+6) 6 6 (P ++ A ++ B ++ C ++ D ++ E) = D ∧
    @BitVec.extractLsb' (8+1+5+6+6+6) 0 6 (P ++ A ++ B ++ C ++ D ++ E) = E := by
  refine ⟨?_, ?_, ?_, ?_, ?_, ?_, ?_⟩ <;>
    (simp (disch := omega) only [extract_low, extract_high, extract_whole, bit_low, bit_high]) <;>
    first | rfl | exact extract_whole _

/-- The fields of a word made of 8, 2, 4, 18 bits. -/
theorem fields_8_2_4_18 (P : BitVec 8) (A : BitVec 2) (B : BitVec 4) (C : BitVec 18) :
    @BitVec.extractLsb' (8+2+4+18) 28 4 (P ++ A ++ B ++ C) = P.extractLsb' 4 4 ∧
    @BitVec.extractLsb' (8+2+4+18) 24 4 (P ++ A ++ B ++ C) = P.extractLsb' 0 4 ∧
    @BitVec.extractLsb' (8+2+4+18) 18 4 (P ++ A ++ B ++ C) = B ∧
    @BitVec.getLsbD (8+2+4+18) (P ++ A ++ B ++ C) 22 = A.getLsbD 0 := by
  refine ⟨?_, ?_, ?_, ?_⟩ <;>
    (simp (disch := omega) only [extract_low, extract_high, extract_whole, bit_low, bit_high]) <;>
    first | rfl | exact extract_whole _

/-- The fields of a word made of 8, 7, 7, 6, 4 bits. -/
theorem fields_8_7_7_6_4 (P : BitVec 8) (A : BitVec 7) (B : BitVec 7) (C : BitVec 6) (D : BitVec 4) :
    @BitVec.extractLsb' (8+7+7+6+4) 28 4 (P ++ A ++ B ++ C ++ D) = P.extractLsb' 4 4 ∧
    @BitVec.extractLsb' (8+7+7+6+4) 24 4 (P ++ A ++ B ++ C ++ D) = P.extractLsb' 0 4 ∧
    @BitVec.extractLsb' (8+7+7+6+4) 17 7 (P ++ A ++ B ++ C ++ D) = A ∧
    @BitVec.extractLsb' (8+7+7+6+4) 10 7 (P ++ A ++ B ++ C ++ D) = B ∧
    @BitVec.extractLsb' (8+7+7+6+4) 0 4 (P ++ A ++ B ++ C ++ D) = D ∧
    @BitVec.extractLsb' (8+7+7+6+4) 4 6 (P ++ A ++ B ++ C ++ D) = C := by
  refine ⟨?_, ?_, ?_, ?_, ?_, ?_⟩ <;>
    (simp (disch := omega) only [extract_low, extract_high, extract_whole, bit_low, bit_high]) <;>
    first | rfl | exact extract_whole _

/-- The fields of a word made of 8, 2, 4, 6, 6, 6 bits. -/
theorem fields_8_2_4_6_6_6 (P : BitVec 8) (A : BitVec 2) (B : BitVec 4) (C : BitVec 6) (D : BitVec 6) (E : BitVec 6) :
    @BitVec.extractLsb' (8+2+4+6+6+6) 28 4 (P ++ A ++ B ++ C ++ D ++ E) = P.extractLsb' 4 4 ∧
    @BitVec.extractLsb' (8+2+4+6+6+6) 24 4 (P ++ A ++ B ++ C ++ D ++ E) = P.extractLsb' 0 4 ∧
    @BitVec.extractLsb' (8+2+4+6+6+6) 22 2 (P ++ A ++ B ++ C ++ D ++ E) = A ∧
    @BitVec.extractLsb' (8+2+4+6+6+6) 18 4 (P ++ A ++ B ++ C ++ D ++ E) = B ∧
    @BitVec.extractLsb' (8+2+4+6+6+6) 12 6 (P ++ A ++ B ++ C ++ D ++ E) = C ∧
    @BitVec.extractLsb' (8+2+4+6+6+6) 6 6 (P ++ A ++ B ++ C ++ D ++ E) = D := by
  refine ⟨?_, ?_, ?_, ?_, ?_, ?_⟩ <;>
    (simp (disch := omega) only [extract_low, extract_high, extract_whole, bit_low, bit_high]) <;>
    first | rfl | exact extract_whole _

/-- The fields of a word made of 8, 7, 7, 1, 1, 1, 3, 4 bits. -/
theorem fields_8_7_7_1_1_1_3_4 (P : BitVec 8) (A : BitVec 7) (B : BitVec 7) (C : BitVec 1) (D : BitVec 1) (E : BitVec 1) (F : BitVec 3) (G : BitVec 4) :
    @BitVec.extractLsb' (8+7+7+1+1+1+3+4) 28 4 (P ++ A ++ B ++ C ++ D ++ E ++ F ++ G) = P.extractLsb' 4 4 ∧
    @BitVec.extractLsb' (8+7+7+1+1+1+3+4) 24 4 (P ++ A ++ B ++ C ++ D ++ E ++ F ++ G) = P.extractLsb' 0 4 ∧
    @BitVec.extractLsb' (8+7+7+1+1+1+3+4) 17 7 (P ++ A ++ B ++ C ++ D ++ E ++ F ++ G) = A ∧
    @BitVec.extractLsb' (8+7+7+1+1+1+3+4) 10 7 (P ++ A ++ B ++ C ++ D ++ E ++ F ++ G) = B ∧
    @BitVec.extractLsb' (8+7+7+1+1+1+3+4) 8 1 (P ++ A ++ B ++ C ++ D ++ E ++ F ++ G) = D ∧
    @BitVec.extractLsb' (8+7+7+1+1+1+3+4) 7 1 (P ++ A ++ B ++ C ++ D ++ E ++ F ++ G) = E ∧
    @BitVec.extractLsb' (8+7+7+1+1+1+3+4) 4 3 (P ++ A ++ B ++ C ++ D ++ E ++ F ++ G) = F ∧
    @BitVec.extractLsb' (8+7+7+1+1+1+3+4) 0 4 (P ++ A ++ B ++ C ++ D ++ E ++ F ++ G) = G := by
  refine ⟨?_, ?_, ?_, ?_, ?_, ?_, ?_, ?_⟩ <;>
    (simp (disch := omega) only [extract_low, extract_high, extract_whole, bit_low, bit_high]) <;>
    first | rfl | exact extract_whole _

/-- The fields of a word made of 8, 7, 1, 12, 4 bits. -/
theorem fields_8_7_1_12_4 (P : BitVec 8) (A : BitVec 7) (B : BitVec 1) (C : BitVec 12) (D : BitVec 4) :
    @BitVec.extractLsb' (8+7+1+12+4) 28 4 (P ++ A ++ B ++ C ++ D) = P.extractLsb' 4 4 ∧
    @BitVec.extractLsb' (8+7+1+12+4) 24 4 (P ++ A ++ B ++ C ++ D) = P.extractLsb' 0 4 ∧
    @BitVec.extractLsb' (8+7+1+12+4) 17 7 (P ++ A ++ B ++ C ++ D) = A ∧
    @BitVec.extractLsb' (8+7+1+12+4) 16 1 (P ++ A ++ B ++ C ++ D) = B ∧
    @BitVec.extractLsb' (8+7+1+12+4) 4 12 (P ++ A ++ B ++ C ++ D) = C ∧
    @BitVec.extractLsb' (8+7+1+12+4) 0 4 (P ++ A ++ B ++ C ++ D) = D := by
  refine ⟨?_, ?_, ?_, ?_, ?_, ?_⟩ <;>
    (simp (disch := omega) only [extract_low, extract_high, extract_whole, bit_low, bit_high]) <;>
    first | rfl | exact extract_whole _

/-- The fields of a word made of 8, 7, 1, 6, 6, 4 bits. -/
theorem fields_8_7_1_6_6_4 (P : BitVec 8) (A : BitVec 7) (B : BitVec 1) (C : BitVec 6) (D : BitVec 6) (E : BitVec 4) :
    @BitVec.extractLsb' (8+7+1+6+6+4) 28 4 (P ++ A ++ B ++ C ++ D ++ E) = P.extractLsb' 4 4 ∧
    @BitVec.extractLsb' (8+7+1+6+6+4) 24 4 (P ++ A ++ B ++ C ++ D ++ E) = P.extractLsb' 0 4 ∧
    @BitVec.extractLsb' (8+7+1+6+6+4) 17 7 (P ++ A ++ B ++ C ++ D ++ E) = A ∧
    @BitVec.extractLsb' (8+7+1+6+6+4) 16 1 (P ++ A ++ B ++ C ++ D ++ E) = B ∧
    @BitVec.extractLsb' (8+7+1+6+6+4) 10 6 (P ++ A ++ B ++ C ++ D ++ E) = C ∧
    @BitVec.extractLsb' (8+7+1+6+6+4) 4 6 (P ++ A ++ B ++ C ++ D ++ E) = D ∧
    @BitVec.extractLsb' (8+7+1+6+6+4) 0 4 (P ++ A ++ B ++ C ++ D ++ E) = E := by
  refine ⟨?_, ?_, ?_, ?_, ?_, ?_, ?_⟩ <;>
    (simp (disch := omega) only [extract_low, extract_high, extract_whole, bit_low, bit_high]) <;>
    first | rfl | exact extract_whole _

/-- The fields of a word made of 8, 3, 3, 6, 6, 6 bits. -/
theorem fields_8_3_3_6_6_6 (P : BitVec 8) (A : BitVec 3) (B : BitVec 3) (C : BitVec 6) (D : BitVec 6) (E : BitVec 6) :
    @BitVec.extractLsb' (8+3+3+6+6+6) 28 4 (P ++ A ++ B ++ C ++ D ++ E) = P.extractLsb' 4 4 ∧
    @BitVec.extractLsb' (8+3+3+6+6+6) 24 4 (P ++ A ++ B ++ C ++ D ++ E) = P.extractLsb' 0 4 ∧
    @BitVec.extractLsb' (8+3+3+6+6+6) 18 3 (P ++ A ++ B ++ C ++ D ++ E) = B ∧
    @BitVec.extractLsb' (8+3+3+6+6+6) 12 6 (P ++ A ++ B ++ C ++ D ++ E) = C ∧
    @BitVec.extractLsb' (8+3+3+6+6+6) 6 6 (P ++ A ++ B ++ C ++ D ++ E) = D ∧
    @BitVec.extractLsb' (8+3+3+6+6+6) 0 6 (P ++ A ++ B ++ C ++ D ++ E) = E ∧
    @BitVec.extractLsb' (8+3+3+6+6+6) 21 3 (P ++ A ++ B ++ C ++ D ++ E) = A := by
  refine ⟨?_, ?_, ?_, ?_, ?_, ?_, ?_⟩ <;>
    (simp (disch := omega) only [extract_low, extract_high, extract_whole, bit_low, bit_high]) <;>
    first | rfl | exact extract_whole _

/-- The fields of a word made of 8, 2, 1, 3, 6, 12 bits. -/
theorem fields_8_2_1_3_6_12 (P : BitVec 8) (A : BitVec 2) (B : BitVec 1) (C : BitVec 3) (D : BitVec 6) (E : BitVec 12) :
    @BitVec.extractLsb' (8+2+1+3+6+12) 28 4 (P ++ A ++ B ++ C ++ D ++ E) = P.extractLsb' 4 4 ∧
    @BitVec.extractLsb' (8+2+1+3+6+12) 24 4 (P ++ A ++ B ++ C ++ D ++ E) = P.extractLsb' 0 4 ∧
    @BitVec.extractLsb' (8+2+1+3+6+12) 21 1 (P ++ A ++ B ++ C ++ D ++ E) = B ∧
    @BitVec.extractLsb' (8+2+1+3+6+12) 18 3 (P ++ A ++ B ++ C ++ D ++ E) = C ∧
    @BitVec.extractLsb' (8+2+1+3+6+12) 12 6 (P ++ A ++ B ++ C ++ D ++ E) = D := by
  refine ⟨?_, ?_, ?_, ?_, ?_⟩ <;>
    (simp (disch := omega) only [extract_low, extract_high, extract_whole, bit_low, bit_high]) <;>
    first | rfl | exact extract_whole _

/-- The fields of a word made of 8, 3, 3, 6, 12 bits. -/
theorem fields_8_3_3_6_12 (P : BitVec 8) (A : BitVec 3) (B : BitVec 3) (C : BitVec 6) (D : BitVec 12) :
    @BitVec.extractLsb' (8+3+3+6+12) 28 4 (P ++ A ++ B ++ C ++ D) = P.extractLsb' 4 4 ∧
    @BitVec.extractLsb' (8+3+3+6+12) 24 4 (P ++ A ++ B ++ C ++ D) = P.extractLsb' 0 4 ∧
    @BitVec.extractLsb' (8+3+3+6+12) 21 3 (P ++ A ++ B ++ C ++ D) = A ∧
    @BitVec.extractLsb' (8+3+3+6+12) 18 3 (P ++ A ++ B ++ C ++ D) = B ∧
    @BitVec.extractLsb' (8+3+3+6+12) 12 6 (P ++ A ++ B ++ C ++ D) = C := by
  refine ⟨?_, ?_, ?_, ?_, ?_⟩ <;>
    (simp (disch := omega) only [extract_low, extract_high, extract_whole, bit_low, bit_high]) <;>
    first | rfl | exact extract_whole _

/-- The fields of a word made of 8, 1, 2, 3, 18 bits. -/
theorem fields_8_1_2_3_18 (P : BitVec 8) (A : BitVec 1) (B : BitVec 2) (C : BitVec 3) (D : BitVec 18) :
    @BitVec.extractLsb' (8+1+2+3+18) 28 4 (P ++ A ++ B ++ C ++ D) = P.extractLsb' 4 4 ∧
    @BitVec.extractLsb' (8+1+2+3+18) 24 4 (P ++ A ++ B ++ C ++ D) = P.extractLsb' 0 4 ∧
    @BitVec.extractLsb' (8+1+2+3+18) 21 2 (P ++ A ++ B ++ C ++ D) = B ∧
    @BitVec.extractLsb' (8+1+2+3+18) 18 3 (P ++ A ++ B ++ C ++ D) = C := by
  refine ⟨?_, ?_, ?_, ?_⟩ <;>
    (simp (disch := omega) only [extract_low, extract_high, extract_whole, bit_low, bit_high]) <;>
    first | rfl | exact extract_whole _

/-- The fields of a word made of 8, 5, 1, 6, 6, 6 bits. -/
theorem fields_8_5_1_6_6_6 (P : BitVec 8) (A : BitVec 5) (B : BitVec 1) (C : BitVec 6) (D : BitVec 6) (E : BitVec 6) :
    @BitVec.extractLsb' (8+5+1+6+6+6) 28 4 (P ++ A ++ B ++ C ++ D ++ E) = P.extractLsb' 4 4 ∧
    @BitVec.extractLsb' (8+5+1+6+6+6) 24 4 (P ++ A ++ B ++ C ++ D ++ E) = P.extractLsb' 0 4 ∧
    @BitVec.extractLsb' (8+5+1+6+6+6) 18 1 (P ++ A ++ B ++ C ++ D ++ E) = B ∧
    @BitVec.extractLsb' (8+5+1+6+6+6) 12 6 (P ++ A ++ B ++ C ++ D ++ E) = C ∧
    @BitVec.extractLsb' (8+5+1+6+6+6) 6 6 (P ++ A ++ B ++ C ++ D ++ E) = D := by
  refine ⟨?_, ?_, ?_, ?_, ?_⟩ <;>
    (simp (disch := omega) only [extract_low, extract_high, extract_whole, bit_low, bit_high]) <;>
    first | rfl | exact extract_whole _

/-- The fields of a word made of 8, 7, 3, 4, 6, 4 bits. -/
theorem fields_8_7_3_4_6_4 (P : BitVec 8) (A : BitVec 7) (B : BitVec 3) (C : BitVec 4) (D : BitVec 6) (E : BitVec 4) :
    @BitVec.extractLsb' (8+7+3+4+6+4) 28 4 (P ++ A ++ B ++ C ++ D ++ E) = P.extractLsb' 4 4 ∧
    @BitVec.extractLsb' (8+7+3+4+6+4) 24 4 (P ++ A ++ B ++ C ++ D ++ E) = P.extractLsb' 0 4 ∧
    @BitVec.getLsbD (8+7+3+4+6+4) (P ++ A ++ B ++ C ++ D ++ E) 16 = B.getLsbD 2 ∧
    @BitVec.extractLsb' (8+7+3+4+6+4) 17 7 (P ++ A ++ B ++ C ++ D ++ E) = A ∧
    @BitVec.extractLsb' (8+7+3+4+6+4) 10 4 (P ++ A ++ B ++ C ++ D ++ E) = C ∧
    @BitVec.extractLsb' (8+7+3+4+6+4) 0 4 (P ++ A ++ B ++ C ++ D ++ E) = E := by
  refine ⟨?_, ?_, ?_, ?_, ?_, ?_⟩ <;>
    (simp (disch := omega) only [extract_low, extract_high, extract_whole, bit_low, bit_high]) <;>
    first | rfl | exact extract_whole _

/-- The fields of a word made of 8, 7, 3, 4, 10 bits. -/
theorem fields_8_7_3_4_10 (P : BitVec 8) (A : BitVec 7) (B : BitVec 3) (C : BitVec 4) (D : BitVec 10) :
    @BitVec.extractLsb' (8+7+3+4+10) 28 4 (P ++ A ++ B ++ C ++ D) = P.extractLsb' 4 4 ∧
    @BitVec.extractLsb' (8+7+3+4+10) 24 4 (P ++ A ++ B ++ C ++ D) = P.extractLsb' 0 4 ∧
    @BitVec.getLsbD (8+7+3+4+10) (P ++ A ++ B ++ C ++ D) 16 = B.getLsbD 2 ∧
    @BitVec.extractLsb' (8+7+3+4+10) 17 7 (P ++ A ++ B ++ C ++ D) = A ∧
    @BitVec.extractLsb' (8+7+3+4+10) 10 4 (P ++ A ++ B ++ C ++ D) = C := by
  refine ⟨?_, ?_, ?_, ?_, ?_⟩ <;>
    (simp (disch := omega) only [extract_low, extract_high, extract_whole, bit_low, bit_high]) <;>
    first | rfl | exact extract_whole _

/-- The fields of a word made of 8, 4, 2, 6, 6, 6 bits. -/
theorem fields_8_4_2_6_6_6 (P : BitVec 8) (A : BitVec 4) (B : BitVec 2) (C : BitVec 6) (D : BitVec 6) (E : BitVec 6) :
    @BitVec.extractLsb' (8+4+2+6+6+6) 28 4 (P ++ A ++ B ++ C ++ D ++ E) = P.extractLsb' 4 4 ∧
    @BitVec.extractLsb' (8+4+2+6+6+6) 24 4 (P ++ A ++ B ++ C ++ D ++ E) = P.extractLsb' 0 4 ∧
    @BitVec.extractLsb' (8+4+2+6+6+6) 18 2 (P ++ A ++ B ++ C ++ D ++ E) = B ∧
    @BitVec.extractLsb' (8+4+2+6+6+6) 12 6 (P ++ A ++ B ++ C ++ D ++ E) = C ∧
    @BitVec.extractLsb' (8+4+2+6+6+6) 6 6 (P ++ A ++ B ++ C ++ D ++ E) = D := by
  refine ⟨?_, ?_, ?_, ?_, ?_⟩ <;>
    (simp (disch := omega) only [extract_low, extract_high, extract_whole, bit_low, bit_high]) <;>
    first | rfl | exact extract_whole _

/-- The fields of a word made of 8, 5, 1, 6, 12 bits. -/
theorem fields_8_5_1_6_12 (P : BitVec 8) (A : BitVec 5) (B : BitVec 1) (C : BitVec 6) (D : BitVec 12) :
    @BitVec.extractLsb' (8+5+1+6+12) 28 4 (P ++ A ++ B ++ C ++ D) = P.extractLsb' 4 4 ∧
    @BitVec.extractLsb' (8+5+1+6+12) 24 4 (P ++ A ++ B ++ C ++ D) = P.extractLsb' 0 4 ∧
    @BitVec.extractLsb' (8+5+1+6+12) 18 1 (P ++ A ++ B ++ C ++ D) = B ∧
    @BitVec.extractLsb' (8+5+1+6+12) 12 6 (P ++ A ++ B ++ C ++ D) = C := by
  refine ⟨?_, ?_, ?_, ?_⟩ <;>
    (simp (disch := omega) only [extract_low, extract_high, extract_whole, bit_low, bit_high]) <;>
    first | rfl | exact extract_whole _

/-- The fields of a word made of 8, 3, 3, 18 bits. -/
theorem fields_8_3_3_18 (P : BitVec 8) (A : BitVec 3) (B : BitVec 3) (C : BitVec 18) :
    @BitVec.extractLsb' (8+3+3+18) 28 4 (P ++ A ++ B ++ C) = P.extractLsb' 4 4 ∧
    @BitVec.extractLsb' (8+3+3+18) 24 4 (P ++ A ++ B ++ C) = P.extractLsb' 0 4 ∧
    @BitVec.extractLsb' (8+3+3+18) 18 3 (P ++ A ++ B ++ C) = B ∧
    @BitVec.extractLsb' (8+3+3+18) 21 3 (P ++ A ++ B ++ C) = A := by
  refine ⟨?_, ?_, ?_, ?_⟩ <;>
    (simp (disch := omega) only [extract_low, extract_high, extract_whole, bit_low, bit_high]) <;>
    first | rfl | exact extract_whole _

/-- The fields of a word made of 8, 6, 6, 5, 1, 6 bits. -/
theorem fields_8_6_6_5_1_6 (P : BitVec 8) (A : BitVec 6) (B : BitVec 6) (C : BitVec 5) (D : BitVec 1) (E : BitVec 6) :
    @BitVec.extractLsb' (8+6+6+5+1+6) 28 4 (P ++ A ++ B ++ C ++ D ++ E) = P.extractLsb' 4 4 ∧
    @BitVec.extractLsb' (8+6+6+5+1+6) 24 4 (P ++ A ++ B ++ C ++ D ++ E) = P.extractLsb' 0 4 ∧
    @BitVec.extractLsb' (8+6+6+5+1+6) 18 6 (P ++ A ++ B ++ C ++ D ++ E) = A ∧
    @BitVec.extractLsb' (8+6+6+5+1+6) 12 6 (P ++ A ++ B ++ C ++ D ++ E) = B ∧
    @BitVec.extractLsb' (8+6+6+5+1+6) 6 1 (P ++ A ++ B ++ C ++ D ++ E) = D := by
  refine ⟨?_, ?_, ?_, ?_, ?_⟩ <;>
    (simp (disch := omega) only [extract_low, extract_high, extract_whole, bit_low, bit_high]) <;>
    first | rfl | exact extract_whole _

/-- The fields of a word made of 8, 1, 5, 6, 12 bits. -/
theorem fields_8_1_5_6_12 (P : BitVec 8) (A : BitVec 1) (B : BitVec 5) (C : BitVec 6) (D : BitVec 12) :
    @BitVec.extractLsb' (8+1+5+6+12) 28 4 (P ++ A ++ B ++ C ++ D) = P.extractLsb' 4 4 ∧
    @BitVec.extractLsb' (8+1+5+6+12) 24 4 (P ++ A ++ B ++ C ++ D) = P.extractLsb' 0 4 ∧
    @BitVec.extractLsb' (8+1+5+6+12) 23 1 (P ++ A ++ B ++ C ++ D) = A ∧
    @BitVec.extractLsb' (8+1+5+6+12) 18 5 (P ++ A ++ B ++ C ++ D) = B ∧
    @BitVec.extractLsb' (8+1+5+6+12) 12 6 (P ++ A ++ B ++ C ++ D) = C := by
  refine ⟨?_, ?_, ?_, ?_, ?_⟩ <;>
    (simp (disch := omega) only [extract_low, extract_high, extract_whole, bit_low, bit_high]) <;>
    first | rfl | exact extract_whole _

/-- The fields of a word made of 8, 8, 8, 8 bits. -/
theorem fields_8_8_8_8 (P : BitVec 8) (A : BitVec 8) (B : BitVec 8) (C : BitVec 8) :
    @BitVec.extractLsb' (8+8+8+8) 28 4 (P ++ A ++ B ++ C) = P.extractLsb' 4 4 ∧
    @BitVec.extractLsb' (8+8+8+8) 24 4 (P ++ A ++ B ++ C) = P.extractLsb' 0 4 ∧
    @BitVec.extractLsb' (8+8+8+8) 16 8 (P ++ A ++ B ++ C) = A ∧
    @BitVec.extractLsb' (8+8+8+8) 8 8 (P ++ A ++ B ++ C) = B ∧
    @BitVec.extractLsb' (8+8+8+8) 0 8 (P ++ A ++ B ++ C) = C := by
  refine ⟨?_, ?_, ?_, ?_, ?_⟩ <;>
    (simp (disch := omega) only [extract_low, extract_high, extract_whole, bit_low, bit_high]) <;>
    first | rfl | exact extract_whole _

theorem RoundTrip.sadd (d : BitVec 7) (a : BitVec 7) (b : BitVec 7) : RoundTrip.Statement (.sadd d a b) := by
  refine roundTrip_of_raw _ (0x01#8 ++ d ++ a ++ b ++ 0x0#3) rfl fun _ => ?_
  simp only [raw, raw0, fields_8_7_7_7_3 0x01#8 d a b 0x0#3]; rfl

theorem RoundTrip.ssub (d : BitVec 7) (a : BitVec 7) (b : BitVec 7) : RoundTrip.Statement (.ssub d a b) := by
  refine roundTrip_of_raw _ (0x02#8 ++ d ++ a ++ b ++ 0x0#3) rfl fun _ => ?_
  simp only [raw, raw0, fields_8_7_7_7_3 0x02#8 d a b 0x0#3]; rfl

theorem RoundTrip.smul (d : BitVec 7) (a : BitVec 7) (b : BitVec 7) : RoundTrip.Statement (.smul d a b) := by
  refine roundTrip_of_raw _ (0x03#8 ++ d ++ a ++ b ++ 0x0#3) rfl fun _ => ?_
  simp only [raw, raw0, fields_8_7_7_7_3 0x03#8 d a b 0x0#3]; rfl

theorem RoundTrip.smulh (d : BitVec 7) (a : BitVec 7) (b : BitVec 7) : RoundTrip.Statement (.smulh d a b) := by
  refine roundTrip_of_raw _ (0x04#8 ++ d ++ a ++ b ++ 0x0#3) rfl fun _ => ?_
  simp only [raw, raw0, fields_8_7_7_7_3 0x04#8 d a b 0x0#3]; rfl

theorem RoundTrip.smulhn (d : BitVec 7) (a : BitVec 7) (b : BitVec 7) : RoundTrip.Statement (.smulhn d a b) := by
  refine roundTrip_of_raw _ (0x05#8 ++ d ++ a ++ b ++ 0x0#3) rfl fun _ => ?_
  simp only [raw, raw0, fields_8_7_7_7_3 0x05#8 d a b 0x0#3]; rfl

theorem RoundTrip.sand (d : BitVec 7) (a : BitVec 7) (b : BitVec 7) : RoundTrip.Statement (.sand d a b) := by
  refine roundTrip_of_raw _ (0x06#8 ++ d ++ a ++ b ++ 0x0#3) rfl fun _ => ?_
  simp only [raw, raw0, fields_8_7_7_7_3 0x06#8 d a b 0x0#3]; rfl

theorem RoundTrip.sor (d : BitVec 7) (a : BitVec 7) (b : BitVec 7) : RoundTrip.Statement (.sor d a b) := by
  refine roundTrip_of_raw _ (0x07#8 ++ d ++ a ++ b ++ 0x0#3) rfl fun _ => ?_
  simp only [raw, raw0, fields_8_7_7_7_3 0x07#8 d a b 0x0#3]; rfl

theorem RoundTrip.sxor (d : BitVec 7) (a : BitVec 7) (b : BitVec 7) : RoundTrip.Statement (.sxor d a b) := by
  refine roundTrip_of_raw _ (0x08#8 ++ d ++ a ++ b ++ 0x0#3) rfl fun _ => ?_
  simp only [raw, raw0, fields_8_7_7_7_3 0x08#8 d a b 0x0#3]; rfl

theorem RoundTrip.sshl (d : BitVec 7) (a : BitVec 7) (b : BitVec 7) : RoundTrip.Statement (.sshl d a b) := by
  refine roundTrip_of_raw _ (0x09#8 ++ d ++ a ++ b ++ 0x0#3) rfl fun _ => ?_
  simp only [raw, raw0, fields_8_7_7_7_3 0x09#8 d a b 0x0#3]; rfl

theorem RoundTrip.sshr (d : BitVec 7) (a : BitVec 7) (b : BitVec 7) : RoundTrip.Statement (.sshr d a b) := by
  refine roundTrip_of_raw _ (0x0A#8 ++ d ++ a ++ b ++ 0x0#3) rfl fun _ => ?_
  simp only [raw, raw0, fields_8_7_7_7_3 0x0A#8 d a b 0x0#3]; rfl

theorem RoundTrip.ssra (d : BitVec 7) (a : BitVec 7) (b : BitVec 7) : RoundTrip.Statement (.ssra d a b) := by
  refine roundTrip_of_raw _ (0x0B#8 ++ d ++ a ++ b ++ 0x0#3) rfl fun _ => ?_
  simp only [raw, raw0, fields_8_7_7_7_3 0x0B#8 d a b 0x0#3]; rfl

theorem RoundTrip.smin (d : BitVec 7) (a : BitVec 7) (b : BitVec 7) : RoundTrip.Statement (.smin d a b) := by
  refine roundTrip_of_raw _ (0x0C#8 ++ d ++ a ++ b ++ 0x0#3) rfl fun _ => ?_
  simp only [raw, raw0, fields_8_7_7_7_3 0x0C#8 d a b 0x0#3]; rfl

theorem RoundTrip.smax (d : BitVec 7) (a : BitVec 7) (b : BitVec 7) : RoundTrip.Statement (.smax d a b) := by
  refine roundTrip_of_raw _ (0x0D#8 ++ d ++ a ++ b ++ 0x0#3) rfl fun _ => ?_
  simp only [raw, raw0, fields_8_7_7_7_3 0x0D#8 d a b 0x0#3]; rfl

theorem RoundTrip.sminn (d : BitVec 7) (a : BitVec 7) (b : BitVec 7) : RoundTrip.Statement (.sminn d a b) := by
  refine roundTrip_of_raw _ (0x0E#8 ++ d ++ a ++ b ++ 0x0#3) rfl fun _ => ?_
  simp only [raw, raw0, fields_8_7_7_7_3 0x0E#8 d a b 0x0#3]; rfl

theorem RoundTrip.smaxn (d : BitVec 7) (a : BitVec 7) (b : BitVec 7) : RoundTrip.Statement (.smaxn d a b) := by
  refine roundTrip_of_raw _ (0x0F#8 ++ d ++ a ++ b ++ 0x0#3) rfl fun _ => ?_
  simp only [raw, raw0, fields_8_7_7_7_3 0x0F#8 d a b 0x0#3]; rfl

theorem RoundTrip.sclz (d : BitVec 7) (a : BitVec 7) : RoundTrip.Statement (.sclz d a) := by
  refine roundTrip_of_raw _ (0x10#8 ++ d ++ a ++ 0x0#10) rfl fun _ => ?_
  simp only [raw, raw1, fields_8_7_7_10 0x10#8 d a 0x0#10]; rfl

theorem RoundTrip.spopc (d : BitVec 7) (a : BitVec 7) : RoundTrip.Statement (.spopc d a) := by
  refine roundTrip_of_raw _ (0x11#8 ++ d ++ a ++ 0x0#10) rfl fun _ => ?_
  simp only [raw, raw1, fields_8_7_7_10 0x11#8 d a 0x0#10]; rfl

theorem RoundTrip.sbfe (d : BitVec 7) (a : BitVec 7) (b : BitVec 7) (s : BitVec 1) : RoundTrip.Statement (.sbfe d a b s) := by
  refine roundTrip_of_raw _ (0x12#8 ++ d ++ a ++ b ++ 0x0#2 ++ s) rfl fun _ => ?_
  simp only [raw, raw1, fields_8_7_7_7_2_1 0x12#8 d a b 0x0#2 s]; rfl

theorem RoundTrip.sbfi (d : BitVec 7) (a : BitVec 7) (b : BitVec 7) : RoundTrip.Statement (.sbfi d a b) := by
  refine roundTrip_of_raw _ (0x13#8 ++ d ++ a ++ b ++ 0x0#3) rfl fun _ => ?_
  simp only [raw, raw1, fields_8_7_7_7_3 0x13#8 d a b 0x0#3]; rfl

theorem RoundTrip.saddi (d : BitVec 7) (a : BitVec 7) (i : BitVec 10) : RoundTrip.Statement (.saddi d a i) := by
  refine roundTrip_of_raw _ (0x14#8 ++ d ++ a ++ i) rfl fun _ => ?_
  simp only [raw, raw1, fields_8_7_7_10 0x14#8 d a i]; rfl

theorem RoundTrip.sandi (d : BitVec 7) (a : BitVec 7) (i : BitVec 10) : RoundTrip.Statement (.sandi d a i) := by
  refine roundTrip_of_raw _ (0x15#8 ++ d ++ a ++ i) rfl fun _ => ?_
  simp only [raw, raw1, fields_8_7_7_10 0x15#8 d a i]; rfl

theorem RoundTrip.sori (d : BitVec 7) (a : BitVec 7) (i : BitVec 10) : RoundTrip.Statement (.sori d a i) := by
  refine roundTrip_of_raw _ (0x16#8 ++ d ++ a ++ i) rfl fun _ => ?_
  simp only [raw, raw1, fields_8_7_7_10 0x16#8 d a i]; rfl

theorem RoundTrip.sxori (d : BitVec 7) (a : BitVec 7) (i : BitVec 10) : RoundTrip.Statement (.sxori d a i) := by
  refine roundTrip_of_raw _ (0x17#8 ++ d ++ a ++ i) rfl fun _ => ?_
  simp only [raw, raw1, fields_8_7_7_10 0x17#8 d a i]; rfl

theorem RoundTrip.sshli (d : BitVec 7) (a : BitVec 7) (i : BitVec 5) : RoundTrip.Statement (.sshli d a i) := by
  refine roundTrip_of_raw _ (0x18#8 ++ d ++ a ++ 0x0#5 ++ i) rfl fun _ => ?_
  simp only [raw, raw1, fields_8_7_7_5_5 0x18#8 d a 0x0#5 i]; rfl

theorem RoundTrip.sshri (d : BitVec 7) (a : BitVec 7) (i : BitVec 5) : RoundTrip.Statement (.sshri d a i) := by
  refine roundTrip_of_raw _ (0x19#8 ++ d ++ a ++ 0x0#5 ++ i) rfl fun _ => ?_
  simp only [raw, raw1, fields_8_7_7_5_5 0x19#8 d a 0x0#5 i]; rfl

theorem RoundTrip.smovi (d : BitVec 7) (i : BitVec 16) : RoundTrip.Statement (.smovi d i) := by
  refine roundTrip_of_raw _ (0x1A#8 ++ d ++ 0x0#1 ++ i) rfl fun _ => ?_
  simp only [raw, raw1, fields_8_7_1_16 0x1A#8 d 0x0#1 i]; rfl

theorem RoundTrip.smoviHi (d : BitVec 7) (i : BitVec 16) : RoundTrip.Statement (.smoviHi d i) := by
  refine roundTrip_of_raw _ (0x1A#8 ++ d ++ 0x1#1 ++ i) rfl fun _ => ?_
  simp only [raw, raw1, fields_8_7_1_16 0x1A#8 d 0x1#1 i]; rfl

theorem RoundTrip.sadd64 (d : BitVec 7) (a : BitVec 7) (b : BitVec 7) : RoundTrip.Statement (.sadd64 d a b) := by
  refine roundTrip_of_raw _ (0x1B#8 ++ d ++ a ++ b ++ 0x0#3) rfl fun _ => ?_
  simp only [raw, raw1, fields_8_7_7_7_3 0x1B#8 d a b 0x0#3]; rfl

theorem RoundTrip.ssub64 (d : BitVec 7) (a : BitVec 7) (b : BitVec 7) : RoundTrip.Statement (.ssub64 d a b) := by
  refine roundTrip_of_raw _ (0x1C#8 ++ d ++ a ++ b ++ 0x0#3) rfl fun _ => ?_
  simp only [raw, raw1, fields_8_7_7_7_3 0x1C#8 d a b 0x0#3]; rfl

theorem RoundTrip.sshf64 (d : BitVec 7) (a : BitVec 7) (b : BitVec 7) (x : BitVec 3) : RoundTrip.Statement (.sshf64 d a b x) := by
  refine roundTrip_of_raw _ (0x1D#8 ++ d ++ a ++ b ++ x) rfl fun _ => ?_
  simp only [raw, raw1, fields_8_7_7_7_3 0x1D#8 d a b x]; rfl

theorem RoundTrip.scmp (d : BitVec 7) (a : BitVec 7) (b : BitVec 7) (c : BitVec 3) : RoundTrip.Statement (.scmp d a b c) := by
  refine roundTrip_of_raw _ (0x1E#8 ++ d ++ a ++ b ++ c) rfl fun _ => ?_
  simp only [raw, raw1, fields_8_7_7_7_3 0x1E#8 d a b c]; rfl

theorem RoundTrip.ssel (d : BitVec 7) (a : BitVec 7) (b : BitVec 7) : RoundTrip.Statement (.ssel d a b) := by
  refine roundTrip_of_raw _ (0x1F#8 ++ d ++ a ++ b ++ 0x0#3) rfl fun _ => ?_
  simp only [raw, raw1, fields_8_7_7_7_3 0x1F#8 d a b 0x0#3]; rfl

theorem RoundTrip.vadd (d : BitVec 7) (a : BitVec 7) (b : BitVec 7) (x : BitVec 3) : RoundTrip.Statement (.vadd d a b x) := by
  refine roundTrip_of_raw _ (0x20#8 ++ d ++ a ++ b ++ x) rfl fun _ => ?_
  simp only [raw, raw2, fields_8_7_7_7_3 0x20#8 d a b x]; rfl

theorem RoundTrip.vsub (d : BitVec 7) (a : BitVec 7) (b : BitVec 7) (x : BitVec 3) : RoundTrip.Statement (.vsub d a b x) := by
  refine roundTrip_of_raw _ (0x21#8 ++ d ++ a ++ b ++ x) rfl fun _ => ?_
  simp only [raw, raw2, fields_8_7_7_7_3 0x21#8 d a b x]; rfl

theorem RoundTrip.vmul (d : BitVec 7) (a : BitVec 7) (b : BitVec 7) (x : BitVec 3) : RoundTrip.Statement (.vmul d a b x) := by
  refine roundTrip_of_raw _ (0x22#8 ++ d ++ a ++ b ++ x) rfl fun _ => ?_
  simp only [raw, raw2, fields_8_7_7_7_3 0x22#8 d a b x]; rfl

theorem RoundTrip.vmulh (d : BitVec 7) (a : BitVec 7) (b : BitVec 7) : RoundTrip.Statement (.vmulh d a b) := by
  refine roundTrip_of_raw _ (0x23#8 ++ d ++ a ++ b ++ 0x0#3) rfl fun _ => ?_
  simp only [raw, raw2, fields_8_7_7_7_3 0x23#8 d a b 0x0#3]; rfl

theorem RoundTrip.vfma (d : BitVec 7) (a : BitVec 7) (b : BitVec 7) (x : BitVec 3) : RoundTrip.Statement (.vfma d a b x) := by
  refine roundTrip_of_raw _ (0x24#8 ++ d ++ a ++ b ++ x) rfl fun _ => ?_
  simp only [raw, raw2, fields_8_7_7_7_3 0x24#8 d a b x]; rfl

theorem RoundTrip.vmin (d : BitVec 7) (a : BitVec 7) (b : BitVec 7) : RoundTrip.Statement (.vmin d a b) := by
  refine roundTrip_of_raw _ (0x25#8 ++ d ++ a ++ b ++ 0x0#3) rfl fun _ => ?_
  simp only [raw, raw2, fields_8_7_7_7_3 0x25#8 d a b 0x0#3]; rfl

theorem RoundTrip.vmax (d : BitVec 7) (a : BitVec 7) (b : BitVec 7) : RoundTrip.Statement (.vmax d a b) := by
  refine roundTrip_of_raw _ (0x26#8 ++ d ++ a ++ b ++ 0x0#3) rfl fun _ => ?_
  simp only [raw, raw2, fields_8_7_7_7_3 0x26#8 d a b 0x0#3]; rfl

theorem RoundTrip.vminp (d : BitVec 7) (a : BitVec 7) (b : BitVec 7) : RoundTrip.Statement (.vminp d a b) := by
  refine roundTrip_of_raw _ (0x27#8 ++ d ++ a ++ b ++ 0x0#3) rfl fun _ => ?_
  simp only [raw, raw2, fields_8_7_7_7_3 0x27#8 d a b 0x0#3]; rfl

theorem RoundTrip.vmaxp (d : BitVec 7) (a : BitVec 7) (b : BitVec 7) : RoundTrip.Statement (.vmaxp d a b) := by
  refine roundTrip_of_raw _ (0x28#8 ++ d ++ a ++ b ++ 0x0#3) rfl fun _ => ?_
  simp only [raw, raw2, fields_8_7_7_7_3 0x28#8 d a b 0x0#3]; rfl

theorem RoundTrip.vabs (d : BitVec 7) (a : BitVec 7) : RoundTrip.Statement (.vabs d a) := by
  refine roundTrip_of_raw _ (0x29#8 ++ d ++ a ++ 0x0#10) rfl fun _ => ?_
  simp only [raw, raw2, fields_8_7_7_10 0x29#8 d a 0x0#10]; rfl

theorem RoundTrip.vneg (d : BitVec 7) (a : BitVec 7) : RoundTrip.Statement (.vneg d a) := by
  refine roundTrip_of_raw _ (0x2A#8 ++ d ++ a ++ 0x0#10) rfl fun _ => ?_
  simp only [raw, raw2, fields_8_7_7_10 0x2A#8 d a 0x0#10]; rfl

theorem RoundTrip.vand (d : BitVec 7) (a : BitVec 7) (b : BitVec 7) : RoundTrip.Statement (.vand d a b) := by
  refine roundTrip_of_raw _ (0x2B#8 ++ d ++ a ++ b ++ 0x0#3) rfl fun _ => ?_
  simp only [raw, raw2, fields_8_7_7_7_3 0x2B#8 d a b 0x0#3]; rfl

theorem RoundTrip.vor (d : BitVec 7) (a : BitVec 7) (b : BitVec 7) : RoundTrip.Statement (.vor d a b) := by
  refine roundTrip_of_raw _ (0x2C#8 ++ d ++ a ++ b ++ 0x0#3) rfl fun _ => ?_
  simp only [raw, raw2, fields_8_7_7_7_3 0x2C#8 d a b 0x0#3]; rfl

theorem RoundTrip.vxor (d : BitVec 7) (a : BitVec 7) (b : BitVec 7) : RoundTrip.Statement (.vxor d a b) := by
  refine roundTrip_of_raw _ (0x2D#8 ++ d ++ a ++ b ++ 0x0#3) rfl fun _ => ?_
  simp only [raw, raw2, fields_8_7_7_7_3 0x2D#8 d a b 0x0#3]; rfl

theorem RoundTrip.vnot (d : BitVec 7) (a : BitVec 7) : RoundTrip.Statement (.vnot d a) := by
  refine roundTrip_of_raw _ (0x2E#8 ++ d ++ a ++ 0x0#10) rfl fun _ => ?_
  simp only [raw, raw2, fields_8_7_7_10 0x2E#8 d a 0x0#10]; rfl

theorem RoundTrip.vshl (d : BitVec 7) (a : BitVec 7) (b : BitVec 7) : RoundTrip.Statement (.vshl d a b) := by
  refine roundTrip_of_raw _ (0x2F#8 ++ d ++ a ++ b ++ 0x0#3) rfl fun _ => ?_
  simp only [raw, raw2, fields_8_7_7_7_3 0x2F#8 d a b 0x0#3]; rfl

theorem RoundTrip.vshr (d : BitVec 7) (a : BitVec 7) (b : BitVec 7) : RoundTrip.Statement (.vshr d a b) := by
  refine roundTrip_of_raw _ (0x30#8 ++ d ++ a ++ b ++ 0x0#3) rfl fun _ => ?_
  simp only [raw, raw3, fields_8_7_7_7_3 0x30#8 d a b 0x0#3]; rfl

theorem RoundTrip.vsra (d : BitVec 7) (a : BitVec 7) (b : BitVec 7) : RoundTrip.Statement (.vsra d a b) := by
  refine roundTrip_of_raw _ (0x31#8 ++ d ++ a ++ b ++ 0x0#3) rfl fun _ => ?_
  simp only [raw, raw3, fields_8_7_7_7_3 0x31#8 d a b 0x0#3]; rfl

theorem RoundTrip.vclz (d : BitVec 7) (a : BitVec 7) : RoundTrip.Statement (.vclz d a) := by
  refine roundTrip_of_raw _ (0x32#8 ++ d ++ a ++ 0x0#10) rfl fun _ => ?_
  simp only [raw, raw3, fields_8_7_7_10 0x32#8 d a 0x0#10]; rfl

theorem RoundTrip.vpopc (d : BitVec 7) (a : BitVec 7) : RoundTrip.Statement (.vpopc d a) := by
  refine roundTrip_of_raw _ (0x33#8 ++ d ++ a ++ 0x0#10) rfl fun _ => ?_
  simp only [raw, raw3, fields_8_7_7_10 0x33#8 d a 0x0#10]; rfl

theorem RoundTrip.vbfe (d : BitVec 7) (a : BitVec 7) (b : BitVec 7) (s : BitVec 1) : RoundTrip.Statement (.vbfe d a b s) := by
  refine roundTrip_of_raw _ (0x34#8 ++ d ++ a ++ b ++ 0x0#2 ++ s) rfl fun _ => ?_
  simp only [raw, raw3, fields_8_7_7_7_2_1 0x34#8 d a b 0x0#2 s]; rfl

theorem RoundTrip.vbfi (d : BitVec 7) (a : BitVec 7) (b : BitVec 7) : RoundTrip.Statement (.vbfi d a b) := by
  refine roundTrip_of_raw _ (0x35#8 ++ d ++ a ++ b ++ 0x0#3) rfl fun _ => ?_
  simp only [raw, raw3, fields_8_7_7_7_3 0x35#8 d a b 0x0#3]; rfl

theorem RoundTrip.vdot4 (d : BitVec 7) (a : BitVec 7) (b : BitVec 7) (s : BitVec 2) : RoundTrip.Statement (.vdot4 d a b s) := by
  refine roundTrip_of_raw _ (0x36#8 ++ d ++ a ++ b ++ 0x0#1 ++ s) rfl fun _ => ?_
  simp only [raw, raw3, fields_8_7_7_7_1_2 0x36#8 d a b 0x0#1 s]; rfl

theorem RoundTrip.vscale (d : BitVec 7) (a : BitVec 7) (b : BitVec 7) (x : BitVec 3) : RoundTrip.Statement (.vscale d a b x) := by
  refine roundTrip_of_raw _ (0x37#8 ++ d ++ a ++ b ++ x) rfl fun _ => ?_
  simp only [raw, raw3, fields_8_7_7_7_3 0x37#8 d a b x]; rfl

theorem RoundTrip.vfrac (d : BitVec 7) (a : BitVec 7) : RoundTrip.Statement (.vfrac d a) := by
  refine roundTrip_of_raw _ (0x38#8 ++ d ++ a ++ 0x0#10) rfl fun _ => ?_
  simp only [raw, raw3, fields_8_7_7_10 0x38#8 d a 0x0#10]; rfl

theorem RoundTrip.vrnd (d : BitVec 7) (a : BitVec 7) (x : BitVec 3) : RoundTrip.Statement (.vrnd d a x) := by
  refine roundTrip_of_raw _ (0x39#8 ++ d ++ a ++ 0x0#7 ++ x) rfl fun _ => ?_
  simp only [raw, raw3, fields_8_7_7_7_3 0x39#8 d a 0x0#7 x]; rfl

theorem RoundTrip.vclass (d : BitVec 7) (a : BitVec 7) : RoundTrip.Statement (.vclass d a) := by
  refine roundTrip_of_raw _ (0x3A#8 ++ d ++ a ++ 0x0#10) rfl fun _ => ?_
  simp only [raw, raw3, fields_8_7_7_10 0x3A#8 d a 0x0#10]; rfl

theorem RoundTrip.vaddi (d : BitVec 7) (a : BitVec 7) (i : BitVec 10) : RoundTrip.Statement (.vaddi d a i) := by
  refine roundTrip_of_raw _ (0x40#8 ++ d ++ a ++ i) rfl fun _ => ?_
  simp only [raw, raw4, fields_8_7_7_10 0x40#8 d a i]; rfl

theorem RoundTrip.vmuli (d : BitVec 7) (a : BitVec 7) (i : BitVec 10) : RoundTrip.Statement (.vmuli d a i) := by
  refine roundTrip_of_raw _ (0x41#8 ++ d ++ a ++ i) rfl fun _ => ?_
  simp only [raw, raw4, fields_8_7_7_10 0x41#8 d a i]; rfl

theorem RoundTrip.vandi (d : BitVec 7) (a : BitVec 7) (i : BitVec 10) : RoundTrip.Statement (.vandi d a i) := by
  refine roundTrip_of_raw _ (0x42#8 ++ d ++ a ++ i) rfl fun _ => ?_
  simp only [raw, raw4, fields_8_7_7_10 0x42#8 d a i]; rfl

theorem RoundTrip.vori (d : BitVec 7) (a : BitVec 7) (i : BitVec 10) : RoundTrip.Statement (.vori d a i) := by
  refine roundTrip_of_raw _ (0x43#8 ++ d ++ a ++ i) rfl fun _ => ?_
  simp only [raw, raw4, fields_8_7_7_10 0x43#8 d a i]; rfl

theorem RoundTrip.vxori (d : BitVec 7) (a : BitVec 7) (i : BitVec 10) : RoundTrip.Statement (.vxori d a i) := by
  refine roundTrip_of_raw _ (0x44#8 ++ d ++ a ++ i) rfl fun _ => ?_
  simp only [raw, raw4, fields_8_7_7_10 0x44#8 d a i]; rfl

theorem RoundTrip.vshli (d : BitVec 7) (a : BitVec 7) (i : BitVec 7) : RoundTrip.Statement (.vshli d a i) := by
  refine roundTrip_of_raw _ (0x45#8 ++ d ++ a ++ 0x0#3 ++ i) rfl fun _ => ?_
  simp only [raw, raw4, fields_8_7_7_3_7 0x45#8 d a 0x0#3 i]; rfl

theorem RoundTrip.vshri (d : BitVec 7) (a : BitVec 7) (i : BitVec 7) : RoundTrip.Statement (.vshri d a i) := by
  refine roundTrip_of_raw _ (0x46#8 ++ d ++ a ++ 0x0#3 ++ i) rfl fun _ => ?_
  simp only [raw, raw4, fields_8_7_7_3_7 0x46#8 d a 0x0#3 i]; rfl

theorem RoundTrip.vsrai (d : BitVec 7) (a : BitVec 7) (i : BitVec 7) : RoundTrip.Statement (.vsrai d a i) := by
  refine roundTrip_of_raw _ (0x47#8 ++ d ++ a ++ 0x0#3 ++ i) rfl fun _ => ?_
  simp only [raw, raw4, fields_8_7_7_3_7 0x47#8 d a 0x0#3 i]; rfl

theorem RoundTrip.vmini (d : BitVec 7) (a : BitVec 7) (i : BitVec 10) : RoundTrip.Statement (.vmini d a i) := by
  refine roundTrip_of_raw _ (0x48#8 ++ d ++ a ++ i) rfl fun _ => ?_
  simp only [raw, raw4, fields_8_7_7_10 0x48#8 d a i]; rfl

theorem RoundTrip.vmaxi (d : BitVec 7) (a : BitVec 7) (i : BitVec 10) : RoundTrip.Statement (.vmaxi d a i) := by
  refine roundTrip_of_raw _ (0x49#8 ++ d ++ a ++ i) rfl fun _ => ?_
  simp only [raw, raw4, fields_8_7_7_10 0x49#8 d a i]; rfl

theorem RoundTrip.vrcp (d : BitVec 7) (a : BitVec 7) : RoundTrip.Statement (.vrcp d a) := by
  refine roundTrip_of_raw _ (0x50#8 ++ d ++ a ++ 0x0#10) rfl fun _ => ?_
  simp only [raw, raw5, fields_8_7_7_10 0x50#8 d a 0x0#10]; rfl

theorem RoundTrip.vrsq (d : BitVec 7) (a : BitVec 7) : RoundTrip.Statement (.vrsq d a) := by
  refine roundTrip_of_raw _ (0x51#8 ++ d ++ a ++ 0x0#10) rfl fun _ => ?_
  simp only [raw, raw5, fields_8_7_7_10 0x51#8 d a 0x0#10]; rfl

theorem RoundTrip.vsqrt (d : BitVec 7) (a : BitVec 7) : RoundTrip.Statement (.vsqrt d a) := by
  refine roundTrip_of_raw _ (0x52#8 ++ d ++ a ++ 0x0#10) rfl fun _ => ?_
  simp only [raw, raw5, fields_8_7_7_10 0x52#8 d a 0x0#10]; rfl

theorem RoundTrip.vexp2 (d : BitVec 7) (a : BitVec 7) : RoundTrip.Statement (.vexp2 d a) := by
  refine roundTrip_of_raw _ (0x53#8 ++ d ++ a ++ 0x0#10) rfl fun _ => ?_
  simp only [raw, raw5, fields_8_7_7_10 0x53#8 d a 0x0#10]; rfl

theorem RoundTrip.vlog2 (d : BitVec 7) (a : BitVec 7) : RoundTrip.Statement (.vlog2 d a) := by
  refine roundTrip_of_raw _ (0x54#8 ++ d ++ a ++ 0x0#10) rfl fun _ => ?_
  simp only [raw, raw5, fields_8_7_7_10 0x54#8 d a 0x0#10]; rfl

theorem RoundTrip.vsin (d : BitVec 7) (a : BitVec 7) : RoundTrip.Statement (.vsin d a) := by
  refine roundTrip_of_raw _ (0x55#8 ++ d ++ a ++ 0x0#10) rfl fun _ => ?_
  simp only [raw, raw5, fields_8_7_7_10 0x55#8 d a 0x0#10]; rfl

theorem RoundTrip.vcos (d : BitVec 7) (a : BitVec 7) : RoundTrip.Statement (.vcos d a) := by
  refine roundTrip_of_raw _ (0x56#8 ++ d ++ a ++ 0x0#10) rfl fun _ => ?_
  simp only [raw, raw5, fields_8_7_7_10 0x56#8 d a 0x0#10]; rfl

theorem RoundTrip.vtanh (d : BitVec 7) (a : BitVec 7) : RoundTrip.Statement (.vtanh d a) := by
  refine roundTrip_of_raw _ (0x57#8 ++ d ++ a ++ 0x0#10) rfl fun _ => ?_
  simp only [raw, raw5, fields_8_7_7_10 0x57#8 d a 0x0#10]; rfl

theorem RoundTrip.vsigm (d : BitVec 7) (a : BitVec 7) : RoundTrip.Statement (.vsigm d a) := by
  refine roundTrip_of_raw _ (0x58#8 ++ d ++ a ++ 0x0#10) rfl fun _ => ?_
  simp only [raw, raw5, fields_8_7_7_10 0x58#8 d a 0x0#10]; rfl

theorem RoundTrip.verf (d : BitVec 7) (a : BitVec 7) : RoundTrip.Statement (.verf d a) := by
  refine roundTrip_of_raw _ (0x59#8 ++ d ++ a ++ 0x0#10) rfl fun _ => ?_
  simp only [raw, raw5, fields_8_7_7_10 0x59#8 d a 0x0#10]; rfl

theorem RoundTrip.vcvt (d : BitVec 7) (a : BitVec 7) (t : BitVec 4) (r : BitVec 3) : RoundTrip.Statement (.vcvt d a t r) := by
  refine roundTrip_of_raw _ (0x5A#8 ++ d ++ a ++ t ++ r ++ 0x0#3) rfl fun _ => ?_
  simp only [raw, raw5, fields_8_7_7_4_3_3 0x5A#8 d a t r 0x0#3]; rfl

theorem RoundTrip.vpack (d : BitVec 7) (a : BitVec 7) (x : BitVec 3) : RoundTrip.Statement (.vpack d a x) := by
  refine roundTrip_of_raw _ (0x5B#8 ++ d ++ a ++ 0x0#7 ++ x) rfl fun _ => ?_
  simp only [raw, raw5, fields_8_7_7_7_3 0x5B#8 d a 0x0#7 x]; rfl

theorem RoundTrip.vunpk (d : BitVec 7) (a : BitVec 7) (x : BitVec 3) : RoundTrip.Statement (.vunpk d a x) := by
  refine roundTrip_of_raw _ (0x5C#8 ++ d ++ a ++ 0x0#7 ++ x) rfl fun _ => ?_
  simp only [raw, raw5, fields_8_7_7_7_3 0x5C#8 d a 0x0#7 x]; rfl

theorem RoundTrip.vqblk (d : BitVec 7) (a : BitVec 7) (b : BitVec 2) (x : BitVec 3) : RoundTrip.Statement (.vqblk d a b x) := by
  refine roundTrip_of_raw _ (0x5D#8 ++ d ++ a ++ 0x0#5 ++ b ++ x) rfl fun _ => ?_
  simp only [raw, raw5, fields_8_7_7_5_2_3 0x5D#8 d a 0x0#5 b x]; rfl

theorem RoundTrip.vcmp (d : BitVec 3) (a : BitVec 7) (b : BitVec 7) (c : BitVec 3) : RoundTrip.Statement (.vcmp d a b c) := by
  refine roundTrip_of_raw _ (0x60#8 ++ 0x0#4 ++ d ++ a ++ b ++ c) rfl fun _ => ?_
  simp only [raw, raw6, fields_8_4_3_7_7_3 0x60#8 0x0#4 d a b c]; rfl

theorem RoundTrip.vcmpi (d : BitVec 3) (a : BitVec 7) (i : BitVec 7) (c : BitVec 3) : RoundTrip.Statement (.vcmpi d a i c) := by
  refine roundTrip_of_raw _ (0x61#8 ++ 0x0#4 ++ d ++ a ++ i ++ c) rfl fun _ => ?_
  simp only [raw, raw6, fields_8_4_3_7_7_3 0x61#8 0x0#4 d a i c]; rfl

theorem RoundTrip.pand (d : BitVec 3) (a : BitVec 3) (b : BitVec 3) (m : BitVec 1) (n : BitVec 1) : RoundTrip.Statement (.pand d a b m n) := by
  refine roundTrip_of_raw _ (0x62#8 ++ 0x0#4 ++ d ++ 0x0#4 ++ a ++ 0x0#4 ++ b ++ 0x0#1 ++ m ++ n) rfl fun _ => ?_
  simp only [raw, raw6, fields_8_4_3_4_3_4_3_1_1_1 0x62#8 0x0#4 d 0x0#4 a 0x0#4 b 0x0#1 m n]; rfl

theorem RoundTrip.por (d : BitVec 3) (a : BitVec 3) (b : BitVec 3) (m : BitVec 1) (n : BitVec 1) : RoundTrip.Statement (.por d a b m n) := by
  refine roundTrip_of_raw _ (0x63#8 ++ 0x0#4 ++ d ++ 0x0#4 ++ a ++ 0x0#4 ++ b ++ 0x0#1 ++ m ++ n) rfl fun _ => ?_
  simp only [raw, raw6, fields_8_4_3_4_3_4_3_1_1_1 0x63#8 0x0#4 d 0x0#4 a 0x0#4 b 0x0#1 m n]; rfl

theorem RoundTrip.pxor (d : BitVec 3) (a : BitVec 3) (b : BitVec 3) (m : BitVec 1) (n : BitVec 1) : RoundTrip.Statement (.pxor d a b m n) := by
  refine roundTrip_of_raw _ (0x64#8 ++ 0x0#4 ++ d ++ 0x0#4 ++ a ++ 0x0#4 ++ b ++ 0x0#1 ++ m ++ n) rfl fun _ => ?_
  simp only [raw, raw6, fields_8_4_3_4_3_4_3_1_1_1 0x64#8 0x0#4 d 0x0#4 a 0x0#4 b 0x0#1 m n]; rfl

theorem RoundTrip.pmov (d : BitVec 3) (a : BitVec 3) (n : BitVec 1) : RoundTrip.Statement (.pmov d a n) := by
  refine roundTrip_of_raw _ (0x65#8 ++ 0x0#4 ++ d ++ 0x0#4 ++ a ++ 0x0#9 ++ n) rfl fun _ => ?_
  simp only [raw, raw6, fields_8_4_3_4_3_9_1 0x65#8 0x0#4 d 0x0#4 a 0x0#9 n]; rfl

theorem RoundTrip.pmovV2p (d : BitVec 3) (a : BitVec 7) (n : BitVec 1) : RoundTrip.Statement (.pmovV2p d a n) := by
  refine roundTrip_of_raw _ (0x65#8 ++ 0x0#4 ++ d ++ a ++ 0x1#9 ++ n) rfl fun _ => ?_
  simp only [raw, raw6, fields_8_4_3_7_9_1 0x65#8 0x0#4 d a 0x1#9 n]; rfl

theorem RoundTrip.pmovP2v (d : BitVec 7) (a : BitVec 3) (n : BitVec 1) : RoundTrip.Statement (.pmovP2v d a n) := by
  refine roundTrip_of_raw _ (0x65#8 ++ d ++ 0x0#4 ++ a ++ 0x2#9 ++ n) rfl fun _ => ?_
  simp only [raw, raw6, fields_8_7_4_3_9_1 0x65#8 d 0x0#4 a 0x2#9 n]; rfl

theorem RoundTrip.vsel (d : BitVec 7) (a : BitVec 7) (b : BitVec 7) (p : BitVec 3) : RoundTrip.Statement (.vsel d a b p) := by
  refine roundTrip_of_raw _ (0x66#8 ++ d ++ a ++ b ++ p) rfl fun _ => ?_
  simp only [raw, raw6, fields_8_7_7_7_3 0x66#8 d a b p]; rfl

theorem RoundTrip.vmov (d : BitVec 7) (a : BitVec 7) (w : BitVec 1) : RoundTrip.Statement (.vmov d a w) := by
  refine roundTrip_of_raw _ (0x67#8 ++ d ++ a ++ 0x0#9 ++ w) rfl fun _ => ?_
  simp only [raw, raw6, fields_8_7_7_9_1 0x67#8 d a 0x0#9 w]; rfl

theorem RoundTrip.vmovi (d : BitVec 7) (i : BitVec 17) : RoundTrip.Statement (.vmovi d i) := by
  refine roundTrip_of_raw _ (0x68#8 ++ d ++ i) rfl fun _ => ?_
  simp only [raw, raw6, fields_8_7_17 0x68#8 d i]; rfl

theorem RoundTrip.vmovh (d : BitVec 7) (i : BitVec 16) : RoundTrip.Statement (.vmovh d i) := by
  refine roundTrip_of_raw _ (0x69#8 ++ d ++ 0x0#1 ++ i) rfl fun _ => ?_
  simp only [raw, raw6, fields_8_7_1_16 0x69#8 d 0x0#1 i]; rfl

theorem RoundTrip.vbcs (d : BitVec 7) (a : BitVec 7) (w : BitVec 1) : RoundTrip.Statement (.vbcs d a w) := by
  refine roundTrip_of_raw _ (0x6A#8 ++ d ++ a ++ 0x0#9 ++ w) rfl fun _ => ?_
  simp only [raw, raw6, fields_8_7_7_9_1 0x6A#8 d a 0x0#9 w]; rfl

theorem RoundTrip.vget (d : BitVec 7) (a : BitVec 7) (b : BitVec 7) : RoundTrip.Statement (.vget d a b) := by
  refine roundTrip_of_raw _ (0x6B#8 ++ d ++ a ++ b ++ 0x0#3) rfl fun _ => ?_
  simp only [raw, raw6, fields_8_7_7_7_3 0x6B#8 d a b 0x0#3]; rfl

theorem RoundTrip.vput (d : BitVec 7) (a : BitVec 7) (b : BitVec 7) : RoundTrip.Statement (.vput d a b) := by
  refine roundTrip_of_raw _ (0x6C#8 ++ d ++ a ++ b ++ 0x0#3) rfl fun _ => ?_
  simp only [raw, raw6, fields_8_7_7_7_3 0x6C#8 d a b 0x0#3]; rfl

theorem RoundTrip.vlid (d : BitVec 7) (w : BitVec 1) : RoundTrip.Statement (.vlid d w) := by
  refine roundTrip_of_raw _ (0x6D#8 ++ d ++ 0x0#16 ++ w) rfl fun _ => ?_
  simp only [raw, raw6, fields_8_7_16_1 0x6D#8 d 0x0#16 w]; rfl

theorem RoundTrip.vbnd (d : BitVec 7) (a : BitVec 7) (n : BitVec 4) : RoundTrip.Statement (.vbnd d a n) := by
  refine roundTrip_of_raw _ (0x6E#8 ++ d ++ a ++ 0x0#3 ++ n ++ 0x0#3) rfl fun _ => ?_
  simp only [raw, raw6, fields_8_7_7_3_4_3 0x6E#8 d a 0x0#3 n 0x0#3]; rfl

theorem RoundTrip.vshfl (d : BitVec 7) (a : BitVec 7) (b : BitVec 7) (w : BitVec 1) : RoundTrip.Statement (.vshfl d a b w) := by
  refine roundTrip_of_raw _ (0x70#8 ++ d ++ a ++ b ++ 0x0#1 ++ w ++ 0x0#1) rfl fun _ => ?_
  simp only [raw, raw7, fields_8_7_7_7_1_1_1 0x70#8 d a b 0x0#1 w 0x0#1]; rfl

theorem RoundTrip.vshfu (d : BitVec 7) (a : BitVec 7) (b : BitVec 7) (w : BitVec 1) (u : BitVec 1) : RoundTrip.Statement (.vshfu d a b w u) := by
  refine roundTrip_of_raw _ (0x71#8 ++ d ++ a ++ b ++ 0x0#1 ++ w ++ u) rfl fun _ => ?_
  simp only [raw, raw7, fields_8_7_7_7_1_1_1 0x71#8 d a b 0x0#1 w u]; rfl

theorem RoundTrip.vshfd (d : BitVec 7) (a : BitVec 7) (b : BitVec 7) (w : BitVec 1) (u : BitVec 1) : RoundTrip.Statement (.vshfd d a b w u) := by
  refine roundTrip_of_raw _ (0x72#8 ++ d ++ a ++ b ++ 0x0#1 ++ w ++ u) rfl fun _ => ?_
  simp only [raw, raw7, fields_8_7_7_7_1_1_1 0x72#8 d a b 0x0#1 w u]; rfl

theorem RoundTrip.vshfx (d : BitVec 7) (a : BitVec 7) (b : BitVec 7) (w : BitVec 1) (u : BitVec 1) : RoundTrip.Statement (.vshfx d a b w u) := by
  refine roundTrip_of_raw _ (0x73#8 ++ d ++ a ++ b ++ 0x0#1 ++ w ++ u) rfl fun _ => ?_
  simp only [raw, raw7, fields_8_7_7_7_1_1_1 0x73#8 d a b 0x0#1 w u]; rfl

theorem RoundTrip.vote (d : BitVec 7) (n : BitVec 1) (a : BitVec 3) (x : BitVec 3) : RoundTrip.Statement (.vote d n a x) := by
  refine roundTrip_of_raw _ (0x74#8 ++ d ++ 0x0#3 ++ n ++ a ++ 0x0#7 ++ x) rfl fun _ => ?_
  simp only [raw, raw7, fields_8_7_3_1_3_7_3 0x74#8 d 0x0#3 n a 0x0#7 x]; rfl

theorem RoundTrip.vred (d : BitVec 7) (a : BitVec 7) (x : BitVec 3) : RoundTrip.Statement (.vred d a x) := by
  refine roundTrip_of_raw _ (0x75#8 ++ d ++ a ++ 0x0#7 ++ x) rfl fun _ => ?_
  simp only [raw, raw7, fields_8_7_7_7_3 0x75#8 d a 0x0#7 x]; rfl

theorem RoundTrip.vscan (d : BitVec 7) (a : BitVec 7) (e : BitVec 1) (x : BitVec 3) : RoundTrip.Statement (.vscan d a e x) := by
  refine roundTrip_of_raw _ (0x76#8 ++ d ++ a ++ 0x0#6 ++ e ++ x) rfl fun _ => ?_
  simp only [raw, raw7, fields_8_7_7_6_1_3 0x76#8 d a 0x0#6 e x]; rfl

theorem RoundTrip.vmatch (d : BitVec 7) (a : BitVec 7) (w : BitVec 1) : RoundTrip.Statement (.vmatch d a w) := by
  refine roundTrip_of_raw _ (0x77#8 ++ d ++ a ++ 0x0#9 ++ w) rfl fun _ => ?_
  simp only [raw, raw7, fields_8_7_7_9_1 0x77#8 d a 0x0#9 w]; rfl

theorem RoundTrip.width (d : BitVec 7) : RoundTrip.Statement (.width d) := by
  refine roundTrip_of_raw _ (0x78#8 ++ d ++ 0x0#17) rfl fun _ => ?_
  simp only [raw, raw7, fields_8_7_17 0x78#8 d 0x0#17]; rfl

theorem RoundTrip.br (o : BitVec 24) : RoundTrip.Statement (.br o) := by
  refine roundTrip_of_raw _ (0x80#8 ++ o) rfl fun _ => ?_
  simp only [raw, raw8, fields_8_24 0x80#8 o]; rfl

theorem RoundTrip.bra (k : BitVec 3) (n : BitVec 1) (o : BitVec 20) : RoundTrip.Statement (.bra k n o) := by
  refine roundTrip_of_raw _ (0x81#8 ++ k ++ n ++ o) rfl fun _ => ?_
  simp only [raw, raw8, fields_8_3_1_20 0x81#8 k n o]; rfl

theorem RoundTrip.brc (c : BitVec 3) (s : BitVec 6) (o : BitVec 15) : RoundTrip.Statement (.brc c s o) := by
  refine roundTrip_of_raw _ (0x82#8 ++ c ++ s ++ o) rfl fun _ => ?_
  simp only [raw, raw8, fields_8_3_6_15 0x82#8 c s o]; rfl

theorem RoundTrip.brx (a : BitVec 7) (b : BitVec 7) : RoundTrip.Statement (.brx a b) := by
  refine roundTrip_of_raw _ (0x83#8 ++ 0x0#7 ++ a ++ b ++ 0x0#3) rfl fun _ => ?_
  simp only [raw, raw8, fields_8_7_7_7_3 0x83#8 0x0#7 a b 0x0#3]; rfl

theorem RoundTrip.brxU (a : BitVec 7) : RoundTrip.Statement (.brxU a) := by
  refine roundTrip_of_raw _ (0x83#8 ++ 0x0#7 ++ a ++ 0x1#10) rfl fun _ => ?_
  simp only [raw, raw8, fields_8_7_7_10 0x83#8 0x0#7 a 0x1#10]; rfl

theorem RoundTrip.call (o : BitVec 24) : RoundTrip.Statement (.call o) := by
  refine roundTrip_of_raw _ (0x84#8 ++ o) rfl fun _ => ?_
  simp only [raw, raw8, fields_8_24 0x84#8 o]; rfl

theorem RoundTrip.ret (a : BitVec 7) : RoundTrip.Statement (.ret a) := by
  refine roundTrip_of_raw _ (0x85#8 ++ 0x0#7 ++ a ++ 0x0#10) rfl fun _ => ?_
  simp only [raw, raw8, fields_8_7_7_10 0x85#8 0x0#7 a 0x0#10]; rfl

theorem RoundTrip.jarm (j : BitVec 2) : RoundTrip.Statement (.jarm j) := by
  refine roundTrip_of_raw _ (0x86#8 ++ 0x0#4 ++ j ++ 0x0#18) rfl fun _ => ?_
  simp only [raw, raw8, fields_8_4_2_18 0x86#8 0x0#4 j 0x0#18]; rfl

theorem RoundTrip.jarv (j : BitVec 2) : RoundTrip.Statement (.jarv j) := by
  refine roundTrip_of_raw _ (0x87#8 ++ 0x0#4 ++ j ++ 0x0#18) rfl fun _ => ?_
  simp only [raw, raw8, fields_8_4_2_18 0x87#8 0x0#4 j 0x0#18]; rfl

theorem RoundTrip.jwait (j : BitVec 2) : RoundTrip.Statement (.jwait j) := by
  refine roundTrip_of_raw _ (0x88#8 ++ 0x0#4 ++ j ++ 0x0#18) rfl fun _ => ?_
  simp only [raw, raw8, fields_8_4_2_18 0x88#8 0x0#4 j 0x0#18]; rfl

theorem RoundTrip.jclr (j : BitVec 2) : RoundTrip.Statement (.jclr j) := by
  refine roundTrip_of_raw _ (0x89#8 ++ 0x0#4 ++ j ++ 0x0#18) rfl fun _ => ?_
  simp only [raw, raw8, fields_8_4_2_18 0x89#8 0x0#4 j 0x0#18]; rfl

theorem RoundTrip.trap (n : BitVec 6) : RoundTrip.Statement (.trap n) := by
  refine roundTrip_of_raw _ (0x8C#8 ++ n ++ 0x0#18) rfl fun _ => ?_
  simp only [raw, raw8, fields_8_6_18 0x8C#8 n 0x0#18]; rfl

theorem RoundTrip.mode (d : BitVec 5) (i : BitVec 14) : RoundTrip.Statement (.mode d i) := by
  refine roundTrip_of_raw _ (0x8E#8 ++ 0x0#2 ++ d ++ 0x0#3 ++ i) rfl fun _ => ?_
  simp only [raw, raw8, fields_8_2_5_3_14 0x8E#8 0x0#2 d 0x0#3 i]; rfl

theorem RoundTrip.barInit (a : BitVec 6) (b : BitVec 6) : RoundTrip.Statement (.barInit a b) := by
  refine roundTrip_of_raw _ (0x90#8 ++ 0x0#6 ++ a ++ b ++ 0x0#6) rfl fun _ => ?_
  simp only [raw, raw9, fields_8_6_6_6_6 0x90#8 0x0#6 a b 0x0#6]; rfl

theorem RoundTrip.barArv (a : BitVec 6) (b : BitVec 6) (c : BitVec 6) : RoundTrip.Statement (.barArv a b c) := by
  refine roundTrip_of_raw _ (0x91#8 ++ 0x0#6 ++ a ++ b ++ c) rfl fun _ => ?_
  simp only [raw, raw9, fields_8_6_6_6_6 0x91#8 0x0#6 a b c]; rfl

theorem RoundTrip.barWait (a : BitVec 6) (b : BitVec 6) (c : BitVec 6) : RoundTrip.Statement (.barWait a b c) := by
  refine roundTrip_of_raw _ (0x92#8 ++ 0x0#6 ++ a ++ b ++ c) rfl fun _ => ?_
  simp only [raw, raw9, fields_8_6_6_6_6 0x92#8 0x0#6 a b c]; rfl

theorem RoundTrip.fork (a : BitVec 6) (b : BitVec 6) : RoundTrip.Statement (.fork a b) := by
  refine roundTrip_of_raw _ (0x95#8 ++ 0x0#6 ++ a ++ b ++ 0x0#6) rfl fun _ => ?_
  simp only [raw, raw9, fields_8_6_6_6_6 0x95#8 0x0#6 a b 0x0#6]; rfl

theorem RoundTrip.rdv (a : BitVec 6) : RoundTrip.Statement (.rdv a) := by
  refine roundTrip_of_raw _ (0x96#8 ++ 0x0#6 ++ a ++ 0x0#12) rfl fun _ => ?_
  simp only [raw, raw9, fields_8_6_6_12 0x96#8 0x0#6 a 0x0#12]; rfl

theorem RoundTrip.rcall (n : BitVec 5) (a : BitVec 6) (b : BitVec 6) (c : BitVec 6) : RoundTrip.Statement (.rcall n a b c) := by
  refine roundTrip_of_raw _ (0x97#8 ++ 0x0#1 ++ n ++ a ++ b ++ c) rfl fun _ => ?_
  simp only [raw, raw9, fields_8_1_5_6_6_6 0x97#8 0x0#1 n a b c]; rfl

theorem RoundTrip.rcallRetry (n : BitVec 5) (a : BitVec 6) (b : BitVec 6) (c : BitVec 6) : RoundTrip.Statement (.rcallRetry n a b c) := by
  refine roundTrip_of_raw _ (0x97#8 ++ 0x1#1 ++ n ++ a ++ b ++ c) rfl fun _ => ?_
  simp only [raw, raw9, fields_8_1_5_6_6_6 0x97#8 0x1#1 n a b c]; rfl

theorem RoundTrip.rret (n : BitVec 4) : RoundTrip.Statement (.rret n) := by
  refine roundTrip_of_raw _ (0x98#8 ++ 0x0#2 ++ n ++ 0x0#18) rfl fun _ => ?_
  simp only [raw, raw9, fields_8_2_4_18 0x98#8 0x0#2 n 0x0#18]; rfl

theorem RoundTrip.rwait (d : BitVec 7) (a : BitVec 7) (l : BitVec 4) : RoundTrip.Statement (.rwait d a l) := by
  refine roundTrip_of_raw _ (0x99#8 ++ d ++ a ++ 0x0#6 ++ l) rfl fun _ => ?_
  simp only [raw, raw9, fields_8_7_7_6_4 0x99#8 d a 0x0#6 l]; rfl

theorem RoundTrip.launch (a : BitVec 6) (b : BitVec 6) (c : BitVec 6) : RoundTrip.Statement (.launch a b c) := by
  refine roundTrip_of_raw _ (0x9A#8 ++ 0x0#6 ++ a ++ b ++ c) rfl fun _ => ?_
  simp only [raw, raw9, fields_8_6_6_6_6 0x9A#8 0x0#6 a b c]; rfl

theorem RoundTrip.brk (n : BitVec 6) : RoundTrip.Statement (.brk n) := by
  refine roundTrip_of_raw _ (0x9C#8 ++ n ++ 0x0#18) rfl fun _ => ?_
  simp only [raw, raw9, fields_8_6_18 0x9C#8 n 0x0#18]; rfl

theorem RoundTrip.sbnd (t : BitVec 2) (n : BitVec 4) (a : BitVec 6) (b : BitVec 6) : RoundTrip.Statement (.sbnd t n a b) := by
  refine roundTrip_of_raw _ (0x9D#8 ++ t ++ n ++ a ++ b ++ 0x0#6) rfl fun _ => ?_
  simp only [raw, raw9, fields_8_2_4_6_6_6 0x9D#8 t n a b 0x0#6]; rfl

theorem RoundTrip.ldN8 (d : BitVec 7) (a : BitVec 7) (s : BitVec 6) (l : BitVec 4) : RoundTrip.Statement (.ldN8 d a s l) := by
  refine roundTrip_of_raw _ (0xA0#8 ++ d ++ a ++ s ++ l) rfl fun _ => ?_
  simp only [raw, rawA, fields_8_7_7_6_4 0xA0#8 d a s l]; rfl

theorem RoundTrip.ldI8 (d : BitVec 7) (a : BitVec 7) (s : BitVec 6) (l : BitVec 4) : RoundTrip.Statement (.ldI8 d a s l) := by
  refine roundTrip_of_raw _ (0xA1#8 ++ d ++ a ++ s ++ l) rfl fun _ => ?_
  simp only [raw, rawA, fields_8_7_7_6_4 0xA1#8 d a s l]; rfl

theorem RoundTrip.ldN16 (d : BitVec 7) (a : BitVec 7) (s : BitVec 6) (l : BitVec 4) : RoundTrip.Statement (.ldN16 d a s l) := by
  refine roundTrip_of_raw _ (0xA2#8 ++ d ++ a ++ s ++ l) rfl fun _ => ?_
  simp only [raw, rawA, fields_8_7_7_6_4 0xA2#8 d a s l]; rfl

theorem RoundTrip.ldI16 (d : BitVec 7) (a : BitVec 7) (s : BitVec 6) (l : BitVec 4) : RoundTrip.Statement (.ldI16 d a s l) := by
  refine roundTrip_of_raw _ (0xA3#8 ++ d ++ a ++ s ++ l) rfl fun _ => ?_
  simp only [raw, rawA, fields_8_7_7_6_4 0xA3#8 d a s l]; rfl

theorem RoundTrip.ld32 (d : BitVec 7) (a : BitVec 7) (s : BitVec 6) (l : BitVec 4) : RoundTrip.Statement (.ld32 d a s l) := by
  refine roundTrip_of_raw _ (0xA4#8 ++ d ++ a ++ s ++ l) rfl fun _ => ?_
  simp only [raw, rawA, fields_8_7_7_6_4 0xA4#8 d a s l]; rfl

theorem RoundTrip.ld64 (d : BitVec 7) (a : BitVec 7) (s : BitVec 6) (l : BitVec 4) : RoundTrip.Statement (.ld64 d a s l) := by
  refine roundTrip_of_raw _ (0xA5#8 ++ d ++ a ++ s ++ l) rfl fun _ => ?_
  simp only [raw, rawA, fields_8_7_7_6_4 0xA5#8 d a s l]; rfl

theorem RoundTrip.ld128 (d : BitVec 7) (a : BitVec 7) (s : BitVec 6) (l : BitVec 4) : RoundTrip.Statement (.ld128 d a s l) := by
  refine roundTrip_of_raw _ (0xA6#8 ++ d ++ a ++ s ++ l) rfl fun _ => ?_
  simp only [raw, rawA, fields_8_7_7_6_4 0xA6#8 d a s l]; rfl

theorem RoundTrip.st (d : BitVec 7) (a : BitVec 7) (s : BitVec 6) (z : BitVec 3) : RoundTrip.Statement (.st d a s z) := by
  refine roundTrip_of_raw _ (0xA7#8 ++ d ++ a ++ s ++ 0x0#1 ++ z) rfl fun _ => ?_
  simp only [raw, rawA, fields_8_7_7_6_1_3 0xA7#8 d a s 0x0#1 z]; rfl

theorem RoundTrip.ldl32 (d : BitVec 7) (a : BitVec 7) (s : BitVec 6) (l : BitVec 4) : RoundTrip.Statement (.ldl32 d a s l) := by
  refine roundTrip_of_raw _ (0xA8#8 ++ d ++ a ++ s ++ l) rfl fun _ => ?_
  simp only [raw, rawA, fields_8_7_7_6_4 0xA8#8 d a s l]; rfl

theorem RoundTrip.ldl128 (d : BitVec 7) (a : BitVec 7) (s : BitVec 6) (l : BitVec 4) : RoundTrip.Statement (.ldl128 d a s l) := by
  refine roundTrip_of_raw _ (0xA9#8 ++ d ++ a ++ s ++ l) rfl fun _ => ?_
  simp only [raw, rawA, fields_8_7_7_6_4 0xA9#8 d a s l]; rfl

theorem RoundTrip.stl (d : BitVec 7) (a : BitVec 7) (s : BitVec 6) (z : BitVec 3) : RoundTrip.Statement (.stl d a s z) := by
  refine roundTrip_of_raw _ (0xAA#8 ++ d ++ a ++ s ++ 0x0#1 ++ z) rfl fun _ => ?_
  simp only [raw, rawA, fields_8_7_7_6_1_3 0xAA#8 d a s 0x0#1 z]; rfl

theorem RoundTrip.ldlQ (d : BitVec 7) (a : BitVec 7) (f : BitVec 1) (w : BitVec 1) (q : BitVec 3) (l : BitVec 4) : RoundTrip.Statement (.ldlQ d a f w q l) := by
  refine roundTrip_of_raw _ (0xAB#8 ++ d ++ a ++ 0x0#1 ++ f ++ w ++ q ++ l) rfl fun _ => ?_
  simp only [raw, rawA, fields_8_7_7_1_1_1_3_4 0xAB#8 d a 0x0#1 f w q l]; rfl

theorem RoundTrip.stlQ (d : BitVec 7) (a : BitVec 7) (c : BitVec 1) (w : BitVec 1) (q : BitVec 3) : RoundTrip.Statement (.stlQ d a c w q) := by
  refine roundTrip_of_raw _ (0xAC#8 ++ d ++ a ++ 0x0#1 ++ c ++ w ++ q ++ 0x0#4) rfl fun _ => ?_
  simp only [raw, rawA, fields_8_7_7_1_1_1_3_4 0xAC#8 d a 0x0#1 c w q 0x0#4]; rfl

theorem RoundTrip.ldc (d : BitVec 7) (p : BitVec 1) (w : BitVec 12) (l : BitVec 4) : RoundTrip.Statement (.ldc d p w l) := by
  refine roundTrip_of_raw _ (0xAD#8 ++ d ++ p ++ w ++ l) rfl fun _ => ?_
  simp only [raw, rawA, fields_8_7_1_12_4 0xAD#8 d p w l]; rfl

theorem RoundTrip.sld (d : BitVec 7) (p : BitVec 1) (a : BitVec 6) (s : BitVec 6) (l : BitVec 4) : RoundTrip.Statement (.sld d p a s l) := by
  refine roundTrip_of_raw _ (0xAE#8 ++ d ++ p ++ a ++ s ++ l) rfl fun _ => ?_
  simp only [raw, rawA, fields_8_7_1_6_6_4 0xAE#8 d p a s l]; rfl

theorem RoundTrip.red (d : BitVec 7) (a : BitVec 7) (s : BitVec 6) (o : BitVec 4) : RoundTrip.Statement (.red d a s o) := by
  refine roundTrip_of_raw _ (0xAF#8 ++ d ++ a ++ s ++ o) rfl fun _ => ?_
  simp only [raw, rawA, fields_8_7_7_6_4 0xAF#8 d a s o]; rfl

theorem RoundTrip.atomAdd (d : BitVec 7) (a : BitVec 7) (s : BitVec 6) (l : BitVec 4) : RoundTrip.Statement (.atomAdd d a s l) := by
  refine roundTrip_of_raw _ (0xB0#8 ++ d ++ a ++ s ++ l) rfl fun _ => ?_
  simp only [raw, rawB, fields_8_7_7_6_4 0xB0#8 d a s l]; rfl

theorem RoundTrip.atomMin (d : BitVec 7) (a : BitVec 7) (s : BitVec 6) (l : BitVec 4) : RoundTrip.Statement (.atomMin d a s l) := by
  refine roundTrip_of_raw _ (0xB1#8 ++ d ++ a ++ s ++ l) rfl fun _ => ?_
  simp only [raw, rawB, fields_8_7_7_6_4 0xB1#8 d a s l]; rfl

theorem RoundTrip.atomMax (d : BitVec 7) (a : BitVec 7) (s : BitVec 6) (l : BitVec 4) : RoundTrip.Statement (.atomMax d a s l) := by
  refine roundTrip_of_raw _ (0xB2#8 ++ d ++ a ++ s ++ l) rfl fun _ => ?_
  simp only [raw, rawB, fields_8_7_7_6_4 0xB2#8 d a s l]; rfl

theorem RoundTrip.atomMinn (d : BitVec 7) (a : BitVec 7) (s : BitVec 6) (l : BitVec 4) : RoundTrip.Statement (.atomMinn d a s l) := by
  refine roundTrip_of_raw _ (0xB3#8 ++ d ++ a ++ s ++ l) rfl fun _ => ?_
  simp only [raw, rawB, fields_8_7_7_6_4 0xB3#8 d a s l]; rfl

theorem RoundTrip.atomMaxn (d : BitVec 7) (a : BitVec 7) (s : BitVec 6) (l : BitVec 4) : RoundTrip.Statement (.atomMaxn d a s l) := by
  refine roundTrip_of_raw _ (0xB4#8 ++ d ++ a ++ s ++ l) rfl fun _ => ?_
  simp only [raw, rawB, fields_8_7_7_6_4 0xB4#8 d a s l]; rfl

theorem RoundTrip.atomAnd (d : BitVec 7) (a : BitVec 7) (s : BitVec 6) (l : BitVec 4) : RoundTrip.Statement (.atomAnd d a s l) := by
  refine roundTrip_of_raw _ (0xB5#8 ++ d ++ a ++ s ++ l) rfl fun _ => ?_
  simp only [raw, rawB, fields_8_7_7_6_4 0xB5#8 d a s l]; rfl

theorem RoundTrip.atomOr (d : BitVec 7) (a : BitVec 7) (s : BitVec 6) (l : BitVec 4) : RoundTrip.Statement (.atomOr d a s l) := by
  refine roundTrip_of_raw _ (0xB6#8 ++ d ++ a ++ s ++ l) rfl fun _ => ?_
  simp only [raw, rawB, fields_8_7_7_6_4 0xB6#8 d a s l]; rfl

theorem RoundTrip.atomXor (d : BitVec 7) (a : BitVec 7) (s : BitVec 6) (l : BitVec 4) : RoundTrip.Statement (.atomXor d a s l) := by
  refine roundTrip_of_raw _ (0xB7#8 ++ d ++ a ++ s ++ l) rfl fun _ => ?_
  simp only [raw, rawB, fields_8_7_7_6_4 0xB7#8 d a s l]; rfl

theorem RoundTrip.atomSwap (d : BitVec 7) (a : BitVec 7) (s : BitVec 6) (l : BitVec 4) : RoundTrip.Statement (.atomSwap d a s l) := by
  refine roundTrip_of_raw _ (0xB8#8 ++ d ++ a ++ s ++ l) rfl fun _ => ?_
  simp only [raw, rawB, fields_8_7_7_6_4 0xB8#8 d a s l]; rfl

theorem RoundTrip.atomCas (d : BitVec 7) (a : BitVec 7) (s : BitVec 6) (l : BitVec 4) : RoundTrip.Statement (.atomCas d a s l) := by
  refine roundTrip_of_raw _ (0xB9#8 ++ d ++ a ++ s ++ l) rfl fun _ => ?_
  simp only [raw, rawB, fields_8_7_7_6_4 0xB9#8 d a s l]; rfl

theorem RoundTrip.atomInc (d : BitVec 7) (a : BitVec 7) (s : BitVec 6) (l : BitVec 4) : RoundTrip.Statement (.atomInc d a s l) := by
  refine roundTrip_of_raw _ (0xBA#8 ++ d ++ a ++ s ++ l) rfl fun _ => ?_
  simp only [raw, rawB, fields_8_7_7_6_4 0xBA#8 d a s l]; rfl

theorem RoundTrip.atomDec (d : BitVec 7) (a : BitVec 7) (s : BitVec 6) (l : BitVec 4) : RoundTrip.Statement (.atomDec d a s l) := by
  refine roundTrip_of_raw _ (0xBB#8 ++ d ++ a ++ s ++ l) rfl fun _ => ?_
  simp only [raw, rawB, fields_8_7_7_6_4 0xBB#8 d a s l]; rfl

theorem RoundTrip.atomFadd (d : BitVec 7) (a : BitVec 7) (s : BitVec 6) (l : BitVec 4) : RoundTrip.Statement (.atomFadd d a s l) := by
  refine roundTrip_of_raw _ (0xBC#8 ++ d ++ a ++ s ++ l) rfl fun _ => ?_
  simp only [raw, rawB, fields_8_7_7_6_4 0xBC#8 d a s l]; rfl

theorem RoundTrip.atoml (d : BitVec 7) (a : BitVec 7) (b : BitVec 7) : RoundTrip.Statement (.atoml d a b) := by
  refine roundTrip_of_raw _ (0xBD#8 ++ d ++ a ++ b ++ 0x0#3) rfl fun _ => ?_
  simp only [raw, rawB, fields_8_7_7_7_3 0xBD#8 d a b 0x0#3]; rfl

theorem RoundTrip.cpy (k : BitVec 3) (a : BitVec 6) (b : BitVec 6) (c : BitVec 6) : RoundTrip.Statement (.cpy k a b c) := by
  refine roundTrip_of_raw _ (0xC0#8 ++ 0x0#3 ++ k ++ a ++ b ++ c) rfl fun _ => ?_
  simp only [raw, rawC, fields_8_3_3_6_6_6 0xC0#8 0x0#3 k a b c]; rfl

theorem RoundTrip.cpyz (k : BitVec 3) (a : BitVec 6) (b : BitVec 6) (c : BitVec 6) : RoundTrip.Statement (.cpyz k a b c) := by
  refine roundTrip_of_raw _ (0xC1#8 ++ 0x0#3 ++ k ++ a ++ b ++ c) rfl fun _ => ?_
  simp only [raw, rawC, fields_8_3_3_6_6_6 0xC1#8 0x0#3 k a b c]; rfl

theorem RoundTrip.mrd (i : BitVec 1) (k : BitVec 3) (a : BitVec 6) : RoundTrip.Statement (.mrd i k a) := by
  refine roundTrip_of_raw _ (0xC2#8 ++ 0x0#2 ++ i ++ k ++ a ++ 0x0#12) rfl fun _ => ?_
  simp only [raw, rawC, fields_8_2_1_3_6_12 0xC2#8 0x0#2 i k a 0x0#12]; rfl

theorem RoundTrip.mwait (o : BitVec 3) (k : BitVec 3) (a : BitVec 6) : RoundTrip.Statement (.mwait o k a) := by
  refine roundTrip_of_raw _ (0xC3#8 ++ o ++ k ++ a ++ 0x0#12) rfl fun _ => ?_
  simp only [raw, rawC, fields_8_3_3_6_12 0xC3#8 o k a 0x0#12]; rfl

theorem RoundTrip.mstep (o : BitVec 3) (k : BitVec 3) (a : BitVec 6) : RoundTrip.Statement (.mstep o k a) := by
  refine roundTrip_of_raw _ (0xC4#8 ++ o ++ k ++ a ++ 0x0#12) rfl fun _ => ?_
  simp only [raw, rawC, fields_8_3_3_6_12 0xC4#8 o k a 0x0#12]; rfl

theorem RoundTrip.fence (o : BitVec 2) (s : BitVec 3) : RoundTrip.Statement (.fence o s) := by
  refine roundTrip_of_raw _ (0xC5#8 ++ 0x0#1 ++ o ++ s ++ 0x0#18) rfl fun _ => ?_
  simp only [raw, rawC, fields_8_1_2_3_18 0xC5#8 0x0#1 o s 0x0#18]; rfl

theorem RoundTrip.pref (v : BitVec 1) (a : BitVec 6) (b : BitVec 6) : RoundTrip.Statement (.pref v a b) := by
  refine roundTrip_of_raw _ (0xC6#8 ++ 0x0#5 ++ v ++ a ++ b ++ 0x0#6) rfl fun _ => ?_
  simp only [raw, rawC, fields_8_5_1_6_6_6 0xC6#8 0x0#5 v a b 0x0#6]; rfl

theorem RoundTrip.cinv (v : BitVec 1) (a : BitVec 6) (b : BitVec 6) : RoundTrip.Statement (.cinv v a b) := by
  refine roundTrip_of_raw _ (0xC7#8 ++ 0x0#5 ++ v ++ a ++ b ++ 0x0#6) rfl fun _ => ?_
  simp only [raw, rawC, fields_8_5_1_6_6_6 0xC7#8 0x0#5 v a b 0x0#6]; rfl

theorem RoundTrip.cwb (v : BitVec 1) (a : BitVec 6) (b : BitVec 6) : RoundTrip.Statement (.cwb v a b) := by
  refine roundTrip_of_raw _ (0xC8#8 ++ 0x0#5 ++ v ++ a ++ b ++ 0x0#6) rfl fun _ => ?_
  simp only [raw, rawC, fields_8_5_1_6_6_6 0xC8#8 0x0#5 v a b 0x0#6]; rfl

theorem RoundTrip.xatAdd (d : BitVec 7) (a : BitVec 7) (s : BitVec 6) : RoundTrip.Statement (.xatAdd d a s) := by
  refine roundTrip_of_raw _ (0xD0#8 ++ d ++ a ++ s ++ 0x0#4) rfl fun _ => ?_
  simp only [raw, rawD, fields_8_7_7_6_4 0xD0#8 d a s 0x0#4]; rfl

theorem RoundTrip.xatRed (d : BitVec 7) (a : BitVec 7) (s : BitVec 6) (o : BitVec 4) : RoundTrip.Statement (.xatRed d a s o) := by
  refine roundTrip_of_raw _ (0xD1#8 ++ d ++ a ++ s ++ o) rfl fun _ => ?_
  simp only [raw, rawD, fields_8_7_7_6_4 0xD1#8 d a s o]; rfl

theorem RoundTrip.xatRmw (d : BitVec 7) (a : BitVec 7) (s : BitVec 6) (l : BitVec 4) : RoundTrip.Statement (.xatRmw d a s l) := by
  refine roundTrip_of_raw _ (0xD2#8 ++ d ++ a ++ s ++ l) rfl fun _ => ?_
  simp only [raw, rawD, fields_8_7_7_6_4 0xD2#8 d a s l]; rfl

theorem RoundTrip.xatExpr (k : BitVec 3) (a : BitVec 6) (b : BitVec 6) : RoundTrip.Statement (.xatExpr k a b) := by
  refine roundTrip_of_raw _ (0xD3#8 ++ 0x0#3 ++ k ++ a ++ b ++ 0x0#6) rfl fun _ => ?_
  simp only [raw, rawD, fields_8_3_3_6_6_6 0xD3#8 0x0#3 k a b 0x0#6]; rfl

theorem RoundTrip.xatFill (k : BitVec 3) (a : BitVec 6) (b : BitVec 6) (c : BitVec 6) : RoundTrip.Statement (.xatFill k a b c) := by
  refine roundTrip_of_raw _ (0xD4#8 ++ 0x0#3 ++ k ++ a ++ b ++ c) rfl fun _ => ?_
  simp only [raw, rawD, fields_8_3_3_6_6_6 0xD4#8 0x0#3 k a b c]; rfl

theorem RoundTrip.xatCopy (k : BitVec 3) (a : BitVec 6) (b : BitVec 6) (c : BitVec 6) : RoundTrip.Statement (.xatCopy k a b c) := by
  refine roundTrip_of_raw _ (0xD5#8 ++ 0x0#3 ++ k ++ a ++ b ++ c) rfl fun _ => ?_
  simp only [raw, rawD, fields_8_3_3_6_6_6 0xD5#8 0x0#3 k a b c]; rfl

theorem RoundTrip.mqPut (a : BitVec 6) (b : BitVec 6) (c : BitVec 6) : RoundTrip.Statement (.mqPut a b c) := by
  refine roundTrip_of_raw _ (0xD7#8 ++ 0x0#6 ++ a ++ b ++ c) rfl fun _ => ?_
  simp only [raw, rawD, fields_8_6_6_6_6 0xD7#8 0x0#6 a b c]; rfl

theorem RoundTrip.mqGet (a : BitVec 6) (b : BitVec 6) (c : BitVec 6) : RoundTrip.Statement (.mqGet a b c) := by
  refine roundTrip_of_raw _ (0xD8#8 ++ 0x0#6 ++ a ++ b ++ c) rfl fun _ => ?_
  simp only [raw, rawD, fields_8_6_6_6_6 0xD8#8 0x0#6 a b c]; rfl

theorem RoundTrip.mred (o : BitVec 3) (k : BitVec 3) (a : BitVec 6) (b : BitVec 6) : RoundTrip.Statement (.mred o k a b) := by
  refine roundTrip_of_raw _ (0xD9#8 ++ o ++ k ++ a ++ b ++ 0x0#6) rfl fun _ => ?_
  simp only [raw, rawD, fields_8_3_3_6_6_6 0xD9#8 o k a b 0x0#6]; rfl

theorem RoundTrip.mrelay (k : BitVec 3) (a : BitVec 6) (b : BitVec 6) (c : BitVec 6) : RoundTrip.Statement (.mrelay k a b c) := by
  refine roundTrip_of_raw _ (0xDA#8 ++ 0x0#3 ++ k ++ a ++ b ++ c) rfl fun _ => ?_
  simp only [raw, rawD, fields_8_3_3_6_6_6 0xDA#8 0x0#3 k a b c]; rfl

theorem RoundTrip.nput (k : BitVec 3) (a : BitVec 6) (b : BitVec 6) : RoundTrip.Statement (.nput k a b) := by
  refine roundTrip_of_raw _ (0xDB#8 ++ 0x0#3 ++ k ++ a ++ b ++ 0x0#6) rfl fun _ => ?_
  simp only [raw, rawD, fields_8_3_3_6_6_6 0xDB#8 0x0#3 k a b 0x0#6]; rfl

theorem RoundTrip.nget (k : BitVec 3) (a : BitVec 6) (b : BitVec 6) : RoundTrip.Statement (.nget k a b) := by
  refine roundTrip_of_raw _ (0xDC#8 ++ 0x0#3 ++ k ++ a ++ b ++ 0x0#6) rfl fun _ => ?_
  simp only [raw, rawD, fields_8_3_3_6_6_6 0xDC#8 0x0#3 k a b 0x0#6]; rfl

theorem RoundTrip.nsig (k : BitVec 3) (a : BitVec 6) (b : BitVec 6) : RoundTrip.Statement (.nsig k a b) := by
  refine roundTrip_of_raw _ (0xDD#8 ++ 0x0#3 ++ k ++ a ++ b ++ 0x0#6) rfl fun _ => ?_
  simp only [raw, rawD, fields_8_3_3_6_6_6 0xDD#8 0x0#3 k a b 0x0#6]; rfl

theorem RoundTrip.nwait (a : BitVec 6) (b : BitVec 6) : RoundTrip.Statement (.nwait a b) := by
  refine roundTrip_of_raw _ (0xDE#8 ++ 0x0#6 ++ a ++ b ++ 0x0#6) rfl fun _ => ?_
  simp only [raw, rawD, fields_8_6_6_6_6 0xDE#8 0x0#6 a b 0x0#6]; rfl

theorem RoundTrip.nwaitRd (a : BitVec 6) (b : BitVec 6) : RoundTrip.Statement (.nwaitRd a b) := by
  refine roundTrip_of_raw _ (0xDE#8 ++ 0x1#6 ++ a ++ b ++ 0x0#6) rfl fun _ => ?_
  simp only [raw, rawD, fields_8_6_6_6_6 0xDE#8 0x1#6 a b 0x0#6]; rfl

theorem RoundTrip.mmaI8t2 (d : BitVec 7) (a : BitVec 7) (s : BitVec 6) (l : BitVec 4) : RoundTrip.Statement (.mmaI8t2 d a s l) := by
  refine roundTrip_of_raw _ (0xE0#8 ++ d ++ a ++ s ++ l) rfl fun _ => ?_
  simp only [raw, rawE, fields_8_7_7_6_4 0xE0#8 d a s l]; rfl

theorem RoundTrip.mmaE4t2 (d : BitVec 7) (a : BitVec 7) (s : BitVec 6) (l : BitVec 4) : RoundTrip.Statement (.mmaE4t2 d a s l) := by
  refine roundTrip_of_raw _ (0xE1#8 ++ d ++ a ++ s ++ l) rfl fun _ => ?_
  simp only [raw, rawE, fields_8_7_7_6_4 0xE1#8 d a s l]; rfl

theorem RoundTrip.mmaI8i4 (d : BitVec 7) (a : BitVec 7) (s : BitVec 6) (l : BitVec 4) : RoundTrip.Statement (.mmaI8i4 d a s l) := by
  refine roundTrip_of_raw _ (0xE2#8 ++ d ++ a ++ s ++ l) rfl fun _ => ?_
  simp only [raw, rawE, fields_8_7_7_6_4 0xE2#8 d a s l]; rfl

theorem RoundTrip.mmaI8i8 (d : BitVec 7) (a : BitVec 7) (s : BitVec 6) (l : BitVec 4) : RoundTrip.Statement (.mmaI8i8 d a s l) := by
  refine roundTrip_of_raw _ (0xE3#8 ++ d ++ a ++ s ++ l) rfl fun _ => ?_
  simp only [raw, rawE, fields_8_7_7_6_4 0xE3#8 d a s l]; rfl

theorem RoundTrip.mmaE4e4 (d : BitVec 7) (a : BitVec 7) (s : BitVec 6) (l : BitVec 4) : RoundTrip.Statement (.mmaE4e4 d a s l) := by
  refine roundTrip_of_raw _ (0xE4#8 ++ d ++ a ++ s ++ l) rfl fun _ => ?_
  simp only [raw, rawE, fields_8_7_7_6_4 0xE4#8 d a s l]; rfl

theorem RoundTrip.mmaE4e5 (d : BitVec 7) (a : BitVec 7) (s : BitVec 6) (l : BitVec 4) : RoundTrip.Statement (.mmaE4e5 d a s l) := by
  refine roundTrip_of_raw _ (0xE5#8 ++ d ++ a ++ s ++ l) rfl fun _ => ?_
  simp only [raw, rawE, fields_8_7_7_6_4 0xE5#8 d a s l]; rfl

theorem RoundTrip.mmaE5e4 (d : BitVec 7) (a : BitVec 7) (s : BitVec 6) (l : BitVec 4) : RoundTrip.Statement (.mmaE5e4 d a s l) := by
  refine roundTrip_of_raw _ (0xE6#8 ++ d ++ a ++ s ++ l) rfl fun _ => ?_
  simp only [raw, rawE, fields_8_7_7_6_4 0xE6#8 d a s l]; rfl

theorem RoundTrip.mmaE5e5 (d : BitVec 7) (a : BitVec 7) (s : BitVec 6) (l : BitVec 4) : RoundTrip.Statement (.mmaE5e5 d a s l) := by
  refine roundTrip_of_raw _ (0xE7#8 ++ d ++ a ++ s ++ l) rfl fun _ => ?_
  simp only [raw, rawE, fields_8_7_7_6_4 0xE7#8 d a s l]; rfl

theorem RoundTrip.mmaE2e2 (d : BitVec 7) (a : BitVec 7) (s : BitVec 6) (l : BitVec 4) : RoundTrip.Statement (.mmaE2e2 d a s l) := by
  refine roundTrip_of_raw _ (0xE8#8 ++ d ++ a ++ s ++ l) rfl fun _ => ?_
  simp only [raw, rawE, fields_8_7_7_6_4 0xE8#8 d a s l]; rfl

theorem RoundTrip.mmaBf16 (d : BitVec 7) (a : BitVec 7) (s : BitVec 6) (l : BitVec 4) : RoundTrip.Statement (.mmaBf16 d a s l) := by
  refine roundTrip_of_raw _ (0xE9#8 ++ d ++ a ++ s ++ l) rfl fun _ => ?_
  simp only [raw, rawE, fields_8_7_7_6_4 0xE9#8 d a s l]; rfl

theorem RoundTrip.mmaF16 (d : BitVec 7) (a : BitVec 7) (s : BitVec 6) (l : BitVec 4) : RoundTrip.Statement (.mmaF16 d a s l) := by
  refine roundTrip_of_raw _ (0xEA#8 ++ d ++ a ++ s ++ l) rfl fun _ => ?_
  simp only [raw, rawE, fields_8_7_7_6_4 0xEA#8 d a s l]; rfl

theorem RoundTrip.mmaBft2 (d : BitVec 7) (a : BitVec 7) (s : BitVec 6) (l : BitVec 4) : RoundTrip.Statement (.mmaBft2 d a s l) := by
  refine roundTrip_of_raw _ (0xEB#8 ++ d ++ a ++ s ++ l) rfl fun _ => ?_
  simp only [raw, rawE, fields_8_7_7_6_4 0xEB#8 d a s l]; rfl

theorem RoundTrip.msa (d : BitVec 7) (a : BitVec 7) (s : BitVec 6) (l : BitVec 4) : RoundTrip.Statement (.msa d a s l) := by
  refine roundTrip_of_raw _ (0xEC#8 ++ d ++ a ++ s ++ l) rfl fun _ => ?_
  simp only [raw, rawE, fields_8_7_7_6_4 0xEC#8 d a s l]; rfl

theorem RoundTrip.mzero (t : BitVec 4) : RoundTrip.Statement (.mzero t) := by
  refine roundTrip_of_raw _ (0xED#8 ++ 0x0#2 ++ t ++ 0x0#18) rfl fun _ => ?_
  simp only [raw, rawE, fields_8_2_4_18 0xED#8 0x0#2 t 0x0#18]; rfl

theorem RoundTrip.mmovToRegisters (d : BitVec 7) (t : BitVec 4) (l : BitVec 4) : RoundTrip.Statement (.mmovToRegisters d t l) := by
  refine roundTrip_of_raw _ (0xEE#8 ++ d ++ 0x0#3 ++ t ++ 0x0#6 ++ l) rfl fun _ => ?_
  simp only [raw, rawE, fields_8_7_3_4_6_4 0xEE#8 d 0x0#3 t 0x0#6 l]; rfl

theorem RoundTrip.mmovToTile (d : BitVec 7) (t : BitVec 4) : RoundTrip.Statement (.mmovToTile d t) := by
  refine roundTrip_of_raw _ (0xEE#8 ++ d ++ 0x4#3 ++ t ++ 0x0#10) rfl fun _ => ?_
  simp only [raw, rawE, fields_8_7_3_4_10 0xEE#8 d 0x4#3 t 0x0#10]; rfl

theorem RoundTrip.mring (t : BitVec 4) (a : BitVec 6) (b : BitVec 6) : RoundTrip.Statement (.mring t a b) := by
  refine roundTrip_of_raw _ (0xEF#8 ++ 0x0#2 ++ t ++ a ++ b ++ 0x0#6) rfl fun _ => ?_
  simp only [raw, rawE, fields_8_2_4_6_6_6 0xEF#8 0x0#2 t a b 0x0#6]; rfl

theorem RoundTrip.eSa (o : BitVec 2) (a : BitVec 6) (b : BitVec 6) : RoundTrip.Statement (.eSa o a b) := by
  refine roundTrip_of_raw _ (0xF1#8 ++ 0x0#4 ++ o ++ a ++ b ++ 0x0#6) rfl fun _ => ?_
  simp only [raw, rawF, fields_8_4_2_6_6_6 0xF1#8 0x0#4 o a b 0x0#6]; rfl

theorem RoundTrip.eBias (r : BitVec 1) (a : BitVec 6) : RoundTrip.Statement (.eBias r a) := by
  refine roundTrip_of_raw _ (0xF2#8 ++ 0x0#5 ++ r ++ a ++ 0x0#12) rfl fun _ => ?_
  simp only [raw, rawF, fields_8_5_1_6_12 0xF2#8 0x0#5 r a 0x0#12]; rfl

theorem RoundTrip.eAct (f : BitVec 3) : RoundTrip.Statement (.eAct f) := by
  refine roundTrip_of_raw _ (0xF3#8 ++ 0x0#3 ++ f ++ 0x0#18) rfl fun _ => ?_
  simp only [raw, rawF, fields_8_3_3_18 0xF3#8 0x0#3 f 0x0#18]; rfl

theorem RoundTrip.eCvt (r : BitVec 3) (t : BitVec 3) : RoundTrip.Statement (.eCvt r t) := by
  refine roundTrip_of_raw _ (0xF4#8 ++ r ++ t ++ 0x0#18) rfl fun _ => ?_
  simp only [raw, rawF, fields_8_3_3_18 0xF4#8 r t 0x0#18]; rfl

theorem RoundTrip.eBnd (n : BitVec 4) : RoundTrip.Statement (.eBnd n) := by
  refine roundTrip_of_raw _ (0xF5#8 ++ 0x0#2 ++ n ++ 0x0#18) rfl fun _ => ?_
  simp only [raw, rawF, fields_8_2_4_18 0xF5#8 0x0#2 n 0x0#18]; rfl

theorem RoundTrip.eSt (a : BitVec 6) (b : BitVec 6) (c : BitVec 6) : RoundTrip.Statement (.eSt a b c) := by
  refine roundTrip_of_raw _ (0xF6#8 ++ 0x0#6 ++ a ++ b ++ c) rfl fun _ => ?_
  simp only [raw, rawF, fields_8_6_6_6_6 0xF6#8 0x0#6 a b c]; rfl

theorem RoundTrip.eAst (a : BitVec 6) (b : BitVec 6) (c : BitVec 6) : RoundTrip.Statement (.eAst a b c) := by
  refine roundTrip_of_raw _ (0xF6#8 ++ 0x1#6 ++ a ++ b ++ c) rfl fun _ => ?_
  simp only [raw, rawF, fields_8_6_6_6_6 0xF6#8 0x1#6 a b c]; rfl

theorem RoundTrip.eArv (a : BitVec 6) (b : BitVec 6) : RoundTrip.Statement (.eArv a b) := by
  refine roundTrip_of_raw _ (0xF7#8 ++ 0x0#6 ++ a ++ b ++ 0x0#6) rfl fun _ => ?_
  simp only [raw, rawF, fields_8_6_6_6_6 0xF7#8 0x0#6 a b 0x0#6]; rfl

theorem RoundTrip.eBr (a : BitVec 6) (o : BitVec 12) : RoundTrip.Statement (.eBr a o) := by
  refine roundTrip_of_raw _ (0xF7#8 ++ 0x1#6 ++ a ++ o) rfl fun _ => ?_
  simp only [raw, rawF, fields_8_6_6_12 0xF7#8 0x1#6 a o]; rfl

theorem RoundTrip.eWait (a : BitVec 6) (b : BitVec 6) (c : BitVec 6) : RoundTrip.Statement (.eWait a b c) := by
  refine roundTrip_of_raw _ (0xF7#8 ++ 0x2#6 ++ a ++ b ++ c) rfl fun _ => ?_
  simp only [raw, rawF, fields_8_6_6_6_6 0xF7#8 0x2#6 a b c]; rfl

theorem RoundTrip.srd (a : BitVec 6) (n : BitVec 12) : RoundTrip.Statement (.srd a n) := by
  refine roundTrip_of_raw _ (0xF8#8 ++ 0x0#6 ++ a ++ n) rfl fun _ => ?_
  simp only [raw, rawF, fields_8_6_6_12 0xF8#8 0x0#6 a n]; rfl

theorem RoundTrip.swr (a : BitVec 6) (n : BitVec 12) : RoundTrip.Statement (.swr a n) := by
  refine roundTrip_of_raw _ (0xF9#8 ++ 0x0#6 ++ a ++ n) rfl fun hw => ?_
  have h0 : n.toNat ≠ 0x000 ∧ n.toNat ≠ 0x020 ∧ n.toNat ≠ 0x022 ∧ n.toNat ≠ 0x040 := by
    simpa [wellFormed, hasOwnWrite, ← BitVec.toNat_inj, and_assoc] using hw
  simp only [raw, rawF, fields_8_6_6_12 0xF9#8 0x0#6 a n]
  show (match n.toNat with | _ => _) = _
  split <;> simp_all

theorem RoundTrip.ctlModeWrite (a : BitVec 6) : RoundTrip.Statement (.ctlModeWrite a) := by
  refine roundTrip_of_raw _ (0xF9#8 ++ 0x0#6 ++ a ++ 0x0#12) rfl fun _ => ?_
  simp only [raw, rawF, fields_8_6_6_12 0xF9#8 0x0#6 a 0x0#12]; rfl

theorem RoundTrip.ctlCpyfltWrite (a : BitVec 6) : RoundTrip.Statement (.ctlCpyfltWrite a) := by
  refine roundTrip_of_raw _ (0xF9#8 ++ 0x0#6 ++ a ++ 0x20#12) rfl fun _ => ?_
  simp only [raw, rawF, fields_8_6_6_12 0xF9#8 0x0#6 a 0x20#12]; rfl

theorem RoundTrip.ctlEstWrite (a : BitVec 6) : RoundTrip.Statement (.ctlEstWrite a) := by
  refine roundTrip_of_raw _ (0xF9#8 ++ 0x0#6 ++ a ++ 0x22#12) rfl fun _ => ?_
  simp only [raw, rawF, fields_8_6_6_12 0xF9#8 0x0#6 a 0x22#12]; rfl

theorem RoundTrip.ctlTcauseWrite (a : BitVec 6) : RoundTrip.Statement (.ctlTcauseWrite a) := by
  refine roundTrip_of_raw _ (0xF9#8 ++ 0x0#6 ++ a ++ 0x40#12) rfl fun _ => ?_
  simp only [raw, rawF, fields_8_6_6_12 0xF9#8 0x0#6 a 0x40#12]; rfl

theorem RoundTrip.clk (a : BitVec 6) (c : BitVec 1) : RoundTrip.Statement (.clk a c) := by
  refine roundTrip_of_raw _ (0xFA#8 ++ 0x0#6 ++ a ++ 0x0#5 ++ c ++ 0x0#6) rfl fun _ => ?_
  simp only [raw, rawF, fields_8_6_6_5_1_6 0xFA#8 0x0#6 a 0x0#5 c 0x0#6]; rfl

theorem RoundTrip.sleep (a : BitVec 6) : RoundTrip.Statement (.sleep a) := by
  refine roundTrip_of_raw _ (0xFA#8 ++ 0x1#6 ++ a ++ 0x0#12) rfl fun _ => ?_
  simp only [raw, rawF, fields_8_6_6_12 0xFA#8 0x1#6 a 0x0#12]; rfl

theorem RoundTrip.id (s : BitVec 5) (a : BitVec 6) : RoundTrip.Statement (.id s a) := by
  refine roundTrip_of_raw _ (0xFB#8 ++ 0x0#1 ++ s ++ a ++ 0x0#12) rfl fun _ => ?_
  simp only [raw, rawF, fields_8_1_5_6_12 0xFB#8 0x0#1 s a 0x0#12]; rfl

theorem RoundTrip.dbg (a : BitVec 6) (b : BitVec 6) (c : BitVec 6) : RoundTrip.Statement (.dbg a b c) := by
  refine roundTrip_of_raw _ (0xFB#8 ++ 0x3F#6 ++ a ++ b ++ c) rfl fun _ => ?_
  simp only [raw, rawF, fields_8_6_6_6_6 0xFB#8 0x3F#6 a b c]; rfl

theorem RoundTrip.endRun (a : BitVec 8) (b : BitVec 8) (c : BitVec 8) : RoundTrip.Statement (.endRun a b c) := by
  refine roundTrip_of_raw _ (0xFF#8 ++ a ++ b ++ c) rfl fun _ => ?_
  simp only [raw, rawF, fields_8_8_8_8 0xFF#8 a b c]; rfl

theorem RoundTrip.wordNotAnInstruction (w : BitVec 32) : RoundTrip.Statement (.wordNotAnInstruction w) := fun _ h => nomatch h

theorem RoundTrip.issueSelector (q : Nat) : RoundTrip.Statement (.issueSelector q) := fun _ h => nomatch h

theorem RoundTrip.runFetch (w : Nat) (e : Nat) : RoundTrip.Statement (.runFetch w e) := fun _ h => nomatch h

theorem RoundTrip.longLatencyWriteback (w : Nat) (p : Nat) : RoundTrip.Statement (.longLatencyWriteback w p) := fun _ h => nomatch h

theorem RoundTrip.writeAcknowledged (w : Nat) (scope : Nat) : RoundTrip.Statement (.writeAcknowledged w scope) := fun _ h => nomatch h

theorem RoundTrip.matrixExecute (w : Nat) (parity : Nat) : RoundTrip.Statement (.matrixExecute w parity) := fun _ h => nomatch h

theorem RoundTrip.sleepExpiry (w : Nat) (e : Nat) : RoundTrip.Statement (.sleepExpiry w e) := fun _ h => nomatch h

theorem RoundTrip.warpRetire (w : Nat) : RoundTrip.Statement (.warpRetire w) := fun _ h => nomatch h

theorem RoundTrip.farCallArrival (n : Nat) (core : Nat) : RoundTrip.Statement (.farCallArrival n core) := fun _ h => nomatch h

theorem RoundTrip.farReplyArrival (n : Nat) : RoundTrip.Statement (.farReplyArrival n) := fun _ h => nomatch h

theorem RoundTrip.rcallTimeout (w : Nat) (slot : Nat) : RoundTrip.Statement (.rcallTimeout w slot) := fun _ h => nomatch h

theorem RoundTrip.launchRecordStart (q : Nat) : RoundTrip.Statement (.launchRecordStart q) := fun _ h => nomatch h

theorem RoundTrip.skeinRetire (k : Nat) : RoundTrip.Statement (.skeinRetire k) := fun _ h => nomatch h

theorem RoundTrip.gridRetire (l : Nat) : RoundTrip.Statement (.gridRetire l) := fun _ h => nomatch h

theorem RoundTrip.graphWaitSatisfied (g : Nat) (n : Nat) : RoundTrip.Statement (.graphWaitSatisfied g n) := fun _ h => nomatch h

theorem RoundTrip.preemptionSaveComplete (k : Nat) : RoundTrip.Statement (.preemptionSaveComplete k) := fun _ h => nomatch h

theorem RoundTrip.copyCommandComplete (c : Nat) : RoundTrip.Statement (.copyCommandComplete c) := fun _ h => nomatch h

theorem RoundTrip.nearOperationPerformed (n : Nat) : RoundTrip.Statement (.nearOperationPerformed n) := fun _ h => nomatch h

theorem RoundTrip.nearCommandComplete (c : Nat) : RoundTrip.Statement (.nearCommandComplete c) := fun _ h => nomatch h

theorem RoundTrip.mqModuleAnswer (src : MqSource) : RoundTrip.Statement (.mqModuleAnswer src) := fun _ h => nomatch h

theorem RoundTrip.mredContribution (src : MredSource) : RoundTrip.Statement (.mredContribution src) := fun _ h => nomatch h

theorem RoundTrip.mstepComplete (c : Nat) : RoundTrip.Statement (.mstepComplete c) := fun _ h => nomatch h

theorem RoundTrip.skeinPlacement (plan : Placement) : RoundTrip.Statement (.skeinPlacement plan) := fun _ h => nomatch h

theorem RoundTrip.reclassification (asid : Nat) (va : BitVec 64) (launch : Nat) : RoundTrip.Statement (.reclassification asid va launch) := fun _ h => nomatch h

theorem RoundTrip.rowTransferBlockCommit (c : Nat) : RoundTrip.Statement (.rowTransferBlockCommit c) := fun _ h => nomatch h

theorem RoundTrip.nearProgress (c : Nat) : RoundTrip.Statement (.nearProgress c) := fun _ h => nomatch h

theorem RoundTrip.replyCacheExpiry (core : Nat) (n : Nat) : RoundTrip.Statement (.replyCacheExpiry core n) := fun _ h => nomatch h

theorem RoundTrip.farTaskStopped (w : Nat) : RoundTrip.Statement (.farTaskStopped w) := fun _ h => nomatch h

theorem RoundTrip.hostDbell (v : BitVec 32) : RoundTrip.Statement (.hostDbell v) := fun _ h => nomatch h

theorem RoundTrip.preemptionRequest (k : Nat) : RoundTrip.Statement (.preemptionRequest k) := fun _ h => nomatch h

theorem RoundTrip.timeSliceExpiry (q : Nat) : RoundTrip.Statement (.timeSliceExpiry q) := fun _ h => nomatch h

theorem RoundTrip.cancelRecord (q : Nat) (slot : Nat) : RoundTrip.Statement (.cancelRecord q slot) := fun _ h => nomatch h

theorem RoundTrip.translationInvalidate (asid : Option Nat) (lo : Nat) (hi : Nat) : RoundTrip.Statement (.translationInvalidate asid lo hi) := fun _ h => nomatch h

theorem RoundTrip.atsTranslationCompletion (asid : Nat) (va : BitVec 64) (frame : Nat) (r : Bool) (w : Bool) : RoundTrip.Statement (.atsTranslationCompletion asid va frame r w) := fun _ h => nomatch h

theorem RoundTrip.priPageResponse (asid : Nat) (va : BitVec 64) (ok : Bool) (frame : Nat) (r : Bool) (w : Bool) : RoundTrip.Statement (.priPageResponse asid va ok frame r w) := fun _ h => nomatch h

theorem RoundTrip.atsInvalidateRequest (asid : Nat) (va : BitVec 64) : RoundTrip.Statement (.atsInvalidateRequest asid va) := fun _ h => nomatch h

theorem RoundTrip.faultService (asid : Nat) (va : BitVec 64) (ok : Bool) (pte : BitVec 64) : RoundTrip.Statement (.faultService asid va ok pte) := fun _ h => nomatch h

theorem RoundTrip.backInvalidation (m : Nat) (page : Nat) : RoundTrip.Statement (.backInvalidation m page) := fun _ h => nomatch h

theorem RoundTrip.moduleGrant (m : Nat) (page : Nat) (excl : Bool) : RoundTrip.Statement (.moduleGrant m page excl) := fun _ h => nomatch h

theorem RoundTrip.relayForward (acc : RelayAccess) : RoundTrip.Statement (.relayForward acc) := fun _ h => nomatch h

theorem RoundTrip.routeInstall (m : Nat) (route : Option Nat) : RoundTrip.Statement (.routeInstall m route) := fun _ h => nomatch h

theorem RoundTrip.moduleLoss (m : Nat) : RoundTrip.Statement (.moduleLoss m) := fun _ h => nomatch h

theorem RoundTrip.packageLoss (p : Nat) : RoundTrip.Statement (.packageLoss p) := fun _ h => nomatch h

theorem RoundTrip.reltexPacketReceive (p : Packet) : RoundTrip.Statement (.reltexPacketReceive p) := fun _ h => nomatch h

theorem RoundTrip.reltexAckReceive (a : ReltexAck) : RoundTrip.Statement (.reltexAckReceive a) := fun _ h => nomatch h

theorem RoundTrip.retransmitTimeout (conn : Nat) : RoundTrip.Statement (.retransmitTimeout conn) := fun _ h => nomatch h

theorem RoundTrip.scrub (stack : Nat) : RoundTrip.Statement (.scrub stack) := fun _ h => nomatch h

theorem RoundTrip.snapshotPageCopy (l : Nat) (page : Nat) : RoundTrip.Statement (.snapshotPageCopy l page) := fun _ h => nomatch h

theorem RoundTrip.snapshotPoolDecision (l : Nat) (grow : Option Nat) : RoundTrip.Statement (.snapshotPoolDecision l grow) := fun _ h => nomatch h

theorem RoundTrip.rollback (l : Nat) : RoundTrip.Statement (.rollback l) := fun _ h => nomatch h

theorem RoundTrip.unitFencing (u : FencedUnit) : RoundTrip.Statement (.unitFencing u) := fun _ h => nomatch h

theorem RoundTrip.powerUpStepReady (img : ImageCheck) : RoundTrip.Statement (.powerUpStepReady img) := fun _ h => nomatch h

theorem RoundTrip.coreGroupStart (g : Nat) : RoundTrip.Statement (.coreGroupStart g) := fun _ h => nomatch h

theorem RoundTrip.spdmRequest (m : Nat) : RoundTrip.Statement (.spdmRequest m) := fun _ h => nomatch h

theorem RoundTrip.hostEvent (v : BitVec 32) : RoundTrip.Statement (.hostEvent v) := fun _ h => nomatch h

theorem RoundTrip.asidBinding (asid : Nat) (c : AddressContext) : RoundTrip.Statement (.asidBinding asid c) := fun _ h => nomatch h

theorem RoundTrip.asidFreeing (asid : Nat) : RoundTrip.Statement (.asidFreeing asid) := fun _ h => nomatch h

theorem RoundTrip.connectionBinding (c : Nat) (b : ConnBinding) : RoundTrip.Statement (.connectionBinding c b) := fun _ h => nomatch h

theorem RoundTrip.launchQueueBinding (q : Nat) (b : QueueBinding) : RoundTrip.Statement (.launchQueueBinding q b) := fun _ h => nomatch h

theorem RoundTrip.modulePortBringUp (port : Nat) (m : Nat) (ext : Bool) : RoundTrip.Statement (.modulePortBringUp port m ext) := fun _ h => nomatch h

theorem RoundTrip.nop : RoundTrip.Statement .nop := by
  refine roundTrip_of_raw _ (0x00#8 ++ 0x0#24) rfl fun _ => ?_
  simp only [raw, raw0, fields_8_24 0x00#8 0x0#24]; rfl

theorem RoundTrip.yield : RoundTrip.Statement .yield := by
  refine roundTrip_of_raw _ (0x8A#8 ++ 0x0#24) rfl fun _ => ?_
  simp only [raw, raw8, fields_8_24 0x8A#8 0x0#24]; rfl

theorem RoundTrip.exit : RoundTrip.Statement .exit := by
  refine roundTrip_of_raw _ (0x8B#8 ++ 0x0#24) rfl fun _ => ?_
  simp only [raw, raw8, fields_8_24 0x8B#8 0x0#24]; rfl

theorem RoundTrip.tret : RoundTrip.Statement .tret := by
  refine roundTrip_of_raw _ (0x8D#8 ++ 0x0#24) rfl fun _ => ?_
  simp only [raw, raw8, fields_8_24 0x8D#8 0x0#24]; rfl

theorem RoundTrip.kbar : RoundTrip.Statement .kbar := by
  refine roundTrip_of_raw _ (0x93#8 ++ 0x0#24) rfl fun _ => ?_
  simp only [raw, raw9, fields_8_24 0x93#8 0x0#24]; rfl

theorem RoundTrip.gbar : RoundTrip.Statement .gbar := by
  refine roundTrip_of_raw _ (0x94#8 ++ 0x0#24) rfl fun _ => ?_
  simp only [raw, raw9, fields_8_24 0x94#8 0x0#24]; rfl

theorem RoundTrip.racq : RoundTrip.Statement .racq := by
  refine roundTrip_of_raw _ (0x9B#8 ++ 0x0#24) rfl fun _ => ?_
  simp only [raw, raw9, fields_8_24 0x9B#8 0x0#24]; rfl

theorem RoundTrip.xwait : RoundTrip.Statement .xwait := by
  refine roundTrip_of_raw _ (0xD6#8 ++ 0x0#24) rfl fun _ => ?_
  simp only [raw, rawD, fields_8_24 0xD6#8 0x0#24]; rfl

theorem RoundTrip.mzeroP : RoundTrip.Statement .mzeroP := by
  refine roundTrip_of_raw _ (0xED#8 ++ 0x400000#24) rfl fun _ => ?_
  simp only [raw, rawE, fields_8_24 0xED#8 0x400000#24]; rfl

theorem RoundTrip.ePop : RoundTrip.Statement .ePop := by
  refine roundTrip_of_raw _ (0xF0#8 ++ 0x0#24) rfl fun _ => ?_
  simp only [raw, rawF, fields_8_24 0xF0#8 0x0#24]; rfl

theorem RoundTrip.eEnd : RoundTrip.Statement .eEnd := by
  refine roundTrip_of_raw _ (0xF7#8 ++ 0xC0000#24) rfl fun _ => ?_
  simp only [raw, rawF, fields_8_24 0xF7#8 0xC0000#24]; rfl

theorem RoundTrip.currentLimit : RoundTrip.Statement .currentLimit := fun _ h => nomatch h

theorem RoundTrip.temperatureLimit : RoundTrip.Statement .temperatureLimit := fun _ h => nomatch h

theorem RoundTrip.fatalLimit : RoundTrip.Statement .fatalLimit := fun _ h => nomatch h

theorem RoundTrip.powerGood : RoundTrip.Statement .powerGood := fun _ h => nomatch h

theorem RoundTrip.conventionalReset : RoundTrip.Statement .conventionalReset := fun _ h => nomatch h

theorem RoundTrip.functionLevelReset : RoundTrip.Statement .functionLevelReset := fun _ h => nomatch h

theorem RoundTrip.boardPowerRemoved : RoundTrip.Statement .boardPowerRemoved := fun _ h => nomatch h

end Sys2Proof.Laws
end

