-- ==== Sys2Proof/Laws/State.lean ====
section
/-! SUPPORT. What each named update of the state does to each field, so that no later proof unfolds a record update. -/

namespace Sys2Proof.Machine

@[simp] theorem unfocus_clock (s : State) : (unfocus s).clock = s.clock := rfl
@[simp] theorem unfocus_timer (s : State) : (unfocus s).timer = s.timer := rfl
@[simp] theorem unfocus_sevenths (s : State) : (unfocus s).sevenths = s.sevenths := rfl
@[simp] theorem unfocus_ticks (s : State) : (unfocus s).ticks = s.ticks := rfl
@[simp] theorem unfocus_focus (s : State) : (unfocus s).focus = .none := rfl
@[simp] theorem unfocus_agenda (s : State) : (unfocus s).agenda = s.agenda := rfl
@[simp] theorem unfocus_turn (s : State) : (unfocus s).turn = s.turn := rfl
@[simp] theorem unfocus_fresh (s : State) : (unfocus s).fresh = s.fresh := rfl
@[simp] theorem unfocus_identity (s : State) : (unfocus s).identity = s.identity := rfl
@[simp] theorem unfocus_admissions (s : State) : (unfocus s).admissions = s.admissions := rfl
@[simp] theorem unfocus_warps (s : State) : (unfocus s).warps = s.warps := rfl
@[simp] theorem unfocus_wgs (s : State) : (unfocus s).wgs = s.wgs := rfl
@[simp] theorem unfocus_skeins (s : State) : (unfocus s).skeins = s.skeins := rfl
@[simp] theorem unfocus_launches (s : State) : (unfocus s).launches = s.launches := rfl
@[simp] theorem unfocus_graphs (s : State) : (unfocus s).graphs = s.graphs := rfl
@[simp] theorem unfocus_queues (s : State) : (unfocus s).queues = s.queues := rfl
@[simp] theorem unfocus_turns (s : State) : (unfocus s).turns = s.turns := rfl
@[simp] theorem unfocus_slices (s : State) : (unfocus s).slices = s.slices := rfl
@[simp] theorem unfocus_shares (s : State) : (unfocus s).shares = s.shares := rfl
@[simp] theorem unfocus_mem (s : State) : (unfocus s).mem = s.mem := rfl
@[simp] theorem unfocus_memPoison (s : State) : (unfocus s).memPoison = s.memPoison := rfl
@[simp] theorem unfocus_host (s : State) : (unfocus s).host = s.host := rfl
@[simp] theorem unfocus_cmds (s : State) : (unfocus s).cmds = s.cmds := rfl
@[simp] theorem unfocus_nearOps (s : State) : (unfocus s).nearOps = s.nearOps := rfl
@[simp] theorem unfocus_callMsgs (s : State) : (unfocus s).callMsgs = s.callMsgs := rfl
@[simp] theorem unfocus_replyMsgs (s : State) : (unfocus s).replyMsgs = s.replyMsgs := rfl
@[simp] theorem unfocus_targets (s : State) : (unfocus s).targets = s.targets := rfl
@[simp] theorem unfocus_xlate (s : State) : (unfocus s).xlate = s.xlate := rfl
@[simp] theorem unfocus_net (s : State) : (unfocus s).net = s.net := rfl
@[simp] theorem unfocus_plat (s : State) : (unfocus s).plat = s.plat := rfl
@[simp] theorem unfocus_debugger (s : State) : (unfocus s).debugger = s.debugger := rfl

@[simp] theorem Cx.commit_clock (c : Cx) : c.commit.clock = c.s.clock := rfl
@[simp] theorem Cx.commit_timer (c : Cx) : c.commit.timer = c.s.timer := rfl
@[simp] theorem Cx.commit_sevenths (c : Cx) : c.commit.sevenths = c.s.sevenths := rfl
@[simp] theorem Cx.commit_ticks (c : Cx) : c.commit.ticks = c.s.ticks := rfl
@[simp] theorem Cx.commit_focus (c : Cx) : c.commit.focus = c.s.focus := rfl
@[simp] theorem Cx.commit_agenda (c : Cx) : c.commit.agenda = c.s.agenda := rfl
@[simp] theorem Cx.commit_turn (c : Cx) : c.commit.turn = c.s.turn := rfl
@[simp] theorem Cx.commit_fresh (c : Cx) : c.commit.fresh = c.s.fresh := rfl
@[simp] theorem Cx.commit_identity (c : Cx) : c.commit.identity = c.s.identity := rfl
@[simp] theorem Cx.commit_admissions (c : Cx) : c.commit.admissions = c.s.admissions := rfl
@[simp] theorem Cx.commit_warps (c : Cx) : c.commit.warps = Tab.put c.s.warps c.wk { c.w with splits := Tab.put c.w.splits c.e c.sp } := rfl
@[simp] theorem Cx.commit_wgs (c : Cx) : c.commit.wgs = c.s.wgs := rfl
@[simp] theorem Cx.commit_skeins (c : Cx) : c.commit.skeins = c.s.skeins := rfl
@[simp] theorem Cx.commit_launches (c : Cx) : c.commit.launches = c.s.launches := rfl
@[simp] theorem Cx.commit_graphs (c : Cx) : c.commit.graphs = c.s.graphs := rfl
@[simp] theorem Cx.commit_queues (c : Cx) : c.commit.queues = c.s.queues := rfl
@[simp] theorem Cx.commit_turns (c : Cx) : c.commit.turns = c.s.turns := rfl
@[simp] theorem Cx.commit_slices (c : Cx) : c.commit.slices = c.s.slices := rfl
@[simp] theorem Cx.commit_shares (c : Cx) : c.commit.shares = c.s.shares := rfl
@[simp] theorem Cx.commit_mem (c : Cx) : c.commit.mem = c.s.mem := rfl
@[simp] theorem Cx.commit_memPoison (c : Cx) : c.commit.memPoison = c.s.memPoison := rfl
@[simp] theorem Cx.commit_host (c : Cx) : c.commit.host = c.s.host := rfl
@[simp] theorem Cx.commit_cmds (c : Cx) : c.commit.cmds = c.s.cmds := rfl
@[simp] theorem Cx.commit_nearOps (c : Cx) : c.commit.nearOps = c.s.nearOps := rfl
@[simp] theorem Cx.commit_callMsgs (c : Cx) : c.commit.callMsgs = c.s.callMsgs := rfl
@[simp] theorem Cx.commit_replyMsgs (c : Cx) : c.commit.replyMsgs = c.s.replyMsgs := rfl
@[simp] theorem Cx.commit_targets (c : Cx) : c.commit.targets = c.s.targets := rfl
@[simp] theorem Cx.commit_xlate (c : Cx) : c.commit.xlate = c.s.xlate := rfl
@[simp] theorem Cx.commit_net (c : Cx) : c.commit.net = c.s.net := rfl
@[simp] theorem Cx.commit_plat (c : Cx) : c.commit.plat = c.s.plat := rfl
@[simp] theorem Cx.commit_debugger (c : Cx) : c.commit.debugger = c.s.debugger := rfl

@[simp] theorem Cx.commitFree_clock (c : Cx) : c.commitFree.clock = c.s.clock := rfl
@[simp] theorem Cx.commitFree_timer (c : Cx) : c.commitFree.timer = c.s.timer := rfl
@[simp] theorem Cx.commitFree_sevenths (c : Cx) : c.commitFree.sevenths = c.s.sevenths := rfl
@[simp] theorem Cx.commitFree_ticks (c : Cx) : c.commitFree.ticks = c.s.ticks := rfl
@[simp] theorem Cx.commitFree_focus (c : Cx) : c.commitFree.focus = c.s.focus := rfl
@[simp] theorem Cx.commitFree_agenda (c : Cx) : c.commitFree.agenda = c.s.agenda := rfl
@[simp] theorem Cx.commitFree_turn (c : Cx) : c.commitFree.turn = c.s.turn := rfl
@[simp] theorem Cx.commitFree_fresh (c : Cx) : c.commitFree.fresh = c.s.fresh := rfl
@[simp] theorem Cx.commitFree_identity (c : Cx) : c.commitFree.identity = c.s.identity := rfl
@[simp] theorem Cx.commitFree_admissions (c : Cx) : c.commitFree.admissions = c.s.admissions := rfl
@[simp] theorem Cx.commitFree_warps (c : Cx) : c.commitFree.warps = Tab.put c.s.warps c.wk { c.w with splits := Tab.del c.w.splits c.e } := rfl
@[simp] theorem Cx.commitFree_wgs (c : Cx) : c.commitFree.wgs = c.s.wgs := rfl
@[simp] theorem Cx.commitFree_skeins (c : Cx) : c.commitFree.skeins = c.s.skeins := rfl
@[simp] theorem Cx.commitFree_launches (c : Cx) : c.commitFree.launches = c.s.launches := rfl
@[simp] theorem Cx.commitFree_graphs (c : Cx) : c.commitFree.graphs = c.s.graphs := rfl
@[simp] theorem Cx.commitFree_queues (c : Cx) : c.commitFree.queues = c.s.queues := rfl
@[simp] theorem Cx.commitFree_turns (c : Cx) : c.commitFree.turns = c.s.turns := rfl
@[simp] theorem Cx.commitFree_slices (c : Cx) : c.commitFree.slices = c.s.slices := rfl
@[simp] theorem Cx.commitFree_shares (c : Cx) : c.commitFree.shares = c.s.shares := rfl
@[simp] theorem Cx.commitFree_mem (c : Cx) : c.commitFree.mem = c.s.mem := rfl
@[simp] theorem Cx.commitFree_memPoison (c : Cx) : c.commitFree.memPoison = c.s.memPoison := rfl
@[simp] theorem Cx.commitFree_host (c : Cx) : c.commitFree.host = c.s.host := rfl
@[simp] theorem Cx.commitFree_cmds (c : Cx) : c.commitFree.cmds = c.s.cmds := rfl
@[simp] theorem Cx.commitFree_nearOps (c : Cx) : c.commitFree.nearOps = c.s.nearOps := rfl
@[simp] theorem Cx.commitFree_callMsgs (c : Cx) : c.commitFree.callMsgs = c.s.callMsgs := rfl
@[simp] theorem Cx.commitFree_replyMsgs (c : Cx) : c.commitFree.replyMsgs = c.s.replyMsgs := rfl
@[simp] theorem Cx.commitFree_targets (c : Cx) : c.commitFree.targets = c.s.targets := rfl
@[simp] theorem Cx.commitFree_xlate (c : Cx) : c.commitFree.xlate = c.s.xlate := rfl
@[simp] theorem Cx.commitFree_net (c : Cx) : c.commitFree.net = c.s.net := rfl
@[simp] theorem Cx.commitFree_plat (c : Cx) : c.commitFree.plat = c.s.plat := rfl
@[simp] theorem Cx.commitFree_debugger (c : Cx) : c.commitFree.debugger = c.s.debugger := rfl

@[simp] theorem Ex.commit_clock (x : Ex) : x.commit.clock = x.s.clock := rfl
@[simp] theorem Ex.commit_timer (x : Ex) : x.commit.timer = x.s.timer := rfl
@[simp] theorem Ex.commit_sevenths (x : Ex) : x.commit.sevenths = x.s.sevenths := rfl
@[simp] theorem Ex.commit_ticks (x : Ex) : x.commit.ticks = x.s.ticks := rfl
@[simp] theorem Ex.commit_focus (x : Ex) : x.commit.focus = .none := rfl
@[simp] theorem Ex.commit_agenda (x : Ex) : x.commit.agenda = x.s.agenda := rfl
@[simp] theorem Ex.commit_turn (x : Ex) : x.commit.turn = x.s.turn := rfl
@[simp] theorem Ex.commit_fresh (x : Ex) : x.commit.fresh = x.s.fresh := rfl
@[simp] theorem Ex.commit_identity (x : Ex) : x.commit.identity = x.s.identity := rfl
@[simp] theorem Ex.commit_admissions (x : Ex) : x.commit.admissions = x.s.admissions := rfl
@[simp] theorem Ex.commit_warps (x : Ex) : x.commit.warps = x.s.warps := rfl
@[simp] theorem Ex.commit_wgs (x : Ex) : x.commit.wgs = Tab.put x.s.wgs x.g { x.wg with engine := some x.en } := rfl
@[simp] theorem Ex.commit_skeins (x : Ex) : x.commit.skeins = x.s.skeins := rfl
@[simp] theorem Ex.commit_launches (x : Ex) : x.commit.launches = x.s.launches := rfl
@[simp] theorem Ex.commit_graphs (x : Ex) : x.commit.graphs = x.s.graphs := rfl
@[simp] theorem Ex.commit_queues (x : Ex) : x.commit.queues = x.s.queues := rfl
@[simp] theorem Ex.commit_turns (x : Ex) : x.commit.turns = x.s.turns := rfl
@[simp] theorem Ex.commit_slices (x : Ex) : x.commit.slices = x.s.slices := rfl
@[simp] theorem Ex.commit_shares (x : Ex) : x.commit.shares = x.s.shares := rfl
@[simp] theorem Ex.commit_mem (x : Ex) : x.commit.mem = x.s.mem := rfl
@[simp] theorem Ex.commit_memPoison (x : Ex) : x.commit.memPoison = x.s.memPoison := rfl
@[simp] theorem Ex.commit_host (x : Ex) : x.commit.host = x.s.host := rfl
@[simp] theorem Ex.commit_cmds (x : Ex) : x.commit.cmds = x.s.cmds := rfl
@[simp] theorem Ex.commit_nearOps (x : Ex) : x.commit.nearOps = x.s.nearOps := rfl
@[simp] theorem Ex.commit_callMsgs (x : Ex) : x.commit.callMsgs = x.s.callMsgs := rfl
@[simp] theorem Ex.commit_replyMsgs (x : Ex) : x.commit.replyMsgs = x.s.replyMsgs := rfl
@[simp] theorem Ex.commit_targets (x : Ex) : x.commit.targets = x.s.targets := rfl
@[simp] theorem Ex.commit_xlate (x : Ex) : x.commit.xlate = x.s.xlate := rfl
@[simp] theorem Ex.commit_net (x : Ex) : x.commit.net = x.s.net := rfl
@[simp] theorem Ex.commit_plat (x : Ex) : x.commit.plat = x.s.plat := rfl
@[simp] theorem Ex.commit_debugger (x : Ex) : x.commit.debugger = x.s.debugger := rfl

@[simp] theorem State.updWarp_clock (s : State) (k : Nat) (f : Warp → Warp) : (State.updWarp s k f).clock = s.clock := rfl
@[simp] theorem State.updWarp_timer (s : State) (k : Nat) (f : Warp → Warp) : (State.updWarp s k f).timer = s.timer := rfl
@[simp] theorem State.updWarp_sevenths (s : State) (k : Nat) (f : Warp → Warp) : (State.updWarp s k f).sevenths = s.sevenths := rfl
@[simp] theorem State.updWarp_ticks (s : State) (k : Nat) (f : Warp → Warp) : (State.updWarp s k f).ticks = s.ticks := rfl
@[simp] theorem State.updWarp_focus (s : State) (k : Nat) (f : Warp → Warp) : (State.updWarp s k f).focus = s.focus := rfl
@[simp] theorem State.updWarp_agenda (s : State) (k : Nat) (f : Warp → Warp) : (State.updWarp s k f).agenda = s.agenda := rfl
@[simp] theorem State.updWarp_turn (s : State) (k : Nat) (f : Warp → Warp) : (State.updWarp s k f).turn = s.turn := rfl
@[simp] theorem State.updWarp_fresh (s : State) (k : Nat) (f : Warp → Warp) : (State.updWarp s k f).fresh = s.fresh := rfl
@[simp] theorem State.updWarp_identity (s : State) (k : Nat) (f : Warp → Warp) : (State.updWarp s k f).identity = s.identity := rfl
@[simp] theorem State.updWarp_admissions (s : State) (k : Nat) (f : Warp → Warp) : (State.updWarp s k f).admissions = s.admissions := rfl
@[simp] theorem State.updWarp_warps (s : State) (k : Nat) (f : Warp → Warp) : (State.updWarp s k f).warps = Tab.upd s.warps k f := rfl
@[simp] theorem State.updWarp_wgs (s : State) (k : Nat) (f : Warp → Warp) : (State.updWarp s k f).wgs = s.wgs := rfl
@[simp] theorem State.updWarp_skeins (s : State) (k : Nat) (f : Warp → Warp) : (State.updWarp s k f).skeins = s.skeins := rfl
@[simp] theorem State.updWarp_launches (s : State) (k : Nat) (f : Warp → Warp) : (State.updWarp s k f).launches = s.launches := rfl
@[simp] theorem State.updWarp_graphs (s : State) (k : Nat) (f : Warp → Warp) : (State.updWarp s k f).graphs = s.graphs := rfl
@[simp] theorem State.updWarp_queues (s : State) (k : Nat) (f : Warp → Warp) : (State.updWarp s k f).queues = s.queues := rfl
@[simp] theorem State.updWarp_turns (s : State) (k : Nat) (f : Warp → Warp) : (State.updWarp s k f).turns = s.turns := rfl
@[simp] theorem State.updWarp_slices (s : State) (k : Nat) (f : Warp → Warp) : (State.updWarp s k f).slices = s.slices := rfl
@[simp] theorem State.updWarp_shares (s : State) (k : Nat) (f : Warp → Warp) : (State.updWarp s k f).shares = s.shares := rfl
@[simp] theorem State.updWarp_mem (s : State) (k : Nat) (f : Warp → Warp) : (State.updWarp s k f).mem = s.mem := rfl
@[simp] theorem State.updWarp_memPoison (s : State) (k : Nat) (f : Warp → Warp) : (State.updWarp s k f).memPoison = s.memPoison := rfl
@[simp] theorem State.updWarp_host (s : State) (k : Nat) (f : Warp → Warp) : (State.updWarp s k f).host = s.host := rfl
@[simp] theorem State.updWarp_cmds (s : State) (k : Nat) (f : Warp → Warp) : (State.updWarp s k f).cmds = s.cmds := rfl
@[simp] theorem State.updWarp_nearOps (s : State) (k : Nat) (f : Warp → Warp) : (State.updWarp s k f).nearOps = s.nearOps := rfl
@[simp] theorem State.updWarp_callMsgs (s : State) (k : Nat) (f : Warp → Warp) : (State.updWarp s k f).callMsgs = s.callMsgs := rfl
@[simp] theorem State.updWarp_replyMsgs (s : State) (k : Nat) (f : Warp → Warp) : (State.updWarp s k f).replyMsgs = s.replyMsgs := rfl
@[simp] theorem State.updWarp_targets (s : State) (k : Nat) (f : Warp → Warp) : (State.updWarp s k f).targets = s.targets := rfl
@[simp] theorem State.updWarp_xlate (s : State) (k : Nat) (f : Warp → Warp) : (State.updWarp s k f).xlate = s.xlate := rfl
@[simp] theorem State.updWarp_net (s : State) (k : Nat) (f : Warp → Warp) : (State.updWarp s k f).net = s.net := rfl
@[simp] theorem State.updWarp_plat (s : State) (k : Nat) (f : Warp → Warp) : (State.updWarp s k f).plat = s.plat := rfl
@[simp] theorem State.updWarp_debugger (s : State) (k : Nat) (f : Warp → Warp) : (State.updWarp s k f).debugger = s.debugger := rfl

@[simp] theorem updCmd_clock (s : State) (k : Nat) (f : Cmd → Cmd) : (updCmd s k f).clock = s.clock := rfl
@[simp] theorem updCmd_timer (s : State) (k : Nat) (f : Cmd → Cmd) : (updCmd s k f).timer = s.timer := rfl
@[simp] theorem updCmd_sevenths (s : State) (k : Nat) (f : Cmd → Cmd) : (updCmd s k f).sevenths = s.sevenths := rfl
@[simp] theorem updCmd_ticks (s : State) (k : Nat) (f : Cmd → Cmd) : (updCmd s k f).ticks = s.ticks := rfl
@[simp] theorem updCmd_focus (s : State) (k : Nat) (f : Cmd → Cmd) : (updCmd s k f).focus = s.focus := rfl
@[simp] theorem updCmd_agenda (s : State) (k : Nat) (f : Cmd → Cmd) : (updCmd s k f).agenda = s.agenda := rfl
@[simp] theorem updCmd_turn (s : State) (k : Nat) (f : Cmd → Cmd) : (updCmd s k f).turn = s.turn := rfl
@[simp] theorem updCmd_fresh (s : State) (k : Nat) (f : Cmd → Cmd) : (updCmd s k f).fresh = s.fresh := rfl
@[simp] theorem updCmd_identity (s : State) (k : Nat) (f : Cmd → Cmd) : (updCmd s k f).identity = s.identity := rfl
@[simp] theorem updCmd_admissions (s : State) (k : Nat) (f : Cmd → Cmd) : (updCmd s k f).admissions = s.admissions := rfl
@[simp] theorem updCmd_warps (s : State) (k : Nat) (f : Cmd → Cmd) : (updCmd s k f).warps = s.warps := rfl
@[simp] theorem updCmd_wgs (s : State) (k : Nat) (f : Cmd → Cmd) : (updCmd s k f).wgs = s.wgs := rfl
@[simp] theorem updCmd_skeins (s : State) (k : Nat) (f : Cmd → Cmd) : (updCmd s k f).skeins = s.skeins := rfl
@[simp] theorem updCmd_launches (s : State) (k : Nat) (f : Cmd → Cmd) : (updCmd s k f).launches = s.launches := rfl
@[simp] theorem updCmd_graphs (s : State) (k : Nat) (f : Cmd → Cmd) : (updCmd s k f).graphs = s.graphs := rfl
@[simp] theorem updCmd_queues (s : State) (k : Nat) (f : Cmd → Cmd) : (updCmd s k f).queues = s.queues := rfl
@[simp] theorem updCmd_turns (s : State) (k : Nat) (f : Cmd → Cmd) : (updCmd s k f).turns = s.turns := rfl
@[simp] theorem updCmd_slices (s : State) (k : Nat) (f : Cmd → Cmd) : (updCmd s k f).slices = s.slices := rfl
@[simp] theorem updCmd_shares (s : State) (k : Nat) (f : Cmd → Cmd) : (updCmd s k f).shares = s.shares := rfl
@[simp] theorem updCmd_mem (s : State) (k : Nat) (f : Cmd → Cmd) : (updCmd s k f).mem = s.mem := rfl
@[simp] theorem updCmd_memPoison (s : State) (k : Nat) (f : Cmd → Cmd) : (updCmd s k f).memPoison = s.memPoison := rfl
@[simp] theorem updCmd_host (s : State) (k : Nat) (f : Cmd → Cmd) : (updCmd s k f).host = s.host := rfl
@[simp] theorem updCmd_cmds (s : State) (k : Nat) (f : Cmd → Cmd) : (updCmd s k f).cmds = Tab.upd s.cmds k f := rfl
@[simp] theorem updCmd_nearOps (s : State) (k : Nat) (f : Cmd → Cmd) : (updCmd s k f).nearOps = s.nearOps := rfl
@[simp] theorem updCmd_callMsgs (s : State) (k : Nat) (f : Cmd → Cmd) : (updCmd s k f).callMsgs = s.callMsgs := rfl
@[simp] theorem updCmd_replyMsgs (s : State) (k : Nat) (f : Cmd → Cmd) : (updCmd s k f).replyMsgs = s.replyMsgs := rfl
@[simp] theorem updCmd_targets (s : State) (k : Nat) (f : Cmd → Cmd) : (updCmd s k f).targets = s.targets := rfl
@[simp] theorem updCmd_xlate (s : State) (k : Nat) (f : Cmd → Cmd) : (updCmd s k f).xlate = s.xlate := rfl
@[simp] theorem updCmd_net (s : State) (k : Nat) (f : Cmd → Cmd) : (updCmd s k f).net = s.net := rfl
@[simp] theorem updCmd_plat (s : State) (k : Nat) (f : Cmd → Cmd) : (updCmd s k f).plat = s.plat := rfl
@[simp] theorem updCmd_debugger (s : State) (k : Nat) (f : Cmd → Cmd) : (updCmd s k f).debugger = s.debugger := rfl

@[simp] theorem updGraph_clock (s : State) (k : Nat) (f : Graph → Graph) : (updGraph s k f).clock = s.clock := rfl
@[simp] theorem updGraph_timer (s : State) (k : Nat) (f : Graph → Graph) : (updGraph s k f).timer = s.timer := rfl
@[simp] theorem updGraph_sevenths (s : State) (k : Nat) (f : Graph → Graph) : (updGraph s k f).sevenths = s.sevenths := rfl
@[simp] theorem updGraph_ticks (s : State) (k : Nat) (f : Graph → Graph) : (updGraph s k f).ticks = s.ticks := rfl
@[simp] theorem updGraph_focus (s : State) (k : Nat) (f : Graph → Graph) : (updGraph s k f).focus = s.focus := rfl
@[simp] theorem updGraph_agenda (s : State) (k : Nat) (f : Graph → Graph) : (updGraph s k f).agenda = s.agenda := rfl
@[simp] theorem updGraph_turn (s : State) (k : Nat) (f : Graph → Graph) : (updGraph s k f).turn = s.turn := rfl
@[simp] theorem updGraph_fresh (s : State) (k : Nat) (f : Graph → Graph) : (updGraph s k f).fresh = s.fresh := rfl
@[simp] theorem updGraph_identity (s : State) (k : Nat) (f : Graph → Graph) : (updGraph s k f).identity = s.identity := rfl
@[simp] theorem updGraph_admissions (s : State) (k : Nat) (f : Graph → Graph) : (updGraph s k f).admissions = s.admissions := rfl
@[simp] theorem updGraph_warps (s : State) (k : Nat) (f : Graph → Graph) : (updGraph s k f).warps = s.warps := rfl
@[simp] theorem updGraph_wgs (s : State) (k : Nat) (f : Graph → Graph) : (updGraph s k f).wgs = s.wgs := rfl
@[simp] theorem updGraph_skeins (s : State) (k : Nat) (f : Graph → Graph) : (updGraph s k f).skeins = s.skeins := rfl
@[simp] theorem updGraph_launches (s : State) (k : Nat) (f : Graph → Graph) : (updGraph s k f).launches = s.launches := rfl
@[simp] theorem updGraph_graphs (s : State) (k : Nat) (f : Graph → Graph) : (updGraph s k f).graphs = Tab.upd s.graphs k f := rfl
@[simp] theorem updGraph_queues (s : State) (k : Nat) (f : Graph → Graph) : (updGraph s k f).queues = s.queues := rfl
@[simp] theorem updGraph_turns (s : State) (k : Nat) (f : Graph → Graph) : (updGraph s k f).turns = s.turns := rfl
@[simp] theorem updGraph_slices (s : State) (k : Nat) (f : Graph → Graph) : (updGraph s k f).slices = s.slices := rfl
@[simp] theorem updGraph_shares (s : State) (k : Nat) (f : Graph → Graph) : (updGraph s k f).shares = s.shares := rfl
@[simp] theorem updGraph_mem (s : State) (k : Nat) (f : Graph → Graph) : (updGraph s k f).mem = s.mem := rfl
@[simp] theorem updGraph_memPoison (s : State) (k : Nat) (f : Graph → Graph) : (updGraph s k f).memPoison = s.memPoison := rfl
@[simp] theorem updGraph_host (s : State) (k : Nat) (f : Graph → Graph) : (updGraph s k f).host = s.host := rfl
@[simp] theorem updGraph_cmds (s : State) (k : Nat) (f : Graph → Graph) : (updGraph s k f).cmds = s.cmds := rfl
@[simp] theorem updGraph_nearOps (s : State) (k : Nat) (f : Graph → Graph) : (updGraph s k f).nearOps = s.nearOps := rfl
@[simp] theorem updGraph_callMsgs (s : State) (k : Nat) (f : Graph → Graph) : (updGraph s k f).callMsgs = s.callMsgs := rfl
@[simp] theorem updGraph_replyMsgs (s : State) (k : Nat) (f : Graph → Graph) : (updGraph s k f).replyMsgs = s.replyMsgs := rfl
@[simp] theorem updGraph_targets (s : State) (k : Nat) (f : Graph → Graph) : (updGraph s k f).targets = s.targets := rfl
@[simp] theorem updGraph_xlate (s : State) (k : Nat) (f : Graph → Graph) : (updGraph s k f).xlate = s.xlate := rfl
@[simp] theorem updGraph_net (s : State) (k : Nat) (f : Graph → Graph) : (updGraph s k f).net = s.net := rfl
@[simp] theorem updGraph_plat (s : State) (k : Nat) (f : Graph → Graph) : (updGraph s k f).plat = s.plat := rfl
@[simp] theorem updGraph_debugger (s : State) (k : Nat) (f : Graph → Graph) : (updGraph s k f).debugger = s.debugger := rfl

@[simp] theorem updQueue_clock (s : State) (k : Nat) (f : Queue → Queue) : (updQueue s k f).clock = s.clock := rfl
@[simp] theorem updQueue_timer (s : State) (k : Nat) (f : Queue → Queue) : (updQueue s k f).timer = s.timer := rfl
@[simp] theorem updQueue_sevenths (s : State) (k : Nat) (f : Queue → Queue) : (updQueue s k f).sevenths = s.sevenths := rfl
@[simp] theorem updQueue_ticks (s : State) (k : Nat) (f : Queue → Queue) : (updQueue s k f).ticks = s.ticks := rfl
@[simp] theorem updQueue_focus (s : State) (k : Nat) (f : Queue → Queue) : (updQueue s k f).focus = s.focus := rfl
@[simp] theorem updQueue_agenda (s : State) (k : Nat) (f : Queue → Queue) : (updQueue s k f).agenda = s.agenda := rfl
@[simp] theorem updQueue_turn (s : State) (k : Nat) (f : Queue → Queue) : (updQueue s k f).turn = s.turn := rfl
@[simp] theorem updQueue_fresh (s : State) (k : Nat) (f : Queue → Queue) : (updQueue s k f).fresh = s.fresh := rfl
@[simp] theorem updQueue_identity (s : State) (k : Nat) (f : Queue → Queue) : (updQueue s k f).identity = s.identity := rfl
@[simp] theorem updQueue_admissions (s : State) (k : Nat) (f : Queue → Queue) : (updQueue s k f).admissions = s.admissions := rfl
@[simp] theorem updQueue_warps (s : State) (k : Nat) (f : Queue → Queue) : (updQueue s k f).warps = s.warps := rfl
@[simp] theorem updQueue_wgs (s : State) (k : Nat) (f : Queue → Queue) : (updQueue s k f).wgs = s.wgs := rfl
@[simp] theorem updQueue_skeins (s : State) (k : Nat) (f : Queue → Queue) : (updQueue s k f).skeins = s.skeins := rfl
@[simp] theorem updQueue_launches (s : State) (k : Nat) (f : Queue → Queue) : (updQueue s k f).launches = s.launches := rfl
@[simp] theorem updQueue_graphs (s : State) (k : Nat) (f : Queue → Queue) : (updQueue s k f).graphs = s.graphs := rfl
@[simp] theorem updQueue_queues (s : State) (k : Nat) (f : Queue → Queue) : (updQueue s k f).queues = Tab.upd s.queues k f := rfl
@[simp] theorem updQueue_turns (s : State) (k : Nat) (f : Queue → Queue) : (updQueue s k f).turns = s.turns := rfl
@[simp] theorem updQueue_slices (s : State) (k : Nat) (f : Queue → Queue) : (updQueue s k f).slices = s.slices := rfl
@[simp] theorem updQueue_shares (s : State) (k : Nat) (f : Queue → Queue) : (updQueue s k f).shares = s.shares := rfl
@[simp] theorem updQueue_mem (s : State) (k : Nat) (f : Queue → Queue) : (updQueue s k f).mem = s.mem := rfl
@[simp] theorem updQueue_memPoison (s : State) (k : Nat) (f : Queue → Queue) : (updQueue s k f).memPoison = s.memPoison := rfl
@[simp] theorem updQueue_host (s : State) (k : Nat) (f : Queue → Queue) : (updQueue s k f).host = s.host := rfl
@[simp] theorem updQueue_cmds (s : State) (k : Nat) (f : Queue → Queue) : (updQueue s k f).cmds = s.cmds := rfl
@[simp] theorem updQueue_nearOps (s : State) (k : Nat) (f : Queue → Queue) : (updQueue s k f).nearOps = s.nearOps := rfl
@[simp] theorem updQueue_callMsgs (s : State) (k : Nat) (f : Queue → Queue) : (updQueue s k f).callMsgs = s.callMsgs := rfl
@[simp] theorem updQueue_replyMsgs (s : State) (k : Nat) (f : Queue → Queue) : (updQueue s k f).replyMsgs = s.replyMsgs := rfl
@[simp] theorem updQueue_targets (s : State) (k : Nat) (f : Queue → Queue) : (updQueue s k f).targets = s.targets := rfl
@[simp] theorem updQueue_xlate (s : State) (k : Nat) (f : Queue → Queue) : (updQueue s k f).xlate = s.xlate := rfl
@[simp] theorem updQueue_net (s : State) (k : Nat) (f : Queue → Queue) : (updQueue s k f).net = s.net := rfl
@[simp] theorem updQueue_plat (s : State) (k : Nat) (f : Queue → Queue) : (updQueue s k f).plat = s.plat := rfl
@[simp] theorem updQueue_debugger (s : State) (k : Nat) (f : Queue → Queue) : (updQueue s k f).debugger = s.debugger := rfl

@[simp] theorem updPlat_clock (s : State) (f : Platform → Platform) : (updPlat s f).clock = s.clock := rfl
@[simp] theorem updPlat_timer (s : State) (f : Platform → Platform) : (updPlat s f).timer = s.timer := rfl
@[simp] theorem updPlat_sevenths (s : State) (f : Platform → Platform) : (updPlat s f).sevenths = s.sevenths := rfl
@[simp] theorem updPlat_ticks (s : State) (f : Platform → Platform) : (updPlat s f).ticks = s.ticks := rfl
@[simp] theorem updPlat_focus (s : State) (f : Platform → Platform) : (updPlat s f).focus = s.focus := rfl
@[simp] theorem updPlat_agenda (s : State) (f : Platform → Platform) : (updPlat s f).agenda = s.agenda := rfl
@[simp] theorem updPlat_turn (s : State) (f : Platform → Platform) : (updPlat s f).turn = s.turn := rfl
@[simp] theorem updPlat_fresh (s : State) (f : Platform → Platform) : (updPlat s f).fresh = s.fresh := rfl
@[simp] theorem updPlat_identity (s : State) (f : Platform → Platform) : (updPlat s f).identity = s.identity := rfl
@[simp] theorem updPlat_admissions (s : State) (f : Platform → Platform) : (updPlat s f).admissions = s.admissions := rfl
@[simp] theorem updPlat_warps (s : State) (f : Platform → Platform) : (updPlat s f).warps = s.warps := rfl
@[simp] theorem updPlat_wgs (s : State) (f : Platform → Platform) : (updPlat s f).wgs = s.wgs := rfl
@[simp] theorem updPlat_skeins (s : State) (f : Platform → Platform) : (updPlat s f).skeins = s.skeins := rfl
@[simp] theorem updPlat_launches (s : State) (f : Platform → Platform) : (updPlat s f).launches = s.launches := rfl
@[simp] theorem updPlat_graphs (s : State) (f : Platform → Platform) : (updPlat s f).graphs = s.graphs := rfl
@[simp] theorem updPlat_queues (s : State) (f : Platform → Platform) : (updPlat s f).queues = s.queues := rfl
@[simp] theorem updPlat_turns (s : State) (f : Platform → Platform) : (updPlat s f).turns = s.turns := rfl
@[simp] theorem updPlat_slices (s : State) (f : Platform → Platform) : (updPlat s f).slices = s.slices := rfl
@[simp] theorem updPlat_shares (s : State) (f : Platform → Platform) : (updPlat s f).shares = s.shares := rfl
@[simp] theorem updPlat_mem (s : State) (f : Platform → Platform) : (updPlat s f).mem = s.mem := rfl
@[simp] theorem updPlat_memPoison (s : State) (f : Platform → Platform) : (updPlat s f).memPoison = s.memPoison := rfl
@[simp] theorem updPlat_host (s : State) (f : Platform → Platform) : (updPlat s f).host = s.host := rfl
@[simp] theorem updPlat_cmds (s : State) (f : Platform → Platform) : (updPlat s f).cmds = s.cmds := rfl
@[simp] theorem updPlat_nearOps (s : State) (f : Platform → Platform) : (updPlat s f).nearOps = s.nearOps := rfl
@[simp] theorem updPlat_callMsgs (s : State) (f : Platform → Platform) : (updPlat s f).callMsgs = s.callMsgs := rfl
@[simp] theorem updPlat_replyMsgs (s : State) (f : Platform → Platform) : (updPlat s f).replyMsgs = s.replyMsgs := rfl
@[simp] theorem updPlat_targets (s : State) (f : Platform → Platform) : (updPlat s f).targets = s.targets := rfl
@[simp] theorem updPlat_xlate (s : State) (f : Platform → Platform) : (updPlat s f).xlate = s.xlate := rfl
@[simp] theorem updPlat_net (s : State) (f : Platform → Platform) : (updPlat s f).net = s.net := rfl
@[simp] theorem updPlat_plat (s : State) (f : Platform → Platform) : (updPlat s f).plat = f s.plat := rfl
@[simp] theorem updPlat_debugger (s : State) (f : Platform → Platform) : (updPlat s f).debugger = s.debugger := rfl

@[simp] theorem stopSkeins_clock (s : State) (k : Nat) : (stopSkeins s k).clock = s.clock := rfl
@[simp] theorem stopSkeins_timer (s : State) (k : Nat) : (stopSkeins s k).timer = s.timer := rfl
@[simp] theorem stopSkeins_sevenths (s : State) (k : Nat) : (stopSkeins s k).sevenths = s.sevenths := rfl
@[simp] theorem stopSkeins_ticks (s : State) (k : Nat) : (stopSkeins s k).ticks = s.ticks := rfl
@[simp] theorem stopSkeins_focus (s : State) (k : Nat) : (stopSkeins s k).focus = s.focus := rfl
@[simp] theorem stopSkeins_agenda (s : State) (k : Nat) : (stopSkeins s k).agenda = s.agenda := rfl
@[simp] theorem stopSkeins_turn (s : State) (k : Nat) : (stopSkeins s k).turn = s.turn := rfl
@[simp] theorem stopSkeins_fresh (s : State) (k : Nat) : (stopSkeins s k).fresh = s.fresh := rfl
@[simp] theorem stopSkeins_identity (s : State) (k : Nat) : (stopSkeins s k).identity = s.identity := rfl
@[simp] theorem stopSkeins_admissions (s : State) (k : Nat) : (stopSkeins s k).admissions = s.admissions := rfl
@[simp] theorem stopSkeins_warps (s : State) (k : Nat) : (stopSkeins s k).warps = s.warps := rfl
@[simp] theorem stopSkeins_wgs (s : State) (k : Nat) : (stopSkeins s k).wgs = s.wgs := rfl
@[simp] theorem stopSkeins_skeins (s : State) (k : Nat) : (stopSkeins s k).skeins = Tab.mapVal s.skeins fun (x : Skein) => if x.launch = k ∧ x.resident = true ∧ x.phase ≠ .retiring then { x with phase := .cancelling } else x := rfl
@[simp] theorem stopSkeins_launches (s : State) (k : Nat) : (stopSkeins s k).launches = s.launches := rfl
@[simp] theorem stopSkeins_graphs (s : State) (k : Nat) : (stopSkeins s k).graphs = s.graphs := rfl
@[simp] theorem stopSkeins_queues (s : State) (k : Nat) : (stopSkeins s k).queues = s.queues := rfl
@[simp] theorem stopSkeins_turns (s : State) (k : Nat) : (stopSkeins s k).turns = s.turns := rfl
@[simp] theorem stopSkeins_slices (s : State) (k : Nat) : (stopSkeins s k).slices = s.slices := rfl
@[simp] theorem stopSkeins_shares (s : State) (k : Nat) : (stopSkeins s k).shares = s.shares := rfl
@[simp] theorem stopSkeins_mem (s : State) (k : Nat) : (stopSkeins s k).mem = s.mem := rfl
@[simp] theorem stopSkeins_memPoison (s : State) (k : Nat) : (stopSkeins s k).memPoison = s.memPoison := rfl
@[simp] theorem stopSkeins_host (s : State) (k : Nat) : (stopSkeins s k).host = s.host := rfl
@[simp] theorem stopSkeins_cmds (s : State) (k : Nat) : (stopSkeins s k).cmds = s.cmds := rfl
@[simp] theorem stopSkeins_nearOps (s : State) (k : Nat) : (stopSkeins s k).nearOps = s.nearOps := rfl
@[simp] theorem stopSkeins_callMsgs (s : State) (k : Nat) : (stopSkeins s k).callMsgs = s.callMsgs := rfl
@[simp] theorem stopSkeins_replyMsgs (s : State) (k : Nat) : (stopSkeins s k).replyMsgs = s.replyMsgs := rfl
@[simp] theorem stopSkeins_targets (s : State) (k : Nat) : (stopSkeins s k).targets = s.targets := rfl
@[simp] theorem stopSkeins_xlate (s : State) (k : Nat) : (stopSkeins s k).xlate = s.xlate := rfl
@[simp] theorem stopSkeins_net (s : State) (k : Nat) : (stopSkeins s k).net = s.net := rfl
@[simp] theorem stopSkeins_plat (s : State) (k : Nat) : (stopSkeins s k).plat = s.plat := rfl
@[simp] theorem stopSkeins_debugger (s : State) (k : Nat) : (stopSkeins s k).debugger = s.debugger := rfl

@[simp] theorem wantRollback_clock (s : State) (k : Nat) (a : Pc) : (wantRollback s k a).clock = s.clock := rfl
@[simp] theorem wantRollback_timer (s : State) (k : Nat) (a : Pc) : (wantRollback s k a).timer = s.timer := rfl
@[simp] theorem wantRollback_sevenths (s : State) (k : Nat) (a : Pc) : (wantRollback s k a).sevenths = s.sevenths := rfl
@[simp] theorem wantRollback_ticks (s : State) (k : Nat) (a : Pc) : (wantRollback s k a).ticks = s.ticks := rfl
@[simp] theorem wantRollback_focus (s : State) (k : Nat) (a : Pc) : (wantRollback s k a).focus = s.focus := rfl
@[simp] theorem wantRollback_agenda (s : State) (k : Nat) (a : Pc) : (wantRollback s k a).agenda = s.agenda := rfl
@[simp] theorem wantRollback_turn (s : State) (k : Nat) (a : Pc) : (wantRollback s k a).turn = s.turn := rfl
@[simp] theorem wantRollback_fresh (s : State) (k : Nat) (a : Pc) : (wantRollback s k a).fresh = s.fresh := rfl
@[simp] theorem wantRollback_identity (s : State) (k : Nat) (a : Pc) : (wantRollback s k a).identity = s.identity := rfl
@[simp] theorem wantRollback_admissions (s : State) (k : Nat) (a : Pc) : (wantRollback s k a).admissions = s.admissions := rfl
@[simp] theorem wantRollback_warps (s : State) (k : Nat) (a : Pc) : (wantRollback s k a).warps = s.warps := rfl
@[simp] theorem wantRollback_wgs (s : State) (k : Nat) (a : Pc) : (wantRollback s k a).wgs = s.wgs := rfl
@[simp] theorem wantRollback_skeins (s : State) (k : Nat) (a : Pc) : (wantRollback s k a).skeins = (stopSkeins s k).skeins := rfl
@[simp] theorem wantRollback_launches (s : State) (k : Nat) (a : Pc) : (wantRollback s k a).launches = Tab.upd s.launches k fun x => { x with rollbackWanted := true, phase := .stopping, failing := if x.rollbackWanted then x.failing else a } := rfl
@[simp] theorem wantRollback_graphs (s : State) (k : Nat) (a : Pc) : (wantRollback s k a).graphs = s.graphs := rfl
@[simp] theorem wantRollback_queues (s : State) (k : Nat) (a : Pc) : (wantRollback s k a).queues = s.queues := rfl
@[simp] theorem wantRollback_turns (s : State) (k : Nat) (a : Pc) : (wantRollback s k a).turns = s.turns := rfl
@[simp] theorem wantRollback_slices (s : State) (k : Nat) (a : Pc) : (wantRollback s k a).slices = s.slices := rfl
@[simp] theorem wantRollback_shares (s : State) (k : Nat) (a : Pc) : (wantRollback s k a).shares = s.shares := rfl
@[simp] theorem wantRollback_mem (s : State) (k : Nat) (a : Pc) : (wantRollback s k a).mem = s.mem := rfl
@[simp] theorem wantRollback_memPoison (s : State) (k : Nat) (a : Pc) : (wantRollback s k a).memPoison = s.memPoison := rfl
@[simp] theorem wantRollback_host (s : State) (k : Nat) (a : Pc) : (wantRollback s k a).host = s.host := rfl
@[simp] theorem wantRollback_cmds (s : State) (k : Nat) (a : Pc) : (wantRollback s k a).cmds = s.cmds := rfl
@[simp] theorem wantRollback_nearOps (s : State) (k : Nat) (a : Pc) : (wantRollback s k a).nearOps = s.nearOps := rfl
@[simp] theorem wantRollback_callMsgs (s : State) (k : Nat) (a : Pc) : (wantRollback s k a).callMsgs = s.callMsgs := rfl
@[simp] theorem wantRollback_replyMsgs (s : State) (k : Nat) (a : Pc) : (wantRollback s k a).replyMsgs = s.replyMsgs := rfl
@[simp] theorem wantRollback_targets (s : State) (k : Nat) (a : Pc) : (wantRollback s k a).targets = s.targets := rfl
@[simp] theorem wantRollback_xlate (s : State) (k : Nat) (a : Pc) : (wantRollback s k a).xlate = s.xlate := rfl
@[simp] theorem wantRollback_net (s : State) (k : Nat) (a : Pc) : (wantRollback s k a).net = s.net := rfl
@[simp] theorem wantRollback_plat (s : State) (k : Nat) (a : Pc) : (wantRollback s k a).plat = s.plat := rfl
@[simp] theorem wantRollback_debugger (s : State) (k : Nat) (a : Pc) : (wantRollback s k a).debugger = s.debugger := rfl

@[simp] theorem updModule_clock (s : State) (m : Nat) (f : Module → Module) : (updModule s m f).clock = s.clock := rfl
@[simp] theorem updModule_timer (s : State) (m : Nat) (f : Module → Module) : (updModule s m f).timer = s.timer := rfl
@[simp] theorem updModule_sevenths (s : State) (m : Nat) (f : Module → Module) : (updModule s m f).sevenths = s.sevenths := rfl
@[simp] theorem updModule_ticks (s : State) (m : Nat) (f : Module → Module) : (updModule s m f).ticks = s.ticks := rfl
@[simp] theorem updModule_focus (s : State) (m : Nat) (f : Module → Module) : (updModule s m f).focus = s.focus := rfl
@[simp] theorem updModule_agenda (s : State) (m : Nat) (f : Module → Module) : (updModule s m f).agenda = s.agenda := rfl
@[simp] theorem updModule_turn (s : State) (m : Nat) (f : Module → Module) : (updModule s m f).turn = s.turn := rfl
@[simp] theorem updModule_fresh (s : State) (m : Nat) (f : Module → Module) : (updModule s m f).fresh = s.fresh := rfl
@[simp] theorem updModule_identity (s : State) (m : Nat) (f : Module → Module) : (updModule s m f).identity = s.identity := rfl
@[simp] theorem updModule_admissions (s : State) (m : Nat) (f : Module → Module) : (updModule s m f).admissions = s.admissions := rfl
@[simp] theorem updModule_warps (s : State) (m : Nat) (f : Module → Module) : (updModule s m f).warps = s.warps := rfl
@[simp] theorem updModule_wgs (s : State) (m : Nat) (f : Module → Module) : (updModule s m f).wgs = s.wgs := rfl
@[simp] theorem updModule_skeins (s : State) (m : Nat) (f : Module → Module) : (updModule s m f).skeins = s.skeins := rfl
@[simp] theorem updModule_launches (s : State) (m : Nat) (f : Module → Module) : (updModule s m f).launches = s.launches := rfl
@[simp] theorem updModule_graphs (s : State) (m : Nat) (f : Module → Module) : (updModule s m f).graphs = s.graphs := rfl
@[simp] theorem updModule_queues (s : State) (m : Nat) (f : Module → Module) : (updModule s m f).queues = s.queues := rfl
@[simp] theorem updModule_turns (s : State) (m : Nat) (f : Module → Module) : (updModule s m f).turns = s.turns := rfl
@[simp] theorem updModule_slices (s : State) (m : Nat) (f : Module → Module) : (updModule s m f).slices = s.slices := rfl
@[simp] theorem updModule_shares (s : State) (m : Nat) (f : Module → Module) : (updModule s m f).shares = s.shares := rfl
@[simp] theorem updModule_mem (s : State) (m : Nat) (f : Module → Module) : (updModule s m f).mem = s.mem := rfl
@[simp] theorem updModule_memPoison (s : State) (m : Nat) (f : Module → Module) : (updModule s m f).memPoison = s.memPoison := rfl
@[simp] theorem updModule_host (s : State) (m : Nat) (f : Module → Module) : (updModule s m f).host = s.host := rfl
@[simp] theorem updModule_cmds (s : State) (m : Nat) (f : Module → Module) : (updModule s m f).cmds = s.cmds := rfl
@[simp] theorem updModule_nearOps (s : State) (m : Nat) (f : Module → Module) : (updModule s m f).nearOps = s.nearOps := rfl
@[simp] theorem updModule_callMsgs (s : State) (m : Nat) (f : Module → Module) : (updModule s m f).callMsgs = s.callMsgs := rfl
@[simp] theorem updModule_replyMsgs (s : State) (m : Nat) (f : Module → Module) : (updModule s m f).replyMsgs = s.replyMsgs := rfl
@[simp] theorem updModule_targets (s : State) (m : Nat) (f : Module → Module) : (updModule s m f).targets = s.targets := rfl
@[simp] theorem updModule_xlate (s : State) (m : Nat) (f : Module → Module) : (updModule s m f).xlate = s.xlate := rfl
@[simp] theorem updModule_net (s : State) (m : Nat) (f : Module → Module) : (updModule s m f).net = { s.net with modules := Tab.upd s.net.modules m f } := rfl
@[simp] theorem updModule_plat (s : State) (m : Nat) (f : Module → Module) : (updModule s m f).plat = s.plat := rfl
@[simp] theorem updModule_debugger (s : State) (m : Nat) (f : Module → Module) : (updModule s m f).debugger = s.debugger := rfl

@[simp] theorem updConn_clock (s : State) (k : Nat) (f : Conn → Conn) : (updConn s k f).clock = s.clock := rfl
@[simp] theorem updConn_timer (s : State) (k : Nat) (f : Conn → Conn) : (updConn s k f).timer = s.timer := rfl
@[simp] theorem updConn_sevenths (s : State) (k : Nat) (f : Conn → Conn) : (updConn s k f).sevenths = s.sevenths := rfl
@[simp] theorem updConn_ticks (s : State) (k : Nat) (f : Conn → Conn) : (updConn s k f).ticks = s.ticks := rfl
@[simp] theorem updConn_focus (s : State) (k : Nat) (f : Conn → Conn) : (updConn s k f).focus = s.focus := rfl
@[simp] theorem updConn_agenda (s : State) (k : Nat) (f : Conn → Conn) : (updConn s k f).agenda = s.agenda := rfl
@[simp] theorem updConn_turn (s : State) (k : Nat) (f : Conn → Conn) : (updConn s k f).turn = s.turn := rfl
@[simp] theorem updConn_fresh (s : State) (k : Nat) (f : Conn → Conn) : (updConn s k f).fresh = s.fresh := rfl
@[simp] theorem updConn_identity (s : State) (k : Nat) (f : Conn → Conn) : (updConn s k f).identity = s.identity := rfl
@[simp] theorem updConn_admissions (s : State) (k : Nat) (f : Conn → Conn) : (updConn s k f).admissions = s.admissions := rfl
@[simp] theorem updConn_warps (s : State) (k : Nat) (f : Conn → Conn) : (updConn s k f).warps = s.warps := rfl
@[simp] theorem updConn_wgs (s : State) (k : Nat) (f : Conn → Conn) : (updConn s k f).wgs = s.wgs := rfl
@[simp] theorem updConn_skeins (s : State) (k : Nat) (f : Conn → Conn) : (updConn s k f).skeins = s.skeins := rfl
@[simp] theorem updConn_launches (s : State) (k : Nat) (f : Conn → Conn) : (updConn s k f).launches = s.launches := rfl
@[simp] theorem updConn_graphs (s : State) (k : Nat) (f : Conn → Conn) : (updConn s k f).graphs = s.graphs := rfl
@[simp] theorem updConn_queues (s : State) (k : Nat) (f : Conn → Conn) : (updConn s k f).queues = s.queues := rfl
@[simp] theorem updConn_turns (s : State) (k : Nat) (f : Conn → Conn) : (updConn s k f).turns = s.turns := rfl
@[simp] theorem updConn_slices (s : State) (k : Nat) (f : Conn → Conn) : (updConn s k f).slices = s.slices := rfl
@[simp] theorem updConn_shares (s : State) (k : Nat) (f : Conn → Conn) : (updConn s k f).shares = s.shares := rfl
@[simp] theorem updConn_mem (s : State) (k : Nat) (f : Conn → Conn) : (updConn s k f).mem = s.mem := rfl
@[simp] theorem updConn_memPoison (s : State) (k : Nat) (f : Conn → Conn) : (updConn s k f).memPoison = s.memPoison := rfl
@[simp] theorem updConn_host (s : State) (k : Nat) (f : Conn → Conn) : (updConn s k f).host = s.host := rfl
@[simp] theorem updConn_cmds (s : State) (k : Nat) (f : Conn → Conn) : (updConn s k f).cmds = s.cmds := rfl
@[simp] theorem updConn_nearOps (s : State) (k : Nat) (f : Conn → Conn) : (updConn s k f).nearOps = s.nearOps := rfl
@[simp] theorem updConn_callMsgs (s : State) (k : Nat) (f : Conn → Conn) : (updConn s k f).callMsgs = s.callMsgs := rfl
@[simp] theorem updConn_replyMsgs (s : State) (k : Nat) (f : Conn → Conn) : (updConn s k f).replyMsgs = s.replyMsgs := rfl
@[simp] theorem updConn_targets (s : State) (k : Nat) (f : Conn → Conn) : (updConn s k f).targets = s.targets := rfl
@[simp] theorem updConn_xlate (s : State) (k : Nat) (f : Conn → Conn) : (updConn s k f).xlate = s.xlate := rfl
@[simp] theorem updConn_net (s : State) (k : Nat) (f : Conn → Conn) : (updConn s k f).net = { s.net with conns := Tab.upd s.net.conns k f } := rfl
@[simp] theorem updConn_plat (s : State) (k : Nat) (f : Conn → Conn) : (updConn s k f).plat = s.plat := rfl
@[simp] theorem updConn_debugger (s : State) (k : Nat) (f : Conn → Conn) : (updConn s k f).debugger = s.debugger := rfl

@[simp] theorem wakeSplit_clock (s : State) (k e : Nat) : (wakeSplit s k e).clock = s.clock := rfl
@[simp] theorem wakeSplit_timer (s : State) (k e : Nat) : (wakeSplit s k e).timer = s.timer := rfl
@[simp] theorem wakeSplit_sevenths (s : State) (k e : Nat) : (wakeSplit s k e).sevenths = s.sevenths := rfl
@[simp] theorem wakeSplit_ticks (s : State) (k e : Nat) : (wakeSplit s k e).ticks = s.ticks := rfl
@[simp] theorem wakeSplit_focus (s : State) (k e : Nat) : (wakeSplit s k e).focus = s.focus := rfl
@[simp] theorem wakeSplit_agenda (s : State) (k e : Nat) : (wakeSplit s k e).agenda = s.agenda := rfl
@[simp] theorem wakeSplit_turn (s : State) (k e : Nat) : (wakeSplit s k e).turn = s.turn := rfl
@[simp] theorem wakeSplit_fresh (s : State) (k e : Nat) : (wakeSplit s k e).fresh = s.fresh := rfl
@[simp] theorem wakeSplit_identity (s : State) (k e : Nat) : (wakeSplit s k e).identity = s.identity := rfl
@[simp] theorem wakeSplit_admissions (s : State) (k e : Nat) : (wakeSplit s k e).admissions = s.admissions := rfl
@[simp] theorem wakeSplit_warps (s : State) (k e : Nat) : (wakeSplit s k e).warps = Tab.upd s.warps k fun w => { w with splits := Tab.upd w.splits e fun (sp : Split) => { sp with status := .ready, readyAt := s.ticks, stall := if sp.stall = .other then .none else sp.stall } } := rfl
@[simp] theorem wakeSplit_wgs (s : State) (k e : Nat) : (wakeSplit s k e).wgs = s.wgs := rfl
@[simp] theorem wakeSplit_skeins (s : State) (k e : Nat) : (wakeSplit s k e).skeins = s.skeins := rfl
@[simp] theorem wakeSplit_launches (s : State) (k e : Nat) : (wakeSplit s k e).launches = s.launches := rfl
@[simp] theorem wakeSplit_graphs (s : State) (k e : Nat) : (wakeSplit s k e).graphs = s.graphs := rfl
@[simp] theorem wakeSplit_queues (s : State) (k e : Nat) : (wakeSplit s k e).queues = s.queues := rfl
@[simp] theorem wakeSplit_turns (s : State) (k e : Nat) : (wakeSplit s k e).turns = s.turns := rfl
@[simp] theorem wakeSplit_slices (s : State) (k e : Nat) : (wakeSplit s k e).slices = s.slices := rfl
@[simp] theorem wakeSplit_shares (s : State) (k e : Nat) : (wakeSplit s k e).shares = s.shares := rfl
@[simp] theorem wakeSplit_mem (s : State) (k e : Nat) : (wakeSplit s k e).mem = s.mem := rfl
@[simp] theorem wakeSplit_memPoison (s : State) (k e : Nat) : (wakeSplit s k e).memPoison = s.memPoison := rfl
@[simp] theorem wakeSplit_host (s : State) (k e : Nat) : (wakeSplit s k e).host = s.host := rfl
@[simp] theorem wakeSplit_cmds (s : State) (k e : Nat) : (wakeSplit s k e).cmds = s.cmds := rfl
@[simp] theorem wakeSplit_nearOps (s : State) (k e : Nat) : (wakeSplit s k e).nearOps = s.nearOps := rfl
@[simp] theorem wakeSplit_callMsgs (s : State) (k e : Nat) : (wakeSplit s k e).callMsgs = s.callMsgs := rfl
@[simp] theorem wakeSplit_replyMsgs (s : State) (k e : Nat) : (wakeSplit s k e).replyMsgs = s.replyMsgs := rfl
@[simp] theorem wakeSplit_targets (s : State) (k e : Nat) : (wakeSplit s k e).targets = s.targets := rfl
@[simp] theorem wakeSplit_xlate (s : State) (k e : Nat) : (wakeSplit s k e).xlate = s.xlate := rfl
@[simp] theorem wakeSplit_net (s : State) (k e : Nat) : (wakeSplit s k e).net = s.net := rfl
@[simp] theorem wakeSplit_plat (s : State) (k e : Nat) : (wakeSplit s k e).plat = s.plat := rfl
@[simp] theorem wakeSplit_debugger (s : State) (k e : Nat) : (wakeSplit s k e).debugger = s.debugger := rfl

@[simp] theorem focusSplit_clock (s : State) (k e : Nat) : (focusSplit s k e).clock = s.clock := rfl
@[simp] theorem focusSplit_timer (s : State) (k e : Nat) : (focusSplit s k e).timer = s.timer := rfl
@[simp] theorem focusSplit_sevenths (s : State) (k e : Nat) : (focusSplit s k e).sevenths = s.sevenths := rfl
@[simp] theorem focusSplit_ticks (s : State) (k e : Nat) : (focusSplit s k e).ticks = s.ticks := rfl
@[simp] theorem focusSplit_focus (s : State) (k e : Nat) : (focusSplit s k e).focus = .split k e := rfl
@[simp] theorem focusSplit_agenda (s : State) (k e : Nat) : (focusSplit s k e).agenda = s.agenda := rfl
@[simp] theorem focusSplit_turn (s : State) (k e : Nat) : (focusSplit s k e).turn = s.turn := rfl
@[simp] theorem focusSplit_fresh (s : State) (k e : Nat) : (focusSplit s k e).fresh = s.fresh := rfl
@[simp] theorem focusSplit_identity (s : State) (k e : Nat) : (focusSplit s k e).identity = s.identity := rfl
@[simp] theorem focusSplit_admissions (s : State) (k e : Nat) : (focusSplit s k e).admissions = s.admissions := rfl
@[simp] theorem focusSplit_warps (s : State) (k e : Nat) : (focusSplit s k e).warps = Tab.upd s.warps k fun w => { w with splits := Tab.upd w.splits e fun (sp : Split) => { sp with status := .issuing } } := rfl
@[simp] theorem focusSplit_wgs (s : State) (k e : Nat) : (focusSplit s k e).wgs = s.wgs := rfl
@[simp] theorem focusSplit_skeins (s : State) (k e : Nat) : (focusSplit s k e).skeins = s.skeins := rfl
@[simp] theorem focusSplit_launches (s : State) (k e : Nat) : (focusSplit s k e).launches = s.launches := rfl
@[simp] theorem focusSplit_graphs (s : State) (k e : Nat) : (focusSplit s k e).graphs = s.graphs := rfl
@[simp] theorem focusSplit_queues (s : State) (k e : Nat) : (focusSplit s k e).queues = s.queues := rfl
@[simp] theorem focusSplit_turns (s : State) (k e : Nat) : (focusSplit s k e).turns = s.turns := rfl
@[simp] theorem focusSplit_slices (s : State) (k e : Nat) : (focusSplit s k e).slices = s.slices := rfl
@[simp] theorem focusSplit_shares (s : State) (k e : Nat) : (focusSplit s k e).shares = s.shares := rfl
@[simp] theorem focusSplit_mem (s : State) (k e : Nat) : (focusSplit s k e).mem = s.mem := rfl
@[simp] theorem focusSplit_memPoison (s : State) (k e : Nat) : (focusSplit s k e).memPoison = s.memPoison := rfl
@[simp] theorem focusSplit_host (s : State) (k e : Nat) : (focusSplit s k e).host = s.host := rfl
@[simp] theorem focusSplit_cmds (s : State) (k e : Nat) : (focusSplit s k e).cmds = s.cmds := rfl
@[simp] theorem focusSplit_nearOps (s : State) (k e : Nat) : (focusSplit s k e).nearOps = s.nearOps := rfl
@[simp] theorem focusSplit_callMsgs (s : State) (k e : Nat) : (focusSplit s k e).callMsgs = s.callMsgs := rfl
@[simp] theorem focusSplit_replyMsgs (s : State) (k e : Nat) : (focusSplit s k e).replyMsgs = s.replyMsgs := rfl
@[simp] theorem focusSplit_targets (s : State) (k e : Nat) : (focusSplit s k e).targets = s.targets := rfl
@[simp] theorem focusSplit_xlate (s : State) (k e : Nat) : (focusSplit s k e).xlate = s.xlate := rfl
@[simp] theorem focusSplit_net (s : State) (k e : Nat) : (focusSplit s k e).net = s.net := rfl
@[simp] theorem focusSplit_plat (s : State) (k e : Nat) : (focusSplit s k e).plat = s.plat := rfl
@[simp] theorem focusSplit_debugger (s : State) (k e : Nat) : (focusSplit s k e).debugger = s.debugger := rfl

@[simp] theorem passTime_clock (s : State) : (passTime s).clock = s.clock + 1 := rfl
@[simp] theorem passTime_timer (s : State) : (passTime s).timer = s.timer + (s.sevenths + Config.elapsedClocks s.clock * (if s.plat.halfClock then 20 else 10)) / 7 := rfl
@[simp] theorem passTime_sevenths (s : State) : (passTime s).sevenths = (s.sevenths + Config.elapsedClocks s.clock * (if s.plat.halfClock then 20 else 10)) % 7 := rfl
@[simp] theorem passTime_ticks (s : State) : (passTime s).ticks = s.ticks + Config.elapsedClocks s.clock := rfl
@[simp] theorem passTime_focus (s : State) : (passTime s).focus = s.focus := rfl
@[simp] theorem passTime_agenda (s : State) : (passTime s).agenda = s.agenda := rfl
@[simp] theorem passTime_turn (s : State) : (passTime s).turn = s.turn := rfl
@[simp] theorem passTime_fresh (s : State) : (passTime s).fresh = s.fresh := rfl
@[simp] theorem passTime_identity (s : State) : (passTime s).identity = s.identity := rfl
@[simp] theorem passTime_admissions (s : State) : (passTime s).admissions = s.admissions := rfl
@[simp] theorem passTime_warps (s : State) : (passTime s).warps = s.warps := rfl
@[simp] theorem passTime_wgs (s : State) : (passTime s).wgs = s.wgs := rfl
@[simp] theorem passTime_skeins (s : State) : (passTime s).skeins = s.skeins := rfl
@[simp] theorem passTime_launches (s : State) : (passTime s).launches = s.launches := rfl
@[simp] theorem passTime_graphs (s : State) : (passTime s).graphs = s.graphs := rfl
@[simp] theorem passTime_queues (s : State) : (passTime s).queues = s.queues := rfl
@[simp] theorem passTime_turns (s : State) : (passTime s).turns = s.turns := rfl
@[simp] theorem passTime_slices (s : State) : (passTime s).slices = s.slices := rfl
@[simp] theorem passTime_shares (s : State) : (passTime s).shares = s.shares := rfl
@[simp] theorem passTime_mem (s : State) : (passTime s).mem = s.mem := rfl
@[simp] theorem passTime_memPoison (s : State) : (passTime s).memPoison = s.memPoison := rfl
@[simp] theorem passTime_host (s : State) : (passTime s).host = s.host := rfl
@[simp] theorem passTime_cmds (s : State) : (passTime s).cmds = s.cmds := rfl
@[simp] theorem passTime_nearOps (s : State) : (passTime s).nearOps = s.nearOps := rfl
@[simp] theorem passTime_callMsgs (s : State) : (passTime s).callMsgs = s.callMsgs := rfl
@[simp] theorem passTime_replyMsgs (s : State) : (passTime s).replyMsgs = s.replyMsgs := rfl
@[simp] theorem passTime_targets (s : State) : (passTime s).targets = s.targets := rfl
@[simp] theorem passTime_xlate (s : State) : (passTime s).xlate = s.xlate := rfl
@[simp] theorem passTime_net (s : State) : (passTime s).net = s.net := rfl
@[simp] theorem passTime_plat (s : State) : (passTime s).plat = s.plat := rfl
@[simp] theorem passTime_debugger (s : State) : (passTime s).debugger = s.debugger := rfl

@[simp] theorem Split.tick_pc (sp : Split) : sp.tick.pc = sp.pc := rfl
@[simp] theorem Split.tick_lanes (sp : Split) : sp.tick.lanes = sp.lanes := rfl
@[simp] theorem Split.tick_act (sp : Split) : sp.tick.act = sp.act := rfl
@[simp] theorem Split.tick_status (sp : Split) : sp.tick.status = sp.status := rfl
@[simp] theorem Split.tick_scalars (sp : Split) : sp.tick.scalars = sp.scalars := rfl
@[simp] theorem Split.tick_scalarPoison (sp : Split) : sp.tick.scalarPoison = sp.scalarPoison := rfl
@[simp] theorem Split.tick_mode (sp : Split) : sp.tick.mode = sp.mode := rfl
@[simp] theorem Split.tick_fpst (sp : Split) : sp.tick.fpst = sp.fpst := rfl
@[simp] theorem Split.tick_pend (sp : Split) : sp.tick.pend = sp.pend.map fun p => if p.inRun then { p with window := p.window - 1 } else p := rfl
@[simp] theorem Split.tick_unawaited (sp : Split) : sp.tick.unawaited = sp.unawaited := rfl
@[simp] theorem Split.tick_awaited (sp : Split) : sp.tick.awaited = sp.awaited := rfl
@[simp] theorem Split.tick_run (sp : Split) : sp.tick.run = sp.run := rfl
@[simp] theorem Split.tick_temps (sp : Split) : sp.tick.temps = sp.temps := rfl
@[simp] theorem Split.tick_tempPoison (sp : Split) : sp.tick.tempPoison = sp.tempPoison := rfl
@[simp] theorem Split.tick_after (sp : Split) : sp.tick.after = sp.after := rfl
@[simp] theorem Split.tick_faults (sp : Split) : sp.tick.faults = sp.faults.map fun f => { f with window := f.window.map fun n => n - 1 } := rfl
@[simp] theorem Split.tick_stall (sp : Split) : sp.tick.stall = sp.stall := rfl
@[simp] theorem Split.tick_trap (sp : Split) : sp.tick.trap = sp.trap := rfl
@[simp] theorem Split.tick_tsel (sp : Split) : sp.tick.tsel = sp.tsel := rfl
@[simp] theorem Split.tick_yielded (sp : Split) : sp.tick.yielded = sp.yielded := rfl
@[simp] theorem Split.tick_readyAt (sp : Split) : sp.tick.readyAt = sp.readyAt := rfl
@[simp] theorem Split.tick_latchPoison (sp : Split) : sp.tick.latchPoison = sp.latchPoison := rfl
@[simp] theorem Split.tick_recordPoison (sp : Split) : sp.tick.recordPoison = sp.recordPoison := rfl
@[simp] theorem Split.tick_stuck (sp : Split) : sp.tick.stuck = sp.stuck := rfl

@[simp] theorem Split.readyAtPc_pc (sp : Split) (p : Pc) (t : Nat) : (sp.readyAtPc p t).pc = p := rfl
@[simp] theorem Split.readyAtPc_lanes (sp : Split) (p : Pc) (t : Nat) : (sp.readyAtPc p t).lanes = sp.lanes := rfl
@[simp] theorem Split.readyAtPc_act (sp : Split) (p : Pc) (t : Nat) : (sp.readyAtPc p t).act = sp.act := rfl
@[simp] theorem Split.readyAtPc_status (sp : Split) (p : Pc) (t : Nat) : (sp.readyAtPc p t).status = .ready := rfl
@[simp] theorem Split.readyAtPc_scalars (sp : Split) (p : Pc) (t : Nat) : (sp.readyAtPc p t).scalars = sp.scalars := rfl
@[simp] theorem Split.readyAtPc_scalarPoison (sp : Split) (p : Pc) (t : Nat) : (sp.readyAtPc p t).scalarPoison = sp.scalarPoison := rfl
@[simp] theorem Split.readyAtPc_mode (sp : Split) (p : Pc) (t : Nat) : (sp.readyAtPc p t).mode = sp.mode := rfl
@[simp] theorem Split.readyAtPc_fpst (sp : Split) (p : Pc) (t : Nat) : (sp.readyAtPc p t).fpst = sp.fpst := rfl
@[simp] theorem Split.readyAtPc_pend (sp : Split) (p : Pc) (t : Nat) : (sp.readyAtPc p t).pend = sp.outOfRun := rfl
@[simp] theorem Split.readyAtPc_unawaited (sp : Split) (p : Pc) (t : Nat) : (sp.readyAtPc p t).unawaited = sp.unawaited := rfl
@[simp] theorem Split.readyAtPc_awaited (sp : Split) (p : Pc) (t : Nat) : (sp.readyAtPc p t).awaited = [] := rfl
@[simp] theorem Split.readyAtPc_run (sp : Split) (p : Pc) (t : Nat) : (sp.readyAtPc p t).run = Run.none p := rfl
@[simp] theorem Split.readyAtPc_temps (sp : Split) (p : Pc) (t : Nat) : (sp.readyAtPc p t).temps = sp.temps := rfl
@[simp] theorem Split.readyAtPc_tempPoison (sp : Split) (p : Pc) (t : Nat) : (sp.readyAtPc p t).tempPoison = sp.tempPoison := rfl
@[simp] theorem Split.readyAtPc_after (sp : Split) (p : Pc) (t : Nat) : (sp.readyAtPc p t).after = .fall := rfl
@[simp] theorem Split.readyAtPc_faults (sp : Split) (p : Pc) (t : Nat) : (sp.readyAtPc p t).faults = sp.faults := rfl
@[simp] theorem Split.readyAtPc_stall (sp : Split) (p : Pc) (t : Nat) : (sp.readyAtPc p t).stall = .none := rfl
@[simp] theorem Split.readyAtPc_trap (sp : Split) (p : Pc) (t : Nat) : (sp.readyAtPc p t).trap = sp.trap := rfl
@[simp] theorem Split.readyAtPc_tsel (sp : Split) (p : Pc) (t : Nat) : (sp.readyAtPc p t).tsel = sp.tsel := rfl
@[simp] theorem Split.readyAtPc_yielded (sp : Split) (p : Pc) (t : Nat) : (sp.readyAtPc p t).yielded = sp.yielded := rfl
@[simp] theorem Split.readyAtPc_readyAt (sp : Split) (p : Pc) (t : Nat) : (sp.readyAtPc p t).readyAt = t := rfl
@[simp] theorem Split.readyAtPc_latchPoison (sp : Split) (p : Pc) (t : Nat) : (sp.readyAtPc p t).latchPoison = sp.latchPoison := rfl
@[simp] theorem Split.readyAtPc_recordPoison (sp : Split) (p : Pc) (t : Nat) : (sp.readyAtPc p t).recordPoison = sp.recordPoison := rfl
@[simp] theorem Split.readyAtPc_stuck (sp : Split) (p : Pc) (t : Nat) : (sp.readyAtPc p t).stuck = sp.stuck := rfl

@[simp] theorem Cx.settle_s (c : Cx) (i : Instr) : (c.settle i).s = c.s := rfl
@[simp] theorem Cx.putScalar_s (c : Cx) (n : Nat) (v : Word) : (c.putScalar n v).s = c.s := rfl
@[simp] theorem Cx.putScalar64_s (c : Cx) (n : Nat) (v : DWord) : (c.putScalar64 n v).s = c.s := rfl
@[simp] theorem Cx.settle_wk (c : Cx) (i : Instr) : (c.settle i).wk = c.wk := rfl
@[simp] theorem Cx.putScalar_wk (c : Cx) (n : Nat) (v : Word) : (c.putScalar n v).wk = c.wk := rfl
@[simp] theorem Cx.putScalar64_wk (c : Cx) (n : Nat) (v : DWord) : (c.putScalar64 n v).wk = c.wk := rfl
@[simp] theorem Cx.settle_w (c : Cx) (i : Instr) : (c.settle i).w = c.w := rfl
@[simp] theorem Cx.putScalar_w (c : Cx) (n : Nat) (v : Word) : (c.putScalar n v).w = c.w := rfl
@[simp] theorem Cx.putScalar64_w (c : Cx) (n : Nat) (v : DWord) : (c.putScalar64 n v).w = c.w := rfl
@[simp] theorem Cx.settle_e (c : Cx) (i : Instr) : (c.settle i).e = c.e := rfl
@[simp] theorem Cx.putScalar_e (c : Cx) (n : Nat) (v : Word) : (c.putScalar n v).e = c.e := rfl
@[simp] theorem Cx.putScalar64_e (c : Cx) (n : Nat) (v : DWord) : (c.putScalar64 n v).e = c.e := rfl
@[simp] theorem Cx.setStatus_s (c : Cx) (g : Flags) : (c.setStatus g).s = c.s := rfl
@[simp] theorem Cx.setStatus_wk (c : Cx) (g : Flags) : (c.setStatus g).wk = c.wk := rfl
@[simp] theorem Cx.setStatus_e (c : Cx) (g : Flags) : (c.setStatus g).e = c.e := rfl
@[simp] theorem Cx.setStatus_w (c : Cx) (g : Flags) : (c.setStatus g).w = c.w := rfl
@[simp] theorem Cx.settle_sp_pc (c : Cx) (i : Instr) : (c.settle i).sp.pc = c.sp.pc := rfl
@[simp] theorem Cx.settle_sp_lanes (c : Cx) (i : Instr) : (c.settle i).sp.lanes = c.sp.lanes := rfl
@[simp] theorem Cx.settle_sp_act (c : Cx) (i : Instr) : (c.settle i).sp.act = c.sp.act := rfl
@[simp] theorem Cx.settle_sp_status (c : Cx) (i : Instr) : (c.settle i).sp.status = c.sp.status := rfl
@[simp] theorem Cx.settle_sp_scalars (c : Cx) (i : Instr) : (c.settle i).sp.scalars = c.sp.scalars := rfl
@[simp] theorem Cx.settle_sp_scalarPoison (c : Cx) (i : Instr) : (c.settle i).sp.scalarPoison = c.sp.scalarPoison := rfl
@[simp] theorem Cx.settle_sp_mode (c : Cx) (i : Instr) : (c.settle i).sp.mode = c.sp.mode := rfl
@[simp] theorem Cx.settle_sp_fpst (c : Cx) (i : Instr) : (c.settle i).sp.fpst = c.sp.fpst := rfl
@[simp] theorem Cx.settle_sp_unawaited (c : Cx) (i : Instr) : (c.settle i).sp.unawaited = c.sp.unawaited := rfl
@[simp] theorem Cx.settle_sp_awaited (c : Cx) (i : Instr) : (c.settle i).sp.awaited = c.sp.awaited := rfl
@[simp] theorem Cx.settle_sp_run (c : Cx) (i : Instr) : (c.settle i).sp.run = c.sp.run := rfl
@[simp] theorem Cx.settle_sp_temps (c : Cx) (i : Instr) : (c.settle i).sp.temps = c.sp.temps := rfl
@[simp] theorem Cx.settle_sp_tempPoison (c : Cx) (i : Instr) : (c.settle i).sp.tempPoison = c.sp.tempPoison := rfl
@[simp] theorem Cx.settle_sp_after (c : Cx) (i : Instr) : (c.settle i).sp.after = c.sp.after := rfl
@[simp] theorem Cx.settle_sp_faults (c : Cx) (i : Instr) : (c.settle i).sp.faults = c.sp.faults := rfl
@[simp] theorem Cx.settle_sp_stall (c : Cx) (i : Instr) : (c.settle i).sp.stall = c.sp.stall := rfl
@[simp] theorem Cx.settle_sp_trap (c : Cx) (i : Instr) : (c.settle i).sp.trap = c.sp.trap := rfl
@[simp] theorem Cx.settle_sp_tsel (c : Cx) (i : Instr) : (c.settle i).sp.tsel = c.sp.tsel := rfl
@[simp] theorem Cx.settle_sp_yielded (c : Cx) (i : Instr) : (c.settle i).sp.yielded = c.sp.yielded := rfl
@[simp] theorem Cx.settle_sp_readyAt (c : Cx) (i : Instr) : (c.settle i).sp.readyAt = c.sp.readyAt := rfl
@[simp] theorem Cx.settle_sp_latchPoison (c : Cx) (i : Instr) : (c.settle i).sp.latchPoison = c.sp.latchPoison := rfl
@[simp] theorem Cx.settle_sp_recordPoison (c : Cx) (i : Instr) : (c.settle i).sp.recordPoison = c.sp.recordPoison := rfl
@[simp] theorem Cx.settle_sp_stuck (c : Cx) (i : Instr) : (c.settle i).sp.stuck = c.sp.stuck := rfl

end Sys2Proof.Machine
end

