-- ==== Sys2Proof/Laws/Store.lean ====
section
/-! SUPPORT. Tables and memories: a read after a write, every other place left alone, the canonical form kept. -/

namespace Sys2Proof.Machine

/-! ### Tables -/

@[simp] theorem Tab.get?_put_self {α : Type} (t : Tab α) (k : Nat) (v : α) : Tab.get? (Tab.put t k v) k = some v := by
  induction t with
  | nil => simp [Tab.put, Tab.get?]
  | cons p t ih =>
    obtain ⟨a, w⟩ := p
    simp only [Tab.put]
    split
    · next h => simp only [Tab.get?, if_neg (Nat.ne_of_lt h), ih]
    · split <;> simp [Tab.get?]

theorem Tab.get?_put_ne {α : Type} (t : Tab α) (k j : Nat) (v : α) (h : j ≠ k) :
    Tab.get? (Tab.put t k v) j = Tab.get? t j := by
  induction t with
  | nil => simp [Tab.put, Tab.get?, h.symm]
  | cons p t ih =>
    obtain ⟨a, w⟩ := p
    simp only [Tab.put]
    split
    · simp only [Tab.get?, ih]
    · split
      · next he => simp only [Tab.get?, if_neg h.symm, he]
      · simp only [Tab.get?, if_neg h.symm]

theorem Tab.get?_put {α : Type} (t : Tab α) (k j : Nat) (v : α) :
    Tab.get? (Tab.put t k v) j = if j = k then some v else Tab.get? t j := by
  split
  · next h => rw [h, Tab.get?_put_self]
  · next h => exact Tab.get?_put_ne t k j v h

theorem Tab.get?_del {α : Type} (t : Tab α) (k j : Nat) :
    Tab.get? (Tab.del t k) j = if j = k then none else Tab.get? t j := by
  induction t with
  | nil => simp [Tab.del, Tab.get?]
  | cons p t ih =>
    obtain ⟨a, w⟩ := p
    by_cases ha : a = k
    · have hd : Tab.del ((a, w) :: t) k = Tab.del t k := by simp [Tab.del, ha]
      rw [hd, ih]
      by_cases hj : j = k
      · simp [hj]
      · simp only [if_neg hj, Tab.get?]
        rw [if_neg]
        intro h; exact hj (h ▸ ha)
    · have hd : Tab.del ((a, w) :: t) k = (a, w) :: Tab.del t k := by simp [Tab.del, ha]
      rw [hd]
      simp only [Tab.get?, ih]
      by_cases hj : a = j
      · subst hj; simp [ha]
      · simp [hj]

theorem Tab.get?_upd {α : Type} (t : Tab α) (k j : Nat) (f : α → α) :
    Tab.get? (Tab.upd t k f) j = if j = k then (Tab.get? t j).map f else Tab.get? t j := by
  induction t with
  | nil => simp [Tab.upd, Tab.get?]
  | cons p t ih =>
    obtain ⟨a, w⟩ := p
    simp only [Tab.upd]
    split
    · next h =>
      subst h
      by_cases hj : a = j
      · subst hj; simp [Tab.get?]
      · simp [Tab.get?, hj, Ne.symm hj]
    · next h =>
      by_cases hj : a = j
      · subst hj; simp [Tab.get?, h]
      · simp [Tab.get?, hj, ih]

/-! ### Memories -/

/-- Every listed address lies above a bound. -/
def Mem.above (b : Nat) (m : Mem) : Prop := ∀ p ∈ m, b < p.1

theorem Mem.wf_cons (a : Nat) (v : Byte) (m : Mem) :
    Mem.wf ((a, v) :: m) = true ↔ v ≠ 0 ∧ Mem.above a m ∧ Mem.wf m = true := by
  induction m generalizing a v with
  | nil => simp [Mem.wf, Mem.above]
  | cons p m ih =>
    obtain ⟨b, w⟩ := p
    simp only [Mem.wf, Bool.and_eq_true, decide_eq_true_eq, bne_iff_ne, ne_eq]
    constructor
    · rintro ⟨⟨h1, h2⟩, h3⟩
      refine ⟨h2, ?_, h3⟩
      intro p hp
      rcases List.mem_cons.mp hp with rfl | hp
      · exact h1
      · exact Nat.lt_trans h1 (((ih b w).mp h3).2.1 p hp)
    · rintro ⟨h1, h2, h3⟩
      exact ⟨⟨h2 (b, w) List.mem_cons_self, h1⟩, h3⟩

theorem Mem.above_write {b : Nat} {m : Mem} (h : Mem.above b m) {a : Nat} (ha : b < a) (v : Byte) :
    Mem.above b (Mem.write m a v) := by
  induction m with
  | nil =>
    simp only [Mem.write]
    split
    · exact h
    · intro p hp; simp at hp; subst hp; exact ha
  | cons p m ih =>
    obtain ⟨c, w⟩ := p
    have hc : b < c := h (c, w) List.mem_cons_self
    have hm : Mem.above b m := fun p hp => h p (List.mem_cons_of_mem _ hp)
    simp only [Mem.write]
    split
    · intro p hp
      rcases List.mem_cons.mp hp with rfl | hp
      · exact hc
      · exact ih hm p hp
    · split
      · split
        · exact hm
        · intro p hp
          rcases List.mem_cons.mp hp with rfl | hp
          · exact ha
          · exact hm p hp
      · split
        · exact h
        · intro p hp
          rcases List.mem_cons.mp hp with rfl | hp
          · exact ha
          · exact h p hp

/-- A write keeps the canonical form. -/
theorem Mem.wf_write (m : Mem) (a : Nat) (v : Byte) (h : Mem.wf m = true) : Mem.wf (Mem.write m a v) = true := by
  induction m with
  | nil =>
    simp only [Mem.write]
    split
    · rfl
    · next hv => simp only [Mem.wf, bne_iff_ne]; exact hv
  | cons p m ih =>
    obtain ⟨b, w⟩ := p
    obtain ⟨hw, hb, hm⟩ := (Mem.wf_cons b w m).mp h
    simp only [Mem.write]
    split
    · next hlt => exact (Mem.wf_cons _ _ _).mpr ⟨hw, Mem.above_write hb hlt v, ih hm⟩
    · next hlt =>
      split
      · next he =>
        subst he
        split
        · exact hm
        · next hv => exact (Mem.wf_cons _ _ _).mpr ⟨hv, hb, hm⟩
      · next hne =>
        split
        · exact h
        · next hv =>
          refine (Mem.wf_cons _ _ _).mpr ⟨hv, ?_, h⟩
          have hab : a < b := by omega
          intro p hp
          rcases List.mem_cons.mp hp with rfl | hp
          · exact hab
          · exact Nat.lt_trans hab (hb p hp)

/-- Writing bytes one after another keeps the canonical form. -/
theorem Mem.wf_writeBytes (m : Mem) (a : Nat) (bs : List Byte) (h : Mem.wf m = true) :
    Mem.wf (Mem.writeBytes m a bs) = true := by
  induction bs generalizing m a with
  | nil => exact h
  | cons b bs ih => exact ih _ _ (Mem.wf_write m a b h)

/-- Dropping bytes keeps the canonical form. -/
theorem Mem.wf_filter (m : Mem) (f : Host.Cell → Bool) (h : Mem.wf m = true) : Mem.wf (m.filter f) = true := by
  induction m with
  | nil => rfl
  | cons p m ih =>
    obtain ⟨a, v⟩ := p
    obtain ⟨hv, ha, hm⟩ := (Mem.wf_cons a v m).mp h
    rw [List.filter_cons]
    split
    · refine (Mem.wf_cons _ _ _).mpr ⟨hv, ?_, ih hm⟩
      intro p hp
      exact ha p (List.mem_filter.mp hp).1
    · exact ih hm

/-- A byte below every listed address reads as zero. -/
theorem Mem.byte_of_above {m : Mem} {a : Nat} (h : Mem.above a m) : Mem.byte m a = 0 := by
  cases m with
  | nil => rfl
  | cons p m =>
    obtain ⟨b, w⟩ := p
    have hb : a < b := h (b, w) List.mem_cons_self
    simp [Mem.byte, hb, Nat.ne_of_gt hb]

/-- A byte reads as the last value written to it. -/
theorem Mem.byte_write_self (m : Mem) (a : Nat) (v : Byte) (h : Mem.wf m = true) :
    Mem.byte (Mem.write m a v) a = v := by
  induction m with
  | nil =>
    simp only [Mem.write]
    split
    · next hv => simp [Mem.byte, hv]
    · simp [Mem.byte]
  | cons p m ih =>
    obtain ⟨b, w⟩ := p
    obtain ⟨hw, hb, hm⟩ := (Mem.wf_cons b w m).mp h
    simp only [Mem.write]
    split
    · next hlt =>
      simp only [Mem.byte]
      rw [if_neg (Nat.ne_of_lt hlt), if_neg (by omega)]
      exact ih hm
    · next hlt =>
      split
      · next he =>
        subst he
        split
        · next hv => rw [Mem.byte_of_above hb, hv]
        · simp [Mem.byte]
      · next hne =>
        split
        · next hv =>
          simp only [Mem.byte]
          rw [if_neg hne, if_pos (by omega), hv]
        · simp [Mem.byte]

/-- Every other byte keeps its value. -/
theorem Mem.byte_write_ne (m : Mem) (a x : Nat) (v : Byte) (hx : x ≠ a) (h : Mem.wf m = true) :
    Mem.byte (Mem.write m a v) x = Mem.byte m x := by
  induction m with
  | nil =>
    simp only [Mem.write]
    split
    · rfl
    · simp only [Mem.byte]
      rw [if_neg (Ne.symm hx)]
      split <;> rfl
  | cons p m ih =>
    obtain ⟨b, w⟩ := p
    obtain ⟨hw, hb, hm⟩ := (Mem.wf_cons b w m).mp h
    simp only [Mem.write]
    split
    · next hlt => simp only [Mem.byte, ih hm]
    · next hlt =>
      split
      · next he =>
        subst he
        split
        · next hv =>
          simp only [Mem.byte]
          rw [if_neg (Ne.symm hx)]
          split
          · next hlt2 => exact Mem.byte_of_above fun p hp => Nat.lt_trans hlt2 (hb p hp)
          · rfl
        · simp only [Mem.byte]
          rw [if_neg (Ne.symm hx), if_neg (Ne.symm hx)]
      · next hne =>
        split
        · rfl
        · simp only [Mem.byte]
          rw [if_neg (Ne.symm hx)]
          by_cases hxa : x < a
          · rw [if_pos hxa, if_neg (by omega), if_pos (by omega)]
          · rw [if_neg hxa]

/-- A byte outside the written bytes keeps its value. -/
theorem Mem.byte_writeBytes_ne (m : Mem) (a x : Nat) (bs : List Byte) (hx : x < a ∨ a + bs.length ≤ x)
    (h : Mem.wf m = true) : Mem.byte (Mem.writeBytes m a bs) x = Mem.byte m x := by
  induction bs generalizing m a with
  | nil => rfl
  | cons b bs ih =>
    simp only [List.length_cons] at hx
    rw [Mem.writeBytes, ih _ _ (by omega) (Mem.wf_write m a b h), Mem.byte_write_ne _ _ _ _ (by omega) h]

/-- The bytes written read back. -/
theorem Mem.byte_writeBytes (m : Mem) (a k : Nat) (bs : List Byte) (hk : k < bs.length) (h : Mem.wf m = true) :
    Mem.byte (Mem.writeBytes m a bs) (a + k) = bs.getD k 0 := by
  induction bs generalizing m a k with
  | nil => simp at hk
  | cons b bs ih =>
    cases k with
    | zero =>
      rw [Mem.writeBytes, Mem.byte_writeBytes_ne _ _ _ _ (by omega) (Mem.wf_write m a b h)]
      simpa using Mem.byte_write_self m a b h
    | succ k =>
      rw [Mem.writeBytes, show a + (k + 1) = (a + 1) + k by omega,
        ih _ _ _ (by simpa using hk) (Mem.wf_write m a b h)]
      simp

/-- Bytes that no write touched read as before. -/
theorem Mem.bytes_writeBytes_ne (m : Mem) (a x n : Nat) (bs : List Byte) (hx : x + n ≤ a ∨ a + bs.length ≤ x)
    (h : Mem.wf m = true) : Mem.bytes (Mem.writeBytes m a bs) x n = Mem.bytes m x n := by
  unfold Mem.bytes
  apply List.map_congr_left
  intro i hi
  have hi : i < n := List.mem_range.mp hi
  exact Mem.byte_writeBytes_ne m a (x + i) bs (by omega) h

/-- Bytes written together read back together. -/
theorem Mem.bytes_writeBytes_self (m : Mem) (a : Nat) (bs : List Byte) (h : Mem.wf m = true) :
    Mem.bytes (Mem.writeBytes m a bs) a bs.length = bs := by
  apply List.ext_getElem
  · simp [Mem.bytes]
  · intro i h1 h2
    simp only [Mem.bytes, List.getElem_map, List.getElem_range]
    rw [Mem.byte_writeBytes m a i bs h2 h]
    simp [h2]

@[simp] theorem leBytes_length (n v : Nat) : (leBytes n v).length = n := by
  induction n generalizing v with
  | zero => rfl
  | succ n ih => simp [leBytes, ih]

/-- A number's bytes give the number back. -/
theorem leNat_leBytes (n v : Nat) : leNat (leBytes n v) = v % 256 ^ n := by
  induction n generalizing v with
  | zero => simp [leBytes, leNat, Nat.mod_one]
  | succ n ih =>
    simp only [leBytes, leNat, ih, BitVec.toNat_ofNat]
    rw [show 256 ^ (n + 1) = 256 * 256 ^ n by rw [Nat.pow_succ, Nat.mul_comm], Nat.mod_mul]

end Sys2Proof.Machine
end

