-- ==== Sys2Proof/Laws/Split.lean ====
section
/-! SUPPORT. The shared operations on the executing split, once each: issue where nothing keeps the instruction from
executing, the registers after a write, and the run's advance. -/

namespace Sys2Proof.Machine

/-! ### Who executes -/

theorem cxOf_fields {s : State} {wk e : Nat} {c : Cx} (h : cxOf s wk e = some c) :
    c.s = s ∧ c.wk = wk ∧ c.e = e ∧ Tab.get? s.warps wk = some c.w ∧ Tab.get? c.w.splits e = some c.sp := by
  unfold cxOf at h
  split at h
  · cases h
  · next w hw =>
    split at h
    · cases h
    · next sp hsp => cases h; exact ⟨rfl, rfl, rfl, hw, hsp⟩

theorem executing_focus {s : State} {c : Cx} (h : executing s = some c) :
    s.focus = .split c.wk c.e ∧ cxOf s c.wk c.e = some c ∧ c.s = s := by
  unfold executing at h
  split at h
  · next wk e hf =>
    obtain ⟨h1, h2, h3, -, -⟩ := cxOf_fields h
    subst h2 h3
    exact ⟨hf, h, h1⟩
  · cases h
  · cases h

theorem running_focus {s : State} {x : Ex} (h : running s = some x) : s.focus = .engine x.g ∧ exOf s x.g = some x ∧ x.s = s := by
  unfold running at h
  split at h
  · next g hf =>
    have : x.g = g ∧ x.s = s := by
      unfold exOf at h
      split at h
      · cases h
      · split at h
        · cases h
        · split at h
          · cases h; exact ⟨rfl, rfl⟩
          · cases h
    obtain ⟨h1, h2⟩ := this
    subst h1
    exact ⟨hf, h, h2⟩
  · cases h
  · cases h

/-- Where nothing keeps it from executing, an instruction executes. -/
theorem Cx.issue_of_issues {c : Cx} {i : Instr} (h : c.issues i = true) (f : Cx → Out) : c.issue i f = f (c.settle i) := by
  simp only [Cx.issues, Bool.and_eq_true, Bool.not_eq_true', Option.isNone_iff_eq_none] at h
  obtain ⟨⟨⟨⟨⟨⟨⟨h1, h0⟩, h2⟩, h3⟩, h4⟩, h5⟩, h6⟩, h7⟩ := h
  unfold Cx.issue
  rw [if_neg (by simp [h1]), h0]
  dsimp only
  split
  · next k hk => rw [hk] at h2; cases h2
  · simp [h3, h4, h5, h6, h7]

theorem issue_of_ready {i : Instr} {s : State} {c : Cx} (h : Ready i s c) (f : Cx → Out) (g : Ex → Out) :
    issue i s f g = f (c.settle i) := by
  obtain ⟨hf, hc, -⟩ := executing_focus h.1
  simp only [issue, hf, hc]
  exact Cx.issue_of_issues h.2 f

theorem issueSplit_of_ready {i : Instr} {s : State} {c : Cx} (h : Ready i s c) (f : Cx → Out) :
    issueSplit i s f = f (c.settle i) := issue_of_ready h f _

theorem Ex.issue_of_issues {x : Ex} {i : Instr} (h : x.issues i = true) (f : Ex → Out) : x.issue i f = f x := by
  simp only [Ex.issues, Bool.and_eq_true, Bool.not_eq_true', Option.isNone_iff_eq_none, beq_iff_eq] at h
  obtain ⟨⟨⟨h1, h2⟩, h3⟩, h4⟩ := h
  unfold Ex.issue
  rw [h1]
  simp [h2, h3, h4]

theorem issue_of_engineReady {i : Instr} {s : State} {x : Ex} (h : EngineReady i s x) (f : Cx → Out) (g : Ex → Out) :
    issue i s f g = g x := by
  obtain ⟨hf, hx, -⟩ := running_focus h.1
  simp only [issue, hf, hx]
  exact Ex.issue_of_issues h.2 g

theorem issueEngine_of_engineReady {i : Instr} {s : State} {x : Ex} (h : EngineReady i s x) (f : Ex → Out) :
    issueEngine i s f = f x := issue_of_engineReady h _ f

/-! ### Scalars and the activity mask -/

@[simp] theorem Split.scalar_zero (sp : Split) : sp.scalar 0 = 0 := by simp [Split.scalar]

theorem maskWord_getElem (m : Mask) (g i : Nat) (hi : i < 32) : (maskWord m g).getLsbD i = m.getLsbD (32 * g + i) := by
  simp [maskWord, hi]

theorem writeMaskWord_getLsbD (lanes act : Mask) (g : Nat) (v : Word) (l : Nat) (hl : l < 96) :
    (writeMaskWord lanes act g v).getLsbD l =
      if 32 * g ≤ l ∧ l < 32 * g + 32 then v.getLsbD (l - 32 * g) && lanes.getLsbD l else act.getLsbD l := by
  have hones : ∀ k, (0xFFFFFFFF#96).getLsbD k = decide (k < 32) := by
    intro k
    have h : (0xFFFFFFFF#96) = BitVec.setWidth 96 (BitVec.allOnes 32) := by decide
    rw [h, BitVec.getLsbD_setWidth, BitVec.getLsbD_allOnes]
    by_cases hk : k < 32
    · simp [hk]; omega
    · simp [hk]
  simp only [writeMaskWord, BitVec.getLsbD_or, BitVec.getLsbD_and, BitVec.getLsbD_not, BitVec.getLsbD_shiftLeft, hones,
    BitVec.getLsbD_setWidth, hl, decide_true, Bool.true_and]
  by_cases h1 : l < 32 * g
  · have : ¬(32 * g ≤ l ∧ l < 32 * g + 32) := by omega
    simp [h1, this]
  · by_cases h2 : l < 32 * g + 32
    · have h3 : l - 32 * g < 32 := by omega
      have h4 : 32 * g ≤ l ∧ l < 32 * g + 32 := by omega
      have h5 : l - 32 * g < 96 := by omega
      simp [h1, h3, h4, h5]
    · have h3 : ¬(l - 32 * g < 32) := by omega
      have h4 : ¬(32 * g ≤ l ∧ l < 32 * g + 32) := by omega
      simp [h1, h3, h4]

theorem Split.setScalar_scalar_ne (sp : Split) (n m : Nat) (v : Word) (p : Bool) (h : m ≠ n) :
    (sp.setScalar n v p).scalar m = sp.scalar m := by
  by_cases hn : n = 0
  · simp [Split.setScalar, hn]
  · by_cases hk : 61 ≤ n ∧ n ≤ 63
    · simp only [Split.setScalar, if_neg hn, if_pos hk, Split.scalar]
      by_cases hm : m = 0
      · simp [hm]
      · by_cases hm2 : 61 ≤ m ∧ m ≤ 63
        · rw [if_neg hm, if_pos hm2, if_neg hm, if_pos hm2]
          apply BitVec.eq_of_getLsbD_eq
          intro i hi
          rw [maskWord_getElem _ _ _ hi, maskWord_getElem _ _ _ hi, writeMaskWord_getLsbD _ _ _ _ _ (by omega)]
          rw [if_neg (by omega)]
        · rw [if_neg hm, if_neg hm2, if_neg hm, if_neg hm2]
    · simp only [Split.setScalar, if_neg hn, if_neg hk, Split.scalar, setAt]
      have : (sp.scalars.set n v).getD m 0 = sp.scalars.getD m 0 := by
        simp only [List.getD_eq_getElem?_getD, List.getElem?_set]
        rw [if_neg (Ne.symm h)]
      rw [this]

/-- The value a write of a scalar leaves there: nothing in s0, the lanes of the split in s61 to s63. -/
def Split.landed (sp : Split) (n : Nat) (v : Word) : Word :=
  if n = 0 then 0 else if 61 ≤ n ∧ n ≤ 63 then v &&& maskWord sp.lanes (n - 61) else v

theorem Split.setScalar_scalar_self (sp : Split) (n : Nat) (v : Word) (p : Bool) (hn : n < sp.scalars.length) :
    (sp.setScalar n v p).scalar n = sp.landed n v := by
  by_cases h0 : n = 0
  · simp [Split.setScalar, Split.landed, h0]
  · by_cases hk : 61 ≤ n ∧ n ≤ 63
    · simp only [Split.setScalar, Split.landed, if_neg h0, if_pos hk, Split.scalar]
      apply BitVec.eq_of_getLsbD_eq
      intro i hi
      rw [maskWord_getElem _ _ _ hi, writeMaskWord_getLsbD _ _ _ _ _ (by omega), if_pos (by omega), BitVec.getLsbD_and,
        maskWord_getElem _ _ _ hi]
      congr 2; omega
    · simp only [Split.setScalar, Split.landed, if_neg h0, if_neg hk, Split.scalar, setAt]
      simp [List.getD_eq_getElem?_getD, hn]

theorem Split.setScalar_rest (sp : Split) (n : Nat) (v : Word) (p : Bool) : (sp.setScalar n v p).rest = sp.rest := by
  by_cases h0 : n = 0
  · simp [Split.setScalar, h0]
  · by_cases hk : 61 ≤ n ∧ n ≤ 63
    · simp only [Split.setScalar, if_neg h0, if_pos hk]; rfl
    · simp only [Split.setScalar, if_neg h0, if_neg hk]; rfl

theorem Split.setScalar_fields (sp : Split) (n : Nat) (v : Word) (p : Bool) :
    (sp.setScalar n v p).pend = sp.pend ∧ (sp.setScalar n v p).fpst = sp.fpst ∧ (sp.setScalar n v p).temps = sp.temps ∧
    (sp.setScalar n v p).lanes = sp.lanes ∧ (sp.setScalar n v p).mode = sp.mode ∧
    (sp.setScalar n v p).scalars.length = sp.scalars.length := by
  by_cases h0 : n = 0
  · simp [Split.setScalar, h0]
  · by_cases hk : 61 ≤ n ∧ n ≤ 63
    · simp [Split.setScalar, if_neg h0, if_pos hk]
    · simp [Split.setScalar, if_neg h0, if_neg hk, setAt]

theorem Cx.putScalar_scalar_ne (c : Cx) (n m : Nat) (v : Word) (h : m ≠ n) : (c.putScalar n v).sp.scalar m = c.sp.scalar m :=
  c.sp.setScalar_scalar_ne n m v false h

theorem Cx.putScalar_scalar_self (c : Cx) (n : Nat) (v : Word) (hn : n < c.sp.scalars.length) :
    (c.putScalar n v).sp.scalar n = c.sp.landed n v := c.sp.setScalar_scalar_self n v false hn

theorem Pend.keep_erased (p : Pend) (vec : Bool) (r : Nat) (m : Mask) :
    { p.keep vec r m with settled := false, kept := [] } = { p with settled := false, kept := [] } := by
  unfold Pend.keep
  split <;> rfl

theorem outstanding_keep (c d : Cx) (vec : Bool) (r : Nat) (m : Mask)
    (h : d.sp.pend = c.sp.pend.map fun p => p.keep vec r m) : d.outstanding = c.outstanding := by
  simp only [Cx.outstanding, h, List.map_map]
  apply List.map_congr_left
  intro p _
  exact p.keep_erased vec r m

theorem Cx.settle_outstanding (c : Cx) (i : Instr) : (c.settle i).outstanding = c.outstanding := by
  simp only [Cx.outstanding, Cx.settle, List.map_map]
  apply List.map_congr_left
  intro p _
  simp only [Function.comp]
  split <;> rfl

/-- Settling changes nothing that `Keeps` speaks of. -/
theorem Cx.settle_keeps (c : Cx) (i : Instr) : Keeps Writes.none c (c.settle i) :=
  ⟨rfl, rfl, rfl, rfl, rfl, fun _ _ _ => rfl, fun _ _ _ _ => rfl, fun _ _ _ _ => rfl, c.settle_outstanding i, rfl, fun _ => rfl⟩

/-- A scalar write changes that scalar. -/
theorem Cx.putScalar_keeps (c : Cx) (n : Nat) (v : Word) :
    Keeps { Writes.none with scalars := [n] } c (c.putScalar n v) := by
  refine ⟨rfl, rfl, rfl, rfl, ?_, ?_, fun r l _ _ => ?_, fun _ _ _ _ => rfl, ?_, ?_, fun _ => rfl⟩
  · exact congrArg (fun x : Split => { x with pend := [] }) (c.sp.setScalar_rest n v false)
  · intro m _ hm
    exact c.putScalar_scalar_ne n m v (by simpa using hm)
  · have h := (c.sp.setScalar_fields n v false).2.2.1
    show (Cx.row (c.putScalar n v) r).getD l 0 = (c.row r).getD l 0
    unfold Cx.row
    split
    · rfl
    · show (Tab.getD (c.sp.setScalar n v false).temps (r - 120) zeroRow).getD l 0 = _
      rw [h]
  · exact outstanding_keep c _ false n 1 rfl
  · exact (c.sp.setScalar_fields n v false).2.1

/-! ### Vector registers and predicates -/

theorem mergeFrom_getD (m : Mask) (i : Nat) (old new : Row) (l : Nat) (h : ¬(m.getLsbD (i + l) = true)) :
    (mergeFrom m i old new).getD l 0 = old.getD l 0 := by
  induction old generalizing i new l with
  | nil => simp [mergeFrom]
  | cons a old ih =>
    cases new with
    | nil => simp [mergeFrom]
    | cons b new =>
      cases l with
      | zero =>
        have h0 : m.getLsbD i = false := by simpa using h
        simp [mergeFrom, h0]
      | succ l => simpa [mergeFrom] using ih (i + 1) new l (by rwa [show i + 1 + l = i + (l + 1) by omega])

theorem mergeFrom_getD_in (m : Mask) (i : Nat) (old new : Row) (l : Nat) (h : m.getLsbD (i + l) = true)
    (ho : l < old.length) (hn : l < new.length) : (mergeFrom m i old new).getD l 0 = new.getD l 0 := by
  induction old generalizing i new l with
  | nil => simp at ho
  | cons a old ih =>
    cases new with
    | nil => simp at hn
    | cons b new =>
      cases l with
      | zero =>
        have h0 : m.getLsbD i = true := by simpa using h
        simp [mergeFrom, h0]
      | succ l =>
        simpa [mergeFrom] using ih (i + 1) new l (by rwa [show i + 1 + l = i + (l + 1) by omega])
          (by simpa using ho) (by simpa using hn)

@[simp] theorem mergeFrom_length (m : Mask) (i : Nat) (old new : Row) : (mergeFrom m i old new).length = old.length := by
  induction old generalizing i new with
  | nil => simp [mergeFrom]
  | cons a old ih =>
    cases new with
    | nil => simp [mergeFrom]
    | cons b new => simp [mergeFrom, ih]

theorem Tab.getD_put {α : Type} (t : Tab α) (k j : Nat) (v d : α) :
    Tab.getD (Tab.put t k v) j d = if j = k then v else Tab.getD t j d := by
  simp only [Tab.getD, Tab.get?_put]
  split <;> rfl

theorem Cx.putRow_row (c : Cx) (r q : Nat) (m : Mask) (new : Row) :
    (c.putRow r m new).row q = if q = r then mergeRow m (c.row r) new else c.row q := by
  unfold Cx.putRow
  by_cases hr : r < 120
  · simp only [hr, if_true]
    unfold Cx.row
    simp only [Tab.getD_put]
    by_cases hq : q < 120
    · simp only [hq, if_true, hr]
    · have hne : q ≠ r := by omega
      simp only [hq, if_false, hne]
  · simp only [hr, if_false]
    unfold Cx.row
    simp only [Tab.getD_put]
    by_cases hq : q < 120
    · have hne : q ≠ r := by omega
      simp only [hq, if_true, hne, if_false]
    · simp only [hq, if_false, hr]
      by_cases he : q = r
      · simp [he]
      · have : q - 120 ≠ r - 120 := by omega
        simp [he, this]

theorem Cx.putRow_fields (c : Cx) (r : Nat) (m : Mask) (new : Row) :
    (c.putRow r m new).s = c.s ∧ (c.putRow r m new).wk = c.wk ∧ (c.putRow r m new).e = c.e ∧
    (c.putRow r m new).w.rest = c.w.rest ∧ (c.putRow r m new).sp.rest = c.sp.rest ∧
    (∀ n, (c.putRow r m new).sp.scalar n = c.sp.scalar n) ∧ (∀ n, (c.putRow r m new).pred n = c.pred n) ∧
    (c.putRow r m new).outstanding = c.outstanding ∧ (c.putRow r m new).sp.fpst = c.sp.fpst ∧
    (c.putRow r m new).w.srCount = c.w.srCount := by
  unfold Cx.putRow
  by_cases hr : r < 120
  · simp only [hr, if_true]
    refine ⟨trivial, trivial, trivial, rfl, rfl, fun _ => rfl, fun _ => rfl, ?_, trivial, trivial⟩
    exact outstanding_keep c _ true r m rfl
  · simp only [hr, if_false]
    exact ⟨trivial, trivial, trivial, trivial, rfl, fun _ => rfl, fun _ => rfl, rfl, trivial, trivial⟩

/-- A vector write changes that register in those lanes. -/
theorem Cx.putRow_keeps (c : Cx) (r : Nat) (m : Mask) (new : Row) :
    Keeps { Writes.none with vectors := [r], lanes := m } c (c.putRow r m new) := by
  obtain ⟨h1, h2, h3, h4, h5, h6, h7, h8, h9, h10⟩ := c.putRow_fields r m new
  refine ⟨h1, h2, h3, h4, h5, fun n _ _ => h6 n, ?_, fun n l _ _ => by rw [h7], h8, h9, fun _ => h10⟩
  intro q l _ hq
  unfold Cx.lane
  rw [c.putRow_row]
  split
  · next he =>
    subst he
    have : ¬(m.getLsbD (0 + l) = true) := by
      intro hm; exact hq ⟨by simp, by simpa using hm⟩
    exact mergeFrom_getD m 0 _ _ l this
  · rfl

/-- The lanes written hold the new values. -/
theorem Cx.putRow_lane (c : Cx) (r : Nat) (m : Mask) (new : Row) (l : Nat) (h : m.getLsbD l = true)
    (ho : l < (c.row r).length) (hn : l < new.length) : (c.putRow r m new).lane r l = new.getD l 0 := by
  unfold Cx.lane
  rw [c.putRow_row, if_pos rfl]
  exact mergeFrom_getD_in m 0 _ _ l (by simpa using h) ho hn

theorem Tab.get?_mem {α : Type} {t : Tab α} {k : Nat} {v : α} (h : Tab.get? t k = some v) : (k, v) ∈ t := by
  induction t with
  | nil => cases h
  | cons p t ih =>
    obtain ⟨a, w⟩ := p
    simp only [Tab.get?] at h
    split at h
    · next he => cases h; subst he; exact List.mem_cons_self
    · exact List.mem_cons_of_mem _ (ih h)

/-- Who executes in a state whose register tables have their sizes has his own so. -/
theorem shaped_of_executing {s : State} {c : Cx} (h : s.shaped = true) (hc : executing s = some c) : c.shaped = true := by
  obtain ⟨-, hx, -⟩ := executing_focus hc
  obtain ⟨-, -, -, hw, hsp⟩ := cxOf_fields hx
  simp only [State.shaped, Bool.and_eq_true, List.all_eq_true] at h
  have hW := h.1 _ (Tab.get?_mem hw)
  simp only [Warp.shaped, Bool.and_eq_true, List.all_eq_true] at hW
  have hS := hW.1.2 _ (Tab.get?_mem hsp)
  simp only [Split.shaped, Bool.and_eq_true] at hS
  simp only [Cx.shaped, Bool.and_eq_true, List.all_eq_true]
  exact ⟨⟨⟨⟨hS.1.1, hW.1.1.1.1⟩, hW.1.1.1.2⟩, hW.1.1.2⟩, by simpa using hS.1.2⟩

/-- The same of an engine program. -/
theorem shaped_of_running {s : State} {x : Ex} (h : s.shaped = true) (hx : running s = some x) : x.shaped = true := by
  obtain ⟨-, he, -⟩ := running_focus hx
  unfold exOf at he
  split at he
  · cases he
  · next g hg =>
    split at he
    · cases he
    · next en hen =>
      split at he
      · have hxe : x.en = en := by rw [← Option.some.inj he]
        simp only [State.shaped, Bool.and_eq_true, List.all_eq_true] at h
        have hG := h.2 _ (Tab.get?_mem hg)
        rw [hen] at hG
        simpa [Ex.shaped, hxe] using hG
      · cases he

theorem Cx.row_length (c : Cx) (h : c.shaped = true) (r : Nat) : (c.row r).length = 96 := by
  simp only [Cx.shaped, Bool.and_eq_true, beq_iff_eq, List.all_eq_true] at h
  obtain ⟨⟨-, hv⟩, ht⟩ := h
  unfold Cx.row
  split
  · simp only [Tab.getD]
    cases hg : Tab.get? c.w.vregs r with
    | none => simp [zeroRow]
    | some v => simpa using hv _ (Tab.get?_mem hg)
  · simp only [Tab.getD]
    cases hg : Tab.get? c.sp.temps (r - 120) with
    | none => simp [zeroRow]
    | some v => simpa using ht _ (Tab.get?_mem hg)

theorem Cx.putPred_pred (c : Cx) (n q : Nat) (m v : Mask) (hn : n < c.w.preds.length) :
    (c.putPred n m v).pred q = if q = n ∧ n ≠ 0 then (c.pred n &&& ~~~m) ||| (v &&& m) else c.pred q := by
  unfold Cx.putPred
  by_cases h0 : n = 0
  · simp [h0]
  · simp only [h0, if_false, Cx.pred, ne_eq, not_false_eq_true, and_true]
    by_cases hq : q = 0
    · have : q ≠ n := by omega
      simp [hq, Ne.symm h0]
    · simp only [hq, if_false, updAt, List.getD_eq_getElem?_getD, List.getElem?_modify]
      by_cases he : q = n
      · subst he; simp [hn]
      · simp [he, Ne.symm he]

/-! ### Moving on -/

theorem backReg_fields (p : Pend) (c : Cx) (k : Nat) :
    (backReg p c k).s = c.s ∧ (backReg p c k).wk = c.wk ∧ (backReg p c k).e = c.e := by
  unfold backReg
  simp only
  split
  · exact ⟨rfl, rfl, rfl⟩
  · split
    · split <;> exact ⟨rfl, rfl, rfl⟩
    · exact ⟨rfl, rfl, rfl⟩

theorem Cx.backAll_fields (c : Cx) (p : Pend) : (c.backAll p).s = c.s ∧ (c.backAll p).wk = c.wk ∧ (c.backAll p).e = c.e := by
  unfold Cx.backAll
  generalize List.range p.dest.count = l
  induction l generalizing c with
  | nil => exact ⟨rfl, rfl, rfl⟩
  | cons k l ih =>
    obtain ⟨h1, h2, h3⟩ := ih (backReg p c k)
    obtain ⟨g1, g2, g3⟩ := backReg_fields p c k
    exact ⟨h1.trans g1, h2.trans g2, h3.trans g3⟩

theorem backDue_fields (earlier l : List Pend) (c : Cx) :
    (backDue earlier l c).2.s = c.s ∧ (backDue earlier l c).2.wk = c.wk ∧ (backDue earlier l c).2.e = c.e := by
  induction l generalizing earlier c with
  | nil => exact ⟨rfl, rfl, rfl⟩
  | cons p l ih =>
    simp only [backDue]
    split
    · by_cases hc : c.maskClash (c.backAll p) = true
      · simpa only [hc, if_true] using ih _ c
      · obtain ⟨h1, h2, h3⟩ := ih ({ p with done := true, mismatch := p.mismatch || c.maskClash (c.backAll p) } :: earlier) (c.backAll p)
        obtain ⟨g1, g2, g3⟩ := c.backAll_fields p
        rw [if_neg hc]
        exact ⟨h1.trans g1, h2.trans g2, h3.trans g3⟩
    · exact ih (p :: earlier) c

/-- Write-back touches nothing outside the executing warp. -/
theorem Cx.settleBacks_fields (c : Cx) : c.settleBacks.s = c.s ∧ c.settleBacks.wk = c.wk ∧ c.settleBacks.e = c.e :=
  backDue_fields [] c.sp.pend c

/-- Moving on touches nothing outside the executing warp. -/
theorem Cx.advance_fields (c : Cx) : c.advance.s = c.s ∧ c.advance.wk = c.wk ∧ c.advance.e = c.e :=
  Cx.settleBacks_fields _

/-- With no result outstanding, moving on only moves the run on and clears the stall and the operand latch. -/
theorem Cx.advance_calm (c : Cx) (h : c.sp.pend = []) :
    c.advance = { c with sp := { c.sp with
      run := { c.sp.run with pos := c.sp.run.pos + 1 }, stall := .none, status := .issuing, latchPoison := false, stuck := 0,
      faults := c.sp.faults.map fun f => { f with window := f.window.map fun n => n - 1 } } } := by
  simp [Cx.advance, Cx.settleBacks, Split.tick, h, backDue]

/-! ### One effect after another -/

@[simp] theorem Cx.settle_scalar (c : Cx) (i : Instr) (n : Nat) : (c.settle i).sp.scalar n = c.sp.scalar n := rfl

/-- An effect after one that changes nothing. -/
theorem Keeps.after_nothing {ws : Writes} {c d e : Cx} (h : Keeps Writes.none c d) (g : Keeps ws d e) : Keeps ws c e := by
  obtain ⟨h1, h2, h3, h4, h5, h6, h7, h8, h9, h10, h11⟩ := h
  obtain ⟨g1, g2, g3, g4, g5, g6, g7, g8, g9, g10, g11⟩ := g
  refine ⟨g1.trans h1, g2.trans h2, g3.trans h3, g4.trans h4, g5.trans h5,
    fun n hn hm => (g6 n hn hm).trans (h6 n hn (by simp [Writes.none])),
    fun r l hl hm => (g7 r l hl hm).trans (h7 r l hl (by simp [Writes.none])),
    fun n l hl hm => (g8 n l hl hm).trans (h8 n l hl (by simp [Writes.none])), g9.trans h9, ?_, fun hd => (g11 hd).trans (h11 rfl)⟩
  have same : d.sp.fpst = c.sp.fpst := h10
  rw [← same]
  exact g10

/-- A scalar write keeps the tables' sizes. -/
theorem Cx.putScalar_shaped (c : Cx) (n : Nat) (v : Word) : (c.putScalar n v).shaped = c.shaped := by
  have h := c.sp.setScalar_fields n v false
  simp only [Cx.shaped, Cx.putScalar]
  rw [h.2.2.1, h.2.2.2.2.2]

/-- A scalar write whose activity mask passes the check of R31 moves on. -/
theorem Cx.scalarDone_of_passes {c d : Cx} (hs : isShadow c.s c.w = false ∨ d.sp.act = c.sp.act ∨
    d.sp.act.extractLsb' 0 48 = d.sp.act.extractLsb' 48 48) : c.scalarDone d = .next d.advance.commit := by
  have h : c.maskClash d = false := by
    rcases hs with hs | hs | hs <;> simp [Cx.maskClash, hs]
  rw [Cx.scalarDone, h]
  rfl

/-- A stall leaves the split at its word. -/
theorem Cx.stall_next (c : Cx) (why : Stall) : c.stall why = .next { Cx.commit { c with
    sp := { c.sp with status := .stalled, stall := why } } with focus := .none } := rfl

end Sys2Proof.Machine
end

