-- ==== Sys2Proof/Tests/Slice0.lean ====
section
/-! SUPPORT. Small checks: words written out from the manual's encodings, ill-formed terms, one step each on a small state,
and for each statement's hypotheses a state and operands that meet them. -/

namespace Sys2Proof.Tests

open Sys2Proof.Machine Sys2Proof.Claims

set_option Elab.async false

/-! ### Small states -/

/-- The number of an instruction's word. -/
def wordOf (i : Instr) : Nat := match encode i with | some w => w.toNat | none => 0

/-- The machine with a word placed where the next step finds it. -/
def boot (w : Nat) : State := State.reset.withFetchWord 32 w

/-- The same with its split changed. -/
def splitAt (w : Nat) (f : Cx → Cx) : State :=
  match executing (boot w) with
  | some c => (f c).commit
  | none => boot w

/-- The same with its engine program changed. -/
def engineAt (w : Nat) (f : Ex → Ex) : State :=
  match running (boot w) with
  | some x => { (f x).commit with focus := .engine x.g }
  | none => boot w

/-- A property of the executing split. -/
def onSplit (s : State) (p : Cx → Bool) : Bool := match executing s with | some c => p c | none => false

/-- A property of the engine program that executes. -/
def onEngine (s : State) (p : Ex → Bool) : Bool := match running s with | some x => p x | none => false

/-- A property of the split that executes after a step. -/
def afterStep (s : State) (p : Cx → Bool) : Bool := match step s with | .next t => onSplit t p | _ => false

/-- The booted state with its split changed and nobody executing. -/
def idle (f : Cx → Cx) : State := { splitAt 0 f with focus := .none }

/-- The split of warp 0 in entry 0. -/
def first (s : State) (p : Cx → Bool) : Bool := match cxOf s 0 0 with | some c => p c | none => false

/-- In a state made so, the split is shaped, the instruction is well formed, nothing keeps it from executing, and p. -/
def meets (i : Instr) (f : Cx → Cx) (p : Cx → Bool) : Bool :=
  onSplit (splitAt (wordOf i) f) fun c => wellFormed i && c.shaped && c.issues i && p c

/-- The same in a far task. -/
def meetsFar (i : Instr) (f : Cx → Cx) (p : Cx → Bool) : Bool :=
  onSplit (splitAt 0x98040000 f) fun c => wellFormed i && c.shaped && c.issues i && p c

/-- The same for an engine program. -/
def meetsEngine (i : Instr) (f : Ex → Ex) (p : Ex → Bool) : Bool :=
  onEngine (engineAt 0xF7600000 f) fun x => wellFormed i && x.shaped && x.issues i && p x

/-- Some scalars with other values. -/
def sc (l : List (Nat × Word)) (c : Cx) : Cx :=
  { c with sp := { c.sp with scalars := l.foldl (fun m p => m.set p.1 p.2) c.sp.scalars } }

/-- Scalars of an engine program. -/
def es (l : List (Nat × Word)) (x : Ex) : Ex :=
  { x with en := { x.en with scalars := l.foldl (fun m p => m.set p.1 p.2) x.en.scalars } }

/-- Some vector registers with other values. -/
def vr (l : List (Nat × (Nat → Word))) (c : Cx) : Cx :=
  { c with w := { c.w with vregs := l.map fun p => (p.1, (List.range 96).map p.2) } }

/-- Another mode. -/
def md (m : Word) (c : Cx) : Cx := { c with sp := { c.sp with mode := m } }

/-- Another activity mask. -/
def am (m : Mask) (c : Cx) : Cx := { c with sp := { c.sp with act := m } }

/-- Another kernel. -/
def kn (f : Kernel → Kernel) (c : Cx) : Cx :=
  { c with s := { c.s with launches := c.s.launches.map fun p => (p.1, { p.2 with kernel := f p.2.kernel }) } }

/-- A shadow launch. -/
def sh : Cx → Cx := kn fun k => { k with shadow := true }

/-- Another workgroup. -/
def wg (f : Workgroup → Workgroup) (c : Cx) : Cx :=
  { c with s := { c.s with wgs := c.s.wgs.map fun p => (p.1, f p.2) } }

/-- Another skein. -/
def sk (f : Skein → Skein) (c : Cx) : Cx :=
  { c with s := { c.s with skeins := c.s.skeins.map fun p => (p.1, f p.2) } }

/-- Another warp. -/
def wp (f : Warp → Warp) (c : Cx) : Cx := { c with w := f c.w }

/-- Another split. -/
def st (f : Split → Split) (c : Cx) : Cx := { c with sp := f c.sp }

/-- A handler for traps. -/
def hd : Cx → Cx := wg fun g => { g with tvec := 0x8000 }

/-- In a handler. -/
def ih : Cx → Cx := st fun sp => { sp with trap := { sp.trap with handler := true, saved := [1, 2, 3, 4] } }

/-- A scalar write passes the check of R31. -/
def p1 (c : Cx) (d : Nat) (v : Word) : Bool := c.maskPasses (c.sp.setScalar d v false).act

/-- A pair write passes it. -/
def p2 (c : Cx) (d : Nat) (lo hi : Word) : Bool :=
  c.maskPasses ((c.sp.setScalar d lo false).setScalar (d + 1) hi false).act

/-! ### Words written out from the encodings of the manual (05_encoding R75 to R96): one for every instruction word -/

/-- A word decodes to an instruction. -/
def reads (p : Word × Instr) : Bool := match decode p.1 with | .ok i => decide (i = p.2) | .error _ => false

/-- A word is refused with a cause. -/
def refuses (r : DecodeError) (w : Word) : Bool := match decode w with | .ok _ => false | .error e => decide (e = r)

theorem test_decode_scalar : List.all [
    (0x00000000, .nop), (0x010C30A0, .sadd 6 12 20), (0x020C30A0, .ssub 6 12 20), (0x030C30A0, .smul 6 12 20),
    (0x040C30A0, .smulh 6 12 20), (0x050C30A0, .smulhn 6 12 20), (0x060C30A0, .sand 6 12 20),
    (0x070C30A0, .sor 6 12 20), (0x080C30A0, .sxor 6 12 20), (0x090C30A0, .sshl 6 12 20), (0x0A0C30A0, .sshr 6 12 20),
    (0x0B0C30A0, .ssra 6 12 20), (0x0C0C30A0, .smin 6 12 20), (0x0D0C30A0, .smax 6 12 20),
    (0x0E0C30A0, .sminn 6 12 20), (0x0F0C30A0, .smaxn 6 12 20), (0x100C3000, .sclz 6 12), (0x110C3000, .spopc 6 12),
    (0x120C30A1, .sbfe 6 12 20 1), (0x130C30A0, .sbfi 6 12 20), (0x140C33F1, .saddi 6 12 0x3f1),
    (0x150C33F1, .sandi 6 12 0x3f1), (0x160C33F1, .sori 6 12 0x3f1), (0x170C33F1, .sxori 6 12 0x3f1),
    (0x180C3003, .sshli 6 12 3), (0x190C3003, .sshri 6 12 3), (0x1A0CFFFD, .smovi 6 0xfffd),
    (0x1A0DFFFD, .smoviHi 6 0xfffd), (0x1B0C30A0, .sadd64 6 12 20), (0x1C0C30A0, .ssub64 6 12 20),
    (0x1D0C30A2, .sshf64 6 12 20 2), (0x1E0C30A2, .scmp 6 12 20 2), (0x1F0C30A0, .ssel 6 12 20)] reads = true := by decide +kernel

theorem test_decode_arithmetic : List.all [
    (0x200C30A2, .vadd 6 12 20 2), (0x210C30A2, .vsub 6 12 20 2), (0x220C30A2, .vmul 6 12 20 2),
    (0x230C30A0, .vmulh 6 12 20), (0x240C30A2, .vfma 6 12 20 2), (0x250C30A0, .vmin 6 12 20),
    (0x260C30A0, .vmax 6 12 20), (0x270C30A0, .vminp 6 12 20), (0x280C30A0, .vmaxp 6 12 20), (0x290C3000, .vabs 6 12),
    (0x2A0C3000, .vneg 6 12), (0x2B0C30A0, .vand 6 12 20), (0x2C0C30A0, .vor 6 12 20), (0x2D0C30A0, .vxor 6 12 20),
    (0x2E0C3000, .vnot 6 12), (0x2F0C30A0, .vshl 6 12 20), (0x300C30A0, .vshr 6 12 20), (0x310C30A0, .vsra 6 12 20),
    (0x320C3000, .vclz 6 12), (0x330C3000, .vpopc 6 12), (0x340C30A1, .vbfe 6 12 20 1), (0x350C30A0, .vbfi 6 12 20),
    (0x360C30A1, .vdot4 6 12 20 1), (0x370C30A2, .vscale 6 12 20 2), (0x380C3000, .vfrac 6 12),
    (0x390C3002, .vrnd 6 12 2), (0x3A0C3000, .vclass 6 12)] reads = true := by decide +kernel

theorem test_decode_immediates_and_functions : List.all [
    (0x400C33F1, .vaddi 6 12 0x3f1), (0x410C33F1, .vmuli 6 12 0x3f1), (0x420C33F1, .vandi 6 12 0x3f1),
    (0x430C33F1, .vori 6 12 0x3f1), (0x440C33F1, .vxori 6 12 0x3f1), (0x450C3014, .vshli 6 12 20),
    (0x460C3014, .vshri 6 12 20), (0x470C3014, .vsrai 6 12 20), (0x480C33F1, .vmini 6 12 0x3f1),
    (0x490C33F1, .vmaxi 6 12 0x3f1), (0x500C3000, .vrcp 6 12), (0x510C3000, .vrsq 6 12), (0x520C3000, .vsqrt 6 12),
    (0x530C3000, .vexp2 6 12), (0x540C3000, .vlog2 6 12), (0x550C3000, .vsin 6 12), (0x560C3000, .vcos 6 12),
    (0x570C3000, .vtanh 6 12), (0x580C3000, .vsigm 6 12), (0x590C3000, .verf 6 12), (0x5A0C31D0, .vcvt 6 12 7 2),
    (0x5B0C3002, .vpack 6 12 2), (0x5C0C3002, .vunpk 6 12 2), (0x5D0C300A, .vqblk 6 12 1 2)] reads = true := by decide +kernel

theorem test_decode_compares_and_moves : List.all [
    (0x60041861, .vcmp 2 6 12 1), (0x61041861, .vcmpi 2 6 12 1), (0x62040413, .pand 2 1 2 1 1),
    (0x63040413, .por 2 1 2 1 1), (0x64040413, .pxor 2 1 2 1 1), (0x65040401, .pmov 2 1 1),
    (0x65041803, .pmovV2p 2 6 1), (0x650C0805, .pmovP2v 6 2 1), (0x660C30A2, .vsel 6 12 20 2),
    (0x670C3001, .vmov 6 12 1), (0x680DFFFD, .vmovi 6 0x1fffd), (0x690CFFFD, .vmovh 6 0xfffd),
    (0x6A0C3001, .vbcs 6 12 1), (0x6B0C30A0, .vget 6 12 20), (0x6C0C30A0, .vput 6 12 20), (0x6D0C0001, .vlid 6 1),
    (0x6E0C3018, .vbnd 6 12 3)] reads = true := by decide +kernel

theorem test_decode_lanes : List.all [
    (0x700C30A2, .vshfl 6 12 20 1), (0x710C30A3, .vshfu 6 12 20 1 1), (0x720C30A3, .vshfd 6 12 20 1 1),
    (0x730C30A3, .vshfx 6 12 20 1 1), (0x740C2801, .vote 6 1 2 1), (0x750C3002, .vred 6 12 2),
    (0x760C300A, .vscan 6 12 1 2), (0x770C3001, .vmatch 6 12 1), (0x780C0000, .width 6)] reads = true := by decide +kernel

theorem test_decode_branches_and_joins : List.all [
    (0x80FFFFFA, .br 0xfffffa), (0x81500005, .bra 2 1 5), (0x82457FF6, .brc 2 10 0x7ff6), (0x83001860, .brx 6 12),
    (0x83001801, .brxU 6), (0x84FFFFFA, .call 0xfffffa), (0x85001800, .ret 6), (0x86040000, .jarm 1),
    (0x87040000, .jarv 1), (0x88040000, .jwait 1), (0x89040000, .jclr 1), (0x8A000000, .yield), (0x8B000000, .exit),
    (0x8C280000, .trap 10), (0x8D000000, .tret), (0x8E02000B, .mode 1 11)] reads = true := by decide +kernel

theorem test_decode_barriers_and_calls : List.all [
    (0x9000A500, .barInit 10 20), (0x9100A524, .barArv 10 20 36), (0x9200A524, .barWait 10 20 36), (0x93000000, .kbar),
    (0x94000000, .gbar), (0x9500A500, .fork 10 20), (0x9600A000, .rdv 10), (0x9708A524, .rcall 2 10 20 36),
    (0x9788A524, .rcallRetry 2 10 20 36), (0x980C0000, .rret 3), (0x990C3003, .rwait 6 12 3),
    (0x9A00A524, .launch 10 20 36), (0x9B000000, .racq), (0x9C280000, .brk 10), (0x9D4CA500, .sbnd 1 3 10 20)] reads = true := by decide +kernel

theorem test_decode_loads_and_stores : List.all [
    (0xA00C30A3, .ldN8 6 12 10 3), (0xA10C30A3, .ldI8 6 12 10 3), (0xA20C30A3, .ldN16 6 12 10 3),
    (0xA30C30A3, .ldI16 6 12 10 3), (0xA40C30A3, .ld32 6 12 10 3), (0xA50C30A3, .ld64 6 12 10 3),
    (0xA60C30A3, .ld128 6 12 10 3), (0xA70C30A2, .st 6 12 10 2), (0xA80C30A3, .ldl32 6 12 10 3),
    (0xA90C30A3, .ldl128 6 12 10 3), (0xAA0C30A2, .stl 6 12 10 2), (0xAB0C31A3, .ldlQ 6 12 1 1 2 3),
    (0xAC0C31A0, .stlQ 6 12 1 1 2), (0xAD0DFFC3, .ldc 6 1 0xffc 3), (0xAE0D2943, .sld 6 1 10 20 3),
    (0xAF0C30A3, .red 6 12 10 3)] reads = true := by decide +kernel

theorem test_decode_atomics : List.all [
    (0xB00C30A3, .atomAdd 6 12 10 3), (0xB10C30A3, .atomMin 6 12 10 3), (0xB20C30A3, .atomMax 6 12 10 3),
    (0xB30C30A3, .atomMinn 6 12 10 3), (0xB40C30A3, .atomMaxn 6 12 10 3), (0xB50C30A3, .atomAnd 6 12 10 3),
    (0xB60C30A3, .atomOr 6 12 10 3), (0xB70C30A3, .atomXor 6 12 10 3), (0xB80C30A3, .atomSwap 6 12 10 3),
    (0xB90C30A3, .atomCas 6 12 10 3), (0xBA0C30A3, .atomInc 6 12 10 3), (0xBB0C30A3, .atomDec 6 12 10 3),
    (0xBC0C30A3, .atomFadd 6 12 10 3), (0xBD0C3048, .atoml 6 12 9)] reads = true := by decide +kernel

theorem test_decode_commands : List.all [
    (0xC008A524, .cpy 2 10 20 36), (0xC108A524, .cpyz 2 10 20 36), (0xC228A000, .mrd 1 2 10),
    (0xC344A000, .mwait 2 1 10), (0xC444A000, .mstep 2 1 10), (0xC5280000, .fence 1 2), (0xC604A500, .pref 1 10 20),
    (0xC704A500, .cinv 1 10 20), (0xC804A500, .cwb 1 10 20)] reads = true := by decide +kernel

theorem test_decode_near_memory_and_pod : List.all [
    (0xD00C30A0, .xatAdd 6 12 10), (0xD10C30A3, .xatRed 6 12 10 3), (0xD20C30A3, .xatRmw 6 12 10 3),
    (0xD308A500, .xatExpr 2 10 20), (0xD408A524, .xatFill 2 10 20 36), (0xD508A524, .xatCopy 2 10 20 36),
    (0xD6000000, .xwait), (0xD700A524, .mqPut 10 20 36), (0xD800A524, .mqGet 10 20 36), (0xD944A500, .mred 2 1 10 20),
    (0xDA08A524, .mrelay 2 10 20 36), (0xDB08A500, .nput 2 10 20), (0xDC08A500, .nget 2 10 20),
    (0xDD08A500, .nsig 2 10 20), (0xDE00A500, .nwait 10 20), (0xDE04A500, .nwaitRd 10 20)] reads = true := by decide +kernel

theorem test_decode_matrix : List.all [
    (0xE00C30A3, .mmaI8t2 6 12 10 3), (0xE10C30A3, .mmaE4t2 6 12 10 3), (0xE20C30A3, .mmaI8i4 6 12 10 3),
    (0xE30C30A3, .mmaI8i8 6 12 10 3), (0xE40C30A3, .mmaE4e4 6 12 10 3), (0xE50C30A3, .mmaE4e5 6 12 10 3),
    (0xE60C30A3, .mmaE5e4 6 12 10 3), (0xE70C30A3, .mmaE5e5 6 12 10 3), (0xE80C30A3, .mmaE2e2 6 12 10 3),
    (0xE90C30A3, .mmaBf16 6 12 10 3), (0xEA0C30A3, .mmaF16 6 12 10 3), (0xEB0C30A3, .mmaBft2 6 12 10 3),
    (0xEC0C30A3, .msa 6 12 10 3), (0xED0C0000, .mzero 3), (0xED400000, .mzeroP), (0xEE0C0C05, .mmovToRegisters 6 3 5),
    (0xEE0D0C00, .mmovToTile 6 3), (0xEF0CA500, .mring 3 10 20)] reads = true := by decide +kernel

theorem test_decode_epilogue : List.all [
    (0xF0000000, .ePop), (0xF108A500, .eSa 2 10 20), (0xF204A000, .eBias 1 10), (0xF3080000, .eAct 2),
    (0xF4440000, .eCvt 2 1), (0xF50C0000, .eBnd 3), (0xF600A524, .eSt 10 20 36), (0xF604A524, .eAst 10 20 36),
    (0xF700A500, .eArv 10 20), (0xF704AFFC, .eBr 10 0xffc), (0xF708A524, .eWait 10 20 36), (0xF70C0000, .eEnd)] reads = true := by decide +kernel

theorem test_decode_system : List.all [
    (0xF800AFFC, .srd 10 0xffc), (0xF900A043, .swr 10 67), (0xF900A000, .ctlModeWrite 10),
    (0xF900A020, .ctlCpyfltWrite 10), (0xF900A022, .ctlEstWrite 10), (0xF900A040, .ctlTcauseWrite 10),
    (0xFA00A040, .clk 10 1), (0xFA04A000, .sleep 10), (0xFB0CA000, .id 3 10), (0xFBFCA524, .dbg 10 20 36),
    (0xFF05887F, .endRun 5 0x88 0x7f)] reads = true := by decide +kernel

theorem test_no_instruction :
    ([0xFC000000, 0x3B000000, 0x4A000000, 0x6F000000, 0x8F000000, 0x9E000000, 0xBE000000, 0xC9000000, 0xDF000000].all
      (refuses .illegalOpcode) &&
    [0x00000001, 0x01000001, 0x1A000000 + 0x00FE0000, 0x74000005, 0x8E0200F0, 0xC500000D, 0xFFFF7F7F].all
      (refuses .illegalEncoding)) = true := by decide +kernel

/-! ### Ill-formed terms, one for each check -/

/-- Not well formed, and no word decodes to it. -/
def illFormed (i : Instr) : Bool :=
  !wellFormed i && match encode i with
    | some w => (match decode w with | .ok j => decide (j ≠ i) | .error _ => true)
    | none => true

theorem test_ill_formed_registers : List.all [.sadd 64 0 0, .sadd64 1 0 0, .rdv 1, .ld128 117 2 4 0, .ld64 3 2 4 0, .vmov 1 2 1,
    .ld32 1 1 0 0, .ld32 1 2 5 0, .st 1 2 4 5, .st 1 2 4 3, .st 117 2 4 4, .endRun 0x78 0x7F 0x7F, .vmatch 118 0 0, .vbcs 2 3 1,
    .vunpk 113 0 0, .vpack 1 113 0, .rwait 46 0 0, .msa 89 0 0 0, .mmovToTile 89 0, .mmovToRegisters 89 0 0, .launch 0 1 0,
    .barWait 1 0 0, .brx 1 0, .vote 62 0 0 4, .vshfu 1 1 64 0 1, .xatFill 0 0 0 0, .xatCopy 0 0 2 0, .atomCas 119 2 4 0, .ldlQ 117 0 0 1 0 0,
    .stlQ 117 0 0 1 0, .ldc 64 0 0 0, .ldc 3 1 0 0, .sld 2 0 0 1 0, .eWait 1 0 0, .eSt 1 0 0, .clk 1 0] illFormed = true := by
  decide +kernel

theorem test_ill_formed_codes : List.all [.mode 0 1, .mode 4 0xE00, .vadd 1 2 3 7, .fence 0 5, .mwait 5 0 0, .swr 4 0, .swr 4 0x20, .swr 4 0x22,
    .swr 4 0x40, .sshf64 0 0 0 3, .vcvt 1 2 13 0, .vpack 1 2 3, .vunpk 1 2 3, .vqblk 1 2 3 0, .vqblk 1 2 0 4, .vote 1 0 0 5, .rcall 17 0 0 0,
    .red 1 2 4 13, .atoml 1 2 13, .xatRed 1 2 4 8, .xatRed 1 2 4 15, .eSa 0 1 0, .eAct 5, .eCvt 6 0, .eCvt 0 6, .id 24 0] illFormed = true := by
  decide +kernel

/-! ### Hypotheses that are met: scalars and vectors -/

/-- The premises of `ScalarResults` on an instruction's operands. -/
def scalarMet (i : Instr) (c : Cx) : Bool :=
  match scalarResult i c.sp.scalar with | some (n, v) => p1 c n v | none => false

/-- The premise on a pair instruction's operands. -/
def pairMet (i : Instr) (c : Cx) : Bool :=
  match pairResult i c.sp.scalar with
  | some (n, v) => p2 c n (BitVec.ofNat 32 v) (BitVec.ofNat 32 (v / 2 ^ 32))
  | none => false

theorem met_ScalarResults :
    (meets (.sadd 0 1 2) (sc [(1, 0xFFFFFFFF)]) (scalarMet (.sadd 0 1 2)) &&
    meets (.ssra 63 1 60) (sc [(1, 0x80000000), (60, 32)]) (scalarMet (.ssra 63 1 60)) &&
    meets (.sor 4 61 63) sh (scalarMet (.sor 4 61 63))) = true := by decide +kernel

theorem met_ScalarCompare :
    (meets (.scmp 4 1 2 2) (sc [(1, 0x80000000)]) (fun c =>
      decide ((c.sp.scalar 1).toInt < (c.sp.scalar 2).toInt) && p1 c 4 1) &&
    meets (.scmp 4 1 2 4) (sc [(1, 0x80000000)]) (fun c =>
      decide (¬(c.sp.scalar 1).toNat < (c.sp.scalar 2).toNat) && p1 c 4 0)) = true := by decide +kernel

theorem met_PairResults :
    (meets (.sadd64 62 2 4) (sc [(2, 0xFFFFFFFF), (4, 1)]) (pairMet (.sadd64 62 2 4)) &&
    meets (.sshf64 0 2 4 2) (sc [(3, 0x80000000), (4, 64)]) (pairMet (.sshf64 0 2 4 2))) = true := by decide +kernel

theorem met_ShadowMaskTrap :
    meets (.saddi 61 0 5) sh (fun c => (scalarResult (.saddi 61 0 5) c.sp.scalar).isSome && !scalarMet (.saddi 61 0 5) c) = true := by
  decide +kernel

theorem met_EngineScalars :
    (meetsEngine (.sadd 63 1 2) id (fun x => (scalarResult (.sadd 63 1 2) x.scalar).isSome) &&
    meetsEngine (.sadd64 0 2 4) id (fun x => (pairResult (.sadd64 0 2 4) x.scalar).isSome) &&
    meetsEngine (.scmp 4 1 2 7) (es [(2, 1)]) (fun x => decide (x.scalar 1 ≠ x.scalar 2)) && meetsEngine .nop id (fun _ => true)) = true := by decide +kernel

theorem met_EngineScalarLoads :
    (meetsEngine (.ldc 4 1 0xFFE 0) id (fun x => match accessLane x.s (enginePartyOf x.s x.wg) (engineKey x.g) (.load 8 false)
        { lane := 0, va := 0x3FF8, data := 0, data2 := 0, poison := false } with
      | .ok _ _ false => true
      | _ => false) &&
    meetsEngine (.sld 4 0 5 0 0) id (fun x => match accessLane x.s (enginePartyOf x.s x.wg) (engineKey x.g) (.load 4 false)
        { lane := 0, va := 0, data := 0, data2 := 0, poison := false } with
      | .ok _ _ false => true
      | _ => false)) = true := by decide +kernel

/-- The instruction is one of those of `LaneResults`. -/
def laneMet (i : Instr) (c : Cx) : Bool := (laneResult i c).isSome

theorem met_LaneResults :
    (meets (.vand 119 0 119) id (laneMet (.vand 119 0 119)) && meets (.vbcs 118 62 1) (md 0x60) (laneMet (.vbcs 118 62 1)) &&
    meets (.vshfl 4 0 2 0) (vr [(2, fun l => BitVec.ofNat 32 (l + 1))]) (laneMet (.vshfl 4 0 2 0)) &&
    meets (.vmatch 117 0 0) sh (laneMet (.vmatch 117 0 0))) = true := by decide +kernel

theorem met_PredicateResults :
    (meets (.pand 0 7 1 1 0) id (fun c => (predResult (.pand 0 7 1 1 0) c).isSome) &&
    meets (.pmovV2p 7 119 1) (am 0xFF) (fun c => (predResult (.pmovV2p 7 119 1) c).isSome)) = true := by decide +kernel

theorem met_LaneLogic :
    (meets (.vand 4 1 2) (md 0x60) (fun _ => true) && meets (.vbfi 4 1 2) (md 0xB0) (fun _ => true)) = true := by decide +kernel

theorem met_Select : meets (.vsel 4 1 2 7) (am 1) (fun _ => true) = true := by decide +kernel

/-- The premises of the integer statements. -/
def intMet (i : Instr) (c : Cx) : Bool :=
  (typedOperands i).isSome &&
    match elemTypeOf c.type with
    | some t => decide (classOfType t = .int) && ((exactElem i 0 0 0).isSome || (bitElem i (elemBits t) (elemSigned t) 0 0).isSome)
    | none => false

theorem met_IntegerArithmetic :
    (meets (.vadd 4 1 2 0) (md 0x1040) (intMet (.vadd 4 1 2 0)) && meets (.vfma 4 6 8 0) (md 0xC0) (intMet (.vfma 4 6 8 0)) &&
    meets (.vsra 4 1 2) (md 0x50) (intMet (.vsra 4 1 2)) && meets (.vshli 4 6 64) (md 0xB0) (intMet (.vshli 4 6 64))) = true := by
  decide +kernel

theorem met_FloatArithmetic :
    (meets (.vfma 4 1 2 0) (md 0x60) (fun c => (exactFloat (.vfma 4 1 2 0) .rne (.nan true) (.nan true) (.nan true)).isSome &&
      decide (elemTypeOf c.type = some .f32) && decide (c.rounding 0 ≠ .sr)) &&
    meets (.vrnd 4 1 3) (md 0x20A0) (fun c => decide (elemTypeOf c.type = some .e5m2x4) && decide (c.rounding 3 ≠ .sr))) = true := by
  decide +kernel

theorem met_TypedFrames :
    (meets (.vtanh 4 1) (md 0x60) (fun _ => (typedOperands (.vtanh 4 1)).isSome) &&
    meets (.vadd 4 6 8 6) (md 0xB0) (fun _ => (typedOperands (.vadd 4 6 8 6)).isSome)) = true := by decide +kernel

/-- The instruction is one of those of `ConversionFrames`. -/
def conversionMet (i : Instr) (c : Cx) : Bool := (conversion i c).isSome

theorem met_ConversionFrames :
    (meets (.vcvt 4 8 6 1) (md 0x60) (conversionMet (.vcvt 4 8 6 1)) && meets (.vunpk 104 8 2) id (conversionMet (.vunpk 104 8 2)) &&
    meets (.vpack 4 8 0) (md 0x60) (conversionMet (.vpack 4 8 0)) && meets (.vdot4 4 8 9 3) id (conversionMet (.vdot4 4 8 9 3)) &&
    meets (.vqblk 4 8 0 0) (md 0x60) (conversionMet (.vqblk 4 8 0 0)) &&
    meets (.vscan 4 8 1 1) (md 0x60) (conversionMet (.vscan 4 8 1 1))) = true := by decide +kernel

theorem met_VectorCompares :
    (meets (.vcmp 0 1 2 6) id (fun c => decide (elemTypeOf c.type = some .i32)) &&
    meets (.vcmpi 7 1 0x40 7) (md 0x50) (fun c => decide (elemTypeOf c.type = some .n8x4)) &&
    meets (.vcmp 7 1 2 7) (md 0x60) (fun c => decide (elemTypeOf c.type = some .f32))) = true := by decide +kernel

theorem met_VectorGetPut :
    (meets (.vget 4 1 2) (sc [(2, 96)]) (fun c => p1 c 4 0) && meets (.vget 4 1 2) (sc [(2, 95)]) (fun c => p1 c 4 0) &&
    meets (.vget 4 1 2) (sc [(2, 47)] ∘ sh) (fun c => c.active.getLsbD 95 && decide (c.lane 1 47 = c.lane 1 95) && p1 c 4 0) &&
    meets (.vput 4 1 2) (sc [(2, 48)] ∘ sh) (fun _ => true)) = true := by decide +kernel

theorem met_Votes :
    (meets (.vote 4 1 2 3) id (fun c => p1 c 4 (voteOf 3 c.active (~~~(c.pred 2)))) &&
    meets (.vote 4 0 0 4) id (fun c => decide (c.active &&& c.pred 0 = allLanes) && c.maskPasses c.sp.act) &&
    meets (.vote 4 0 1 1) sh (fun c =>
      decide (voteOf 1 (half c.active 0) (half (c.pred 1) 0) = voteOf 1 (half c.active 1) (half (c.pred 1) 1))) &&
    meets (.vote 4 0 1 4) (sh ∘ wp fun w => { w with preds := w.preds.set 1 1 }) (fun c =>
      decide (half (c.active &&& c.pred 1) 0 ≠ half (c.active &&& c.pred 1) 1))) = true := by decide +kernel

theorem met_IntegerReductions :
    (meets (.vred 4 1 0) id (fun c => decide (elemTypeOf c.type = some .i32) && !modeSat c.sp.mode) &&
    meets (.vscan 4 1 1 2) (md 0x50) (fun c => decide (elemTypeOf c.type = some .n8x4)) &&
    meets (.vred 4 1 7) id (fun _ => true)) = true := by decide +kernel

theorem met_Measures :
    (meets (.width 4) (am 1) (fun c => c.maskPasses c.sp.act) && meets (.clk 62 1) id (fun c => p2 c 62 0 0) &&
    meets (.id 23 4) id (fun c => p1 c 4 0) && meets (.id 14 4) id (fun c => (wgOf c.s c.w).any fun g =>
      (Tab.get? c.s.skeins g.skein).any fun k => (Tab.get? c.s.launches k.launch).isSome) && meetsFar (.id 2 4) id (fun c => c.w.far.isSome)) = true := by decide +kernel

/-- A selvedge register with an action and the bounds 0 and 1.0. -/
def bound (n act : Nat) (c : Cx) : Cx := wg (fun g => { g with selvedge := g.selvedge.set n ⟨0, act, 0x3F800000, 0, false⟩ }) c

theorem met_BoundsChecks :
    (meetsFar (.vbnd 4 1 15) (md 0x60) (fun c => (wgOf c.s c.w).isNone) &&
    meets (.vbnd 4 1 15) (md 0x60 ∘ bound 15 3 ∘ vr [(1, fun _ => 0x40000000)]) (fun c => match wgOf c.s c.w with
      | some g => g.selvedge[15]? == some ⟨0, 3, 0x3F800000, 0, false⟩ && outOfBounds ⟨0, 3, 0x3F800000, 0, false⟩ (c.lane 1 95)
      | none => false) &&
    meets (.vbnd 4 1 0) (md 0x60 ∘ bound 0 3) (fun c => !outOfBounds ⟨0, 3, 0x3F800000, 0, false⟩ (c.lane 1 0)) &&
    [0x3F800001, 0x80000001, 0xFFC00000, 0x7F800001].all (outOfBounds ⟨0, 1, 0x3F800000, 0, false⟩) &&
    [0x3F800000, 0, 0x80000000, 1].all (fun x => !outOfBounds ⟨0, 2, 0x3F800000, 0, false⟩ x)) = true := by
  decide +kernel

/-- R264: under ACT 2 and the bounds 0 and 1.0, 2.0 becomes 1.0, −1.0 becomes 0, −0 stays, and a NaN is the canonical one (R52). -/
theorem test_vbnd :
    [(0x40000000, 0x3F800000), (0xBF800000, 0), (0x80000000, 0x80000000), (0x7F800001, 0x7FC00000)].all (fun (p : Word × Word) =>
      afterStep (splitAt (wordOf (.vbnd 4 1 15)) (md 0x60 ∘ bound 15 2 ∘ vr [(1, fun _ => p.1)])) fun c => c.lane 4 0 == p.2) = true := by
  decide +kernel

/-! ### Control flow and traps -/

theorem met_BranchConditions :
    (meets (.brc 7 4 0x4000) id (fun c => decide ((pc64 c.here + BitVec.ofInt 64 (4 * (0x4000#15).toInt)).toNat % 4 = 0) &&
      canonical (pc64 c.here + BitVec.ofInt 64 (4 * (0x4000#15).toInt))) &&
    meets (.brc 1 4 1) id (fun c => decide (c.sp.scalar 4 = 0)) && meets (.brc 3 4 1) (sc [(4, 0x80000000)]) (fun c =>
      decide ((c.sp.scalar 4).toInt < 0))) = true := by decide +kernel

theorem met_Branches :
    (meets (.br 0x20) id (fun c => canonical (pc64 c.here + 0x80)) && meets (.call 1) id (fun _ => true) &&
    meets (.ret 58) (sc [(58, 2)]) (fun c => decide ((pair (c.sp.scalar 58) (c.sp.scalar 59)).toNat % 4 ≠ 0)) &&
    meets (.brxU 62) (am 0xC) (fun c => canonical (pair (c.sp.scalar 62) (c.sp.scalar 63))) &&
    meets (.brxU 4) (sc [(5, 0x1000000)]) (fun c => !canonical (pair (c.sp.scalar 4) (c.sp.scalar 5)))) = true := by decide +kernel

theorem met_UniformBranches :
    (meets (.bra 0 1 5) id (fun c => decide (c.sp.act ≠ 0)) && meets (.bra 0 0 5) sh (fun c => decide (c.sp.act = allLanes)) &&
    meets (.brx 4 1) (am 0) (fun c => decide (c.sp.act = 0)) && meets (.brx 4 1) id (fun c => decide (c.lane 1 0 = c.lane 1 95))) = true := by
  decide +kernel

theorem met_DividingBranches :
    (meets (.bra 1 0 5) (wp fun w => { w with preds := w.preds.set 1 0xFF }) (fun c =>
      decide (1 ≤ (freeEntries c.w.splits).length) && decide (c.sp.act &&& c.pred 1 = 0xFF) && !c.sp.trap.handler) &&
    meets (.brx 4 1) (vr [(1, fun l => BitVec.ofNat 32 (l / 4))]) (fun c => decide (c.w.splits.map (fun p => p.1) = [c.e]) &&
      c.w.spill.isEmpty && decide (c.sp.act &&& ~~~c.sp.lanes = 0)) &&
    meets (.bra 1 0 5) (ih ∘ wp fun w => { w with preds := w.preds.set 1 0xFF }) (fun c => c.sp.trap.handler)) = true := by
  decide +kernel

/-- The taken lanes of a branch on p1 come in pairs. -/
def pairedB (c : Cx) : Bool :=
  let taken := c.sp.act &&& c.pred 1
  (List.range 48).all fun l => c.sp.act.getLsbD l == c.sp.act.getLsbD (l + 48) && taken.getLsbD l == taken.getLsbD (l + 48)

/-- The predicate p1 is a mask. -/
def taken (m : Mask) : Cx → Cx := wp fun w => { w with preds := w.preds.set 1 m }

/-- The split table and the spill area are full. -/
def full (c : Cx) : Cx :=
  { c with w := { c.w with
      splits := (List.range Config.splitEntries).map fun k => (k, { c.sp with lanes := if k = c.e then c.sp.lanes else 0 })
      spill := List.replicate Config.spillRecords ⟨0, { c.sp with lanes := 0 }⟩ } }

theorem met_DivisionLimits :
    (meets (.bra 1 0 5) (taken 0xFF ∘ sh) (fun c => isShadow c.s c.w && !pairedB c) &&
    meets (.bra 1 0 5) (taken 0xFF0000000000FF ∘ sh) (fun c => isShadow c.s c.w && pairedB c && decide (c.sp.act &&& c.pred 1 ≠ c.sp.act)) &&
    meets (.bra 1 0 5) (taken 0xFF ∘ full) (fun c => (freeEntries c.w.splits).isEmpty && decide (Config.spillRecords ≤ c.w.spill.length) &&
      !c.sp.trap.handler) &&
    meets (.brx 4 1) (ih ∘ vr [(1, fun l => BitVec.ofNat 32 (l / 48))]) (fun c => c.sp.trap.handler && c.sp.act.getLsbD 0 &&
      c.sp.act.getLsbD 95 && decide (c.lane 1 0 ≠ c.lane 1 95) && decide ((c.sp.scalar 4).toNat % 4 = 0))) = true := by decide +kernel

theorem met_HandlerLimits :
    onSplit (splitAt (wordOf .kbar) ih) (fun c => forbiddenInHandler .kbar && !c.sp.faultDue && c.reissueWait.isNone && c.sp.stall.served &&
      (c.issueCause .kbar).isNone && (c.holds .kbar).isNone && !c.mismatched .kbar && !c.consumesPoison .kbar) = true := by
  decide +kernel

/-- A warp whose join 3 is armed with all lanes and has none. -/
def armed : Cx → Cx := wp fun w => { w with joins := w.joins.set 3 ⟨allLanes, 0⟩ }

theorem met_JoinRegisters :
    (meets (.jarm 3) id (fun _ => true) &&
    meets (.jarv 3) armed (fun c => !c.w.joinPoison.getLsbD 3 && decide (c.w.unack.getD 0 0 = 0) && decide ((c.w.join 3).expected ≠ 0)) &&
    meets (.jwait 0) id (fun c => !c.w.joinPoison.getLsbD 0 && decide ((c.w.join 0).expected = 0)) &&
    meets (.jclr 3) armed (fun _ => true)) = true := by decide +kernel

theorem met_JoinTest :
    onSplit (splitAt 0 armed) (fun c => decide (c.w.joins.length = 4) &&
      decide ((c.w.join 3).expected &&& ~~~((c.w.join 3).arrived ||| c.w.exited) ≠ 0) &&
      decide ((c.w.join 0).expected &&& ~~~((c.w.join 0).arrived ||| c.w.exited) = 0)) = true := by decide +kernel

/-- Two splits parked on join 3 at one address, with the lanes that it expects but for lane 95, which has exited. -/
def parkedPair (c : Cx) : Cx :=
  let p (m : Mask) : Split := { c.sp with lanes := m, act := m, status := .parkedJoin 3 }
  { c with w := { c.w with
      splits := [(0, p 0xF0), (5, p 0xF)]
      joins := c.w.joins.set 3 ⟨0xFF ||| (1#96 <<< 95), 0xFF⟩
      exited := 1#96 <<< 95 } }

theorem met_Regang :
    (match executing (boot 0) with
      | some c =>
        let w := (parkedPair c).w
        decide (w.joins.length = 4) && decide ((w.join 3).expected &&& ~~~((w.join 3).arrived ||| w.exited) = 0) &&
          decide ((w.join 3).expected &&& ~~~(w.join 3).arrived ≠ 0) && w.spill.isEmpty &&
          decide ((w.splits.filter fun p => p.2.status == .parkedJoin 3 && p.2.pc == c.sp.pc) = w.splits)
      | none => false) = true := by decide +kernel

/-- In a handler with one entry: of a command or of a lane. -/
def handles (cmd : Option Nat) : Cx → Cx :=
  let f : FaultEntry := ⟨0x20, 0x100000, 0xD4, 0, 0, 0, .load 4 false, [], none, none, cmd, none, none⟩
  st (fun sp => { sp with trap := { sp.trap with entries := [f] } }) ∘ ih

/-- In the handler of a stopped command. -/
def stoppedHere : Cx → Cx :=
  (fun c => { c with s := { c.s with cmds := [(7, ⟨0, 0, 0, 1, .fill 0x800000 4096, none, 0, .sent, false, none, none, 1, 0, 0, none⟩)] } }) ∘
    handles (some 7)

theorem met_SplitState :
    (meets .yield id (fun _ => true) && meets .tret ih (fun c => c.sp.trap.handler && decide (c.sp.trap.trpc.toNat % 4 = 0)) &&
    meets .tret (st (fun sp => { sp with trap := { sp.trap with trpc := 2 } }) ∘ ih) (fun c => c.sp.trap.handler && decide (c.sp.trap.trpc.toNat % 4 ≠ 0)) && meets .tret id (fun c => !c.sp.trap.handler) &&
    meets .exit id (fun c => decide (c.w.unack.getD 0 0 = 0) && !c.sp.trap.handler) &&
    meets .exit stoppedHere (fun c => decide (c.w.unack.getD 0 0 = 0) && c.sp.trap.handler && decide (c.sp.lanes &&& ~~~c.sp.act = 0) &&
      decide (c.sp.trap.entries.length = 1) && c.sp.trap.entries.all (fun f => f.cmd == some 7) && (Tab.get? c.s.cmds 7).isSome) && meets (.mode 0x1F 0x3000) id (fun _ => true)) =
      true := by decide +kernel

/-- Nothing of a scope is unacknowledged. -/
def clear (c : Cx) (scope : Nat) : Bool := decide (c.w.unack.getD scope 0 = 0)

/-- A handler with nothing to reissue, its resume address as the trap set it. -/
def returns (c : Cx) : Bool :=
  c.shaped && c.sp.trap.handler && c.sp.trap.entries.isEmpty && decide (c.sp.trap.trpc = c.sp.trap.trpcSet) && c.sp.trap.savedPend.isEmpty &&
    c.sp.trap.fromPark.isNone && decide (c.sp.lanes ≠ 0) && decide (c.sp.trap.saved.length = 4)

/-- The split at its trailer. -/
def tr (f : Split → Split) (c : Cx) : Cx := { c with sp := f { c.sp with run := { c.sp.run with pos := 1 } } }

/-- A result of one register that has not arrived. -/
def pending : Pend :=
  { id := 0, opcode := 0xA4, pc := 0x100000, dest := ⟨true, 5, 1⟩, window := 0, rows := [], kept := [], arrived := false, done := false,
    settled := false, inRun := true, held := 0, open_ := false, tag := none, mismatch := false }

theorem met_Trailer :
    (meets (.endRun 0x7F 0x7F 0x7F) (tr id) (fun c => c.sp.pend.isEmpty && c.sp.faults.isEmpty && decide (c.sp.after = .fall) &&
      !untranslated c.s c.wk c.e c.sp) &&
    meets (.endRun 5 0x80 0xBF) (tr fun sp => { sp with after := .goto 0x100040 }) (fun c => c.sp.pend.isEmpty && c.sp.faults.isEmpty &&
      decide (c.sp.after = .goto 0x100040) && !untranslated c.s c.wk c.e c.sp) &&
    meets (.endRun 0x7F 0x7F 0x7F) (tr fun sp => { sp with after := .yielded }) (fun c => !untranslated c.s c.wk c.e c.sp) &&
    meets (.endRun 0x7F 0x7F 0x7F) (tr fun sp => { sp with after := .ended, act := 0 }) (fun c => decide (c.sp.lanes ≠ 0) &&
      !untranslated c.s c.wk c.e c.sp)) = true := by decide +kernel

/-- The premises of `TrailerEnds`. -/
def endsMet (c : Cx) : Bool := c.sp.pend.isEmpty && c.sp.faults.isEmpty && !untranslated c.s c.wk c.e c.sp

theorem met_TrailerEnds :
    (meets (.endRun 0x7F 0x7F 0x7F) (tr fun sp => { sp with after := .park 3 }) endsMet &&
    meets (.endRun 0x7F 0x7F 0x7F) (tr (fun sp => { sp with after := .returned }) ∘ ih) (fun c => endsMet c && returns c) &&
    onSplit (splitAt 0x98040000 (tr fun sp => { sp with after := .replied [7] })) (fun c => endsMet c && c.issues (.endRun 0x7F 0x7F 0x7F) &&
      c.w.far.isSome && clear c 2) &&
    onSplit (splitAt 0x98040000 (tr (fun sp => { sp with after := .replied [7] }) ∘ wp fun w => { w with unack := [1, 1, 1, 0, 0] })) (fun c =>
      endsMet c && c.issues (.endRun 0x7F 0x7F 0x7F) && !clear c 2) &&
    onSplit (splitAt 0 (tr fun sp => { sp with after := .ended, lanes := 0, act := 0 })) (fun c => endsMet c &&
      c.issues (.endRun 0x7F 0x7F 0x7F) && c.w.spill.isEmpty)) = true := by decide +kernel

theorem met_TrailerWaits :
    (meets (.endRun 5 0x7F 0x7F) (tr fun sp => { sp with pend := [pending] }) (fun c => namesDest [5, 0x7F, 0x7F] pending.dest &&
      decide (c.sp.pend = [pending]) && c.sp.faults.isEmpty && !untranslated c.s c.wk c.e c.sp && !isMatrix pending.opcode &&
      decide (c.sp.after = .fall)) &&
    meets (.endRun 6 0x7F 0x7F) (tr fun sp => { sp with pend := [pending] }) (fun c => !namesDest [6, 0x7F, 0x7F] pending.dest &&
      !untranslated c.s c.wk c.e c.sp)) = true := by decide +kernel

/-- R82, R25: a trailer that names s0 does not wait for a load into it, nor is the register marked. -/
theorem test_trailer_s0 :
    (match exec (.endRun 0x80 0x7F 0x7F) (splitAt (wordOf (.endRun 0x80 0x7F 0x7F))
        (tr fun sp => { sp with pend := [{ pending with dest := ⟨false, 0, 1⟩ }] })) with
      | .next t => first t fun c => decide (c.sp.status = .ready) && c.sp.unawaited.isEmpty
      | _ => false) = true := by decide +kernel

/-- No trap of the split has to wait. -/
def now (c : Cx) : Bool := c.sp.faults.isEmpty && !c.heldAny && c.sp.pend.isEmpty

theorem met_TrapEntry :
    (onSplit (splitAt 0 hd) (fun c => now c && c.w.far.isNone && !c.sp.trap.handler && decide (c.tvec ≠ 0) && !isSnapshot c.s c.w) &&
    onSplit (splitAt 0x98040000 id) (fun c => now c && c.w.far.isSome && clear c 2) &&
    onSplit (splitAt 0x98040000 (wp fun w => { w with unack := [1, 1, 1, 0, 0] })) (fun c => now c && c.w.far.isSome && !clear c 2) &&
    onSplit (splitAt 0 (kn fun k => { k with snapshot := true })) (fun c => now c && c.w.far.isNone && decide (c.tvec = 0) && isSnapshot c.s c.w) &&
    onSplit (splitAt 0 (hd ∘ kn fun k => { k with snapshot := true })) (fun c => now c && c.w.far.isNone && decide (c.tvec ≠ 0) &&
      !c.sp.trap.handler && isSnapshot c.s c.w && (lnOf c.s c.w).isSome) &&
    onSplit (splitAt 0 ih) (fun c => now c && c.w.far.isNone && c.sp.trap.handler) &&
    onSplit (splitAt 0 id) (fun c => now c && c.w.far.isNone && decide (c.tvec = 0) && !isSnapshot c.s c.w)) = true := by decide +kernel

theorem met_TrapInstructions :
    (meets (.trap 63) hd (fun c => now c && c.w.far.isNone && !c.sp.trap.handler && decide (c.tvec ≠ 0)) &&
    meets (.brk 0) hd (fun c => now c && !c.s.debugger && decide (c.tvec ≠ 0)) &&
    meets (.brk 63) (fun c => hd { c with s := { c.s with debugger := true } }) (fun c => now c && c.s.debugger &&
      (wgOf c.s c.w).isSome)) = true := by decide +kernel

theorem met_TrapReturn :
    onSplit (splitAt 0 ih) returns = true := by decide +kernel

/-- Every split of the warp parked on join 3, which expects lane 95 too; in a launch with a handler, or a far task. -/
def deadlock (n : Nat) : State :=
  splitAt n fun c =>
    let w := (parkedPair (hd c)).w
    { hd c with
      w := { w with joins := w.joins.set 3 ⟨allLanes, 0xFF⟩, exited := 0 }
      sp := { c.sp with lanes := 0xF0, act := 0xF0, status := .parkedJoin 3 } }

theorem met_JoinDeadlock :
    ((match cxOf (deadlock 0) 0 5 with
      | some c => now c && c.w.far.isNone && !c.sp.trap.handler && decide (c.tvec ≠ 0) && decide (lowLane c.sp.lanes = 0) &&
          c.w.splits.all fun p => p.2.status == .parkedJoin 3 && (p.1 == 5 || decide (0 < lowLane p.2.lanes))
      | none => false) &&
    (match executing (deadlock 0x98040000) with
      | some c => (match cxOf c.s c.wk 5 with
        | some d => now d && d.w.far.isSome && clear d 2 && d.w.splits.all fun p => p.2.status == .parkedJoin 3
        | none => false)
      | none => false) &&
    onSplit (boot 0) (fun c => c.w.splits.any fun p => p.2.status == .issuing)) = true := by decide +kernel

/-- R157: the split with the lowest lane takes JOIN_DEADLOCK. -/
theorem test_join_deadlock :
    (match checkDeadlock (deadlock 0) 0 with
      | .next t => (match cxOf t 0 5 with | some c => decide (c.sp.trap.cause = 0x0D) && decide (c.sp.pc = 0x8000) | none => false) &&
          first t fun c => decide (c.sp.status = .parkedJoin 3)
      | _ => false) = true := by decide +kernel

/-! ### Barriers, engine programs, far calls, control registers -/

/-- The executing split's skein. -/
def skein? (c : Cx) (p : Skein → Bool) : Bool :=
  match skOf c.s c.w with
  | some k => decide (Tab.get? c.s.skeins c.skKey = some k) && Mem.wf k.scratch && k.scratchPoison.isEmpty && p k
  | none => false

/-- The last object of the window: at 640 KiB less 16 bytes. -/
def lastObject : Cx → Cx := sc [(4, 655344), (5, 65535)]

theorem met_BarrierObjects :
    (meets (.barInit 4 5) lastObject (fun c => skein? c (fun _ => decide ((c.sp.scalar 4).toNat + 16 = windowBytes c.s c.w) &&
      decide ((c.sp.scalar 4).toNat % 16 = 0) && decide ((c.sp.scalar 5).toNat = 65535))) &&
    meets (.barInit 4 5) (sc [(5, 1)]) (fun c => skein? c (fun _ => decide (1 ≤ (c.sp.scalar 5).toNat))) &&
    meets (.barArv 6 4 0) lastObject (fun c => skein? c (fun _ => clear c 1 && p1 c 6 0)) &&
    meets (.barWait 6 4 0) id (fun c => skein? c (fun k => decide (Mem.le k.scratch 6 2 = (c.sp.scalar 0).toNat))) &&
    meets (.barWait 6 4 5) lastObject (fun c => skein? c (fun k => decide (Mem.le k.scratch 655350 2 ≠ 65535) && p2 c 6 0 0))) =
      true := by decide +kernel

theorem met_BarrierTraps :
    (meets (.barWait 6 4 5) (sc [(4, 8)]) (fun c => (skOf c.s c.w).isSome) &&
    meets (.barArv 6 4 5) (sc [(4, 655360)]) (fun c => decide (windowBytes c.s c.w < 655360 + 16)) &&
    meets (.barInit 4 5) lastObject (fun c => decide (655344 + 16 ≤ windowBytes c.s c.w)) &&
    meets (.barInit 4 5) (sc [(5, 65536)]) (fun c => decide (65535 < (c.sp.scalar 5).toNat)) &&
    meets (.barInit 4 0) id (fun c => decide ((c.sp.scalar 0).toNat = 0))) = true := by decide +kernel

/-- A stalled split that goes on. -/
def stalled (x : Stall) : Cx → Cx := st fun sp => { sp with stall := x }

theorem met_SkeinAndGridBarriers :
    (meets .kbar (stalled (.kbar true)) (fun c => decide (c.sp.stall = .kbar true)) &&
    meets .kbar id (fun c => decide (c.sp.stall = .none) && clear c 1) &&
    meets .kbar (wp fun w => { w with unack := [1, 1, 0, 0, 0] }) (fun c => !clear c 1) &&
    meets .gbar (stalled (.gbar true)) (fun c => (kernelOf c.s c.w).isSome && (lnKey c.s c.w).isSome) &&
    meets .gbar (kn fun k => { k with coop := false }) (fun c => (kernelOf c.s c.w).any fun n => !n.coop) &&
    meets .gbar id (fun c => (kernelOf c.s c.w).any (fun n => n.coop) && clear c 2)) = true := by decide +kernel

theorem met_EngineProgramsForked :
    (meets (.fork 4 6) (sc [(4, 2)]) (fun c => (wgOf c.s c.w).isSome) &&
    meets (.fork 4 6) id (fun c => clear c 0 && (wgOf c.s c.w).any fun g => !g.engineRuns) &&
    meets (.fork 4 6) (wg fun g => { g with engine := some (bootEngine 0x8000), forks := 1 }) (fun c => (wgOf c.s c.w).any fun g => g.engineRuns) &&
    meets (.rdv 62) id (fun c => p2 c 62 0 0 && (wgOf c.s c.w).any fun g => decide (g.forks = 0)) &&
    meets (.rdv 4) (wg fun g => { g with engine := some (bootEngine 0x8000), forks := 1 }) (fun c => decide (c.w.collected ≠ 1) &&
      (wgOf c.s c.w).any fun g => decide (g.forks = 1) && g.engineRuns) &&
    meets (.rdv 4) (wg fun g => { g with forks := 1, endPair := (7, 8) }) (fun c => p2 c 4 7 8 && decide (c.w.collected ≠ 1) &&
      (wgOf c.s c.w).any fun g => decide (g.forks = 1) && !g.engineRuns && decide (g.endPoison = (false, false)))) = true := by
  decide +kernel

theorem met_EngineStops : onEngine (boot 0xF7600000) (fun x => x.wg.ring.isNone) = true := by decide +kernel

/-- A far call outstanding in a slot, with a reply. -/
def call (k : Nat) : Nat × CallSlot := (k, ⟨9, 0, false, some (0, 0, [1]), some 0⟩)

theorem met_FarCalls :
    (meets (.rcall 16 5 6 8) (sc [(6, 1)]) (fun c => decide ((pair (c.sp.scalar 6) (c.sp.scalar 7)).toNat % 4 ≠ 0)) &&
    meets (.rcallRetry 0 5 6 8) (wp fun w => { w with calls := (List.range 8).map call }) (fun c =>
      (List.range 8).all fun k => (Tab.get? c.w.calls k).isSome) &&
    meets (.rcall 16 5 6 8) (wp fun w => { w with calls := (List.range 7).map call }) (fun c => (Tab.get? c.w.calls 7).isNone && clear c 2 &&
      ((List.range 7).all fun k => (Tab.get? c.w.calls k).isSome) && p1 c 5 0x70000)) = true := by decide +kernel

theorem met_FarReplies :
    (meets (.rwait 16 5 15) (wp fun w => { w with calls := [(0, ⟨0, 0, false, none, none⟩)] }) (fun c => (callOutcome c.w.calls (c.sp.scalar 5)).isNone) &&
    meets (.rwait 44 5 0) (sc [(5, 0x70009)] ∘ wp fun w => { w with calls := [call 7] }) (fun c => (Tab.get? c.w.calls 7).any fun y =>
      decide (y.seq = 9) && y.reply.isSome) &&
    meetsFar (.rret 15) id (fun c => c.w.far.isSome && clear c 2) &&
    onSplit (splitAt (wordOf .yield) id) (fun c => c.issues (.rret 0) && c.w.far.isNone)) = true := by decide +kernel

/-- A poisoned count of selvedge register 15. -/
def spoilt : Cx → Cx := wg fun g => { g with selvedge := g.selvedge.set 15 ⟨0, 0, 0, 0, true⟩ }

/-- The split is no far task's, and has its workgroup and its launch. -/
def own (c : Cx) : Bool := c.w.far.isNone && (wgOf c.s c.w).isSome && (lnOf c.s c.w).isSome

theorem met_ControlReads :
    ([0x000, 0x003, 0x010, 0x016, 0x020, 0x022, 0x030, 0x03F, 0x040, 0x04E, 0x050, 0x051].all (fun n =>
      meets (.srd 4 n) id (fun c => own c && listed n.toNat && p1 c 4 0)) &&
    [0x004, 0x00F, 0x017, 0x023, 0x04F, 0x052, 0xFFF].all (fun n => meets (.srd 4 n) id (fun c => own c && !listed n.toNat)) &&
    meets (.srd 4 0x03F) spoilt (fun c => own c && (wgOf c.s c.w).any fun g => g.selvedge[15]?.any fun x => x.poison) &&
    meetsFar (.srd 4 0) id (fun c => c.w.far.isSome && p1 c 4 c.sp.mode) && meetsFar (.srd 63 1) id (fun c => c.w.far.isSome) &&
    meetsFar (.srd 4 2) id (fun c => c.w.far.isSome)) = true := by decide +kernel

theorem met_ControlWrites :
    ([0x001, 0x002, 0x021, 0x030, 0x03F, 0x043, 0x044, 0x045, 0x050, 0x051].all (fun n => meets (.swr 4 n) id (fun c => own c &&
      writableListed n.toNat && wellFormed (.swr 4 n))) &&
    meets (.swr 4 0x03F) spoilt (fun c => (wgOf c.s c.w).any fun g => (g.selvedge[15]?).isSome) &&
    [0x003, 0x010, 0x016, 0x041, 0x042, 0x046, 0x04E, 0x052, 0xFFF].all (fun n => meets (.swr 4 n) id (fun c => own c &&
      !writableListed n.toNat && wellFormed (.swr 4 n))) &&
    meetsFar (.swr 4 1) id (fun c => c.w.far.isSome) && meetsFar (.swr 4 2) id (fun c => c.w.far.isSome) &&
    meetsFar (.swr 4 0xFFF) id (fun c => c.w.far.isSome)) = true := by decide +kernel

/-- The value's NENT is 0 or not. -/
def nentIs (z : Bool) (c : Cx) : Bool := decide ((c.sp.scalar 4).toNat / 2 ^ 8 % 32 = 0) == z

theorem met_ControlForms :
    (meets (.ctlModeWrite 4) (sc [(4, 0xE00)]) (fun c => decide ((c.sp.scalar 4).toNat / 2 ^ 9 % 8 = 7)) &&
    meets (.ctlModeWrite 4) (sc [(4, 0xFFFFF1FF)]) (fun c => decide ((c.sp.scalar 4).toNat / 2 ^ 9 % 8 ≠ 7)) &&
    meetsFar (.ctlModeWrite 4) id (fun c => c.w.far.isSome && decide ((c.sp.scalar 4).toNat / 2 ^ 9 % 8 ≠ 7)) &&
    [Instr.ctlCpyfltWrite 4, .ctlEstWrite 4, .ctlTcauseWrite 4].all (fun i => meetsFar i id (fun c => c.w.far.isSome)) &&
    meets (.ctlCpyfltWrite 4) (sc [(4, 8)]) own && meets (.ctlCpyfltWrite 4) id own &&
    meets (.ctlEstWrite 4) (sc [(4, 2)]) own && meets (.ctlEstWrite 4) id own &&
    meets (.ctlTcauseWrite 4) (sc [(4, 0x100)]) (fun c => own c && nentIs false c) &&
    meets (.ctlTcauseWrite 4) id (fun c => own c && nentIs true c && !c.sp.trap.handler) &&
    meets (.ctlTcauseWrite 4) (handles none) (fun c => own c && nentIs true c && c.sp.trap.handler &&
      c.sp.trap.entries.all fun f => f.cmd.isNone) &&
    meets (.ctlTcauseWrite 4) stoppedHere (fun c => own c && nentIs true c && c.sp.trap.handler && c.sp.trap.entries.all (fun f => f.cmd == some 7) &&
      (Tab.get? c.s.cmds 7).isSome) && meets (.sbnd 3 15 4 5) id (fun _ => true)) = true := by decide +kernel

/-- The launch's queue, bound with tracing on. -/
def queue : Queue :=
  { header := 0x4000, asid := 1, level := 0, hostFed := true, base := 0, entries := 2, next := 1, rung := 0, retired := [], accepted := [],
    tracing := true, trace := [], traceRoom := 1, traceLost := 0, waitingSince := none, cancelled := [], denied := false }

/-- The split's launch came from a queue that is bound so. -/
def queued (n : Nat) (q : Queue) (c : Cx) : Cx :=
  let ls := c.s.launches.map fun p => (p.1, { p.2 with origin := .slot n 0 })
  { c with s := { c.s with queues := [(n, q)], launches := ls } }

theorem met_SleepAndTrace :
    (meets .nop id (fun _ => true) && meets (.sleep 4) id (fun c => decide (c.sp.stall = .none) && decide ((c.sp.scalar 4).toNat = 0)) &&
    meets (.sleep 4) (stalled (.sleep 5 true)) (fun c => decide (c.sp.stall = .sleep 5 true)) &&
    meets (.sleep 4) (sc [(4, 0xFFFFFFFF)]) (fun c => decide ((c.sp.scalar 4).toNat ≠ 0)) &&
    meets (.sleep 4) (stalled (.sleep 5 false)) (fun c => decide (c.sp.stall = .sleep 5 false)) &&
    meets (.dbg 4 5 6) (fun c => { c with s := { c.s with launches := [] } }) (fun c => ((lnKey c.s c.w).bind (queueOf c.s)).isNone) &&
    meets (.dbg 4 5 6) (queued 3 queue) (fun c => decide ((lnKey c.s c.w).bind (queueOf c.s) = some 3))) = true := by decide +kernel

/-! ### Memory -/

/-- The premises of `GlobalAccesses` on a state. -/
def globalMet (i : Instr) (c : Cx) : Bool :=
  match globalForm i c with
  | none => false
  | some f =>
    let va (l : Nat) : DWord := addressOf c f.a f.s l
    let ok (l : Nat) : Bool :=
      (if f.kind.near then decide ((va l).toNat % 4096 + f.kind.bytes ≤ 4096) else decide ((va l).toNat % f.kind.bytes = 0)) && canonical (va l)
    let r := runLanes c.s (partyOf c.s c.w) c.wk f.kind (requests f c)
    !isShadow c.s c.w && !isSnapshot c.s c.w && ((List.range 96).all fun l => !c.active.getLsbD l || ok l) && r.held.isEmpty && r.faults.isEmpty &&
      !r.poison && !r.hole

/-- Addresses of 16 bytes a lane from 0x8000 on in v2. -/
def apart : Cx → Cx := sc [(4, 0x8000)] ∘ vr [(2, fun l => BitVec.ofNat 32 (16 * l))]

theorem met_GlobalAccesses :
    (meets (.ld128 116 2 4 15) apart (globalMet (.ld128 116 2 4 15)) && meets (.st 8 2 4 3) apart (globalMet (.st 8 2 4 3)) &&
    meets (.atomCas 8 2 4 0) apart (globalMet (.atomCas 8 2 4 0)) && meets (.xatAdd 8 2 4) (md 0x60 ∘ apart) (globalMet (.xatAdd 8 2 4)) &&
    meets (.ldN8 5 2 0 0) (am 0) (fun c => globalMet (.ldN8 5 2 0 0) c && decide (c.active = 0))) = true := by decide +kernel

theorem met_GlobalTraps :
    (meets (.ld32 5 2 4 0) (sc [(4, 2)]) (fun c => decide ((addressOf c 2 4 95).toNat % 4 ≠ 0)) &&
    meets (.ld32 5 2 4 0) (sc [(5, 0x1000000)]) (fun c => !canonical (addressOf c 2 4 0) && decide ((addressOf c 2 4 0).toNat % 4 = 0)) &&
    meets (.st 8 2 4 2) (sh ∘ apart) (fun c => decide (addressOf c 2 4 0 ≠ addressOf c 2 4 48))) = true := by decide +kernel

theorem met_LaneAccess :
    onSplit (boot 0) (fun c => c.s.nearOps.isEmpty && Mem.wf c.s.mem &&
      (match translate c.s (partyOf c.s c.w).asid 0x3FFFFFF8 .write with | .ok (.hbm _) cls _ => decide (2 ≤ cls) | _ => false) &&
      (match translate c.s (partyOf c.s c.w).asid 0 .read with | .ok (.hbm _) cls _ => decide (2 ≤ cls) | _ => false)) = true := by
  decide +kernel

/-- The first 64 KiB as one class P page of sixteen entries, its table at 0x5000. -/
def fine : Cx → Cx := fun c =>
  let m := Mem.writeBytes (Mem.writeBytes c.s.mem 0x3000 (leBytes 8 0x4001)) 0x4000 (leBytes 8 0x5001)
  { c with s := { c.s with mem := Mem.writeBytes m 0x5000 ((List.range 16).flatMap fun j => leBytes 8 (4096 * j + 0x13)) } }

/-- Frame 5 owned by the skein. -/
def owned (c : Cx) : Cx := { c with s := { c.s with xlate := { c.s.xlate with owners := [(5, 0)] } } }

theorem met_PageClasses :
    (onSplit (boot 0) (fun c => (partyOf c.s c.w).skein.isSome && (Tab.get? c.s.xlate.owners 5).isNone && (partyOf c.s c.w).launch.isSome) &&
    onSplit (splitAt 0 owned) (fun c => decide ((partyOf c.s c.w).skein = Tab.get? c.s.xlate.owners 5)) &&
    onSplit (splitAt 0 fine) (fun c => match walk c.s (partyOf c.s c.w).asid 0 with
      | .leaf e 0 _ => decide (pteField e 5 3 < 2) && decide (pteField e 8 2 = 0) && Mem.wf c.s.mem
      | _ => false)) = true := by decide +kernel

theorem met_GlobalFrames :
    meets (.st 8 2 4 2) apart (fun c => Mem.wf c.s.mem && c.s.nearOps.isEmpty && match exec (.st 8 2 4 2) c.s with
      | .next _ => true
      | _ => false) = true := by decide +kernel

/-- The lanes' local addresses fit. -/
def localMet (c : Cx) (a b z : Nat) : Bool :=
  skein? c fun _ => c.w.far.isNone && (List.range 96).all fun l =>
    !c.active.getLsbD l || (decide (localOf c a b l % z = 0) && decide (localOf c a b l + z ≤ windowBytes c.s c.w))

theorem met_ScratchpadAccesses :
    (meets (.ldl32 5 2 0 0) (vr [(2, fun _ => 655356)]) (fun c => localMet c 2 0 4) &&
    meets (.ldl128 116 2 4 0) (vr [(2, fun l => BitVec.ofNat 32 (16 * l))]) (fun c => localMet c 2 4 16) &&
    meets (.stl 8 2 0 3) (vr [(2, fun _ => 655352)]) (fun c => localMet c 2 0 8) &&
    meets (.stl 8 2 0 2) sh (fun c => localMet c 2 0 4 && decide (groupOf c 8 1 0 = groupOf c 8 1 48))) = true := by decide +kernel

theorem met_ScratchpadAtomics :
    (meets (.atoml 8 2 9) (am (1#96 <<< 95)) (fun c => localMet c 2 0 4 && decide (c.active = 1#96 <<< 95) && !isShadow c.s c.w) &&
    meets (.atoml 8 2 11) (md 0xC0 ∘ am 1) (fun c => localMet c 2 0 8 && decide (c.active = 1#96 <<< 0))) = true := by decide +kernel

theorem met_ScalarLoads :
    (meets (.ldc 4 1 2 0) id (fun _ => true) &&
    onSplit (splitAt (wordOf (.ldc 4 1 2 0)) id) (fun c => c.issues (.ldc 4 1 1 0)) &&
    meets (.ldc 4 1 0xFFE 15) id (fun c => match accessLane c.s (partyOf c.s c.w) c.wk (.load 8 false) ⟨0, 0x3FF8, 0, 0, false, c.s.fresh, none, 0⟩ with
      | .ok _ _ _ => !heldOverlap c.s c.wk (.load 8 false) ⟨0, 0x3FF8, 0, 0, false, c.s.fresh, none, 0⟩ && !byRelay c.s 1 0x3FF8 (.load 8 false)
      | _ => false) &&
    meets (.sld 4 0 6 8 0) (sc [(6, 2)]) (fun _ => true) && meets (.sld 4 0 6 8 0) (sc [(9, 0x1000000)]) (fun c =>
      !canonical (pair (c.sp.scalar 8) (c.sp.scalar 9)))) = true := by decide +kernel

/-- The weft queue of the executing split's skein. -/
def weft (c : Cx) (q : Nat) (p : WeftQueue → Bool) : Bool :=
  (kernelOf c.s c.w).any (fun n => decide (q + 1 < n.stages)) && skein? c fun k => (k.queues[q]?).any p

theorem met_WeftQueues :
    (meets (.stlQ 5 2 0 0 7) id (fun c => (kernelOf c.s c.w).any fun n => decide (n.stages ≤ 8)) &&
    meets (.stlQ 5 2 1 0 6) (vr [(2, fun _ => 60)]) (fun c => weft c 6 (fun x => x.free 0) && clear c 1) &&
    meets (.stlQ 5 2 0 0 0) (sk fun k => { k with queues := k.queues.set 0 ⟨8, [], 0, []⟩ }) (fun c => weft c 0 (fun x => !x.free x.pushed) &&
      (Tab.get? c.w.openPush 0).isNone) &&
    meets (.stlQ 5 2 0 0 0) (wp fun w => { w with openPush := [(0, 7)] }) (fun c => decide (Tab.get? c.w.openPush 0 = some 7)) &&
    meets (.stlQ 5 2 0 0 0) (sh ∘ vr [(5, fun l => BitVec.ofNat 32 l)]) (fun c => weft c 0 (fun _ => true) && isShadow c.s c.w &&
      decide (groupOf c 5 1 0 ≠ groupOf c 5 1 48)) &&
    meets (.ldlQ 5 2 0 0 6 0) id (fun c => weft c 6 fun x => !x.committed.contains 0) &&
    meets (.ldlQ 116 2 1 1 0 3) (sk fun k => { k with queues := k.queues.set 0 ⟨1, [0], 0, []⟩ }) (fun c => weft c 0 fun x => x.committed.contains 0)) =
      true := by decide +kernel

/-! ### Commands, waits, modules, launches -/

/-- Scratchpad bytes of the executing split's window. -/
def pad (a : Nat) (l : List Byte) : Cx → Cx := sk fun k => { k with scratch := Mem.writeBytes k.scratch a l }

/-- An object of n bytes fits the window. -/
def fits (c : Cx) (a n : Nat) : Bool := decide (a % n = 0) && decide (a + n ≤ windowBytes c.s c.w)

/-- The command of an instruction is issued where its checks pass. -/
def commandMet (i : Instr) (checks : Cx → List Byte → Bool) (a n : Nat) (c : Cx) : Bool :=
  match skOf c.s c.w, wgOf c.s c.w with
  | some k, some g => g.counters.any fun m => match commandForm i c k m with
    | some f => decide (g.counters[f.counter]? = some m) && clear c f.scope && checks c (descriptor k a n) &&
        (f.number == 0 || p2 c f.number 1 0)
    | none => false
  | _, _ => false

/-- The first block of a near-memory command is translated. -/
def nearMet (kind : CmdKind) (c : Cx) : Bool := decide (nearTotal kind ≠ 0) && (nearStart c.s (asidOf c.s c.w) kind 0 == .ok)

/-- The descriptor of an expression of one element at 8 MiB whose one operator pushes a constant. -/
def expression : List Byte :=
  leBytes 8 0x800000 ++ List.replicate 40 0 ++ leBytes 24 0x10 ++ leBytes 4 1 ++ leBytes 4 0x10000 ++ List.replicate 48 0

/-- A zeroing descriptor of one byte at an address: one dimension of extent 1. -/
def zeroing (a : Nat) : List Byte := List.replicate 8 0 ++ leBytes 8 a ++ leBytes 4 1 ++ List.replicate 108 0

/-- A copy has something to do. -/
def copies (d : List Byte) : Bool := (List.range (descDims d)).all fun j => descExt d j != 0

theorem met_CommandsIssued :
    (onSplit (boot 0) (fun c => !isSnapshot c.s c.w) &&
    meets (.cpy 7 62 4 5) (pad 655232 (zeroing 0) ∘ sc [(4, 655232), (5, 655344)]) (commandMet (.cpy 7 62 4 5)
      (fun c d => fits c 655232 128 && fits c 655344 16 && descOk d false && copies d) 655232 128) &&
    meets (.cpyz 0 0 4 0) (pad 0 (zeroing 0)) (commandMet (.cpyz 0 0 4 0) (fun c d => fits c 0 128 && descOk d true && copies d) 0 128) &&
    meets (.mstep 4 0 6) id (commandMet (.mstep 4 0 6) (fun _ _ => true) 0 0) &&
    meets (.xatExpr 1 6 4) (pad 128 expression ∘ sc [(4, 128)]) (commandMet (.xatExpr 1 6 4)
      (fun c d => fits c 128 128 && exprOk d && nearMet (.expr d) c) 128 128) &&
    meets (.xatFill 1 6 4 8) (sc [(4, 0x800000), (8, 4096)]) (commandMet (.xatFill 1 6 4 8)
      (fun c _ => nearMet (.fill 0x800000 4096) c && decide ((pairOf c 4).toNat % 4096 = 0)) 0 0) &&
    meets (.xatCopy 1 12 4 8) (sc [(4, 0x800000), (6, 0x900000), (8, 8192)]) (commandMet (.xatCopy 1 12 4 8)
      (fun c _ => nearMet (.rowCopy 0x800000 0x900000 8192) c) 0 0) &&
    meets (.mrelay 1 12 4 8) (sc [(8, 64)]) (commandMet (.mrelay 1 12 4 8) (fun c _ => decide ((c.sp.scalar 8).toNat = 64)) 0 0) &&
    meets (.mred 7 1 6 4) (sc [(4, 655296)]) (commandMet (.mred 7 1 6 4) (fun c d => fits c 655296 64 && mredOk d) 655296 64)) = true := by
  decide +kernel

theorem met_EmptyCommands :
    (meets (.cpy 7 62 4 5) (sc [(4, 655232), (5, 655344)]) (commandMet (.cpy 7 62 4 5)
      (fun c d => fits c 655232 128 && fits c 655344 16 && descOk d false && !copies d) 655232 128) &&
    meets (.cpyz 0 0 4 0) id (commandMet (.cpyz 0 0 4 0) (fun c d => fits c 0 128 && descOk d true && !copies d) 0 128) &&
    meets (.xatExpr 1 6 4) (pad 128 (expression.set 72 0) ∘ sc [(4, 128)]) (commandMet (.xatExpr 1 6 4)
      (fun c d => fits c 128 128 && exprOk d && decide (descField d 72 4 = 0)) 128 128) &&
    meets (.xatFill 1 6 4 8) (kn fun k => { k with snapshot := true }) (commandMet (.xatFill 1 6 4 8)
      (fun c _ => isSnapshot c.s c.w && decide ((c.sp.scalar 8).toNat = 0)) 0 0) &&
    meets (.xatCopy 1 12 4 8) id (commandMet (.xatCopy 1 12 4 8) (fun c _ => decide ((c.sp.scalar 8).toNat = 0)) 0 0) &&
    meets (.mrelay 1 12 4 8) id (commandMet (.mrelay 1 12 4 8) (fun c _ => decide ((c.sp.scalar 8).toNat = 0)) 0 0)) = true := by
  decide +kernel

/-- Pages that a command of a snapshot launch writes first lie in the package, or one does not. -/
def inside (c : Cx) (va : DWord) : Bool := !canonical va || leafTarget c.s (asidOf c.s c.w) va == 0

theorem met_SnapshotCommands :
    (let snap : Cx → Cx := kn fun k => { k with snapshot := true }
    let outer (c : Cx) : Cx := { c with s := { c.s with mem := Mem.writeBytes c.s.mem 0x3008 (leBytes 8 0x18B) } }
    meets (.cpyz 0 0 4 0) (pad 0 (zeroing 0x8000) ∘ snap) (commandMet (.cpyz 0 0 4 0)
      (fun c d => isSnapshot c.s c.w && fits c 0 128 && descOk d true && inside c (descDst d 0)) 0 128) &&
    meets (.cpyz 0 0 4 0) (pad 0 (zeroing 0x40000000) ∘ outer ∘ snap) (commandMet (.cpyz 0 0 4 0)
      (fun c d => isSnapshot c.s c.w && fits c 0 128 && descOk d true && copies d && descDspace d == 0 && !inside c (descDst d 0)) 0 128) &&
    meets (.xatFill 1 6 4 8) (snap ∘ sc [(4, 0x800000), (8, 4096)]) (commandMet (.xatFill 1 6 4 8)
      (fun c _ => isSnapshot c.s c.w && nearMet (.fill 0x800000 4096) c && (nearAddrs (.fill 0x800000 4096) 0).all fun x => inside c x.1) 0 0) &&
    meets (.xatFill 1 6 4 8) (outer ∘ snap ∘ sc [(4, 0x40000000), (8, 4096)]) (commandMet (.xatFill 1 6 4 8) (fun c _ => isSnapshot c.s c.w &&
      (nearAddrs (.fill 0x40000000 4096) 0).any fun x => x.2 && !inside c x.1) 0 0) &&
    meets (.mrelay 1 12 4 8) snap (commandMet (.mrelay 1 12 4 8) (fun c _ => isSnapshot c.s c.w) 0 0) &&
    meets (.mred 7 1 6 4) (snap ∘ sc [(4, 655296)]) (commandMet (.mred 7 1 6 4) (fun c d => isSnapshot c.s c.w && fits c 655296 64 && mredOk d)
      655296 64)) = true := by
  decide +kernel

/-- A connection of ASID 1 with one window. -/
def conn : Conn :=
  { binding := { asid := 1, remoteEndpoint := 2, remoteConn := 3, tenant := 1, windows := [(4, ⟨0x8000, 64, true, 1⟩)], timeoutNs := 10000,
                 retries := 1, entropy := 0, stride := 1 },
    failed := false, nextPsn := 1, nextMsn := 0xFFFFFFFF, out := [], mark := 0, received := [], messages := [], complete := 0, arrival := 5,
    requests := [], acks := [], entropy := 0 }

/-- A connection bound. -/
def bound5 (x : Conn) (c : Cx) : Cx := { c with s := { c.s with net := { c.s.net with conns := [(5, x)] } } }

/-- The descriptor of 8 bytes to connection 5. -/
def message : List Byte := List.replicate 16 0 ++ leBytes 4 8 ++ leBytes 2 5 ++ List.replicate 10 0

/-- The premises of a message on a state. -/
def messageMet (i : Instr) (signal : Bool) (c : Cx) : Bool :=
  match skOf c.s c.w, connOf c.s 5 (asidOf c.s c.w) with
  | some k, some x => (netForm c k i x.nextMsn).isSome && netOk (descriptor k 0 32) signal && fits c 0 32 && !x.failed && clear c 4 &&
      decide (descField (descriptor k 0 32) 20 2 = 5) && p2 c 6 1 0
  | _, _ => false

theorem met_MessagesIssued :
    (meets (.nput 0 6 4) (pad 0 message ∘ bound5 conn) (messageMet (.nput 0 6 4) false) &&
    meets (.nget 0 6 4) (pad 0 message ∘ bound5 conn) (messageMet (.nget 0 6 4) false) &&
    meets (.nsig 0 6 4) (pad 0 message ∘ bound5 conn) (messageMet (.nsig 0 6 4) true) && decide (descField message 16 4 ≠ 0) &&
    meets (.nget 0 6 4) (pad 0 (List.replicate 20 0 ++ leBytes 2 5 ++ List.replicate 10 0) ∘ bound5 conn) (fun c =>
      messageMet (.nget 0 6 4) false c && (skOf c.s c.w).any (fun k => decide (descField (descriptor k 0 32) 16 4 = 0)) &&
      (Tab.get? c.s.cmds c.s.fresh).isNone) &&
    meets (.nsig 0 6 4) (pad 0 message ∘ bound5 conn ∘ kn fun k => { k with snapshot := true }) (fun c => isSnapshot c.s c.w &&
      messageMet (.nsig 0 6 4) true c)) = true := by decide +kernel

/-- A near-memory operation of the warp. -/
def nearOp (n : Nat) : NearOp := ⟨n, 0, 0x800000, .rmw 0 0 true false, ⟨0, 0x800000, 5, 0, false, 4, none, 0⟩⟩

/-- A store of a lane of the split that waits for its page. -/
def heldBy (lane : Nat) (c : Cx) : Cx :=
  let h : Held :=
    ⟨0, 1, 0x4000, 16, 0, false, true, .lanes c.wk none (.store 4) [⟨lane, 0x4000, 0, 0, false, 0, none, 0⟩] 0x100000 0xA7 allLanes, true⟩
  { c with s := { c.s with xlate := { c.s.xlate with held := [(0, h)] } } }

theorem met_Waits :
    (meets (.mrd 1 7 62) id (fun c => p2 c 62 0 0 && (wgOf c.s c.w).any fun g => (g.counters[7]?).any fun m => !m.poison) &&
    meets (.mwait 4 0 4) id (fun c => decide ((pairOf c 4).toNat ≤ 0)) &&
    meets (.mwait 4 0 4) (sc [(4, 1)]) (fun c => decide (0 < (pairOf c 4).toNat)) && meets (.fence 0 4) id (fun _ => true) &&
    meets (.fence 2 4) (wp fun w => { w with unack := [1, 1, 1, 1, 1] }) (fun c => !clear c 4) &&
    meets (.pref 0 4 6) id (fun _ => true) && meets (.cinv 0 4 6) id (fun _ => true) && meets (.cwb 0 4 6) id (fun c => decide (c.sp.scalar 6 = 0)) && meets (.cwb 0 4 6) (sc [(6, 1)]) (fun c => decide (c.sp.scalar 6 ≠ 0)) &&
    meets (.fence 2 0) (heldBy 95) (fun c => c.heldLanes && clear c 0) &&
    meets .xwait id (fun c => decide (c.sp.stall = .none) && !nearPending c.s c.wk c.e c.s.fresh) &&
    meets .xwait (fun c => { c with s := { c.s with nearOps := [(9, nearOp c.wk)], fresh := 5 } }) (fun c => nearPending c.s c.wk c.e c.s.fresh) &&
    meets .xwait (stalled (.near 4) ∘ fun c => { c with s := { c.s with nearOps := [(9, nearOp c.wk)] } }) (fun c => !nearPending c.s c.wk c.e 4) &&
    meets (.nwait 4 6) (bound5 conn ∘ sc [(4, 5), (6, 5)]) (fun c => (connOf c.s 5 (asidOf c.s c.w)).any fun x => decide (x.arrival = 5)) &&
    meets (.nwait 4 6) (bound5 { conn with failed := true } ∘ sc [(4, 5), (6, 5)]) (fun c => (connOf c.s 5 (asidOf c.s c.w)).any fun x =>
      x.failed && decide ((pairOf c 6).toNat ≤ x.arrival)) &&
    meets (.nwait 4 6) (bound5 conn ∘ sc [(4, 5), (6, 6)]) (fun c => (connOf c.s 5 (asidOf c.s c.w)).any fun x => !x.failed &&
      decide (x.arrival < (pairOf c 6).toNat)) &&
    meets (.nwait 4 6) (bound5 { conn with failed := true } ∘ sc [(4, 5), (6, 6)]) (fun c => (connOf c.s 5 (asidOf c.s c.w)).any fun x =>
      x.failed) &&
    meets (.nwaitRd 4 6) (bound5 conn ∘ sc [(4, 5)]) (fun c => (connOf c.s 5 (asidOf c.s c.w)).isSome && p2 c 6 5 0)) = true := by
  decide +kernel

/-- A package in a pod of order 2 whose port 0 leads to module 0, with that module mapped from 1 GiB on. -/
def podded (x : Module) (c : Cx) : Cx :=
  let n := { c.s.net with podq := 2, podpos := 0, ports := [(0, 0)], modules := [(0, x)], heads := [(0, [0, 1, 2])] }
  { c with s := { c.s with net := n, mem := Mem.writeBytes c.s.mem 0x3008 (leBytes 8 0x18B) } }

/-- A module with a queue of n slots at 0, its HEAD and TAIL. -/
def module0 (n head tail : Nat) : Module :=
  { mem := Mem.writeBytes [] 0 (leBytes 4 n ++ leBytes 4 head ++ leBytes 4 tail), poison := [], lost := false, rounds := [], waiting := [],
    grants := [], tenants := [] }

/-- A store of the warp, 32 bytes into module 0, that waits in the fault buffer. -/
def heldInModule (c : Cx) : Cx :=
  let q : LaneReq := ⟨3, 0x40000020, 7, 0, false, 0, none, 0⟩
  { c with s := { c.s with xlate := { c.s.xlate with
      held := [(0, ⟨0, 1, 0x40000020, 30, 0, false, true, .lanes c.wk none (.store 4) [q] 0x100000 0xA7 allLanes, true⟩)] } } }

/-- The heads 0 and 1 reduce one element of module 0: head 0 has contributed 7 with an operation. -/
def reducing (op : Nat) (own : Option Nat) (c : Cx) : Cx :=
  podded { module0 2 0 0 with rounds := [⟨128, 5, [⟨0, op, 1, 3, [7], own, false, 0⟩]⟩] } c

theorem met_Reductions :
    ([0, 5].all fun op => first (idle (reducing op (some 7))) fun c => c.s.net.lostPackages.isEmpty &&
      (Tab.get? c.s.net.modules 0).any fun x => !x.lost && x.waiting.isEmpty && Mem.wf x.mem &&
        x.rounds == [⟨128, 5, [⟨0, op, 1, 3, [7], some 7, false, 0⟩]⟩] &&
        (List.range 17).all fun h => (3 : Nat).testBit h == ([0, 1].contains h)) = true := by decide +kernel

/-- R334: a round of two heads writes the sum of the lower head's element and the higher's; a mismatch writes nothing. -/
theorem test_mred :
    ([(0, 12), (5, 0)].all fun (p : Nat × Nat) =>
      match exec (.mredContribution (.other 0 128 5 1 0 1 3 [5])) (idle (reducing p.1 none)) with
      | .next t => (Tab.get? t.net.modules 0).any fun x => x.rounds.isEmpty && Mem.le x.mem 128 4 == p.2
      | _ => false) = true := by decide +kernel

/-- R333, R52: a lone contributor's NaN is written as the canonical one under a floating-point operation, as it stands under another. -/
theorem test_mred_lone :
    ([(1, 0x7FC00000), (7, 0xFF800001)].all fun (p : Nat × Nat) =>
      match exec (.mredContribution (.other 0 128 5 1 p.1 1 2 [0xFF800001])) (idle (podded (module0 2 0 0))) with
      | .next t => (Tab.get? t.net.modules 0).any fun x => x.rounds.isEmpty && Mem.le x.mem 128 4 == p.2
      | _ => false) = true := by decide +kernel

theorem met_ModuleQueues :
    (meets (.mqPut 4 6 8) (stalled (.queue 3 (some 1))) (fun c => decide (c.sp.stall = .queue 3 (some 1)) && p1 c 4 1) &&
    meets (.mqGet 4 6 8) (stalled (.queue 3 none)) (fun c => decide (c.sp.stall = .queue 3 none)) &&
    meets (.mqPut 4 6 8) (podded (module0 2 0 0) ∘ sc [(6, 0x40000000), (8, 655296)]) (fun c => clear c 3 && fits c 655296 64 &&
      !isSnapshot c.s c.w && !heldAtQueue c.s c.wk 0 0 && (match translate c.s (asidOf c.s c.w) (pairOf c 6) .write with
        | .ok (.module m off _) _ _ => decide (m = 0 ∧ off = 0)
        | _ => false)) &&
    meets (.mqGet 4 6 8) (heldInModule ∘ podded (module0 2 0 0) ∘ sc [(6, 0x40000000), (8, 655296)]) (fun c => heldAtQueue c.s c.wk 0 0 &&
      match translate c.s (asidOf c.s c.w) (pairOf c 6) .write with
      | .ok (.module m off _) _ _ => decide (m = 0 ∧ off = 0)
      | _ => false) &&
    (mqHeaderOk (module0 512 0xFFFFFFFF 0x1FF) 0 && mqHeaderOk (module0 2 0 2) 0 && Mem.wf (module0 512 0xFFFFFFFF 0x1FF).mem)) = true := by
  decide +kernel

/-- The descriptor of a kernel of one workgroup of 96 lanes. -/
def kernelBytes : List Byte :=
  leBytes 8 0x100000 ++ leBytes 2 96 ++ [1, 1, 10, 0, 120, 120, 0, 0, 0, 0, 0, 0, 0, 1, 0, 0] ++ List.replicate 38 0

/-- A launch record for the descriptor at 0x9000, of a grid of n skeins. -/
def recordBytes (n : Nat) : List Byte := leBytes 8 0x9000 ++ List.replicate 16 0 ++ leBytes 8 (n + 0x1000100000000) ++ List.replicate 96 0

/-- Queue 3 device-fed, its header at 0x4000, holding a number of records. -/
def fed (n : Nat) (c : Cx) : Cx :=
  let m := Mem.writeBytes (Mem.writeBytes c.s.mem 0x4010 (leBytes 4 n)) 0x8000 (recordBytes 1)
  { c with s := { c.s with mem := Mem.writeBytes m 0x9000 kernelBytes, queues := [(3, { queue with hostFed := false })] } }

/-- Nothing keeps `launch` with record 0x8000 in s6 and queue 3 in s8 from enqueuing. -/
def launchMet (c : Cx) : Bool :=
  clear c 2 && !isSnapshot c.s c.w && p1 c 4 0 && match Tab.get? c.s.queues 3 with
    | some x => !x.hostFed && decide (x.asid = asidOf c.s c.w) && decide (dist32 (queueHead c.s x) (queueTail c.s x) ≠ x.entries)
    | none => false

theorem met_RequestsToTheScheduler :
    (meets .racq id (fun c => skein? c fun k => k.full) && meets .racq (sk fun k => { k with full := false }) (fun c => skein? c fun k => !k.full) &&
    meets (.launch 4 6 8) (sc [(8, 1024)]) (fun c => decide (Config.launchQueues ≤ 1024) && p1 c 4 2) &&
    meets (.launch 4 6 8) (fed 2 ∘ sc [(6, 0x8000), (8, 3)]) (fun c => p1 c 4 1 && (Tab.get? c.s.queues 3).any fun x =>
      decide (dist32 (queueHead c.s x) (queueTail c.s x) = x.entries)) &&
    meets (.launch 4 6 8) (fed 1 ∘ sc [(6, 0x8000), (8, 3)]) (fun c => launchMet c &&
      match readGlobal (partyOf c.s c.w) c.wk c.s (pieces 0x8000 128) with
      | .ok t b marks => !marks.contains true && decide (descField b 36 1 ≠ 1) && (kernelCause t b kernelBytes).isNone && decide (peek t 1 0x9000 64 = .ok kernelBytes)
      | _ => false)) = true := by decide +kernel

/-- The record read from 0x8000 once a byte of it or of the descriptor is changed. -/
def launchReads (at_ : Nat) (v : Byte) (p : State → List Byte → Bool) : Bool :=
  meets (.launch 4 6 8) ((fun c => { c with s := { c.s with mem := Mem.write c.s.mem at_ v } }) ∘ fed 1 ∘ sc [(6, 0x8000), (8, 3)]) fun c =>
    launchMet c && match readGlobal (partyOf c.s c.w) c.wk c.s (pieces 0x8000 128) with | .ok t b marks => !marks.contains true && p t b | _ => false

theorem met_RefusedRecords :
    (launchReads 0x8024 1 (fun _ b => decide (descField b 36 1 = 1) && recordClean b) &&
    launchReads 0x8024 1 (fun _ b => decide (descField b 36 1 = 1) && !recordClean (b.set 38 1)) &&
    launchReads 0x8024 2 (fun t b => decide (descField b 36 1 ≠ 1) && decide (peek t 1 0x9000 64 = .ok kernelBytes) &&
      (kernelCause t b kernelBytes).isSome) &&
    launchReads 0x8003 0x40 (fun t b => decide (peek t 1 (field64 b 0) 64 = .bad))) = true := by decide +kernel

/-! ### Decoding and the matrix engine -/

theorem met_DecodeEncode : (wellFormed (.vput 119 63 63) && (encode (.vput 119 63 63)).isSome) = true := by decide

theorem met_StepRunsDecoded :
    (onSplit (boot 0x010A1838) (fun c => c.s.agenda.isEmpty && decide (c.s.plat.power = .ready) && decide (c.s.focus = .split c.wk c.e) &&
      decide (c.sp.run.words.drop c.sp.run.pos = [0x010A1838, 0xFF7F7F7F])) &&
    onEngine (boot 0xF7600000) (fun x => x.s.agenda.isEmpty && decide (x.s.plat.power = .ready) && decide (x.s.focus = .engine x.g) &&
      match fetchWord x.s (enginePartyOf x.s x.wg) x.en.pc with | .ok _ (_ :: _) => true | _ => false) &&
    (encode (.rollback 0)).isNone) = true := by decide +kernel

theorem met_WordsThatAreNoInstruction :
    (onSplit (splitAt 0xFC000000 hd) (fun c => now c && c.w.far.isNone && !c.sp.trap.handler && decide (c.tvec ≠ 0)) &&
    (match decode 0xFC000000 with | .error r => decide (r = .illegalOpcode) | .ok _ => false) &&
    (match decode 0x00000001 with | .error r => decide (r ≠ .illegalOpcode) | .ok _ => false) &&
    onEngine (boot 0xF0FFFFFF) (fun _ => true)) = true := by decide +kernel

theorem met_MemoryInvariant : State.reset.memWf = true ∧ (boot 0).memWf = true := by decide +kernel

theorem met_RegisterTables : State.reset.shaped = true ∧ (boot 0).shaped = true ∧ (boot 0xF7600000).shaped = true := by decide +kernel

theorem met_MatrixQueued :
    (meets (.mzero 15) (am 1) (fun c => (skOf c.s c.w).isSome && !c.ganged) &&
    meets (.msa 88 0 4 15) (sc [(4, 655328)]) (fun c => c.ganged && !ringMode c.s c.w && skein? c fun _ => decide (655328 + 32 ≤ windowBytes c.s c.w)) &&
    meets .mzeroP (kn fun k => { k with ring := true }) (fun c => c.ganged && ringMode c.s c.w) &&
    meets (.mzero 15) id (fun c => c.ganged && decide (c.w.mqueue.length < 4) && (wgOf c.s c.w).any fun g => g.ring.isNone) &&
    [Instr.msa 88 0 0 15, .mzeroP, .mzero 15, .mmovToRegisters 88 15 3, .mmovToTile 88 0, .mring 15 0 0].all (fun i =>
      meets i (wp fun w => { w with mqueue := List.replicate 4 (.zeroP none) }) (fun c => c.ganged && !ringMode c.s c.w &&
        decide (4 ≤ c.w.mqueue.length))) &&
    [Instr.mmovToRegisters 88 3 3, .mmovToTile 88 3].all (fun i => meets i (wg fun g => { g with
      ring := some ⟨0, 2, 2, 0, 0, 0, [.free, .free], 0, false⟩ }) (fun c => c.ganged && (wgOf c.s c.w).any fun g =>
      g.ring.any fun r => decide (r.first ≤ 3 ∧ 3 < r.first + r.len))) &&
    meets (.mmovToRegisters 88 15 3) id (fun c => c.ganged) && meets (.mmovToTile 88 0) id (fun c => c.ganged) &&
    meets (.mring 0 4 5) (kn (fun k => { k with ring := true }) ∘ sc [(4, 16), (5, 655344)]) (fun c => c.ganged && ringMode c.s c.w &&
      decide (0 + 16 ≤ tileAllot c.s c.w) && (wgOf c.s c.w).any fun g => g.ring.isNone && g.warps.all fun q => q == c.wk) &&
    meets (.mring 0 4 5) (kn (fun k => { k with ring := true }) ∘ sc [(4, 16), (5, 655344)] ∘ fun c =>
      wg (fun g => { g with ring := some ⟨c.wk, 0, 2, 3, 3, 0, [.free, .free], 0, false⟩ }) c) (fun c => c.ganged && ringMode c.s c.w &&
      !c.ringBusy && decide (0 + 16 ≤ tileAllot c.s c.w) && (wgOf c.s c.w).any fun g => g.ring.isSome && g.warps.all fun q => q == c.wk) &&
    [[.free, .open_], [.ready .f32 false, .free]].all (fun l => meets (.mring 0 4 5) (kn (fun k => { k with ring := true }) ∘
      sc [(4, 16), (5, 655344)] ∘ fun c => wg (fun g => { g with ring := some ⟨c.wk, 0, 2, 0, 0, 0, l, 0, false⟩ }) c) (fun c =>
      c.ganged && ringMode c.s c.w && c.ringBusy)) &&
    [1, 17].all (fun n => meets (.mring 0 4 5) (kn (fun k => { k with ring := true }) ∘ sc [(4, n), (5, 655344)]) (fun c =>
      c.ganged && ringMode c.s c.w && (wgOf c.s c.w).isSome)) &&
    meets (.mring 3 0 0) (wg fun g => { g with ring := some ⟨0, 2, 2, 0, 0, 0, [.free, .free], 0, false⟩ }) (fun c => c.ganged &&
      !ringMode c.s c.w && (wgOf c.s c.w).any fun g => g.ring.any fun r => decide (r.first ≤ 3 ∧ 3 < r.first + r.len)) &&
    meets (.mring 15 0 0) id (fun c => c.ganged && !ringMode c.s c.w && decide (15 + 1 ≤ tileAllot c.s c.w)) &&
    meets (.mzero 3) (wg fun g => { g with ring := some ⟨0, 2, 2, 0, 0, 0, [.free, .free], 0, false⟩ }) (fun c => c.ganged && (wgOf c.s c.w).any fun g =>
      g.ring.any fun r => decide (r.first ≤ 3 ∧ 3 < r.first + r.len))) = true := by decide +kernel

theorem met_ProductsQueued :
    (meets (.mmaI8i8 88 0 4 15) (sc [(4, 653312)]) (fun c => c.ganged && !ringMode c.s c.w && decide (c.w.mqueue.length < 4) &&
      skein? c fun _ => decide ((c.sp.scalar 4).toNat % 2048 = 0) && decide ((c.sp.scalar 4).toNat + 2048 ≤ windowBytes c.s c.w)) &&
    meets (.mmaBf16 0 0 0 0) (wp fun w => { w with mctx := { w.mctx with set := true } }) (fun c => c.ganged && c.w.mctx.set && skein? c fun _ => true) &&
    meets (.mmaI8i8 0 0 0 0) (wp fun w => { w with mqueue := List.replicate 4 (.zeroP none) }) (fun c => c.ganged &&
      decide (4 ≤ c.w.mqueue.length)) &&
    meets (.mmaBf16 0 0 0 3) (kn (fun k => { k with ring := true }) ∘ fun c =>
      wg (fun g => { g with ring := some ⟨c.wk, 0, 2, 0, 0, 0, [.free, .free], 0, false⟩ }) c) (fun c => ringMode c.s c.w &&
      (wgOf c.s c.w).any fun g => g.ring.any fun r => decide (r.owner = c.wk))) = true := by decide +kernel

/-- The warp's queue holds one entry. -/
def queueHolds (op : MatOp) : Cx → Cx := wp fun w => { w with mqueue := [op] }

/-- The premises of `MatrixExecutes` on a state. -/
def engineMet (c : Cx) : Bool :=
  (wgOf c.s c.w).any (fun g => Mem.wf g.acc && g.accPoison.isEmpty) && (skOf c.s c.w).any (fun k => k.resident) && !isShadow c.s c.w &&
    decide (c.w.mqueue.length = 1)

/-- A result of a matrix instruction of the split in its open window. -/
def awaits : Cx → Cx := st fun sp => { sp with pend := [{ pending with window := 1, open_ := true }] }

/-- 96 rows and 32 columns of 64 bytes. -/
def rows96 : List (List Byte) := List.replicate 96 (List.replicate 64 0)

theorem met_MatrixExecutes :
    (onSplit (splitAt 0 (queueHolds (.zero 15 none))) engineMet && onSplit (splitAt 0 (queueHolds (.zeroP none))) engineMet &&
    onSplit (splitAt 0 (queueHolds (.ring none))) (fun c => engineMet c && !ringMode c.s c.w) &&
    onSplit (splitAt 0 (queueHolds (.ring none) ∘ kn fun k => { k with ring := true })) (fun c => engineMet c && ringMode c.s c.w) &&
    onSplit (splitAt 0 (queueHolds (.toTile 0 [] true none))) engineMet &&
    onSplit (splitAt 0 (queueHolds (.toRegs 15 none 0) ∘ awaits)) (fun c => engineMet c && decide (c.sp.pend.length = 1)) &&
    onSplit (splitAt 0 (queueHolds (.msa (List.replicate 96 127) (List.replicate 32 127) [] (List.replicate 32 zeroRow) 3 none 0) ∘ awaits ∘
      wp fun w => { w with mctx := { w.mctx with pvalid := true } })) (fun c => engineMet c && decide (c.sp.pend.length = 1) && c.w.mctx.pvalid) &&
    onSplit (splitAt 0 (queueHolds (.mma 3 rows96 (rows96.take 32) [] [] (List.replicate 32 zeroRow) false false 0 none (some 0)) ∘ awaits)) (fun c =>
      engineMet c && !ringMode c.s c.w && decide (zeroRow.length = 96)) &&
    onSplit (splitAt 0 (queueHolds (.mma 9 rows96 (rows96.take 32) [] [] [] false false 0 (some 655344) none) ∘
      wp fun w => { w with mctx := { w.mctx with pvalid := true } })) (fun c => engineMet c && c.w.mctx.pvalid &&
      (skOf c.s c.w).any fun k => Mem.wf k.scratch) &&
    onSplit (splitAt 0 (queueHolds (.mma 3 rows96 (rows96.take 32) [] [] [] false true 0 none none) ∘ kn (fun k => { k with ring := true }) ∘
      wg fun g => { g with ring := some ⟨0, 0, 2, 1, 0, 0, [.open_, .free], 0, false⟩ })) (fun c => engineMet c && ringMode c.s c.w &&
      (matForm 3).integer && (wgOf c.s c.w).any fun g => g.ring.any fun r => decide (0 < r.head)) &&
    onSplit (splitAt 0 (queueHolds (.mma 9 rows96 (rows96.take 32) [] [] [] false false 0 none none))) (fun c => engineMet c && !ringMode c.s c.w) &&
    onSplit (splitAt 0 (queueHolds (.mma 9 rows96 (rows96.take 32) [] [] [] false false 0 none none) ∘ kn (fun k => { k with ring := true }) ∘
      wg fun g => { g with ring := some ⟨0, 0, 2, 1, 0, 0, [.free, .open_], 0, false⟩ })) (fun c => engineMet c && ringMode c.s c.w &&
      (wgOf c.s c.w).any fun g => g.ring.any fun r => decide (r.tiles.getD (r.head % r.len) .free ≠ .free)) &&
    onSplit (splitAt 0 (queueHolds (.mma 3 rows96 (rows96.take 32) [] [] [] true true 0 none none) ∘ kn (fun k => { k with ring := true }) ∘
      wg fun g => { g with ring := some ⟨0, 0, 16, 15, 0, 0, List.replicate 16 .free, 0, false⟩ })) (fun c => engineMet c && ringMode c.s c.w &&
      (wgOf c.s c.w).any fun g => g.ring.any fun r => decide (r.tiles.getD (r.head % r.len) .free = .free))) = true := by decide +kernel

/-! ### Engine programs -/

/-- The engine program's workgroup with a ring of two tiles. -/
def ringed (t : RingTile) (x : Ex) : Ex := { x with wg := { x.wg with ring := some ⟨0, 0, 2, 1, 0, 0, [t, .free], 0, false⟩ } }

/-- Tags of the two tiles. -/
def tags (w q : Tag) (x : Ex) : Ex := { x with en := { x.en with w := { x.en.w with tag := w }, q := { x.en.q with tag := q } } }

/-- An operand inside the engine program's window. -/
def engineFitsB (x : Ex) (a align n : Nat) : Bool := decide (a % align = 0) && decide (a + n ≤ x.window)

theorem met_EngineSynchronisation :
    (meetsEngine .ePop id (fun x => x.wg.ring.isNone) && meetsEngine .ePop (ringed .open_) (fun x => x.wg.ring.isSome) &&
    meetsEngine .ePop (ringed .free) (fun x => (Tab.get? x.s.warps 0).any (fun w => decide (w.launched &&& ~~~w.exited ≠ 0)) &&
      x.wg.ring.any fun r => decide (r.owner = 0)) &&
    meetsEngine .ePop (fun x => { x with wg := { x.wg with ring := some ⟨9, 0, 2, 1, 0, 0, [.free, .ready .f32 false], 0, false⟩ } }) (fun x =>
      (Tab.get? x.s.warps 9).isNone && x.wg.ring.any fun r => r.tiles.any fun t => decide (t ≠ .free)) &&
    meetsEngine .ePop (fun x => { x with wg := { x.wg with ring := some ⟨9, 0, 2, 1, 0, 0, [.free, .free], 0, false⟩ } }) (fun x =>
      (Tab.get? x.s.warps 9).isNone && x.wg.ring.any fun r => r.tiles.all fun t => decide (t = .free)) &&
    meetsEngine .ePop (ringed (.ready .i32 false)) (fun x => x.wg.ring.isSome && x.wg.accPoison.isEmpty) &&
    meetsEngine (.eArv 63 5) (es [(5, 655344)]) (fun x => engineFitsB x 655344 16 16 && decide (x.en.unack.getD 1 0 = 0) &&
      decide (x.en.pending.bits.toNat < 2 ^ 48) && x.skein.any fun k => Mem.wf k.scratch) &&
    meetsEngine (.eArv 4 5) (fun x => { x with en := { x.en with unack := [1, 1, 0, 0, 0] } }) (fun x => decide (x.en.unack.getD 1 0 ≠ 0)) &&
    meetsEngine (.eWait 4 5 0) id (fun x => engineFitsB x 0 16 16 && x.skein.any fun k => k.scratchPoison.isEmpty && decide (Mem.le k.scratch 6 2 = 0)) &&
    meetsEngine (.eWait 62 5 6) (es [(6, 1)]) (fun x => x.skein.any fun k => decide (Mem.le k.scratch 6 2 ≠ 1)) &&
    meetsEngine (.eBr 0 0x800) id (fun _ => true) && meetsEngine .eEnd id (fun x => decide (x.en.unack.getD 0 0 = 0)) &&
    meetsEngine .eEnd (fun x => { x with en := { x.en with unack := [1, 0, 0, 0, 0] } }) (fun x => decide (x.en.unack.getD 0 0 ≠ 0))) = true := by
  decide +kernel

theorem met_TileArithmetic :
    (meetsEngine (.eSa 0 0 0) id (fun x => x.en.w.poison.isEmpty && x.en.q.poison.isEmpty) &&
    meetsEngine (.eSa 1 0 0) (tags .i32 .i32) (fun x => decide (x.en.w.tag = .i32) && decide (x.en.q.tag = .i32)) &&
    meetsEngine (.eSa 1 0 0) id (fun x => decide (x.en.w.tag ≠ .i32)) &&
    meetsEngine (.eSa 3 4 5) (es [(4, 655264), (5, 655328)] ∘ tags .i32 .f32) (fun x => decide (x.en.q.tag = .f32) && engineFitsB x 655264 32 96 &&
      engineFitsB x 655328 32 32 && x.skein.any fun k => k.scratchPoison.isEmpty) &&
    meetsEngine (.eSa 2 4 5) id (fun x => decide (x.en.w.tag = .f32) && engineFitsB x 0 32 96) &&
    meetsEngine (.eBias 1 4) (es [(4, 654976)] ∘ tags .i32 .f32) (fun x => engineFitsB x 654976 4 384 && decide (x.en.w.tag = .i32)) &&
    meetsEngine (.eBias 0 4) id (fun x => decide (x.en.w.tag = .f32) && engineFitsB x 0 4 128) &&
    meetsEngine (.eBias 0 4) (tags .f16 .f32) (fun x => decide (x.en.w.tag ≠ .i32) && decide (x.en.w.tag ≠ .f32)) &&
    meetsEngine (.eAct 4) id (fun x => decide (x.en.w.tag = .f32)) && meetsEngine (.eAct 0) (tags .bf16 .f32) (fun x => decide (x.en.w.tag ≠ .f32)) &&
    meetsEngine (.eCvt 5 5) id (fun x => decide (x.en.w.tag = .f32)) && meetsEngine (.eCvt 0 1) (tags .i32 .f32) (fun x => decide (x.en.w.tag = .i32)) &&
    meetsEngine (.eCvt 0 0) (tags .f16 .f32) (fun x => decide (x.en.w.tag = .f16)) &&
    meetsEngine (.eBnd 15) (fun x => { x with wg := { x.wg with selvedge := x.wg.selvedge.set 15 ⟨0, 3, 1, 1, false⟩ } }) (fun x =>
      x.wg.selvedge[15]? == some ⟨0, 3, 1, 1, false⟩) &&
    [1, 2].all (fun act => meetsEngine (.eBnd 15) (fun x => { x with wg := { x.wg with
        selvedge := x.wg.selvedge.set 15 ⟨0, act, 0x40000000, 0x3F800000, false⟩ } }) (fun x => (x.wg.selvedge[15]?).any fun v =>
      outOfBounds v (x.en.w.at 0) && !v.poison && decide (x.en.w.tag = .f32))) &&
    meetsEngine (.eBnd 0) id (fun x => (x.wg.selvedge[0]?).any fun v => decide (v.act = 0) && !v.poison)) = true := by decide +kernel

theorem met_TileStores :
    (meetsEngine (.eSt 4 6 7) (es [(7, 0x00400000)]) (fun x => (storeControl (x.scalar 7).toNat).isNone) &&
    meetsEngine (.eSt 4 6 7) (es [(4, 2)]) (fun x => decide (storeControl (x.scalar 7).toNat = some (false, 96, 32))) &&
    meetsEngine (.eSt 4 6 7) (es [(6, 128), (7, 0x00206001)]) (fun x => decide (storeControl (x.scalar 7).toNat = some (true, 96, 32)) &&
      decide (x.en.progress = 0) && decide (96 * 128 ≤ x.window) && x.skein.any fun k => Mem.wf k.scratch && k.scratchPoison.isEmpty) &&
    meetsEngine (.eSt 4 6 7) (es [(4, 0x8000), (6, 128), (7, 0x00010200)]) (fun x => decide (storeControl (x.scalar 7).toNat = some (false, 2, 1)) &&
      (storedAll (enginePartyOf x.s x.wg) (engineKey x.g) x.s [(0x8000, leBytes 4 0)]).isSome) &&
    meetsEngine (.eAst 4 6 7) (es [(4, 0x8000), (6, 128), (7, 0x00010200)] ∘ tags .i32 .f32) (fun x => decide (x.en.w.tag = .i32) &&
      (lineObstacle x.s (enginePartyOf x.s x.wg) x.en.w 0x8000).isNone &&
      (addedAll (enginePartyOf x.s x.wg) (engineKey x.g) .i32 x.s [(0x8000, 0)]).isSome) &&
    meetsEngine (.eAst 4 6 7) (es [(4, 0x8000), (6, 128), (7, 0x00010200)]) (fun x => decide (x.en.w.tag = .f32) &&
      (addedAll (enginePartyOf x.s x.wg) (engineKey x.g) .f32 x.s [(0x8000, 0x3F800000)]).isSome) &&
    meetsEngine (.eSt 4 6 7) ((fun x => { x with en := { x.en with progress := 1 } }) ∘ es [(4, 0x8000), (6, 128), (7, 0x00010200)]) (fun x =>
      decide (x.en.progress = (2 - 1) * 1) && (storedAll (enginePartyOf x.s x.wg) (engineKey x.g) x.s [(0x8080, leBytes 4 0)]).isSome) &&
    meetsEngine (.eSt 4 6 7) (es [(4, 0x8000), (6, 128), (7, 0x00010100)]) (fun x =>
      decide (storeControl (x.scalar 7).toNat = some (false, 1, 1)) && decide (x.en.progress = 0)) &&
    meetsEngine (.eAst 4 6 7) ((fun x => { x with en := { x.en with progress := 1 } }) ∘ es [(4, 0x8000), (6, 128), (7, 0x00010200)] ∘
      tags .i32 .f32) (fun x => decide (x.en.progress = 2 - 1) && (lineObstacle x.s (enginePartyOf x.s x.wg) x.en.w 0x8080).isNone &&
      (addedAll (enginePartyOf x.s x.wg) (engineKey x.g) .i32 x.s [(0x8080, 0)]).isSome) &&
    meetsEngine (.eAst 4 6 7) (es [(4, 0x8000), (6, 128), (7, 0x00010100)]) (fun x =>
      decide (storeControl (x.scalar 7).toNat = some (false, 1, 1)) && decide (x.en.progress = 0)) &&
    meetsEngine (.eAst 4 6 7) (tags .bf16 .f32) (fun x => decide (x.en.w.tag ≠ .i32) && decide (x.en.w.tag ≠ .f32))) = true := by decide +kernel

/-! ### The machine around: selection, commands, calls, scheduling, translation, pod, network, platform -/

/-- A split ready at its run. -/
def readySplit : Cx → Cx := st fun sp => { sp with status := .ready }

/-- A split that has no run. -/
def noRun : Cx → Cx := st fun sp => { sp with status := .ready, run := Run.none 0x100000 }

theorem met_SelectionAndFetch :
    (first (idle readySplit) (fun c => mayIssue c.s c.w && decide (c.w.splits = [(0, c.sp)]) && c.w.spill.isEmpty && c.sp.selectable &&
      decide (c.s.warps.length = 1)) &&
    first (idle fun c => noRun { c with s := { c.s with mem := Mem.writeBytes c.s.mem 0x100000 (leBytes 4 0xFF7F7F7F) } }) (fun c =>
      c.sp.wantsFetch && (freeSlot c.s c.w).isSome && c.s.xlate.held.isEmpty &&
      match fetchRun (partyOf c.s c.w) 24 c.s c.sp.run.start with | .ok _ ws => decide (ws = [0xFF7F7F7F]) | _ => false) &&
    first (idle (noRun ∘ fun c => { c with s := { c.s with xlate := Xlate.empty } })) (fun c => c.sp.wantsFetch &&
      match fetchRun (partyOf c.s c.w) 24 c.s c.sp.run.start with | .fault _ => true | _ => false) &&
    first (idle (st (fun sp => { sp with stall := .denied 0x25 }) ∘ noRun)) (fun c => c.sp.wantsFetch && now c && decide (c.sp.stall = .denied 0x25)) &&
    first (idle (st (fun sp => { sp with status := .stalled, stall := .other }) ∘ noRun ∘ fun c =>
      { c with s := { c.s with mem := Mem.writeBytes c.s.mem 0x100000 (leBytes 4 0xFF7F7F7F) } })) (fun c => c.sp.wantsFetch &&
      decide (c.sp.status = .stalled) && (freeSlot c.s c.w).isSome &&
      match fetchRun (partyOf c.s c.w) 24 c.s c.sp.run.start with | .ok _ ws => decide (ws = [0xFF7F7F7F]) | _ => false)) = true := by
  decide +kernel

/-- A result of v5 whose window has closed, with a value for lane 95. -/
def arriving : Pend := { pending with inRun := false, rows := [List.replicate 95 none ++ [some (7, false)]], kept := [0] }

/-- A marker of the warp for two writes at scope dev. -/
def markerOf (need : Nat) : Cmd := ⟨0, 0, 0, 1, .marker need 2 0, none, 0, .active, false, none, none, 1, 0, 0, none⟩

theorem met_Arrivals :
    (first (idle (st fun sp => { sp with pend := [arriving] })) (fun c => decide (c.w.splits = [(0, c.sp)]) && c.w.spill.isEmpty &&
      decide (c.sp.pend = [arriving]) && arriving.dest.vector && decide (arriving.kept.getD 0 0 = 0) && c.w.vregs.all fun r => r.2.length == 96) &&
    first (idle ((fun c => { c with s := { c.s with cmds := [(7, markerOf 2)] } }) ∘ wp fun w => { w with unack := [2, 2, 2, 0, 0] })) (fun c =>
      decide (c.w.unack.length = 5) && decide (heldCount c.s 0 < c.w.unack.getD 2 0)) &&
    onEngine (boot 0xF7600000) (fun x => decide (x.en.unack.length = 5))) = true := by decide +kernel

/-- A command under number 7 in a booted state. -/
def commanded (x : Cmd) (f : Cx → Cx) : State := idle fun c => f { c with s := { c.s with cmds := [(7, x)] } }

/-- A copy of no element, as command 1 of counter 0. -/
def copyOf (d : List Byte) : Cmd := ⟨0, 0, 0, 1, .copy d true, some 655344, 0, .active, false, none, none, 1, 0, 0, none⟩

/-- Neither cancelled, held nor paused. -/
def runs7 (s : State) (x : Cmd) : Bool := !cmdCancelled s x && !cmdHeld s 7 && !cmdPaused s x

theorem met_CommandsComplete :
    (runs7 (commanded (copyOf (zeroing 0)) id) (copyOf (zeroing 0)) &&
    (copyFrom (commanded (copyOf (zeroing 0)) id) (cmdParty (commanded (copyOf (zeroing 0)) id) (copyOf (zeroing 0))) 7 (copyOf (zeroing 0)) 1 0
      (commanded (copyOf (zeroing 0)) id) false).stop.isNone &&
    decide (copyTotal (copyOf (zeroing 0)).kind = some 1) &&
    (match (copyFrom (commanded (copyOf (zeroing 0x40000000)) id) (cmdParty (commanded (copyOf (zeroing 0x40000000)) id) (copyOf (zeroing 0x40000000))) 7
      (copyOf (zeroing 0x40000000)) 1 0 (commanded (copyOf (zeroing 0x40000000)) id) false).stop with
      | some (.stop _ _) => true
      | _ => false) &&
    cmdCancelled (commanded (copyOf (zeroing 0)) fun c =>
      { c with s := { c.s with launches := c.s.launches.map fun p => (p.1, { p.2 with cancelled := true }) } }) (copyOf (zeroing 0)) &&
    first (commanded (markerOf 0) id) (fun c => (wgOf c.s c.w).any fun g => decide (g.counters.length = 8))) = true := by decide +kernel

/-- A fill of one or two blocks at 8 MiB. -/
def fillOf (n : Nat) : Cmd := ⟨0, 0, 0, 1, .fill 0x800000 (4096 * n), none, 0, .active, false, none, none, 1, 0, 0, none⟩

theorem met_NearCommands :
    (runs7 (commanded (fillOf 1) id) (fillOf 1) &&
    (match (nearFrom (commanded (fillOf 1) id) (cmdParty (commanded (fillOf 1) id) (fillOf 1)) 7 (fillOf 1) 1 0 0 (commanded (fillOf 1) id)).bar with
      | .none => true
      | _ => false) &&
    runs7 (commanded (fillOf 2) id) (fillOf 2) &&
    first (commanded { fillOf 1 with phase := .stopped 0x20 0x800000 } (readySplit ∘ hd)) (fun c => decide (c.w.launched &&& ~~~c.w.exited ≠ 0) &&
      decide (stopTaker c.w = some 0) && now c && c.w.far.isNone && !c.sp.trap.handler && decide (c.tvec ≠ 0) &&
      !cmdHeld c.s 7 && !cmdPaused c.s { fillOf 1 with phase := .stopped 0x20 0x800000 })) = true := by decide +kernel

theorem met_NearOperations :
    first (idle fun c => { c with s := { c.s with nearOps := [(9, nearOp 0)] } }) (fun c => Mem.wf c.s.mem && c.s.memPoison.isEmpty &&
      decide (Tab.get? c.s.nearOps 9 = some (nearOp 0))) = true := by decide +kernel

/-- A far call in flight to an entry. -/
def callMsg (entry : DWord) : CallMsg := ⟨0, 9, 0, entry, 0x8000, [1, 2], 1, 0⟩

/-- Core 319 with a number of replies in its cache, the first of a call that still executes or of another. -/
def cached (n : Nat) (seq : Nat) (c : Cx) : Cx :=
  let x (k : Nat) : Nat × CacheEntry := (k, ⟨0, if k = 0 then seq else 100 + k, 1, none, 0⟩)
  { c with s := { c.s with targets := [(319, ⟨[], (List.range n).map x, []⟩)], callMsgs := [(3, callMsg 0x100000)] } }

/-- Four far tasks on core 319. -/
def fourTasks (c : Cx) : Cx :=
  { c with s := { c.s with warps := c.s.warps ++ (List.range 4).map fun k =>
      (100 + k, { c.w with core := 319, far := some ⟨0, k, 319, 1, 0, 0, none⟩ }) } }

/-- R169: a reply that comes once the millisecond of its call is over is discarded, whether or not the TIMEOUT is delivered. -/
theorem test_reply_late :
    (match exec (.farReplyArrival 3) (idle ((fun c => { c with s := { c.s with replyMsgs := [(3, ⟨0, 9, 319, 0, 0, [5]⟩)] } }) ∘
        wp fun w => { w with calls := [(7, ⟨9, 0, false, none, none⟩)] })) with
      | .next t => first t (fun c => (Tab.get? c.w.calls 7).any fun x => x.reply.isNone) && t.replyMsgs.isEmpty
      | _ => false) = true := by decide +kernel

theorem met_FarTasks :
    (first (idle id) (fun c => decide (farRunning c.s 319 < 4) && canonical (callMsg 0x100000).entry && (Tab.get? c.s.targets 319).isNone &&
      !c.s.plat.fenced.contains (.core 319) && !canonical (callMsg 0x100000000000000).entry) &&
    first (idle fourTasks) (fun c => decide (4 ≤ farRunning c.s 319)) &&
    first (idle fun c => let d := cached 1 8 c; { d with s := { d.s with plat := { d.s.plat with fenced := [.core 319] } } }) (fun c =>
      c.s.plat.fenced.contains (.core 319) && (Tab.get? c.s.callMsgs 3).any (fun m => decide (m.seq = 9)) &&
      (Tab.get? c.s.targets 319).any fun x => x.waiting.isEmpty && x.cache.all fun e => e.2.seq != 9) &&
    first (idle fun c => { c with s := { c.s with targets := [(319, ⟨[callMsg 0x100000], [], []⟩)] } }) (fun c =>
      (Tab.get? c.s.targets 319).any fun x => !x.waiting.isEmpty && x.cache.isEmpty) &&
    first (idle (cached 64 8)) (fun c => (Tab.get? c.s.targets 319).any (fun x => x.waiting.isEmpty && decide (64 ≤ x.cache.length) &&
      x.cache.all fun e => e.2.seq != 9) && (Tab.get? c.s.callMsgs 3).any fun m => decide (m.seq = 9)) &&
    first (idle (cached 1 9)) (fun c => (Tab.get? c.s.targets 319).any fun x => x.cache.all fun e => e.2.seq == 9 && e.2.reply.isNone) &&
    first (idle (wp fun w => { w with calls := [(7, ⟨9, 10, false, none, none⟩)] })) (fun c => (openWaits c.w).isEmpty &&
      (Tab.get? c.w.calls 7).any fun x => decide (x.seq = 9) && x.reply.isNone && !x.timedOut && decide (c.s.timer < x.deadline)) &&
    first (idle (wp fun w => { w with calls := [(7, ⟨9, 0, false, none, none⟩)] })) (fun c => (Tab.get? c.w.calls 7).any fun x =>
      decide (x.deadline ≤ c.s.timer)) &&
    onSplit (boot 0x98040000) (fun c => c.w.far.any fun f => decide (c.s.timer < f.started + 10000000)) &&
    onSplit (splitAt 0x98040000 fun c => { c with s := { c.s with timer := 100000000 } }) (fun c => c.w.far.any fun f =>
      decide (f.started + 10000000 ≤ c.s.timer) && decide (0 + 100000000 ≤ c.s.timer) && f.ending.isNone && clear c 2) &&
    onSplit (splitAt 0x98040000 ((wp fun w => { w with unack := [1, 1, 1, 0, 0] }) ∘ fun c => { c with s := { c.s with timer := 100000000 } })) (fun c =>
      c.w.far.any fun f => decide (f.started + 10000000 ≤ c.s.timer) && !clear c 2)) = true := by decide +kernel

/-- A split that has ended. -/
def ended : Cx → Cx := fun c =>
  let w := { c.w with exited := c.w.launched, splits := [] }
  { c with s := { c.s with warps := [(0, w)] }, w := w }

theorem met_Retirement :
    (warpDone { idle id with warps := [(0, { (match Tab.get? (idle id).warps 0 with | some w => w | none => Warp.start 0 0 0 0 0 (bootSplit 0 0 0)) with
        exited := allLanes, splits := [] })] } 0
      { (match Tab.get? (idle id).warps 0 with | some w => w | none => Warp.start 0 0 0 0 0 (bootSplit 0 0 0)) with exited := allLanes, splits := [] } &&
    first (idle id) (fun c => decide (c.w.launched &&& ~~~c.w.exited ≠ 0) && (wgOf c.s c.w).isSome && (skOf c.s c.w).any fun k => !skeinDone c.s 0 k) &&
    (match Tab.get? ({ idle id with warps := [] } : State).skeins 0 with
      | some k => skeinDone { idle id with warps := [], wgs := (idle id).wgs.map fun p => (p.1, { p.2 with warps := [] }) } 0 k
      | none => false) &&
    launchQuiet { idle (queued 3 queue) with warps := [], wgs := [], skeins := [] } 0 &&
    (match Tab.get? (idle (queued 3 queue)).launches 0 with
      | some l => decide (l.origin = .slot 3 0) && !l.rollbackWanted && decide (gridSize l.record ≤ l.next) && decide (l.refusal < 256) &&
        decide (l.record.doneAddr = 0)
      | none => false) &&
    decide (queue.header + 64 ≤ 0x4040)) = true := by decide +kernel

/-- A launch from a queue whose record names DONEADDR, its work over. -/
def doneAt (a : DWord) (cause : Option Nat) : State :=
  let s := idle (queued 3 queue)
  { s with
    warps := []
    wgs := []
    skeins := []
    launches := s.launches.map fun p => (p.1, { p.2 with record := { p.2.record with doneAddr := a, doneVal := 7 }, doneCause := cause }) }

theorem met_Retirement_done :
    ([none, some 0x25].all fun cause => launchQuiet (doneAt 0xA000 cause) 0 && (match Tab.get? (doneAt 0xA000 cause).launches 0 with
      | some l => decide (l.origin = .slot 3 0) && !l.rollbackWanted && decide (gridSize l.record ≤ l.next) && decide (l.refusal < 256) &&
        decide (l.record.doneAddr ≠ 0) && decide (l.doneCause = cause)
      | none => false) && Mem.wf (doneAt 0xA000 cause).mem) = true ∧
    (match writeGlobal (putPhys (doneAt 0xA000 none) (0 + 120) (leBytes 8 2)) (queueParty 1) 0 0xA000 (leBytes 8 7) [] with
      | .ok s2 l b => decide (s2.queues = (doneAt 0xA000 none).queues) && Mem.wf s2.mem && l.isEmpty && b.isEmpty && decide (queueHead s2 queue = 0)
      | _ => false) = true := by decide +kernel

/-- R272: RESULT, DONEVAL at DONEADDR, and HEAD. -/
theorem test_done :
    (match exec (.gridRetire 0) (doneAt 0xA000 none) with
      | .next t => Mem.le t.mem 120 8 == 2 && Mem.le t.mem 0xA000 8 == 7 && queueHead t queue == 1
      | _ => false) = true := by decide +kernel

/-- Queue 3 with its first record at 0x8000, and no launch. -/
def unlaunched (c : Cx) : Cx :=
  let q := { queue with hostFed := false, base := 0x8000, next := 0 }
  { c with s := { c.s with launches := [], queues := [(3, q)] } }

theorem met_LaunchQueues :
    (queueBindingOk ⟨0x4000, 0x10000, 65536, 3, true, 1⟩ && Mem.wf State.reset.mem &&
    first (idle (queued 1023 queue)) (fun c => (Tab.get? c.s.queues (0xFFFFFFFF % 1024)).any fun x => x.hostFed) &&
    first (idle fun c => unlaunched (fed 1 c)) (fun c =>
      (Tab.get? c.s.queues 3).any fun x => queueEligible c.s 3 x && recordClean (Mem.bytes c.s.mem (x.slotAt 0) 128) &&
        decide (peek c.s 1 0x9000 64 = .ok kernelBytes) && decide (x.next < 2) && (Tab.get? x.accepted x.next).isNone) &&
    first (idle fun c => unlaunched (fed 1 c)) (fun c => decide (c.s.plat.power ≠ .recovery) && queueEligible
      { c.s with queues := c.s.queues.map fun p => (p.1, { p.2 with accepted := [(0, kernelBytes)] }) } 3
      { queue with hostFed := false, base := 0x8000, next := 0, accepted := [(0, kernelBytes)] }) &&
    first (idle fun c =>
        let d := unlaunched (fed 1 c)
        { d with s := { d.s with queues := d.s.queues.map fun p => (p.1, { p.2 with cancelled := [0] }) } }) (fun c =>
      (Tab.get? c.s.queues 3).any fun x => queueEligible c.s 3 x && x.cancelled.contains x.next) &&
    first (idle fun c => fed 2 c) (fun c =>
      (Tab.get? c.s.queues 3).any fun x => decide (queueHead c.s x = 0) && decide (queueEnd c.s x = 2) && x.retired.isEmpty)) = true := by
  decide +kernel

/-- A fault-buffer entry of an access to the GiB at 1 GiB. -/
def heldFor (w : Waiter) : Held := ⟨0, 1, 0x40000000, 30, 1, false, true, w, true⟩

/-- That GiB paged out, with one party waiting for it. -/
def pagedFor (w : Waiter) (f : Cx → Cx) : State := idle fun c =>
  f { c with s := { c.s with mem := Mem.writeBytes c.s.mem 0x3008 (leBytes 8 0x400), xlate := { c.s.xlate with held := [(0, heldFor w)] } } }

/-- The entry is one of the page that is serviced. -/
def pagedMet (w : Waiter) (f : Cx → Cx) (p : Cx → Bool) : Bool :=
  first (pagedFor w f) fun c => decide ((heldFor w).page = (0x7FFFFFFF#64).toNat % 2 ^ 57 / 2 ^ (heldFor w).bits) &&
    pagedOut c.s 1 (heldFor w).va && p c

theorem met_RefusedWaiters :
    (pagedMet (.retire 0) id (fun c => (Tab.get? c.s.launches 0).isSome) &&
    pagedMet (.queue 3) (queued 3 queue) (fun c => (Tab.get? c.s.queues 3).isSome) &&
    pagedMet (.graph 2) (fun c => { c with s := { c.s with graphs := [(2, ⟨3, 0, 1, [], bootRecord, [], false, false⟩)] } }) (fun c =>
      (Tab.get? c.s.graphs 2).isSome) &&
    pagedMet (.engine 0) (wg fun g => { g with engine := some (bootEngine 0x8000) }) (fun c => (Tab.get? c.s.wgs 0).any fun g => g.engine.isSome) &&
    pagedMet (.stalled 0 0) (st fun sp => { sp with status := .stalled }) (fun c => decide (c.sp.status = .stalled)) &&
    pagedMet (.fetch 0 0) id (fun c => now { c with s := { c.s with xlate := { c.s.xlate with held := [] } } }) &&
    pagedMet (.network 5) id (fun _ => true) &&
    pagedMet (.command 7) (fun c => { c with s := { c.s with cmds := [(7, copyOf (zeroing 0))] } }) (fun c => (Tab.get? c.s.cmds 7).any fun x => x.issuer.isNone) &&
    pagedMet (.command 7) (fun c => { c with s := { c.s with cmds := [(7, { copyOf (zeroing 0) with kind := .nput 0x3FFFFFFF 0 2 5 0 1 })] } })
      (fun c => (Tab.get? c.s.cmds 7).any fun x => x.issuer.isNone && !cmdCancelled c.s x) &&
    pagedMet (.command 7) (fun c => { c with s := { c.s with cmds := [(7, { copyOf (zeroing 0) with kind := .nget 0x3FFFFFFF 0 2 5 0 1 })] } })
      (fun c => (Tab.get? c.s.cmds 7).any fun x => x.issuer.isNone && !cmdCancelled c.s x &&
        decide (x.progress < (0x40000000#64 - 0x3FFFFFFF#64).toNat)) &&
    pagedMet (.command 7) (fun c => { c with s := { c.s with cmds := [(7, { fillOf 1 with issuer := some (0, 95) })] } }) (fun c =>
      (Tab.get? c.s.cmds 7).any (fun x => decide (x.issuer = some (0, 95)) && decide (x.warp = 0) && !cmdCancelled c.s x) && c.w.spill.isEmpty &&
      decide (c.w.splits = [(0, c.sp)]) && c.sp.lanes.getLsbD 95) &&
    pagedMet (.command 7) (fun c => { c with s := { c.s with
        cmds := [(7, copyOf (zeroing 0))], launches := c.s.launches.map fun p => (p.1, { p.2 with cancelled := true }) } }) (fun c =>
      (Tab.get? c.s.cmds 7).any fun x => cmdCancelled c.s x) &&
    [none, some 5].all (fun again =>
      pagedMet (.lanes 0 none (.store 4) [⟨94, 0x40000004, 0, 0, false, 0, again, 0⟩, ⟨95, 0x40000000, 0, 0, false, 0, again, 0⟩]
          0x100000 0xA7 allLanes) id (fun c => decide (94 < 95) && c.sp.lanes.getLsbD 94 &&
        decide (c.w.splits = [(0, c.sp)]) && c.w.spill.isEmpty && c.sp.pend.isEmpty && c.sp.faults.isEmpty && c.sp.lanes.getLsbD 95))) = true := by
  decide +kernel

/-- R294: an access without a fault-buffer entry is not refused; it takes one that is free, and a later access at its offset in a frame
waits for it. -/
theorem test_entry :
    first (idle id) (fun c =>
      let w : Waiter := .lanes 0 none (.store 4) [⟨95, 0x40000010, 0, 0, false, 0, none, 0⟩] 0x100000 0xA7 allLanes
      let s := pagedFor w id
      let t := { s with xlate := { s.xlate with held := [(0, { heldFor w with entry := false })] } }
      (match exec (.faultService 1 0x40000000 false 0) t with | .next u => decide (u = t) | _ => false) && admitDue t && !admitDue (admitPages t) &&
        decide (admitPages t = s) && heldOverlap s c.wk (.load 4 false) ⟨0, 0x8010, 0, 0, false, 1, none, 0⟩ &&
        !heldOverlap s c.wk (.load 4 false) ⟨0, 0x8014, 0, 0, false, 1, none, 0⟩) = true := by
  decide +kernel

theorem met_ServicedPage : first (pagedFor (.retire 0) id) (fun c =>
    (heldFor (.retire 0)).ready (claimFrames c.s (writePte c.s 1 0x7FFFFFFF 0x4000004F))) = true := by decide +kernel

theorem met_TranslationService :
    ((idle id).xlate.held.isEmpty && (idle id).xlate.frames.isEmpty && (idle id).plat.fenced.isEmpty &&
    first (idle fun c => { c with s := { c.s with xlate := { c.s.xlate with requests := [⟨1, 5, false, .translation⟩, ⟨1, 6, true, .page⟩] } } }) (fun c =>
      c.s.xlate.requests.any (fun q => q.asid == 1 && q.page == 5 && q.stage == .translation) &&
      c.s.xlate.requests.any (fun q => q.page == 6 && q.stage == .page) && c.s.xlate.requests.all fun q => q.stage != .blocked && q.stage != .withheld) &&
    decide (([⟨1, 5, true, .translation⟩, ⟨1, 5, false, .translation⟩] : List PageRequest).find?
      (fun q => q.asid == 1 && q.page == 5 && q.stage == .translation) = some ⟨1, 5, true, .translation⟩) &&
    first (idle id) (fun c => c.s.xlate.invalidations.isEmpty && c.s.nearOps.isEmpty && c.s.net.queueOps.isEmpty &&
      (contributions c.s).isEmpty &&
      (c.s.warps.all fun w => partyWrites c.s w.1 == 0) && c.s.wgs.all fun g => partyWrites c.s (engineKey g.1) == 0) &&
    first (idle (wp fun w => { w with unack := [1, 1, 1, 1, 1] })) (fun c => decide (0 < partyWrites c.s 0) && decide (asidOf c.s c.w = 1)) &&
    decide (32 ≤ ((List.replicate 32 (⟨true, [(0, 1)], [], [], []⟩ : Invalidation)).filter fun i => i.host).length) &&
    first (idle fine) (fun c => match walk c.s 1 0 with
      | .leaf e 0 _ => decide (pteField e 5 3 < 2) && decide (pteField e 8 2 = 0) && Mem.wf c.s.mem
      | _ => false) &&
    (Tab.get? (idle id).xlate.contexts 1).isSome) = true := by decide +kernel

theorem met_Scheduling :
    (first (idle id) (fun c => (Tab.get? c.s.skeins 0).any fun k => k.active && decide (c.s.skeins.length = 1)) &&
    first (idle (sk fun k => { k with phase := .preempting })) (fun c => (Tab.get? c.s.skeins 0).any fun k => !k.requested && !skeinDrained c.s 0 k) &&
    (match Tab.get? (idle id).skeins 0 with
      | some k => skeinDrained { idle (st fun sp => { sp with status := .ready, run := { sp.run with slot := none, pos := 0 } }) with
          skeins := [(0, { k with phase := .preempting })] } 0 { k with phase := .preempting }
      | none => false) &&
    decide (candidates { idle id with skeins := [], wgs := [], warps := [], queues := [(3, queue)], launches :=
        [(0, { launchOf (.slot 3 0) 1 0 bootRecord { bootKernel with coop := false } with next := 0 })] } = [(0, 3, .fresh 0)]) &&
    (let s := { idle id with skeins := [], wgs := [], warps := [] }
    placementFits (usableCores s 79) 79 (shareOf s) (quadLoads s 79)
      ((newLoad s { bootKernel with coop := false }).seated ⟨79, [319], [319], [[3]]⟩)) &&
    first (idle (queued 3 { queue with waitingSince := some 0 } ∘ fun c => { c with s := { c.s with slices := [1, 0, 0, 0], timer := 1001 } })) (fun c =>
      decide (0 + 1000 * c.s.slices.getD 0 0 < c.s.timer) && decide (c.s.slices.getD 0 0 ≠ 0))) = true := by
  decide +kernel

theorem met_Modules :
    (first (idle (podded (module0 2 0 0))) (fun c => touchesModule c.s 0 && decide (6 < podSize c.s) && (headOf c.s 0 c.s.net.podpos).isSome &&
      reachesPackage c.s 1 &&
      !touchesModule c.s 6 && (Tab.get? c.s.net.modules 0).any fun x => !x.lost && Mem.wf x.mem && x.rounds.isEmpty && x.waiting.isEmpty) &&
    first (idle (podded (module0 2 0 0))) (fun c => decide (1 ≤ c.s.net.podq) && decide (0 < podSize c.s) &&
      c.s.net.ports.all (fun p => p.1 == 0 || p.2 != 0) && !c.s.plat.fenced.contains (.modulePort 0) && c.s.net.ports.any fun p => p.1 != 1 && p.2 == 0) &&
    first (idle fun c => podded (module0 2 0 0) c) (fun c => (List.range 7).any fun m => decide (m ≠ 0) && (headOf c.s m 1).isSome) &&
    (idle id).xlate.held.isEmpty && (idle id).cmds.isEmpty) = true := by decide +kernel

/-- A put of the connection's first message, 64 bytes into the end of its window. -/
def putPacket : Packet :=
  { dport := 19511, sport := 0, dep := 0, sep := 2, conn := 5, op := .put, win := 4, tenant := 1, psn := 1, msn := 1, mlen := 8, roff := 56, poff := 0, payload := leBytes 8 9 }

/-- An acknowledgement of it. -/
def putAck : ReltexAck := ⟨{ putPacket with op := .acknowledgement, payload := [] }, false, true⟩

/-- A packet arrives for a connection in a state. -/
def arrivesB (s : State) (p : Packet) (x : Conn) : Bool :=
  packetOk p && decide (Tab.get? s.net.conns p.conn = some x) && !x.failed && decide (p.dport = 19511) && decide (p.dep = s.net.epid) &&
    decide (p.sep = x.binding.remoteEndpoint)

/-- The connection with one packet on the wire. -/
def sending (cmd : Option Nat) (tries : Nat) : Conn := { conn with out := [⟨putPacket, cmd, tries, 0⟩] }

theorem met_Reltex :
    (bindingOk 5 conn.binding && first (idle (bound5 conn)) (fun c => (Tab.get? c.s.net.conns 5).any fun x => !x.failed && x.received.isEmpty &&
      x.messages.isEmpty && decide (x.mark = 0) && match placeBytes c.s x.party 0x8038 (leBytes 8 9) with | .ok t [] [] => decide (t.net = c.s.net)
                                                                                                          | _ => false) &&
    decide (putPacket.roff + putPacket.mlen ≤ 64) && decide (putPacket.payload.length = putPacket.mlen) &&
    first (idle ((fun c => { c with s := { c.s with timer := 10000 } }) ∘ bound5 (sending none 0))) (fun c => (Tab.get? c.s.net.conns 5).any fun x =>
      x.out.all (fun o => o.sentAt + x.binding.timeoutNs ≤ c.s.timer && o.tries < x.binding.retries)) &&
    first (commanded (markerOf 0) (bound5 (sending (some 7) 1))) (fun c => (Tab.get? c.s.net.conns 5).any fun x =>
      x.out.all (fun o => x.binding.retries ≤ o.tries && o.cmd == some 7) && (Tab.get? c.s.cmds 7).isSome) &&
    arrivesB (idle (bound5 conn)) putPacket conn && arrivesB (idle (bound5 (sending none 0))) putAck.pkt (sending none 0) &&
    arrivesB (idle (bound5 { conn with binding := { conn.binding with windows := [] } })) putPacket { conn with binding := { conn.binding with windows := [] } } &&
    !packetOk { putPacket with payload := List.replicate 4097 0 } && !packetOk { putPacket with tenant := 65536 } &&
    arrivesB (idle (bound5 { conn with out := [⟨putPacket, some 7, 0, 0⟩, ⟨{ putPacket with psn := 2, poff := 4 }, some 7, 0, 0⟩] })) putAck.pkt
      { conn with out := [⟨putPacket, some 7, 0, 0⟩, ⟨{ putPacket with psn := 2, poff := 4 }, some 7, 0, 0⟩] } &&
    first (commanded { markerOf 0 with kind := .nget 0x8000 0 8 5 4 1, phase := .sent } (bound5 conn)) (fun c =>
      decide (c.s.cmds.length = 1) && (Tab.get? c.s.cmds 7).any (fun y => y.phase != .active) && conn.out.isEmpty) &&
    arrivesB (idle (bound5 { conn with received := [9] })) { putPacket with psn := 9 } { conn with received := [9] } &&
    decide (4096 < (4097 + 2 ^ 32 - conn.mark) % 2 ^ 32) && decide ((2 ^ 31 + 2 ^ 32 - conn.mark) % 2 ^ 32 ≤ 2 ^ 31)) = true := by decide +kernel

/-- A snapshot launch with a page wanted or copied. -/
def snapshotted (want : List Nat) (copies : Tab PageCopy) (pool rolled : Nat) (back : Bool) : State :=
  { idle id with
    warps := []
    wgs := []
    skeins := []
    queues := [(3, queue)]
    launches := [(0, { launchOf (.slot 3 0) 1 0 bootRecord { bootKernel with snapshot := true } with
                         next := 1, wanted := want, copied := copies, pool := pool, rollbacks := rolled, rollbackWanted := back })] }

theorem met_Snapshots :
    ((match Tab.get? (snapshotted [5] [] 1 0 false).launches 0 with | some l => decide (l.copied.length < l.pool) && l.wanted.contains 5 | none => false) &&
    (match Tab.get? (snapshotted [5] [] 0 0 false).launches 0 with | some l => decide (l.pool ≤ l.copied.length) | none => false) &&
    launchQuiet (snapshotted [] [(5, ⟨[(65535, 1)], []⟩), (0, ⟨[], []⟩)] 2 1 true) 0 && launchQuiet (snapshotted [] [(5, ⟨[], []⟩)] 1 2 true) 0 &&
    Mem.wf [(65535, 1)] && Mem.wf (snapshotted [] [] 0 0 true).mem && (Tab.get? (snapshotted [] [] 0 0 true).queues 3).isSome &&
    (match Tab.get? (snapshotted [] [(5, ⟨[(65535, 1)], []⟩), (0, ⟨[], []⟩)] 2 1 true).launches 0 with
      | some l => decide ((l.copied.map fun p => p.1).Nodup) && decide (l.origin = .slot 3 0) && l.kernel.snapshot && l.rollbackWanted && !l.cancelled
      | none => false)) = true := by decide +kernel

/-- R352: a rollback puts the pages back, those of the slot too, and RESULT is 1 again. -/
theorem test_rollback :
    (match exec (.rollback 0) (snapshotted [] [(5, ⟨[(65535, 9)], []⟩), (0, ⟨[], []⟩)] 2 1 true) with
      | .next t => Mem.byte t.mem (6 * 65536 - 1) == 9 && Mem.le t.mem 120 8 == 1 && Mem.le t.mem 0x1000 8 == 0 &&
          (Tab.get? t.launches 0).any fun l => decide (l.phase = .started) && decide (l.rollbacks = 2)
      | _ => false) = true := by decide +kernel

/-- A power-up phase. -/
def phased (p : Power) : State := { State.reset with plat := { State.reset.plat with power := p } }

theorem met_Platform :
    (decide ((phased .unpowered).plat.power = .unpowered) && decide (State.reset.plat.power = .step1) && decide ((phased (.dies 3)).plat.power = .dies 3) &&
    decide ((phased (.stacks 7)).plat.power = .stacks 7) && decide ((phased (.coreGroups 19)).plat.power = .coreGroups 19) &&
    decide ((phased .recovery).plat.power = .recovery) && decide (State.reset.plat.fuseVersion ≤ 0) &&
    decide (19 ∈ { State.reset.plat with power := .ready, gated := [19] }.gated) && decide (State.reset.plat.groupStartedAt + 4000 ≤ 4000) &&
    (Tab.get? (idle (cached 1 9)).targets 319).isSome && (Tab.get? (idle (cached 1 9)).targets 0).isNone &&
    decide (({ State.reset with timer := 3999 } : State).timer < State.reset.plat.groupStartedAt + 4000) &&
    decide ((phased .ready).plat.power = .ready) && decide ((phased .ready).timer < (phased .ready).plat.groupStartedAt + 4000) &&
    !State.reset.plat.fenced.contains (.core 319) && !State.reset.plat.fenced.contains (.causewayLink 9) && State.reset.queues.isEmpty) = true := by decide +kernel

/-! ### One step each, against the manual's examples -/

/-- A property of the first split after a step, wherever the focus is. -/
def leftBy (s : State) (p : Cx → Bool) : Bool := match step s with | .next t => first t p | _ => false

/-- 07_scalar_vector, after R114: `smovi.hi s9, 0x1234` on −3 gives 0x1234FFFD. -/
theorem test_smovi_hi : afterStep (splitAt 0x1A131234 (sc [(9, 0xFFFFFFFD)])) (fun c => c.sp.scalar 9 == 0x1234FFFD) = true := by
  decide +kernel

/-- R110: `sadd s5, s6, s7` is modulo 2^32. -/
theorem test_sadd_wraps : afterStep (splitAt 0x010A1838 (sc [(6, 0xFFFFFFFF), (7, 2)])) (fun c => c.sp.scalar 5 == 1 && c.sp.scalar 6 == 0xFFFFFFFF) =
    true := by decide +kernel

/-- Notes on numbers: `vadd v3, v1, v2` at the top of E4M3. -/
theorem test_vadd_e4m3 :
    afterStep (splitAt (wordOf (.vadd 3 1 2 0)) (md 0x90 ∘ vr [(1, fun _ => 0xFF387F7F), (2, fun _ => 0xFF388070)])) (fun c =>
      c.lane 3 0 == 0xFF407F7F && c.lane 3 95 == 0xFF407F7F && c.sp.fpst == 2) = true := by decide +kernel

/-- Notes on numbers: E5M2 0x7F, 114,688, widens into FP16 as infinity, and saturated as 65,504 with OV. -/
theorem test_vcvt_e5m2_f16 :
    (afterStep (splitAt (wordOf (.vcvt 4 1 10 0)) (md 0x80 ∘ vr [(1, fun _ => 0x0000017F)])) (fun c => c.lane 4 0 == 0x01007C00) &&
    afterStep (splitAt (wordOf (.vcvt 4 1 10 0)) (md 0x1080 ∘ vr [(1, fun _ => 0x0000017F)])) (fun c =>
      c.lane 4 0 == 0x01007BFF && c.sp.fpst == 2)) = true := by decide +kernel

/-- Notes on the instructions: `vcvt v12, v0, f32` under e4m3x4 packs 296.0, −4.0, 10.4 and 0.0 as 0x0052C879. -/
theorem test_vcvt_packs :
    afterStep (splitAt 0x5A180180 (md 0x90 ∘ vr [(0, fun _ => 0x43940000), (1, fun _ => 0xC0800000), (2, fun _ => 0x41266666), (3, fun _ => 0)]))
      (fun c => c.lane 12 0 == 0x0052C879 && c.sp.fpst == 0) = true := by decide +kernel

/-- Notes on the instructions: the two minima of a NaN and 3.0. -/
theorem test_vmin_vminp :
    (afterStep (splitAt (wordOf (.vmin 4 1 2)) (md 0x60 ∘ vr [(1, fun _ => 0x7FC00001), (2, fun _ => 0x40400000)])) (fun c => c.lane 4 0 == 0x40400000) &&
    afterStep (splitAt (wordOf (.vminp 4 1 2)) (md 0x60 ∘ vr [(1, fun _ => 0x7FC00001), (2, fun _ => 0x40400000)])) (fun c =>
      c.lane 4 0 == 0x7FC00000)) = true := by decide +kernel

/-- After R138: `vshfx v2, v1, 1` swaps neighbours. -/
theorem test_vshfx : afterStep (splitAt 0x73040408 (vr [(1, fun l => BitVec.ofNat 32 l)])) (fun c => c.lane 2 94 == 95 && c.lane 2 95 == 94) = true := by
  decide +kernel

/-- After R143: `width s9` for 32 active lanes in five occupied slices of a full warp writes 0x00602520. -/
theorem test_width : afterStep (splitAt (wordOf (.width 9)) (am (0xFFFFFFFF <<< 4))) (fun c => c.sp.scalar 9 == 0x00602520) = true := by
  decide +kernel

/-- R174, R297, R298: `trap 5` enters the handler with cause 0x11, code 5 and HANDLER set, and resumes at the next word. -/
theorem test_trap_5 : leftBy (splitAt 0x8C140000 (hd ∘ sc [(58, 7)])) (fun c => c.sp.pc == 0x8000 && c.sp.trap.cause == 0x11 && c.sp.trap.code == 5 &&
    c.sp.trap.handler && c.sp.trap.tpc == 0x100000 && c.sp.trap.trpc == 0x100004 && c.sp.trap.saved.getD 2 0 == 7) = true := by
  decide +kernel

/-- R158: `bar.init s4, s5` leaves phase 0 and its expected and pending arrivals. -/
theorem test_bar_init : afterStep (splitAt 0x90004140 (sc [(4, 32), (5, 3)])) (fun c => skein? c fun k => Mem.bytes k.scratch 32 16 ==
    [3, 0, 0, 0, 3, 0, 0, 0, 0, 0, 0, 0, 0, 0, 0, 0]) = true := by decide +kernel

/-- R192, R188: `st.32 [s4+v1], v10` stores little-endian at the base plus the lane's offset. -/
theorem test_st_32 : afterStep (splitAt 0xA7140442 (sc [(4, 0x8000)] ∘ vr [(1, fun l => BitVec.ofNat 32 (4 * l)), (10, fun l =>
    BitVec.ofNat 32 (0x01020300 + l))])) (fun c => Mem.bytes c.s.mem 0x8004 4 == [1, 3, 2, 1] && Mem.byte c.s.mem 0x817C == 95) = true := by
  decide +kernel

/-- R144: `br` 6 words back, after its trailer; R85: the split is then ready at its target. -/
theorem test_br : afterStep (splitAt 0x80FFFFFA id) (fun c => c.sp.after == .goto 0xFFFE8) = true := by decide +kernel

/-- R251, R261: `e.br s5` back 4 words is taken where s5 is not 0. -/
theorem test_e_br : (match step (engineAt 0xF7045FFC (es [(5, 1)])) with
    | .next t => (Tab.get? t.wgs 0).any fun g => g.engine.any fun e => e.pc == 0xFFFF0
    | _ => false) = true := by decide +kernel

/-- R359: an image of a lower security version than the fused one is not started. -/
theorem test_image_version : (match exec (.powerUpStepReady { version := 1, ecdsa := true, lms := true })
      { State.reset with plat := { State.reset.plat with fuseVersion := 2 } } with
    | .next t => decide (t.plat.power = .recovery)
    | _ => false) = true := by decide +kernel

end Sys2Proof.Tests
end

namespace Sys2Proof.Machine

/-! ### What a step runs -/

/-- Seven times the package timer, with its sevenths, goes with the arithmetic clocks. -/
theorem passTime_timer_ticks (s : State) :
    7 * (passTime s).timer + (passTime s).sevenths =
      7 * s.timer + s.sevenths + (if s.plat.halfClock then 20 else 10) * ((passTime s).ticks - s.ticks) := by
  simp only [passTime, Nat.add_sub_cancel_left]
  rw [Nat.mul_comm (Config.elapsedClocks s.clock)]
  omega

/-- A split reads its registers and its run from the warps, which time leaves alone. -/
theorem cxOf_passTime (s : State) (wk e : Nat) : cxOf (passTime s) wk e = (cxOf s wk e).map fun c => { c with s := passTime s } := by
  simp only [cxOf, passTime]
  cases Tab.get? s.warps wk with
  | none => rfl
  | some w => cases h : Tab.get? w.splits e <;> simp [h]

/-- An engine program reads its registers from its workgroup, which time leaves alone. -/
theorem exOf_passTime (s : State) (g : Nat) : exOf (passTime s) g = (exOf s g).map fun x => { x with s := passTime s } := by
  simp only [exOf, passTime]
  cases Tab.get? s.wgs g with
  | none => rfl
  | some wg =>
    cases h : wg.engine with
    | none => simp [h]
    | some en => by_cases hr : en.running <;> simp [h, hr]

/-- The holder of the focus has the turn once the agenda is empty and the package ready. -/
theorem turnOf_split {s : State} {wk e : Nat} (ha : s.agenda = []) (hp : s.plat.power = .ready) (hf : s.focus = .split wk e) :
    turnOf (passTime s) = splitTurn wk e (passTime s) := by
  simp [turnOf, passTime, ha, hp, hf]

theorem turnOf_engine {s : State} {g : Nat} (ha : s.agenda = []) (hp : s.plat.power = .ready) (hf : s.focus = .engine g) :
    turnOf (passTime s) = engineTurn g (passTime s) := by
  simp [turnOf, passTime, ha, hp, hf]

/-- An event at the head of the agenda has the turn while the package has power. -/
theorem turnOf_event {s : State} {i : Instr} {rest : List Input} (ha : s.agenda = .event i :: rest) (he : encode i = none)
    (hp : poweredDown s = false) : turnOf (passTime s) = .run i { passTime s with agenda := rest } := by
  have hq : poweredDown (passTime s) = false := hp
  simp [turnOf, hq, he, ha]

theorem splitTurn_word {s : State} {wk e : Nat} {c : Cx} {w : Word} {rest : List Word} (hc : cxOf s wk e = some c)
    (hw : c.sp.run.words.drop c.sp.run.pos = w :: rest) : splitTurn wk e s = .run (instrOf w) s := by
  simp only [splitTurn, hc, hw]

theorem engineTurn_word {s s1 : State} {g : Nat} {x : Ex} {w : Word} {rest : List Word} (hx : exOf s g = some x)
    (hw : fetchWord s (enginePartyOf s x.wg) x.en.pc = .ok s1 (w :: rest)) : engineTurn g s = .run (instrOf w) s1 := by
  simp only [engineTurn, hx, hw]

/-- The step of a split is `exec` of its next word, once time has passed. -/
theorem step_split {s : State} {wk e : Nat} {c : Cx} {w : Word} {rest : List Word} (ha : s.agenda = [])
    (hp : s.plat.power = .ready) (hf : s.focus = .split wk e) (hc : cxOf s wk e = some c)
    (hw : c.sp.run.words.drop c.sp.run.pos = w :: rest) : step s = exec (instrOf w) (passTime s) := by
  have hc' : cxOf (passTime s) wk e = some { c with s := passTime s } := by rw [cxOf_passTime, hc]; rfl
  rw [step, turnOf_split ha hp hf, splitTurn_word hc' hw]

/-- The step of an engine program is `exec` of the word at its counter, fetched once time has passed. -/
theorem step_engine {s s1 : State} {g : Nat} {x : Ex} {w : Word} {rest : List Word} (ha : s.agenda = [])
    (hp : s.plat.power = .ready) (hf : s.focus = .engine g) (hx : exOf s g = some x)
    (hw : fetchWord (passTime s) (enginePartyOf (passTime s) x.wg) x.en.pc = .ok s1 (w :: rest)) :
    step s = exec (instrOf w) s1 := by
  have hx' : exOf (passTime s) g = some { x with s := passTime s } := by rw [exOf_passTime, hx]; rfl
  rw [step, turnOf_engine ha hp hf, engineTurn_word hx' hw]

theorem instrOf_ok {w : Word} {i : Instr} (h : decode w = .ok i) : instrOf w = i := by simp only [instrOf, h]

theorem instrOf_error {w : Word} {r : DecodeError} (h : decode w = .error r) : instrOf w = .wordNotAnInstruction w := by
  simp only [instrOf, h]

/-- Settles O41: the turn is read off the state after time has passed, and decoding names the instruction. -/
theorem stepRunsDecoded : Obligations.StepRunsDecoded := by
  refine ⟨fun s => ⟨rfl, rfl, Nat.le_add_right _ _, passTime_timer_ticks s⟩, ?_, ?_, ?_⟩
  · intro s wk e c w rest ha hp hf hc hw
    have hs := step_split ha hp hf hc hw
    exact ⟨fun i hi => by rw [hs, instrOf_ok hi], fun r hr => by rw [hs, instrOf_error hr]⟩
  · intro s s1 g x w rest ha hp hf hx hw
    have hs := step_engine ha hp hf hx hw
    exact ⟨fun i hi => by rw [hs, instrOf_ok hi], fun r hr => by rw [hs, instrOf_error hr]⟩
  · intro s i rest ha he hp
    rw [step, turnOf_event ha he hp]

end Sys2Proof.Machine

namespace Sys2Proof.Machine

/-! ### Little-endian numbers in memory (R8) -/

theorem leNat_lt_pow (bs : List Byte) : leNat bs < 256 ^ bs.length := by
  induction bs with
  | nil => simp [leNat]
  | cons b rest ih =>
    have hb : b.toNat < 256 := b.isLt
    rw [leNat, List.length_cons, Nat.pow_succ]
    omega

theorem getD_leBytes (n v k : Nat) (hk : k < n) : (leBytes n v).getD k 0 = BitVec.ofNat 8 (v / 256 ^ k) := by
  induction n generalizing v k with
  | zero => omega
  | succ n ih =>
    cases k with
    | zero => simp [leBytes]
    | succ k =>
      rw [leBytes, List.getD_cons_succ, ih (v / 256) k (by omega), Nat.div_div_eq_div_mul, Nat.pow_succ, Nat.mul_comm]

theorem two_pow_eight_mul (n : Nat) : 2 ^ (8 * n) = 256 ^ n := Nat.pow_mul 2 8 n

theorem Mem.le_lt_pow (m : Mem) (a n : Nat) : Mem.le m a n < 2 ^ (8 * n) := by
  have h := leNat_lt_pow (Mem.bytes m a n)
  rwa [Mem.bytes, List.length_map, List.length_range, ← two_pow_eight_mul] at h

theorem Mem.le_writeBytes_self {m : Mem} (h : Mem.wf m = true) (a n v : Nat) :
    Mem.le (Mem.writeBytes m a (leBytes n v)) a n = v % 2 ^ (8 * n) := by
  have hread := Mem.bytes_writeBytes_self m a (leBytes n v) h
  rw [leBytes_length] at hread
  rw [Mem.le, hread, leNat_leBytes, two_pow_eight_mul]

theorem Mem.byte_writeBytes_leBytes {m : Mem} (h : Mem.wf m = true) (a n v k : Nat) (hk : k < n) :
    Mem.byte (Mem.writeBytes m a (leBytes n v)) (a + k) = BitVec.ofNat 8 (v / 2 ^ (8 * k)) := by
  rw [Mem.byte_writeBytes m a k _ (by simpa using hk) h, getD_leBytes n v k hk, two_pow_eight_mul]

theorem Mem.byte_writeBytes_leBytes_ne {m : Mem} (h : Mem.wf m = true) (a n v x : Nat) (hx : x < a ∨ a + n ≤ x) :
    Mem.byte (Mem.writeBytes m a (leBytes n v)) x = Mem.byte m x :=
  Mem.byte_writeBytes_ne m a x _ (by simpa using hx) h

/-! ### What an access to a class S or wider page of the local tier does (R184, R189, R303) -/

theorem classAccess_of_shared (s : State) (p : Party) (va pa : Nat) {cls : Nat} (write : Bool) (hcls : 2 ≤ cls) :
    classAccess s p va pa cls write = s := by
  obtain ⟨k, rfl⟩ := Nat.exists_eq_add_of_le' hcls
  rfl

theorem flushNear_of_no_nearOps {s : State} (h : s.nearOps = []) (wk pa n : Nat) : flushNear s wk (.hbm pa) n = s := by
  rw [flushNear, h]
  rfl

/-- The misaligned elements counted leave the bytes, the poison and the near-memory operations. -/
theorem countMisaligned_storage (s : State) (launch : Option Nat) (pa : Nat) :
    (countMisaligned s launch pa).mem = s.mem ∧ (countMisaligned s launch pa).memPoison = s.memPoison ∧
      (countMisaligned s launch pa).nearOps = s.nearOps := by
  cases launch <;> exact ⟨rfl, rfl, rfl⟩

theorem nearTranslate_of_translate {s : State} {asid : Nat} {va : DWord} {want : Want} {pa cls level : Nat}
    (h : translate s asid va want = .ok (.hbm pa) cls level) (hw : withdrawn s pa = false) :
    nearTranslate s asid va want = .ok (.hbm pa) cls level := by
  rw [nearTranslate, h]
  simp [hw]

/-- An access that its core performs, to a class S or wider page with no near-memory operation to wait for, is its bytes. -/
theorem accessLane_of_plain {s : State} {p : Party} {wk : Nat} {kind : MemKind} {r : LaneReq} {pa cls level : Nat}
    (hplace : translate s p.asid r.va (if kind.writes then .write else .read) = .ok (.hbm pa) cls level) (hcls : 2 ≤ cls)
    (hidle : s.nearOps = []) (hnear : kind.near = false) :
    accessLane s p wk kind r = .ok (applyReq s kind (.hbm pa) r).1 (applyReq s kind (.hbm pa) r).2.1
      (applyReq s kind (.hbm pa) r).2.2 := by
  have hsup : unsupported kind (.hbm pa) cls = false := by
    cases kind with
    | load n signed => rfl
    | store n => rfl
    | rmw op ty near returns => simp_all [unsupported, MemKind.near]
  simp [accessLane, hnear, hplace, hsup, flushNear_of_no_nearOps hidle, beforeAccess, classAccess_of_shared _ _ _ _ _ hcls]

/-- A returning near-memory operation with none before it is its bytes, on a state in which a misaligned element may be
counted (R309). -/
theorem accessLane_of_near {s : State} {p : Party} {wk op ty : Nat} {r : LaneReq} {pa cls level : Nat}
    (hplace : translate s p.asid r.va .write = .ok (.hbm pa) cls level) (hcls : 2 ≤ cls)
    (hidle : s.nearOps = []) (hw : withdrawn s pa = false) :
    ∃ t : State, t.mem = s.mem ∧ t.memPoison = s.memPoison ∧
      accessLane s p wk (.rmw op ty true true) r = .ok (applyReq t (.rmw op ty true true) (.hbm pa) r).1
        (applyReq t (.rmw op ty true true) (.hbm pa) r).2.1 (applyReq t (.rmw op ty true true) (.hbm pa) r).2.2 := by
  have hsup : unsupported (.rmw op ty true true) (.hbm pa) cls = false := by
    simp [unsupported, Nat.not_lt.mpr hcls]
  obtain ⟨hmem, hpoison, hops⟩ := countMisaligned_storage s p.launch pa
  have hrun (t : State) (hcount : (if r.va.toNat % 2 ^ 57 % (MemKind.rmw op ty true true).bytes = 0 then s
      else countMisaligned s p.launch pa) = t) (ht : t.nearOps = []) :
      accessLane s p wk (.rmw op ty true true) r = .ok (applyReq t (.rmw op ty true true) (.hbm pa) r).1
        (applyReq t (.rmw op ty true true) (.hbm pa) r).2.1 (applyReq t (.rmw op ty true true) (.hbm pa) r).2.2 := by
    simp only [accessLane, MemKind.near, MemKind.writes, MemKind.returns, if_true, nearTranslate_of_translate hplace hw, hsup,
      Bool.false_eq_true, if_false]
    rw [hcount, flushNear_of_no_nearOps ht]
  by_cases haligned : r.va.toNat % 2 ^ 57 % (MemKind.rmw op ty true true).bytes = 0
  · exact ⟨s, rfl, rfl, hrun s (if_pos haligned) hidle⟩
  · exact ⟨_, hmem, hpoison, hrun _ (if_neg haligned) (hops.trans hidle)⟩

/-! ### The bytes of a request (R191, R192, R196) -/

theorem intOf_unsigned (w code : Nat) (h : code < 2 ^ w) : intOf w false code = code := by
  simp [intOf, Nat.mod_eq_of_lt h]

theorem applyReq_load (s : State) (n : Nat) (signed : Bool) (pa : Nat) (r : LaneReq) :
    applyReq s (.load n signed) (.hbm pa) r =
      (s, BitVec.ofInt 128 (intOf (8 * n) signed (Mem.le s.mem pa n)), poisonLoc s (.hbm pa) n) := by
  cases signed with
  | true => rfl
  | false =>
    rw [intOf_unsigned _ _ (Mem.le_lt_pow s.mem pa n), BitVec.ofInt_natCast]
    rfl

theorem intOf_signed (w code : Nat) (h : code < 2 ^ w) :
    intOf w true code = if code < 2 ^ (w - 1) then (code : Int) else (code : Int) - 2 ^ w := by
  rw [intOf, Nat.mod_eq_of_lt h]
  by_cases hlow : code < 2 ^ (w - 1)
  · simp [hlow, Nat.not_le.mpr hlow]
  · simp [hlow, Nat.le_of_not_lt hlow]

/-- The model's integer atomics are those of R196, on operands of the width. -/
theorem atomNew_eq_atomicValue {op ty m v : Nat} (v2 : Nat) (hop : op < 12)
    (hm : m < 2 ^ (8 * if isWide64 ty then 8 else 4)) (hv : v < 2 ^ (8 * if isWide64 ty then 8 else 4)) :
    atomNew op ty m v v2 = Claims.atomicValue op (8 * if isWide64 ty then 8 else 4) m v v2 := by
  have hw : (if isWide64 ty then 64 else 32) = 8 * if isWide64 ty then 8 else 4 := by split <;> rfl
  simp only [atomNew, hw]
  generalize (8 * if isWide64 ty then 8 else 4) = w at hm hv
  simp only [intOf_signed w m hm, intOf_signed w v hv]
  interval_cases op <;> rfl

theorem applyReq_rmw_value {s : State} {op ty : Nat} {near : Bool} {pa : Nat} (r : LaneReq) :
    (applyReq s (.rmw op ty near true) (.hbm pa) r).2 =
      (BitVec.ofNat 128 (Mem.le s.mem pa (if isWide64 ty then 8 else 4)),
        poisonLoc s (.hbm pa) (if isWide64 ty then 8 else 4)) := rfl

theorem applyReq_rmw_mem {s : State} {op ty : Nat} {near : Bool} {pa : Nat} (r : LaneReq) (hop : op < 12) :
    let n := if isWide64 ty then 8 else 4
    (applyReq s (.rmw op ty near true) (.hbm pa) r).1.mem = Mem.writeBytes s.mem pa (leBytes n
      (Claims.atomicValue op (8 * n) (Mem.le s.mem pa n) (r.data.toNat % 2 ^ (8 * n)) (r.data2.toNat % 2 ^ (8 * n)))) := by
  intro n
  rw [← atomNew_eq_atomicValue _ hop (Mem.le_lt_pow s.mem pa n) (Nat.mod_lt _ (Nat.two_pow_pos _))]
  rfl

/-- A returning atomic is its bytes, on a state that holds the same ones. -/
theorem accessLane_of_rmw {s : State} {p : Party} {wk op ty : Nat} {near : Bool} {r : LaneReq} {pa cls level : Nat}
    (hplace : translate s p.asid r.va .write = .ok (.hbm pa) cls level) (hcls : 2 ≤ cls) (hidle : s.nearOps = [])
    (hw : near = false ∨ withdrawn s pa = false) :
    ∃ t : State, t.mem = s.mem ∧ t.memPoison = s.memPoison ∧
      accessLane s p wk (.rmw op ty near true) r = .ok (applyReq t (.rmw op ty near true) (.hbm pa) r).1
        (applyReq t (.rmw op ty near true) (.hbm pa) r).2.1 (applyReq t (.rmw op ty near true) (.hbm pa) r).2.2 := by
  cases near with
  | false => exact ⟨s, rfl, rfl, accessLane_of_plain hplace hcls hidle rfl⟩
  | true => exact accessLane_of_near hplace hcls hidle (hw.resolve_left (by decide))

theorem laneAccessAlone : Claims.LaneAccessAlone := by
  intro s p wk kind r pa cls level hplace hcls hidle hwf
  refine ⟨?load, ?store, ?rmw⟩
  case load =>
    rintro n signed rfl -
    rw [accessLane_of_plain hplace hcls hidle rfl, applyReq_load]
    rfl
  case store =>
    rintro n rfl -
    refine ⟨_, accessLane_of_plain hplace hcls hidle rfl, rfl, ?_, ?_⟩
    · exact fun k hk => Mem.byte_writeBytes_leBytes hwf pa n _ k hk
    · exact fun x hx => Mem.byte_writeBytes_leBytes_ne hwf pa n _ x hx
  case rmw =>
    rintro op ty near rfl hop hw
    obtain ⟨t, hmem, hpoison, hrun⟩ := accessLane_of_rmw (op := op) (ty := ty) hplace hcls hidle hw
    have hpl (n : Nat) : poisonLoc t (.hbm pa) n = poisonLoc s (.hbm pa) n := by rw [poisonLoc, poisonLoc, hpoison]
    have hnew := applyReq_rmw_mem (s := t) (near := near) (pa := pa) (ty := ty) r hop
    rw [applyReq_rmw_value, hmem, hpl] at hrun
    rw [hmem] at hnew
    refine ⟨_, hrun, ?_, ?_⟩
    · intro x hx
      rw [hnew, Mem.byte_writeBytes_leBytes_ne hwf _ _ _ _ hx]
    · rw [hnew, Mem.le_writeBytes_self hwf]

/-! ### Reclassification (R185) -/

/-- An entry turned to class S. -/
def entryClassS (e : Nat) : Nat := e - pteField e 5 3 * 32 + 64

theorem pteField_entryClassS (e : Nat) : pteField (entryClassS e % 2 ^ 64) 5 3 = 2 := by
  simp only [entryClassS, pteField]
  omega

/-- Entry j of a group turned to class S in its place. -/
def setEntryClassS (first : Nat) (m : Mem) (j : Nat) : Mem :=
  Mem.writeBytes m (first + 8 * j) (leBytes 8 (entryClassS (Mem.le m (first + 8 * j) 8)))

/-- The first n entries of a group turned to class S. -/
def entriesClassS (m : Mem) (first n : Nat) : Mem := (List.range n).foldl (setEntryClassS first) m

theorem setClassS_eq_entriesClassS (m : Mem) (first : Nat) : setClassS m first = entriesClassS m first 16 := rfl

theorem entriesClassS_succ (m : Mem) (first n : Nat) :
    entriesClassS m first (n + 1) = setEntryClassS first (entriesClassS m first n) n := by
  rw [entriesClassS, List.range_succ, List.foldl_append]
  rfl

theorem wf_entriesClassS {m : Mem} (h : Mem.wf m = true) (first n : Nat) : Mem.wf (entriesClassS m first n) = true := by
  induction n with
  | zero => exact h
  | succ n ih =>
    rw [entriesClassS_succ]
    exact Mem.wf_writeBytes _ _ _ ih

theorem byte_entriesClassS_ne {m : Mem} (h : Mem.wf m = true) (first n b : Nat) (hb : b < first ∨ first + 8 * n ≤ b) :
    Mem.byte (entriesClassS m first n) b = Mem.byte m b := by
  induction n with
  | zero => rfl
  | succ n ih =>
    rw [entriesClassS_succ, setEntryClassS, Mem.byte_writeBytes_leBytes_ne (wf_entriesClassS h first n) _ _ _ _ (by omega), ih (by omega)]

theorem pteField_first_entriesClassS {m : Mem} (h : Mem.wf m = true) (first n : Nat) :
    pteField (Mem.le (entriesClassS m first (n + 1)) first 8) 5 3 = 2 := by
  induction n with
  | zero =>
    rw [entriesClassS_succ, setEntryClassS, Nat.mul_zero, Nat.add_zero, Mem.le_writeBytes_self (wf_entriesClassS h first 0)]
    exact pteField_entryClassS _
  | succ n ih =>
    rw [entriesClassS_succ, setEntryClassS, Mem.le, Mem.bytes_writeBytes_ne _ _ _ _ _ (by omega) (wf_entriesClassS h first (n + 1))]
    exact ih

theorem baseClassS_mem (s : State) (asid va : Nat) : (baseClassS s asid va).mem = s.mem := rfl

theorem baseClassS_launches (s : State) (asid va : Nat) : (baseClassS s asid va).launches = s.launches := rfl

theorem reclassify_mem {s : State} {asid va e at_ : Nat} (launch : Option Nat) (hwalk : walk s asid va = .leaf e 0 at_)
    (hcls : pteField e 5 3 < 2) (htarget : pteField e 8 2 = 0) :
    (reclassify s asid va launch).mem = setClassS s.mem (at_ / 128 * 128) := by
  cases launch <;> simp only [reclassify, hwalk, hcls, htarget, and_self, if_true, baseClassS_mem]

/-- One more reclassification counted, until the counter is full. -/
def countReclass (x : Launch) : Launch :=
  { x with reclass := if x.reclass = 0xFFFFFFFF then x.reclass else x.reclass + 1 }

theorem reclassify_launches {s : State} {asid va e at_ l : Nat} (hwalk : walk s asid va = .leaf e 0 at_)
    (hcls : pteField e 5 3 < 2) (htarget : pteField e 8 2 = 0) :
    (reclassify s asid va (some l)).launches = Tab.upd s.launches l countReclass := by
  simp only [reclassify, hwalk, hcls, htarget, and_self, if_true, baseClassS_launches]
  rfl

theorem classAccess_of_unowned {s : State} {p : Party} {pa k : Nat} (va : Nat) (write : Bool) (hp : p.skein = some k)
    (h : Tab.get? s.xlate.owners (pa / 65536) = none) :
    classAccess s p va pa 0 write =
      { s with xlate := { s.xlate with owners := Tab.put s.xlate.owners (pa / 65536) k } } := by
  simp [classAccess, h, hp]

theorem classAccess_of_owner {s : State} {p : Party} {pa k : Nat} (va : Nat) (write : Bool) (hp : p.skein = some k)
    (h : Tab.get? s.xlate.owners (pa / 65536) = some k) : classAccess s p va pa 0 write = s := by
  simp [classAccess, h, hp]

theorem classAccess_of_conflict {s : State} {p : Party} {pa k o : Nat} (va : Nat) (write : Bool) (hp : p.skein = some k)
    (h : Tab.get? s.xlate.owners (pa / 65536) = some o) (hne : o ≠ k) :
    classAccess s p va pa 0 write = reclassify s p.asid va p.launch := by
  simp [classAccess, h, hp, hne]

/-- A class P page of another skein, or a write of a class R page, is reclassified. -/
theorem classAccess_eq_reclassify {s : State} {p : Party} {va pa k : Nat} {write : Bool} (hp : p.skein = some k)
    (h : Tab.get? s.xlate.owners (pa / 65536) ≠ none ∧ Tab.get? s.xlate.owners (pa / 65536) ≠ some k ∨ write = true) :
    classAccess s p va pa (if write then 1 else 0) write = reclassify s p.asid va p.launch := by
  cases write with
  | true => rfl
  | false =>
    obtain ⟨howned, hother⟩ := h.resolve_right (by decide)
    obtain ⟨o, ho⟩ := Option.ne_none_iff_exists'.mp howned
    exact classAccess_of_conflict va false hp ho fun heq => hother (heq ▸ ho)

theorem pageClasses : Claims.PageClasses := by
  intro s p va pa k write hp frame
  refine ⟨?unowned, fun h => classAccess_of_owner va write hp h, rfl,
    fun cls hcls => classAccess_of_shared s p va pa write hcls, ?reclassified⟩
  case unowned =>
    intro h
    refine ⟨_, classAccess_of_unowned va write hp h, rfl, ?_⟩
    exact Tab.get?_put_self _ _ _
  case reclassified =>
    rintro e at_ l x hwhy hwalk hcls htarget hl hx hwf t rfl
    rw [classAccess_eq_reclassify hp hwhy, hl]
    rw [reclassify_mem (some l) hwalk hcls htarget, reclassify_launches hwalk hcls htarget, setClassS_eq_entriesClassS]
    refine ⟨fun b hb => byte_entriesClassS_ne hwf _ 16 b hb, ⟨countReclass x, ?_, rfl⟩, pteField_first_entriesClassS hwf _ 15⟩
    rw [Tab.get?_upd, if_pos rfl, hx]
    rfl

/-- Settles O30: one lane's access is the class rules of its page and the bytes of its request. -/
theorem laneAccess : Obligations.LaneAccess := ⟨laneAccessAlone, pageClasses⟩

end Sys2Proof.Machine

namespace Sys2Proof.Machine

/-! ### Canonical memories -/

/-- The memories of a state in their canonical form. -/
def State.Canon (s : State) : Prop := s.memWf = true

theorem canon_iff {s : State} : s.Canon ↔ Mem.wf s.mem = true ∧ Mem.wf s.host = true := by
  simp [State.Canon, State.memWf]

/-- Only the two memories count. -/
theorem State.Canon.of_memories {s t : State} (h : s.Canon) (hm : t.mem = s.mem) (hh : t.host = s.host) : t.Canon := by
  rw [canon_iff, hm, hh]
  exact canon_iff.mp h

/-- A context of a split: its state's memories. -/
def Cx.Canon (c : Cx) : Prop := c.s.Canon

/-- A context of an engine program: its state's memories. -/
def Ex.Canon (x : Ex) : Prop := x.s.Canon

/-- A run over lanes: the memories of the state it has come to. -/
def LaneRun.Canon (a : LaneRun) : Prop := a.s.Canon

/-- A command under way: the memories of the state it has come to. -/
def CmdRun.Canon (a : CmdRun) : Prop := a.s.Canon

/-- A store of the engine under way: the memories of the state it has come to. -/
def StoreRun.Canon (a : StoreRun) : Prop := a.s.Canon

/-- A near-memory command under way: the memories of the state it has come to. -/
def NearRun.Canon (a : NearRun) : Prop := a.s.Canon

/-- An outcome that goes on goes on with canonical memories. -/
inductive Out.Canon : Out → Prop
  | next {t : State} (h : t.Canon) : Out.Canon (.next t)
  | fault {r} : Out.Canon (.fault r)
  | refused {r} : Out.Canon (.refused r)

/-- An access that succeeds leaves canonical memories. -/
inductive Access.Canon : Access → Prop
  | ok {t : State} {v p} (h : t.Canon) : Access.Canon (.ok t v p)
  | replay {b} : Access.Canon (.replay b)
  | fault {c} : Access.Canon (.fault c)
  | poison : Access.Canon .poison
  | hole : Access.Canon .hole

/-- An element that is read or written leaves canonical memories. -/
inductive Elem.Canon : Elem → Prop
  | ok {t : State} {bs bad} (h : t.Canon) : Elem.Canon (.ok t bs bad)
  | stop {c a} : Elem.Canon (.stop c a)
  | replay {b a w} : Elem.Canon (.replay b a w)
  | page {p} : Elem.Canon (.page p)
  | hole : Elem.Canon .hole

/-- A fetch that succeeds leaves canonical memories. -/
inductive Fetch.Canon : Fetch → Prop
  | ok {t : State} {ws} (h : t.Canon) : Fetch.Canon (.ok t ws)
  | replay {b a} : Fetch.Canon (.replay b a)
  | fault {c} : Fetch.Canon (.fault c)
  | hole : Fetch.Canon .hole

/-- A turn is taken at a state with canonical memories. -/
inductive Turn.Canon : Turn → Prop
  | run {i} {t : State} (h : t.Canon) : Turn.Canon (.run i t)
  | trial {i wk e} {t : State} (h : t.Canon) : Turn.Canon (.trial i wk e t)
  | done {o : Out} (h : Out.Canon o) : Turn.Canon (.done o)

/-- A property of the value of an option, if it has one. -/
inductive IfSome {α : Type} (P : α → Prop) : Option α → Prop
  | none : IfSome P none
  | some {a : α} (h : P a) : IfSome P (some a)

theorem IfSome.getD {α : Type} {P : α → Prop} {o : Option α} {d : α} (h : IfSome P o) (hd : P d) : P (o.getD d) := by
  cases h with
  | none => exact hd
  | some h => exact h

/-! What a match names carries canonical memories, where what was matched does. -/

theorem of_some {α : Type} {P : α → Prop} {o : Option α} {a : α} (e : o = some a) (h : IfSome P o) : P a := by
  subst e; cases h with | some h => exact h

theorem of_fst {α β : Type} {P : α → Prop} {r : α × β} {a : α} {b : β} (e : r = (a, b)) (h : P r.1) : P a := by subst e; exact h

theorem of_snd {α β : Type} {P : β → Prop} {r : α × β} {a : α} {b : β} (e : r = (a, b)) (h : P r.2) : P b := by subst e; exact h

theorem Out.of_next {o : Out} {t : State} (e : o = .next t) (h : Out.Canon o) : t.Canon := by
  subst e; cases h with | next h => exact h

theorem Access.of_ok {a : Access} {t : State} {v p} (e : a = .ok t v p) (h : a.Canon) : t.Canon := by
  subst e; cases h with | ok h => exact h

theorem Elem.of_ok {a : Elem} {t : State} {v p} (e : a = .ok t v p) (h : a.Canon) : t.Canon := by
  subst e; cases h with | ok h => exact h

theorem Fetch.of_ok {a : Fetch} {t : State} {w} (e : a = .ok t w) (h : a.Canon) : t.Canon := by
  subst e; cases h with | ok h => exact h

/-- What every step of a loop keeps, the loop keeps. -/
theorem foldl_keeps {α β : Type} {P : β → Prop} {f : β → α → β} (hf : ∀ b a, P b → P (f b a)) (l : List α) {b : β} (h : P b) :
    P (l.foldl f b) := by
  induction l generalizing b with
  | nil => exact h
  | cons a l ih => exact ih (hf b a h)

end Sys2Proof.Machine

namespace Sys2Proof.Machine

/-! One lemma per operation of the model that carries a state, in the order of the definitions: it keeps the memories
canonical.  Each follows the operation's own branches.  Most of these leave both memories alone, and then the hypothesis
itself is the proof; bytes are written by `writeLoc`, `setClassS` and the few operations named with them, through
`Mem.wf_writeBytes`. -/

/-! ### Ops: what its operations leave of the memories -/

theorem cxOf_canon {s : State} {wk e} (h : s.Canon) : IfSome Cx.Canon (cxOf s wk e) := by
  unfold cxOf
  split
  · exact .none
  · split
    · exact .none
    · exact .some h

theorem Cx.reread_canon {s : State} {c} (h : s.Canon) : (Cx.reread c s).Canon := (cxOf_canon h).getD h

theorem Cx.putRow_canon {c : Cx} {r m new} (h : c.Canon) : (c.putRow r m new).Canon := by
  unfold Cx.putRow
  dsimp only
  split <;> exact h

theorem Cx.putPred_canon {c : Cx} {n m v} (h : c.Canon) : (c.putPred n m v).Canon := by
  unfold Cx.putPred
  split <;> exact h

theorem backReg_canon {c : Cx} {p k} (h : c.Canon) : (backReg p c k).Canon := by
  unfold backReg
  dsimp only
  split
  · exact h
  · split
    · split <;> exact h
    · exact h

theorem Cx.backAll_canon {c : Cx} {p} (h : c.Canon) : (c.backAll p).Canon :=
  foldl_keeps (P := Cx.Canon) (fun _ _ hk => backReg_canon hk) _ h

theorem backDue_canon {c : Cx} {rest ps} (h : c.Canon) : (backDue rest ps c).2.Canon := by
  have hs : (backDue rest ps c).2.s = c.s := (backDue_fields rest ps c).1
  unfold Cx.Canon
  rw [hs]
  exact h

theorem Cx.settleBacks_canon {c : Cx} (h : c.Canon) : c.settleBacks.Canon := backDue_canon h

theorem Cx.advance_canon {c : Cx} (h : c.Canon) : c.advance.Canon := Cx.settleBacks_canon h

theorem Cx.done_canon {c : Cx} (h : c.Canon) : Out.Canon c.done := .next (Cx.advance_canon h)

theorem Cx.stay_canon {c : Cx} {st} (h : c.Canon) : Out.Canon (c.stay st) := .next h

theorem Cx.stall_canon {c : Cx} {why} (h : c.Canon) : Out.Canon (c.stall why) := .next h

theorem cancelLaunch_canon {s : State} {l} (h : s.Canon) : (cancelLaunch s l).Canon := by
  unfold cancelLaunch
  split
  · exact h
  · dsimp only
    split <;> exact h

theorem endFarTask_canon {s : State} {wk f status cause values} (h : s.Canon) :
    (endFarTask s wk f status cause values).Canon := by
  unfold endFarTask
  dsimp only
  split
  · exact h
  · split <;> exact h

theorem Cx.drain_canon {c : Cx} (h : c.Canon) : c.drain.Canon := Cx.settleBacks_canon h

theorem Cx.stopSkein_canon {c : Cx} {t second} (h : c.Canon) : (c.stopSkein t second).Canon := by
  unfold Cx.stopSkein
  dsimp only
  split
  · exact cancelLaunch_canon h
  · exact h

theorem Cx.enterTrap_canon {c : Cx} {t} (h : c.Canon) : Out.Canon (c.enterTrap t) := by
  unfold Cx.enterTrap
  dsimp only
  split
  · refine .next ?_
    split <;> exact endFarTask_canon h
  · split
    · exact .next (Cx.drain_canon h)
    · split
      · exact .next (Cx.stopSkein_canon h)
      · split
        · exact .next (Cx.stopSkein_canon (Cx.drain_canon h))
        · exact .next (Cx.drain_canon h)

theorem Cx.faultTrap_canon {c : Cx} (h : c.Canon) : Out.Canon c.faultTrap := by
  unfold Cx.faultTrap
  split
  · exact Cx.stay_canon h
  · split
    · exact Cx.stay_canon h
    · exact Cx.enterTrap_canon h

theorem Cx.trapBefore_canon {c : Cx} {cause fetch} (h : c.Canon) : Out.Canon (c.trapBefore cause fetch) := by
  unfold Cx.trapBefore
  split
  · exact Cx.faultTrap_canon h
  · split
    · exact Cx.stay_canon h
    · exact Cx.enterTrap_canon h

theorem Cx.trapAt_canon {c : Cx} {cause} (h : c.Canon) : Out.Canon (c.trapAt cause) := Cx.trapBefore_canon h

theorem Cx.trapAfter_canon {c : Cx} {cause code} (h : c.Canon) : Out.Canon (c.trapAfter cause code) := by
  unfold Cx.trapAfter
  split
  · exact Cx.faultTrap_canon h
  · split
    · exact Cx.stay_canon h
    · exact Cx.enterTrap_canon (Cx.advance_canon h)

theorem Cx.issue_canon {c : Cx} {i run} (h : c.Canon) (hrun : ∀ c0, c0.Canon → Out.Canon (run c0)) :
    Out.Canon (c.issue i run) := by
  unfold Cx.issue
  split
  · exact Cx.faultTrap_canon h
  · split
    · exact Cx.stay_canon h
    · split
      · split
        · exact Cx.stay_canon h
        · exact Cx.trapAt_canon h
      · split
        · exact Cx.trapAt_canon h
        · split
          · exact Cx.stay_canon h
          · split
            · exact Cx.trapAt_canon h
            · split
              · exact Cx.trapAt_canon h
              · split
                · exact Cx.trapAt_canon h
                · exact hrun _ h

theorem exOf_canon {s : State} {g} (h : s.Canon) : IfSome Ex.Canon (exOf s g) := by
  unfold exOf
  split
  · exact .none
  · split
    · exact .none
    · split
      · exact .some h
      · exact .none

theorem Ex.putScalar_canon {x : Ex} {n v poison} (h : x.Canon) : (x.putScalar n v poison).Canon := by
  unfold Ex.putScalar
  split <;> exact h

theorem Ex.done_canon {x : Ex} (h : x.Canon) : Out.Canon x.done := .next h

theorem Ex.wait_canon {x : Ex} (h : x.Canon) : Out.Canon x.wait := .next h

theorem Ex.stop_canon {x : Ex} {cause} (h : x.Canon) : Out.Canon (x.stop cause) := by
  unfold Ex.stop
  dsimp only
  refine .next ?_
  split
  · unfold wantRollback
    unfold stopSkeins
    dsimp only
    split <;> exact h
  · split <;> exact h

theorem Ex.stopFault_canon {x : Ex} {cause} (h : x.Canon) : Out.Canon (x.stopFault cause) := Ex.stop_canon h

theorem Ex.issue_canon {x : Ex} {i run} (h : x.Canon) (hrun : ∀ x0, x0.Canon → Out.Canon (run x0)) :
    Out.Canon (x.issue i run) := by
  unfold Ex.issue
  split
  · split
    · exact Ex.stopFault_canon h
    · exact Ex.stop_canon h
  · split
    · exact Ex.stop_canon h
    · split
      · exact Ex.stop_canon h
      · split
        · exact Ex.stop_canon h
        · exact hrun _ h

theorem issue_canon {s : State} {i onSplit onEngine} (h : s.Canon) (honSplit : ∀ c, c.Canon → Out.Canon (onSplit c))
    (honEngine : ∀ x, x.Canon → Out.Canon (onEngine x)) :
    Out.Canon (issue i s onSplit onEngine) := by
  unfold issue
  split
  · exact .refused
  · split
    · next he => exact Cx.issue_canon (of_some he (cxOf_canon h)) honSplit
    · exact .refused
  · split
    · next he => exact Ex.issue_canon (of_some he (exOf_canon h)) honEngine
    · exact .refused

theorem issueSplit_canon {s : State} {i onSplit} (h : s.Canon) (honSplit : ∀ c, c.Canon → Out.Canon (onSplit c)) :
    Out.Canon (issueSplit i s onSplit) := issue_canon h honSplit (fun _ hk => Ex.stop_canon hk)

theorem issueEngine_canon {s : State} {i onEngine} (h : s.Canon)
    (honEngine : ∀ x, x.Canon → Out.Canon (onEngine x)) : Out.Canon (issueEngine i s onEngine) :=
  issue_canon h (fun _ hk => Cx.trapAt_canon hk) honEngine

theorem Cx.scalarDone_canon {old : Cx} {new : Cx} (h : old.Canon) (hnew : new.Canon) :
    Out.Canon (old.scalarDone new) := by
  unfold Cx.scalarDone
  split
  · exact Cx.trapAt_canon h
  · exact Cx.done_canon hnew

/-! ### Memory: what its operations leave of the memories -/

theorem writeLoc_canon {s : State} {l bs poison} (h : s.Canon) : (writeLoc s l bs poison).Canon := by
  obtain ⟨hm, hh⟩ := canon_iff.mp h
  cases l with
  | hbm pa => exact canon_iff.mpr ⟨Mem.wf_writeBytes _ _ _ hm, hh⟩
  | module m off relay => exact h
  | host a => exact canon_iff.mpr ⟨hm, Mem.wf_writeBytes _ _ _ hh⟩

/-- The entries of a page-table group rewritten one after another. -/
theorem setClassS_wf {m : Mem} {first} (h : Mem.wf m = true) : Mem.wf (setClassS m first) = true :=
  foldl_keeps (P := fun m => Mem.wf m = true) (fun _ _ h1 => Mem.wf_writeBytes _ _ _ h1) _ h

theorem reclassify_canon {s : State} {asid va launch} (h : s.Canon) : (reclassify s asid va launch).Canon := by
  obtain ⟨hm, hh⟩ := canon_iff.mp h
  have hset (first : Nat) : State.Canon { s with mem := setClassS s.mem first } := by
    rw [canon_iff]
    dsimp only
    exact ⟨setClassS_wf hm, hh⟩
  unfold reclassify
  split
  · split
    · dsimp only [baseClassS]
      split
      · exact (hset _).of_memories rfl rfl
      · exact (hset _).of_memories rfl rfl
    · exact h
  · exact h
  · exact h

theorem classAccess_canon {s : State} {p va pa cls write} (h : s.Canon) :
    (classAccess s p va pa cls write).Canon := by
  unfold classAccess
  split
  · dsimp only
    split
    · exact h
    · split
      · exact h
      · exact reclassify_canon h
    · exact reclassify_canon h
  · split
    · exact reclassify_canon h
    · exact h
  · exact h

theorem beforeAccess_canon {s : State} {p va l cls write} (h : s.Canon) :
    (beforeAccess s p va l cls write).Canon := by
  unfold beforeAccess
  split
  · exact classAccess_canon h
  · exact h
  · exact h
  · exact h

theorem countMisaligned_canon {s : State} {launch pa} (h : s.Canon) : (countMisaligned s launch pa).Canon := by
  unfold countMisaligned
  dsimp only
  split <;> exact h

theorem applyReq_canon {s : State} {kind l r} (h : s.Canon) : (applyReq s kind l r).1.Canon := by
  unfold applyReq
  dsimp only
  split
  · exact h
  · exact writeLoc_canon h
  · exact writeLoc_canon h

theorem performNear_canon {s : State} {n x} (h : s.Canon) : (performNear s n x).Canon := applyReq_canon h

theorem performAll_canon {s : State} {ops} (h : s.Canon) : (performAll s ops).Canon :=
  foldl_keeps (P := State.Canon) (fun _ _ hk => performNear_canon hk) _ h

theorem flushNear_canon {s : State} {wk l n} (h : s.Canon) : (flushNear s wk l n).Canon := by
  unfold flushNear
  split
  · exact performAll_canon h
  · exact h
  · exact h

theorem accessLane_canon {s : State} {p wk kind r} (h : s.Canon) : (accessLane s p wk kind r).Canon := by
  unfold accessLane
  dsimp only
  split
  · exact .fault
  · exact .replay
  · exact .poison
  · exact .hole
  · next l cls level hx =>
    split
    · exact .fault
    · split
      · have hc : (match l with
            | .hbm pa => if r.va.toNat % 2 ^ 57 % kind.bytes = 0 then s else countMisaligned s p.launch pa
            | _ => s).Canon := by
          split
          · split
            · exact h
            · exact countMisaligned_canon h
          · exact h
        split
        · exact .ok hc
        · exact .ok (applyReq_canon (flushNear_canon hc))
      · exact .ok (applyReq_canon (beforeAccess_canon (flushNear_canon h)))

theorem runLane_canon {a : LaneRun} {p wk kind blocked r} (h : a.Canon) : (runLane p wk kind blocked a r).Canon := by
  unfold runLane
  split
  · exact h
  · split
    · next he => exact Access.of_ok he (accessLane_canon h)
    · exact h
    · exact h
    · exact h
    · exact h

theorem askHost_canon {s : State} {asid page write} (h : s.Canon) : (askHost s asid page write).Canon := by
  unfold askHost
  split <;> exact h

theorem holdAt_canon {s : State} {k p host va write w} (h : s.Canon) : (holdAt s k p host va write w).Canon := by
  unfold holdAt
  dsimp only
  split
  · exact askHost_canon h
  · exact h

theorem holdOne_canon {s : State} {p host va write w} (h : s.Canon) : (holdOne s p host va write w).Canon :=
  holdAt_canon h

theorem holdPages_canon {s : State} {p n pages} (h : s.Canon) : (holdPages s p n pages).Canon :=
  foldl_keeps (P := State.Canon) (fun _ _ hk => holdOne_canon hk) _ h

theorem wantPage_canon {s : State} {launch page} (h : s.Canon) : (wantPage s launch page).Canon := by
  unfold wantPage
  split <;> exact h

theorem replayLane_canon {a : LaneRun} {p wk kind blocked r} (h : a.Canon) :
    (replayLane p wk kind blocked a r).Canon := by
  unfold replayLane
  split
  · exact h
  · split
    · exact h
    · exact wantPage_canon h
    · split
      · next he => exact Access.of_ok he (accessLane_canon h)
      · exact h
      · exact h
      · exact h
      · exact h

theorem runLanes_canon {s : State} {p wk kind reqs} (h : s.Canon) : (runLanes s p wk kind reqs).Canon :=
  foldl_keeps (P := LaneRun.Canon) (fun _ _ hk => runLane_canon hk) _ h

theorem Cx.globalLanes_canon {c : Cx} {opcode look kind d reqs} (h : c.Canon) :
    Out.Canon (c.globalLanes opcode look kind d reqs) := by
  unfold Cx.globalLanes
  dsimp only
  split
  · exact Cx.trapAt_canon h
  · exact Cx.stall_canon (wantPage_canon h)
  · split
    · exact .fault
    · split
      · exact Cx.trapAt_canon h
      · split
        · exact Cx.stall_canon h
        · refine Cx.done_canon ?_
          dsimp only [Cx.Canon]
          refine foldl_keeps (P := State.Canon) (fun a b hk => ?_) _ ?_
          · exact holdOne_canon hk
          · split
            · unfold Prod.fst
              dsimp only
              split <;> exact runLanes_canon h
            · exact runLanes_canon h

theorem Cx.global_canon {c : Cx} {opcode look kind a s d data data2} (h : c.Canon) :
    Out.Canon (c.global opcode look kind a s d data data2) := by
  unfold Cx.global
  dsimp only
  split
  · split
    · exact Cx.trapAt_canon h
    · split
      · exact Cx.trapAt_canon h
      · split
        · exact Cx.trapAt_canon h
        · exact Cx.globalLanes_canon h
  · split
    · exact Cx.trapAt_canon h
    · split
      · exact Cx.trapAt_canon h
      · split
        · exact Cx.trapAt_canon h
        · exact Cx.globalLanes_canon h

/-! ### Scalar: what its operations leave of the memories -/

theorem scalarOp_canon {s : State} {i d f} (h : s.Canon) : Out.Canon (scalarOp i s d f) :=
  issue_canon h (fun _ hk => Cx.scalarDone_canon hk hk) (fun _ hk => Ex.done_canon (Ex.putScalar_canon hk))

theorem scalarOp64_canon {s : State} {i d f} (h : s.Canon) : Out.Canon (scalarOp64 i s d f) :=
  issue_canon h (fun _ hk => Cx.scalarDone_canon hk hk) (fun _ hk => Ex.done_canon (Ex.putScalar_canon
    (Ex.putScalar_canon hk)))

theorem execNop_canon {s : State} (h : s.Canon) : Out.Canon (execNop s) :=
  issue_canon h (fun _ hk => Cx.done_canon hk) (fun _ hk => Ex.done_canon hk)

/-! ### Vector: what its operations leave of the memories -/

theorem Cx.putOperand_canon {c : Cx} {r wide m vals} (h : c.Canon) : (c.putOperand r wide m vals).Canon := by
  unfold Cx.putOperand
  split
  · exact Cx.putRow_canon (Cx.putRow_canon h)
  · exact Cx.putRow_canon h

theorem Cx.countSr_canon {c : Cx} {rm m} (h : c.Canon) : (c.countSr rm m).Canon := by
  unfold Cx.countSr
  split <;> exact h

theorem vecTyped_canon {s : State} {i d a b x counts f} (h : s.Canon) :
    Out.Canon (vecTyped i s d a b x counts f) := by
  unfold vecTyped
  refine issueSplit_canon h (fun c hc => ?_)
  split
  · exact Cx.trapAt_canon hc
  · dsimp only
    refine Cx.done_canon ?_
    split
    · exact Cx.countSr_canon (Cx.putOperand_canon hc)
    · exact Cx.putOperand_canon hc

theorem vecWord_canon {s : State} {i d a b f} (h : s.Canon) : Out.Canon (vecWord i s d a b f) :=
  issueSplit_canon h (fun _ hk => Cx.done_canon (Cx.putOperand_canon hk))

theorem execVscale_canon {s : State} {d a b x} (h : s.Canon) : Out.Canon (execVscale d a b x s) := by
  unfold execVscale
  refine issueSplit_canon h (fun c hc => ?_)
  split
  · exact Cx.trapAt_canon hc
  · exact Cx.done_canon (Cx.countSr_canon (Cx.putOperand_canon hc))

theorem execVdot4_canon {s : State} {d a b g} (h : s.Canon) : Out.Canon (execVdot4 d a b g s) :=
  issueSplit_canon h (fun _ hk => Cx.done_canon (Cx.putOperand_canon hk))

/-! ### Convert: what its operations leave of the memories -/

theorem Cx.putGroup_canon {c : Cx} {r n m vals} (h : c.Canon) : (c.putGroup r n m vals).Canon :=
  foldl_keeps (P := Cx.Canon) (fun _ _ hk => Cx.putRow_canon hk) _ h

theorem Cx.groupDone_canon {c : Cx} {d n m rs count rm} (h : c.Canon) :
    Out.Canon (c.groupDone d n m rs count rm) := by
  unfold Cx.groupDone
  dsimp only
  refine Cx.done_canon ?_
  split
  · exact Cx.countSr_canon (Cx.putGroup_canon h)
  · exact Cx.putGroup_canon h

theorem execVcvt_canon {s : State} {d a src r} (h : s.Canon) : Out.Canon (execVcvt d a src r s) := by
  unfold execVcvt
  refine issueSplit_canon h (fun c hc => ?_)
  split
  · exact Cx.groupDone_canon hc
  · exact Cx.trapAt_canon hc

theorem execVpack_canon {s : State} {d a x} (h : s.Canon) : Out.Canon (execVpack d a x s) :=
  issueSplit_canon h (fun _ hk => Cx.groupDone_canon hk)

theorem execVunpk_canon {s : State} {d a x} (h : s.Canon) : Out.Canon (execVunpk d a x s) :=
  issueSplit_canon h (fun _ hk => Cx.groupDone_canon hk)

theorem execVqblk_canon {s : State} {d a b x} (h : s.Canon) : Out.Canon (execVqblk d a b x s) := by
  unfold execVqblk
  refine issueSplit_canon h (fun c hc => ?_)
  split
  · exact Cx.trapAt_canon hc
  · exact Cx.done_canon (Cx.putRow_canon hc)

theorem execVcmp_canon {s : State} {d a b x} (h : s.Canon) : Out.Canon (execVcmp d a b x s) := by
  unfold execVcmp
  refine issueSplit_canon h (fun c hc => ?_)
  split
  · exact Cx.trapAt_canon hc
  · exact Cx.done_canon (Cx.putPred_canon hc)

theorem execVcmpi_canon {s : State} {d a k x} (h : s.Canon) : Out.Canon (execVcmpi d a k x s) := by
  unfold execVcmpi
  refine issueSplit_canon h (fun c hc => ?_)
  split
  · exact Cx.trapAt_canon hc
  · exact Cx.done_canon (Cx.putPred_canon hc)

theorem predOp_canon {s : State} {i d a b m n f} (h : s.Canon) : Out.Canon (predOp i s d a b m n f) :=
  issueSplit_canon h (fun _ hk => Cx.done_canon (Cx.putPred_canon hk))

theorem execPmovV2p_canon {s : State} {d a n} (h : s.Canon) : Out.Canon (execPmovV2p d a n s) :=
  issueSplit_canon h (fun _ hk => Cx.done_canon (Cx.putPred_canon hk))

theorem execPmovP2v_canon {s : State} {d a n} (h : s.Canon) : Out.Canon (execPmovP2v d a n s) :=
  issueSplit_canon h (fun _ hk => Cx.done_canon (Cx.putRow_canon hk))

theorem execVsel_canon {s : State} {d a b x} (h : s.Canon) : Out.Canon (execVsel d a b x s) :=
  issueSplit_canon h (fun _ hk => Cx.done_canon (Cx.putRow_canon hk))

theorem execVmov_canon {s : State} {d a w} (h : s.Canon) : Out.Canon (execVmov d a w s) :=
  issueSplit_canon h (fun _ hk => Cx.done_canon (Cx.putOperand_canon hk))

theorem execVmovi_canon {s : State} {d k} (h : s.Canon) : Out.Canon (execVmovi d k s) :=
  issueSplit_canon h (fun _ hk => Cx.done_canon (Cx.putRow_canon hk))

theorem execVmovh_canon {s : State} {d k} (h : s.Canon) : Out.Canon (execVmovh d k s) :=
  issueSplit_canon h (fun _ hk => Cx.done_canon (Cx.putRow_canon hk))

theorem execVbcs_canon {s : State} {d a w} (h : s.Canon) : Out.Canon (execVbcs d a w s) :=
  issueSplit_canon h (fun _ hk => Cx.done_canon (Cx.putOperand_canon hk))

theorem execVget_canon {s : State} {d a b} (h : s.Canon) : Out.Canon (execVget d a b s) := by
  unfold execVget
  refine issueSplit_canon h (fun c hc => ?_)
  dsimp only
  split
  · split
    · exact Cx.trapAt_canon hc
    · exact Cx.scalarDone_canon hc hc
  · split
    · exact Cx.trapAt_canon hc
    · exact Cx.scalarDone_canon hc hc

theorem execVput_canon {s : State} {d a b} (h : s.Canon) : Out.Canon (execVput d a b s) :=
  issueSplit_canon h (fun _ hk => Cx.done_canon (Cx.putRow_canon hk))

theorem execVlid_canon {s : State} {d w} (h : s.Canon) : Out.Canon (execVlid d w s) :=
  issueSplit_canon h (fun _ hk => Cx.done_canon (Cx.putRow_canon hk))

theorem execVbnd_canon {s : State} {d a n} (h : s.Canon) : Out.Canon (execVbnd d a n s) := by
  unfold execVbnd
  refine issueSplit_canon h (fun c hc => ?_)
  dsimp only
  split
  · exact Cx.done_canon (Cx.putRow_canon hc)
  · split
    · exact Cx.trapAt_canon hc
    · split
      · exact Cx.trapAt_canon hc
      · exact Cx.done_canon (Cx.putRow_canon hc)

/-! ### Joins: what its operations leave of the memories -/

theorem Cx.diverge_canon {c : Cx} {keep after others} (h : c.Canon) : Out.Canon (c.diverge keep after others) := by
  unfold Cx.diverge
  split
  · exact Cx.trapAt_canon h
  · split
    · exact Cx.trapAt_canon h
    · exact .next (Cx.advance_canon h)

theorem Cx.parkTrap_canon {c : Cx} (h : c.Canon) : Out.Canon c.parkTrap := by
  unfold Cx.parkTrap
  split
  · exact Cx.enterTrap_canon h
  · exact .next h

theorem checkDeadlock_canon {s : State} {wk} (h : s.Canon) : Out.Canon (checkDeadlock s wk) := by
  unfold checkDeadlock
  split
  · exact .next h
  · split
    · exact .next h
    · next he =>
      have ht := of_some he (cxOf_canon h)
      split
      · exact .next h
      · split
        · exact Cx.parkTrap_canon ht
        · exact Cx.enterTrap_canon ht

theorem testBarriers_canon {s : State} {k} (h : s.Canon) : (testBarriers s k).Canon := by
  unfold testBarriers
  dsimp only
  split
  · split <;> exact h
  · split
    · split <;> exact h
    · split <;> exact h

theorem exitBarriers_canon {s : State} {w} (h : s.Canon) : (exitBarriers s w).Canon := by
  unfold exitBarriers
  split
  · exact h
  · split
    · exact testBarriers_canon h
    · exact h

theorem reissueCommand_canon {c : Cx} {t f n} (h : c.Canon) : (reissueCommand t c f n).Canon := by
  unfold reissueCommand
  split
  · exact h
  · dsimp only
    split
    · exact h
    · exact h
    · exact holdPages_canon h
    · exact h

theorem reissueEntry_canon {c : Cx} {t f} (h : c.Canon) : (reissueEntry t c f).Canon := by
  unfold reissueEntry
  split
  · exact reissueCommand_canon h
  · exact foldl_keeps (P := State.Canon) (fun _ _ hk => holdOne_canon hk) _ (foldl_keeps (P := LaneRun.Canon)
      (fun _ _ hk => replayLane_canon hk) _ h)

theorem Cx.endReturn_canon {c : Cx} (h : c.Canon) : Out.Canon c.endReturn := by
  unfold Cx.endReturn
  split
  · exact .next h
  · split
    · exact checkDeadlock_canon (exitBarriers_canon h)
    · exact Cx.enterTrap_canon h

theorem Cx.unpark_canon {c : Cx} (h : c.Canon) : Out.Canon c.unpark := by
  unfold Cx.unpark
  split
  · exact Cx.endReturn_canon h
  · exact .next h

theorem Cx.returnFromTrap_canon {c : Cx} (h : c.Canon) : Out.Canon c.returnFromTrap := by
  unfold Cx.returnFromTrap
  dsimp only
  split
  · exact .fault
  · split
    · exact Cx.endReturn_canon (Cx.settleBacks_canon (foldl_keeps (P := Cx.Canon) (fun _ _ hk =>
        reissueEntry_canon hk) _ h))
    · split
      · split
        · exact checkDeadlock_canon (Cx.settleBacks_canon (foldl_keeps (P := Cx.Canon) (fun _ _ hk2 =>
            reissueEntry_canon hk2) _ h))
        · exact .next (Cx.settleBacks_canon (foldl_keeps (P := Cx.Canon) (fun _ _ hk2 => reissueEntry_canon hk2) _ h))
      · exact .next (Cx.settleBacks_canon (foldl_keeps (P := Cx.Canon) (fun _ _ hk3 => reissueEntry_canon hk3) _ h))

theorem Cx.trailerTrap_canon {c : Cx} (h : c.Canon) : Out.Canon c.trailerTrap := by
  unfold Cx.trailerTrap
  split
  · exact .next h
  · split
    · exact .next h
    · dsimp only
      split <;> exact Cx.enterTrap_canon h

theorem Cx.leave_canon {c : Cx} (h : c.Canon) : Out.Canon c.leave := by
  unfold Cx.leave
  dsimp only
  split
  · exact .next (Cx.settleBacks_canon h)
  · split
    · exact Cx.trailerTrap_canon (Cx.settleBacks_canon h)
    · split
      · exact .next (Cx.settleBacks_canon h)
      · exact .next (Cx.settleBacks_canon h)
      · exact .next (Cx.settleBacks_canon h)
      · exact checkDeadlock_canon (Cx.settleBacks_canon h)
      · exact Cx.returnFromTrap_canon (Cx.settleBacks_canon h)
      · split
        · exact .next (endFarTask_canon (Cx.settleBacks_canon h))
        · exact .next (Cx.settleBacks_canon h)
      · split
        · exact checkDeadlock_canon (exitBarriers_canon (Cx.settleBacks_canon h))
        · exact .next (Cx.settleBacks_canon h)

theorem settleSpilled_canon {s : State} {wk k} (h : s.Canon) : (settleSpilled s wk k).Canon := by
  unfold settleSpilled
  split
  · exact h
  · split <;> exact h

theorem settleWarp_canon {s : State} {wk} (h : s.Canon) : (settleWarp s wk).Canon := by
  unfold settleWarp
  refine foldl_keeps (P := State.Canon) (fun a b hk => ?_) _ ?_
  · exact settleSpilled_canon hk
  · refine foldl_keeps (P := State.Canon) (fun a b hk2 => ?_) _ ?_
    · split
      · next he => exact Cx.settleBacks_canon (of_some he (cxOf_canon hk2))
      · exact hk2
    · exact h

theorem Cx.trailer_canon {c : Cx} {codes} (h : c.Canon) : Out.Canon (c.trailer codes) := Cx.leave_canon h

/-! ### Control: what its operations leave of the memories -/

theorem Cx.goto_canon {c : Cx} {t} (h : c.Canon) : Out.Canon (c.goto t) := by
  unfold Cx.goto
  split
  · exact Cx.trapBefore_canon h
  · exact Cx.done_canon h

theorem Cx.fallThrough_canon {c : Cx} (h : c.Canon) : Out.Canon c.fallThrough := Cx.done_canon h

theorem execBr_canon {s : State} {off} (h : s.Canon) : Out.Canon (execBr off s) :=
  issueSplit_canon h (fun _ hk => Cx.goto_canon hk)

theorem execCall_canon {s : State} {off} (h : s.Canon) : Out.Canon (execCall off s) := by
  unfold execCall
  refine issueSplit_canon h (fun c hc => ?_)
  dsimp only
  split <;> exact Cx.goto_canon hc

theorem execRet_canon {s : State} {a} (h : s.Canon) : Out.Canon (execRet a s) :=
  issueSplit_canon h (fun _ hk => Cx.goto_canon hk)

theorem execBrxU_canon {s : State} {a} (h : s.Canon) : Out.Canon (execBrxU a s) :=
  issueSplit_canon h (fun _ hk => Cx.goto_canon hk)

theorem execBrc_canon {s : State} {cc r off} (h : s.Canon) : Out.Canon (execBrc cc r off s) := by
  unfold execBrc
  refine issueSplit_canon h (fun c hc => ?_)
  split
  · exact Cx.goto_canon hc
  · exact Cx.fallThrough_canon hc

theorem execBra_canon {s : State} {k n off} (h : s.Canon) : Out.Canon (execBra k n off s) := by
  unfold execBra
  refine issueSplit_canon h (fun c hc => ?_)
  dsimp only
  split
  · exact Cx.trapAt_canon hc
  · split
    · exact Cx.fallThrough_canon hc
    · split
      · exact Cx.goto_canon hc
      · split
        · exact Cx.goto_canon hc
        · exact Cx.diverge_canon hc

theorem execBrx_canon {s : State} {a b} (h : s.Canon) : Out.Canon (execBrx a b s) := by
  unfold execBrx
  refine issueSplit_canon h (fun c hc => ?_)
  dsimp only
  split
  · exact Cx.trapAt_canon hc
  · split
    · exact Cx.trapBefore_canon hc
    · split
      · exact Cx.trapAt_canon hc
      · split
        · exact Cx.fallThrough_canon hc
        · exact Cx.goto_canon hc
        · exact Cx.diverge_canon hc

theorem Cx.releasing_canon {c : Cx} {scope k} (h : c.Canon) (hk : ∀ c0, c0.Canon → Out.Canon (k c0)) :
    Out.Canon (c.releasing scope k) := by
  unfold Cx.releasing
  split
  · exact hk _ h
  · exact Cx.stall_canon h

theorem execJarm_canon {s : State} {j} (h : s.Canon) : Out.Canon (execJarm j s) :=
  issueSplit_canon h (fun _ hk => Cx.done_canon hk)

theorem execJarv_canon {s : State} {j} (h : s.Canon) : Out.Canon (execJarv j s) := by
  unfold execJarv
  refine issueSplit_canon h (fun c hc => ?_)
  split
  · exact Cx.trapAt_canon hc
  · refine Cx.releasing_canon hc (fun c2 hc2 => ?_)
    dsimp only
    split <;> exact Cx.done_canon hc2

theorem execJwait_canon {s : State} {j} (h : s.Canon) : Out.Canon (execJwait j s) := by
  unfold execJwait
  refine issueSplit_canon h (fun c hc => ?_)
  split
  · exact Cx.trapAt_canon hc
  · exact Cx.releasing_canon hc (fun _ hk => Cx.done_canon hk)

theorem execJclr_canon {s : State} {j} (h : s.Canon) : Out.Canon (execJclr j s) :=
  issueSplit_canon h (fun _ hk => Cx.done_canon hk)

theorem execYield_canon {s : State} (h : s.Canon) : Out.Canon (execYield s) :=
  issueSplit_canon h (fun _ hk => Cx.done_canon hk)

theorem execTrap_canon {s : State} {n} (h : s.Canon) : Out.Canon (execTrap n s) :=
  issueSplit_canon h (fun _ hk => Cx.trapAfter_canon hk)

theorem requestPreempt_canon {s : State} {k} (h : s.Canon) : (requestPreempt s k).Canon := by
  unfold requestPreempt
  split <;> exact h

theorem Cx.debugStop_canon {c : Cx} {n k} (h : c.Canon) : Out.Canon (c.debugStop n k) :=
  .next (requestPreempt_canon (Cx.advance_canon h))

theorem execBrk_canon {s : State} {n} (h : s.Canon) : Out.Canon (execBrk n s) := by
  unfold execBrk
  refine issueSplit_canon h (fun c hc => ?_)
  split
  · split
    · exact Cx.faultTrap_canon hc
    · exact Cx.debugStop_canon hc
  · exact Cx.trapAfter_canon hc

theorem execTret_canon {s : State} (h : s.Canon) : Out.Canon (execTret s) := by
  unfold execTret
  refine issueSplit_canon h (fun c hc => ?_)
  split
  · exact Cx.trapAt_canon hc
  · split
    · exact Cx.trapAt_canon hc
    · exact Cx.done_canon hc

theorem execMode_canon {s : State} {d k} (h : s.Canon) : Out.Canon (execMode d k s) :=
  issueSplit_canon h (fun _ hk => Cx.done_canon hk)

theorem execEndRun_canon {s : State} {a b d} (h : s.Canon) : Out.Canon (execEndRun a b d s) := by
  unfold execEndRun
  refine issueSplit_canon h (fun c hc => ?_)
  dsimp only
  split
  · exact Cx.stay_canon hc
  · split
    · exact Cx.trapAt_canon hc
    · exact Cx.trailer_canon hc

theorem execWordNotAnInstruction_canon {s : State} {w} (h : s.Canon) : Out.Canon (execWordNotAnInstruction w s) := by
  unfold execWordNotAnInstruction
  split
  · exact .next h
  · split
    · exact .next h
    · next he =>
      have ht := of_some he (cxOf_canon h)
      split
      · exact .next h
      · split
        · exact Cx.faultTrap_canon ht
        · split
          · exact Cx.stay_canon ht
          · exact Cx.trapAt_canon ht
  · split
    · exact .next h
    · next he =>
      have ht := of_some he (exOf_canon h)
      split
      · exact .next h
      · exact Ex.stop_canon ht

/-! ### Barrier: what its operations leave of the memories -/

theorem Cx.withObject_canon {c : Cx} {addr align n k} (h : c.Canon) (hk : ∀ v0, Out.Canon (k v0)) :
    Out.Canon (c.withObject addr align n k) := by
  unfold Cx.withObject
  split
  · exact Cx.trapAt_canon h
  · exact hk _
  · exact Cx.trapAt_canon h

theorem execBarInit_canon {s : State} {a b} (h : s.Canon) : Out.Canon (execBarInit a b s) := by
  unfold execBarInit
  refine issueSplit_canon h (fun c hc => ?_)
  dsimp only
  refine Cx.withObject_canon hc (fun _ => ?_)
  split
  · exact Cx.trapAt_canon hc
  · exact Cx.done_canon hc

theorem execBarArv_canon {s : State} {d a b} (h : s.Canon) : Out.Canon (execBarArv d a b s) :=
  issueSplit_canon h (fun _ hk => Cx.withObject_canon hk (fun _ => Cx.releasing_canon hk (fun _ hk2 =>
    Cx.scalarDone_canon hk2 hk2)))

theorem execBarWait_canon {s : State} {d a b} (h : s.Canon) : Out.Canon (execBarWait d a b s) := by
  unfold execBarWait
  refine issueSplit_canon h (fun c hc => ?_)
  dsimp only
  refine Cx.withObject_canon hc (fun _ => ?_)
  split
  · exact Cx.trapAt_canon hc
  · split
    · exact Cx.stall_canon hc
    · exact Cx.scalarDone_canon hc hc

theorem execKbar_canon {s : State} (h : s.Canon) : Out.Canon (execKbar s) := by
  unfold execKbar
  refine issueSplit_canon h (fun c hc => ?_)
  split
  · exact Cx.done_canon hc
  · refine Cx.releasing_canon hc (fun c2 hc2 => ?_)
    dsimp only
    refine .next ?_
    split <;> exact hc2

theorem execGbar_canon {s : State} (h : s.Canon) : Out.Canon (execGbar s) := by
  unfold execGbar
  refine issueSplit_canon h (fun c hc => ?_)
  split
  · exact Cx.done_canon hc
  · split
    · exact Cx.trapAt_canon hc
    · refine Cx.releasing_canon hc (fun c2 hc2 => ?_)
      dsimp only
      refine .next ?_
      split <;> exact hc2
  · exact Cx.trapAt_canon hc

/-! ### Loads: what its operations leave of the memories -/

theorem globalLoad_canon {st : State} {i d a s bytes regs signed} (h : st.Canon) :
    Out.Canon (globalLoad i st d a s bytes regs signed) := issueSplit_canon h (fun _ hk => Cx.global_canon hk)

theorem execSt_canon {st : State} {d a s z} (h : st.Canon) : Out.Canon (execSt d a s z st) :=
  issueSplit_canon h (fun _ hk => Cx.global_canon hk)

theorem Cx.localAccess_canon {c : Cx} {n addr k} (h : c.Canon) (hk : ∀ v0, Out.Canon (k v0)) :
    Out.Canon (c.localAccess n addr k) := by
  unfold Cx.localAccess
  split
  · exact Cx.trapAt_canon h
  · split
    · exact Cx.trapAt_canon h
    · split
      · exact hk _
      · exact Cx.trapAt_canon h

theorem Cx.scratchLoad_canon {c : Cx} {opcode look d vals} (h : c.Canon) :
    (c.scratchLoad opcode look d vals).Canon := by
  unfold Cx.scratchLoad
  dsimp only
  split <;> exact h

theorem localLoad_canon {st : State} {i d a s bytes regs} (h : st.Canon) :
    Out.Canon (localLoad i st d a s bytes regs) :=
  issueSplit_canon h (fun _ hk => Cx.localAccess_canon hk (fun _ => Cx.done_canon (Cx.scratchLoad_canon hk)))

theorem storeScratch_canon {s : State} {k n addr data lanes} (h : s.Canon) :
    (storeScratch s k n addr data lanes).Canon := by
  unfold storeScratch
  refine foldl_keeps (P := State.Canon) (fun a b hk => ?_) _ ?_
  · exact hk
  · exact h

theorem execStl_canon {st : State} {d a s z} (h : st.Canon) : Out.Canon (execStl d a s z st) := by
  unfold execStl
  refine issueSplit_canon h (fun c hc => ?_)
  dsimp only
  refine Cx.localAccess_canon hc (fun _ => ?_)
  split
  · exact Cx.trapAt_canon hc
  · exact Cx.done_canon (storeScratch_canon hc)

theorem Cx.scalarLoad_canon {c : Cx} {opcode look n d addr} (h : c.Canon) :
    Out.Canon (Cx.scalarLoad c opcode look n d addr) := by
  unfold Cx.scalarLoad
  dsimp only
  split
  · exact Cx.trapAt_canon h
  · split
    · exact Cx.trapAt_canon h
    · split
      · exact Cx.stall_canon h
      · split
        · next he =>
          split at he
          · cases he
          · have ht := Access.of_ok he (accessLane_canon h)
            exact Cx.done_canon ht
        · split
          · exact Cx.stall_canon h
          · have hq : State.Canon (c.newPend opcode look { vector := false, base := d, count := n / 4 }
              (List.replicate (n / 4) [none]) 1 false).1.s := h
            exact Cx.done_canon (holdOne_canon hq)
        · exact Cx.done_canon h
        · exact Cx.trapAt_canon h
        · exact .fault

theorem Ex.hold_canon {x : Ex} {p h addr write} (hx : x.Canon) : Out.Canon (x.hold p h addr write) := by
  unfold Ex.hold
  split
  · exact Ex.wait_canon hx
  · split
    · exact Ex.wait_canon hx
    · exact .next (holdOne_canon hx)

theorem Ex.scalarLoad_canon {x : Ex} {n d addr} (h : x.Canon) : Out.Canon (x.scalarLoad n d addr) := by
  unfold Ex.scalarLoad
  split
  · exact Ex.stop_canon h
  · dsimp only
    split
    · next he =>
      have ht := Access.of_ok he (accessLane_canon h)
      exact Ex.done_canon (foldl_keeps (P := Ex.Canon) (fun _ _ hk => Ex.putScalar_canon hk) _ ht)
    · exact Ex.hold_canon h
    · exact Ex.stop_canon h
    · exact Ex.stop_canon h
    · exact .fault

theorem execLdc_canon {s : State} {d p w l} (h : s.Canon) : Out.Canon (execLdc d p w l s) := by
  unfold execLdc
  dsimp only
  refine issue_canon h (fun c hc => ?_) (fun c2 hc2 => ?_)
  · split
    · exact Cx.trapAt_canon hc
    · exact Cx.scalarLoad_canon hc
  · split
    · exact Ex.stop_canon hc2
    · exact Ex.scalarLoad_canon hc2

theorem execSld_canon {st : State} {d p a s l} (h : st.Canon) : Out.Canon (execSld d p a s l st) :=
  issue_canon h (fun _ hk => Cx.scalarLoad_canon hk) (fun _ hk => Ex.scalarLoad_canon hk)

theorem Cx.queueAccess_canon {c : Cx} {q n off k} (h : c.Canon) (hk : ∀ v0 v1 v2, Out.Canon (k v0 v1 v2)) :
    Out.Canon (c.queueAccess q n off k) := by
  unfold Cx.queueAccess
  split
  · split
    · exact Cx.trapAt_canon h
    · split
      · exact Cx.trapAt_canon h
      · split
        · exact Cx.trapAt_canon h
        · exact hk _ _ _
  · exact Cx.trapAt_canon h

theorem execStlQ_canon {s : State} {d a cm w q} (h : s.Canon) : Out.Canon (execStlQ d a cm w q s) := by
  unfold execStlQ
  refine issueSplit_canon h (fun c hc => ?_)
  extract_lets n row off data shadow
  refine Cx.queueAccess_canon hc (fun _ _ _ => ?_)
  split
  · exact Cx.trapAt_canon hc
  · extract_lets slot x1 c1 store
    have h1 : c1.Canon := hc
    have hstore (y : Cx) (hy : y.Canon) : (store y).Canon := storeScratch_canon hy
    clear_value c1 store
    split
    · exact Cx.stall_canon h1
    · split
      · exact Cx.releasing_canon h1 (fun _ hk => Cx.done_canon (hstore _ hk))
      · exact Cx.done_canon (hstore _ h1)

theorem execLdlQ_canon {s : State} {d a f w q l} (h : s.Canon) : Out.Canon (execLdlQ d a f w q l s) := by
  unfold execLdlQ
  refine issueSplit_canon h (fun c hc => ?_)
  dsimp only
  refine Cx.queueAccess_canon hc (fun _ _ _ => ?_)
  split
  · exact Cx.stall_canon hc
  · refine Cx.done_canon ?_
    refine Cx.scratchLoad_canon ?_
    split <;> exact hc

/-! ### Atomics: what its operations leave of the memories -/

theorem atomOp_canon {st : State} {i op d a s} (h : st.Canon) : Out.Canon (atomOp i st op d a s) :=
  issueSplit_canon h (fun _ hk => Cx.global_canon hk)

theorem execRed_canon {st : State} {d a s o} (h : st.Canon) : Out.Canon (execRed d a s o st) :=
  issueSplit_canon h (fun _ hk => Cx.global_canon hk)

theorem atomlLane_canon {k op n code addr data data2} {a : State × List LaneVal} {i} (h : a.1.Canon) :
    (atomlLane k op n code addr data data2 a i).1.Canon := by
  unfold atomlLane
  split
  · exact h
  · exact h

theorem Cx.poisonRow_canon {c : Cx} {r m} (h : c.Canon) : (c.poisonRow r m).Canon := by
  unfold Cx.poisonRow
  split
  · exact h
  · split <;> exact h

theorem execAtoml_canon {st : State} {d a o} (h : st.Canon) : Out.Canon (execAtoml d a o st) := by
  unfold execAtoml
  refine issueSplit_canon h (fun c hc => Cx.localAccess_canon hc fun k => ?_)
  split
  · exact Cx.trapAt_canon hc
  · refine Cx.done_canon (foldl_keeps (P := Cx.Canon) (fun _ _ h1 => Cx.poisonRow_canon (Cx.putRow_canon h1)) _ ?_)
    exact foldl_keeps (P := fun r : State × List LaneVal => r.1.Canon) (fun _ _ h1 => atomlLane_canon h1) _ hc

theorem execXatAdd_canon {st : State} {d a s} (h : st.Canon) : Out.Canon (execXatAdd d a s st) :=
  issueSplit_canon h (fun _ hk => Cx.global_canon hk)

theorem execXatRed_canon {st : State} {d a s o} (h : st.Canon) : Out.Canon (execXatRed d a s o st) :=
  issueSplit_canon h (fun _ hk => Cx.global_canon hk)

theorem execXatRmw_canon {st : State} {d a s l} (h : st.Canon) : Out.Canon (execXatRmw d a s l st) :=
  issueSplit_canon h (fun _ hk => Cx.global_canon hk)

theorem execXwait_canon {s : State} (h : s.Canon) : Out.Canon (execXwait s) := by
  unfold execXwait
  refine issueSplit_canon h (fun c hc => ?_)
  dsimp only
  split
  · split
    · exact Cx.stall_canon hc
    · exact Cx.done_canon hc
  · split
    · exact Cx.stall_canon hc
    · exact Cx.done_canon hc

theorem execNearOperationPerformed_canon {s : State} {n} (h : s.Canon) :
    Out.Canon (execNearOperationPerformed n s) := by
  unfold execNearOperationPerformed
  split
  · exact .next h
  · exact .next (performNear_canon (performAll_canon h))

/-! ### Copy: what its operations leave of the memories -/

theorem newCommand_canon {s : State} {g wk k kind barrier asid} (h : s.Canon) :
    (newCommand s g wk k kind barrier asid).1.Canon := h

theorem Cx.putNumber_canon {c : Cx} {a n} (h : c.Canon) : (c.putNumber a n).Canon := by
  unfold Cx.putNumber
  split <;> exact h

theorem finishCommand_canon {s : State} {n x status fault} (h : s.Canon) :
    (finishCommand s n x status fault).Canon := by
  unfold finishCommand
  dsimp only
  unfold dropHeldCommand
  split
  · split <;> exact h
  · split <;> exact h

theorem endEmpty_canon {s : State} {n} (h : s.Canon) : (endEmpty s n).Canon := by
  unfold endEmpty
  split
  · exact finishCommand_canon h
  · exact h

theorem readGlobal_canon {s : State} {p wk ps} (h : s.Canon) : (readGlobal p wk s ps).Canon := by
  induction ps generalizing s with
  | nil => exact .ok h
  | cons q ps ih =>
    unfold readGlobal
    split
    · next he =>
      have ht := Access.of_ok he (accessLane_canon h)
      split
      · next he2 => exact .ok (Elem.of_ok he2 (ih ht))
      · exact ih ht
    · exact .replay
    · exact .stop
    · exact .stop
    · exact .hole

theorem writeObstacle_canon {s : State} {p ps} : IfSome Elem.Canon (writeObstacle s p ps) := by
  induction ps with
  | nil => exact .none
  | cons q ps ih =>
    unfold writeObstacle
    split
    · exact .some .stop
    · exact .some .replay
    · exact .some .stop
    · exact .some .stop
    · exact .some .hole
    · exact .some .page
    · exact ih

theorem writePieces_canon {s : State} {p wk ps bs bad} (h : s.Canon) : (writePieces p wk s ps bs bad).Canon := by
  induction ps generalizing s bs bad with
  | nil => exact h
  | cons q ps ih =>
    unfold writePieces
    dsimp only
    split
    · next he => exact ih (Access.of_ok he (accessLane_canon h))
    · exact h
    · exact h
    · exact h
    · exact h

theorem writeWhole_canon {s : State} {p wk poison addr bs} (h : s.Canon) :
    (writeWhole p wk poison s addr bs).Canon := by
  unfold writeWhole
  split
  · exact writeLoc_canon (beforeAccess_canon (flushNear_canon h))
  · exact h
  · exact h
  · exact h
  · exact h

theorem writeGlobal_canon {s : State} {p wk addr bs bad} (h : s.Canon) : (writeGlobal s p wk addr bs bad).Canon := by
  unfold writeGlobal
  split
  · dsimp only
    split
    · next he => exact of_some he writeObstacle_canon
    · exact .ok (writeWhole_canon h)
  · dsimp only
    split
    · next he => exact of_some he writeObstacle_canon
    · exact .ok (writePieces_canon h)

theorem readElem_canon {s : State} {p wk g space addr n} (h : s.Canon) : (readElem s p wk g space addr n).Canon := by
  unfold readElem
  split
  · exact readGlobal_canon h
  · dsimp only
    split
    · exact .stop
    · split
      · split
        · exact .stop
        · split
          · exact .stop
          · split
            · exact .stop
            · exact .ok h
      · split
        · exact .stop
        · exact .ok h

theorem writeElem_canon {s : State} {p wk g space addr bs bad} (h : s.Canon) :
    (writeElem s p wk g space addr bs bad).Canon := by
  unfold writeElem
  split
  · exact writeGlobal_canon h
  · dsimp only
    split
    · exact .stop
    · split
      · split
        · exact .stop
        · split
          · exact .stop
          · split
            · exact .stop
            · exact .ok h
      · split
        · exact .stop
        · exact .ok h

theorem sourceAt_canon {s : State} {s0 p n x space addr bytes e} (h : s.Canon) :
    (sourceAt s0 s p n x space addr bytes e).Canon := by
  unfold sourceAt
  split
  · next he _ =>
    have ht := Elem.of_ok he (readElem_canon h)
    split
    · exact .ok ht
    · split <;> exact .ok ht
  · exact readElem_canon h

theorem copySource_canon {s : State} {s0 p n x e} (h : s.Canon) : (copySource s0 s p n x e).Canon := by
  unfold copySource
  split
  · dsimp only
    split
    · exact .ok h
    · split
      · exact sourceAt_canon h
      · exact .ok h
  · exact sourceAt_canon h
  · exact .ok h

theorem copyFrom_canon {s : State} {s0 p n x left e b} (h : s.Canon) : (copyFrom s0 p n x left e s b).Canon := by
  induction left generalizing s e b with
  | zero => exact h
  | succ left ih =>
    unfold copyFrom
    split
    · next he =>
      have ht := Elem.of_ok he (copySource_canon h)
      split
      · next he2 => exact ih (Elem.of_ok he2 (writeElem_canon ht))
      · exact ht
    · exact h

theorem holdCommand_canon {s : State} {p n h addr write} (hs : s.Canon) : (holdCommand s p n h addr write).Canon := by
  unfold holdCommand
  split
  · exact hs
  · exact holdOne_canon hs

theorem execCopyCommandComplete_canon {s : State} {n} (h : s.Canon) : Out.Canon (execCopyCommandComplete n s) := by
  unfold execCopyCommandComplete
  split
  · exact .next h
  · split
    · exact .next h
    · split
      · exact .next (finishCommand_canon h)
      · split
        · exact .next h
        · dsimp only
          split
          · exact .next (finishCommand_canon (copyFrom_canon h))
          · exact .next (finishCommand_canon (copyFrom_canon h))
          · exact .next (holdCommand_canon (copyFrom_canon h))
          · exact .next (wantPage_canon (copyFrom_canon h))
          · exact .fault
          · exact .next (copyFrom_canon h)

theorem copyIssue_canon {st : State} {i zero k a b e} (h : st.Canon) : Out.Canon (copyIssue i st zero k a b e) := by
  unfold copyIssue
  refine issueSplit_canon h (fun c hc => ?_)
  refine Cx.releasing_canon hc (fun c2 hc2 => ?_)
  dsimp only
  split
  · exact Cx.trapAt_canon hc2
  · split
    · exact Cx.trapAt_canon hc2
    · split
      · exact Cx.trapAt_canon hc2
      · split
        · exact Cx.trapAt_canon hc2
        · split
          · exact Cx.trapAt_canon hc2
          · refine Cx.scalarDone_canon hc2 ?_
            refine Cx.putNumber_canon ?_
            dsimp only [Cx.Canon]
            split
            · exact endEmpty_canon (newCommand_canon hc2)
            · exact newCommand_canon hc2

theorem execMrd_canon {s : State} {iss k a} (h : s.Canon) : Out.Canon (execMrd iss k a s) := by
  unfold execMrd
  refine issueSplit_canon h (fun c hc => ?_)
  dsimp only
  split
  · exact Cx.trapAt_canon hc
  · exact Cx.scalarDone_canon hc hc

theorem execMwait_canon {s : State} {o k a} (h : s.Canon) : Out.Canon (execMwait o k a s) := by
  unfold execMwait
  refine issueSplit_canon h (fun c hc => ?_)
  dsimp only
  split
  · exact Cx.trapAt_canon hc
  · split
    · exact Cx.done_canon hc
    · exact Cx.stall_canon hc

theorem execMstep_canon {s : State} {o k a} (h : s.Canon) : Out.Canon (execMstep o k a s) :=
  issueSplit_canon h (fun _ hk => Cx.scalarDone_canon hk (Cx.putNumber_canon (newCommand_canon hk)))

theorem execMstepComplete_canon {s : State} {n} (h : s.Canon) : Out.Canon (execMstepComplete n s) := by
  unfold execMstepComplete
  split
  · exact .next h
  · split
    · split
      · exact .next (finishCommand_canon h)
      · exact .next h
    · exact .next h

theorem execWriteAcknowledged_canon {s : State} {wk scope} (h : s.Canon) :
    Out.Canon (execWriteAcknowledged wk scope s) := by
  unfold execWriteAcknowledged
  split
  · split <;> exact .next h
  · split
    · exact .next h
    · split <;> exact .next h

theorem execFence_canon {s : State} {o sc} (h : s.Canon) : Out.Canon (execFence o sc s) := by
  unfold execFence
  refine issueSplit_canon h (fun c hc => ?_)
  split
  · exact Cx.stall_canon hc
  · split
    · exact Cx.done_canon hc
    · exact Cx.releasing_canon hc (fun _ hk => Cx.done_canon hk)

theorem execPref_canon {s : State} {v a b} (h : s.Canon) : Out.Canon (execPref v a b s) :=
  issueSplit_canon h (fun _ hk => Cx.done_canon hk)

theorem execCinv_canon {s : State} {v a b} (h : s.Canon) : Out.Canon (execCinv v a b s) :=
  issueSplit_canon h (fun _ hk => Cx.done_canon hk)

theorem execCwb_canon {s : State} {v a b} (h : s.Canon) : Out.Canon (execCwb v a b s) := by
  unfold execCwb
  refine issueSplit_canon h (fun c hc => ?_)
  split <;> exact Cx.done_canon hc

/-! ### System: what its operations leave of the memories -/

theorem execSrd_canon {s : State} {a n} (h : s.Canon) : Out.Canon (execSrd a n s) := by
  unfold execSrd
  refine issueSplit_canon h (fun c hc => ?_)
  split
  · exact Cx.trapAt_canon hc
  · split
    · exact Cx.trapAt_canon hc
    · exact Cx.scalarDone_canon hc hc

theorem Cx.writeCtl_canon {c : Cx} {n v} (h : c.Canon) : IfSome Cx.Canon (c.writeCtl n v) := by
  unfold Cx.writeCtl
  dsimp only
  split
  · exact .some h
  · split
    · exact .some h
    · split
      · exact .some h
      · split
        · exact .some h
        · split
          · exact .some h
          · split
            · exact .some h
            · split
              · exact .some h
              · split
                · exact .some h
                · split
                  · exact .some h
                  · exact .none

theorem execSwr_canon {s : State} {a n} (h : s.Canon) : Out.Canon (execSwr a n s) := by
  unfold execSwr
  refine issueSplit_canon h (fun c hc => ?_)
  dsimp only
  split
  · exact Cx.trapAt_canon hc
  · split
    · next he => exact Cx.done_canon (of_some he (Cx.writeCtl_canon hc))
    · exact Cx.trapAt_canon hc

theorem execCtlModeWrite_canon {s : State} {a} (h : s.Canon) : Out.Canon (execCtlModeWrite a s) := by
  unfold execCtlModeWrite
  refine issueSplit_canon h (fun c hc => ?_)
  dsimp only
  split
  · exact Cx.trapAt_canon hc
  · exact Cx.done_canon hc

theorem execCtlCpyfltWrite_canon {s : State} {a} (h : s.Canon) : Out.Canon (execCtlCpyfltWrite a s) := by
  unfold execCtlCpyfltWrite
  refine issueSplit_canon h (fun c hc => ?_)
  dsimp only
  split
  · exact Cx.trapAt_canon hc
  · split <;> exact Cx.done_canon hc

theorem execCtlEstWrite_canon {s : State} {a} (h : s.Canon) : Out.Canon (execCtlEstWrite a s) := by
  unfold execCtlEstWrite
  refine issueSplit_canon h (fun c hc => ?_)
  split
  · exact Cx.trapAt_canon hc
  · split <;> exact Cx.done_canon hc

theorem completeStopped_canon {s : State} {entries} (h : s.Canon) : (completeStopped s entries).Canon := by
  unfold completeStopped
  refine foldl_keeps (P := State.Canon) (fun a b hk => ?_) _ ?_
  · split
    · exact endEmpty_canon hk
    · exact hk
  · exact h

theorem execExit_canon {s : State} (h : s.Canon) : Out.Canon (execExit s) := by
  unfold execExit
  refine issueSplit_canon h (fun c hc => ?_)
  refine Cx.releasing_canon hc (fun c2 hc2 => ?_)
  dsimp only
  refine Cx.done_canon ?_
  unfold Cx.joined
  dsimp only [Cx.Canon]
  split
  · exact completeStopped_canon hc2
  · exact hc2

theorem Cx.discardEntries_canon {c : Cx} (h : c.Canon) : c.discardEntries.Canon := completeStopped_canon h

theorem execCtlTcauseWrite_canon {s : State} {a} (h : s.Canon) : Out.Canon (execCtlTcauseWrite a s) := by
  unfold execCtlTcauseWrite
  refine issueSplit_canon h (fun c hc => ?_)
  split
  · exact Cx.trapAt_canon hc
  · split
    · exact Cx.done_canon hc
    · split
      · exact Cx.done_canon (Cx.discardEntries_canon hc)
      · exact Cx.done_canon hc

theorem execSbnd_canon {s : State} {t n a b} (h : s.Canon) : Out.Canon (execSbnd t n a b s) :=
  issueSplit_canon h (fun _ hk => Cx.done_canon hk)

theorem execClk_canon {s : State} {a core} (h : s.Canon) : Out.Canon (execClk a core s) :=
  issueSplit_canon h (fun _ hk => Cx.scalarDone_canon hk hk)

theorem execSleep_canon {s : State} {a} (h : s.Canon) : Out.Canon (execSleep a s) := by
  unfold execSleep
  refine issueSplit_canon h (fun c hc => ?_)
  dsimp only
  split
  · exact Cx.done_canon hc
  · exact Cx.stall_canon hc
  · split
    · exact Cx.done_canon hc
    · exact Cx.stall_canon hc

theorem execSleepExpiry_canon {s : State} {wk e} (h : s.Canon) : Out.Canon (execSleepExpiry wk e s) := by
  unfold execSleepExpiry
  split
  · exact .next h
  · next he =>
    have ht := of_some he (cxOf_canon h)
    split
    · split
      · exact .next ht
      · exact .next h
    · exact .next h

theorem execId_canon {s : State} {sel a} (h : s.Canon) : Out.Canon (execId sel a s) :=
  issueSplit_canon h (fun _ hk => Cx.scalarDone_canon hk hk)

theorem execDbg_canon {s : State} {a b d} (h : s.Canon) : Out.Canon (execDbg a b d s) := by
  unfold execDbg
  refine issueSplit_canon h (fun c hc => ?_)
  dsimp only
  split <;> exact Cx.done_canon hc

/-! ### Far: what its operations leave of the memories -/

theorem Cx.ship_canon {c : Cx} {d b e n slot seq w} (h : c.Canon) : Out.Canon (c.ship d b e n slot seq w) :=
  Cx.scalarDone_canon h h

theorem execRcall_canon {s : State} {n d b e} (h : s.Canon) : Out.Canon (execRcall n d b e s) := by
  unfold execRcall
  refine issueSplit_canon h (fun c hc => ?_)
  split
  · exact Cx.trapAt_canon hc
  · split
    · exact Cx.stall_canon hc
    · exact Cx.releasing_canon hc (fun _ hk => Cx.ship_canon hk)

theorem execRcallRetry_canon {s : State} {n d b e} (h : s.Canon) : Out.Canon (execRcallRetry n d b e s) := by
  unfold execRcallRetry
  refine issueSplit_canon h (fun c hc => ?_)
  split
  · exact Cx.trapAt_canon hc
  · split
    · exact Cx.stall_canon hc
    · exact Cx.releasing_canon hc (fun _ hk => Cx.ship_canon hk)

theorem dropCached_canon {s : State} {core caller tag} (h : s.Canon) : (dropCached s core caller tag).Canon := by
  unfold dropCached
  split <;> exact h

theorem execRwait_canon {s : State} {d a l} (h : s.Canon) : Out.Canon (execRwait d a l s) := by
  unfold execRwait
  refine issueSplit_canon h (fun c hc => ?_)
  dsimp only
  split
  · exact Cx.done_canon (dropCached_canon hc)
  · exact Cx.done_canon hc

theorem deliverOne_canon {s : State} {wk x} (h : s.Canon) : (deliverOne wk s x).Canon := by
  unfold deliverOne
  split
  · exact h
  · split
    · exact h
    · exact dropCached_canon h

theorem deliverCalls_canon {s : State} {wk} (h : s.Canon) : (deliverCalls s wk).Canon := by
  unfold deliverCalls
  split
  · exact h
  · exact settleWarp_canon (foldl_keeps (P := State.Canon) (fun _ _ hk => deliverOne_canon hk) _ h)

theorem startFar_canon {s : State} {core m} (h : s.Canon) : (startFar s core m).Canon := by
  unfold startFar
  dsimp only
  split <;> exact h

theorem withTarget_canon {s : State} {core} (h : s.Canon) : (withTarget s core).Canon := by
  unfold withTarget
  split <;> exact h

theorem startEntered_canon {s : State} {core ms} (h : s.Canon) : (startEntered core ms s).Canon := by
  induction ms generalizing s with
  | nil => exact h
  | cons m ms ih =>
    unfold startEntered
    split
    · exact h
    · exact ih (startFar_canon h)

theorem enterCall_canon {s : State} {core m} (h : s.Canon) : (enterCall s core m).Canon := by
  unfold enterCall
  dsimp only
  split
  · exact h
  · exact startEntered_canon h

theorem handleCall_canon {s : State} {core m} (h : s.Canon) : IfSome State.Canon (handleCall s core m) := by
  unfold handleCall
  split
  · exact .none
  · split
    · split <;> exact .some h
    · split
      · exact .none
      · exact .some (enterCall_canon h)

theorem startCalls_canon {s : State} {core ms} (h : s.Canon) : (startCalls core ms s).Canon := by
  induction ms generalizing s with
  | nil => exact h
  | cons m ms ih =>
    unfold startCalls
    split
    · next he => exact ih (of_some he (handleCall_canon h))
    · exact h

theorem startWaiting_canon {s : State} {core} (h : s.Canon) : (startWaiting s core).Canon := by
  unfold startWaiting
  split
  · exact h
  · exact startCalls_canon (startEntered_canon h)

theorem execFarCallArrival_canon {s : State} {n core} (h : s.Canon) : Out.Canon (execFarCallArrival n core s) := by
  unfold execFarCallArrival
  split
  · exact .next h
  · split
    · exact .next h
    · dsimp only
      split
      · split
        · refine .next ?_
          refine IfSome.getD ?_ ?_
          · exact handleCall_canon (withTarget_canon h)
          · exact withTarget_canon h
        · exact .next (withTarget_canon h)
      · split
        · refine .next ?_
          refine IfSome.getD ?_ ?_
          · exact handleCall_canon (withTarget_canon h)
          · exact withTarget_canon h
        · exact .next (withTarget_canon h)

theorem execRret_canon {s : State} {n} (h : s.Canon) : Out.Canon (execRret n s) := by
  unfold execRret
  refine issueSplit_canon h (fun c hc => ?_)
  split
  · exact Cx.trapAt_canon hc
  · exact Cx.releasing_canon hc (fun _ hk => Cx.done_canon hk)

theorem execFarTaskStopped_canon {s : State} {wk} (h : s.Canon) : Out.Canon (execFarTaskStopped wk s) := by
  unfold execFarTaskStopped
  split
  · exact .next h
  · split
    · exact .next h
    · split
      · exact .next h
      · exact .next (endFarTask_canon h)

theorem finishFar_canon {s : State} {wk} (h : s.Canon) : (finishFar s wk).Canon := by
  unfold finishFar
  split
  · exact h
  · split
    · split <;> exact h
    · exact h

theorem execFarReplyArrival_canon {s : State} {n} (h : s.Canon) : Out.Canon (execFarReplyArrival n s) := by
  unfold execFarReplyArrival
  split
  · exact .next h
  · dsimp only
    split
    · exact .next h
    · split
      · exact .next h
      · exact .next (deliverCalls_canon h)

theorem execRcallTimeout_canon {s : State} {wk slot} (h : s.Canon) : Out.Canon (execRcallTimeout wk slot s) := by
  unfold execRcallTimeout
  split
  · exact .next h
  · split
    · exact .next h
    · split
      · exact .next h
      · exact .next (deliverCalls_canon h)

theorem execReplyCacheExpiry_canon {s : State} {core n} (h : s.Canon) :
    Out.Canon (execReplyCacheExpiry core n s) := by
  unfold execReplyCacheExpiry
  split
  · exact .next h
  · split
    · exact .next h
    · split <;> exact .next h

theorem execLongLatencyWriteback_canon {s : State} {wk p} (h : s.Canon) :
    Out.Canon (execLongLatencyWriteback wk p s) := by
  unfold execLongLatencyWriteback
  split
  · exact .next h
  · exact .next (settleWarp_canon h)

/-! ### Matrix: what its operations leave of the memories -/

theorem Cx.enqueue_canon {c : Cx} {k} (h : c.Canon) (hk : ∀ c0, c0.Canon → (k c0).1.Canon) :
    Out.Canon (Cx.enqueue c k) := by
  unfold Cx.enqueue
  split
  · exact Cx.stall_canon h
  · exact Cx.done_canon (hk c h)

theorem mmaIssue_canon {st : State} {i form d a s l} (h : st.Canon) : Out.Canon (mmaIssue i st form d a s l) := by
  unfold mmaIssue
  refine issueSplit_canon h (fun c hc => ?_)
  dsimp only
  split
  · exact Cx.trapAt_canon hc
  · exact Cx.trapAt_canon hc
  · split
    · exact Cx.trapAt_canon hc
    · split
      · exact Cx.trapAt_canon hc
      · refine Cx.enqueue_canon hc (fun c2 hc2 => ?_)
        split
        · exact hc2
        · split <;> exact hc2

theorem execMsa_canon {st : State} {d a s l} (h : st.Canon) : Out.Canon (execMsa d a s l st) := by
  unfold execMsa
  refine issueSplit_canon h (fun c hc => ?_)
  dsimp only
  split
  · exact Cx.trapAt_canon hc
  · exact Cx.trapAt_canon hc
  · split
    · exact Cx.trapAt_canon hc
    · split
      · exact Cx.trapAt_canon hc
      · exact Cx.enqueue_canon hc (fun _ hk => hk)

theorem execMzero_canon {s : State} {t} (h : s.Canon) : Out.Canon (execMzero t s) := by
  unfold execMzero
  refine issueSplit_canon h (fun c hc => ?_)
  split
  · exact Cx.trapAt_canon hc
  · exact Cx.enqueue_canon hc (fun _ hk => hk)

theorem execMzeroP_canon {s : State} (h : s.Canon) : Out.Canon (execMzeroP s) := by
  unfold execMzeroP
  refine issueSplit_canon h (fun c hc => ?_)
  split
  · exact Cx.trapAt_canon hc
  · exact Cx.enqueue_canon hc (fun _ hk => hk)

theorem execMmovToRegisters_canon {s : State} {d t l} (h : s.Canon) : Out.Canon (execMmovToRegisters d t l s) := by
  unfold execMmovToRegisters
  refine issueSplit_canon h (fun c hc => ?_)
  split
  · exact Cx.trapAt_canon hc
  · exact Cx.enqueue_canon hc (fun _ hk => hk)

theorem execMmovToTile_canon {s : State} {d t} (h : s.Canon) : Out.Canon (execMmovToTile d t s) := by
  unfold execMmovToTile
  refine issueSplit_canon h (fun c hc => ?_)
  split
  · exact Cx.trapAt_canon hc
  · exact Cx.enqueue_canon hc (fun _ hk => hk)

theorem execMring_canon {s : State} {t a b} (h : s.Canon) : Out.Canon (execMring t a b s) := by
  unfold execMring
  refine issueSplit_canon h (fun c hc => ?_)
  dsimp only
  split
  · exact Cx.trapAt_canon hc
  · split
    · exact Cx.trapAt_canon hc
    · split
      · split
        · exact Cx.trapAt_canon hc
        · exact Cx.enqueue_canon hc (fun _ hk => hk)
      · split
        · exact Cx.trapAt_canon hc
        · exact Cx.enqueue_canon hc (fun _ hk => hk)

theorem fillDrain_canon {s : State} {wk id y bad differ} (h : s.Canon) : (fillDrain s wk id y bad differ).Canon :=
  settleWarp_canon h

theorem vregStatus_canon {s : State} {skein status bits pdisc} (h : s.Canon) :
    (vregStatus s skein status bits pdisc).Canon := by
  unfold vregStatus
  split
  · split <;> exact h
  · exact h

theorem closeTile_canon {s : State} {g tag differ} (h : s.Canon) : (closeTile s g tag differ).Canon := by
  unfold closeTile
  split
  · exact h
  · split <;> exact h

theorem ringDeliver_canon {s : State} {g shadow integer z close y bad bits} (h : s.Canon) :
    IfSome State.Canon (ringDeliver s g shadow integer z close y bad bits) := by
  unfold ringDeliver
  split
  · exact .none
  · split
    · exact .none
    · split
      · exact .none
      · dsimp only
        refine .some ?_
        split
        · exact closeTile_canon h
        · exact h

theorem setPValid_canon {s : State} {wk v} (h : s.Canon) : (setPValid s wk v).Canon := h

theorem matrixStatus_canon {s : State} {w g status bits} (h : s.Canon) : (matrixStatus s w g status bits).Canon := by
  unfold matrixStatus
  split
  · exact h
  · exact vregStatus_canon h

theorem runMatrix_canon {s : State} {wk w g parity op} (h : s.Canon) :
    IfSome State.Canon (runMatrix s wk w g parity op) := by
  unfold runMatrix
  cases op with
  | mma form rows cols badRows badCols c z close ptile status pend =>
    dsimp only
    split
    · exact ringDeliver_canon h
    · cases pend with
      | some id => exact .some (fillDrain_canon (vregStatus_canon h))
      | none => exact .some (setPValid_canon (vregStatus_canon h))
  | msa scales cols badCols c ptile status id => exact .some (setPValid_canon (fillDrain_canon (vregStatus_canon h)))
  | zero t status => exact .some (matrixStatus_canon h)
  | zeroP status => exact .some (setPValid_canon (matrixStatus_canon h))
  | toRegs t status id => exact .some (fillDrain_canon (matrixStatus_canon h))
  | toTile t c ownP status =>
    refine .some ?_
    split
    · exact setPValid_canon (matrixStatus_canon h)
    · exact matrixStatus_canon h
  | ring status =>
    refine .some ?_
    split
    · exact matrixStatus_canon h
    · exact setPValid_canon (matrixStatus_canon h)

theorem execMatrixExecute_canon {s : State} {wk parity} (h : s.Canon) :
    Out.Canon (execMatrixExecute wk parity s) := by
  unfold execMatrixExecute
  split
  · exact .next h
  · split
    · split
      · exact .next h
      · split
        · next he =>
          have ht := of_some he (runMatrix_canon h)
          exact .next ht
        · exact .next h
    · exact .next h

/-! ### Epilogue: what its operations leave of the memories -/

theorem execFork_canon {s : State} {a b} (h : s.Canon) : Out.Canon (execFork a b s) := by
  unfold execFork
  refine issueSplit_canon h (fun c hc => ?_)
  dsimp only
  split
  · exact Cx.trapAt_canon hc
  · split
    · exact Cx.trapAt_canon hc
    · split
      · exact Cx.stall_canon hc
      · exact Cx.releasing_canon hc (fun _ hk => Cx.done_canon hk)

theorem execRdv_canon {s : State} {a} (h : s.Canon) : Out.Canon (execRdv a s) := by
  unfold execRdv
  refine issueSplit_canon h (fun c hc => ?_)
  split
  · exact Cx.trapAt_canon hc
  · split
    · exact Cx.scalarDone_canon hc hc
    · split
      · exact Cx.stall_canon hc
      · exact Cx.scalarDone_canon hc hc

theorem Ex.status_canon {x : Ex} {bits} (h : x.Canon) : (Ex.status x bits).Canon := h

theorem Ex.poisonIf_canon {x : Ex} {b} (h : x.Canon) : (x.poisonIf b).Canon := by
  unfold Ex.poisonIf
  split
  · exact Ex.status_canon h
  · exact h

theorem Ex.putW_canon {x : Ex} {t} (h : x.Canon) : (Ex.putW x t).Canon := h

theorem Ex.withBytes_canon {x : Ex} {addr align n k} (h : x.Canon) (hk : ∀ v0 v1, Out.Canon (k v0 v1)) :
    Out.Canon (x.withBytes addr align n k) := by
  unfold Ex.withBytes
  split
  · exact Ex.stop_canon h
  · split
    · exact Ex.stop_canon h
    · split
      · exact hk _ _
      · exact Ex.stop_canon h

theorem execEPop_canon {s : State} (h : s.Canon) : Out.Canon (execEPop s) := by
  unfold execEPop
  refine issueEngine_canon h (fun x hx => ?_)
  split
  · exact Ex.stop_canon hx
  · split
    · dsimp only
      split
      · exact Ex.stop_canon hx
      · exact Ex.done_canon (Ex.poisonIf_canon hx)
    · split
      · exact Ex.stop_canon hx
      · exact Ex.wait_canon hx
    · exact Ex.wait_canon hx

theorem Ex.scaleW_canon {x : Ex} {first a b} (h : x.Canon) : Out.Canon (x.scaleW first a b) := by
  unfold Ex.scaleW
  dsimp only
  split
  · exact Ex.stop_canon h
  · exact Ex.withBytes_canon h (fun _ _ => Ex.withBytes_canon h (fun _ _ => Ex.done_canon (Ex.poisonIf_canon
      (Ex.status_canon (Ex.putW_canon h)))))

theorem execESa_canon {s : State} {o a b} (h : s.Canon) : Out.Canon (execESa o a b s) := by
  unfold execESa
  refine issueEngine_canon h (fun x hx => ?_)
  dsimp only
  split
  · exact Ex.done_canon (Ex.poisonIf_canon (Ex.putW_canon hx))
  · split
    · exact Ex.stop_canon hx
    · exact Ex.done_canon (Ex.poisonIf_canon (Ex.putW_canon hx))
  · split
    · exact Ex.stop_canon hx
    · exact Ex.scaleW_canon hx
  · split
    · exact Ex.stop_canon hx
    · exact Ex.scaleW_canon hx

theorem execEBias_canon {s : State} {r a} (h : s.Canon) : Out.Canon (execEBias r a s) := by
  unfold execEBias
  refine issueEngine_canon h (fun x hx => ?_)
  dsimp only
  split
  · exact Ex.stop_canon hx
  · exact Ex.withBytes_canon hx (fun _ _ => Ex.done_canon (Ex.poisonIf_canon (Ex.status_canon (Ex.putW_canon hx))))

theorem execEAct_canon {s : State} {f} (h : s.Canon) : Out.Canon (execEAct f s) := by
  unfold execEAct
  refine issueEngine_canon h (fun x hx => ?_)
  dsimp only
  split
  · exact Ex.stop_canon hx
  · exact Ex.done_canon (Ex.poisonIf_canon (Ex.putW_canon hx))

theorem execECvt_canon {s : State} {r t} (h : s.Canon) : Out.Canon (execECvt r t s) := by
  unfold execECvt
  refine issueEngine_canon h (fun x hx => ?_)
  dsimp only
  split
  · exact Ex.stop_canon hx
  · exact Ex.done_canon (Ex.poisonIf_canon (Ex.status_canon (Ex.putW_canon hx)))

theorem execEBnd_canon {s : State} {n} (h : s.Canon) : Out.Canon (execEBnd n s) := by
  unfold execEBnd
  refine issueEngine_canon h (fun x hx => ?_)
  dsimp only
  split
  · exact Ex.stop_canon hx
  · split
    · exact Ex.stop_canon hx
    · exact Ex.done_canon (Ex.poisonIf_canon hx)

theorem storeGlobal_canon {a : StoreRun} {p key h t e} (ha : a.Canon) : (storeGlobal p key h t a e).Canon := by
  unfold storeGlobal
  split
  · exact ha
  · split
    · next he => exact Elem.of_ok he (writeGlobal_canon ha)
    · exact ha

theorem storeWindow_canon {a : StoreRun} {k window h t e} (ha : a.Canon) : (storeWindow k window h t a e).Canon := by
  unfold storeWindow
  dsimp only
  split
  · exact ha
  · split <;> exact ha

theorem addWindow_canon {a : StoreRun} {k h t e} (ha : a.Canon) : (addWindow k h t a e).Canon := by
  unfold addWindow
  dsimp only
  split <;> exact ha

theorem lineObstacle_canon {s p t addr} : IfSome Elem.Canon (lineObstacle s p t addr) := by
  unfold lineObstacle
  dsimp only
  split
  · exact .some .stop
  · split
    · split
      · exact .some .stop
      · exact writeObstacle_canon
    · split
      · exact .some .stop
      · exact writeObstacle_canon
  · exact writeObstacle_canon

theorem addGlobal_canon {a : StoreRun} {p key h t e} (ha : a.Canon) : (addGlobal p key h t a e).Canon := by
  unfold addGlobal
  split
  · next he => exact writePieces_canon (Elem.of_ok he (readGlobal_canon ha))
  · exact ha

theorem addLine_canon {a : StoreRun} {p key h t r} (ha : a.Canon) : (addLine p key h t a r).Canon := by
  unfold addLine
  split
  · exact ha
  · split
    · exact ha
    · exact foldl_keeps (P := StoreRun.Canon) (fun _ _ hk => addGlobal_canon hk) _ ha

theorem Ex.stored_canon {a : StoreRun} {x p units total} (h : a.Canon) : Out.Canon (Ex.stored x p units total a) := by
  unfold Ex.stored
  dsimp only
  split
  · split
    · exact .next (Ex.poisonIf_canon (Ex.status_canon h))
    · exact Ex.done_canon (Ex.poisonIf_canon (Ex.status_canon h))
  · split
    · exact Ex.stopFault_canon (Ex.poisonIf_canon (Ex.status_canon h))
    · exact Ex.stop_canon (Ex.poisonIf_canon (Ex.status_canon h))
  · exact Ex.hold_canon (Ex.poisonIf_canon (Ex.status_canon h))
  · exact Ex.wait_canon (wantPage_canon (Ex.poisonIf_canon (Ex.status_canon h)))
  · exact .fault
  · exact Ex.wait_canon (Ex.poisonIf_canon (Ex.status_canon h))

theorem execESt_canon {s : State} {a b c} (h : s.Canon) : Out.Canon (execESt a b c s) := by
  unfold execESt
  refine issueEngine_canon h (fun x hx => ?_)
  split
  · exact Ex.stop_canon hx
  · dsimp only
    split
    · exact Ex.stop_canon hx
    · split
      · exact Ex.stored_canon (foldl_keeps (P := StoreRun.Canon) (fun _ _ hk => storeWindow_canon hk) _ hx)
      · exact Ex.stored_canon (foldl_keeps (P := StoreRun.Canon) (fun _ _ hk => storeGlobal_canon hk) _ hx)

theorem execEAst_canon {s : State} {a b c} (h : s.Canon) : Out.Canon (execEAst a b c s) := by
  unfold execEAst
  refine issueEngine_canon h (fun x hx => ?_)
  dsimp only
  split
  · exact Ex.stop_canon hx
  · split
    · exact Ex.stop_canon hx
    · split
      · split
        · exact Ex.stop_canon hx
        · split
          · exact Ex.stop_canon hx
          · exact Ex.stored_canon (foldl_keeps (P := StoreRun.Canon) (fun _ _ hk => addWindow_canon hk) _ hx)
      · split
        · exact Ex.stop_canon hx
        · exact Ex.stored_canon (addLine_canon hx)

theorem Ex.withObject_canon {x : Ex} {addr k} (h : x.Canon) (hk : ∀ v0, Out.Canon (k v0)) :
    Out.Canon (x.withObject addr k) := Ex.withBytes_canon h (fun _ _ => hk _)

theorem execEArv_canon {s : State} {a b} (h : s.Canon) : Out.Canon (execEArv a b s) := by
  unfold execEArv
  refine issueEngine_canon h (fun x hx => ?_)
  dsimp only
  refine Ex.withObject_canon hx (fun _ => ?_)
  split
  · exact Ex.wait_canon hx
  · exact Ex.done_canon (Ex.putScalar_canon hx)

theorem execEWait_canon {s : State} {a b c} (h : s.Canon) : Out.Canon (execEWait a b c s) := by
  unfold execEWait
  refine issueEngine_canon h (fun x hx => ?_)
  dsimp only
  refine Ex.withObject_canon hx (fun _ => ?_)
  split
  · exact Ex.stop_canon hx
  · split
    · exact Ex.wait_canon hx
    · exact Ex.done_canon (Ex.putScalar_canon (Ex.putScalar_canon hx))

theorem execEBr_canon {s : State} {a o} (h : s.Canon) : Out.Canon (execEBr a o s) := by
  unfold execEBr
  refine issueEngine_canon h (fun x hx => ?_)
  split
  · exact .next hx
  · exact Ex.done_canon hx

theorem execEEnd_canon {s : State} (h : s.Canon) : Out.Canon (execEEnd s) := by
  unfold execEEnd
  refine issueEngine_canon h (fun x hx => ?_)
  split
  · exact Ex.wait_canon hx
  · dsimp only
    split <;> exact .next hx

/-! ### Near: what its operations leave of the memories -/

theorem walkAhead_canon {s : State} {asid expr a} (h : s.Canon) : (walkAhead s asid expr a).Canon := by
  unfold walkAhead
  split <;> exact h

theorem walkElem_canon {s : State} {x e} (h : s.Canon) : (walkElem s x e).Canon := by
  unfold walkElem
  split
  · exact h
  · exact foldl_keeps (P := State.Canon) (fun _ _ hk => walkAhead_canon hk) _ h

theorem exprElem_canon {s : State} {s0 n x d launch e} (h : s.Canon) : (exprElem s0 s n x d launch e).Canon := by
  unfold exprElem
  dsimp only
  split
  · exact h
  · exact writeLoc_canon (foldl_keeps (P := State.Canon) (fun _ _ hk => countMisaligned_canon hk) _ h)

theorem writeBlock_canon {s : State} {pa bs bad} (h : s.Canon) : (writeBlock s pa bs bad).Canon := writeLoc_canon h

theorem rowBlock_canon {s : State} {s0 n x e} (h : s.Canon) : (rowBlock s0 s n x e).Canon := by
  unfold rowBlock
  split
  · split
    · exact writeBlock_canon h
    · exact h
  · split
    · exact writeBlock_canon h
    · exact h
  · exact h

theorem nearFrom_canon {s : State} {s0 p n x left w e} (h : s.Canon) : (nearFrom s0 p n x left w e s).Canon := by
  induction left generalizing s w e with
  | zero => exact h
  | succ left ih =>
    have hw (t : State) (ht : t.Canon) (b : Prop) [Decidable b] (k : Nat) :
        (if b then walkElem t x k else t).Canon := by
      split
      · exact walkElem_canon ht
      · exact ht
    have h2 := hw _ (hw _ h (w ≤ e) e) (w ≤ e + 1) (e + 1)
    unfold nearFrom
    dsimp only
    split
    · refine ih ?_
      split
      · exact exprElem_canon (s := _) h2
      · exact rowBlock_canon (s := _) h2
    · exact h2

theorem nearAdvance_canon {s : State} {n x limit} (h : s.Canon) : Out.Canon (nearAdvance s n x limit) := by
  unfold nearAdvance
  split
  · exact .next h
  · dsimp only
    split
    · refine .next ?_
      split
      · exact finishCommand_canon (nearFrom_canon h)
      · exact nearFrom_canon h
    · exact .next (nearFrom_canon h)
    · exact .next (wantPage_canon (nearFrom_canon h))
    · exact .fault

theorem execNearCommandComplete_canon {s : State} {n} (h : s.Canon) : Out.Canon (execNearCommandComplete n s) := by
  unfold execNearCommandComplete
  split
  · exact .next h
  · split
    · exact .next h
    · split
      · exact .next (finishCommand_canon h)
      · exact nearAdvance_canon h

theorem execRowTransferBlockCommit_canon {s : State} {n} (h : s.Canon) :
    Out.Canon (execRowTransferBlockCommit n s) := by
  unfold execRowTransferBlockCommit
  split
  · exact .next h
  · split
    · exact nearAdvance_canon h
    · exact nearAdvance_canon h
    · exact .next h

theorem Cx.nearIssue_canon {c : Cx} {k a kind} (h : c.Canon) : Out.Canon (c.nearIssue k a kind) := by
  unfold Cx.nearIssue
  dsimp only
  split
  · split
    · exact Cx.trapAt_canon h
    · exact Cx.scalarDone_canon h (endEmpty_canon (Cx.putNumber_canon h))
  · split
    · exact Cx.trapAt_canon h
    · split
      · exact .fault
      · split
        · exact Cx.stall_canon h
        · exact Cx.scalarDone_canon h (holdPages_canon (Cx.putNumber_canon h))
      · split
        · exact Cx.trapAt_canon h
        · split <;> exact Cx.scalarDone_canon h (Cx.putNumber_canon h)
      · exact Cx.scalarDone_canon h (Cx.putNumber_canon h)

theorem execXatExpr_canon {s : State} {k a b} (h : s.Canon) : Out.Canon (execXatExpr k a b s) := by
  unfold execXatExpr
  refine issueSplit_canon h (fun c hc => ?_)
  refine Cx.releasing_canon hc (fun c3 hc3 => ?_)
  dsimp only
  refine Cx.withObject_canon hc3 (fun _ => ?_)
  split
  · exact Cx.nearIssue_canon hc3
  · exact Cx.trapAt_canon hc3

theorem execXatFill_canon {s : State} {k a b e} (h : s.Canon) : Out.Canon (execXatFill k a b e s) := by
  unfold execXatFill
  refine issueSplit_canon h (fun c hc => ?_)
  refine Cx.releasing_canon hc (fun c2 hc2 => ?_)
  dsimp only
  split
  · exact Cx.trapAt_canon hc2
  · exact Cx.nearIssue_canon hc2

theorem execXatCopy_canon {s : State} {k a b e} (h : s.Canon) : Out.Canon (execXatCopy k a b e s) := by
  unfold execXatCopy
  refine issueSplit_canon h (fun c hc => ?_)
  refine Cx.releasing_canon hc (fun c2 hc2 => ?_)
  dsimp only
  split
  · exact Cx.trapAt_canon hc2
  · exact Cx.nearIssue_canon hc2

theorem Cx.takeStop_canon {c : Cx} {n x addr fromPark} (h : c.Canon) : Out.Canon (c.takeStop n x addr fromPark) := by
  unfold Cx.takeStop
  split
  · exact .next h
  · exact Cx.enterTrap_canon h

theorem execNearProgress_canon {s : State} {n} (h : s.Canon) : Out.Canon (execNearProgress n s) := by
  unfold execNearProgress
  split
  · exact .next h
  · split
    · exact .next h
    · dsimp only
      split
      · exact .next h
      · refine .next ?_
        split
        · exact cancelLaunch_canon h
        · exact h
      · split
        · refine .next ?_
          split
          · exact cancelLaunch_canon h
          · exact h
        · split
          · split
            · next he => exact Cx.takeStop_canon (of_some he (cxOf_canon h))
            · exact .next h
          · split
            · next he => exact Cx.takeStop_canon (of_some he (cxOf_canon h))
            · exact .next h
          · exact .next h

/-! ### Service: what its operations leave of the memories -/

theorem dropUnack_canon {s : State} {wk n order} (h : s.Canon) : (dropUnack s wk n order).Canon := by
  unfold dropUnack
  split <;> exact h

theorem landLanes_canon {s : State} {q vals faults} (h : s.Canon) : (landLanes s q vals faults).Canon := by
  unfold landLanes
  split
  · exact h
  · exact settleWarp_canon (dropUnack_canon h)

theorem holdAgain_canon {s : State} {k p write w first gs} (h : s.Canon) :
    (holdAgain k p write w first gs s).Canon := by
  induction gs generalizing s first with
  | nil => exact h
  | cons g gs ih =>
    unfold holdAgain
    refine ih ?_
    split
    · exact holdAt_canon h
    · exact holdOne_canon h

theorem refuseCommand_canon {s : State} {c cause addr} (h : s.Canon) : (refuseCommand s c cause addr).Canon := by
  unfold refuseCommand
  split
  · exact h
  · split
    · exact finishCommand_canon h
    · split
      · exact h
      · split
        · exact h
        · exact finishCommand_canon h

theorem retryCommand_canon {s : State} {c p} (h : s.Canon) : (retryCommand s c p).Canon := by
  unfold retryCommand
  split
  · exact h
  · split
    · exact h
    · split
      · exact h
      · exact h
      · exact holdPages_canon h
      · exact refuseCommand_canon h

theorem retryHeld_canon {s : State} {k h} (hs : s.Canon) : (retryHeld s k h).Canon := by
  unfold retryHeld
  split
  · split
    · exact hs
    · exact landLanes_canon (holdAgain_canon (foldl_keeps (P := LaneRun.Canon) (fun _ _ hk =>
        replayLane_canon hk) _ hs))
  · exact retryCommand_canon hs
  · exact hs
  · exact hs
  · exact hs
  · exact hs
  · exact hs
  · exact hs
  · exact hs

theorem Cx.deniedFetch_canon {c : Cx} {cause} (h : c.Canon) : Out.Canon (c.deniedFetch cause) := by
  unfold Cx.deniedFetch
  split
  · exact .next h
  · exact Cx.trapBefore_canon h

theorem refuseHeld_canon {s : State} {k h cause} (hs : s.Canon) : (refuseHeld s k h cause).Canon := by
  unfold refuseHeld
  dsimp only
  split
  · exact landLanes_canon hs
  · exact refuseCommand_canon hs
  · split
    · exact hs
    · next he =>
      have ht := of_some he (cxOf_canon hs)
      split
      · next he2 =>
        have ht2 := Out.of_next he2 (Cx.deniedFetch_canon ht)
        exact ht2
      · exact hs
  · exact hs
  · exact hs
  · exact hs
  · exact hs
  · exact hs
  · exact hs

theorem retryAll_canon {s : State} {f} (h : s.Canon) : (retryAll s f).Canon := by
  unfold retryAll
  refine foldl_keeps (P := State.Canon) (fun a b hk => ?_) _ ?_
  · split
    · split
      · exact retryHeld_canon hk
      · exact hk
    · exact hk
  · exact h

theorem refuseAll_canon {s : State} {f cause} (h : s.Canon) : (refuseAll s f cause).Canon := by
  unfold refuseAll
  refine foldl_keeps (P := State.Canon) (fun a b hk => ?_) _ ?_
  · split
    · split
      · exact refuseHeld_canon hk
      · exact hk
    · exact hk
  · exact h

theorem bindFrames_canon {s : State} {asid runs} (h : s.Canon) : (bindFrames s asid runs).Canon := by
  obtain ⟨hm, hh⟩ := canon_iff.mp h
  exact canon_iff.mpr ⟨Mem.wf_filter _ _ hm, hh⟩

theorem claimFrames_canon {s : State} {old} (h : s.Canon) : (claimFrames old s).Canon := by
  unfold claimFrames
  refine foldl_keeps (P := State.Canon) (fun a b hk => ?_) _ ?_
  · dsimp only
    split
    · exact hk
    · exact bindFrames_canon hk
  · exact h

/-- The sixteen entries of a page-table group written one after another. -/
theorem writeEntries_wf {m : Mem} {first e} (h : Mem.wf m = true) :
    Mem.wf ((List.range 16).foldl (fun m j => Mem.writeBytes m (first + 8 * j) (leBytes 8 (e + 4096 * j))) m) = true :=
  foldl_keeps (P := fun m => Mem.wf m = true) (fun _ _ h1 => Mem.wf_writeBytes _ _ _ h1) _ h

theorem writePte_canon {s : State} {asid va pte} (h : s.Canon) : (writePte s asid va pte).Canon := by
  obtain ⟨hm, hh⟩ := canon_iff.mp h
  unfold writePte
  split
  · exact h
  · split
    · exact h
    · split
      · exact h
      · split
        · rw [canon_iff]
          dsimp only
          exact ⟨writeEntries_wf hm, hh⟩
        · exact canon_iff.mpr ⟨Mem.wf_writeBytes _ _ _ hm, hh⟩

theorem execFaultService_canon {s : State} {asid va ok pte} (h : s.Canon) :
    Out.Canon (execFaultService asid va ok pte s) := by
  unfold execFaultService
  dsimp only
  split
  · exact .next h
  · split
    · exact .next (retryAll_canon (claimFrames_canon (writePte_canon h)))
    · exact .next (refuseAll_canon h)

theorem giveEntries_canon {s : State} (h : s.Canon) : (giveEntries s).Canon := by
  unfold giveEntries
  refine foldl_keeps (P := State.Canon) (fun a b hk => ?_) _ ?_
  · split <;> exact hk
  · exact h

theorem admitPages_canon {s : State} (h : s.Canon) : (admitPages s).Canon := giveEntries_canon h

theorem execAtsTranslationCompletion_canon {s : State} {asid va frame r w} (h : s.Canon) :
    Out.Canon (execAtsTranslationCompletion asid va frame r w s) := by
  unfold execAtsTranslationCompletion
  dsimp only
  split
  · exact .next h
  · exact .next (admitPages_canon (retryAll_canon h))

theorem askAgain_canon {s : State} {asid page} (h : s.Canon) : (askAgain s asid page).Canon := by
  unfold askAgain
  refine foldl_keeps (P := State.Canon) (fun a b hk => ?_) _ ?_
  · split
    · exact askHost_canon hk
    · exact hk
  · exact h

theorem execPriPageResponse_canon {s : State} {asid va ok frame r w} (h : s.Canon) :
    Out.Canon (execPriPageResponse asid va ok frame r w s) := by
  unfold execPriPageResponse
  dsimp only
  split
  · exact .next h
  · split
    · exact .next (askAgain_canon (retryAll_canon h))
    · exact .next (askAgain_canon (refuseAll_canon h))

theorem completeInvalidation_canon {s : State} (h : s.Canon) : (completeInvalidation s).Canon := by
  unfold completeInvalidation
  split
  · exact h
  · split <;> exact h

theorem execAtsInvalidateRequest_canon {s : State} {asid va} (h : s.Canon) :
    Out.Canon (execAtsInvalidateRequest asid va s) := by
  unfold execAtsInvalidateRequest
  dsimp only
  split
  · exact .next h
  · exact .next (completeInvalidation_canon h)

theorem execTranslationInvalidate_canon {s : State} {asid lo hi} (h : s.Canon) :
    Out.Canon (execTranslationInvalidate asid lo hi s) := .next (completeInvalidation_canon (retryAll_canon h))

theorem execAsidBinding_canon {s : State} {asid c} (h : s.Canon) : Out.Canon (execAsidBinding asid c s) := by
  have hb : (bindFrames s asid (runsOf s c)).Canon := bindFrames_canon h
  unfold execAsidBinding
  extract_lets known lost
  split
  · exact .next h
  · exact .next (hb.of_memories rfl rfl)

theorem execAsidFreeing_canon {s : State} {asid} (h : s.Canon) : Out.Canon (execAsidFreeing asid s) := .next h

/-! ### Pod: what its operations leave of the memories -/

theorem State.withModule_canon {s : State} {m} (h : s.Canon) : (s.withModule m).Canon := by
  unfold State.withModule
  split <;> exact h

theorem updModule_canon {s : State} {m f} (h : s.Canon) : (updModule s m f).Canon := h

theorem execModuleGrant_canon {s : State} {m page excl} (h : s.Canon) :
    Out.Canon (execModuleGrant m page excl s) := by
  unfold execModuleGrant
  split
  · exact .next h
  · exact .next (updModule_canon h)

theorem foreignWrite_canon {s : State} {m pkg off bs} (h : s.Canon) : (foreignWrite s m pkg off bs).Canon := by
  unfold foreignWrite
  split
  · exact h
  · exact updModule_canon (writeLoc_canon (State.withModule_canon h))

theorem execModulePortBringUp_canon {s : State} {port m ext} (h : s.Canon) :
    Out.Canon (execModulePortBringUp port m ext s) := by
  unfold execModulePortBringUp
  split
  · exact .next (State.withModule_canon h)
  · exact .next h

theorem execRelayForward_canon {s : State} {acc} (h : s.Canon) : Out.Canon (execRelayForward acc s) := by
  unfold execRelayForward
  dsimp only
  split
  · refine .next ?_
    split <;> exact h
  · refine .next ?_
    split
    · exact writeLoc_canon h
    · exact h
  · split
    · exact .next (writeLoc_canon h)
    · exact .next h

theorem execRouteInstall_canon {s : State} {m route} (h : s.Canon) : Out.Canon (execRouteInstall m route s) := by
  unfold execRouteInstall
  dsimp only
  split
  · split
    · exact .next h
    · exact .next (retryAll_canon (State.withModule_canon h))
  · exact .next (retryAll_canon h)

theorem execMqModuleAnswer_canon {s : State} {src} (h : s.Canon) : Out.Canon (execMqModuleAnswer src s) := by
  unfold execMqModuleAnswer
  split
  · refine .next ?_
    split <;> exact h
  · refine .next ?_
    split <;> exact h
  · split
    · exact .next h
    · split
      · exact .next h
      · split
        · exact .next h
        · dsimp only
          refine .next ?_
          split <;> exact h

theorem Cx.holdStalled_canon {c : Cx} {p host addr write} (h : c.Canon) :
    Out.Canon (c.holdStalled p host addr write) := by
  unfold Cx.holdStalled
  dsimp only
  split
  · exact Cx.stall_canon h
  · exact Cx.stall_canon (holdOne_canon h)

theorem Cx.queueInstr_canon {c : Cx} {put a b e} (h : c.Canon) : Out.Canon (c.queueInstr put a b e) := by
  unfold Cx.queueInstr
  split
  · exact Cx.scalarDone_canon h h
  · exact Cx.stall_canon h
  · extract_lets go
    have hgo (c : Cx) (hc : c.Canon) : Out.Canon (go c) := by
      refine Cx.withObject_canon hc (fun _ => ?_)
      dsimp only
      split
      · exact Cx.trapAt_canon hc
      · split
        · exact Cx.trapAt_canon hc
        · exact Cx.trapAt_canon hc
        · exact .fault
        · exact Cx.trapAt_canon hc
        · exact Cx.holdStalled_canon hc
        · exact Cx.trapAt_canon hc
        · exact Cx.trapAt_canon hc
        · split <;> exact Cx.stall_canon hc
    clear_value go
    split
    · exact Cx.releasing_canon h hgo
    · exact hgo c h

theorem execMqPut_canon {s : State} {a b e} (h : s.Canon) : Out.Canon (execMqPut a b e s) :=
  issueSplit_canon h (fun _ hk => Cx.queueInstr_canon hk)

theorem execMqGet_canon {s : State} {a b e} (h : s.Canon) : Out.Canon (execMqGet a b e s) :=
  issueSplit_canon h (fun _ hk => Cx.queueInstr_canon hk)

theorem finishOwn_canon {s : State} {cmd fault} (h : s.Canon) : (finishOwn s cmd fault).Canon := by
  unfold finishOwn
  split
  · exact h
  · split
    · exact h
    · exact finishCommand_canon h

theorem finishAllOwn_canon {s : State} {l fault} (h : s.Canon) : (finishAllOwn s l fault).Canon :=
  foldl_keeps (P := State.Canon) (fun _ _ hk => finishOwn_canon hk) _ h

theorem closeRound_canon {s : State} {m r} (h : s.Canon) : (closeRound s m r).Canon := by
  unfold closeRound
  dsimp only
  split
  · exact updModule_canon h
  · split
    · refine finishAllOwn_canon ?_
      split
      · exact updModule_canon h
      · exact writeLoc_canon (updModule_canon (updModule_canon h))
    · exact finishAllOwn_canon (updModule_canon h)

theorem contribute_canon {s : State} {m off epoch c} (h : s.Canon) : (contribute s m off epoch c).Canon := by
  unfold contribute
  split
  · exact finishOwn_canon h
  · split
    · exact finishOwn_canon h
    · split
      · exact finishOwn_canon h
      · split
        · split
          · exact finishOwn_canon h
          · dsimp only
            split
            · exact closeRound_canon (updModule_canon h)
            · exact updModule_canon h
        · split
          · exact updModule_canon h
          · dsimp only
            split
            · exact closeRound_canon (updModule_canon h)
            · exact updModule_canon h

theorem admitWaiting_canon {s : State} {m} (h : s.Canon) : (admitWaiting m s).Canon := by
  unfold admitWaiting
  split
  · exact h
  · dsimp only
    split
    · exact h
    · split
      · exact h
      · exact contribute_canon (updModule_canon h)

theorem admitAll_canon {s : State} {m} (h : s.Canon) : (admitAll s m).Canon := by
  unfold admitAll
  split
  · exact h
  · exact foldl_keeps (P := State.Canon) (fun _ _ hk => admitWaiting_canon hk) _ h

theorem contributeAll_canon {s : State} {m off epoch c} (h : s.Canon) : (contributeAll s m off epoch c).Canon :=
  admitAll_canon (contribute_canon h)

theorem localBar_canon {s asid a} : IfSome Elem.Canon (localBar s asid a) := by
  unfold localBar
  split
  · exact .none
  · exact .some .stop
  · exact .some .stop
  · exact .some .stop
  · exact .some .replay
  · exact .some .stop
  · exact .some .stop
  · exact .some .hole

theorem readWords_canon {s : State} {p wk src count} (h : s.Canon) : (readWords s p wk src count).Canon := by
  unfold readWords
  dsimp only
  split
  · next he =>
    obtain ⟨e, -, hx⟩ := List.exists_of_findSome?_eq_some he
    exact of_some hx localBar_canon
  · exact readGlobal_canon h

theorem ownContribution_canon {s : State} {n x op obj src count epoch expect} (h : s.Canon) :
    Out.Canon (ownContribution s n x op obj src count epoch expect) := by
  unfold ownContribution
  dsimp only
  split
  · exact .next (finishCommand_canon h)
  · exact .next (finishCommand_canon h)
  · exact .fault
  · exact .next (holdCommand_canon h)
  · split
    · exact .next (finishCommand_canon h)
    · exact .fault
    · exact .next (holdCommand_canon h)
    · exact .next h
    · next he =>
      have ht := Elem.of_ok he (readWords_canon h)
      exact .next (contributeAll_canon ht)
  · exact .next (finishCommand_canon h)

theorem execMredContribution_canon {s : State} {src} (h : s.Canon) : Out.Canon (execMredContribution src s) := by
  unfold execMredContribution
  split
  · split
    · exact .next (contributeAll_canon h)
    · exact .next h
  · split
    · exact .next h
    · split
      · split
        · exact .next h
        · split
          · exact .next (finishCommand_canon h)
          · exact ownContribution_canon h
      · exact .next h

theorem execMred_canon {s : State} {o k a b} (h : s.Canon) : Out.Canon (execMred o k a b s) := by
  unfold execMred
  refine issueSplit_canon h (fun c hc => ?_)
  refine Cx.releasing_canon hc (fun c3 hc3 => ?_)
  dsimp only
  refine Cx.withObject_canon hc3 (fun _ => ?_)
  split
  · exact Cx.trapAt_canon hc3
  · split
    · exact Cx.trapAt_canon hc3
    · exact Cx.scalarDone_canon hc3 (Cx.putNumber_canon (newCommand_canon hc3))

theorem execMrelay_canon {s : State} {k a b e} (h : s.Canon) : Out.Canon (execMrelay k a b e s) := by
  unfold execMrelay
  refine issueSplit_canon h (fun c hc => ?_)
  refine Cx.releasing_canon hc (fun c2 hc2 => ?_)
  dsimp only
  split
  · exact Cx.trapAt_canon hc2
  · split
    · exact Cx.trapAt_canon hc2
    · refine Cx.scalarDone_canon hc2 ?_
      dsimp only [Cx.Canon]
      split
      · exact endEmpty_canon (Cx.putNumber_canon (newCommand_canon hc2))
      · exact Cx.putNumber_canon (newCommand_canon hc2)

theorem dropRoutes_canon {s : State} {f} (h : s.Canon) : (dropRoutes s f).Canon := by
  unfold dropRoutes
  dsimp only
  refine foldl_keeps (P := State.Canon) (fun a b hk => ?_) _ ?_
  · split <;> exact hk
  · exact refuseAll_canon h

theorem breakRounds_canon {s : State} {m f} (h : s.Canon) : (breakRounds s m f).Canon := by
  unfold breakRounds
  split
  · exact h
  · exact foldl_keeps (P := State.Canon) (fun _ _ hk => finishAllOwn_canon hk) _ (updModule_canon h)

theorem execModuleLoss_canon {s : State} {m} (h : s.Canon) : Out.Canon (execModuleLoss m s) := by
  unfold execModuleLoss
  split
  · exact .next h
  · have hm : (s.withModule m).Canon := State.withModule_canon h
    extract_lets s0 s1 waiting s2 lost s3 s4
    have h1 : s1.Canon := breakRounds_canon (dropRoutes_canon hm)
    have h2 : s2.Canon := foldl_keeps (P := State.Canon) (fun _ _ ht => finishOwn_canon ht) _ h1
    have h4 : s4.Canon := foldl_keeps (P := State.Canon) (fun t q (ht : t.Canon) => by
      split <;> exact ht) _ (updModule_canon h2)
    exact .next (retryAll_canon h4)

theorem execPackageLoss_canon {s : State} {p} (h : s.Canon) : Out.Canon (execPackageLoss p s) := by
  unfold execPackageLoss
  split
  · exact .next h
  · exact .next (retryAll_canon (foldl_keeps (P := State.Canon) (fun _ _ hk => admitAll_canon
      (breakRounds_canon hk)) _ (dropRoutes_canon h)))

/-! ### Network: what its operations leave of the memories -/

theorem updConn_canon {s : State} {c f} (h : s.Canon) : (updConn s c f).Canon := h

theorem execConnectionBinding_canon {s : State} {c b} (h : s.Canon) : Out.Canon (execConnectionBinding c b s) := by
  unfold execConnectionBinding
  dsimp only
  split
  · split <;> exact .next h
  · split <;> exact .next h

theorem sendBefore_canon {s : State} {p x conn addr k f} (h : s.Canon) : (sendBefore s p x conn addr k f).Canon := by
  unfold sendBefore
  split
  · exact h
  · split
    · next he => exact updConn_canon (Elem.of_ok he (readGlobal_canon h))
    · exact h

theorem stopPut_canon {s : State} {n x cause a} (h : s.Canon) : (stopPut s n x cause a).Canon := by
  unfold stopPut
  split
  · exact finishCommand_canon (sendBefore_canon h)
  · exact h

theorem sendMessage_canon {s : State} {n} (h : s.Canon) : Out.Canon (sendMessage n s) := by
  unfold sendMessage
  split
  · exact .next h
  · split
    · exact .next h
    · split
      · exact .next (finishCommand_canon h)
      · split
        · exact .next (stopPut_canon h)
        · extract_lets send
          have hsend (t : State) (conn : Nat) (f : Conn → List Packet) (ht : t.Canon) :
              Out.Canon (send t conn f) := by
            dsimp only [send]
            split
            · exact .next (finishCommand_canon ht)
            · split
              · exact .next (finishCommand_canon ht)
              · exact .next (updConn_canon ht)
          clear_value send
          split
          · split
            · exact .next (stopPut_canon h)
            · exact .fault
            · exact .next (holdCommand_canon h)
            · exact .next h
            · next he => exact hsend _ _ _ (Elem.of_ok he (readGlobal_canon h))
          · exact hsend _ _ _ h
          · exact hsend _ _ _ h
          · exact .next h

theorem Cx.netIssue_canon {c : Cx} {k a b signal kind empty} (h : c.Canon) :
    Out.Canon (c.netIssue k a b signal kind empty) := by
  unfold Cx.netIssue
  dsimp only
  refine Cx.releasing_canon h (fun c2 hc2 => ?_)
  refine Cx.withObject_canon hc2 (fun _ => ?_)
  split
  · exact Cx.trapAt_canon hc2
  · split
    · exact Cx.trapAt_canon hc2
    · split
      · exact Cx.trapAt_canon hc2
      · refine Cx.scalarDone_canon hc2 ?_
        split
        · exact updConn_canon (endEmpty_canon (Cx.putNumber_canon (newCommand_canon (updConn_canon hc2))))
        · exact Cx.putNumber_canon (newCommand_canon (updConn_canon hc2))

theorem execNput_canon {s : State} {k a b} (h : s.Canon) : Out.Canon (execNput k a b s) :=
  issueSplit_canon h (fun _ hk => Cx.netIssue_canon hk)

theorem execNget_canon {s : State} {k a b} (h : s.Canon) : Out.Canon (execNget k a b s) :=
  issueSplit_canon h (fun _ hk => Cx.netIssue_canon hk)

theorem execNsig_canon {s : State} {k a b} (h : s.Canon) : Out.Canon (execNsig k a b s) :=
  issueSplit_canon h (fun _ hk => Cx.netIssue_canon hk)

theorem failConn_canon {s : State} {c} (h : s.Canon) : (failConn s c).Canon := by
  unfold failConn
  dsimp only
  refine foldl_keeps (P := State.Canon) (fun a b hk => ?_) _ ?_
  · split
    · exact finishOwn_canon hk
    · exact hk
  · exact updConn_canon h

theorem execRetransmitTimeout_canon {s : State} {c} (h : s.Canon) : Out.Canon (execRetransmitTimeout c s) := by
  unfold execRetransmitTimeout
  split
  · exact .next h
  · dsimp only
    split
    · exact .next h
    · split
      · exact .next (failConn_canon h)
      · exact .next (updConn_canon h)

theorem settleSent_canon {s : State} {conn n} (h : s.Canon) : (settleSent s conn n).Canon := by
  unfold settleSent
  split
  · split
    · exact h
    · split
      · exact h
      · exact finishCommand_canon h
  · exact h

theorem execReltexAckReceive_canon {s : State} {a} (h : s.Canon) : Out.Canon (execReltexAckReceive a s) := by
  unfold execReltexAckReceive
  extract_lets n s1
  have h1 : s1.Canon := by
    dsimp only [s1]
    split
    · exact updConn_canon h
    · exact h
  clear_value s1
  split
  · exact .next h
  · dsimp only
    split
    · refine .next ?_
      split
      · exact finishOwn_canon h1
      · exact h1
    · split
      · exact .next (finishOwn_canon (updConn_canon h1))
      · refine .next ?_
        split
        · exact settleSent_canon (updConn_canon h1)
        · exact updConn_canon h1

theorem placeBytes_canon {s : State} {p a bs} (h : s.Canon) : (placeBytes s p a bs).Canon := by
  unfold placeBytes
  dsimp only
  split
  · next he => exact of_some he writeObstacle_canon
  · exact .ok (foldl_keeps (P := State.Canon) (fun _ _ hk => writeWhole_canon hk) _ h)

theorem takePacket_canon {s : State} {p refused} (h : s.Canon) : (takePacket s p refused).Canon := h

theorem askFor_canon {s : State} {c p host a write} (h : s.Canon) : (askFor s c p host a write).Canon := by
  unfold askFor
  dsimp only
  split
  · exact h
  · exact holdOne_canon h

theorem readWindow_canon {s : State} {x p w} (h : s.Canon) : (readWindow s x p w).Canon := readGlobal_canon h

theorem serveGet_canon {s : State} {c x p} (h : s.Canon) : (serveGet s c x p).1.Canon := by
  unfold serveGet
  split
  · exact updConn_canon h
  · split
    · next he => exact updConn_canon (Elem.of_ok he (readWindow_canon h))
    · exact askFor_canon h
    · exact updConn_canon h

theorem settleNext_canon {s : State} {c} (h : s.Canon) : (settleNext c s).Canon := by
  unfold settleNext
  split
  · exact h
  · dsimp only
    split
    · exact updConn_canon h
    · split
      · exact h
      · split
        · next he => exact of_fst he (serveGet_canon h)
        · next he => exact updConn_canon (of_fst he (serveGet_canon h))

theorem settleMessages_canon {s : State} {c} (h : s.Canon) : (settleMessages s c).Canon := by
  unfold settleMessages
  split
  · exact h
  · exact foldl_keeps (P := State.Canon) (fun _ _ hk => settleNext_canon hk) _ h

theorem receiveWrite_canon {s : State} {x p w} (h : s.Canon) : Out.Canon (receiveWrite s x p w) := by
  unfold receiveWrite
  dsimp only
  split
  · split
    · next he =>
      exact .next (settleMessages_canon (takePacket_canon (updConn_canon (Access.of_ok he (accessLane_canon h)))))
    · exact .next (askFor_canon h)
    · exact .next (takePacket_canon h)
    · exact .next (takePacket_canon h)
    · exact .fault
  · split
    · next he =>
      exact .next (settleMessages_canon (takePacket_canon (updConn_canon (Elem.of_ok he (placeBytes_canon h)))))
    · exact .next (askFor_canon h)
    · exact .next (takePacket_canon h)
    · exact .next (takePacket_canon h)
    · exact .fault

theorem refuseGet_canon {s : State} {p} (h : s.Canon) : (refuseGet s p).Canon :=
  settleMessages_canon (takePacket_canon (updConn_canon h))

theorem receiveGet_canon {s : State} {x p w} (h : s.Canon) : Out.Canon (receiveGet s x p w) := by
  unfold receiveGet
  cases readWindow s x p w with
  | replay host a write => exact .next (askFor_canon h)
  | hole => exact .fault
  | ok t bs bad => exact .next (settleMessages_canon (takePacket_canon (updConn_canon h)))
  | stop cause a => exact .next (refuseGet_canon h)
  | page k => exact .next (refuseGet_canon h)

theorem firstBar_canon {s : State} {p a n} : IfSome (fun r => r.1.Canon) (firstBar s p a n) := by
  unfold firstBar
  dsimp only
  cases he : List.findSome? _ _ with
  | none => exact .none
  | some r =>
    obtain ⟨o, -, hx⟩ := List.exists_of_findSome?_eq_some he
    split at hx
    · cases hx
    · obtain ⟨x, hw, rfl⟩ := Option.map_eq_some_iff.mp hx
      exact .some (of_some hw writeObstacle_canon)

theorem placeResponse_canon {s : State} {p n y a len stop} (h : s.Canon) :
    Out.Canon (placeResponse s p n y a len stop) := by
  unfold placeResponse
  dsimp only
  split
  · next he =>
    have ht := Elem.of_ok he (placeBytes_canon h)
    refine .next ?_
    split
    · split
      · exact ht
      · exact finishCommand_canon ht
    · split
      · exact ht
      · exact finishCommand_canon ht
  · refine .next ?_
    split
    · exact h
    · exact holdCommand_canon h
  · exact .next (finishCommand_canon h)
  · exact .next (wantPage_canon h)
  · exact .fault

theorem receiveResponse_canon {s : State} {p} (h : s.Canon) : Out.Canon (receiveResponse s p) := by
  unfold receiveResponse
  split
  · exact .next (takePacket_canon h)
  · split
    · exact .next (takePacket_canon h)
    · dsimp only
      split
      · exact placeResponse_canon h
      · split
        · exact placeResponse_canon h
        · exact placeResponse_canon h
        · refine .next ?_
          split
          · exact h
          · exact holdCommand_canon h
        · exact .next (wantPage_canon h)
        · exact .fault
        · exact .next h

theorem receiveNew_canon {s : State} {x p} (h : s.Canon) : Out.Canon (receiveNew s x p) := by
  unfold receiveNew
  split
  · exact receiveResponse_canon h
  · exact .next (refuseGet_canon h)
  · exact receiveGet_canon h
  · exact .next h
  · exact .next (takePacket_canon h)
  · exact receiveWrite_canon h
  · exact .next (takePacket_canon h)
  · exact receiveWrite_canon h

theorem execReltexPacketReceive_canon {s : State} {p} (h : s.Canon) : Out.Canon (execReltexPacketReceive p s) := by
  unfold execReltexPacketReceive
  split
  · exact .next h
  · dsimp only
    split
    · exact execReltexAckReceive_canon h
    · split
      · exact .next (updConn_canon h)
      · split
        · exact .next h
        · exact receiveNew_canon h

theorem execNwait_canon {s : State} {a b} (h : s.Canon) : Out.Canon (execNwait a b s) := by
  unfold execNwait
  refine issueSplit_canon h (fun c hc => ?_)
  split
  · exact Cx.trapAt_canon hc
  · split
    · exact Cx.done_canon hc
    · split
      · exact Cx.trapAt_canon hc
      · exact Cx.stall_canon hc

theorem execNwaitRd_canon {s : State} {a b} (h : s.Canon) : Out.Canon (execNwaitRd a b s) := by
  unfold execNwaitRd
  refine issueSplit_canon h (fun c hc => ?_)
  split
  · exact Cx.trapAt_canon hc
  · exact Cx.scalarDone_canon hc hc

/-! ### Place: what its operations leave of the memories -/

theorem grantOne_canon {s : State} {n} (h : s.Canon) : (grantOne s n).Canon := by
  unfold grantOne
  split
  · exact h
  · split <;> exact h

theorem grantRequests_canon {s : State} (h : s.Canon) : (grantRequests s).Canon :=
  foldl_keeps (P := State.Canon) (fun _ _ hk => grantOne_canon hk) _ h

theorem execRacq_canon {s : State} (h : s.Canon) : Out.Canon (execRacq s) := by
  unfold execRacq
  refine issueSplit_canon h (fun c hc => ?_)
  split
  · exact Cx.done_canon hc
  · split
    · exact Cx.done_canon hc
    · dsimp only
      split
      · split
        · exact Cx.done_canon (grantRequests_canon hc)
        · exact Cx.stall_canon (grantRequests_canon hc)
      · split
        · exact Cx.done_canon (grantRequests_canon hc)
        · exact Cx.stall_canon (grantRequests_canon hc)

/-! ### Queue: what its operations leave of the memories -/

theorem putPhys_canon {s : State} {pa bs} (h : s.Canon) : (putPhys s pa bs).Canon := writeLoc_canon h

theorem putResult_canon {s : State} {q index code cause} (h : s.Canon) : (putResult s q index code cause).Canon :=
  putPhys_canon h

theorem execLaunchQueueBinding_canon {s : State} {q b} (h : s.Canon) : Out.Canon (execLaunchQueueBinding q b s) := by
  unfold execLaunchQueueBinding
  extract_lets busy s1 x
  have h1 : s1.Canon := putPhys_canon h
  clear_value s1
  split
  · exact .next h
  · exact .next h1

theorem execHostDbell_canon {s : State} {v} (h : s.Canon) : Out.Canon (execHostDbell v s) := by
  unfold execHostDbell
  dsimp only
  refine .next ?_
  split
  · exact h
  · split
    · split <;> exact h
    · exact h

theorem beginWaitOf_canon {t : State} {s q} (h : t.Canon) : (beginWaitOf s q t).Canon := by
  unfold beginWaitOf
  split <;> exact h

theorem beginWait_canon {t : State} {s l} (h : t.Canon) : (beginWait s l t).Canon := by
  unfold beginWait
  split
  · exact h
  · exact beginWaitOf_canon h

theorem beginWaits_canon {t : State} {s} (h : t.Canon) : (beginWaits s t).Canon :=
  foldl_keeps (P := State.Canon) (fun _ _ hk => beginWaitOf_canon hk) _ h

theorem addLaunch_canon {s : State} {l} (h : s.Canon) : (addLaunch s l).Canon := beginWait_canon h

theorem addEnded_canon {s : State} {origin asid level r refusal cancelled} (h : s.Canon) :
    (addEnded s origin asid level r refusal cancelled).Canon := addLaunch_canon h

theorem lookAt_canon {s : State} {asid a} (h : s.Canon) : (lookAt s asid a).Canon := by
  unfold lookAt
  split
  · exact beforeAccess_canon h
  · exact h

theorem look_canon {s : State} {asid a n} (h : s.Canon) : (look s asid a n).Canon := by
  unfold look
  dsimp only
  split
  · exact lookAt_canon h
  · exact lookAt_canon (lookAt_canon h)

theorem enqueue_canon {s : State} {q x b d} (h : s.Canon) : (enqueue s q x b d).Canon :=
  putPhys_canon (putPhys_canon h)

theorem execLaunch_canon {s : State} {a b e} (h : s.Canon) : Out.Canon (execLaunch a b e s) := by
  unfold execLaunch
  refine issueSplit_canon h (fun c hc => ?_)
  refine Cx.releasing_canon hc (fun c2 hc2 => ?_)
  extract_lets addr q p status
  have hstatus (x : Cx) (v : Nat) (hx : x.Canon) : Out.Canon (status x v) := Cx.scalarDone_canon hx hx
  clear_value status
  split
  · exact Cx.trapAt_canon hc2
  · split
    · exact hstatus _ _ hc2
    · split
      · exact hstatus _ _ hc2
      · split
        · exact hstatus _ _ hc2
        · split
          · exact Cx.trapAt_canon hc2
          · exact .fault
          · exact Cx.stall_canon hc2
          · exact Cx.holdStalled_canon hc2
          · next he =>
            have ht := Elem.of_ok he (readGlobal_canon hc2)
            dsimp only
            split
            · exact Cx.trapAt_canon ht
            · split
              · refine hstatus _ _ ?_
                split
                · exact enqueue_canon ht
                · exact ht
              · split
                · exact .fault
                · exact Cx.holdStalled_canon (look_canon ht)
                · exact hstatus _ _ (look_canon ht)
                · split
                  · exact hstatus _ _ (look_canon ht)
                  · exact hstatus _ _ (enqueue_canon (look_canon ht))

theorem advanceHead_canon {s : State} {q} (h : s.Canon) : (advanceHead s q).Canon := by
  unfold advanceHead
  split
  · exact h
  · refine foldl_keeps (P := State.Canon) (fun a b hk => ?_) _ ?_
    · split
      · exact hk
      · dsimp only
        split
        · exact putPhys_canon hk
        · exact hk
    · exact h

theorem closeLaunch_canon {s : State} {n l fault} (h : s.Canon) : (closeLaunch s n l fault).Canon := by
  unfold closeLaunch
  dsimp only
  split
  · refine advanceHead_canon ?_
    unfold updQueue
    split <;> exact h
  · unfold nodeEnded
    split <;> exact h

theorem execGridRetire_canon {s : State} {n} (h : s.Canon) : Out.Canon (execGridRetire n s) := by
  unfold execGridRetire
  split
  · exact .next h
  · split
    · exact .next h
    · extract_lets s1 p
      have h1 : s1.Canon := by
        dsimp only [s1]
        split
        · split
          · exact putResult_canon h
          · exact h
        · exact h
      clear_value s1
      split
      · exact .next (closeLaunch_canon h1)
      · split
        · exact .next (closeLaunch_canon h1)
        · split
          · exact .next h
          · split
            · next he => exact .next (closeLaunch_canon (Elem.of_ok he (writeGlobal_canon h1)))
            · exact .next (closeLaunch_canon h1)
            · exact .fault
            · exact .next h
            · split
              · exact .next h
              · exact .next (holdOne_canon h)

theorem cancelGraph_canon {s : State} {g} (h : s.Canon) : (cancelGraph s g).Canon := by
  unfold cancelGraph
  split
  · exact h
  · dsimp only
    refine foldl_keeps (P := State.Canon) (fun a b hk => ?_) _ ?_
    · split
      · split
        · exact cancelLaunch_canon hk
        · exact hk
      · exact hk
    · exact h

theorem execCancelRecord_canon {s : State} {q slot} (h : s.Canon) : Out.Canon (execCancelRecord q slot s) := by
  unfold execCancelRecord
  split
  · exact .next h
  · dsimp only
    split
    · exact .next h
    · split
      · exact .next h
      · refine .next ?_
        refine foldl_keeps (P := State.Canon) (fun a b hk => ?_) _ ?_
        · exact cancelGraph_canon hk
        · refine foldl_keeps (P := State.Canon) (fun a b hk2 => ?_) _ ?_
          · split
            · exact hk2
            · exact cancelLaunch_canon hk2
          · exact h

/-! ### Nodes: what its operations leave of the memories -/

theorem readNode_canon {s : State} {asid b} (h : s.Canon) : (readNode s asid b).1.Canon := by
  unfold readNode
  dsimp only
  split
  · exact h
  · split
    · exact h
    · exact look_canon h

theorem readNodes_canon {s : State} {asid addr left n} (h : s.Canon) : (readNodes asid addr left n s).1.Canon := by
  induction left generalizing s n with
  | zero => exact h
  | succ left ih =>
    have hl := look_canon (asid := asid) (a := addr + BitVec.ofNat 64 (64 + 64 * n)) (n := 64) h
    unfold readNodes
    dsimp only
    split
    · exact hl
    · exact hl
    · exact hl
    · split
      · next he =>
        have ht := of_fst he (readNode_canon hl)
        split
        · next he2 => exact of_fst he2 (ih ht)
        · exact ih ht
      · exact readNode_canon hl

theorem readGraph_canon {s : State} {asid addr} (h : s.Canon) : (readGraph s asid addr).1.Canon := by
  unfold readGraph
  dsimp only
  split
  · exact look_canon h
  · exact look_canon h
  · exact look_canon h
  · split
    · exact look_canon h
    · split
      · next he => exact of_fst he (readNodes_canon (look_canon h))
      · exact readNodes_canon (look_canon h)

theorem holdGraph_canon {s : State} {g asid host addr write} (h : s.Canon) :
    Out.Canon (holdGraph s g asid host addr write) := by
  unfold holdGraph
  split
  · exact .next h
  · exact .next (holdOne_canon h)

theorem startNode_canon {s : State} {g n x level} (h : s.Canon) : Out.Canon (startNode s g n x level) := by
  unfold startNode
  dsimp only
  split
  · exact .next (addEnded_canon h)
  · split
    · exact .next (addEnded_canon (look_canon h))
    · exact .fault
    · exact holdGraph_canon (look_canon h)
    · split
      · exact .next (addEnded_canon (look_canon h))
      · split
        · exact .next (addEnded_canon (look_canon h))
        · split
          · exact .next (addEnded_canon (look_canon (look_canon h)))
          · exact .fault
          · exact holdGraph_canon (look_canon (look_canon h))
          · split
            · exact .next (addEnded_canon (look_canon (look_canon h)))
            · split
              · exact .next (addEnded_canon (look_canon (look_canon h)))
              · exact .next (addLaunch_canon (look_canon (look_canon h)))

theorem startCopy_canon {s : State} {g n x} (h : s.Canon) : Out.Canon (startCopy s g n x) := by
  unfold startCopy
  dsimp only
  split
  · exact .next (cancelGraph_canon (look_canon h))
  · exact .fault
  · exact holdGraph_canon (look_canon h)
  · split <;> exact .next (look_canon h)

theorem withWord_canon {s : State} {g n x k} (h : s.Canon) (hk : ∀ s0 v1, s0.Canon → Out.Canon (k s0 v1)) :
    Out.Canon (withWord s g n x k) := by
  unfold withWord
  dsimp only
  split
  · exact hk _ _ (look_canon h)
  · exact .next (cancelGraph_canon (look_canon h))
  · exact .fault
  · exact holdGraph_canon (look_canon h)

theorem signalNode_canon {s : State} {g n x} (h : s.Canon) : Out.Canon (signalNode s g n x) := by
  unfold signalNode
  dsimp only
  split
  · next he =>
    have ht := Elem.of_ok he (writeGlobal_canon h)
    exact .next ht
  · exact .next (cancelGraph_canon h)
  · exact .next h
  · exact .fault
  · exact holdGraph_canon h

theorem runNode_canon {s : State} {g n x level} (h : s.Canon) : Out.Canon (runNode s g n x level) := by
  unfold runNode
  split
  · exact startNode_canon h
  · exact startCopy_canon h
  · exact withWord_canon h (fun _ _ hk => .next hk)
  · exact withWord_canon h (fun _ _ hk => .next hk)
  · exact .next h
  · exact signalNode_canon h

theorem graphStep_canon {s : State} {g} (h : s.Canon) : Out.Canon (graphStep s g) := by
  unfold graphStep
  split
  · exact .next h
  · dsimp only
    split
    · exact .next (cancelGraph_canon h)
    · split
      · exact .next h
      · split
        · exact .next (cancelGraph_canon h)
        · split
          · exact .next (addEnded_canon h)
          · split
            · split
              · exact .next h
              · exact runNode_canon h
            · exact .next h
            · exact .next h

theorem execGraphWaitSatisfied_canon {s : State} {g n} (h : s.Canon) : Out.Canon (execGraphWaitSatisfied g n s) := by
  unfold execGraphWaitSatisfied
  split
  · exact .next h
  · dsimp only
    split
    · exact .next h
    · refine withWord_canon h (fun c _ hc => ?_)
      refine .next ?_
      split <;> exact hc

/-! ### Sched: what its operations leave of the memories -/

theorem markStarted_canon {s : State} {q x} (h : s.Canon) : (markStarted s q x).Canon := putResult_canon h

theorem execLaunchRecordStart_canon {s : State} {q} (h : s.Canon) : Out.Canon (execLaunchRecordStart q s) := by
  unfold execLaunchRecordStart
  split
  · exact .next h
  · next x hx =>
    extract_lets b r origin refuse hold start
    have hrefuse (t : State) (cause : Nat) (ht : t.Canon) : Out.Canon (refuse t cause) := .next (addEnded_canon ht)
    have hstart (t : State) (d : List Byte) (ht : t.Canon) : Out.Canon (start t d) :=
      .next (addLaunch_canon (markStarted_canon ht))
    have hhold (t : State) (host : Bool) (a : DWord) (ht : t.Canon) : Out.Canon (hold t host a) := by
      dsimp only [hold]
      split
      · exact .next ht
      · exact .next (holdOne_canon ht)
    clear_value refuse hold start
    split
    · exact .next h
    · split
      · exact .next (addEnded_canon h)
      · split
        · exact .next h
        · split
          · exact hrefuse _ _ h
          · split
            · split
              next seen found he =>
              have hs := of_fst he (readGraph_canon h)
              cases found with
              | refused => exact hrefuse _ _ hs
              | hole => exact .fault
              | replay host a => exact hhold _ _ _ hs
              | ok g => exact .next (markStarted_canon hs)
            · split
              · exact hstart _ _ h
              · have hs := look_canon (asid := x.asid) (a := r.target) (n := 64) h
                split
                · exact hrefuse _ _ hs
                · exact .fault
                · exact hhold _ _ _ hs
                · split
                  · exact hrefuse _ _ hs
                  · exact hstart _ _ hs

theorem addWarps_canon {s : State} {g core lanes entry quarters} (h : s.Canon) :
    (addWarps s g core lanes entry quarters).Canon := by
  unfold addWarps
  refine foldl_keeps (P := State.Canon) (fun a b hk => ?_) _ ?_
  · exact hk
  · exact h

theorem addGroup_canon {s : State} {n k p} (h : s.Canon) : (addGroup n k s p).Canon := addWarps_canon h

theorem admitOne_canon {s : State} {lk x} (h : s.Canon) : (admitOne lk s x).Canon := by
  unfold admitOne
  split
  · exact h
  · exact foldl_keeps (P := State.Canon) (fun _ _ hk => addGroup_canon hk) _ h

theorem resumeOne_canon {s : State} {k x} (h : s.Canon) : (resumeOne k s x).Canon := by
  unfold resumeOne
  split
  · exact h
  · refine State.Canon.of_memories (s := List.foldl _ s _) ?_ rfl rfl
    refine foldl_keeps (P := State.Canon) (fun t p ht => ?_) _ h
    dsimp only
    split
    · exact ht
    · exact ht

theorem resumeGrid_canon {s : State} {n ks} (h : s.Canon) : IfSome State.Canon (resumeGrid n ks s) := by
  induction ks generalizing s with
  | nil => exact .some h
  | cons k ks ih =>
    unfold resumeGrid
    split
    · exact .none
    · split
      · exact .none
      · exact ih (resumeOne_canon h)

theorem placeCandidate_canon {s : State} {c plan} (h : s.Canon) : IfSome State.Canon (placeCandidate s c plan) := by
  unfold placeCandidate
  split
  · split
    · exact .none
    · split
      · exact .none
      · split
        · unfold Option.map
          split
          · exact .some (foldl_keeps (P := State.Canon) (fun _ _ hk => admitOne_canon hk) _ h)
          · exact .none
        · exact .some (admitOne_canon h)
  · split
    · exact .none
    · split
      · exact .none
      · split
        · exact .none
        · dsimp only
          split
          · split
            · exact resumeGrid_canon (resumeOne_canon h)
            · exact .none
          · exact .some (resumeOne_canon h)

theorem placeFirst_canon {s : State} {plan cs} (h : s.Canon) : IfSome State.Canon (placeFirst s plan cs) := by
  induction cs with
  | nil => exact .none
  | cons q cs ih =>
    unfold placeFirst
    split
    · next he =>
      have ht := of_some he (placeCandidate_canon h)
      exact .some ht
    · split
      · exact .none
      · exact ih

theorem execTimeSliceExpiry_canon {s : State} {q} (h : s.Canon) : Out.Canon (execTimeSliceExpiry q s) := by
  unfold execTimeSliceExpiry
  split
  · exact .next h
  · split
    · exact .next h
    · split
      · exact .next h
      · dsimp only
        refine .next ?_
        split
        · exact requestPreempt_canon h
        · exact h

theorem execPreemptionSaveComplete_canon {s : State} {k} (h : s.Canon) :
    Out.Canon (execPreemptionSaveComplete k s) := by
  unfold execPreemptionSaveComplete
  split
  · exact .next h
  · split
    · exact .next h
    · exact .next (grantRequests_canon (beginWait_canon h))

theorem closeSlots_canon {s : State} {k w} (h : s.Canon) : (closeSlots s k w).Canon := by
  unfold closeSlots
  dsimp only
  refine foldl_keeps (P := State.Canon) (fun a b hk => ?_) _ ?_
  · exact hk
  · refine foldl_keeps (P := State.Canon) (fun a b hk2 => ?_) _ ?_
    · exact hk2
    · exact h

theorem lastRetired_canon {s : State} {k} (h : s.Canon) : (lastRetired s k).Canon := by
  unfold lastRetired
  split <;> exact h

theorem execWarpRetire_canon {s : State} {wk} (h : s.Canon) : Out.Canon (execWarpRetire wk s) := by
  unfold execWarpRetire
  split
  · exact .next h
  · split
    · exact .next h
    · split
      · exact .next h
      · exact .next (lastRetired_canon (testBarriers_canon (closeSlots_canon h)))

theorem execSkeinRetire_canon {s : State} {k} (h : s.Canon) : Out.Canon (execSkeinRetire k s) := by
  unfold execSkeinRetire
  split
  · exact .next h
  · split
    · exact .next h
    · exact .next (grantRequests_canon h)

theorem abortEngine_canon {s : State} {g} (h : s.Canon) : Out.Canon (abortEngine g s) := by
  unfold abortEngine
  split
  · exact .next h
  · split
    · exact .next h
    · dsimp only
      refine .next ?_
      split
      · split
        · split <;> exact h
        · split <;> exact h
      · exact h

/-! ### Select: what its operations leave of the memories -/

theorem fetchWord_canon {s : State} {p a} (h : s.Canon) : (fetchWord s p a).Canon := by
  unfold fetchWord
  split
  · exact .fault
  · exact .fault
  · exact .hole
  · exact .replay
  · split
    · exact .fault
    · exact .ok (beforeAccess_canon h)

theorem fetchRun_canon {s : State} {p n pc} (h : s.Canon) : (fetchRun p n s pc).Canon := by
  induction n generalizing s pc with
  | zero => exact .ok h
  | succ n ih =>
    unfold fetchRun
    split
    · next he =>
      have ht := Fetch.of_ok he (fetchWord_canon h)
      split
      · exact .ok ht
      · split
        · next he2 => exact .ok (Fetch.of_ok he2 (ih ht))
        · exact ih ht
    · exact fetchWord_canon h

theorem execRunFetch_canon {s : State} {wk e} (h : s.Canon) : Out.Canon (execRunFetch wk e s) := by
  unfold execRunFetch
  split
  · exact .next h
  · next he =>
    have ht := of_some he (cxOf_canon h)
    split
    · exact .next h
    · split
      · exact Cx.deniedFetch_canon ht
      · split
        · exact .next ht
        · dsimp only
          split
          · next he2 =>
            have ht2 := Fetch.of_ok he2 (fetchRun_canon h)
            exact .next (Cx.reread_canon ht2)
          · split
            · exact .next ht
            · exact .next (holdOne_canon ht)
          · exact Cx.trapBefore_canon ht
          · exact .fault

theorem runSkein_canon {s : State} {w} (h : s.Canon) : (runSkein s w).Canon := by
  unfold runSkein
  split <;> exact h

theorem execIssueSelector_canon {s : State} {q} (h : s.Canon) : Out.Canon (execIssueSelector q s) := by
  unfold execIssueSelector
  dsimp only
  split
  · exact .next h
  · split
    · exact .next h
    · next he =>
      have ht := of_some he (cxOf_canon h)
      exact .next (runSkein_canon ht)

/-! ### Reliability: what its operations leave of the memories -/

theorem updPlat_canon {s : State} {f} (h : s.Canon) : (updPlat s f).Canon := h

theorem execHostEvent_canon {s : State} {v} (h : s.Canon) : Out.Canon (execHostEvent v s) := by
  unfold execHostEvent
  refine .next ?_
  split
  · exact updPlat_canon h
  · exact h

theorem restorePage_canon {s : State} {page c} (h : s.Canon) : (restorePage s page c).Canon := by
  obtain ⟨hm, hh⟩ := canon_iff.mp h
  have hf := foldl_keeps (P := fun m => Mem.wf m = true) (f := fun m x => Mem.write m (page * 65536 + x.1) x.2)
    (fun _ _ h1 => Mem.wf_write _ _ _ h1) c.bytes (Mem.wf_filter _ (fun x => x.1 / 65536 != page) hm)
  exact canon_iff.mpr ⟨hf, hh⟩

theorem execSnapshotPageCopy_canon {s : State} {l page} (h : s.Canon) :
    Out.Canon (execSnapshotPageCopy l page s) := by
  unfold execSnapshotPageCopy
  split
  · exact .next h
  · split <;> exact .next h

theorem execSnapshotPoolDecision_canon {s : State} {l grow} (h : s.Canon) :
    Out.Canon (execSnapshotPoolDecision l grow s) := by
  unfold execSnapshotPoolDecision
  split
  · exact .next h
  · exact .next h
  · refine .next ?_
    split
    · exact cancelLaunch_canon h
    · exact h

theorem execRollback_canon {s : State} {l} (h : s.Canon) : Out.Canon (execRollback l s) := by
  unfold execRollback
  split
  · exact .next h
  · split
    · exact .next h
    · dsimp only
      split
      · exact .next (foldl_keeps (P := State.Canon) (fun _ _ hk => restorePage_canon hk) _ h)
      · refine .next ?_
        split
        · split
          · exact putResult_canon (beginWait_canon (foldl_keeps (P := State.Canon) (fun _ _ hk2 =>
              restorePage_canon hk2) _ h))
          · exact beginWait_canon (foldl_keeps (P := State.Canon) (fun _ _ hk3 => restorePage_canon hk3) _ h)
        · exact beginWait_canon (foldl_keeps (P := State.Canon) (fun _ _ hk4 => restorePage_canon hk4) _ h)

theorem releaseCalls_canon {s : State} {core} (h : s.Canon) : (releaseCalls s core).Canon := by
  unfold releaseCalls
  split
  · exact h
  · dsimp only
    refine foldl_keeps (P := State.Canon) (fun a b hk => ?_) _ ?_
    · exact hk
    · exact h

theorem execUnitFencing_canon {s : State} {u} (h : s.Canon) : Out.Canon (execUnitFencing u s) := by
  unfold execUnitFencing
  split
  · exact .next h
  · dsimp only
    split
    · split
      · exact execModuleLoss_canon (updPlat_canon (updPlat_canon h))
      · exact .next (updPlat_canon (updPlat_canon h))
    · exact .next (releaseCalls_canon (updPlat_canon (updPlat_canon h)))
    · exact .next (updPlat_canon (updPlat_canon h))

theorem restarted_canon {s : State} {power} (h : s.Canon) : (restarted s power).Canon :=
  canon_iff.mpr ⟨rfl, (canon_iff.mp h).2⟩

theorem execPowerGood_canon {s : State} (h : s.Canon) : Out.Canon (execPowerGood s) := by
  unfold execPowerGood
  refine .next ?_
  split
  · exact restarted_canon h
  · exact h

theorem execConventionalReset_canon {s : State} (h : s.Canon) : Out.Canon (execConventionalReset s) := by
  unfold execConventionalReset
  refine .next ?_
  split
  · exact h
  · exact restarted_canon h

theorem startGroup_canon {s : State} {g} (h : s.Canon) : (startGroup s g).Canon := h

theorem gateGroup_canon {s : State} {g} (h : s.Canon) : (gateGroup s g).Canon := by
  unfold gateGroup
  split
  · exact updPlat_canon h
  · exact h

theorem execPowerUpStepReady_canon {s : State} {img} (h : s.Canon) : Out.Canon (execPowerUpStepReady img s) := by
  unfold execPowerUpStepReady
  dsimp only
  split
  · exact .next (updPlat_canon h)
  · exact .next (updPlat_canon h)
  · exact .next (updPlat_canon h)
  · refine .next ?_
    split
    · exact startGroup_canon h
    · exact h
  · exact .next h
  · exact .next h
  · exact .next h
  · exact .next h

theorem execCoreGroupStart_canon {s : State} {g} (h : s.Canon) : Out.Canon (execCoreGroupStart g s) := by
  refine .next ?_
  split
  · exact h
  · split
    · exact startGroup_canon h
    · split
      · exact updPlat_canon h
      · exact h

theorem cancelQueue_canon {s : State} {q} (h : s.Canon) : (cancelQueue s q).Canon := by
  unfold cancelQueue
  split
  · exact h
  · dsimp only
    refine foldl_keeps (P := State.Canon) (fun a b hk => ?_) _ ?_
    · split
      · next he => exact Out.of_next he (execCancelRecord_canon hk)
      · exact hk
    · exact h

theorem execFunctionLevelReset_canon {s : State} (h : s.Canon) : Out.Canon (execFunctionLevelReset s) := by
  have hq := foldl_keeps (P := State.Canon) (f := fun s q => cancelQueue s q.1)
    (fun _ _ hk => cancelQueue_canon hk) s.queues h
  obtain ⟨hm, hh⟩ := canon_iff.mp hq
  refine .next (foldl_keeps (P := State.Canon) (fun t a ht => ?_) _ (canon_iff.mpr ⟨Mem.wf_filter _ _ hm, hh⟩))
  split
  · next he => exact Out.of_next he (execAsidFreeing_canon ht)
  · exact ht

/-! ### Inputs: what its operations leave of the memories -/

theorem setPod_canon {s : State} {q pos} (h : s.Canon) : (setPod s q pos).Canon := by
  unfold setPod
  dsimp only
  split
  · exact h
  · split <;> exact h

theorem walkAgain_canon {s : State} {stack n} (h : s.Canon) : (walkAgain s stack n).Canon := by
  unfold walkAgain
  dsimp only
  split
  · exact h
  · exact walkAhead_canon h

theorem applyInput_canon {s : State} {i} (h : s.Canon) : (applyInput i s).Canon := by
  cases i with
  | hostWrite a bs =>
    dsimp only [applyInput]
    split
    · exact claimFrames_canon (putPhys_canon h)
    · exact h
  | hostMemory a bs =>
    obtain ⟨hm, hh⟩ := canon_iff.mp h
    exact canon_iff.mpr ⟨hm, Mem.wf_writeBytes _ _ _ hh⟩
  | moduleWrite m p off bs => exact foreignWrite_canon h
  | discardWalk stack n => exact walkAgain_canon h
  | bindFrames asid first n => exact bindFrames_canon h
  | gate g => exact gateGroup_canon h
  | debugger on => exact beginWaits_canon h
  | pod q pos => exact setPod_canon h
  | heads m l =>
    dsimp only [applyInput]
    split
    · exact h
    · exact h
  | _ => exact h

/-! ### Arbiter: what its operations leave of the memories -/

theorem perform_canon {s : State} {a} (h : s.Canon) : Out.Canon (perform a s) := by
  unfold perform
  cases a with
  | fetch => exact execRunFetch_canon h
  | select => exact execIssueSelector_canon h
  | leave =>
    dsimp only
    split
    · next he => exact Cx.leave_canon (of_some he (cxOf_canon h))
    · exact .next h
  | unpark =>
    dsimp only
    split
    · next he => exact Cx.unpark_canon (of_some he (cxOf_canon h))
    · exact .next h
  | parkTrap =>
    dsimp only
    split
    · next he => exact Cx.parkTrap_canon (of_some he (cxOf_canon h))
    · exact .next h
  | dropCommand =>
    dsimp only
    split
    · exact .next (finishCommand_canon h)
    · exact .next h
  | retry =>
    dsimp only
    split
    · exact .next (retryHeld_canon h)
    · exact .next h
  | poll | sendAck | engine => exact .next h
  | land => exact execLongLatencyWriteback_canon h
  | ack => exact execWriteAcknowledged_canon h
  | matrix => exact execMatrixExecute_canon h
  | rotatePause => exact .next (updPlat_canon h)
  | resumeMatrix => exact .next (updPlat_canon h)
  | deadlock => exact checkDeadlock_canon h
  | sleepEnd => exact execSleepExpiry_canon h
  | retireWarp => exact execWarpRetire_canon h
  | callTimeout => exact execRcallTimeout_canon h
  | stopFar => exact execFarTaskStopped_canon h
  | endFar => exact .next (finishFar_canon h)
  | startWaiting => exact .next (startWaiting_canon h)
  | callArrives => exact execFarCallArrival_canon h
  | replyArrives => exact execFarReplyArrival_canon h
  | expireCache => exact execReplyCacheExpiry_canon h
  | endEngine => exact abortEngine_canon h
  | copy => exact execCopyCommandComplete_canon h
  | marker => exact execMstepComplete_canon h
  | near => exact execNearCommandComplete_canon h
  | nearStop => exact execNearProgress_canon h
  | reduce => exact execMredContribution_canon h
  | send => exact sendMessage_canon h
  | nearOp => exact execNearOperationPerformed_canon h
  | queueAnswer => exact execMqModuleAnswer_canon h
  | retransmit => exact execRetransmitTimeout_canon h
  | serve => exact .next (settleMessages_canon h)
  | invalidated => exact .next (completeInvalidation_canon h)
  | admitPages => exact .next (admitPages_canon h)
  | record => exact execLaunchRecordStart_canon h
  | slice => exact execTimeSliceExpiry_canon h
  | place => exact .next ((placeFirst_canon h).getD h)
  | preempt => exact .next (requestPreempt_canon h)
  | save => exact execPreemptionSaveComplete_canon h
  | retireSkein => exact execSkeinRetire_canon h
  | retireGrid => exact execGridRetire_canon h
  | rollback => exact execRollback_canon h
  | copyPage => exact execSnapshotPageCopy_canon h
  | graph => exact graphStep_canon h
  | graphWait => exact execGraphWaitSatisfied_canon h

theorem pollTurn_canon {s : State} {wk e} (h : s.Canon) : (pollTurn wk e s).Canon := by
  unfold pollTurn
  split
  · exact .done (.next h)
  · split
    · exact .done (.next h)
    · split
      · exact .trial h
      · exact .done (.next h)

theorem settleTrial_canon {s : State} {o : Out} {wk e} (h : s.Canon) (ho : Out.Canon o) :
    Out.Canon (settleTrial wk e s o) := by
  unfold settleTrial
  split
  · have ht := Out.of_next rfl ho
    split
    · refine .next ?_
      split
      · exact ht
      · exact h
    · exact .next h
  · exact ho

theorem arbitrate_canon {s : State} (h : s.Canon) : (arbitrate s).Canon := by
  unfold arbitrate
  dsimp only
  split
  · exact .done (.next h)
  · exact pollTurn_canon h
  · exact .done (perform_canon h)

theorem splitTurn_canon {s : State} {wk e} (h : s.Canon) : (splitTurn wk e s).Canon := by
  unfold splitTurn
  split
  · exact .done (.next h)
  · next he =>
    have ht := of_some he (cxOf_canon h)
    split
    · exact .run h
    · exact .done (.next ht)

theorem engineTurn_canon {s : State} {g} (h : s.Canon) : (engineTurn g s).Canon := by
  unfold engineTurn
  split
  · exact .done (.next h)
  · next he =>
    have ht := of_some he (exOf_canon h)
    dsimp only
    split
    · next he2 =>
      have ht2 := Fetch.of_ok he2 (fetchWord_canon h)
      exact .run ht2
    · exact .done (.next h)
    · exact .done (Ex.stop_canon ht)
    · exact .done .fault
    · split
      · exact .done (Ex.stop_canon ht)
      · exact .done (Ex.hold_canon ht)

theorem turnOf_canon {s : State} (h : s.Canon) : (turnOf s).Canon := by
  unfold turnOf
  split
  · dsimp only
    split
    · exact .done (.next h)
    · split
      · split
        · exact .done (.next h)
        · exact .run h
      · exact .done (.next (applyInput_canon h))
  · split
    · exact .done (.next h)
    · split
      · exact splitTurn_canon h
      · exact engineTurn_canon h
      · exact arbitrate_canon h

/-! ### Collective: what its operations leave of the memories -/

theorem shuffle_canon {s : State} {i d a w src} (h : s.Canon) : Out.Canon (shuffle i s d a w src) :=
  issueSplit_canon h (fun _ hk => Cx.done_canon (Cx.putOperand_canon hk))

theorem execVote_canon {s : State} {d n a x} (h : s.Canon) : Out.Canon (execVote d n a x s) := by
  unfold execVote
  refine issueSplit_canon h (fun c hc => ?_)
  dsimp only
  split
  · split
    · exact Cx.trapAt_canon hc
    · exact Cx.scalarDone_canon hc hc
  · split
    · split
      · exact Cx.trapAt_canon hc
      · exact Cx.scalarDone_canon hc hc
    · split
      · exact Cx.trapAt_canon hc
      · exact Cx.scalarDone_canon hc hc

theorem execVred_canon {s : State} {d a x} (h : s.Canon) : Out.Canon (execVred d a x s) := by
  unfold execVred
  refine issueSplit_canon h (fun c hc => ?_)
  split
  · exact Cx.trapAt_canon hc
  · dsimp only
    refine Cx.done_canon ?_
    split
    · exact Cx.countSr_canon (Cx.putOperand_canon hc)
    · exact Cx.putOperand_canon hc

theorem execVscan_canon {s : State} {d a ex x} (h : s.Canon) : Out.Canon (execVscan d a ex x s) := by
  unfold execVscan
  refine issueSplit_canon h (fun c hc => ?_)
  split
  · exact Cx.trapAt_canon hc
  · dsimp only
    refine Cx.done_canon ?_
    split
    · exact Cx.countSr_canon (Cx.putOperand_canon hc)
    · exact Cx.putOperand_canon hc

theorem execVmatch_canon {s : State} {d a w} (h : s.Canon) : Out.Canon (execVmatch d a w s) :=
  issueSplit_canon h (fun _ hk => Cx.done_canon (foldl_keeps (P := Cx.Canon) (fun _ _ hk2 =>
    Cx.putRow_canon hk2) _ hk))

theorem execWidth_canon {s : State} {d} (h : s.Canon) : Out.Canon (execWidth d s) :=
  issueSplit_canon h (fun _ hk => Cx.scalarDone_canon hk hk)

/-! ### Dispatch: what its operations leave of the memories -/

theorem exec_canon {s : State} {i} (h : s.Canon) : Out.Canon (exec i s) := by
  unfold exec
  cases i with
  | nop => exact execNop_canon h
  | sadd | ssub | smul | smulh | smulhn | sand | sor | sxor | sshl | sshr | ssra | smin | smax | sminn | smaxn |
      sclz | spopc | sbfe | sbfi | saddi | sandi | sori | sxori | sshli | sshri | smovi | smoviHi | scmp | ssel
      => exact scalarOp_canon h
  | sadd64 | ssub64 | sshf64 => exact scalarOp64_canon h
  | vadd | vsub | vmul | vmulh | vfma | vmin | vmax | vminp | vmaxp | vabs | vneg | vshl | vshr | vsra | vclz |
      vpopc | vfrac | vrnd | vclass | vaddi | vmuli | vshli | vshri | vsrai | vmini | vmaxi | vrcp | vrsq |
      vsqrt | vexp2 | vlog2 | vsin | vcos | vtanh | vsigm | verf => exact vecTyped_canon h
  | vand | vor | vxor | vnot | vbfe | vbfi | vandi | vori | vxori => exact vecWord_canon h
  | vdot4 => exact execVdot4_canon h
  | vscale => exact execVscale_canon h
  | vcvt => exact execVcvt_canon h
  | vpack => exact execVpack_canon h
  | vunpk => exact execVunpk_canon h
  | vqblk => exact execVqblk_canon h
  | vcmp => exact execVcmp_canon h
  | vcmpi => exact execVcmpi_canon h
  | pand | por | pxor | pmov => exact predOp_canon h
  | pmovV2p => exact execPmovV2p_canon h
  | pmovP2v => exact execPmovP2v_canon h
  | vsel => exact execVsel_canon h
  | vmov => exact execVmov_canon h
  | vmovi => exact execVmovi_canon h
  | vmovh => exact execVmovh_canon h
  | vbcs => exact execVbcs_canon h
  | vget => exact execVget_canon h
  | vput => exact execVput_canon h
  | vlid => exact execVlid_canon h
  | vbnd => exact execVbnd_canon h
  | vshfl | vshfu | vshfd | vshfx => exact shuffle_canon h
  | vote => exact execVote_canon h
  | vred => exact execVred_canon h
  | vscan => exact execVscan_canon h
  | vmatch => exact execVmatch_canon h
  | width => exact execWidth_canon h
  | br => exact execBr_canon h
  | bra => exact execBra_canon h
  | brc => exact execBrc_canon h
  | brx => exact execBrx_canon h
  | brxU => exact execBrxU_canon h
  | call => exact execCall_canon h
  | ret => exact execRet_canon h
  | jarm => exact execJarm_canon h
  | jarv => exact execJarv_canon h
  | jwait => exact execJwait_canon h
  | jclr => exact execJclr_canon h
  | yield => exact execYield_canon h
  | exit => exact execExit_canon h
  | warpRetire => exact execWarpRetire_canon h
  | trap => exact execTrap_canon h
  | tret => exact execTret_canon h
  | mode => exact execMode_canon h
  | barInit => exact execBarInit_canon h
  | barArv => exact execBarArv_canon h
  | barWait => exact execBarWait_canon h
  | kbar => exact execKbar_canon h
  | gbar => exact execGbar_canon h
  | fork => exact execFork_canon h
  | rdv => exact execRdv_canon h
  | rcall => exact execRcall_canon h
  | rcallRetry => exact execRcallRetry_canon h
  | rret => exact execRret_canon h
  | rwait => exact execRwait_canon h
  | launch => exact execLaunch_canon h
  | racq => exact execRacq_canon h
  | brk => exact execBrk_canon h
  | sbnd => exact execSbnd_canon h
  | ldN8 | ldI8 | ldN16 | ldI16 | ld32 | ld64 | ld128 => exact globalLoad_canon h
  | st => exact execSt_canon h
  | ldl32 | ldl128 => exact localLoad_canon h
  | stl => exact execStl_canon h
  | ldlQ => exact execLdlQ_canon h
  | stlQ => exact execStlQ_canon h
  | ldc => exact execLdc_canon h
  | sld => exact execSld_canon h
  | red => exact execRed_canon h
  | atomAdd | atomMin | atomMax | atomMinn | atomMaxn | atomAnd | atomOr | atomXor | atomSwap | atomCas | atomInc
      | atomDec | atomFadd => exact atomOp_canon h
  | atoml => exact execAtoml_canon h
  | reclassification => exact .next (reclassify_canon h)
  | cpy | cpyz => exact copyIssue_canon h
  | copyCommandComplete => exact execCopyCommandComplete_canon h
  | mrd => exact execMrd_canon h
  | mwait => exact execMwait_canon h
  | mstep => exact execMstep_canon h
  | mstepComplete => exact execMstepComplete_canon h
  | fence => exact execFence_canon h
  | writeAcknowledged => exact execWriteAcknowledged_canon h
  | pref => exact execPref_canon h
  | cinv => exact execCinv_canon h
  | cwb => exact execCwb_canon h
  | xatAdd => exact execXatAdd_canon h
  | xatRed => exact execXatRed_canon h
  | xatRmw => exact execXatRmw_canon h
  | nearOperationPerformed => exact execNearOperationPerformed_canon h
  | xatExpr => exact execXatExpr_canon h
  | xatFill => exact execXatFill_canon h
  | xatCopy => exact execXatCopy_canon h
  | rowTransferBlockCommit => exact execRowTransferBlockCommit_canon h
  | nearCommandComplete => exact execNearCommandComplete_canon h
  | nearProgress => exact execNearProgress_canon h
  | xwait => exact execXwait_canon h
  | mqPut => exact execMqPut_canon h
  | mqGet => exact execMqGet_canon h
  | mqModuleAnswer => exact execMqModuleAnswer_canon h
  | mred => exact execMred_canon h
  | mredContribution => exact execMredContribution_canon h
  | mrelay => exact execMrelay_canon h
  | nput => exact execNput_canon h
  | nget => exact execNget_canon h
  | nsig => exact execNsig_canon h
  | nwait => exact execNwait_canon h
  | nwaitRd => exact execNwaitRd_canon h
  | mmaI8t2 | mmaE4t2 | mmaI8i4 | mmaI8i8 | mmaE4e4 | mmaE4e5 | mmaE5e4 | mmaE5e5 | mmaE2e2 | mmaBf16 | mmaF16 |
      mmaBft2 => exact mmaIssue_canon h
  | msa => exact execMsa_canon h
  | matrixExecute => exact execMatrixExecute_canon h
  | mzero => exact execMzero_canon h
  | mzeroP => exact execMzeroP_canon h
  | mmovToRegisters => exact execMmovToRegisters_canon h
  | mmovToTile => exact execMmovToTile_canon h
  | mring => exact execMring_canon h
  | ePop => exact execEPop_canon h
  | eSa => exact execESa_canon h
  | eBias => exact execEBias_canon h
  | eAct => exact execEAct_canon h
  | eCvt => exact execECvt_canon h
  | eBnd => exact execEBnd_canon h
  | eSt => exact execESt_canon h
  | eAst => exact execEAst_canon h
  | eArv => exact execEArv_canon h
  | eBr => exact execEBr_canon h
  | eWait => exact execEWait_canon h
  | eEnd => exact execEEnd_canon h
  | srd => exact execSrd_canon h
  | swr => exact execSwr_canon h
  | ctlModeWrite => exact execCtlModeWrite_canon h
  | ctlCpyfltWrite => exact execCtlCpyfltWrite_canon h
  | ctlEstWrite => exact execCtlEstWrite_canon h
  | ctlTcauseWrite => exact execCtlTcauseWrite_canon h
  | clk => exact execClk_canon h
  | sleep => exact execSleep_canon h
  | sleepExpiry => exact execSleepExpiry_canon h
  | id => exact execId_canon h
  | dbg => exact execDbg_canon h
  | endRun => exact execEndRun_canon h
  | issueSelector => exact execIssueSelector_canon h
  | runFetch => exact execRunFetch_canon h
  | longLatencyWriteback => exact execLongLatencyWriteback_canon h
  | farCallArrival => exact execFarCallArrival_canon h
  | farReplyArrival => exact execFarReplyArrival_canon h
  | rcallTimeout => exact execRcallTimeout_canon h
  | replyCacheExpiry => exact execReplyCacheExpiry_canon h
  | farTaskStopped => exact execFarTaskStopped_canon h
  | hostDbell => exact execHostDbell_canon h
  | launchRecordStart => exact execLaunchRecordStart_canon h
  | skeinPlacement => exact .next ((placeFirst_canon h).getD h)
  | skeinRetire => exact execSkeinRetire_canon h
  | gridRetire => exact execGridRetire_canon h
  | graphWaitSatisfied => exact execGraphWaitSatisfied_canon h
  | preemptionRequest => exact .next (requestPreempt_canon h)
  | timeSliceExpiry => exact execTimeSliceExpiry_canon h
  | preemptionSaveComplete => exact execPreemptionSaveComplete_canon h
  | cancelRecord => exact execCancelRecord_canon h
  | translationInvalidate => exact execTranslationInvalidate_canon h
  | atsTranslationCompletion => exact execAtsTranslationCompletion_canon h
  | priPageResponse => exact execPriPageResponse_canon h
  | atsInvalidateRequest => exact execAtsInvalidateRequest_canon h
  | faultService => exact execFaultService_canon h
  | backInvalidation | scrub | currentLimit | temperatureLimit | fatalLimit | spdmRequest => exact .next h
  | moduleGrant => exact execModuleGrant_canon h
  | relayForward => exact execRelayForward_canon h
  | routeInstall => exact execRouteInstall_canon h
  | moduleLoss => exact execModuleLoss_canon h
  | packageLoss => exact execPackageLoss_canon h
  | reltexPacketReceive => exact execReltexPacketReceive_canon h
  | reltexAckReceive => exact execReltexAckReceive_canon h
  | retransmitTimeout => exact execRetransmitTimeout_canon h
  | snapshotPageCopy => exact execSnapshotPageCopy_canon h
  | snapshotPoolDecision => exact execSnapshotPoolDecision_canon h
  | rollback => exact execRollback_canon h
  | unitFencing => exact execUnitFencing_canon h
  | powerGood => exact execPowerGood_canon h
  | powerUpStepReady => exact execPowerUpStepReady_canon h
  | coreGroupStart => exact execCoreGroupStart_canon h
  | conventionalReset => exact execConventionalReset_canon h
  | functionLevelReset => exact execFunctionLevelReset_canon h
  | boardPowerRemoved => exact .next (restarted_canon h)
  | hostEvent => exact execHostEvent_canon h
  | wordNotAnInstruction => exact execWordNotAnInstruction_canon h
  | asidBinding => exact execAsidBinding_canon h
  | asidFreeing => exact execAsidFreeing_canon h
  | connectionBinding => exact execConnectionBinding_canon h
  | launchQueueBinding => exact execLaunchQueueBinding_canon h
  | modulePortBringUp => exact execModulePortBringUp_canon h

theorem step_canon {s : State} (h : s.Canon) : Out.Canon (step s) := by
  have ht : (turnOf (passTime s)).Canon := turnOf_canon h
  unfold step
  generalize turnOf (passTime s) = turn at ht
  cases ht with
  | run ht => exact exec_canon ht
  | trial ht => exact settleTrial_canon ht (exec_canon ht)
  | done ho => exact ho

/-- Settles O43: every operation of the model keeps both memories canonical, so every step does. -/
theorem memoryInvariant : Obligations.MemoryInvariant := by
  intro s t hs ht
  exact Out.of_next ht (step_canon hs)

end Sys2Proof.Machine

namespace Sys2Proof.Machine

/-! ### The sizes of the register tables -/

/-- Every value of a table has a property. -/
def Tab.Each {α : Type} (P : α → Prop) (t : Tab α) : Prop := ∀ p ∈ t, P p.2

namespace Tab.Each

variable {α : Type} {P : α → Prop} {t : Tab α}

theorem get? (h : Tab.Each P t) {k : Nat} {v : α} (e : Tab.get? t k = some v) : P v := h _ (Tab.get?_mem e)

theorem getD (h : Tab.Each P t) {k : Nat} {d : α} (hd : P d) : P (Tab.getD t k d) := by
  unfold Tab.getD
  cases e : Tab.get? t k with
  | none => exact hd
  | some v => exact h.get? e

theorem put (h : Tab.Each P t) {k : Nat} {v : α} (hv : P v) : Tab.Each P (Tab.put t k v) := by
  induction t with
  | nil => simpa [Tab.put, Tab.Each] using hv
  | cons p t ih =>
    obtain ⟨hp, ht⟩ := List.forall_mem_cons.mp h
    simp only [Tab.put]
    split
    · exact List.forall_mem_cons.mpr ⟨hp, ih ht⟩
    · split
      · exact List.forall_mem_cons.mpr ⟨hv, ht⟩
      · exact List.forall_mem_cons.mpr ⟨hv, h⟩

theorem filter (h : Tab.Each P t) (f : Nat × α → Bool) : Tab.Each P (t.filter f) := fun p hp => h p (List.mem_of_mem_filter hp)

theorem del (h : Tab.Each P t) {k : Nat} : Tab.Each P (Tab.del t k) := h.filter _

theorem map (h : Tab.Each P t) {f : Nat × α → Nat × α} (hf : ∀ p, P p.2 → P (f p).2) : Tab.Each P (t.map f) := by
  intro p hp
  obtain ⟨q, hq, rfl⟩ := List.mem_map.mp hp
  exact hf q (h q hq)

theorem mapVal (h : Tab.Each P t) {f : α → α} (hf : ∀ v, P v → P (f v)) : Tab.Each P (Tab.mapVal t f) := h.map fun p => hf p.2

theorem upd (h : Tab.Each P t) {k : Nat} {f : α → α} (hf : ∀ v, P v → P (f v)) : Tab.Each P (Tab.upd t k f) := by
  induction t with
  | nil => exact h
  | cons p t ih =>
    obtain ⟨hp, ht⟩ := List.forall_mem_cons.mp h
    simp only [Tab.upd]
    split
    · exact List.forall_mem_cons.mpr ⟨hf _ hp, ht⟩
    · exact List.forall_mem_cons.mpr ⟨hp, ih ht⟩

end Tab.Each

/-- A register row of one value per lane. -/
def Row.Sized (r : Row) : Prop := r.length = 96

theorem zeroRow_sized : Row.Sized zeroRow := List.length_replicate

/-- The register tables of a split, those that a trap has saved among them, have their sizes. -/
def Split.Sized (sp : Split) : Prop := sp.shaped = true

theorem Split.sized_iff {sp : Split} : sp.Sized ↔
    sp.scalars.length = 64 ∧ Tab.Each Row.Sized sp.temps ∧ Tab.Each Row.Sized sp.trap.savedTemps := by
  simp [Split.Sized, Split.shaped, Tab.Each, Row.Sized, and_assoc]

/-- The register tables of a warp and of its splits have their sizes. -/
def Warp.Sized (w : Warp) : Prop := w.shaped = true

theorem Warp.sized_iff {w : Warp} : w.Sized ↔
    w.preds.length = 8 ∧ w.joins.length = 4 ∧ Tab.Each Row.Sized w.vregs ∧ Tab.Each Split.Sized w.splits ∧
      ∀ x ∈ w.spill, x.split.Sized := by
  simp [Warp.Sized, Warp.shaped, Split.Sized, Tab.Each, Row.Sized, and_assoc]

/-- The tables of an engine program have the sizes of R251. -/
def Engine.Sized (e : Engine) : Prop := e.scalars.length = 64 ∧ e.w.elems.length = 3072 ∧ e.q.elems.length = 3072

/-- The tables of a workgroup's engine program, if it has one, have their sizes. -/
def Workgroup.Sized (g : Workgroup) : Prop := ∀ e, g.engine = some e → e.Sized

/-- The tables of every warp and of every engine program have their sizes. -/
def State.Sized (s : State) : Prop := s.shaped = true

theorem State.sized_iff {s : State} : s.Sized ↔ Tab.Each Warp.Sized s.warps ∧ Tab.Each Workgroup.Sized s.wgs := by
  simp [State.Sized, State.shaped, Workgroup.Sized, Engine.Sized, Tab.Each, Warp.Sized, and_assoc, Option.all_eq_true]

/-- A context of a split: the tables of its state, of the warp and of the split it carries have their sizes. -/
def Cx.Sized (c : Cx) : Prop := c.s.Sized ∧ c.w.Sized ∧ c.sp.Sized

/-- A context of an engine program: the tables of its state and of the program it carries. -/
def Ex.Sized (x : Ex) : Prop := x.s.Sized ∧ x.en.Sized

/-- A run over lanes: the tables of the state it has come to. -/
def LaneRun.Sized (a : LaneRun) : Prop := a.s.Sized

/-- A command under way: the tables of the state it has come to. -/
def CmdRun.Sized (a : CmdRun) : Prop := a.s.Sized

/-- A store of the engine under way: the tables of the state it has come to. -/
def StoreRun.Sized (a : StoreRun) : Prop := a.s.Sized

/-- A near-memory command under way: the tables of the state it has come to. -/
def NearRun.Sized (a : NearRun) : Prop := a.s.Sized


/-- An outcome that goes on goes on with tables of their sizes. -/
inductive Out.Sized : Out → Prop
  | next {t : State} (h : t.Sized) : Out.Sized (.next t)
  | fault {r} : Out.Sized (.fault r)
  | refused {r} : Out.Sized (.refused r)

/-- An access that succeeds leaves tables of their sizes. -/
inductive Access.Sized : Access → Prop
  | ok {t : State} {v p} (h : t.Sized) : Access.Sized (.ok t v p)
  | replay {b} : Access.Sized (.replay b)
  | fault {c} : Access.Sized (.fault c)
  | poison : Access.Sized .poison
  | hole : Access.Sized .hole

/-- An element that is read or written leaves tables of their sizes. -/
inductive Elem.Sized : Elem → Prop
  | ok {t : State} {bs bad} (h : t.Sized) : Elem.Sized (.ok t bs bad)
  | stop {c a} : Elem.Sized (.stop c a)
  | replay {b a w} : Elem.Sized (.replay b a w)
  | page {p} : Elem.Sized (.page p)
  | hole : Elem.Sized .hole

/-- A fetch that succeeds leaves tables of their sizes. -/
inductive Fetch.Sized : Fetch → Prop
  | ok {t : State} {ws} (h : t.Sized) : Fetch.Sized (.ok t ws)
  | replay {b a} : Fetch.Sized (.replay b a)
  | fault {c} : Fetch.Sized (.fault c)
  | hole : Fetch.Sized .hole

/-- A turn is taken at a state whose tables have their sizes. -/
inductive Turn.Sized : Turn → Prop
  | run {i} {t : State} (h : t.Sized) : Turn.Sized (.run i t)
  | trial {i wk e} {t : State} (h : t.Sized) : Turn.Sized (.trial i wk e t)
  | done {o : Out} (h : Out.Sized o) : Turn.Sized (.done o)

theorem Out.sized_of_next {o : Out} {t : State} (e : o = .next t) (h : Out.Sized o) : t.Sized := by
  subst e; cases h with | next h => exact h

theorem Access.sized_of_ok {a : Access} {t : State} {v p} (e : a = .ok t v p) (h : a.Sized) : t.Sized := by
  subst e; cases h with | ok h => exact h

theorem Elem.sized_of_ok {a : Elem} {t : State} {v p} (e : a = .ok t v p) (h : a.Sized) : t.Sized := by
  subst e; cases h with | ok h => exact h

theorem Fetch.sized_of_ok {a : Fetch} {t : State} {w} (e : a = .ok t w) (h : a.Sized) : t.Sized := by
  subst e; cases h with | ok h => exact h

/-! What the primitive updates of the state, of a warp and of a split leave of the sizes. -/

theorem Split.Sized.scalars {sp : Split} (h : sp.Sized) : sp.scalars.length = 64 := (Split.sized_iff.mp h).1

theorem Split.Sized.temps {sp : Split} (h : sp.Sized) : Tab.Each Row.Sized sp.temps := (Split.sized_iff.mp h).2.1

theorem Split.Sized.savedTemps {sp : Split} (h : sp.Sized) : Tab.Each Row.Sized sp.trap.savedTemps := (Split.sized_iff.mp h).2.2

theorem Warp.Sized.preds {w : Warp} (h : w.Sized) : w.preds.length = 8 := (Warp.sized_iff.mp h).1

theorem Warp.Sized.joins {w : Warp} (h : w.Sized) : w.joins.length = 4 := (Warp.sized_iff.mp h).2.1

theorem Warp.Sized.vregs {w : Warp} (h : w.Sized) : Tab.Each Row.Sized w.vregs := (Warp.sized_iff.mp h).2.2.1

theorem Warp.Sized.splits {w : Warp} (h : w.Sized) : Tab.Each Split.Sized w.splits := (Warp.sized_iff.mp h).2.2.2.1

theorem Warp.Sized.spill {w : Warp} (h : w.Sized) : ∀ x ∈ w.spill, x.split.Sized := (Warp.sized_iff.mp h).2.2.2.2

theorem Warp.Sized.withSplits {w : Warp} (h : w.Sized) {l : Tab Split} (hl : Tab.Each Split.Sized l) :
    Warp.Sized { w with splits := l } := Warp.sized_iff.mpr ⟨h.preds, h.joins, h.vregs, hl, h.spill⟩

theorem Warp.Sized.withSpill {w : Warp} (h : w.Sized) {l : List Spilled} (hl : ∀ x ∈ l, x.split.Sized) :
    Warp.Sized { w with spill := l } := Warp.sized_iff.mpr ⟨h.preds, h.joins, h.vregs, h.splits, hl⟩

theorem Warp.Sized.withSplitsSpill {w : Warp} (h : w.Sized) {l : Tab Split} {m : List Spilled} (hl : Tab.Each Split.Sized l)
    (hm : ∀ x ∈ m, x.split.Sized) : Warp.Sized { w with splits := l, spill := m } :=
  Warp.sized_iff.mpr ⟨h.preds, h.joins, h.vregs, hl, hm⟩

theorem Warp.Sized.withVregs {w : Warp} (h : w.Sized) {l : Tab Row} (hl : Tab.Each Row.Sized l) :
    Warp.Sized { w with vregs := l } := Warp.sized_iff.mpr ⟨h.preds, h.joins, hl, h.splits, h.spill⟩

theorem Warp.Sized.withJoins {w : Warp} (h : w.Sized) {l : List Join} (hl : l.length = 4) :
    Warp.Sized { w with joins := l } := Warp.sized_iff.mpr ⟨h.preds, hl, h.vregs, h.splits, h.spill⟩

theorem State.Sized.warps {s : State} (h : s.Sized) : Tab.Each Warp.Sized s.warps := (State.sized_iff.mp h).1

theorem State.Sized.wgs {s : State} (h : s.Sized) : Tab.Each Workgroup.Sized s.wgs := (State.sized_iff.mp h).2

/-- Only the tables of warps and of workgroups count. -/
theorem State.Sized.of_tables {s t : State} (h : s.Sized) (hw : t.warps = s.warps) (hg : t.wgs = s.wgs) : t.Sized := by
  rw [State.sized_iff, hw, hg]
  exact State.sized_iff.mp h

theorem State.Sized.withWarps {s : State} (h : s.Sized) {l : Tab Warp} (hl : Tab.Each Warp.Sized l) :
    State.Sized { s with warps := l } := State.sized_iff.mpr ⟨hl, h.wgs⟩

theorem State.Sized.withWgs {s : State} (h : s.Sized) {l : Tab Workgroup} (hl : Tab.Each Workgroup.Sized l) :
    State.Sized { s with wgs := l } := State.sized_iff.mpr ⟨h.warps, hl⟩

theorem State.Sized.warp {s : State} (h : s.Sized) {k : Nat} {w : Warp} (e : Tab.get? s.warps k = some w) : w.Sized :=
  h.warps.get? e

theorem State.Sized.wg {s : State} (h : s.Sized) {k : Nat} {g : Workgroup} (e : Tab.get? s.wgs k = some g) : g.Sized :=
  h.wgs.get? e

theorem State.Sized.putWarp {s : State} (h : s.Sized) {k : Nat} {w : Warp} (hw : w.Sized) :
    State.Sized { s with warps := Tab.put s.warps k w } := h.withWarps (h.warps.put hw)

theorem State.Sized.updWarp {s : State} (h : s.Sized) {k : Nat} {f : Warp → Warp} (hf : ∀ w, w.Sized → (f w).Sized) :
    (State.updWarp s k f).Sized := h.withWarps (h.warps.upd hf)

theorem State.Sized.putWg {s : State} (h : s.Sized) {k : Nat} {g : Workgroup} (hg : g.Sized) :
    State.Sized { s with wgs := Tab.put s.wgs k g } := h.withWgs (h.wgs.put hg)

theorem State.Sized.updWg {s : State} (h : s.Sized) {k : Nat} {f : Workgroup → Workgroup}
    (hf : ∀ g, g.Sized → (f g).Sized) : State.Sized { s with wgs := Tab.upd s.wgs k f } := h.withWgs (h.wgs.upd hf)

theorem State.Sized.wgOf {s : State} (h : s.Sized) {w : Warp} {g : Workgroup} (e : wgOf s w = some g) : g.Sized := by
  unfold Sys2Proof.Machine.wgOf at e
  split at e
  · cases e
  · exact h.wg e

theorem Workgroup.sized_of_engine {g : Workgroup} {e : Engine} (he : g.engine = some e) (h : e.Sized) : g.Sized := by
  intro x hx
  cases he.symm.trans hx
  exact h

theorem Cx.Sized.s {c : Cx} (h : c.Sized) : c.s.Sized := h.1

theorem Cx.Sized.w {c : Cx} (h : c.Sized) : c.w.Sized := h.2.1

theorem Cx.Sized.sp {c : Cx} (h : c.Sized) : c.sp.Sized := h.2.2

theorem Cx.Sized.withState {c : Cx} (h : c.Sized) {t : State} (ht : t.Sized) : Cx.Sized { c with s := t } := ⟨ht, h.w, h.sp⟩

theorem Cx.Sized.withWarp {c : Cx} (h : c.Sized) {w : Warp} (hw : w.Sized) : Cx.Sized { c with w := w } := ⟨h.s, hw, h.sp⟩

theorem Cx.Sized.withSplit {c : Cx} (h : c.Sized) {sp : Split} (hsp : sp.Sized) : Cx.Sized { c with sp := sp } :=
  ⟨h.s, h.w, hsp⟩

theorem Cx.commit_sized {c : Cx} (h : c.Sized) : c.commit.Sized := h.s.putWarp (h.w.withSplits (h.w.splits.put h.sp))

theorem Cx.commitFree_sized {c : Cx} (h : c.Sized) : c.commitFree.Sized := h.s.putWarp (h.w.withSplits h.w.splits.del)

theorem Ex.commit_sized {x : Ex} (h : x.Sized) : x.commit.Sized := h.1.putWg (Workgroup.sized_of_engine rfl h.2)

end Sys2Proof.Machine


namespace Sys2Proof.Machine

/-! One lemma per operation of the model that carries a state, in the order of the definitions: it leaves the register tables
at their sizes.  Each follows the operation's own branches.  Most operations touch no register table, and then the hypothesis
itself is the proof; the others write a table through `Tab.put`, `Tab.upd`, `setAt` or a map over the splits, and go through the
rules of the section before. -/

/-! ### Ops: what its operations leave of the register tables -/

theorem cxOf_sized {s : State} {wk e} (h : s.Sized) : IfSome Cx.Sized (cxOf s wk e) := by
  unfold cxOf
  split
  · exact .none
  · next w hw =>
    split
    · exact .none
    · next sp hsp => exact .some ⟨h, h.warp hw, (h.warp hw).splits.get? hsp⟩

theorem Cx.reread_sized {s : State} {c : Cx} (hc : c.Sized) (h : s.Sized) : (Cx.reread c s).Sized :=
  (cxOf_sized h).getD (hc.withState h)

theorem Cx.row_sized {c : Cx} (h : c.Sized) {r} : Row.Sized (c.row r) := by
  unfold Cx.row
  split
  · exact h.w.vregs.getD zeroRow_sized
  · exact h.sp.temps.getD zeroRow_sized

theorem mergeRow_sized {m : Mask} {old new : Row} (h : Row.Sized old) : Row.Sized (mergeRow m old new) :=
  (mergeFrom_length m 0 old new).trans h

theorem Split.Sized.withTemps {sp : Split} (h : sp.Sized) {l : Tab Row} (hl : Tab.Each Row.Sized l) :
    Split.Sized { sp with temps := l } := Split.sized_iff.mpr ⟨h.scalars, hl, h.savedTemps⟩

theorem Cx.putRow_sized {c : Cx} {r m new} (h : c.Sized) : (c.putRow r m new).Sized := by
  unfold Cx.putRow
  dsimp only
  have hrow : Row.Sized (mergeRow m (c.row r) new) := mergeRow_sized (Cx.row_sized h)
  split
  · exact ⟨h.s, h.w.withVregs (h.w.vregs.put hrow), h.sp⟩
  · exact h.withSplit (h.sp.withTemps (h.sp.temps.put hrow))

theorem Split.setScalar_sized {sp : Split} {n v p} (h : sp.Sized) : (sp.setScalar n v p).Sized := by
  obtain ⟨-, -, ht, -, -, hl⟩ := sp.setScalar_fields n v p
  have hs : (sp.setScalar n v p).rest.trap = sp.rest.trap := by rw [sp.setScalar_rest]
  change (sp.setScalar n v p).trap = sp.trap at hs
  rw [Split.sized_iff, ht, hl, hs]
  exact Split.sized_iff.mp h

theorem Cx.putScalar_sized {c : Cx} {n v} (h : c.Sized) : (c.putScalar n v).Sized := h.withSplit (Split.setScalar_sized h.sp)

theorem Cx.putScalar64_sized {c : Cx} {n v} (h : c.Sized) : (c.putScalar64 n v).Sized :=
  Cx.putScalar_sized (Cx.putScalar_sized h)

theorem Cx.putPred_sized {c : Cx} {n m v} (h : c.Sized) : (c.putPred n m v).Sized := by
  unfold Cx.putPred
  split
  · exact h
  · refine h.withWarp (Warp.sized_iff.mpr ⟨?_, h.w.joins, h.w.vregs, h.w.splits, h.w.spill⟩)
    exact (List.length_modify _ _ _).trans h.w.preds

@[simp] theorem backRow_length (kept : Mask) (i : Nat) (old : Row) (vs : List (Option (Word × Bool))) :
    (backRow kept i old vs).length = old.length := by
  induction old generalizing i vs with
  | nil => simp [backRow]
  | cons a old ih =>
    cases vs with
    | nil => simp [backRow]
    | cons v vs => simp [backRow, ih]

theorem backReg_sized {c : Cx} {p k} (h : c.Sized) : (backReg p c k).Sized := by
  unfold backReg
  dsimp only
  split
  · have hrow (r : Nat) : Row.Sized (backRow (p.kept.getD k 0) 0 (Tab.getD c.w.vregs r zeroRow) (p.rows.getD k [])) :=
      (backRow_length _ _ _ _).trans (h.w.vregs.getD zeroRow_sized)
    exact h.withWarp (h.w.withVregs (h.w.vregs.put (hrow _)))
  · split
    · split
      · exact h
      · exact h.withSplit (Split.setScalar_sized h.sp)
    · exact h

theorem Cx.backAll_sized {c : Cx} {p} (h : c.Sized) : (c.backAll p).Sized :=
  foldl_keeps (P := Cx.Sized) (fun _ _ hk => backReg_sized hk) _ h

theorem backDue_sized {c : Cx} {earlier l} (h : c.Sized) : (backDue earlier l c).2.Sized := by
  induction l generalizing earlier c with
  | nil => exact h
  | cons p l ih =>
    simp only [backDue]
    split
    · refine ih ?_
      split
      · exact h
      · exact Cx.backAll_sized h
    · exact ih h

theorem Cx.settleBacks_sized {c : Cx} (h : c.Sized) : c.settleBacks.Sized := backDue_sized h

theorem Cx.advance_sized {c : Cx} (h : c.Sized) : c.advance.Sized := Cx.settleBacks_sized h

theorem Cx.done_sized {c : Cx} (h : c.Sized) : Out.Sized c.done :=
  .next (Cx.commit_sized (Cx.advance_sized h))

theorem unfocus_sized {s : State} (h : s.Sized) : (unfocus s).Sized := h

theorem Cx.stay_sized {c : Cx} {st} (h : c.Sized) : Out.Sized (c.stay st) :=
  .next (unfocus_sized (Cx.commit_sized h))

theorem Cx.stall_sized {c : Cx} {why} (h : c.Sized) : Out.Sized (c.stall why) :=
  .next (unfocus_sized (Cx.commit_sized h))

theorem cancelLaunch_sized {s : State} {l} (h : s.Sized) : (cancelLaunch s l).Sized := by
  unfold cancelLaunch
  split
  · exact h
  · dsimp only
    split <;> exact h

theorem endFarTask_sized {s : State} {wk f status cause values} (h : s.Sized) :
    (endFarTask s wk f status cause values).Sized := by
  unfold endFarTask
  dsimp only
  split
  · exact h
  · next w hw =>
    split
    · exact h.withWarps h.warps.del
    · have hw1 := (h.warp hw).withSplitsSpill (l := []) (m := []) (by simp [Tab.Each]) (by simp)
      exact h.withWarps (h.warps.put hw1)

theorem Cx.drain_sized {c : Cx} (h : c.Sized) : c.drain.Sized := Cx.settleBacks_sized h

theorem Split.Sized.withTrap {sp : Split} (h : sp.Sized) {t : Trap} (ht : Tab.Each Row.Sized t.savedTemps) :
    Split.Sized { sp with trap := t } := Split.sized_iff.mpr ⟨h.scalars, h.temps, ht⟩

theorem Cx.stopSkein_sized {c : Cx} {t second} (h : c.Sized) (ht : Tab.Each Row.Sized t.savedTemps) :
    (c.stopSkein t second).Sized := by
  have hc : (Cx.commit { c with sp := { c.sp with
      trap := t, status := .stalled, stall := .other, run := { c.sp.run with slot := .none } } }).Sized :=
    Cx.commit_sized (h.withSplit (h.sp.withTrap ht))
  unfold Cx.stopSkein
  dsimp only
  split
  · exact cancelLaunch_sized hc
  · exact hc

theorem Cx.inHandler_sized {c : Cx} {t} (h : c.Sized) (ht : Tab.Each Row.Sized t.savedTemps) : (c.inHandler t).Sized :=
  h.withSplit ((h.sp.withTrap ht).withTemps (l := []) (by simp [Tab.Each]))

theorem Cx.enterTrap_sized {c : Cx} {t} (h : c.Sized) : Out.Sized (c.enterTrap t) := by
  have hd := Cx.drain_sized h
  unfold Cx.enterTrap
  dsimp only
  split
  · refine .next ?_
    split <;> exact endFarTask_sized (Cx.commit_sized h)
  · split
    · exact .next (unfocus_sized (Cx.commit_sized hd))
    · split
      · exact .next (Cx.stopSkein_sized h h.sp.savedTemps)
      · split
        · exact .next (Cx.stopSkein_sized hd hd.sp.temps)
        · exact .next (unfocus_sized (Cx.commit_sized (Cx.inHandler_sized hd hd.sp.temps)))

theorem Cx.faultTrap_sized {c : Cx} (h : c.Sized) : Out.Sized c.faultTrap := by
  unfold Cx.faultTrap
  split
  · exact Cx.stay_sized h
  · split
    · exact Cx.stay_sized h
    · exact Cx.enterTrap_sized h

theorem Cx.trapBefore_sized {c : Cx} {cause fetch} (h : c.Sized) : Out.Sized (c.trapBefore cause fetch) := by
  unfold Cx.trapBefore
  split
  · exact Cx.faultTrap_sized h
  · split
    · exact Cx.stay_sized h
    · exact Cx.enterTrap_sized h

theorem Cx.trapAt_sized {c : Cx} {cause} (h : c.Sized) : Out.Sized (c.trapAt cause) := Cx.trapBefore_sized h

theorem Cx.trapAfter_sized {c : Cx} {cause code} (h : c.Sized) : Out.Sized (c.trapAfter cause code) := by
  unfold Cx.trapAfter
  split
  · exact Cx.faultTrap_sized h
  · split
    · exact Cx.stay_sized h
    · exact Cx.enterTrap_sized (Cx.advance_sized h)

theorem Cx.issue_sized {c : Cx} {i run} (h : c.Sized) (hrun : ∀ c0, c0.Sized → Out.Sized (run c0)) :
    Out.Sized (c.issue i run) := by
  unfold Cx.issue
  split
  · exact Cx.faultTrap_sized h
  · split
    · exact Cx.stay_sized h
    · split
      · split
        · exact Cx.stay_sized h
        · exact Cx.trapAt_sized h
      · split
        · exact Cx.trapAt_sized h
        · split
          · exact Cx.stay_sized h
          · split
            · exact Cx.trapAt_sized h
            · split
              · exact Cx.trapAt_sized h
              · split
                · exact Cx.trapAt_sized h
                · exact hrun _ h

theorem exOf_sized {s : State} {g} (h : s.Sized) : IfSome Ex.Sized (exOf s g) := by
  unfold exOf
  split
  · exact .none
  · next wg hwg =>
    split
    · exact .none
    · next en hen =>
      split
      · exact .some ⟨h, h.wg hwg en hen⟩
      · exact .none

theorem Ex.putScalar_sized {x : Ex} {n v poison} (h : x.Sized) : (x.putScalar n v poison).Sized := by
  obtain ⟨hs, hl, hw, hq⟩ := h
  unfold Ex.putScalar
  split
  · exact ⟨hs, hl, hw, hq⟩
  · exact ⟨hs, (List.length_set ..).trans hl, hw, hq⟩

theorem Ex.done_sized {x : Ex} (h : x.Sized) : Out.Sized x.done := .next (Ex.commit_sized h)

theorem Ex.wait_sized {x : Ex} (h : x.Sized) : Out.Sized x.wait := .next (Ex.commit_sized h)

theorem wantRollback_sized {s : State} {l pc} (h : s.Sized) : (wantRollback s l pc).Sized := h

theorem orStatusAt_sized {s : State} {k a b n d} (h : s.Sized) : (orStatusAt s k a b n d).Sized := h

theorem Ex.stop_sized {x : Ex} {cause} (h : x.Sized) : Out.Sized (x.stop cause) := by
  unfold Ex.stop
  extract_lets offset est y g e s t l
  have hs : s.Sized := Ex.commit_sized ⟨h.1, h.2⟩
  clear_value s
  have ht : t.Sized := by
    unfold t
    split
    · exact orStatusAt_sized hs
    · exact hs
  refine .next ?_
  split
  · exact wantRollback_sized ht
  · exact ht

theorem Ex.stopFault_sized {x : Ex} {cause} (h : x.Sized) : Out.Sized (x.stopFault cause) := Ex.stop_sized h

theorem Ex.issue_sized {x : Ex} {i run} (h : x.Sized) (hrun : ∀ x0, x0.Sized → Out.Sized (run x0)) :
    Out.Sized (x.issue i run) := by
  unfold Ex.issue
  split
  · split
    · exact Ex.stopFault_sized h
    · exact Ex.stop_sized h
  · split
    · exact Ex.stop_sized h
    · split
      · exact Ex.stop_sized h
      · split
        · exact Ex.stop_sized h
        · exact hrun _ h

theorem issue_sized {s : State} {i onSplit onEngine} (h : s.Sized) (honSplit : ∀ c, c.Sized → Out.Sized (onSplit c))
    (honEngine : ∀ x, x.Sized → Out.Sized (onEngine x)) :
    Out.Sized (issue i s onSplit onEngine) := by
  unfold issue
  split
  · exact .refused
  · split
    · next he => exact Cx.issue_sized (of_some he (cxOf_sized h)) honSplit
    · exact .refused
  · split
    · next he => exact Ex.issue_sized (of_some he (exOf_sized h)) honEngine
    · exact .refused

theorem issueSplit_sized {s : State} {i onSplit} (h : s.Sized) (honSplit : ∀ c, c.Sized → Out.Sized (onSplit c)) :
    Out.Sized (issueSplit i s onSplit) := issue_sized h honSplit (fun _ hk => Ex.stop_sized hk)

theorem issueEngine_sized {s : State} {i onEngine} (h : s.Sized)
    (honEngine : ∀ x, x.Sized → Out.Sized (onEngine x)) : Out.Sized (issueEngine i s onEngine) :=
  issue_sized h (fun _ hk => Cx.trapAt_sized hk) honEngine

theorem Cx.scalarDone_sized {old : Cx} {new : Cx} (h : old.Sized) (hnew : new.Sized) :
    Out.Sized (old.scalarDone new) := by
  unfold Cx.scalarDone
  split
  · exact Cx.trapAt_sized h
  · exact Cx.done_sized hnew


/-! ### Memory: what its operations leave of the register tables -/

theorem writeLoc_sized {s : State} {l bs poison} (h : s.Sized) : (writeLoc s l bs poison).Sized := by
  cases l <;> exact h

theorem reclassify_sized {s : State} {asid va launch} (h : s.Sized) : (reclassify s asid va launch).Sized := by
  unfold reclassify
  split
  · split
    · dsimp only [baseClassS]
      split
      · exact h.of_tables rfl rfl
      · exact h.of_tables rfl rfl
    · exact h
  · exact h
  · exact h

theorem classAccess_sized {s : State} {p va pa cls write} (h : s.Sized) :
    (classAccess s p va pa cls write).Sized := by
  unfold classAccess
  split
  · dsimp only
    split
    · exact h
    · split
      · exact h
      · exact reclassify_sized h
    · exact reclassify_sized h
  · split
    · exact reclassify_sized h
    · exact h
  · exact h

theorem beforeAccess_sized {s : State} {p va l cls write} (h : s.Sized) :
    (beforeAccess s p va l cls write).Sized := by
  unfold beforeAccess
  split
  · exact classAccess_sized h
  · exact h
  · exact h
  · exact h

theorem countMisaligned_sized {s : State} {launch pa} (h : s.Sized) : (countMisaligned s launch pa).Sized := by
  unfold countMisaligned
  dsimp only
  split <;> exact h

theorem applyReq_sized {s : State} {kind l r} (h : s.Sized) : (applyReq s kind l r).1.Sized := by
  unfold applyReq
  dsimp only
  split
  · exact h
  · exact writeLoc_sized h
  · exact writeLoc_sized h

theorem performNear_sized {s : State} {n x} (h : s.Sized) : (performNear s n x).Sized := applyReq_sized h

theorem performAll_sized {s : State} {ops} (h : s.Sized) : (performAll s ops).Sized :=
  foldl_keeps (P := State.Sized) (fun _ _ hk => performNear_sized hk) _ h

theorem flushNear_sized {s : State} {wk l n} (h : s.Sized) : (flushNear s wk l n).Sized := by
  unfold flushNear
  split
  · exact performAll_sized h
  · exact h
  · exact h

theorem accessLane_sized {s : State} {p wk kind r} (h : s.Sized) : (accessLane s p wk kind r).Sized := by
  unfold accessLane
  dsimp only
  split
  · exact .fault
  · exact .replay
  · exact .poison
  · exact .hole
  · next l cls level hx =>
    split
    · exact .fault
    · split
      · have hc : (match l with
            | .hbm pa => if r.va.toNat % 2 ^ 57 % kind.bytes = 0 then s else countMisaligned s p.launch pa
            | _ => s).Sized := by
          split
          · split
            · exact h
            · exact countMisaligned_sized h
          · exact h
        split
        · exact .ok hc
        · exact .ok (applyReq_sized (flushNear_sized hc))
      · exact .ok (applyReq_sized (beforeAccess_sized (flushNear_sized h)))

theorem runLane_sized {a : LaneRun} {p wk kind blocked r} (h : a.Sized) : (runLane p wk kind blocked a r).Sized := by
  unfold runLane
  split
  · exact h
  · split
    · next he => exact Access.sized_of_ok he (accessLane_sized h)
    · exact h
    · exact h
    · exact h
    · exact h

theorem askHost_sized {s : State} {asid page write} (h : s.Sized) : (askHost s asid page write).Sized := by
  unfold askHost
  split <;> exact h

theorem holdAt_sized {s : State} {k p host va write w} (h : s.Sized) : (holdAt s k p host va write w).Sized := by
  unfold holdAt
  dsimp only
  split
  · exact askHost_sized h
  · exact h

theorem holdOne_sized {s : State} {p host va write w} (h : s.Sized) : (holdOne s p host va write w).Sized :=
  holdAt_sized h

theorem holdPages_sized {s : State} {p n pages} (h : s.Sized) : (holdPages s p n pages).Sized :=
  foldl_keeps (P := State.Sized) (fun _ _ hk => holdOne_sized hk) _ h

theorem wantPage_sized {s : State} {launch page} (h : s.Sized) : (wantPage s launch page).Sized := by
  unfold wantPage
  split <;> exact h

theorem replayLane_sized {a : LaneRun} {p wk kind blocked r} (h : a.Sized) :
    (replayLane p wk kind blocked a r).Sized := by
  unfold replayLane
  split
  · exact h
  · split
    · exact h
    · exact wantPage_sized h
    · split
      · next he => exact Access.sized_of_ok he (accessLane_sized h)
      · exact h
      · exact h
      · exact h
      · exact h

theorem runLanes_sized {s : State} {p wk kind reqs} (h : s.Sized) : (runLanes s p wk kind reqs).Sized :=
  foldl_keeps (P := LaneRun.Sized) (fun _ _ hk => runLane_sized hk) _ h

theorem Cx.newPend_sized {c : Cx} {opcode look d rows held open_} (h : c.Sized) :
    (c.newPend opcode look d rows held open_).1.Sized := h

theorem Cx.settleEmpty_sized {c : Cx} {n} (h : c.Sized) : (c.settleEmpty n).Sized := h

theorem Cx.globalLanes_sized {c : Cx} {opcode look kind d reqs} (h : c.Sized) :
    Out.Sized (c.globalLanes opcode look kind d reqs) := by
  unfold Cx.globalLanes
  extract_lets p snap a groups c0 held cp c2 s2 writes fs
  have ha : a.Sized := runLanes_sized h.s
  have hcp : cp.1.Sized := by
    unfold cp
    split
    · dsimp only
      split
      · exact Cx.settleEmpty_sized (Cx.newPend_sized (h.withState ha))
      · exact Cx.newPend_sized (h.withState ha)
    · exact h.withState ha
  have hs2 : s2.Sized := foldl_keeps (P := State.Sized) (fun _ _ hk => holdOne_sized hk) _ hcp.s
  clear_value snap
  split
  · exact Cx.trapAt_sized h
  · exact Cx.stall_sized (h.withState (wantPage_sized h.s))
  · split
    · exact .fault
    · split
      · exact Cx.trapAt_sized h
      · split
        · exact Cx.stall_sized h
        · exact Cx.done_sized ⟨hs2, hcp.w, hcp.sp⟩

theorem Cx.global_sized {c : Cx} {opcode look kind a s d data data2} (h : c.Sized) :
    Out.Sized (c.global opcode look kind a s d data data2) := by
  unfold Cx.global
  dsimp only
  split
  · split
    · exact Cx.trapAt_sized h
    · split
      · exact Cx.trapAt_sized h
      · split
        · exact Cx.trapAt_sized h
        · exact Cx.globalLanes_sized h
  · split
    · exact Cx.trapAt_sized h
    · split
      · exact Cx.trapAt_sized h
      · split
        · exact Cx.trapAt_sized h
        · exact Cx.globalLanes_sized h


/-! ### Scalar: what its operations leave of the register tables -/

theorem scalarOp_sized {s : State} {i d f} (h : s.Sized) : Out.Sized (scalarOp i s d f) :=
  issue_sized h (fun _ hk => Cx.scalarDone_sized hk (Cx.putScalar_sized hk))
    (fun _ hk => Ex.done_sized (Ex.putScalar_sized hk))

theorem scalarOp64_sized {s : State} {i d f} (h : s.Sized) : Out.Sized (scalarOp64 i s d f) :=
  issue_sized h (fun _ hk => Cx.scalarDone_sized hk (Cx.putScalar64_sized hk))
    (fun _ hk => Ex.done_sized (Ex.putScalar_sized (Ex.putScalar_sized hk)))

theorem execNop_sized {s : State} (h : s.Sized) : Out.Sized (execNop s) :=
  issue_sized h (fun _ hk => Cx.done_sized hk) (fun _ hk => Ex.done_sized hk)


/-! ### Vector: what its operations leave of the register tables -/

theorem Cx.putOperand_sized {c : Cx} {r wide m vals} (h : c.Sized) : (c.putOperand r wide m vals).Sized := by
  unfold Cx.putOperand
  split
  · exact Cx.putRow_sized (Cx.putRow_sized h)
  · exact Cx.putRow_sized h

theorem Cx.countSr_sized {c : Cx} {rm m} (h : c.Sized) : (c.countSr rm m).Sized := by
  unfold Cx.countSr
  split <;> exact h

theorem vecTyped_sized {s : State} {i d a b x counts f} (h : s.Sized) :
    Out.Sized (vecTyped i s d a b x counts f) := by
  unfold vecTyped
  refine issueSplit_sized h (fun c hc => ?_)
  split
  · exact Cx.trapAt_sized hc
  · dsimp only
    refine Cx.done_sized ?_
    split
    · exact Cx.countSr_sized (Cx.putOperand_sized hc)
    · exact Cx.putOperand_sized hc

theorem vecWord_sized {s : State} {i d a b f} (h : s.Sized) : Out.Sized (vecWord i s d a b f) :=
  issueSplit_sized h (fun _ hk => Cx.done_sized (Cx.putOperand_sized hk))

theorem execVscale_sized {s : State} {d a b x} (h : s.Sized) : Out.Sized (execVscale d a b x s) := by
  unfold execVscale
  refine issueSplit_sized h (fun c hc => ?_)
  split
  · exact Cx.trapAt_sized hc
  · exact Cx.done_sized (Cx.countSr_sized (Cx.putOperand_sized hc))

theorem execVdot4_sized {s : State} {d a b g} (h : s.Sized) : Out.Sized (execVdot4 d a b g s) :=
  issueSplit_sized h (fun _ hk => Cx.done_sized (Cx.putOperand_sized hk))


/-! ### Convert: what its operations leave of the register tables -/

theorem Cx.putGroup_sized {c : Cx} {r n m vals} (h : c.Sized) : (c.putGroup r n m vals).Sized :=
  foldl_keeps (P := Cx.Sized) (fun _ _ hk => Cx.putRow_sized hk) _ h

theorem Cx.groupDone_sized {c : Cx} {d n m rs count rm} (h : c.Sized) :
    Out.Sized (c.groupDone d n m rs count rm) := by
  unfold Cx.groupDone
  dsimp only
  refine Cx.done_sized ?_
  split
  · exact Cx.countSr_sized (Cx.putGroup_sized h)
  · exact Cx.putGroup_sized h

theorem execVcvt_sized {s : State} {d a src r} (h : s.Sized) : Out.Sized (execVcvt d a src r s) := by
  unfold execVcvt
  refine issueSplit_sized h (fun c hc => ?_)
  split
  · exact Cx.groupDone_sized hc
  · exact Cx.trapAt_sized hc

theorem execVpack_sized {s : State} {d a x} (h : s.Sized) : Out.Sized (execVpack d a x s) :=
  issueSplit_sized h (fun _ hk => Cx.groupDone_sized hk)

theorem execVunpk_sized {s : State} {d a x} (h : s.Sized) : Out.Sized (execVunpk d a x s) :=
  issueSplit_sized h (fun _ hk => Cx.groupDone_sized hk)

theorem execVqblk_sized {s : State} {d a b x} (h : s.Sized) : Out.Sized (execVqblk d a b x s) := by
  unfold execVqblk
  refine issueSplit_sized h (fun c hc => ?_)
  split
  · exact Cx.trapAt_sized hc
  · exact Cx.done_sized (Cx.putRow_sized hc)

theorem execVcmp_sized {s : State} {d a b x} (h : s.Sized) : Out.Sized (execVcmp d a b x s) := by
  unfold execVcmp
  refine issueSplit_sized h (fun c hc => ?_)
  split
  · exact Cx.trapAt_sized hc
  · exact Cx.done_sized (Cx.putPred_sized hc)

theorem execVcmpi_sized {s : State} {d a k x} (h : s.Sized) : Out.Sized (execVcmpi d a k x s) := by
  unfold execVcmpi
  refine issueSplit_sized h (fun c hc => ?_)
  split
  · exact Cx.trapAt_sized hc
  · exact Cx.done_sized (Cx.putPred_sized hc)

theorem predOp_sized {s : State} {i d a b m n f} (h : s.Sized) : Out.Sized (predOp i s d a b m n f) :=
  issueSplit_sized h (fun _ hk => Cx.done_sized (Cx.putPred_sized hk))

theorem execPmovV2p_sized {s : State} {d a n} (h : s.Sized) : Out.Sized (execPmovV2p d a n s) :=
  issueSplit_sized h (fun _ hk => Cx.done_sized (Cx.putPred_sized hk))

theorem execPmovP2v_sized {s : State} {d a n} (h : s.Sized) : Out.Sized (execPmovP2v d a n s) :=
  issueSplit_sized h (fun _ hk => Cx.done_sized (Cx.putRow_sized hk))

theorem execVsel_sized {s : State} {d a b x} (h : s.Sized) : Out.Sized (execVsel d a b x s) :=
  issueSplit_sized h (fun _ hk => Cx.done_sized (Cx.putRow_sized hk))

theorem execVmov_sized {s : State} {d a w} (h : s.Sized) : Out.Sized (execVmov d a w s) :=
  issueSplit_sized h (fun _ hk => Cx.done_sized (Cx.putOperand_sized hk))

theorem execVmovi_sized {s : State} {d k} (h : s.Sized) : Out.Sized (execVmovi d k s) :=
  issueSplit_sized h (fun _ hk => Cx.done_sized (Cx.putRow_sized hk))

theorem execVmovh_sized {s : State} {d k} (h : s.Sized) : Out.Sized (execVmovh d k s) :=
  issueSplit_sized h (fun _ hk => Cx.done_sized (Cx.putRow_sized hk))

theorem execVbcs_sized {s : State} {d a w} (h : s.Sized) : Out.Sized (execVbcs d a w s) :=
  issueSplit_sized h (fun _ hk => Cx.done_sized (Cx.putOperand_sized hk))

theorem execVget_sized {s : State} {d a b} (h : s.Sized) : Out.Sized (execVget d a b s) := by
  unfold execVget
  refine issueSplit_sized h (fun c hc => ?_)
  dsimp only
  split
  · split
    · exact Cx.trapAt_sized hc
    · exact Cx.scalarDone_sized hc (Cx.putScalar_sized hc)
  · split
    · exact Cx.trapAt_sized hc
    · exact Cx.scalarDone_sized hc (Cx.putScalar_sized hc)

theorem execVput_sized {s : State} {d a b} (h : s.Sized) : Out.Sized (execVput d a b s) :=
  issueSplit_sized h (fun _ hk => Cx.done_sized (Cx.putRow_sized hk))

theorem execVlid_sized {s : State} {d w} (h : s.Sized) : Out.Sized (execVlid d w s) :=
  issueSplit_sized h (fun _ hk => Cx.done_sized (Cx.putRow_sized hk))

theorem execVbnd_sized {s : State} {d a n} (h : s.Sized) : Out.Sized (execVbnd d a n s) := by
  unfold execVbnd
  refine issueSplit_sized h (fun c hc => ?_)
  dsimp only
  split
  · exact Cx.done_sized (Cx.putRow_sized hc)
  · next g hg =>
    split
    · exact Cx.trapAt_sized hc
    · split
      · exact Cx.trapAt_sized hc
      · have hrow (r m new) : (c.putRow r m new).Sized := Cx.putRow_sized hc
        have hg1 : g.Sized := hc.s.wgOf hg
        exact Cx.done_sized ((hrow _ _ _).withState ((hrow _ _ _).s.putWg hg1))


/-! ### Joins: what its operations leave of the register tables -/

theorem Split.applyTrailer_sized {sp : Split} {codes next} (h : sp.Sized) : (sp.applyTrailer codes next).Sized :=
  h.withTemps (l := []) (by simp [Tab.Each])

theorem Split.readyAtPc_sized {sp : Split} {pc clock} (h : sp.Sized) : (sp.readyAtPc pc clock).Sized := h

theorem unspillOne_sized {clock : Nat} {w : Warp} (h : w.Sized) : (unspillOne clock w).Sized := by
  unfold unspillOne
  split
  · next e es x rest he hs =>
    obtain ⟨hx, hr⟩ := List.forall_mem_cons.mp (hs ▸ h.spill)
    exact h.withSplitsSpill (h.splits.put hx) hr
  · exact h

theorem Warp.refill_sized {w : Warp} {clock} (h : w.Sized) : (w.refill clock).Sized :=
  foldl_keeps (P := Warp.Sized) (fun _ _ hk => unspillOne_sized hk) _ h

theorem Warp.addSplit_sized {w : Warp} {sp : Split} (h : w.Sized) (hsp : sp.Sized) : (w.addSplit sp).Sized := by
  unfold Warp.addSplit
  split
  · exact h.withSplits (h.splits.put hsp)
  · exact h.withSpill (List.forall_mem_append.mpr ⟨h.spill, List.forall_mem_singleton.mpr hsp⟩)

theorem childOf_sized {s : State} {wk} {adv : Split} {codes lanes target} (h : adv.Sized) :
    (childOf s wk adv codes lanes target).Sized := by
  unfold childOf
  dsimp only
  split
  · split
    · split
      · exact Split.readyAtPc_sized (Split.applyTrailer_sized h)
      · exact Split.applyTrailer_sized h
    · exact h
  · exact h

theorem Cx.diverge_sized {c : Cx} {keep after others} (h : c.Sized) : Out.Sized (c.diverge keep after others) := by
  unfold Cx.diverge
  split
  · exact Cx.trapAt_sized h
  · split
    · exact Cx.trapAt_sized h
    · extract_lets codes csp a kids gone asp parent aw w
      have ha : a.Sized := Cx.advance_sized h
      have hkids : ∀ k ∈ kids, k.Sized := by
        intro k hk
        obtain ⟨o, -, rfl⟩ := List.mem_map.mp hk
        exact childOf_sized ha.sp
      have hw : w.Sized := List.foldlRecOn kids Warp.addSplit (ha.w.withSplits (ha.w.splits.put ha.sp))
        fun _ hv k hk => Warp.addSplit_sized hv (hkids k hk)
      exact .next (ha.s.putWarp hw)

theorem bankOf_sized {l : List (Nat × Split)} {d : Split} (hl : Tab.Each Split.Sized l) (hd : d.Sized) : (bankOf l d).Sized := by
  unfold bankOf
  dsimp only
  refine List.foldlRecOn (motive := fun b : Nat × Split => b.2.Sized) l _ hd fun b hb p hp => ?_
  split
  · split
    · exact hl p hp
    · exact hb
  · split
    · exact hl p hp
    · exact hb

theorem mergedSplit_sized {l : List (Nat × Split)} {first : Split} {pc clock} (hl : Tab.Each Split.Sized l) (hf : first.Sized) :
    (mergedSplit l first pc clock).Sized := bankOf_sized hl hf

theorem Warp.regang_sized {w : Warp} {entries pc clock} (h : w.Sized) : (w.regang entries pc clock).Sized := by
  have hf := h.splits.filter fun p => entries.contains p.1
  unfold Warp.regang
  split
  · exact h
  · next e sp rest he =>
    rw [he] at hf
    exact h.withSplits ((h.splits.filter _).put (mergedSplit_sized hf (hf (e, sp) List.mem_cons_self)))

theorem Warp.lose_sized {w : Warp} {lost} (h : w.Sized) : (w.lose lost).Sized := by
  unfold Warp.lose
  split <;> exact h

theorem resolveJoin_sized {clock : Nat} {w : Warp} {j} (h : w.Sized) : (resolveJoin clock w j).Sized := by
  unfold resolveJoin
  extract_lets x parked w1 w2
  have h1 : w1.Sized := foldl_keeps (P := Warp.Sized) (fun _ _ hk => Warp.regang_sized hk) _ h
  have h2 : w2.Sized := h1.withJoins ((List.length_set ..).trans h1.joins)
  split
  · exact Warp.refill_sized (Warp.lose_sized h2)
  · exact h

theorem testJoins_sized {w : Warp} {clock} (h : w.Sized) : (testJoins w clock).Sized :=
  foldl_keeps (P := Warp.Sized) (fun _ _ hk => resolveJoin_sized hk) _ h

theorem Cx.parkTrap_sized {c : Cx} (h : c.Sized) : Out.Sized c.parkTrap := by
  unfold Cx.parkTrap
  split
  · exact Cx.enterTrap_sized h
  · exact .next h.s

theorem checkDeadlock_sized {s : State} {wk} (h : s.Sized) : Out.Sized (checkDeadlock s wk) := by
  unfold checkDeadlock
  split
  · exact .next h
  · split
    · exact .next h
    · next he =>
      have ht := of_some he (cxOf_sized h)
      split
      · exact .next h
      · split
        · exact Cx.parkTrap_sized ht
        · exact Cx.enterTrap_sized ht

/-- The warps named in a list changed. -/
theorem State.Sized.mapWarps {s : State} (h : s.Sized) {ws : List Nat} {f : Warp → Warp} (hf : ∀ w, w.Sized → (f w).Sized) :
    State.Sized { s with warps := s.warps.map fun p => if ws.contains p.1 then (p.1, f p.2) else p } := by
  refine h.withWarps (h.warps.map fun p hp => ?_)
  split
  · exact hf _ hp
  · exact hp

theorem completeBarrier_sized {s : State} {grid ws} (h : s.Sized) : (completeBarrier s grid ws).Sized := by
  refine h.mapWarps fun w hw => hw.withSplits (hw.splits.mapVal fun sp hsp => ?_)
  split <;> exact hsp

theorem testBarriers_sized {s : State} {k} (h : s.Sized) : (testBarriers s k).Sized := by
  unfold testBarriers
  extract_lets ws s1
  have h1 : s1.Sized := by
    unfold s1
    split
    · exact completeBarrier_sized h
    · exact h
  clear_value s1
  split
  · exact h1
  · dsimp only
    split
    · exact completeBarrier_sized h1
    · exact h1

theorem exitBarriers_sized {s : State} {w} (h : s.Sized) : (exitBarriers s w).Sized := by
  unfold exitBarriers
  split
  · exact h
  · split
    · exact testBarriers_sized h
    · exact h

theorem reissueCommand_sized {c : Cx} {t f n} (h : c.Sized) : (reissueCommand t c f n).Sized := by
  unfold reissueCommand
  split
  · exact h
  · dsimp only
    split
    · exact h
    · exact h
    · exact h.withState (holdPages_sized h.s)
    · exact h

theorem reissueEntry_sized {c : Cx} {t f} (h : c.Sized) : (reissueEntry t c f).Sized := by
  unfold reissueEntry
  split
  · exact reissueCommand_sized h
  · exact ⟨foldl_keeps (P := State.Sized) (fun _ _ hk => holdOne_sized hk) _ (foldl_keeps (P := LaneRun.Sized)
      (fun _ _ hk => replayLane_sized hk) _ h.s), h.w, h.sp⟩

theorem Cx.restored_sized {c : Cx} (h : c.Sized) : c.restored.Sized := by
  unfold Cx.restored
  extract_lets t moved sp inRun u
  have hsp : sp.Sized := foldl_keeps (P := Split.Sized) (fun _ _ hk => Split.setScalar_sized hk) _ h.sp
  have htemps : Tab.Each Row.Sized (if moved = true then [] else t.savedTemps) := by
    split
    · simp [Tab.Each]
    · exact h.sp.savedTemps
  exact h.withSplit ((hsp.withTemps htemps).withTrap h.sp.savedTemps)

/-- The splits that wait in a warp's spill records take the entry that an ended split leaves. -/
theorem Cx.freed_sized {c : Cx} {k} {f : Warp → Warp} (h : c.Sized) (hf : ∀ w, w.Sized → (f w).Sized) :
    (State.updWarp (unfocus c.commitFree) k f).Sized := State.Sized.updWarp (Cx.commitFree_sized h) hf

theorem Cx.endReturn_sized {c : Cx} (h : c.Sized) : Out.Sized c.endReturn := by
  unfold Cx.endReturn
  split
  · exact .next (unfocus_sized (Cx.commit_sized h))
  · split
    · exact checkDeadlock_sized (exitBarriers_sized (Cx.freed_sized h fun _ hw => Warp.refill_sized hw))
    · exact Cx.enterTrap_sized h

theorem Cx.unpark_sized {c : Cx} (h : c.Sized) : Out.Sized c.unpark := by
  unfold Cx.unpark
  split
  · exact Cx.endReturn_sized h
  · exact .next (Cx.commit_sized h)

theorem Cx.reissued_sized {c : Cx} {t} {es : List FaultEntry} (h : c.Sized) : (es.foldl (reissueEntry t) c).settleBacks.Sized :=
  Cx.settleBacks_sized (foldl_keeps (P := Cx.Sized) (fun _ _ hk => reissueEntry_sized hk) _ h)

theorem Cx.returnFromTrap_sized {c : Cx} (h : c.Sized) : Out.Sized c.returnFromTrap := by
  have hr := Cx.reissued_sized (t := c.sp.trap) (es := c.sp.trap.entries) (Cx.restored_sized h)
  unfold Cx.returnFromTrap
  dsimp only
  generalize (c.sp.trap.entries.foldl (reissueEntry c.sp.trap) c.restored).settleBacks = r at hr
  split
  · exact .fault
  · split
    · exact Cx.endReturn_sized hr
    · split
      · split
        · refine checkDeadlock_sized (State.Sized.updWarp (unfocus_sized (Cx.commit_sized ?_)) fun _ hw => testJoins_sized hw)
          exact hr
        · exact .next (unfocus_sized (Cx.commit_sized hr))
      · exact .next (unfocus_sized (Cx.commit_sized hr))

theorem Cx.trailerTrap_sized {c : Cx} (h : c.Sized) : Out.Sized c.trailerTrap := by
  unfold Cx.trailerTrap
  split
  · exact .next (unfocus_sized (Cx.commit_sized h))
  · split
    · exact .next (unfocus_sized (Cx.commit_sized h))
    · dsimp only
      split <;> exact Cx.enterTrap_sized h

theorem Cx.leave_sized {c : Cx} (h : c.Sized) : Out.Sized c.leave := by
  have hc := Cx.settleBacks_sized h
  unfold Cx.leave
  dsimp only
  generalize c.settleBacks = d at hc
  have hready : Cx.Sized { d with sp := d.sp.readyAtPc d.sp.pc d.s.ticks } := hc
  split
  · exact .next (unfocus_sized (Cx.commit_sized hc))
  · split
    · exact Cx.trailerTrap_sized hc
    · split
      · exact .next (unfocus_sized (Cx.commit_sized hready))
      · exact .next (unfocus_sized (Cx.commit_sized hready))
      · exact .next (unfocus_sized (Cx.commit_sized hready))
      · refine checkDeadlock_sized (State.Sized.updWarp (unfocus_sized (Cx.commit_sized ?_)) fun _ hw => testJoins_sized hw)
        exact hready
      · exact Cx.returnFromTrap_sized hc
      · split
        · exact .next (endFarTask_sized (Cx.commit_sized hc))
        · exact .next (unfocus_sized (Cx.commit_sized hready))
      · split
        · exact checkDeadlock_sized (exitBarriers_sized (Cx.freed_sized hc fun _ hw =>
            testJoins_sized (Warp.refill_sized hw)))
        · exact .next (unfocus_sized (Cx.commit_sized hready))

theorem Warp.mapPends_sized {w : Warp} {f} (h : w.Sized) : (w.mapPends f).Sized := by
  refine h.withSplitsSpill (h.splits.mapVal fun _ hsp => hsp) fun x hx => ?_
  obtain ⟨y, hy, rfl⟩ := List.mem_map.mp hx
  exact h.spill y hy

theorem settleSpilled_sized {s : State} {wk k} (h : s.Sized) : (settleSpilled s wk k).Sized := by
  unfold settleSpilled
  split
  · exact h
  · next w hw =>
    split
    · exact h
    · next x rest hx =>
      have hxs : x.split.Sized := (h.warp hw).spill x (List.mem_of_mem_drop (hx ▸ List.mem_cons_self))
      extract_lets c over_ sp
      have hc : c.Sized := Cx.settleBacks_sized ⟨h, h.warp hw, hxs⟩
      clear_value c
      have hsp : sp.Sized := by
        unfold sp
        split
        · exact Split.readyAtPc_sized hc.sp
        · exact hc.sp
      refine h.putWarp (hc.w.withSpill fun y hy => ?_)
      obtain hy | rfl := List.mem_or_eq_of_mem_set hy
      · exact hc.w.spill y hy
      · exact hsp

theorem settleWarp_sized {s : State} {wk} (h : s.Sized) : (settleWarp s wk).Sized := by
  unfold settleWarp
  refine foldl_keeps (P := State.Sized) (fun a b hk => ?_) _ ?_
  · exact settleSpilled_sized hk
  · refine foldl_keeps (P := State.Sized) (fun a b hk2 => ?_) _ ?_
    · split
      · next he => exact Cx.commit_sized (Cx.settleBacks_sized (of_some he (cxOf_sized hk2)))
      · exact hk2
    · exact h

theorem Cx.trailer_sized {c : Cx} {codes} (h : c.Sized) : Out.Sized (c.trailer codes) :=
  Cx.leave_sized (h.withSplit (Split.applyTrailer_sized h.sp))


/-! ### Control: what its operations leave of the register tables -/

theorem Cx.goto_sized {c : Cx} {t} (h : c.Sized) : Out.Sized (c.goto t) := by
  unfold Cx.goto
  split
  · exact Cx.trapBefore_sized h
  · exact Cx.done_sized h

theorem Cx.fallThrough_sized {c : Cx} (h : c.Sized) : Out.Sized c.fallThrough := Cx.done_sized h

theorem execBr_sized {s : State} {off} (h : s.Sized) : Out.Sized (execBr off s) :=
  issueSplit_sized h (fun _ hk => Cx.goto_sized hk)

theorem execCall_sized {s : State} {off} (h : s.Sized) : Out.Sized (execCall off s) := by
  unfold execCall
  refine issueSplit_sized h (fun c hc => ?_)
  dsimp only
  split
  · exact Cx.goto_sized hc
  · exact Cx.goto_sized (Cx.putScalar64_sized hc)

theorem execRet_sized {s : State} {a} (h : s.Sized) : Out.Sized (execRet a s) :=
  issueSplit_sized h (fun _ hk => Cx.goto_sized hk)

theorem execBrxU_sized {s : State} {a} (h : s.Sized) : Out.Sized (execBrxU a s) :=
  issueSplit_sized h (fun _ hk => Cx.goto_sized hk)

theorem execBrc_sized {s : State} {cc r off} (h : s.Sized) : Out.Sized (execBrc cc r off s) := by
  unfold execBrc
  refine issueSplit_sized h (fun c hc => ?_)
  split
  · exact Cx.goto_sized hc
  · exact Cx.fallThrough_sized hc

theorem execBra_sized {s : State} {k n off} (h : s.Sized) : Out.Sized (execBra k n off s) := by
  unfold execBra
  refine issueSplit_sized h (fun c hc => ?_)
  dsimp only
  split
  · exact Cx.trapAt_sized hc
  · split
    · exact Cx.fallThrough_sized hc
    · split
      · exact Cx.goto_sized hc
      · split
        · exact Cx.goto_sized hc
        · exact Cx.diverge_sized hc

theorem execBrx_sized {s : State} {a b} (h : s.Sized) : Out.Sized (execBrx a b s) := by
  unfold execBrx
  refine issueSplit_sized h (fun c hc => ?_)
  dsimp only
  split
  · exact Cx.trapAt_sized hc
  · split
    · exact Cx.trapBefore_sized hc
    · split
      · exact Cx.trapAt_sized hc
      · split
        · exact Cx.fallThrough_sized hc
        · exact Cx.goto_sized hc
        · exact Cx.diverge_sized hc

theorem Cx.releasing_sized {c : Cx} {scope k} (h : c.Sized) (hk : ∀ c0, c0.Sized → Out.Sized (k c0)) :
    Out.Sized (c.releasing scope k) := by
  unfold Cx.releasing
  split
  · exact hk _ h
  · exact Cx.stall_sized h

theorem Warp.putJoin_sized {w : Warp} {j x clean} (h : w.Sized) : (w.putJoin j x clean).Sized :=
  h.withJoins ((List.length_set ..).trans h.joins)

theorem Cx.joined_sized {c : Cx} {w : Warp} (h : c.Sized) (hw : w.Sized) : (c.joined w).Sized := h.withWarp (testJoins_sized hw)

theorem execJarm_sized {s : State} {j} (h : s.Sized) : Out.Sized (execJarm j s) :=
  issueSplit_sized h (fun _ hk => Cx.done_sized (Cx.joined_sized hk (Warp.putJoin_sized hk.w)))

theorem execJarv_sized {s : State} {j} (h : s.Sized) : Out.Sized (execJarv j s) := by
  unfold execJarv
  refine issueSplit_sized h (fun c hc => ?_)
  split
  · exact Cx.trapAt_sized hc
  · refine Cx.releasing_sized hc (fun c2 hc2 => ?_)
    dsimp only
    split
    · exact Cx.done_sized hc2
    · exact Cx.done_sized (Cx.joined_sized hc2 (Warp.putJoin_sized hc2.w))

theorem execJwait_sized {s : State} {j} (h : s.Sized) : Out.Sized (execJwait j s) := by
  unfold execJwait
  refine issueSplit_sized h (fun c hc => ?_)
  split
  · exact Cx.trapAt_sized hc
  · refine Cx.releasing_sized hc (fun c2 hc2 => ?_)
    extract_lets x w sp
    have hw : w.Sized := by
      unfold w
      split
      · exact hc2.w
      · exact Warp.putJoin_sized hc2.w
    exact Cx.done_sized ⟨hc2.s, hw, hc2.sp⟩

theorem execJclr_sized {s : State} {j} (h : s.Sized) : Out.Sized (execJclr j s) := by
  unfold execJclr
  refine issueSplit_sized h (fun c hc => Cx.done_sized (hc.withWarp (Warp.lose_sized (Warp.putJoin_sized ?_))))
  refine hc.w.withSplits (hc.w.splits.mapVal fun sp hsp => ?_)
  split
  · exact Split.readyAtPc_sized hsp
  · exact hsp

theorem execYield_sized {s : State} (h : s.Sized) : Out.Sized (execYield s) :=
  issueSplit_sized h (fun _ hk => Cx.done_sized hk)

theorem execTrap_sized {s : State} {n} (h : s.Sized) : Out.Sized (execTrap n s) :=
  issueSplit_sized h (fun _ hk => Cx.trapAfter_sized hk)

theorem requestPreempt_sized {s : State} {k} (h : s.Sized) : (requestPreempt s k).Sized := by
  unfold requestPreempt
  split <;> exact h

theorem Cx.debugStop_sized {c : Cx} {n k} (h : c.Sized) : Out.Sized (c.debugStop n k) :=
  .next (requestPreempt_sized (Cx.commit_sized (Cx.advance_sized h)))

theorem execBrk_sized {s : State} {n} (h : s.Sized) : Out.Sized (execBrk n s) := by
  unfold execBrk
  refine issueSplit_sized h (fun c hc => ?_)
  split
  · split
    · exact Cx.faultTrap_sized hc
    · exact Cx.debugStop_sized hc
  · exact Cx.trapAfter_sized hc

theorem execTret_sized {s : State} (h : s.Sized) : Out.Sized (execTret s) := by
  unfold execTret
  refine issueSplit_sized h (fun c hc => ?_)
  split
  · exact Cx.trapAt_sized hc
  · split
    · exact Cx.trapAt_sized hc
    · exact Cx.done_sized hc

theorem execMode_sized {s : State} {d k} (h : s.Sized) : Out.Sized (execMode d k s) :=
  issueSplit_sized h (fun _ hk => Cx.done_sized hk)

theorem execEndRun_sized {s : State} {a b d} (h : s.Sized) : Out.Sized (execEndRun a b d s) := by
  unfold execEndRun
  refine issueSplit_sized h (fun c hc => ?_)
  dsimp only
  split
  · exact Cx.stay_sized hc
  · split
    · exact Cx.trapAt_sized hc
    · exact Cx.trailer_sized hc

theorem execWordNotAnInstruction_sized {s : State} {w} (h : s.Sized) : Out.Sized (execWordNotAnInstruction w s) := by
  unfold execWordNotAnInstruction
  split
  · exact .next h
  · split
    · exact .next h
    · next he =>
      have ht := of_some he (cxOf_sized h)
      split
      · exact .next h
      · split
        · exact Cx.faultTrap_sized ht
        · split
          · exact Cx.stay_sized ht
          · exact Cx.trapAt_sized ht
  · split
    · exact .next h
    · next he =>
      have ht := of_some he (exOf_sized h)
      split
      · exact .next h
      · exact Ex.stop_sized ht


/-! ### Barrier: what its operations leave of the register tables -/

theorem Cx.withObject_sized {c : Cx} {addr align n k} (h : c.Sized) (hk : ∀ v0, Out.Sized (k v0)) :
    Out.Sized (c.withObject addr align n k) := by
  unfold Cx.withObject
  split
  · exact Cx.trapAt_sized h
  · exact hk _
  · exact Cx.trapAt_sized h

theorem execBarInit_sized {s : State} {a b} (h : s.Sized) : Out.Sized (execBarInit a b s) := by
  unfold execBarInit
  refine issueSplit_sized h (fun c hc => ?_)
  dsimp only
  refine Cx.withObject_sized hc (fun _ => ?_)
  split
  · exact Cx.trapAt_sized hc
  · exact Cx.done_sized hc

theorem execBarArv_sized {s : State} {d a b} (h : s.Sized) : Out.Sized (execBarArv d a b s) :=
  issueSplit_sized h (fun _ hk => Cx.withObject_sized hk (fun _ => Cx.releasing_sized hk (fun _ hk2 =>
    Cx.scalarDone_sized hk2 (Cx.putScalar_sized hk2))))

theorem execBarWait_sized {s : State} {d a b} (h : s.Sized) : Out.Sized (execBarWait d a b s) := by
  unfold execBarWait
  refine issueSplit_sized h (fun c hc => ?_)
  dsimp only
  refine Cx.withObject_sized hc (fun _ => ?_)
  split
  · exact Cx.trapAt_sized hc
  · split
    · exact Cx.stall_sized hc
    · exact Cx.scalarDone_sized hc (Cx.putScalar64_sized hc)

theorem execKbar_sized {s : State} (h : s.Sized) : Out.Sized (execKbar s) := by
  unfold execKbar
  refine issueSplit_sized h (fun c hc => ?_)
  split
  · exact Cx.done_sized hc
  · refine Cx.releasing_sized hc (fun c2 hc2 => ?_)
    dsimp only
    refine .next ?_
    split
    · exact completeBarrier_sized (unfocus_sized (Cx.commit_sized hc2))
    · exact unfocus_sized (Cx.commit_sized hc2)

theorem execGbar_sized {s : State} (h : s.Sized) : Out.Sized (execGbar s) := by
  unfold execGbar
  refine issueSplit_sized h (fun c hc => ?_)
  split
  · exact Cx.done_sized hc
  · split
    · exact Cx.trapAt_sized hc
    · refine Cx.releasing_sized hc (fun c2 hc2 => ?_)
      dsimp only
      refine .next ?_
      split
      · exact completeBarrier_sized (unfocus_sized (Cx.commit_sized hc2))
      · exact unfocus_sized (Cx.commit_sized hc2)
  · exact Cx.trapAt_sized hc


/-! ### Loads: what its operations leave of the register tables -/

theorem globalLoad_sized {st : State} {i d a s bytes regs signed} (h : st.Sized) :
    Out.Sized (globalLoad i st d a s bytes regs signed) := issueSplit_sized h (fun _ hk => Cx.global_sized hk)

theorem execSt_sized {st : State} {d a s z} (h : st.Sized) : Out.Sized (execSt d a s z st) :=
  issueSplit_sized h (fun _ hk => Cx.global_sized hk)

theorem Cx.localAccess_sized {c : Cx} {n addr k} (h : c.Sized) (hk : ∀ v0, Out.Sized (k v0)) :
    Out.Sized (c.localAccess n addr k) := by
  unfold Cx.localAccess
  split
  · exact Cx.trapAt_sized h
  · split
    · exact Cx.trapAt_sized h
    · split
      · exact hk _
      · exact Cx.trapAt_sized h

theorem Cx.scratchLoad_sized {c : Cx} {opcode look d vals} (h : c.Sized) :
    (c.scratchLoad opcode look d vals).Sized := by
  unfold Cx.scratchLoad
  dsimp only
  split <;> exact h

theorem localLoad_sized {st : State} {i d a s bytes regs} (h : st.Sized) :
    Out.Sized (localLoad i st d a s bytes regs) :=
  issueSplit_sized h (fun _ hk => Cx.localAccess_sized hk (fun _ => Cx.done_sized (Cx.scratchLoad_sized hk)))

theorem storeScratch_sized {s : State} {k n addr data lanes} (h : s.Sized) :
    (storeScratch s k n addr data lanes).Sized := by
  unfold storeScratch
  refine foldl_keeps (P := State.Sized) (fun a b hk => ?_) _ ?_
  · exact hk
  · exact h

theorem execStl_sized {st : State} {d a s z} (h : st.Sized) : Out.Sized (execStl d a s z st) := by
  unfold execStl
  refine issueSplit_sized h (fun c hc => ?_)
  dsimp only
  refine Cx.localAccess_sized hc (fun _ => ?_)
  split
  · exact Cx.trapAt_sized hc
  · exact Cx.done_sized (hc.withState (storeScratch_sized hc.s))

theorem Cx.scalarLoad_sized {c : Cx} {opcode look n d addr} (h : c.Sized) :
    Out.Sized (Cx.scalarLoad c opcode look n d addr) := by
  unfold Cx.scalarLoad
  dsimp only
  split
  · exact Cx.trapAt_sized h
  · split
    · exact Cx.trapAt_sized h
    · split
      · exact Cx.stall_sized h
      · split
        · next he =>
          split at he
          · cases he
          · have ht := Access.sized_of_ok he (accessLane_sized h.s)
            exact Cx.done_sized (Cx.newPend_sized (h.withState ht))
        · split
          · exact Cx.stall_sized h
          · have hq : (c.newPend opcode look { vector := false, base := d, count := n / 4 }
              (List.replicate (n / 4) [none]) 1 false).1.Sized := Cx.newPend_sized h
            exact Cx.done_sized (hq.withState (holdOne_sized hq.s))
        · exact Cx.done_sized h
        · exact Cx.trapAt_sized h
        · exact .fault

theorem Ex.hold_sized {x : Ex} {p h addr write} (hx : x.Sized) : Out.Sized (x.hold p h addr write) := by
  unfold Ex.hold
  split
  · exact Ex.wait_sized hx
  · split
    · exact Ex.wait_sized hx
    · exact .next (holdOne_sized (Ex.commit_sized hx))

theorem Ex.scalarLoad_sized {x : Ex} {n d addr} (h : x.Sized) : Out.Sized (x.scalarLoad n d addr) := by
  unfold Ex.scalarLoad
  split
  · exact Ex.stop_sized h
  · dsimp only
    split
    · next he =>
      have ht := Access.sized_of_ok he (accessLane_sized h.1)
      exact Ex.done_sized (foldl_keeps (P := Ex.Sized) (fun _ _ hk => Ex.putScalar_sized hk) _ ⟨ht, h.2⟩)
    · exact Ex.hold_sized h
    · exact Ex.stop_sized h
    · exact Ex.stop_sized h
    · exact .fault

theorem execLdc_sized {s : State} {d p w l} (h : s.Sized) : Out.Sized (execLdc d p w l s) := by
  unfold execLdc
  dsimp only
  refine issue_sized h (fun c hc => ?_) (fun c2 hc2 => ?_)
  · split
    · exact Cx.trapAt_sized hc
    · exact Cx.scalarLoad_sized hc
  · split
    · exact Ex.stop_sized hc2
    · exact Ex.scalarLoad_sized hc2

theorem execSld_sized {st : State} {d p a s l} (h : st.Sized) : Out.Sized (execSld d p a s l st) :=
  issue_sized h (fun _ hk => Cx.scalarLoad_sized hk) (fun _ hk => Ex.scalarLoad_sized hk)

theorem Cx.queueAccess_sized {c : Cx} {q n off k} (h : c.Sized) (hk : ∀ v0 v1 v2, Out.Sized (k v0 v1 v2)) :
    Out.Sized (c.queueAccess q n off k) := by
  unfold Cx.queueAccess
  split
  · split
    · exact Cx.trapAt_sized h
    · split
      · exact Cx.trapAt_sized h
      · split
        · exact Cx.trapAt_sized h
        · exact hk _ _ _
  · exact Cx.trapAt_sized h

theorem execStlQ_sized {s : State} {d a cm w q} (h : s.Sized) : Out.Sized (execStlQ d a cm w q s) := by
  unfold execStlQ
  refine issueSplit_sized h (fun c hc => ?_)
  extract_lets n row off data shadow
  refine Cx.queueAccess_sized hc (fun _ _ _ => ?_)
  split
  · exact Cx.trapAt_sized hc
  · extract_lets slot x1 c1 store
    have h1 : c1.Sized := hc
    have hstore (y : Cx) (hy : y.Sized) : (store y).Sized := hy.withState (storeScratch_sized hy.s)
    clear_value c1 store
    split
    · exact Cx.stall_sized h1
    · split
      · exact Cx.releasing_sized h1 (fun _ hk => Cx.done_sized (hstore _ hk))
      · exact Cx.done_sized (hstore _ h1)

theorem execLdlQ_sized {s : State} {d a f w q l} (h : s.Sized) : Out.Sized (execLdlQ d a f w q l s) := by
  unfold execLdlQ
  refine issueSplit_sized h (fun c hc => ?_)
  dsimp only
  refine Cx.queueAccess_sized hc (fun _ _ _ => ?_)
  split
  · exact Cx.stall_sized hc
  · refine Cx.done_sized ?_
    refine Cx.scratchLoad_sized ?_
    split <;> exact hc


/-! ### Atomics: what its operations leave of the register tables -/

theorem atomOp_sized {st : State} {i op d a s} (h : st.Sized) : Out.Sized (atomOp i st op d a s) :=
  issueSplit_sized h (fun _ hk => Cx.global_sized hk)

theorem execRed_sized {st : State} {d a s o} (h : st.Sized) : Out.Sized (execRed d a s o st) :=
  issueSplit_sized h (fun _ hk => Cx.global_sized hk)

theorem atomlLane_sized {k op n code addr data data2} {a : State × List LaneVal} {i} (h : a.1.Sized) :
    (atomlLane k op n code addr data data2 a i).1.Sized := by
  unfold atomlLane
  split
  · exact h
  · exact h

theorem Cx.poisonRow_sized {c : Cx} {r m} (h : c.Sized) : (c.poisonRow r m).Sized := by
  unfold Cx.poisonRow
  split
  · exact h
  · split <;> exact h

theorem execAtoml_sized {st : State} {d a o} (h : st.Sized) : Out.Sized (execAtoml d a o st) := by
  unfold execAtoml
  refine issueSplit_sized h (fun c hc => Cx.localAccess_sized hc fun k => ?_)
  split
  · exact Cx.trapAt_sized hc
  · refine Cx.done_sized (foldl_keeps (P := Cx.Sized) (fun _ _ h1 => Cx.poisonRow_sized (Cx.putRow_sized h1)) _ ?_)
    exact ⟨foldl_keeps (P := fun r : State × List LaneVal => r.1.Sized) (fun _ _ h1 => atomlLane_sized h1) _ hc.s, hc.w,
      hc.sp⟩

theorem execXatAdd_sized {st : State} {d a s} (h : st.Sized) : Out.Sized (execXatAdd d a s st) :=
  issueSplit_sized h (fun _ hk => Cx.global_sized hk)

theorem execXatRed_sized {st : State} {d a s o} (h : st.Sized) : Out.Sized (execXatRed d a s o st) :=
  issueSplit_sized h (fun _ hk => Cx.global_sized hk)

theorem execXatRmw_sized {st : State} {d a s l} (h : st.Sized) : Out.Sized (execXatRmw d a s l st) :=
  issueSplit_sized h (fun _ hk => Cx.global_sized hk)

theorem execXwait_sized {s : State} (h : s.Sized) : Out.Sized (execXwait s) := by
  unfold execXwait
  refine issueSplit_sized h (fun c hc => ?_)
  dsimp only
  split
  · split
    · exact Cx.stall_sized hc
    · exact Cx.done_sized hc
  · split
    · exact Cx.stall_sized hc
    · exact Cx.done_sized hc

theorem execNearOperationPerformed_sized {s : State} {n} (h : s.Sized) :
    Out.Sized (execNearOperationPerformed n s) := by
  unfold execNearOperationPerformed
  split
  · exact .next h
  · exact .next (performNear_sized (performAll_sized h))


/-! ### Copy: what its operations leave of the register tables -/

/-- A workgroup changed but for its engine program. -/
theorem State.Sized.updWgRest {s : State} (h : s.Sized) {k : Nat} {f : Workgroup → Workgroup}
    (hf : ∀ g, (f g).engine = g.engine) : State.Sized { s with wgs := Tab.upd s.wgs k f } :=
  h.updWg fun g hg e he => hg e ((hf g).symm.trans he)

theorem updCounter_sized {s : State} {g k f} (h : s.Sized) : (updCounter s g k f).Sized := h.updWgRest fun _ => rfl

theorem newCommand_sized {s : State} {g wk k kind barrier asid} (h : s.Sized) :
    (newCommand s g wk k kind barrier asid).1.Sized := updCounter_sized h

theorem Cx.putNumber_sized {c : Cx} {a n} (h : c.Sized) : (c.putNumber a n).Sized := by
  unfold Cx.putNumber
  split
  · exact h
  · exact Cx.putScalar64_sized h

theorem recordFault_engine (cause : Nat) (x : Cmd) (g : Workgroup) : (recordFault cause x g).engine = g.engine := by
  unfold recordFault
  split <;> rfl

theorem engineArrive_sized {s : State} {k a b n} (h : s.Sized) : (engineArrive s k a b n).Sized := h

theorem finishCommand_sized {s : State} {n x status fault} (h : s.Sized) :
    (finishCommand s n x status fault).Sized := by
  unfold finishCommand
  extract_lets k s1 s2 s3 s4
  have h1 : s1.Sized := by
    unfold s1
    split
    · exact orStatusAt_sized h
    · exact h
  have h2 : s2.Sized := by
    unfold s2
    split
    · exact h1.updWgRest (recordFault_engine _ _)
    · exact h1
  have h4 : s4.Sized := by
    unfold s4
    split
    · exact engineArrive_sized (updCounter_sized h2)
    · exact updCounter_sized h2
  exact h4

theorem endEmpty_sized {s : State} {n} (h : s.Sized) : (endEmpty s n).Sized := by
  unfold endEmpty
  split
  · exact finishCommand_sized h
  · exact h

theorem readGlobal_sized {s : State} {p wk ps} (h : s.Sized) : (readGlobal p wk s ps).Sized := by
  induction ps generalizing s with
  | nil => exact .ok h
  | cons q ps ih =>
    unfold readGlobal
    split
    · next he =>
      have ht := Access.sized_of_ok he (accessLane_sized h)
      split
      · next he2 => exact .ok (Elem.sized_of_ok he2 (ih ht))
      · exact ih ht
    · exact .replay
    · exact .stop
    · exact .stop
    · exact .hole

theorem writeObstacle_sized {s : State} {p ps} : IfSome Elem.Sized (writeObstacle s p ps) := by
  induction ps with
  | nil => exact .none
  | cons q ps ih =>
    unfold writeObstacle
    split
    · exact .some .stop
    · exact .some .replay
    · exact .some .stop
    · exact .some .stop
    · exact .some .hole
    · exact .some .page
    · exact ih

theorem writePieces_sized {s : State} {p wk ps bs bad} (h : s.Sized) : (writePieces p wk s ps bs bad).Sized := by
  induction ps generalizing s bs bad with
  | nil => exact h
  | cons q ps ih =>
    unfold writePieces
    dsimp only
    split
    · next he => exact ih (Access.sized_of_ok he (accessLane_sized h))
    · exact h
    · exact h
    · exact h
    · exact h

theorem writeWhole_sized {s : State} {p wk poison addr bs} (h : s.Sized) :
    (writeWhole p wk poison s addr bs).Sized := by
  unfold writeWhole
  split
  · exact writeLoc_sized (beforeAccess_sized (flushNear_sized h))
  · exact h
  · exact h
  · exact h
  · exact h

theorem writeGlobal_sized {s : State} {p wk addr bs bad} (h : s.Sized) : (writeGlobal s p wk addr bs bad).Sized := by
  unfold writeGlobal
  split
  · dsimp only
    split
    · next he => exact of_some he writeObstacle_sized
    · exact .ok (writeWhole_sized h)
  · dsimp only
    split
    · next he => exact of_some he writeObstacle_sized
    · exact .ok (writePieces_sized h)

theorem readElem_sized {s : State} {p wk g space addr n} (h : s.Sized) : (readElem s p wk g space addr n).Sized := by
  unfold readElem
  split
  · exact readGlobal_sized h
  · dsimp only
    split
    · exact .stop
    · split
      · split
        · exact .stop
        · split
          · exact .stop
          · split
            · exact .stop
            · exact .ok h
      · split
        · exact .stop
        · exact .ok h

theorem writeElem_sized {s : State} {p wk g space addr bs bad} (h : s.Sized) :
    (writeElem s p wk g space addr bs bad).Sized := by
  unfold writeElem
  split
  · exact writeGlobal_sized h
  · dsimp only
    split
    · exact .stop
    · next x hx =>
      split
      · split
        · exact .stop
        · split
          · exact .stop
          · split
            · exact .stop
            · exact .ok h
      · split
        · exact .stop
        · have hg : x.Sized := h.wg hx
          exact .ok (h.putWg hg)

theorem sourceAt_sized {s : State} {s0 p n x space addr bytes e} (h : s.Sized) :
    (sourceAt s0 s p n x space addr bytes e).Sized := by
  unfold sourceAt
  split
  · next he _ =>
    have ht := Elem.sized_of_ok he (readElem_sized h)
    split
    · exact .ok ht
    · split <;> exact .ok ht
  · exact readElem_sized h

theorem copySource_sized {s : State} {s0 p n x e} (h : s.Sized) : (copySource s0 s p n x e).Sized := by
  unfold copySource
  split
  · dsimp only
    split
    · exact .ok h
    · split
      · exact sourceAt_sized h
      · exact .ok h
  · exact sourceAt_sized h
  · exact .ok h

theorem copyFrom_sized {s : State} {s0 p n x left e b} (h : s.Sized) : (copyFrom s0 p n x left e s b).Sized := by
  induction left generalizing s e b with
  | zero => exact h
  | succ left ih =>
    unfold copyFrom
    split
    · next he =>
      have ht := Elem.sized_of_ok he (copySource_sized h)
      split
      · next he2 => exact ih (Elem.sized_of_ok he2 (writeElem_sized ht))
      · exact ht
    · exact h

theorem holdCommand_sized {s : State} {p n h addr write} (hs : s.Sized) : (holdCommand s p n h addr write).Sized := by
  unfold holdCommand
  split
  · exact hs
  · exact holdOne_sized hs

theorem execCopyCommandComplete_sized {s : State} {n} (h : s.Sized) : Out.Sized (execCopyCommandComplete n s) := by
  unfold execCopyCommandComplete
  split
  · exact .next h
  · split
    · exact .next h
    · split
      · exact .next (finishCommand_sized h)
      · split
        · exact .next h
        · dsimp only
          split
          · exact .next (finishCommand_sized (copyFrom_sized h))
          · exact .next (finishCommand_sized (copyFrom_sized h))
          · exact .next (holdCommand_sized (copyFrom_sized h))
          · exact .next (wantPage_sized (copyFrom_sized h))
          · exact .fault
          · exact .next (copyFrom_sized h)

theorem copyIssue_sized {st : State} {i zero k a b e} (h : st.Sized) : Out.Sized (copyIssue i st zero k a b e) := by
  unfold copyIssue
  refine issueSplit_sized h (fun c hc => ?_)
  refine Cx.releasing_sized hc (fun c2 hc2 => ?_)
  dsimp only
  split
  · exact Cx.trapAt_sized hc2
  · split
    · exact Cx.trapAt_sized hc2
    · split
      · exact Cx.trapAt_sized hc2
      · split
        · exact Cx.trapAt_sized hc2
        · split
          · exact Cx.trapAt_sized hc2
          · refine Cx.scalarDone_sized hc2 ?_
            refine Cx.putNumber_sized ?_
            refine hc2.withState ?_
            split
            · exact endEmpty_sized (newCommand_sized hc2.s)
            · exact newCommand_sized hc2.s

theorem execMrd_sized {s : State} {iss k a} (h : s.Sized) : Out.Sized (execMrd iss k a s) := by
  unfold execMrd
  refine issueSplit_sized h (fun c hc => ?_)
  dsimp only
  split
  · exact Cx.trapAt_sized hc
  · exact Cx.scalarDone_sized hc (Cx.putScalar64_sized hc)

theorem execMwait_sized {s : State} {o k a} (h : s.Sized) : Out.Sized (execMwait o k a s) := by
  unfold execMwait
  refine issueSplit_sized h (fun c hc => ?_)
  dsimp only
  split
  · exact Cx.trapAt_sized hc
  · split
    · exact Cx.done_sized hc
    · exact Cx.stall_sized hc

theorem execMstep_sized {s : State} {o k a} (h : s.Sized) : Out.Sized (execMstep o k a s) :=
  issueSplit_sized h (fun _ hk => Cx.scalarDone_sized hk (Cx.putNumber_sized (hk.withState (newCommand_sized hk.s))))

theorem execMstepComplete_sized {s : State} {n} (h : s.Sized) : Out.Sized (execMstepComplete n s) := by
  unfold execMstepComplete
  split
  · exact .next h
  · split
    · split
      · exact .next (finishCommand_sized h)
      · exact .next h
    · exact .next h

theorem execWriteAcknowledged_sized {s : State} {wk scope} (h : s.Sized) :
    Out.Sized (execWriteAcknowledged wk scope s) := by
  unfold execWriteAcknowledged
  split
  · split
    · exact .next h
    · next e he =>
      obtain ⟨g, hg, hge⟩ := Option.bind_eq_some_iff.mp he
      have hes : e.Sized := h.wg hg e hge
      exact .next (h.withWgs (h.wgs.upd fun _ _ => Workgroup.sized_of_engine rfl hes))
  · split
    · exact .next h
    · next w hw =>
      split
      · exact .next h
      · have hws : w.Sized := h.warp hw
        exact .next (h.withWarps (h.warps.put hws))

theorem execFence_sized {s : State} {o sc} (h : s.Sized) : Out.Sized (execFence o sc s) := by
  unfold execFence
  refine issueSplit_sized h (fun c hc => ?_)
  split
  · exact Cx.stall_sized hc
  · split
    · exact Cx.done_sized hc
    · exact Cx.releasing_sized hc (fun _ hk => Cx.done_sized hk)

theorem execPref_sized {s : State} {v a b} (h : s.Sized) : Out.Sized (execPref v a b s) :=
  issueSplit_sized h (fun _ hk => Cx.done_sized hk)

theorem execCinv_sized {s : State} {v a b} (h : s.Sized) : Out.Sized (execCinv v a b s) :=
  issueSplit_sized h (fun _ hk => Cx.done_sized hk)

theorem execCwb_sized {s : State} {v a b} (h : s.Sized) : Out.Sized (execCwb v a b s) := by
  unfold execCwb
  refine issueSplit_sized h (fun c hc => ?_)
  split <;> exact Cx.done_sized hc


/-! ### System: what its operations leave of the register tables -/

theorem execSrd_sized {s : State} {a n} (h : s.Sized) : Out.Sized (execSrd a n s) := by
  unfold execSrd
  refine issueSplit_sized h (fun c hc => ?_)
  split
  · exact Cx.trapAt_sized hc
  · split
    · exact Cx.trapAt_sized hc
    · exact Cx.scalarDone_sized hc (Cx.putScalar_sized hc)

theorem Cx.updWg_sized {c : Cx} {f} (h : c.Sized) (hf : ∀ g : Workgroup, (f g).engine = g.engine) : (c.updWg f).Sized :=
  h.withState (h.s.updWgRest hf)

theorem Cx.writeCtl_sized {c : Cx} {n v} (h : c.Sized) : IfSome Cx.Sized (c.writeCtl n v) := by
  unfold Cx.writeCtl
  dsimp only
  split
  · exact .some h
  · split
    · exact .some h
    · split
      · exact .some (Cx.updWg_sized h fun _ => rfl)
      · split
        · exact .some h
        · split
          · exact .some h
          · split
            · exact .some h
            · split
              · exact .some (Cx.updWg_sized h fun _ => rfl)
              · split
                · exact .some (Cx.updWg_sized h fun _ => rfl)
                · split
                  · exact .some (Cx.updWg_sized h fun _ => rfl)
                  · exact .none

theorem execSwr_sized {s : State} {a n} (h : s.Sized) : Out.Sized (execSwr a n s) := by
  unfold execSwr
  refine issueSplit_sized h (fun c hc => ?_)
  dsimp only
  split
  · exact Cx.trapAt_sized hc
  · split
    · next he => exact Cx.done_sized (of_some he (Cx.writeCtl_sized hc))
    · exact Cx.trapAt_sized hc

theorem execCtlModeWrite_sized {s : State} {a} (h : s.Sized) : Out.Sized (execCtlModeWrite a s) := by
  unfold execCtlModeWrite
  refine issueSplit_sized h (fun c hc => ?_)
  dsimp only
  split
  · exact Cx.trapAt_sized hc
  · exact Cx.done_sized hc

theorem execCtlCpyfltWrite_sized {s : State} {a} (h : s.Sized) : Out.Sized (execCtlCpyfltWrite a s) := by
  unfold execCtlCpyfltWrite
  refine issueSplit_sized h (fun c hc => ?_)
  dsimp only
  split
  · exact Cx.trapAt_sized hc
  · split <;> exact Cx.done_sized (Cx.updWg_sized hc fun _ => rfl)

theorem execCtlEstWrite_sized {s : State} {a} (h : s.Sized) : Out.Sized (execCtlEstWrite a s) := by
  unfold execCtlEstWrite
  refine issueSplit_sized h (fun c hc => ?_)
  split
  · exact Cx.trapAt_sized hc
  · split
    · exact Cx.done_sized hc
    · exact Cx.done_sized (Cx.updWg_sized hc fun _ => rfl)

theorem completeStopped_sized {s : State} {entries} (h : s.Sized) : (completeStopped s entries).Sized := by
  unfold completeStopped
  refine foldl_keeps (P := State.Sized) (fun a b hk => ?_) _ ?_
  · split
    · exact endEmpty_sized hk
    · exact hk
  · exact h

theorem execExit_sized {s : State} (h : s.Sized) : Out.Sized (execExit s) := by
  unfold execExit
  refine issueSplit_sized h (fun c hc => ?_)
  refine Cx.releasing_sized hc (fun c2 hc2 => ?_)
  extract_lets gone left tr trap trap1 csp sp st cw c3
  have hs : st.Sized := by
    unfold st
    split
    · exact completeStopped_sized hc2.s
    · exact hc2.s
  have hw : c3.w.Sized := hc2.w
  have htrap : Tab.Each Row.Sized (if tr.handler then trap1 else tr).savedTemps := by
    unfold trap1 trap
    split <;> exact hc2.sp.savedTemps
  have hsp : sp.Sized := hc2.sp.withTrap htrap
  exact Cx.done_sized (Cx.joined_sized ⟨hs, hw, hsp⟩ hw)

theorem Cx.discardEntries_sized {c : Cx} (h : c.Sized) : c.discardEntries.Sized :=
  ⟨completeStopped_sized h.s, h.w, h.sp⟩

theorem execCtlTcauseWrite_sized {s : State} {a} (h : s.Sized) : Out.Sized (execCtlTcauseWrite a s) := by
  unfold execCtlTcauseWrite
  refine issueSplit_sized h (fun c hc => ?_)
  split
  · exact Cx.trapAt_sized hc
  · split
    · exact Cx.done_sized hc
    · split
      · exact Cx.done_sized (Cx.discardEntries_sized hc)
      · exact Cx.done_sized hc

theorem execSbnd_sized {s : State} {t n a b} (h : s.Sized) : Out.Sized (execSbnd t n a b s) :=
  issueSplit_sized h (fun _ hk => Cx.done_sized (Cx.updWg_sized hk fun _ => rfl))

theorem execClk_sized {s : State} {a core} (h : s.Sized) : Out.Sized (execClk a core s) :=
  issueSplit_sized h (fun _ hk => Cx.scalarDone_sized hk (Cx.putScalar64_sized hk))

theorem execSleep_sized {s : State} {a} (h : s.Sized) : Out.Sized (execSleep a s) := by
  unfold execSleep
  refine issueSplit_sized h (fun c hc => ?_)
  dsimp only
  split
  · exact Cx.done_sized hc
  · exact Cx.stall_sized hc
  · split
    · exact Cx.done_sized hc
    · exact Cx.stall_sized hc

theorem execSleepExpiry_sized {s : State} {wk e} (h : s.Sized) : Out.Sized (execSleepExpiry wk e s) := by
  unfold execSleepExpiry
  split
  · exact .next h
  · next he =>
    have ht := of_some he (cxOf_sized h)
    split
    · split
      · exact .next (Cx.commit_sized ht)
      · exact .next h
    · exact .next h

theorem execId_sized {s : State} {sel a} (h : s.Sized) : Out.Sized (execId sel a s) :=
  issueSplit_sized h (fun _ hk => Cx.scalarDone_sized hk (Cx.putScalar_sized hk))

theorem execDbg_sized {s : State} {a b d} (h : s.Sized) : Out.Sized (execDbg a b d s) := by
  unfold execDbg
  refine issueSplit_sized h (fun c hc => ?_)
  dsimp only
  split <;> exact Cx.done_sized hc


/-! ### Far: what its operations leave of the register tables -/

theorem Cx.ship_sized {c : Cx} {d b e n slot seq} {w : Warp} (h : c.Sized) (hw : w.Sized) :
    Out.Sized (c.ship d b e n slot seq w) := by
  have hc : Cx.Sized { c with w := w } := h.withWarp hw
  exact Cx.scalarDone_sized h (Cx.putScalar_sized hc)

theorem execRcall_sized {s : State} {n d b e} (h : s.Sized) : Out.Sized (execRcall n d b e s) := by
  unfold execRcall
  refine issueSplit_sized h (fun c hc => ?_)
  split
  · exact Cx.trapAt_sized hc
  · split
    · exact Cx.stall_sized hc
    · exact Cx.releasing_sized hc (fun _ hk => Cx.ship_sized hk hk.w)

theorem execRcallRetry_sized {s : State} {n d b e} (h : s.Sized) : Out.Sized (execRcallRetry n d b e s) := by
  unfold execRcallRetry
  refine issueSplit_sized h (fun c hc => ?_)
  split
  · exact Cx.trapAt_sized hc
  · split
    · exact Cx.stall_sized hc
    · exact Cx.releasing_sized hc (fun _ hk => Cx.ship_sized hk hk.w)

theorem dropCached_sized {s : State} {core caller tag} (h : s.Sized) : (dropCached s core caller tag).Sized := by
  unfold dropCached
  split <;> exact h

theorem freeCallSlot_sized {w : Warp} {tag} (h : w.Sized) : (freeCallSlot w tag).Sized := by
  unfold freeCallSlot
  split
  · split <;> exact h
  · exact h

theorem execRwait_sized {s : State} {d a l} (h : s.Sized) : Out.Sized (execRwait d a l s) := by
  unfold execRwait
  refine issueSplit_sized h (fun c hc => ?_)
  dsimp only
  split
  · exact Cx.done_sized ⟨dropCached_sized hc.s, freeCallSlot_sized hc.w, hc.sp⟩
  · exact Cx.done_sized hc

theorem deliverOne_sized {s : State} {wk x} (h : s.Sized) : (deliverOne wk s x).Sized := by
  unfold deliverOne
  split
  · exact h
  · next w hw =>
    split
    · exact h
    · exact dropCached_sized (h.putWarp (freeCallSlot_sized (Warp.mapPends_sized (h.warp hw))))

theorem deliverCalls_sized {s : State} {wk} (h : s.Sized) : (deliverCalls s wk).Sized := by
  unfold deliverCalls
  split
  · exact h
  · exact settleWarp_sized (foldl_keeps (P := State.Sized) (fun _ _ hk => deliverOne_sized hk) _ h)

theorem farBank_length (m : CallMsg) : (farBank m).length = 64 := by
  simp only [farBank, List.length_append, List.length_replicate, List.length_cons, List.length_nil, List.length_take]
  omega

theorem Split.start_sized {pc lanes clock} {scalars : List Word} (h : scalars.length = 64) :
    (Split.start pc lanes scalars clock).Sized :=
  Split.sized_iff.mpr ⟨h, by simp [Split.start, Tab.Each], by simp [Split.start, Trap.none, Tab.Each]⟩

theorem Warp.start_sized {wg index core quarter launched} {sp : Split} (h : sp.Sized) :
    (Warp.start wg index core quarter launched sp).Sized :=
  Warp.sized_iff.mpr ⟨rfl, rfl, by simp [Warp.start, Tab.Each], by simpa [Warp.start, Tab.Each] using h, by simp [Warp.start]⟩

theorem startFar_sized {s : State} {core m} (h : s.Sized) : (startFar s core m).Sized := by
  unfold startFar
  dsimp only
  split
  · exact h
  · have hw : (Warp.start 0 0 core (farRunning s core % 4) 0xFF
        (Split.start (m.entry.setWidth 57) 0xFF (farBank m) s.ticks)).Sized :=
      Warp.start_sized (Split.start_sized (farBank_length m))
    exact h.withWarps (h.warps.put hw)

theorem withTarget_sized {s : State} {core} (h : s.Sized) : (withTarget s core).Sized := by
  unfold withTarget
  split <;> exact h

theorem startEntered_sized {s : State} {core ms} (h : s.Sized) : (startEntered core ms s).Sized := by
  induction ms generalizing s with
  | nil => exact h
  | cons m ms ih =>
    unfold startEntered
    split
    · exact h
    · exact ih (startFar_sized h)

theorem enterCall_sized {s : State} {core m} (h : s.Sized) : (enterCall s core m).Sized := by
  unfold enterCall
  dsimp only
  split
  · exact h
  · exact startEntered_sized h

theorem handleCall_sized {s : State} {core m} (h : s.Sized) : IfSome State.Sized (handleCall s core m) := by
  unfold handleCall
  split
  · exact .none
  · split
    · split <;> exact .some h
    · split
      · exact .none
      · exact .some (enterCall_sized h)

theorem startCalls_sized {s : State} {core ms} (h : s.Sized) : (startCalls core ms s).Sized := by
  induction ms generalizing s with
  | nil => exact h
  | cons m ms ih =>
    unfold startCalls
    split
    · next he => exact ih (of_some he (handleCall_sized h))
    · exact h

theorem startWaiting_sized {s : State} {core} (h : s.Sized) : (startWaiting s core).Sized := by
  unfold startWaiting
  split
  · exact h
  · exact startCalls_sized (startEntered_sized h)

theorem execFarCallArrival_sized {s : State} {n core} (h : s.Sized) : Out.Sized (execFarCallArrival n core s) := by
  unfold execFarCallArrival
  split
  · exact .next h
  · split
    · exact .next h
    · dsimp only
      split
      · split
        · refine .next ?_
          refine IfSome.getD ?_ ?_
          · exact handleCall_sized (withTarget_sized h)
          · exact withTarget_sized h
        · exact .next (withTarget_sized h)
      · split
        · refine .next ?_
          refine IfSome.getD ?_ ?_
          · exact handleCall_sized (withTarget_sized h)
          · exact withTarget_sized h
        · exact .next (withTarget_sized h)

theorem execRret_sized {s : State} {n} (h : s.Sized) : Out.Sized (execRret n s) := by
  unfold execRret
  refine issueSplit_sized h (fun c hc => ?_)
  split
  · exact Cx.trapAt_sized hc
  · exact Cx.releasing_sized hc (fun _ hk => Cx.done_sized hk)

theorem execFarTaskStopped_sized {s : State} {wk} (h : s.Sized) : Out.Sized (execFarTaskStopped wk s) := by
  unfold execFarTaskStopped
  split
  · exact .next h
  · split
    · exact .next h
    · split
      · exact .next h
      · exact .next (endFarTask_sized h)

theorem finishFar_sized {s : State} {wk} (h : s.Sized) : (finishFar s wk).Sized := by
  unfold finishFar
  split
  · exact h
  · split
    · split
      · exact h.withWarps h.warps.del
      · exact h
    · exact h

theorem execFarReplyArrival_sized {s : State} {n} (h : s.Sized) : Out.Sized (execFarReplyArrival n s) := by
  unfold execFarReplyArrival
  split
  · exact .next h
  · dsimp only
    split
    · exact .next h
    · next w hw =>
      split
      · exact .next h
      · have hws : w.Sized := h.warp hw
        exact .next (deliverCalls_sized (h.withWarps (h.warps.put hws)))

theorem execRcallTimeout_sized {s : State} {wk slot} (h : s.Sized) : Out.Sized (execRcallTimeout wk slot s) := by
  unfold execRcallTimeout
  split
  · exact .next h
  · next w hw =>
    split
    · exact .next h
    · split
      · exact .next h
      · have hws : w.Sized := h.warp hw
        exact .next (deliverCalls_sized (h.withWarps (h.warps.put hws)))

theorem execReplyCacheExpiry_sized {s : State} {core n} (h : s.Sized) :
    Out.Sized (execReplyCacheExpiry core n s) := by
  unfold execReplyCacheExpiry
  split
  · exact .next h
  · split
    · exact .next h
    · split <;> exact .next h

theorem execLongLatencyWriteback_sized {s : State} {wk p} (h : s.Sized) :
    Out.Sized (execLongLatencyWriteback wk p s) := by
  unfold execLongLatencyWriteback
  split
  · exact .next h
  · next w hw => exact .next (settleWarp_sized (h.putWarp (Warp.mapPends_sized (h.warp hw))))


/-! ### Matrix: what its operations leave of the register tables -/

theorem Cx.enqueue_sized {c : Cx} {k} (h : c.Sized) (hk : ∀ c0, c0.Sized → (k c0).1.Sized) :
    Out.Sized (Cx.enqueue c k) := by
  unfold Cx.enqueue
  split
  · exact Cx.stall_sized h
  · exact Cx.done_sized (hk c h)

theorem mmaIssue_sized {st : State} {i form d a s l} (h : st.Sized) : Out.Sized (mmaIssue i st form d a s l) := by
  unfold mmaIssue
  refine issueSplit_sized h (fun c hc => ?_)
  dsimp only
  split
  · exact Cx.trapAt_sized hc
  · exact Cx.trapAt_sized hc
  · split
    · exact Cx.trapAt_sized hc
    · split
      · exact Cx.trapAt_sized hc
      · refine Cx.enqueue_sized hc (fun c2 hc2 => ?_)
        split
        · exact Cx.updWg_sized hc2 fun _ => rfl
        · split <;> exact hc2

theorem execMsa_sized {st : State} {d a s l} (h : st.Sized) : Out.Sized (execMsa d a s l st) := by
  unfold execMsa
  refine issueSplit_sized h (fun c hc => ?_)
  dsimp only
  split
  · exact Cx.trapAt_sized hc
  · exact Cx.trapAt_sized hc
  · split
    · exact Cx.trapAt_sized hc
    · split
      · exact Cx.trapAt_sized hc
      · exact Cx.enqueue_sized hc (fun _ hk => hk)

theorem execMzero_sized {s : State} {t} (h : s.Sized) : Out.Sized (execMzero t s) := by
  unfold execMzero
  refine issueSplit_sized h (fun c hc => ?_)
  split
  · exact Cx.trapAt_sized hc
  · exact Cx.enqueue_sized hc (fun _ hk => hk)

theorem execMzeroP_sized {s : State} (h : s.Sized) : Out.Sized (execMzeroP s) := by
  unfold execMzeroP
  refine issueSplit_sized h (fun c hc => ?_)
  split
  · exact Cx.trapAt_sized hc
  · exact Cx.enqueue_sized hc (fun _ hk => hk)

theorem execMmovToRegisters_sized {s : State} {d t l} (h : s.Sized) : Out.Sized (execMmovToRegisters d t l s) := by
  unfold execMmovToRegisters
  refine issueSplit_sized h (fun c hc => ?_)
  split
  · exact Cx.trapAt_sized hc
  · exact Cx.enqueue_sized hc (fun _ hk => hk)

theorem execMmovToTile_sized {s : State} {d t} (h : s.Sized) : Out.Sized (execMmovToTile d t s) := by
  unfold execMmovToTile
  refine issueSplit_sized h (fun c hc => ?_)
  split
  · exact Cx.trapAt_sized hc
  · exact Cx.enqueue_sized hc (fun _ hk => hk)

theorem execMring_sized {s : State} {t a b} (h : s.Sized) : Out.Sized (execMring t a b s) := by
  unfold execMring
  refine issueSplit_sized h (fun c hc => ?_)
  dsimp only
  split
  · exact Cx.trapAt_sized hc
  · split
    · exact Cx.trapAt_sized hc
    · split
      · split
        · exact Cx.trapAt_sized hc
        · exact Cx.enqueue_sized hc (fun _ hk => Cx.updWg_sized hk fun _ => rfl)
      · split
        · exact Cx.trapAt_sized hc
        · exact Cx.enqueue_sized hc (fun _ hk => hk)

theorem fillDrain_sized {s : State} {wk id y bad differ} (h : s.Sized) : (fillDrain s wk id y bad differ).Sized :=
  settleWarp_sized (h.updWarp fun _ hw => Warp.mapPends_sized hw)

theorem vregStatus_sized {s : State} {skein status bits pdisc} (h : s.Sized) :
    (vregStatus s skein status bits pdisc).Sized := by
  unfold vregStatus
  split
  · split <;> exact h
  · exact h

theorem writeTile_engine (g : Workgroup) (t : Nat) (y : List Row) (bad : Nat → Nat → Bool) :
    (writeTile g t y bad).engine = g.engine := by
  unfold writeTile
  rfl

theorem closeTile_sized {s : State} {g tag differ} (h : s.Sized) : (closeTile s g tag differ).Sized := by
  unfold closeTile
  split
  · exact h
  · next x hx =>
    split
    · exact h
    · have hg : x.Sized := h.wg hx
      exact engineArrive_sized (h.withWgs (h.wgs.put hg))

theorem ringDeliver_sized {s : State} {g shadow integer z close y bad bits} (h : s.Sized) :
    IfSome State.Sized (ringDeliver s g shadow integer z close y bad bits) := by
  unfold ringDeliver
  split
  · exact .none
  · next x hx =>
    split
    · exact .none
    · split
      · exact .none
      · extract_lets fresh count t sum marks read r0 r1 x0 s1
        have hx0 : x0.engine = x.engine := writeTile_engine _ _ _ _
        clear_value x0
        have hg : Workgroup.Sized { x0 with ring := some r1 } := fun e he => h.wg hx e (hx0.symm.trans he)
        have hs1 : s1.Sized := h.putWg hg
        refine .some ?_
        split
        · exact closeTile_sized hs1
        · exact hs1

theorem setPValid_sized {s : State} {wk v} (h : s.Sized) : (setPValid s wk v).Sized := h.updWarp fun _ hw => hw

theorem matrixStatus_sized {s : State} {w g status bits} (h : s.Sized) : (matrixStatus s w g status bits).Sized := by
  unfold matrixStatus
  split
  · exact h.updWgRest fun _ => rfl
  · exact vregStatus_sized h

theorem runMatrix_sized {s : State} {wk w g parity op} (h : s.Sized) :
    IfSome State.Sized (runMatrix s wk w g parity op) := by
  unfold runMatrix
  cases op with
  | mma form rows cols badRows badCols c z close ptile status pend =>
    dsimp only
    split
    · exact ringDeliver_sized h
    · cases pend with
      | some id => exact .some (fillDrain_sized (vregStatus_sized h))
      | none => exact .some (setPValid_sized ((vregStatus_sized h).updWgRest fun _ => writeTile_engine _ _ _ _))
  | msa scales cols badCols c ptile status id => exact .some (setPValid_sized (fillDrain_sized (vregStatus_sized h)))
  | zero t status => exact .some ((matrixStatus_sized h).updWgRest fun _ => writeTile_engine _ _ _ _)
  | zeroP status => exact .some (setPValid_sized (matrixStatus_sized h))
  | toRegs t status id => exact .some (fillDrain_sized (matrixStatus_sized h))
  | toTile t c ownP status =>
    refine .some ?_
    split
    · exact setPValid_sized ((matrixStatus_sized h).updWgRest fun _ => writeTile_engine _ _ _ _)
    · exact (matrixStatus_sized h).updWgRest fun _ => writeTile_engine _ _ _ _
  | ring status =>
    refine .some ?_
    split
    · exact matrixStatus_sized h
    · exact setPValid_sized (matrixStatus_sized h)

theorem execMatrixExecute_sized {s : State} {wk parity} (h : s.Sized) :
    Out.Sized (execMatrixExecute wk parity s) := by
  unfold execMatrixExecute
  split
  · exact .next h
  · split
    · split
      · exact .next h
      · split
        · next he =>
          have ht := of_some he (runMatrix_sized h)
          exact .next (ht.updWarp fun _ hw => hw)
        · exact .next h
    · exact .next h


/-! ### Epilogue: what its operations leave of the register tables -/

theorem Engine.start_sized (entry arg : DWord) : (Engine.start entry arg).Sized :=
  ⟨rfl, List.length_replicate, List.length_replicate⟩

theorem execFork_sized {s : State} {a b} (h : s.Sized) : Out.Sized (execFork a b s) := by
  unfold execFork
  refine issueSplit_sized h (fun c hc => ?_)
  dsimp only
  split
  · exact Cx.trapAt_sized hc
  · split
    · exact Cx.trapAt_sized hc
    · split
      · exact Cx.stall_sized hc
      · exact Cx.releasing_sized hc (fun _ hk => Cx.done_sized (hk.withState (hk.s.updWg fun _ _ =>
          Workgroup.sized_of_engine rfl (Engine.start_sized _ _))))

theorem execRdv_sized {s : State} {a} (h : s.Sized) : Out.Sized (execRdv a s) := by
  unfold execRdv
  refine issueSplit_sized h (fun c hc => ?_)
  split
  · exact Cx.trapAt_sized hc
  · split
    · exact Cx.scalarDone_sized hc (Cx.putScalar64_sized hc)
    · split
      · exact Cx.stall_sized hc
      · extract_lets w c1 c2 mark sp
        have h1 : c1.Sized := hc
        have h2 : c2.Sized := Cx.putScalar64_sized h1
        have hmark (sp : Split) (n : Nat) (v : Word) (p : Bool) (h : sp.Sized) : (mark sp n v p).Sized := by
          unfold mark
          split
          · exact Split.setScalar_sized h
          · exact h
        exact Cx.scalarDone_sized hc (h2.withSplit (hmark _ _ _ _ (hmark _ _ _ _ h2.sp)))

theorem Ex.status_sized {x : Ex} {bits} (h : x.Sized) : (Ex.status x bits).Sized := h

theorem Ex.poisonIf_sized {x : Ex} {b} (h : x.Sized) : (x.poisonIf b).Sized := by
  unfold Ex.poisonIf
  split
  · exact Ex.status_sized h
  · exact h

theorem Ex.putW_sized {x : Ex} {t : Tile} (h : x.Sized) (ht : t.elems.length = 3072) : (Ex.putW x t).Sized :=
  ⟨h.1, h.2.1, ht, h.2.2.2⟩

theorem Ex.Sized.w {x : Ex} (h : x.Sized) : x.en.w.elems.length = 3072 := h.2.2.1

theorem Ex.Sized.q {x : Ex} (h : x.Sized) : x.en.q.elems.length = 3072 := h.2.2.2

@[simp] theorem tilePositions_length : tilePositions.length = 3072 := by
  simp [tilePositions]

theorem Ex.withBytes_sized {x : Ex} {addr align n k} (h : x.Sized) (hk : ∀ v0 v1, Out.Sized (k v0 v1)) :
    Out.Sized (x.withBytes addr align n k) := by
  unfold Ex.withBytes
  split
  · exact Ex.stop_sized h
  · split
    · exact Ex.stop_sized h
    · split
      · exact hk _ _
      · exact Ex.stop_sized h

theorem execEPop_sized {s : State} (h : s.Sized) : Out.Sized (execEPop s) := by
  unfold execEPop
  refine issueEngine_sized h (fun x hx => ?_)
  split
  · exact Ex.stop_sized hx
  · split
    · dsimp only
      split
      · exact Ex.stop_sized hx
      · refine Ex.done_sized (Ex.poisonIf_sized ⟨hx.1, hx.2.1, hx.w, ?_⟩)
        simp
    · split
      · exact Ex.stop_sized hx
      · exact Ex.wait_sized hx
    · exact Ex.wait_sized hx

theorem Ex.scaleW_sized {x : Ex} {first a b} (h : x.Sized) : Out.Sized (x.scaleW first a b) := by
  unfold Ex.scaleW
  dsimp only
  split
  · exact Ex.stop_sized h
  · exact Ex.withBytes_sized h (fun _ _ => Ex.withBytes_sized h (fun _ _ => Ex.done_sized (Ex.poisonIf_sized
      (Ex.status_sized (Ex.putW_sized h (by simp))))))

theorem execESa_sized {s : State} {o a b} (h : s.Sized) : Out.Sized (execESa o a b s) := by
  unfold execESa
  refine issueEngine_sized h (fun x hx => ?_)
  dsimp only
  split
  · exact Ex.done_sized (Ex.poisonIf_sized (Ex.putW_sized hx hx.q))
  · split
    · exact Ex.stop_sized hx
    · exact Ex.done_sized (Ex.poisonIf_sized (Ex.putW_sized hx (by simp [hx.w, hx.q])))
  · split
    · exact Ex.stop_sized hx
    · exact Ex.scaleW_sized hx
  · split
    · exact Ex.stop_sized hx
    · exact Ex.scaleW_sized hx

theorem execEBias_sized {s : State} {r a} (h : s.Sized) : Out.Sized (execEBias r a s) := by
  unfold execEBias
  refine issueEngine_sized h (fun x hx => ?_)
  dsimp only
  split
  · exact Ex.stop_sized hx
  · exact Ex.withBytes_sized hx (fun _ _ => Ex.done_sized (Ex.poisonIf_sized (Ex.status_sized
      (Ex.putW_sized hx (by simp)))))

theorem execEAct_sized {s : State} {f} (h : s.Sized) : Out.Sized (execEAct f s) := by
  unfold execEAct
  refine issueEngine_sized h (fun x hx => ?_)
  dsimp only
  split
  · exact Ex.stop_sized hx
  · exact Ex.done_sized (Ex.poisonIf_sized (Ex.putW_sized hx (by simp [hx.w])))

theorem execECvt_sized {s : State} {r t} (h : s.Sized) : Out.Sized (execECvt r t s) := by
  unfold execECvt
  refine issueEngine_sized h (fun x hx => ?_)
  dsimp only
  split
  · exact Ex.stop_sized hx
  · exact Ex.done_sized (Ex.poisonIf_sized (Ex.status_sized (Ex.putW_sized hx (by simp [hx.w]))))

theorem Ex.countBnd_sized {x : Ex} {n k e} (h : x.Sized) : (x.countBnd n k e).Sized := h

theorem execEBnd_sized {s : State} {n} (h : s.Sized) : Out.Sized (execEBnd n s) := by
  unfold execEBnd
  refine issueEngine_sized h (fun x hx => ?_)
  dsimp only
  split
  · exact Ex.stop_sized hx
  · split
    · exact Ex.stop_sized hx
    · exact Ex.done_sized (Ex.poisonIf_sized (Ex.status_sized (Ex.countBnd_sized (Ex.putW_sized hx (by simp [hx.w])))))

theorem storeGlobal_sized {a : StoreRun} {p key h t e} (ha : a.Sized) : (storeGlobal p key h t a e).Sized := by
  unfold storeGlobal
  split
  · exact ha
  · split
    · next he => exact Elem.sized_of_ok he (writeGlobal_sized ha)
    · exact ha

theorem storeWindow_sized {a : StoreRun} {k window h t e} (ha : a.Sized) : (storeWindow k window h t a e).Sized := by
  unfold storeWindow
  dsimp only
  split
  · exact ha
  · split <;> exact ha

theorem addWindow_sized {a : StoreRun} {k h t e} (ha : a.Sized) : (addWindow k h t a e).Sized := by
  unfold addWindow
  dsimp only
  split <;> exact ha

theorem lineObstacle_sized {s p t addr} : IfSome Elem.Sized (lineObstacle s p t addr) := by
  unfold lineObstacle
  dsimp only
  split
  · exact .some .stop
  · split
    · split
      · exact .some .stop
      · exact writeObstacle_sized
    · split
      · exact .some .stop
      · exact writeObstacle_sized
  · exact writeObstacle_sized

theorem addGlobal_sized {a : StoreRun} {p key h t e} (ha : a.Sized) : (addGlobal p key h t a e).Sized := by
  unfold addGlobal
  split
  · next he => exact writePieces_sized (Elem.sized_of_ok he (readGlobal_sized ha))
  · exact ha

theorem addLine_sized {a : StoreRun} {p key h t r} (ha : a.Sized) : (addLine p key h t a r).Sized := by
  unfold addLine
  split
  · exact ha
  · split
    · exact ha
    · exact foldl_keeps (P := StoreRun.Sized) (fun _ _ hk => addGlobal_sized hk) _ ha

theorem Ex.stored_sized {a : StoreRun} {x p units total} (hx : x.Sized) (h : a.Sized) :
    Out.Sized (Ex.stored x p units total a) := by
  unfold Ex.stored
  extract_lets written en y0 y
  have hy : y.Sized := Ex.poisonIf_sized (Ex.status_sized ⟨h, hx.2⟩)
  clear_value y
  split
  · split
    · exact .next (Ex.commit_sized hy)
    · exact Ex.done_sized hy
  · split
    · exact Ex.stopFault_sized hy
    · exact Ex.stop_sized hy
  · exact Ex.hold_sized hy
  · exact Ex.wait_sized ⟨wantPage_sized hy.1, hy.2⟩
  · exact .fault
  · exact Ex.wait_sized hy

theorem execESt_sized {s : State} {a b c} (h : s.Sized) : Out.Sized (execESt a b c s) := by
  unfold execESt
  refine issueEngine_sized h (fun x hx => ?_)
  split
  · exact Ex.stop_sized hx
  · dsimp only
    split
    · exact Ex.stop_sized hx
    · split
      · exact Ex.stored_sized hx (foldl_keeps (P := StoreRun.Sized) (fun _ _ hk => storeWindow_sized hk) _ hx.1)
      · exact Ex.stored_sized hx (foldl_keeps (P := StoreRun.Sized) (fun _ _ hk => storeGlobal_sized hk) _ hx.1)

theorem execEAst_sized {s : State} {a b c} (h : s.Sized) : Out.Sized (execEAst a b c s) := by
  unfold execEAst
  refine issueEngine_sized h (fun x hx => ?_)
  dsimp only
  split
  · exact Ex.stop_sized hx
  · split
    · exact Ex.stop_sized hx
    · split
      · split
        · exact Ex.stop_sized hx
        · split
          · exact Ex.stop_sized hx
          · exact Ex.stored_sized hx (foldl_keeps (P := StoreRun.Sized) (fun _ _ hk => addWindow_sized hk) _ hx.1)
      · split
        · exact Ex.stop_sized hx
        · exact Ex.stored_sized hx (addLine_sized hx.1)

theorem Ex.withObject_sized {x : Ex} {addr k} (h : x.Sized) (hk : ∀ v0, Out.Sized (k v0)) :
    Out.Sized (x.withObject addr k) := Ex.withBytes_sized h (fun _ _ => hk _)

theorem execEArv_sized {s : State} {a b} (h : s.Sized) : Out.Sized (execEArv a b s) := by
  unfold execEArv
  refine issueEngine_sized h (fun x hx => ?_)
  dsimp only
  refine Ex.withObject_sized hx (fun _ => ?_)
  split
  · exact Ex.wait_sized hx
  · exact Ex.done_sized (Ex.putScalar_sized hx)

theorem execEWait_sized {s : State} {a b c} (h : s.Sized) : Out.Sized (execEWait a b c s) := by
  unfold execEWait
  refine issueEngine_sized h (fun x hx => ?_)
  dsimp only
  refine Ex.withObject_sized hx (fun _ => ?_)
  split
  · exact Ex.stop_sized hx
  · split
    · exact Ex.wait_sized hx
    · exact Ex.done_sized (Ex.putScalar_sized (Ex.putScalar_sized hx))

theorem execEBr_sized {s : State} {a o} (h : s.Sized) : Out.Sized (execEBr a o s) := by
  unfold execEBr
  refine issueEngine_sized h (fun x hx => ?_)
  split
  · exact .next (Ex.commit_sized hx)
  · exact Ex.done_sized hx

theorem execEEnd_sized {s : State} (h : s.Sized) : Out.Sized (execEEnd s) := by
  unfold execEEnd
  refine issueEngine_sized h (fun x hx => ?_)
  split
  · exact Ex.wait_sized hx
  · dsimp only
    split
    · exact .next (orStatusAt_sized (Ex.commit_sized hx))
    · exact .next (Ex.commit_sized hx)


/-! ### Near: what its operations leave of the register tables -/

theorem walkAhead_sized {s : State} {asid expr a} (h : s.Sized) : (walkAhead s asid expr a).Sized := by
  unfold walkAhead
  split <;> exact h

theorem walkElem_sized {s : State} {x e} (h : s.Sized) : (walkElem s x e).Sized := by
  unfold walkElem
  split
  · exact h
  · exact foldl_keeps (P := State.Sized) (fun _ _ hk => walkAhead_sized hk) _ h

theorem exprElem_sized {s : State} {s0 n x d launch e} (h : s.Sized) : (exprElem s0 s n x d launch e).Sized := by
  unfold exprElem
  dsimp only
  split
  · exact h
  · exact writeLoc_sized (foldl_keeps (P := State.Sized) (fun _ _ hk => countMisaligned_sized hk) _ h)

theorem writeBlock_sized {s : State} {pa bs bad} (h : s.Sized) : (writeBlock s pa bs bad).Sized := writeLoc_sized h

theorem rowBlock_sized {s : State} {s0 n x e} (h : s.Sized) : (rowBlock s0 s n x e).Sized := by
  unfold rowBlock
  split
  · split
    · exact writeBlock_sized h
    · exact h
  · split
    · exact writeBlock_sized h
    · exact h
  · exact h

theorem nearFrom_sized {s : State} {s0 p n x left w e} (h : s.Sized) : (nearFrom s0 p n x left w e s).Sized := by
  induction left generalizing s w e with
  | zero => exact h
  | succ left ih =>
    have hw (t : State) (ht : t.Sized) (b : Prop) [Decidable b] (k : Nat) :
        (if b then walkElem t x k else t).Sized := by
      split
      · exact walkElem_sized ht
      · exact ht
    have h2 := hw _ (hw _ h (w ≤ e) e) (w ≤ e + 1) (e + 1)
    unfold nearFrom
    dsimp only
    split
    · refine ih ?_
      split
      · exact exprElem_sized (s := _) h2
      · exact rowBlock_sized (s := _) h2
    · exact h2

theorem nearAdvance_sized {s : State} {n x limit} (h : s.Sized) : Out.Sized (nearAdvance s n x limit) := by
  unfold nearAdvance
  split
  · exact .next h
  · dsimp only
    split
    · refine .next ?_
      split
      · exact finishCommand_sized (nearFrom_sized h)
      · exact nearFrom_sized h
    · exact .next (nearFrom_sized h)
    · exact .next (wantPage_sized (nearFrom_sized h))
    · exact .fault

theorem execNearCommandComplete_sized {s : State} {n} (h : s.Sized) : Out.Sized (execNearCommandComplete n s) := by
  unfold execNearCommandComplete
  split
  · exact .next h
  · split
    · exact .next h
    · split
      · exact .next (finishCommand_sized h)
      · exact nearAdvance_sized h

theorem execRowTransferBlockCommit_sized {s : State} {n} (h : s.Sized) :
    Out.Sized (execRowTransferBlockCommit n s) := by
  unfold execRowTransferBlockCommit
  split
  · exact .next h
  · split
    · exact nearAdvance_sized h
    · exact nearAdvance_sized h
    · exact .next h

theorem Cx.nearIssue_sized {c : Cx} {k a kind} (h : c.Sized) : Out.Sized (c.nearIssue k a kind) := by
  unfold Cx.nearIssue
  extract_lets p start snap r d
  have hr : r.1.Sized := newCommand_sized h.s
  have hd : d.Sized := Cx.putNumber_sized (h.withState hr)
  clear_value start r d
  split
  · exact Cx.trapAt_sized h
  · split
    · exact .fault
    · split
      · exact Cx.stall_sized h
      · exact Cx.scalarDone_sized h (hd.withState (holdPages_sized hd.s))
    · split
      · exact Cx.trapAt_sized h
      · split
        · exact Cx.scalarDone_sized h hd
        · exact Cx.scalarDone_sized h hd
    · refine Cx.scalarDone_sized h (hd.withState ?_)
      split
      · exact endEmpty_sized hd.s
      · exact hd.s

theorem execXatExpr_sized {s : State} {k a b} (h : s.Sized) : Out.Sized (execXatExpr k a b s) := by
  unfold execXatExpr
  refine issueSplit_sized h (fun c hc => ?_)
  refine Cx.releasing_sized hc (fun c3 hc3 => ?_)
  dsimp only
  refine Cx.withObject_sized hc3 (fun _ => ?_)
  split
  · exact Cx.nearIssue_sized hc3
  · exact Cx.trapAt_sized hc3

theorem execXatFill_sized {s : State} {k a b e} (h : s.Sized) : Out.Sized (execXatFill k a b e s) := by
  unfold execXatFill
  refine issueSplit_sized h (fun c hc => ?_)
  refine Cx.releasing_sized hc (fun c2 hc2 => ?_)
  dsimp only
  split
  · exact Cx.trapAt_sized hc2
  · exact Cx.nearIssue_sized hc2

theorem execXatCopy_sized {s : State} {k a b e} (h : s.Sized) : Out.Sized (execXatCopy k a b e s) := by
  unfold execXatCopy
  refine issueSplit_sized h (fun c hc => ?_)
  refine Cx.releasing_sized hc (fun c2 hc2 => ?_)
  dsimp only
  split
  · exact Cx.trapAt_sized hc2
  · exact Cx.nearIssue_sized hc2

theorem Cx.takeStop_sized {c : Cx} {n x addr fromPark} (h : c.Sized) : Out.Sized (c.takeStop n x addr fromPark) := by
  unfold Cx.takeStop
  split
  · exact .next h.s
  · exact Cx.enterTrap_sized h

theorem execNearProgress_sized {s : State} {n} (h : s.Sized) : Out.Sized (execNearProgress n s) := by
  unfold execNearProgress
  split
  · exact .next h
  · split
    · exact .next h
    · dsimp only
      split
      · exact .next h
      · refine .next ?_
        split
        · exact cancelLaunch_sized h
        · exact h
      · split
        · refine .next ?_
          split
          · exact cancelLaunch_sized h
          · exact h
        · split
          · split
            · next he => exact Cx.takeStop_sized (of_some he (cxOf_sized h))
            · exact .next h
          · split
            · next he => exact Cx.takeStop_sized (of_some he (cxOf_sized h))
            · exact .next h
          · exact .next h


/-! ### Service: what its operations leave of the register tables -/

theorem dropUnack_sized {s : State} {wk n order} (h : s.Sized) : (dropUnack s wk n order).Sized := by
  unfold dropUnack
  split
  · exact h
  · next w e =>
    have hw : w.Sized := h.warp e
    exact h.withWarps (h.warps.put hw)

theorem Split.addFaults_sized {sp : Split} {q faults} (h : sp.Sized) : (sp.addFaults q faults).Sized := by
  unfold Split.addFaults
  extract_lets pend scalar mine same
  clear_value pend scalar mine same
  split
  · exact h
  · split
    · exact h
    · split <;> exact h

theorem landLanes_sized {s : State} {q vals faults} (h : s.Sized) : (landLanes s q vals faults).Sized := by
  unfold landLanes
  split
  · exact h
  · next w e =>
    have hw := h.warp e
    refine settleWarp_sized (dropUnack_sized (h.putWarp (hw.withSplitsSpill (hw.splits.mapVal ?_) ?_)))
    · exact fun sp hsp => Split.addFaults_sized hsp
    · intro y hy
      obtain ⟨z, hz, rfl⟩ := List.mem_map.mp hy
      exact Split.addFaults_sized (hw.spill z hz)

theorem holdAgain_sized {s : State} {k p write w first gs} (h : s.Sized) :
    (holdAgain k p write w first gs s).Sized := by
  induction gs generalizing s first with
  | nil => exact h
  | cons g gs ih =>
    unfold holdAgain
    refine ih ?_
    split
    · exact holdAt_sized h
    · exact holdOne_sized h

theorem refuseCommand_sized {s : State} {c cause addr} (h : s.Sized) : (refuseCommand s c cause addr).Sized := by
  unfold refuseCommand
  split
  · exact h
  · split
    · exact finishCommand_sized h
    · split
      · refine State.Sized.updWarp (s := updCmd s c _) h fun w hw => hw.withSplitsSpill (hw.splits.map ?_) ?_
        · intro p hp
          dsimp only
          split <;> exact hp
        · intro y hy
          obtain ⟨z, hz, rfl⟩ := List.mem_map.mp hy
          have hsp := hw.spill z hz
          dsimp only
          split <;> exact hsp
      · split
        · exact h
        · exact finishCommand_sized h

theorem retryCommand_sized {s : State} {c p} (h : s.Sized) : (retryCommand s c p).Sized := by
  unfold retryCommand
  split
  · exact h
  · split
    · exact h
    · split
      · exact h
      · exact h
      · exact holdPages_sized h
      · exact refuseCommand_sized h

theorem retryHeld_sized {s : State} {k h} (hs : s.Sized) : (retryHeld s k h).Sized := by
  unfold retryHeld
  split
  · split
    · exact hs
    · exact landLanes_sized (holdAgain_sized (foldl_keeps (P := LaneRun.Sized) (fun _ _ hk =>
        replayLane_sized hk) _ hs))
  · exact retryCommand_sized hs
  · exact hs
  · exact hs
  · exact hs
  · exact hs
  · exact hs
  · exact hs
  · exact hs

theorem Cx.deniedFetch_sized {c : Cx} {cause} (h : c.Sized) : Out.Sized (c.deniedFetch cause) := by
  unfold Cx.deniedFetch
  split
  · exact .next (Cx.commit_sized h)
  · exact Cx.trapBefore_sized h

theorem refuseStalled_sized {s : State} {wk e cause} (h : s.Sized) : (refuseStalled s wk e cause).Sized := by
  refine h.updWarp fun w hw => hw.withSplits (hw.splits.upd fun sp hsp => ?_)
  split <;> exact hsp

theorem Workgroup.mapEngine_sized {g : Workgroup} {f : Engine → Engine} (h : g.Sized) (hf : ∀ e, e.Sized → (f e).Sized) :
    Workgroup.Sized { g with engine := g.engine.map f } := by
  intro e he
  obtain ⟨e0, h0, rfl⟩ := Option.map_eq_some_iff.mp he
  exact hf _ (h e0 h0)

theorem refuseHeld_sized {s : State} {k h cause} (hs : s.Sized) : (refuseHeld s k h cause).Sized := by
  have h1 : (dropHeld s k).Sized := hs
  unfold refuseHeld
  extract_lets s1
  split
  · exact landLanes_sized h1
  · exact refuseCommand_sized h1
  · split
    · exact h1
    · next he =>
      split
      · next he2 => exact Out.sized_of_next he2 (Cx.deniedFetch_sized (of_some he (cxOf_sized h1)))
      · exact h1
  · exact h1.updWg fun g hg => Workgroup.mapEngine_sized hg fun e he => he
  · exact h1
  · exact refuseStalled_sized h1
  · exact h1
  · exact h1
  · exact h1

theorem retryAll_sized {s : State} {f} (h : s.Sized) : (retryAll s f).Sized := by
  unfold retryAll
  refine foldl_keeps (P := State.Sized) (fun a b hk => ?_) _ ?_
  · split
    · split
      · exact retryHeld_sized hk
      · exact hk
    · exact hk
  · exact h

theorem refuseAll_sized {s : State} {f cause} (h : s.Sized) : (refuseAll s f cause).Sized := by
  unfold refuseAll
  refine foldl_keeps (P := State.Sized) (fun a b hk => ?_) _ ?_
  · split
    · split
      · exact refuseHeld_sized hk
      · exact hk
    · exact hk
  · exact h

theorem bindFrames_sized {s : State} {asid runs} (h : s.Sized) : (bindFrames s asid runs).Sized := h

theorem claimFrames_sized {s : State} {old} (h : s.Sized) : (claimFrames old s).Sized := by
  unfold claimFrames
  refine foldl_keeps (P := State.Sized) (fun a b hk => ?_) _ ?_
  · dsimp only
    split
    · exact hk
    · exact bindFrames_sized hk
  · exact h

theorem writePte_sized {s : State} {asid va pte} (h : s.Sized) : (writePte s asid va pte).Sized := by
  unfold writePte
  split
  · exact h
  · split
    · exact h
    · split
      · exact h
      · split
        · exact h.of_tables rfl rfl
        · exact h.of_tables rfl rfl

theorem execFaultService_sized {s : State} {asid va ok pte} (h : s.Sized) :
    Out.Sized (execFaultService asid va ok pte s) := by
  unfold execFaultService
  dsimp only
  split
  · exact .next h
  · split
    · exact .next (retryAll_sized (claimFrames_sized (writePte_sized h)))
    · exact .next (refuseAll_sized h)

theorem giveEntries_sized {s : State} (h : s.Sized) : (giveEntries s).Sized := by
  unfold giveEntries
  refine foldl_keeps (P := State.Sized) (fun a b hk => ?_) _ ?_
  · split <;> exact hk
  · exact h

theorem admitPages_sized {s : State} (h : s.Sized) : (admitPages s).Sized := giveEntries_sized h

theorem execAtsTranslationCompletion_sized {s : State} {asid va frame r w} (h : s.Sized) :
    Out.Sized (execAtsTranslationCompletion asid va frame r w s) := by
  unfold execAtsTranslationCompletion
  dsimp only
  split
  · exact .next h
  · exact .next (admitPages_sized (retryAll_sized h))

theorem askAgain_sized {s : State} {asid page} (h : s.Sized) : (askAgain s asid page).Sized := by
  unfold askAgain
  refine foldl_keeps (P := State.Sized) (fun a b hk => ?_) _ ?_
  · split
    · exact askHost_sized hk
    · exact hk
  · exact h

theorem execPriPageResponse_sized {s : State} {asid va ok frame r w} (h : s.Sized) :
    Out.Sized (execPriPageResponse asid va ok frame r w s) := by
  unfold execPriPageResponse
  dsimp only
  split
  · exact .next h
  · split
    · exact .next (askAgain_sized (retryAll_sized h))
    · exact .next (askAgain_sized (refuseAll_sized h))

theorem completeInvalidation_sized {s : State} (h : s.Sized) : (completeInvalidation s).Sized := by
  unfold completeInvalidation
  split
  · exact h
  · split <;> exact h

theorem execAtsInvalidateRequest_sized {s : State} {asid va} (h : s.Sized) :
    Out.Sized (execAtsInvalidateRequest asid va s) := by
  unfold execAtsInvalidateRequest
  dsimp only
  split
  · exact .next h
  · exact .next (completeInvalidation_sized h)

theorem execTranslationInvalidate_sized {s : State} {asid lo hi} (h : s.Sized) :
    Out.Sized (execTranslationInvalidate asid lo hi s) := .next (completeInvalidation_sized (retryAll_sized h))

theorem execAsidBinding_sized {s : State} {asid c} (h : s.Sized) : Out.Sized (execAsidBinding asid c s) := by
  have hb : (bindFrames s asid (runsOf s c)).Sized := bindFrames_sized h
  unfold execAsidBinding
  extract_lets known lost
  split
  · exact .next h
  · exact .next (hb.of_tables rfl rfl)

theorem execAsidFreeing_sized {s : State} {asid} (h : s.Sized) : Out.Sized (execAsidFreeing asid s) := .next h


/-! ### Pod: what its operations leave of the register tables -/

theorem State.withModule_sized {s : State} {m} (h : s.Sized) : (s.withModule m).Sized := by
  unfold State.withModule
  split <;> exact h

theorem updModule_sized {s : State} {m f} (h : s.Sized) : (updModule s m f).Sized := h

theorem execModuleGrant_sized {s : State} {m page excl} (h : s.Sized) :
    Out.Sized (execModuleGrant m page excl s) := by
  unfold execModuleGrant
  split
  · exact .next h
  · exact .next (updModule_sized h)

theorem foreignWrite_sized {s : State} {m pkg off bs} (h : s.Sized) : (foreignWrite s m pkg off bs).Sized := by
  unfold foreignWrite
  split
  · exact h
  · exact updModule_sized (writeLoc_sized (State.withModule_sized h))

theorem execModulePortBringUp_sized {s : State} {port m ext} (h : s.Sized) :
    Out.Sized (execModulePortBringUp port m ext s) := by
  unfold execModulePortBringUp
  split
  · exact .next (State.withModule_sized h)
  · exact .next h

theorem execRelayForward_sized {s : State} {acc} (h : s.Sized) : Out.Sized (execRelayForward acc s) := by
  unfold execRelayForward
  dsimp only
  split
  · refine .next ?_
    split <;> exact h
  · refine .next ?_
    split
    · exact writeLoc_sized h
    · exact h
  · split
    · exact .next (writeLoc_sized h)
    · exact .next h

theorem execRouteInstall_sized {s : State} {m route} (h : s.Sized) : Out.Sized (execRouteInstall m route s) := by
  unfold execRouteInstall
  dsimp only
  split
  · split
    · exact .next h
    · exact .next (retryAll_sized (State.withModule_sized h))
  · exact .next (retryAll_sized h)

theorem endQueueOp_sized {s : State} {n q st} (h : s.Sized) : (endQueueOp s n q st).Sized :=
  State.Sized.updWarp (s := { s with net := _ }) h fun _ hw => hw.withSplits (hw.splits.upd fun _ hsp => hsp)

theorem writeScratch_sized {s : State} {k l bs bad} (h : s.Sized) : (writeScratch s k l bs bad).Sized := h

theorem execMqModuleAnswer_sized {s : State} {src} (h : s.Sized) : Out.Sized (execMqModuleAnswer src s) := by
  unfold execMqModuleAnswer
  split
  · refine .next ?_
    split <;> exact h
  · refine .next ?_
    split <;> exact h
  · split
    · exact .next h
    · split
      · exact .next (endQueueOp_sized h)
      · split
        · exact .next (endQueueOp_sized (updModule_sized h))
        · dsimp only
          refine .next ?_
          split
          · exact writeScratch_sized (endQueueOp_sized (updModule_sized h))
          · exact endQueueOp_sized (updModule_sized h)

theorem Cx.holdStalled_sized {c : Cx} {p host addr write} (h : c.Sized) :
    Out.Sized (c.holdStalled p host addr write) := by
  unfold Cx.holdStalled
  dsimp only
  split
  · exact Cx.stall_sized h
  · exact Cx.stall_sized (h.withState (holdOne_sized h.s))

theorem Cx.queueInstr_sized {c : Cx} {put a b e} (h : c.Sized) : Out.Sized (c.queueInstr put a b e) := by
  unfold Cx.queueInstr
  split
  · exact Cx.scalarDone_sized h (Cx.putScalar_sized h)
  · exact Cx.stall_sized h
  · extract_lets go
    have hgo (c : Cx) (hc : c.Sized) : Out.Sized (go c) := by
      refine Cx.withObject_sized hc (fun _ => ?_)
      dsimp only
      split
      · exact Cx.trapAt_sized hc
      · split
        · exact Cx.trapAt_sized hc
        · exact Cx.trapAt_sized hc
        · exact .fault
        · exact Cx.trapAt_sized hc
        · exact Cx.holdStalled_sized hc
        · exact Cx.trapAt_sized hc
        · exact Cx.trapAt_sized hc
        · split <;> exact Cx.stall_sized hc
    clear_value go
    split
    · exact Cx.releasing_sized h hgo
    · exact hgo c h

theorem execMqPut_sized {s : State} {a b e} (h : s.Sized) : Out.Sized (execMqPut a b e s) :=
  issueSplit_sized h (fun _ hk => Cx.queueInstr_sized hk)

theorem execMqGet_sized {s : State} {a b e} (h : s.Sized) : Out.Sized (execMqGet a b e s) :=
  issueSplit_sized h (fun _ hk => Cx.queueInstr_sized hk)

theorem finishOwn_sized {s : State} {cmd fault} (h : s.Sized) : (finishOwn s cmd fault).Sized := by
  unfold finishOwn
  split
  · exact h
  · split
    · exact h
    · exact finishCommand_sized h

theorem finishAllOwn_sized {s : State} {l fault} (h : s.Sized) : (finishAllOwn s l fault).Sized :=
  foldl_keeps (P := State.Sized) (fun _ _ hk => finishOwn_sized hk) _ h

theorem closeRound_sized {s : State} {m r} (h : s.Sized) : (closeRound s m r).Sized := by
  unfold closeRound
  dsimp only
  split
  · exact updModule_sized h
  · split
    · refine finishAllOwn_sized ?_
      split
      · exact updModule_sized h
      · exact writeLoc_sized (updModule_sized (updModule_sized h))
    · exact finishAllOwn_sized (updModule_sized h)

theorem contribute_sized {s : State} {m off epoch c} (h : s.Sized) : (contribute s m off epoch c).Sized := by
  unfold contribute
  split
  · exact finishOwn_sized h
  · split
    · exact finishOwn_sized h
    · split
      · exact finishOwn_sized h
      · split
        · split
          · exact finishOwn_sized h
          · dsimp only
            split
            · exact closeRound_sized (updModule_sized h)
            · exact updModule_sized h
        · split
          · exact updModule_sized h
          · dsimp only
            split
            · exact closeRound_sized (updModule_sized h)
            · exact updModule_sized h

theorem admitWaiting_sized {s : State} {m} (h : s.Sized) : (admitWaiting m s).Sized := by
  unfold admitWaiting
  split
  · exact h
  · dsimp only
    split
    · exact h
    · split
      · exact h
      · exact contribute_sized (updModule_sized h)

theorem admitAll_sized {s : State} {m} (h : s.Sized) : (admitAll s m).Sized := by
  unfold admitAll
  split
  · exact h
  · exact foldl_keeps (P := State.Sized) (fun _ _ hk => admitWaiting_sized hk) _ h

theorem contributeAll_sized {s : State} {m off epoch c} (h : s.Sized) : (contributeAll s m off epoch c).Sized :=
  admitAll_sized (contribute_sized h)

theorem localBar_sized {s asid a} : IfSome Elem.Sized (localBar s asid a) := by
  unfold localBar
  split
  · exact .none
  · exact .some .stop
  · exact .some .stop
  · exact .some .stop
  · exact .some .replay
  · exact .some .stop
  · exact .some .stop
  · exact .some .hole

theorem readWords_sized {s : State} {p wk src count} (h : s.Sized) : (readWords s p wk src count).Sized := by
  unfold readWords
  dsimp only
  split
  · next he =>
    obtain ⟨e, -, hx⟩ := List.exists_of_findSome?_eq_some he
    exact of_some hx localBar_sized
  · exact readGlobal_sized h

theorem ownContribution_sized {s : State} {n x op obj src count epoch expect} (h : s.Sized) :
    Out.Sized (ownContribution s n x op obj src count epoch expect) := by
  unfold ownContribution
  dsimp only
  split
  · exact .next (finishCommand_sized h)
  · exact .next (finishCommand_sized h)
  · exact .fault
  · exact .next (holdCommand_sized h)
  · split
    · exact .next (finishCommand_sized h)
    · exact .fault
    · exact .next (holdCommand_sized h)
    · exact .next h
    · next he =>
      have ht := Elem.sized_of_ok he (readWords_sized h)
      exact .next (contributeAll_sized ht)
  · exact .next (finishCommand_sized h)

theorem execMredContribution_sized {s : State} {src} (h : s.Sized) : Out.Sized (execMredContribution src s) := by
  unfold execMredContribution
  split
  · split
    · exact .next (contributeAll_sized h)
    · exact .next h
  · split
    · exact .next h
    · split
      · split
        · exact .next h
        · split
          · exact .next (finishCommand_sized h)
          · exact ownContribution_sized h
      · exact .next h

theorem execMred_sized {s : State} {o k a b} (h : s.Sized) : Out.Sized (execMred o k a b s) := by
  unfold execMred
  refine issueSplit_sized h (fun c hc => ?_)
  refine Cx.releasing_sized hc (fun c3 hc3 => ?_)
  dsimp only
  refine Cx.withObject_sized hc3 (fun _ => ?_)
  split
  · exact Cx.trapAt_sized hc3
  · split
    · exact Cx.trapAt_sized hc3
    · exact Cx.scalarDone_sized hc3 (Cx.putNumber_sized (hc3.withState (newCommand_sized hc3.s)))

theorem execMrelay_sized {s : State} {k a b e} (h : s.Sized) : Out.Sized (execMrelay k a b e s) := by
  unfold execMrelay
  refine issueSplit_sized h (fun c hc => ?_)
  refine Cx.releasing_sized hc (fun c2 hc2 => ?_)
  extract_lets dst src len r d
  split
  · exact Cx.trapAt_sized hc2
  · split
    · exact Cx.trapAt_sized hc2
    · have hd : d.Sized := Cx.putNumber_sized (hc2.withState (newCommand_sized hc2.s))
      refine Cx.scalarDone_sized hc2 (hd.withState ?_)
      split
      · exact endEmpty_sized hd.s
      · exact hd.s

theorem dropRoutes_sized {s : State} {f} (h : s.Sized) : (dropRoutes s f).Sized := by
  unfold dropRoutes
  dsimp only
  refine foldl_keeps (P := State.Sized) (fun a b hk => ?_) _ ?_
  · split
    · exact endQueueOp_sized hk
    · exact hk
  · exact refuseAll_sized h

theorem breakRounds_sized {s : State} {m f} (h : s.Sized) : (breakRounds s m f).Sized := by
  unfold breakRounds
  split
  · exact h
  · exact foldl_keeps (P := State.Sized) (fun _ _ hk => finishAllOwn_sized hk) _ (updModule_sized h)

theorem execModuleLoss_sized {s : State} {m} (h : s.Sized) : Out.Sized (execModuleLoss m s) := by
  unfold execModuleLoss
  split
  · exact .next h
  · have hm : (s.withModule m).Sized := State.withModule_sized h
    extract_lets s0 s1 waiting s2 lost s3 s4
    have h1 : s1.Sized := breakRounds_sized (dropRoutes_sized hm)
    have h2 : s2.Sized := foldl_keeps (P := State.Sized) (fun _ _ ht => finishOwn_sized ht) _ h1
    have h4 : s4.Sized := foldl_keeps (P := State.Sized) (fun t q (ht : t.Sized) => by
      split
      · exact endQueueOp_sized ht
      · exact ht) _ (updModule_sized h2)
    exact .next (retryAll_sized h4)

theorem execPackageLoss_sized {s : State} {p} (h : s.Sized) : Out.Sized (execPackageLoss p s) := by
  unfold execPackageLoss
  split
  · exact .next h
  · exact .next (retryAll_sized (foldl_keeps (P := State.Sized) (fun _ _ hk => admitAll_sized
      (breakRounds_sized hk)) _ (dropRoutes_sized h)))


/-! ### Network: what its operations leave of the register tables -/

theorem updConn_sized {s : State} {c f} (h : s.Sized) : (updConn s c f).Sized := h

theorem execConnectionBinding_sized {s : State} {c b} (h : s.Sized) : Out.Sized (execConnectionBinding c b s) := by
  unfold execConnectionBinding
  dsimp only
  split
  · split <;> exact .next h
  · split <;> exact .next h

theorem sendBefore_sized {s : State} {p x conn addr k f} (h : s.Sized) : (sendBefore s p x conn addr k f).Sized := by
  unfold sendBefore
  split
  · exact h
  · split
    · next he => exact updConn_sized (Elem.sized_of_ok he (readGlobal_sized h))
    · exact h

theorem stopPut_sized {s : State} {n x cause a} (h : s.Sized) : (stopPut s n x cause a).Sized := by
  unfold stopPut
  split
  · exact finishCommand_sized (sendBefore_sized h)
  · exact h

theorem sendMessage_sized {s : State} {n} (h : s.Sized) : Out.Sized (sendMessage n s) := by
  unfold sendMessage
  split
  · exact .next h
  · split
    · exact .next h
    · split
      · exact .next (finishCommand_sized h)
      · split
        · exact .next (stopPut_sized h)
        · extract_lets send
          have hsend (t : State) (conn : Nat) (f : Conn → List Packet) (ht : t.Sized) :
              Out.Sized (send t conn f) := by
            dsimp only [send]
            split
            · exact .next (finishCommand_sized ht)
            · split
              · exact .next (finishCommand_sized ht)
              · exact .next (updConn_sized ht)
          clear_value send
          split
          · split
            · exact .next (stopPut_sized h)
            · exact .fault
            · exact .next (holdCommand_sized h)
            · exact .next h
            · next he => exact hsend _ _ _ (Elem.sized_of_ok he (readGlobal_sized h))
          · exact hsend _ _ _ h
          · exact hsend _ _ _ h
          · exact .next h

theorem Cx.netIssue_sized {c : Cx} {k a b signal kind empty} (h : c.Sized) :
    Out.Sized (c.netIssue k a b signal kind empty) := by
  unfold Cx.netIssue
  extract_lets request
  refine Cx.releasing_sized h (fun c2 hc2 => ?_)
  extract_lets da
  refine Cx.withObject_sized hc2 (fun _ => ?_)
  extract_lets d s1
  split
  · exact Cx.trapAt_sized hc2
  · extract_lets r e2
    have hd : e2.Sized := Cx.putNumber_sized (hc2.withState (newCommand_sized (updConn_sized hc2.s)))
    clear_value e2
    split
    · exact Cx.trapAt_sized hc2
    · split
      · exact Cx.trapAt_sized hc2
      · refine Cx.scalarDone_sized hc2 ?_
        split
        · exact hd.withState (updConn_sized (endEmpty_sized hd.s))
        · exact hd

theorem execNput_sized {s : State} {k a b} (h : s.Sized) : Out.Sized (execNput k a b s) :=
  issueSplit_sized h (fun _ hk => Cx.netIssue_sized hk)

theorem execNget_sized {s : State} {k a b} (h : s.Sized) : Out.Sized (execNget k a b s) :=
  issueSplit_sized h (fun _ hk => Cx.netIssue_sized hk)

theorem execNsig_sized {s : State} {k a b} (h : s.Sized) : Out.Sized (execNsig k a b s) :=
  issueSplit_sized h (fun _ hk => Cx.netIssue_sized hk)

theorem failConn_sized {s : State} {c} (h : s.Sized) : (failConn s c).Sized := by
  unfold failConn
  dsimp only
  refine foldl_keeps (P := State.Sized) (fun a b hk => ?_) _ ?_
  · split
    · exact finishOwn_sized hk
    · exact hk
  · exact updConn_sized h

theorem execRetransmitTimeout_sized {s : State} {c} (h : s.Sized) : Out.Sized (execRetransmitTimeout c s) := by
  unfold execRetransmitTimeout
  split
  · exact .next h
  · dsimp only
    split
    · exact .next h
    · split
      · exact .next (failConn_sized h)
      · exact .next (updConn_sized h)

theorem settleSent_sized {s : State} {conn n} (h : s.Sized) : (settleSent s conn n).Sized := by
  unfold settleSent
  split
  · split
    · exact h
    · split
      · exact h
      · exact finishCommand_sized h
  · exact h

theorem execReltexAckReceive_sized {s : State} {a} (h : s.Sized) : Out.Sized (execReltexAckReceive a s) := by
  unfold execReltexAckReceive
  extract_lets n s1
  have h1 : s1.Sized := by
    dsimp only [s1]
    split
    · exact updConn_sized h
    · exact h
  clear_value s1
  split
  · exact .next h
  · dsimp only
    split
    · refine .next ?_
      split
      · exact finishOwn_sized h1
      · exact h1
    · split
      · exact .next (finishOwn_sized (updConn_sized h1))
      · refine .next ?_
        split
        · exact settleSent_sized (updConn_sized h1)
        · exact updConn_sized h1

theorem placeBytes_sized {s : State} {p a bs} (h : s.Sized) : (placeBytes s p a bs).Sized := by
  unfold placeBytes
  dsimp only
  split
  · next he => exact of_some he writeObstacle_sized
  · exact .ok (foldl_keeps (P := State.Sized) (fun _ _ hk => writeWhole_sized hk) _ h)

theorem takePacket_sized {s : State} {p refused} (h : s.Sized) : (takePacket s p refused).Sized := h

theorem askFor_sized {s : State} {c p host a write} (h : s.Sized) : (askFor s c p host a write).Sized := by
  unfold askFor
  dsimp only
  split
  · exact h
  · exact holdOne_sized h

theorem readWindow_sized {s : State} {x p w} (h : s.Sized) : (readWindow s x p w).Sized := readGlobal_sized h

theorem serveGet_sized {s : State} {c x p} (h : s.Sized) : (serveGet s c x p).1.Sized := by
  unfold serveGet
  split
  · exact updConn_sized h
  · split
    · next he => exact updConn_sized (Elem.sized_of_ok he (readWindow_sized h))
    · exact askFor_sized h
    · exact updConn_sized h

theorem settleNext_sized {s : State} {c} (h : s.Sized) : (settleNext c s).Sized := by
  unfold settleNext
  split
  · exact h
  · dsimp only
    split
    · exact updConn_sized h
    · split
      · exact h
      · split
        · next he => exact of_fst he (serveGet_sized h)
        · next he => exact updConn_sized (of_fst he (serveGet_sized h))

theorem settleMessages_sized {s : State} {c} (h : s.Sized) : (settleMessages s c).Sized := by
  unfold settleMessages
  split
  · exact h
  · exact foldl_keeps (P := State.Sized) (fun _ _ hk => settleNext_sized hk) _ h

theorem receiveWrite_sized {s : State} {x p w} (h : s.Sized) : Out.Sized (receiveWrite s x p w) := by
  unfold receiveWrite
  dsimp only
  split
  · split
    · next he =>
      exact .next (settleMessages_sized (takePacket_sized (updConn_sized (Access.sized_of_ok he (accessLane_sized h)))))
    · exact .next (askFor_sized h)
    · exact .next (takePacket_sized h)
    · exact .next (takePacket_sized h)
    · exact .fault
  · split
    · next he =>
      exact .next (settleMessages_sized (takePacket_sized (updConn_sized (Elem.sized_of_ok he (placeBytes_sized h)))))
    · exact .next (askFor_sized h)
    · exact .next (takePacket_sized h)
    · exact .next (takePacket_sized h)
    · exact .fault

theorem refuseGet_sized {s : State} {p} (h : s.Sized) : (refuseGet s p).Sized :=
  settleMessages_sized (takePacket_sized (updConn_sized h))

theorem receiveGet_sized {s : State} {x p w} (h : s.Sized) : Out.Sized (receiveGet s x p w) := by
  unfold receiveGet
  cases readWindow s x p w with
  | replay host a write => exact .next (askFor_sized h)
  | hole => exact .fault
  | ok t bs bad => exact .next (settleMessages_sized (takePacket_sized (updConn_sized h)))
  | stop cause a => exact .next (refuseGet_sized h)
  | page k => exact .next (refuseGet_sized h)

theorem firstBar_sized {s : State} {p a n} : IfSome (fun r => r.1.Sized) (firstBar s p a n) := by
  unfold firstBar
  dsimp only
  cases he : List.findSome? _ _ with
  | none => exact .none
  | some r =>
    obtain ⟨o, -, hx⟩ := List.exists_of_findSome?_eq_some he
    split at hx
    · cases hx
    · obtain ⟨x, hw, rfl⟩ := Option.map_eq_some_iff.mp hx
      exact .some (of_some hw writeObstacle_sized)

theorem placeResponse_sized {s : State} {p n y a len stop} (h : s.Sized) :
    Out.Sized (placeResponse s p n y a len stop) := by
  unfold placeResponse
  dsimp only
  split
  · next he =>
    have ht := Elem.sized_of_ok he (placeBytes_sized h)
    refine .next ?_
    split
    · split
      · exact ht
      · exact finishCommand_sized ht
    · split
      · exact ht
      · exact finishCommand_sized ht
  · refine .next ?_
    split
    · exact h
    · exact holdCommand_sized h
  · exact .next (finishCommand_sized h)
  · exact .next (wantPage_sized h)
  · exact .fault

theorem receiveResponse_sized {s : State} {p} (h : s.Sized) : Out.Sized (receiveResponse s p) := by
  unfold receiveResponse
  split
  · exact .next (takePacket_sized h)
  · split
    · exact .next (takePacket_sized h)
    · dsimp only
      split
      · exact placeResponse_sized h
      · split
        · exact placeResponse_sized h
        · exact placeResponse_sized h
        · refine .next ?_
          split
          · exact h
          · exact holdCommand_sized h
        · exact .next (wantPage_sized h)
        · exact .fault
        · exact .next h

theorem receiveNew_sized {s : State} {x p} (h : s.Sized) : Out.Sized (receiveNew s x p) := by
  unfold receiveNew
  split
  · exact receiveResponse_sized h
  · exact .next (refuseGet_sized h)
  · exact receiveGet_sized h
  · exact .next h
  · exact .next (takePacket_sized h)
  · exact receiveWrite_sized h
  · exact .next (takePacket_sized h)
  · exact receiveWrite_sized h

theorem execReltexPacketReceive_sized {s : State} {p} (h : s.Sized) : Out.Sized (execReltexPacketReceive p s) := by
  unfold execReltexPacketReceive
  split
  · exact .next h
  · dsimp only
    split
    · exact execReltexAckReceive_sized h
    · split
      · exact .next (updConn_sized h)
      · split
        · exact .next h
        · exact receiveNew_sized h

theorem execNwait_sized {s : State} {a b} (h : s.Sized) : Out.Sized (execNwait a b s) := by
  unfold execNwait
  refine issueSplit_sized h (fun c hc => ?_)
  split
  · exact Cx.trapAt_sized hc
  · split
    · exact Cx.done_sized hc
    · split
      · exact Cx.trapAt_sized hc
      · exact Cx.stall_sized hc

theorem execNwaitRd_sized {s : State} {a b} (h : s.Sized) : Out.Sized (execNwaitRd a b s) := by
  unfold execNwaitRd
  refine issueSplit_sized h (fun c hc => ?_)
  split
  · exact Cx.trapAt_sized hc
  · exact Cx.scalarDone_sized hc (Cx.putScalar64_sized hc)


/-! ### Place: what its operations leave of the register tables -/

theorem grantOne_sized {s : State} {n} (h : s.Sized) : (grantOne s n).Sized := by
  unfold grantOne
  split
  · exact h
  · split <;> exact h

theorem grantRequests_sized {s : State} (h : s.Sized) : (grantRequests s).Sized :=
  foldl_keeps (P := State.Sized) (fun _ _ hk => grantOne_sized hk) _ h

theorem execRacq_sized {s : State} (h : s.Sized) : Out.Sized (execRacq s) := by
  unfold execRacq
  refine issueSplit_sized h (fun c hc => ?_)
  split
  · exact Cx.done_sized hc
  · split
    · exact Cx.done_sized hc
    · extract_lets n asked s1 granted
      have hg : (Cx.Sized { c with s := s1 }) := hc.withState (grantRequests_sized hc.s)
      clear_value granted
      split
      · exact Cx.done_sized hg
      · exact Cx.stall_sized hg

/-! ### Queue: what its operations leave of the register tables -/

theorem putPhys_sized {s : State} {pa bs} (h : s.Sized) : (putPhys s pa bs).Sized := writeLoc_sized h

theorem updQueue_sized {s : State} {q f} (h : s.Sized) : (updQueue s q f).Sized := h

theorem putResult_sized {s : State} {q index code cause} (h : s.Sized) : (putResult s q index code cause).Sized :=
  putPhys_sized h

theorem execLaunchQueueBinding_sized {s : State} {q b} (h : s.Sized) : Out.Sized (execLaunchQueueBinding q b s) := by
  unfold execLaunchQueueBinding
  extract_lets busy s1 x
  have h1 : s1.Sized := putPhys_sized h
  clear_value s1
  split
  · exact .next h
  · exact .next h1

theorem execHostDbell_sized {s : State} {v} (h : s.Sized) : Out.Sized (execHostDbell v s) := by
  unfold execHostDbell
  dsimp only
  refine .next ?_
  split
  · exact h
  · split
    · split <;> exact h
    · exact h

theorem beginWaitOf_sized {t : State} {s q} (h : t.Sized) : (beginWaitOf s q t).Sized := by
  unfold beginWaitOf
  split <;> exact h

theorem beginWait_sized {t : State} {s l} (h : t.Sized) : (beginWait s l t).Sized := by
  unfold beginWait
  split
  · exact h
  · exact beginWaitOf_sized h

theorem beginWaits_sized {t : State} {s} (h : t.Sized) : (beginWaits s t).Sized :=
  foldl_keeps (P := State.Sized) (fun _ _ hk => beginWaitOf_sized hk) _ h

theorem addLaunch_sized {s : State} {l} (h : s.Sized) : (addLaunch s l).Sized := beginWait_sized h

theorem addEnded_sized {s : State} {origin asid level r refusal cancelled} (h : s.Sized) :
    (addEnded s origin asid level r refusal cancelled).Sized := addLaunch_sized h

theorem lookAt_sized {s : State} {asid a} (h : s.Sized) : (lookAt s asid a).Sized := by
  unfold lookAt
  split
  · exact beforeAccess_sized h
  · exact h

theorem look_sized {s : State} {asid a n} (h : s.Sized) : (look s asid a n).Sized := by
  unfold look
  dsimp only
  split
  · exact lookAt_sized h
  · exact lookAt_sized (lookAt_sized h)

theorem enqueue_sized {s : State} {q x b d} (h : s.Sized) : (enqueue s q x b d).Sized :=
  updQueue_sized (putPhys_sized (putPhys_sized h))

theorem execLaunch_sized {s : State} {a b e} (h : s.Sized) : Out.Sized (execLaunch a b e s) := by
  unfold execLaunch
  refine issueSplit_sized h (fun c hc => ?_)
  refine Cx.releasing_sized hc (fun c2 hc2 => ?_)
  extract_lets addr q p status
  have hstatus (x : Cx) (v : Nat) (hx : x.Sized) : Out.Sized (status x v) :=
    Cx.scalarDone_sized hx (Cx.putScalar_sized hx)
  clear_value status
  split
  · exact Cx.trapAt_sized hc2
  · split
    · exact hstatus _ _ hc2
    · split
      · exact hstatus _ _ hc2
      · split
        · exact hstatus _ _ hc2
        · split
          · exact Cx.trapAt_sized hc2
          · exact .fault
          · exact Cx.stall_sized hc2
          · exact Cx.holdStalled_sized hc2
          · next he =>
            have ht := Elem.sized_of_ok he (readGlobal_sized hc2.s)
            dsimp only
            split
            · exact Cx.trapAt_sized (hc2.withState ht)
            · split
              · refine hstatus _ _ ?_
                split
                · exact hc2.withState (enqueue_sized ht)
                · exact hc2.withState ht
              · split
                · exact .fault
                · exact Cx.holdStalled_sized (hc2.withState (look_sized ht))
                · exact hstatus _ _ (hc2.withState (look_sized ht))
                · split
                  · exact hstatus _ _ (hc2.withState (look_sized ht))
                  · exact hstatus _ _ (hc2.withState (enqueue_sized (look_sized ht)))

theorem advanceHead_sized {s : State} {q} (h : s.Sized) : (advanceHead s q).Sized := by
  unfold advanceHead
  split
  · exact h
  · refine foldl_keeps (P := State.Sized) (fun a b hk => ?_) _ ?_
    · split
      · exact hk
      · dsimp only
        split
        · exact updQueue_sized (putPhys_sized hk)
        · exact hk
    · exact h

theorem closeLaunch_sized {s : State} {n l fault} (h : s.Sized) : (closeLaunch s n l fault).Sized := by
  unfold closeLaunch
  dsimp only
  split
  · refine advanceHead_sized ?_
    unfold updQueue
    split <;> exact h
  · unfold nodeEnded
    split <;> exact h

theorem execGridRetire_sized {s : State} {n} (h : s.Sized) : Out.Sized (execGridRetire n s) := by
  unfold execGridRetire
  split
  · exact .next h
  · split
    · exact .next h
    · extract_lets s1 p
      have h1 : s1.Sized := by
        dsimp only [s1]
        split
        · split
          · exact putResult_sized h
          · exact h
        · exact h
      clear_value s1
      split
      · exact .next (closeLaunch_sized h1)
      · split
        · exact .next (closeLaunch_sized h1)
        · split
          · exact .next h
          · split
            · next he => exact .next (closeLaunch_sized (Elem.sized_of_ok he (writeGlobal_sized h1)))
            · exact .next (closeLaunch_sized h1)
            · exact .fault
            · exact .next h
            · split
              · exact .next h
              · exact .next (holdOne_sized h)

theorem cancelGraph_sized {s : State} {g} (h : s.Sized) : (cancelGraph s g).Sized := by
  unfold cancelGraph
  split
  · exact h
  · dsimp only
    refine foldl_keeps (P := State.Sized) (fun a b hk => ?_) _ ?_
    · split
      · split
        · exact cancelLaunch_sized hk
        · exact hk
      · exact hk
    · exact h

theorem execCancelRecord_sized {s : State} {q slot} (h : s.Sized) : Out.Sized (execCancelRecord q slot s) := by
  unfold execCancelRecord
  split
  · exact .next h
  · dsimp only
    split
    · exact .next h
    · split
      · exact .next h
      · refine .next ?_
        refine foldl_keeps (P := State.Sized) (fun a b hk => ?_) _ ?_
        · exact cancelGraph_sized hk
        · refine foldl_keeps (P := State.Sized) (fun a b hk2 => ?_) _ ?_
          · split
            · exact hk2
            · exact cancelLaunch_sized hk2
          · exact h


/-! ### Nodes: what its operations leave of the register tables -/

theorem readNode_sized {s : State} {asid b} (h : s.Sized) : (readNode s asid b).1.Sized := by
  unfold readNode
  dsimp only
  split
  · exact h
  · split
    · exact h
    · exact look_sized h

theorem readNodes_sized {s : State} {asid addr left n} (h : s.Sized) : (readNodes asid addr left n s).1.Sized := by
  induction left generalizing s n with
  | zero => exact h
  | succ left ih =>
    have hl := look_sized (asid := asid) (a := addr + BitVec.ofNat 64 (64 + 64 * n)) (n := 64) h
    unfold readNodes
    dsimp only
    split
    · exact hl
    · exact hl
    · exact hl
    · split
      · next he =>
        have ht := of_fst he (readNode_sized hl)
        split
        · next he2 => exact of_fst he2 (ih ht)
        · exact ih ht
      · exact readNode_sized hl

theorem readGraph_sized {s : State} {asid addr} (h : s.Sized) : (readGraph s asid addr).1.Sized := by
  unfold readGraph
  dsimp only
  split
  · exact look_sized h
  · exact look_sized h
  · exact look_sized h
  · split
    · exact look_sized h
    · split
      · next he => exact of_fst he (readNodes_sized (look_sized h))
      · exact readNodes_sized (look_sized h)

theorem holdGraph_sized {s : State} {g asid host addr write} (h : s.Sized) :
    Out.Sized (holdGraph s g asid host addr write) := by
  unfold holdGraph
  split
  · exact .next h
  · exact .next (holdOne_sized h)

theorem startNode_sized {s : State} {g n x level} (h : s.Sized) : Out.Sized (startNode s g n x level) := by
  unfold startNode
  dsimp only
  split
  · exact .next (addEnded_sized h)
  · split
    · exact .next (addEnded_sized (look_sized h))
    · exact .fault
    · exact holdGraph_sized (look_sized h)
    · split
      · exact .next (addEnded_sized (look_sized h))
      · split
        · exact .next (addEnded_sized (look_sized h))
        · split
          · exact .next (addEnded_sized (look_sized (look_sized h)))
          · exact .fault
          · exact holdGraph_sized (look_sized (look_sized h))
          · split
            · exact .next (addEnded_sized (look_sized (look_sized h)))
            · split
              · exact .next (addEnded_sized (look_sized (look_sized h)))
              · exact .next (addLaunch_sized (look_sized (look_sized h)))

theorem startCopy_sized {s : State} {g n x} (h : s.Sized) : Out.Sized (startCopy s g n x) := by
  unfold startCopy
  dsimp only
  split
  · exact .next (cancelGraph_sized (look_sized h))
  · exact .fault
  · exact holdGraph_sized (look_sized h)
  · split <;> exact .next (look_sized h)

theorem withWord_sized {s : State} {g n x k} (h : s.Sized) (hk : ∀ s0 v1, s0.Sized → Out.Sized (k s0 v1)) :
    Out.Sized (withWord s g n x k) := by
  unfold withWord
  dsimp only
  split
  · exact hk _ _ (look_sized h)
  · exact .next (cancelGraph_sized (look_sized h))
  · exact .fault
  · exact holdGraph_sized (look_sized h)

theorem signalNode_sized {s : State} {g n x} (h : s.Sized) : Out.Sized (signalNode s g n x) := by
  unfold signalNode
  dsimp only
  split
  · next he =>
    have ht := Elem.sized_of_ok he (writeGlobal_sized h)
    exact .next ht
  · exact .next (cancelGraph_sized h)
  · exact .next h
  · exact .fault
  · exact holdGraph_sized h

theorem runNode_sized {s : State} {g n x level} (h : s.Sized) : Out.Sized (runNode s g n x level) := by
  unfold runNode
  split
  · exact startNode_sized h
  · exact startCopy_sized h
  · exact withWord_sized h (fun _ _ hk => .next hk)
  · exact withWord_sized h (fun _ _ hk => .next hk)
  · exact .next h
  · exact signalNode_sized h

theorem graphStep_sized {s : State} {g} (h : s.Sized) : Out.Sized (graphStep s g) := by
  unfold graphStep
  split
  · exact .next h
  · dsimp only
    split
    · exact .next (cancelGraph_sized h)
    · split
      · exact .next h
      · split
        · exact .next (cancelGraph_sized h)
        · split
          · exact .next (addEnded_sized h)
          · split
            · split
              · exact .next h
              · exact runNode_sized h
            · exact .next h
            · exact .next h

theorem execGraphWaitSatisfied_sized {s : State} {g n} (h : s.Sized) : Out.Sized (execGraphWaitSatisfied g n s) := by
  unfold execGraphWaitSatisfied
  split
  · exact .next h
  · dsimp only
    split
    · exact .next h
    · refine withWord_sized h (fun c _ hc => ?_)
      refine .next ?_
      split <;> exact hc


/-! ### Sched: what its operations leave of the register tables -/

theorem markStarted_sized {s : State} {q x} (h : s.Sized) : (markStarted s q x).Sized := putResult_sized h

theorem execLaunchRecordStart_sized {s : State} {q} (h : s.Sized) : Out.Sized (execLaunchRecordStart q s) := by
  unfold execLaunchRecordStart
  split
  · exact .next h
  · next x hx =>
    extract_lets b r origin refuse hold start
    have hrefuse (t : State) (cause : Nat) (ht : t.Sized) : Out.Sized (refuse t cause) := .next (addEnded_sized ht)
    have hstart (t : State) (d : List Byte) (ht : t.Sized) : Out.Sized (start t d) :=
      .next (addLaunch_sized (markStarted_sized ht))
    have hhold (t : State) (host : Bool) (a : DWord) (ht : t.Sized) : Out.Sized (hold t host a) := by
      dsimp only [hold]
      split
      · exact .next ht
      · exact .next (holdOne_sized ht)
    clear_value refuse hold start
    split
    · exact .next h
    · split
      · exact .next (addEnded_sized h)
      · split
        · exact .next h
        · split
          · exact hrefuse _ _ h
          · split
            · split
              next seen found he =>
              have hs := of_fst he (readGraph_sized h)
              cases found with
              | refused => exact hrefuse _ _ hs
              | hole => exact .fault
              | replay host a => exact hhold _ _ _ hs
              | ok g =>
                have hm : (markStarted seen q x).Sized := markStarted_sized hs
                exact .next hm
            · split
              · exact hstart _ _ h
              · have hs := look_sized (asid := x.asid) (a := r.target) (n := 64) h
                split
                · exact hrefuse _ _ hs
                · exact .fault
                · exact hhold _ _ _ hs
                · split
                  · exact hrefuse _ _ hs
                  · exact hstart _ _ hs

theorem addWarps_sized {s : State} {g core lanes entry quarters} (h : s.Sized) :
    (addWarps s g core lanes entry quarters).Sized := by
  unfold addWarps
  refine foldl_keeps (P := State.Sized) (fun a b hk => ?_) _ h
  have hw : (Warp.start g b.1 core b.2 (launchedLanes lanes b.1)
      (Split.start entry (launchedLanes lanes b.1) (List.replicate 64 0) a.ticks)).Sized :=
    Warp.start_sized (Split.start_sized List.length_replicate)
  exact hk.withWarps (hk.warps.put hw)

theorem addGroup_sized {s : State} {n k p} (h : s.Sized) : (addGroup n k s p).Sized := by
  refine addWarps_sized (State.Sized.withWgs (s := { s with fresh := _ }) h (h.wgs.put ?_))
  intro e he
  cases he

theorem admitOne_sized {s : State} {lk x} (h : s.Sized) : (admitOne lk s x).Sized := by
  unfold admitOne
  split
  · exact h
  · exact foldl_keeps (P := State.Sized) (fun _ _ hk => addGroup_sized hk) _ h

theorem resumeOne_sized {s : State} {k x} (h : s.Sized) : (resumeOne k s x).Sized := by
  unfold resumeOne
  split
  · exact h
  · refine State.Sized.of_tables (s := List.foldl _ s _) ?_ rfl rfl
    refine foldl_keeps (P := State.Sized) (fun t p ht => ?_) _ h
    dsimp only
    split
    · exact ht
    · next g hg =>
      have hg' : g.Sized := ht.wg hg
      refine State.sized_iff.mpr ⟨ht.warps.map fun q hq => ?_, ht.wgs.put hg'⟩
      split <;> exact hq

theorem resumeGrid_sized {s : State} {n ks} (h : s.Sized) : IfSome State.Sized (resumeGrid n ks s) := by
  induction ks generalizing s with
  | nil => exact .some h
  | cons k ks ih =>
    unfold resumeGrid
    split
    · exact .none
    · split
      · exact .none
      · exact ih (resumeOne_sized h)

theorem placeCandidate_sized {s : State} {c plan} (h : s.Sized) : IfSome State.Sized (placeCandidate s c plan) := by
  unfold placeCandidate
  split
  · split
    · exact .none
    · split
      · exact .none
      · split
        · unfold Option.map
          split
          · exact .some (foldl_keeps (P := State.Sized) (fun _ _ hk => admitOne_sized hk) _ h)
          · exact .none
        · exact .some (admitOne_sized h)
  · split
    · exact .none
    · split
      · exact .none
      · split
        · exact .none
        · dsimp only
          split
          · split
            · exact resumeGrid_sized (resumeOne_sized h)
            · exact .none
          · exact .some (resumeOne_sized h)

theorem placeFirst_sized {s : State} {plan cs} (h : s.Sized) : IfSome State.Sized (placeFirst s plan cs) := by
  induction cs with
  | nil => exact .none
  | cons q cs ih =>
    unfold placeFirst
    split
    · next he =>
      have ht := of_some he (placeCandidate_sized h)
      exact .some ht
    · split
      · exact .none
      · exact ih

theorem execTimeSliceExpiry_sized {s : State} {q} (h : s.Sized) : Out.Sized (execTimeSliceExpiry q s) := by
  unfold execTimeSliceExpiry
  split
  · exact .next h
  · split
    · exact .next h
    · split
      · exact .next h
      · dsimp only
        refine .next ?_
        split
        · exact requestPreempt_sized h
        · exact h

theorem Split.unslot_sized {sp : Split} (h : sp.Sized) : sp.unslot.Sized := by
  unfold Split.unslot
  split <;> exact h

theorem execPreemptionSaveComplete_sized {s : State} {k} (h : s.Sized) :
    Out.Sized (execPreemptionSaveComplete k s) := by
  unfold execPreemptionSaveComplete
  split
  · exact .next h
  · split
    · exact .next h
    · extract_lets ws save s1
      have h1 : s1.Sized := State.Sized.mapWarps (s := { s with skeins := _ }) h fun w hw =>
        hw.withSplits (hw.splits.mapVal fun _ hsp => Split.unslot_sized hsp)
      exact .next (grantRequests_sized (beginWait_sized h1))

theorem closeSlots_sized {s : State} {k w} (h : s.Sized) : (closeSlots s k w).Sized := by
  unfold closeSlots
  dsimp only
  refine foldl_keeps (P := State.Sized) (fun a b hk => ?_) _ ?_
  · exact hk
  · refine foldl_keeps (P := State.Sized) (fun a b hk2 => ?_) _ ?_
    · exact hk2
    · exact h

theorem lastRetired_sized {s : State} {k} (h : s.Sized) : (lastRetired s k).Sized := by
  unfold lastRetired
  split <;> exact h

theorem execWarpRetire_sized {s : State} {wk} (h : s.Sized) : Out.Sized (execWarpRetire wk s) := by
  unfold execWarpRetire
  split
  · exact .next h
  · split
    · exact .next h
    · split
      · exact .next h
      · exact .next (lastRetired_sized (testBarriers_sized (closeSlots_sized (h.withWarps h.warps.del))))

theorem execSkeinRetire_sized {s : State} {k} (h : s.Sized) : Out.Sized (execSkeinRetire k s) := by
  unfold execSkeinRetire
  split
  · exact .next h
  · split
    · exact .next h
    · refine .next (grantRequests_sized ?_)
      exact State.sized_iff.mpr ⟨h.warps.filter _, h.wgs.filter _⟩

theorem abortEngine_sized {s : State} {g} (h : s.Sized) : Out.Sized (abortEngine g s) := by
  unfold abortEngine
  split
  · exact .next h
  · next x hx =>
    split
    · exact .next h
    · next e he =>
      have hen : e.Sized := h.wg hx e he
      extract_lets s1 back
      have h1 : s1.Sized := h.putWg (Workgroup.sized_of_engine rfl hen)
      clear_value s1
      refine .next ?_
      split
      · split
        · exact h1
        · exact orStatusAt_sized h1
      · exact h1

/-! ### Select: what its operations leave of the register tables -/

theorem fetchWord_sized {s : State} {p a} (h : s.Sized) : (fetchWord s p a).Sized := by
  unfold fetchWord
  split
  · exact .fault
  · exact .fault
  · exact .hole
  · exact .replay
  · split
    · exact .fault
    · exact .ok (beforeAccess_sized h)

theorem fetchRun_sized {s : State} {p n pc} (h : s.Sized) : (fetchRun p n s pc).Sized := by
  induction n generalizing s pc with
  | zero => exact .ok h
  | succ n ih =>
    unfold fetchRun
    split
    · next he =>
      have ht := Fetch.sized_of_ok he (fetchWord_sized h)
      split
      · exact .ok ht
      · split
        · next he2 => exact .ok (Fetch.sized_of_ok he2 (ih ht))
        · exact ih ht
    · exact fetchWord_sized h

theorem execRunFetch_sized {s : State} {wk e} (h : s.Sized) : Out.Sized (execRunFetch wk e s) := by
  unfold execRunFetch
  split
  · exact .next h
  · next c he =>
    have hc : c.Sized := of_some he (cxOf_sized h)
    have hst (st : SplitStatus) : Cx.Sized { c with sp := { c.sp with status := st } } := hc.withSplit hc.sp
    split
    · exact .next h
    · split
      · exact Cx.deniedFetch_sized hc
      · split
        · exact .next (Cx.commit_sized (hst _))
        · dsimp only
          split
          · next he2 =>
            have hd := Cx.reread_sized hc (Fetch.sized_of_ok he2 (fetchRun_sized h))
            exact .next (Cx.commit_sized (hd.withSplit hd.sp))
          · split
            · exact .next (Cx.commit_sized (hst _))
            · exact .next (holdOne_sized (Cx.commit_sized (hst _)))
          · exact Cx.trapBefore_sized (hst _)
          · exact .fault

theorem runSkein_sized {s : State} {w} (h : s.Sized) : (runSkein s w).Sized := by
  unfold runSkein
  split <;> exact h

theorem regangWarp_sized {w : Warp} {clock} (h : w.Sized) : (regangWarp clock w).Sized := by
  unfold regangWarp
  split
  · exact h
  · exact Warp.refill_sized (foldl_keeps (P := Warp.Sized) (fun _ _ hw => Warp.regang_sized hw) _ h)

theorem withFocus_sized {s : State} {f} (h : s.Sized) : State.Sized { s with focus := f } := h

theorem execIssueSelector_sized {s : State} {q} (h : s.Sized) : Out.Sized (execIssueSelector q s) := by
  unfold execIssueSelector
  extract_lets core quarter mine s1
  have h1 : s1.Sized := State.Sized.mapWarps h fun _ hw => regangWarp_sized hw
  clear_value s1
  split
  · exact .next h1
  · split
    · exact .next h1
    · next c he =>
      have hc : c.Sized := of_some he (cxOf_sized h1)
      exact .next (withFocus_sized (runSkein_sized (Cx.commit_sized (hc.withSplit hc.sp))))

/-! ### Reliability: what its operations leave of the register tables -/

theorem updPlat_sized {s : State} {f} (h : s.Sized) : (updPlat s f).Sized := h

theorem execHostEvent_sized {s : State} {v} (h : s.Sized) : Out.Sized (execHostEvent v s) := by
  unfold execHostEvent
  refine .next ?_
  split
  · exact updPlat_sized h
  · exact h

theorem restorePage_sized {s : State} {page c} (h : s.Sized) : (restorePage s page c).Sized := h.of_tables rfl rfl

theorem execSnapshotPageCopy_sized {s : State} {l page} (h : s.Sized) :
    Out.Sized (execSnapshotPageCopy l page s) := by
  unfold execSnapshotPageCopy
  split
  · exact .next h
  · split <;> exact .next h

theorem execSnapshotPoolDecision_sized {s : State} {l grow} (h : s.Sized) :
    Out.Sized (execSnapshotPoolDecision l grow s) := by
  unfold execSnapshotPoolDecision
  split
  · exact .next h
  · exact .next h
  · refine .next ?_
    split
    · exact cancelLaunch_sized h
    · exact h

theorem execRollback_sized {s : State} {l} (h : s.Sized) : Out.Sized (execRollback l s) := by
  unfold execRollback
  split
  · exact .next h
  · split
    · exact .next h
    · dsimp only
      split
      · exact .next (foldl_keeps (P := State.Sized) (fun _ _ hk => restorePage_sized hk) _ h)
      · refine .next ?_
        split
        · split
          · exact putResult_sized (beginWait_sized (foldl_keeps (P := State.Sized) (fun _ _ hk2 =>
              restorePage_sized hk2) _ h))
          · exact beginWait_sized (foldl_keeps (P := State.Sized) (fun _ _ hk3 => restorePage_sized hk3) _ h)
        · exact beginWait_sized (foldl_keeps (P := State.Sized) (fun _ _ hk4 => restorePage_sized hk4) _ h)

theorem releaseCalls_sized {s : State} {core} (h : s.Sized) : (releaseCalls s core).Sized := by
  unfold releaseCalls
  split
  · exact h
  · dsimp only
    refine foldl_keeps (P := State.Sized) (fun a b hk => ?_) _ ?_
    · exact hk
    · exact h

theorem execUnitFencing_sized {s : State} {u} (h : s.Sized) : Out.Sized (execUnitFencing u s) := by
  unfold execUnitFencing
  split
  · exact .next h
  · dsimp only
    split
    · split
      · exact execModuleLoss_sized (updPlat_sized (updPlat_sized h))
      · exact .next (updPlat_sized (updPlat_sized h))
    · exact .next (releaseCalls_sized (updPlat_sized (updPlat_sized h)))
    · exact .next (updPlat_sized (updPlat_sized h))

theorem restarted_sized {s : State} {power} : (restarted s power).Sized :=
  State.sized_iff.mpr ⟨List.forall_mem_nil _, List.forall_mem_nil _⟩

theorem execPowerGood_sized {s : State} (h : s.Sized) : Out.Sized (execPowerGood s) := by
  unfold execPowerGood
  refine .next ?_
  split
  · exact restarted_sized
  · exact h

theorem execConventionalReset_sized {s : State} (h : s.Sized) : Out.Sized (execConventionalReset s) := by
  unfold execConventionalReset
  refine .next ?_
  split
  · exact h
  · exact restarted_sized

theorem startGroup_sized {s : State} {g} (h : s.Sized) : (startGroup s g).Sized := h

theorem gateGroup_sized {s : State} {g} (h : s.Sized) : (gateGroup s g).Sized := by
  unfold gateGroup
  split
  · exact updPlat_sized h
  · exact h

theorem execPowerUpStepReady_sized {s : State} {img} (h : s.Sized) : Out.Sized (execPowerUpStepReady img s) := by
  unfold execPowerUpStepReady
  dsimp only
  split
  · exact .next (updPlat_sized h)
  · exact .next (updPlat_sized h)
  · exact .next (updPlat_sized h)
  · refine .next ?_
    split
    · exact startGroup_sized h
    · exact h
  · exact .next h
  · exact .next h
  · exact .next h
  · exact .next h

theorem execCoreGroupStart_sized {s : State} {g} (h : s.Sized) : Out.Sized (execCoreGroupStart g s) := by
  refine .next ?_
  split
  · exact h
  · split
    · exact startGroup_sized h
    · split
      · exact updPlat_sized h
      · exact h

theorem cancelQueue_sized {s : State} {q} (h : s.Sized) : (cancelQueue s q).Sized := by
  unfold cancelQueue
  split
  · exact h
  · dsimp only
    refine foldl_keeps (P := State.Sized) (fun a b hk => ?_) _ ?_
    · split
      · next he => exact Out.sized_of_next he (execCancelRecord_sized hk)
      · exact hk
    · exact h

theorem execFunctionLevelReset_sized {s : State} (h : s.Sized) : Out.Sized (execFunctionLevelReset s) := by
  have hq := foldl_keeps (P := State.Sized) (f := fun s q => cancelQueue s q.1)
    (fun _ _ hk => cancelQueue_sized hk) s.queues h
  refine .next (foldl_keeps (P := State.Sized) (fun t a ht => ?_) _ (hq.of_tables rfl rfl))
  split
  · next he => exact Out.sized_of_next he (execAsidFreeing_sized ht)
  · exact ht

/-! ### Inputs: what its operations leave of the register tables -/

theorem setPod_sized {s : State} {q pos} (h : s.Sized) : (setPod s q pos).Sized := by
  unfold setPod
  dsimp only
  split
  · exact h
  · split <;> exact h

theorem walkAgain_sized {s : State} {stack n} (h : s.Sized) : (walkAgain s stack n).Sized := by
  unfold walkAgain
  dsimp only
  split
  · exact h
  · exact walkAhead_sized h

theorem hitWarp_sized {s : State} {wk f} (h : s.Sized) (hf : ∀ w, w.Sized → (f w).Sized) : (hitWarp s wk f).Sized :=
  h.withWarps (h.warps.upd hf)

theorem hitGroup_sized {s : State} {g f} (h : s.Sized) (hf : ∀ g : Workgroup, g.Sized → (f g).Sized) : (hitGroup s g f).Sized :=
  h.updWg hf

theorem spillPoison_sized {g : Nat} {x : Spilled} (h : x.split.Sized) : (spillPoison g x).split.Sized := h

theorem Split.refetched_sized {sp : Split} (h : sp.Sized) : sp.refetched.Sized := by
  unfold Split.refetched
  split <;> exact h

theorem applyInput_sized {s : State} {i} (h : s.Sized) : (applyInput i s).Sized := by
  cases i with
  | hostWrite a bs =>
    dsimp only [applyInput]
    split
    · exact claimFrames_sized (putPhys_sized h)
    · exact h
  | moduleWrite m p off bs => exact foreignWrite_sized h
  | discardWalk stack n => exact walkAgain_sized h
  | bindFrames asid first n => exact bindFrames_sized h
  | gate g => exact gateGroup_sized h
  | debugger on => exact beginWaits_sized h
  | pod q pos => exact setPod_sized h
  | heads m l =>
    dsimp only [applyInput]
    split <;> exact h
  | poisonVector wk r m => exact hitWarp_sized h fun w hw => hw
  | poisonPredicate wk r k => exact hitWarp_sized h fun w hw => hw
  | poisonJoin wk r => exact hitWarp_sized h fun w hw => hw
  | poisonScalar wk e r => exact hitWarp_sized h fun w hw => hw.withSplits (hw.splits.upd fun _ hsp => hsp)
  | poisonTemporary wk e r m => exact hitWarp_sized h fun w hw => hw.withSplits (hw.splits.upd fun _ hsp => hsp)
  | poisonLatch wk e => exact hitWarp_sized h fun w hw => hw.withSplits (hw.splits.upd fun _ hsp => hsp)
  | discardRun wk e => exact hitWarp_sized h fun w hw => hw.withSplits (hw.splits.upd fun _ hsp => Split.refetched_sized hsp)
  | poisonSpill wk seq g =>
    refine hitWarp_sized h fun w hw => hw.withSpill fun x hx => ?_
    obtain ⟨y, hy, rfl⟩ := List.mem_map.mp hx
    split
    · exact spillPoison_sized (hw.spill y hy)
    · exact hw.spill y hy
  | poisonSelvedge g r => exact hitGroup_sized h fun g hg => hg
  | poisonCounter g r => exact hitGroup_sized h fun g hg => hg
  | poisonTile g e => exact hitGroup_sized h fun g hg => hg
  | poisonEngine g r => exact hitGroup_sized h fun g hg => Workgroup.mapEngine_sized hg fun _ he => he
  | _ => exact h

/-! ### Arbiter: what its operations leave of the register tables -/

theorem focusSplit_sized {s : State} {wk e} (h : s.Sized) : (focusSplit s wk e).Sized :=
  State.Sized.updWarp (s := { s with focus := _ }) h fun _ hw => hw.withSplits (hw.splits.upd fun _ hsp => hsp)

theorem wakeSplit_sized {s : State} {wk e} (h : s.Sized) : (wakeSplit s wk e).Sized :=
  h.updWarp fun _ hw => hw.withSplits (hw.splits.upd fun _ hsp => hsp)

theorem perform_sized {s : State} {a} (h : s.Sized) : Out.Sized (perform a s) := by
  unfold perform
  cases a with
  | fetch => exact execRunFetch_sized h
  | select => exact execIssueSelector_sized h
  | leave =>
    dsimp only
    split
    · next he => exact Cx.leave_sized (of_some he (cxOf_sized h))
    · exact .next h
  | unpark =>
    dsimp only
    split
    · next he => exact Cx.unpark_sized (of_some he (cxOf_sized h))
    · exact .next h
  | parkTrap =>
    dsimp only
    split
    · next he => exact Cx.parkTrap_sized (of_some he (cxOf_sized h))
    · exact .next h
  | dropCommand =>
    dsimp only
    split
    · exact .next (finishCommand_sized h)
    · exact .next h
  | retry =>
    dsimp only
    split
    · exact .next (retryHeld_sized h)
    · exact .next h
  | poll => exact .next (focusSplit_sized h)
  | sendAck | engine => exact .next h
  | land => exact execLongLatencyWriteback_sized h
  | ack => exact execWriteAcknowledged_sized h
  | matrix => exact execMatrixExecute_sized h
  | rotatePause => exact .next (updPlat_sized h)
  | resumeMatrix => exact .next (updPlat_sized h)
  | deadlock => exact checkDeadlock_sized h
  | sleepEnd => exact execSleepExpiry_sized h
  | retireWarp => exact execWarpRetire_sized h
  | callTimeout => exact execRcallTimeout_sized h
  | stopFar => exact execFarTaskStopped_sized h
  | endFar => exact .next (finishFar_sized h)
  | startWaiting => exact .next (startWaiting_sized h)
  | callArrives => exact execFarCallArrival_sized h
  | replyArrives => exact execFarReplyArrival_sized h
  | expireCache => exact execReplyCacheExpiry_sized h
  | endEngine => exact abortEngine_sized h
  | copy => exact execCopyCommandComplete_sized h
  | marker => exact execMstepComplete_sized h
  | near => exact execNearCommandComplete_sized h
  | nearStop => exact execNearProgress_sized h
  | reduce => exact execMredContribution_sized h
  | send => exact sendMessage_sized h
  | nearOp => exact execNearOperationPerformed_sized h
  | queueAnswer => exact execMqModuleAnswer_sized h
  | retransmit => exact execRetransmitTimeout_sized h
  | serve => exact .next (settleMessages_sized h)
  | invalidated => exact .next (completeInvalidation_sized h)
  | admitPages => exact .next (admitPages_sized h)
  | record => exact execLaunchRecordStart_sized h
  | slice => exact execTimeSliceExpiry_sized h
  | place => exact .next ((placeFirst_sized h).getD h)
  | preempt => exact .next (requestPreempt_sized h)
  | save => exact execPreemptionSaveComplete_sized h
  | retireSkein => exact execSkeinRetire_sized h
  | retireGrid => exact execGridRetire_sized h
  | rollback => exact execRollback_sized h
  | copyPage => exact execSnapshotPageCopy_sized h
  | graph => exact graphStep_sized h
  | graphWait => exact execGraphWaitSatisfied_sized h

theorem pollTurn_sized {s : State} {wk e} (h : s.Sized) : (pollTurn wk e s).Sized := by
  unfold pollTurn
  split
  · exact .done (.next h)
  · split
    · exact .done (.next (focusSplit_sized h))
    · split
      · exact .trial h
      · exact .done (.next h)

theorem settleTrial_sized {s : State} {o : Out} {wk e} (h : s.Sized) (ho : Out.Sized o) :
    Out.Sized (settleTrial wk e s o) := by
  unfold settleTrial
  split
  · have ht := Out.sized_of_next rfl ho
    split
    · refine .next ?_
      split
      · exact ht
      · exact wakeSplit_sized h
    · exact .next (wakeSplit_sized h)
  · exact ho

theorem arbitrate_sized {s : State} (h : s.Sized) : (arbitrate s).Sized := by
  unfold arbitrate
  dsimp only
  split
  · exact .done (.next h)
  · exact pollTurn_sized h
  · exact .done (perform_sized h)

theorem splitTurn_sized {s : State} {wk e} (h : s.Sized) : (splitTurn wk e s).Sized := by
  unfold splitTurn
  split
  · exact .done (.next h)
  · next he =>
    have ht := of_some he (cxOf_sized h)
    split
    · exact .run h
    · exact .done (.next (unfocus_sized (Cx.commit_sized (ht.withSplit ht.sp))))

theorem engineTurn_sized {s : State} {g} (h : s.Sized) : (engineTurn g s).Sized := by
  unfold engineTurn
  split
  · exact .done (.next h)
  · next he =>
    have ht := of_some he (exOf_sized h)
    dsimp only
    split
    · next he2 =>
      have ht2 := Fetch.sized_of_ok he2 (fetchWord_sized h)
      exact .run ht2
    · exact .done (.next h)
    · exact .done (Ex.stop_sized ht)
    · exact .done .fault
    · split
      · exact .done (Ex.stop_sized ht)
      · exact .done (Ex.hold_sized ht)

theorem turnOf_sized {s : State} (h : s.Sized) : (turnOf s).Sized := by
  unfold turnOf
  split
  · dsimp only
    split
    · exact .done (.next h)
    · split
      · split
        · exact .done (.next h)
        · exact .run h
      · exact .done (.next (applyInput_sized h))
  · split
    · exact .done (.next h)
    · split
      · exact splitTurn_sized h
      · exact engineTurn_sized h
      · exact arbitrate_sized h


/-! ### Collective: what its operations leave of the register tables -/

theorem shuffle_sized {s : State} {i d a w src} (h : s.Sized) : Out.Sized (shuffle i s d a w src) :=
  issueSplit_sized h (fun _ hk => Cx.done_sized (Cx.putOperand_sized hk))

theorem execVote_sized {s : State} {d n a x} (h : s.Sized) : Out.Sized (execVote d n a x s) := by
  unfold execVote
  refine issueSplit_sized h (fun c hc => ?_)
  dsimp only
  split
  · split
    · exact Cx.trapAt_sized hc
    · exact Cx.scalarDone_sized hc (Cx.putScalar_sized (Cx.putScalar_sized (Cx.putScalar_sized hc)))
  · split
    · split
      · exact Cx.trapAt_sized hc
      · exact Cx.scalarDone_sized hc (Cx.putScalar_sized hc)
    · split
      · exact Cx.trapAt_sized hc
      · exact Cx.scalarDone_sized hc (Cx.putScalar_sized hc)

theorem execVred_sized {s : State} {d a x} (h : s.Sized) : Out.Sized (execVred d a x s) := by
  unfold execVred
  refine issueSplit_sized h (fun c hc => ?_)
  split
  · exact Cx.trapAt_sized hc
  · dsimp only
    refine Cx.done_sized ?_
    split
    · exact Cx.countSr_sized (Cx.putOperand_sized hc)
    · exact Cx.putOperand_sized hc

theorem execVscan_sized {s : State} {d a ex x} (h : s.Sized) : Out.Sized (execVscan d a ex x s) := by
  unfold execVscan
  refine issueSplit_sized h (fun c hc => ?_)
  split
  · exact Cx.trapAt_sized hc
  · dsimp only
    refine Cx.done_sized ?_
    split
    · exact Cx.countSr_sized (Cx.putOperand_sized hc)
    · exact Cx.putOperand_sized hc

theorem execVmatch_sized {s : State} {d a w} (h : s.Sized) : Out.Sized (execVmatch d a w s) :=
  issueSplit_sized h (fun _ hk => Cx.done_sized (foldl_keeps (P := Cx.Sized) (fun _ _ hk2 =>
    Cx.putRow_sized hk2) _ hk))

theorem execWidth_sized {s : State} {d} (h : s.Sized) : Out.Sized (execWidth d s) :=
  issueSplit_sized h (fun _ hk => Cx.scalarDone_sized hk (Cx.putScalar_sized hk))


/-! ### Dispatch: what its operations leave of the register tables -/

theorem exec_sized {s : State} {i} (h : s.Sized) : Out.Sized (exec i s) := by
  unfold exec
  cases i with
  | nop => exact execNop_sized h
  | sadd | ssub | smul | smulh | smulhn | sand | sor | sxor | sshl | sshr | ssra | smin | smax | sminn | smaxn |
      sclz | spopc | sbfe | sbfi | saddi | sandi | sori | sxori | sshli | sshri | smovi | smoviHi | scmp | ssel
      => exact scalarOp_sized h
  | sadd64 | ssub64 | sshf64 => exact scalarOp64_sized h
  | vadd | vsub | vmul | vmulh | vfma | vmin | vmax | vminp | vmaxp | vabs | vneg | vshl | vshr | vsra | vclz |
      vpopc | vfrac | vrnd | vclass | vaddi | vmuli | vshli | vshri | vsrai | vmini | vmaxi | vrcp | vrsq |
      vsqrt | vexp2 | vlog2 | vsin | vcos | vtanh | vsigm | verf => exact vecTyped_sized h
  | vand | vor | vxor | vnot | vbfe | vbfi | vandi | vori | vxori => exact vecWord_sized h
  | vdot4 => exact execVdot4_sized h
  | vscale => exact execVscale_sized h
  | vcvt => exact execVcvt_sized h
  | vpack => exact execVpack_sized h
  | vunpk => exact execVunpk_sized h
  | vqblk => exact execVqblk_sized h
  | vcmp => exact execVcmp_sized h
  | vcmpi => exact execVcmpi_sized h
  | pand | por | pxor | pmov => exact predOp_sized h
  | pmovV2p => exact execPmovV2p_sized h
  | pmovP2v => exact execPmovP2v_sized h
  | vsel => exact execVsel_sized h
  | vmov => exact execVmov_sized h
  | vmovi => exact execVmovi_sized h
  | vmovh => exact execVmovh_sized h
  | vbcs => exact execVbcs_sized h
  | vget => exact execVget_sized h
  | vput => exact execVput_sized h
  | vlid => exact execVlid_sized h
  | vbnd => exact execVbnd_sized h
  | vshfl | vshfu | vshfd | vshfx => exact shuffle_sized h
  | vote => exact execVote_sized h
  | vred => exact execVred_sized h
  | vscan => exact execVscan_sized h
  | vmatch => exact execVmatch_sized h
  | width => exact execWidth_sized h
  | br => exact execBr_sized h
  | bra => exact execBra_sized h
  | brc => exact execBrc_sized h
  | brx => exact execBrx_sized h
  | brxU => exact execBrxU_sized h
  | call => exact execCall_sized h
  | ret => exact execRet_sized h
  | jarm => exact execJarm_sized h
  | jarv => exact execJarv_sized h
  | jwait => exact execJwait_sized h
  | jclr => exact execJclr_sized h
  | yield => exact execYield_sized h
  | exit => exact execExit_sized h
  | warpRetire => exact execWarpRetire_sized h
  | trap => exact execTrap_sized h
  | tret => exact execTret_sized h
  | mode => exact execMode_sized h
  | barInit => exact execBarInit_sized h
  | barArv => exact execBarArv_sized h
  | barWait => exact execBarWait_sized h
  | kbar => exact execKbar_sized h
  | gbar => exact execGbar_sized h
  | fork => exact execFork_sized h
  | rdv => exact execRdv_sized h
  | rcall => exact execRcall_sized h
  | rcallRetry => exact execRcallRetry_sized h
  | rret => exact execRret_sized h
  | rwait => exact execRwait_sized h
  | launch => exact execLaunch_sized h
  | racq => exact execRacq_sized h
  | brk => exact execBrk_sized h
  | sbnd => exact execSbnd_sized h
  | ldN8 | ldI8 | ldN16 | ldI16 | ld32 | ld64 | ld128 => exact globalLoad_sized h
  | st => exact execSt_sized h
  | ldl32 | ldl128 => exact localLoad_sized h
  | stl => exact execStl_sized h
  | ldlQ => exact execLdlQ_sized h
  | stlQ => exact execStlQ_sized h
  | ldc => exact execLdc_sized h
  | sld => exact execSld_sized h
  | red => exact execRed_sized h
  | atomAdd | atomMin | atomMax | atomMinn | atomMaxn | atomAnd | atomOr | atomXor | atomSwap | atomCas | atomInc
      | atomDec | atomFadd => exact atomOp_sized h
  | atoml => exact execAtoml_sized h
  | reclassification => exact .next (reclassify_sized h)
  | cpy | cpyz => exact copyIssue_sized h
  | copyCommandComplete => exact execCopyCommandComplete_sized h
  | mrd => exact execMrd_sized h
  | mwait => exact execMwait_sized h
  | mstep => exact execMstep_sized h
  | mstepComplete => exact execMstepComplete_sized h
  | fence => exact execFence_sized h
  | writeAcknowledged => exact execWriteAcknowledged_sized h
  | pref => exact execPref_sized h
  | cinv => exact execCinv_sized h
  | cwb => exact execCwb_sized h
  | xatAdd => exact execXatAdd_sized h
  | xatRed => exact execXatRed_sized h
  | xatRmw => exact execXatRmw_sized h
  | nearOperationPerformed => exact execNearOperationPerformed_sized h
  | xatExpr => exact execXatExpr_sized h
  | xatFill => exact execXatFill_sized h
  | xatCopy => exact execXatCopy_sized h
  | rowTransferBlockCommit => exact execRowTransferBlockCommit_sized h
  | nearCommandComplete => exact execNearCommandComplete_sized h
  | nearProgress => exact execNearProgress_sized h
  | xwait => exact execXwait_sized h
  | mqPut => exact execMqPut_sized h
  | mqGet => exact execMqGet_sized h
  | mqModuleAnswer => exact execMqModuleAnswer_sized h
  | mred => exact execMred_sized h
  | mredContribution => exact execMredContribution_sized h
  | mrelay => exact execMrelay_sized h
  | nput => exact execNput_sized h
  | nget => exact execNget_sized h
  | nsig => exact execNsig_sized h
  | nwait => exact execNwait_sized h
  | nwaitRd => exact execNwaitRd_sized h
  | mmaI8t2 | mmaE4t2 | mmaI8i4 | mmaI8i8 | mmaE4e4 | mmaE4e5 | mmaE5e4 | mmaE5e5 | mmaE2e2 | mmaBf16 | mmaF16 |
      mmaBft2 => exact mmaIssue_sized h
  | msa => exact execMsa_sized h
  | matrixExecute => exact execMatrixExecute_sized h
  | mzero => exact execMzero_sized h
  | mzeroP => exact execMzeroP_sized h
  | mmovToRegisters => exact execMmovToRegisters_sized h
  | mmovToTile => exact execMmovToTile_sized h
  | mring => exact execMring_sized h
  | ePop => exact execEPop_sized h
  | eSa => exact execESa_sized h
  | eBias => exact execEBias_sized h
  | eAct => exact execEAct_sized h
  | eCvt => exact execECvt_sized h
  | eBnd => exact execEBnd_sized h
  | eSt => exact execESt_sized h
  | eAst => exact execEAst_sized h
  | eArv => exact execEArv_sized h
  | eBr => exact execEBr_sized h
  | eWait => exact execEWait_sized h
  | eEnd => exact execEEnd_sized h
  | srd => exact execSrd_sized h
  | swr => exact execSwr_sized h
  | ctlModeWrite => exact execCtlModeWrite_sized h
  | ctlCpyfltWrite => exact execCtlCpyfltWrite_sized h
  | ctlEstWrite => exact execCtlEstWrite_sized h
  | ctlTcauseWrite => exact execCtlTcauseWrite_sized h
  | clk => exact execClk_sized h
  | sleep => exact execSleep_sized h
  | sleepExpiry => exact execSleepExpiry_sized h
  | id => exact execId_sized h
  | dbg => exact execDbg_sized h
  | endRun => exact execEndRun_sized h
  | issueSelector => exact execIssueSelector_sized h
  | runFetch => exact execRunFetch_sized h
  | longLatencyWriteback => exact execLongLatencyWriteback_sized h
  | farCallArrival => exact execFarCallArrival_sized h
  | farReplyArrival => exact execFarReplyArrival_sized h
  | rcallTimeout => exact execRcallTimeout_sized h
  | replyCacheExpiry => exact execReplyCacheExpiry_sized h
  | farTaskStopped => exact execFarTaskStopped_sized h
  | hostDbell => exact execHostDbell_sized h
  | launchRecordStart => exact execLaunchRecordStart_sized h
  | skeinPlacement => exact .next ((placeFirst_sized h).getD h)
  | skeinRetire => exact execSkeinRetire_sized h
  | gridRetire => exact execGridRetire_sized h
  | graphWaitSatisfied => exact execGraphWaitSatisfied_sized h
  | preemptionRequest => exact .next (requestPreempt_sized h)
  | timeSliceExpiry => exact execTimeSliceExpiry_sized h
  | preemptionSaveComplete => exact execPreemptionSaveComplete_sized h
  | cancelRecord => exact execCancelRecord_sized h
  | translationInvalidate => exact execTranslationInvalidate_sized h
  | atsTranslationCompletion => exact execAtsTranslationCompletion_sized h
  | priPageResponse => exact execPriPageResponse_sized h
  | atsInvalidateRequest => exact execAtsInvalidateRequest_sized h
  | faultService => exact execFaultService_sized h
  | backInvalidation | scrub | currentLimit | temperatureLimit | fatalLimit | spdmRequest => exact .next h
  | moduleGrant => exact execModuleGrant_sized h
  | relayForward => exact execRelayForward_sized h
  | routeInstall => exact execRouteInstall_sized h
  | moduleLoss => exact execModuleLoss_sized h
  | packageLoss => exact execPackageLoss_sized h
  | reltexPacketReceive => exact execReltexPacketReceive_sized h
  | reltexAckReceive => exact execReltexAckReceive_sized h
  | retransmitTimeout => exact execRetransmitTimeout_sized h
  | snapshotPageCopy => exact execSnapshotPageCopy_sized h
  | snapshotPoolDecision => exact execSnapshotPoolDecision_sized h
  | rollback => exact execRollback_sized h
  | unitFencing => exact execUnitFencing_sized h
  | powerGood => exact execPowerGood_sized h
  | powerUpStepReady => exact execPowerUpStepReady_sized h
  | coreGroupStart => exact execCoreGroupStart_sized h
  | conventionalReset => exact execConventionalReset_sized h
  | functionLevelReset => exact execFunctionLevelReset_sized h
  | boardPowerRemoved => exact .next (restarted_sized)
  | hostEvent => exact execHostEvent_sized h
  | wordNotAnInstruction => exact execWordNotAnInstruction_sized h
  | asidBinding => exact execAsidBinding_sized h
  | asidFreeing => exact execAsidFreeing_sized h
  | connectionBinding => exact execConnectionBinding_sized h
  | launchQueueBinding => exact execLaunchQueueBinding_sized h
  | modulePortBringUp => exact execModulePortBringUp_sized h

theorem step_sized {s : State} (h : s.Sized) : Out.Sized (step s) := by
  have ht : (turnOf (passTime s)).Sized := turnOf_sized h
  unfold step
  generalize turnOf (passTime s) = turn at ht
  cases ht with
  | run ht => exact exec_sized ht
  | trial ht => exact settleTrial_sized ht (exec_sized (focusSplit_sized ht))
  | done ho => exact ho

/-- Settles O46: every operation of the model leaves the register tables at their sizes, so every step does. -/
theorem registerTables : Obligations.RegisterTables := by
  intro s t hs ht
  exact Out.sized_of_next ht (step_sized hs)

end Sys2Proof.Machine

namespace Sys2Proof.Machine

open Sys2Proof.Claims

/-! ### Values of the scalar instructions (R110 to R112) -/

theorem ofInt_toInt_add (a b : Word) : BitVec.ofInt 32 (a.toInt + b.toInt) = a + b := by
  rw [BitVec.ofInt_add, BitVec.ofInt_toInt, BitVec.ofInt_toInt]

theorem ofInt_toInt_sub (a b : Word) : BitVec.ofInt 32 (a.toInt - b.toInt) = a - b := by
  rw [Int.sub_eq_add_neg, BitVec.ofInt_add, BitVec.ofInt_neg, BitVec.ofInt_toInt, BitVec.ofInt_toInt, BitVec.sub_eq_add_neg]

theorem ofInt_toInt_mul (a b : Word) : BitVec.ofInt 32 (a.toInt * b.toInt) = a * b := by
  rw [BitVec.ofInt_mul, BitVec.ofInt_toInt, BitVec.ofInt_toInt]

theorem mulHighNatural_eq (a b : Word) : mulHighNatural a b = BitVec.ofNat 32 (a.toNat * b.toNat / 2 ^ 32) := by
  have h : a.toNat * b.toNat < 2 ^ 64 := by
    have := Nat.mul_lt_mul'' a.isLt b.isLt
    omega
  apply BitVec.eq_of_toNat_eq
  simp [mulHighNatural, hiWord, Nat.shiftRight_eq_div_pow]
  omega

/-- The high half of a pair whose value is an integer. -/
theorem hiWord_ofInt (z : Int) : hiWord (BitVec.ofInt 64 z) = BitVec.ofInt 32 (z / 2 ^ 32) := by
  apply BitVec.eq_of_toNat_eq
  simp [hiWord, Nat.shiftRight_eq_div_pow]
  omega

theorem mulHighSigned_eq (a b : Word) : mulHighSigned a b = BitVec.ofInt 32 (a.toInt * b.toInt / 2 ^ 32) := by
  rw [← hiWord_ofInt, mulHighSigned, BitVec.ofInt_mul]
  rfl

theorem shiftLeft_eq (a : Word) (n : Nat) : a <<< n = BitVec.ofNat 32 (if 32 ≤ n then 0 else a.toNat * 2 ^ n) := by
  apply BitVec.eq_of_toNat_eq
  split
  · next h => simp [BitVec.shiftLeft_eq_zero h]
  · simp [Nat.shiftLeft_eq]

theorem shiftRight_eq (a : Word) (n : Nat) : a >>> n = BitVec.ofNat 32 (if 32 ≤ n then 0 else a.toNat / 2 ^ n) := by
  apply BitVec.eq_of_toNat_eq
  split
  · next h => simp [BitVec.ushiftRight_eq_zero h]
  · have := Nat.div_le_self a.toNat (2 ^ n)
    simp only [BitVec.toNat_ushiftRight, Nat.shiftRight_eq_div_pow, BitVec.toNat_ofNat]
    rw [Nat.mod_eq_of_lt]
    omega

/-- Past its own width a signed shift gives the sign alone. -/
theorem toInt_div_two_pow {w : Nat} (a : BitVec w) {n : Nat} (h : w ≤ n) : a.toInt / 2 ^ n = if a.toInt < 0 then -1 else 0 := by
  have hn : (2 : Int) ^ w ≤ 2 ^ n := by exact_mod_cast Nat.pow_le_pow_right (by omega) h
  have hl := a.le_toInt
  have hu := a.toInt_lt
  have hw : (2 : Int) ^ (w - 1) ≤ 2 ^ w := by exact_mod_cast Nat.pow_le_pow_right (by omega) (by omega)
  have h0 : (0 : Int) < 2 ^ w := by positivity
  split
  · rw [Int.ediv_eq_iff_of_pos (by omega)]
    omega
  · exact Int.ediv_eq_zero_of_lt (by omega) (by omega)

theorem sshiftRight_eq {w : Nat} (a : BitVec w) (n : Nat) : a.sshiftRight n = BitVec.ofInt w (a.toInt / 2 ^ min w n) := by
  have h : a.sshiftRight n = BitVec.ofInt w (a.toInt / 2 ^ n) := by
    rw [BitVec.sshiftRight, Int.shiftRight_eq_div_pow]
    norm_cast
  rw [h]
  by_cases hn : n ≤ w
  · rw [Nat.min_eq_right hn]
  · rw [Nat.min_eq_left (by omega), toInt_div_two_pow a (by omega), toInt_div_two_pow a le_rfl]

theorem smin_eq (a b : Word) : (if b.toInt < a.toInt then b else a) = BitVec.ofInt 32 (min a.toInt b.toInt) := by
  split
  · next h => rw [Int.min_eq_right h.le, BitVec.ofInt_toInt]
  · next h => rw [Int.min_eq_left (by omega), BitVec.ofInt_toInt]

theorem smax_eq (a b : Word) : (if a.toInt < b.toInt then b else a) = BitVec.ofInt 32 (max a.toInt b.toInt) := by
  split
  · next h => rw [Int.max_eq_right h.le, BitVec.ofInt_toInt]
  · next h => rw [Int.max_eq_left (by omega), BitVec.ofInt_toInt]

theorem sminn_eq (a b : Word) : (if b < a then b else a) = BitVec.ofNat 32 (min a.toNat b.toNat) := by
  split
  · next h => rw [Nat.min_eq_right (BitVec.le_of_lt h), BitVec.ofNat_toNat, BitVec.setWidth_eq]
  · next h => rw [Nat.min_eq_left (BitVec.not_lt.mp h), BitVec.ofNat_toNat, BitVec.setWidth_eq]

theorem smaxn_eq (a b : Word) : (if a < b then b else a) = BitVec.ofNat 32 (max a.toNat b.toNat) := by
  split
  · next h => rw [Nat.max_eq_right (BitVec.le_of_lt h), BitVec.ofNat_toNat, BitVec.setWidth_eq]
  · next h => rw [Nat.max_eq_left (BitVec.not_lt.mp h), BitVec.ofNat_toNat, BitVec.setWidth_eq]

/-- Where the first m of a range pass a test and the next one, if any, does not, m of them are taken. -/
theorem takeWhile_range_length {p : Nat → Bool} {m n : Nat} (h : ∀ k < m, p k = true) (hm : m ≤ n)
    (hs : m < n → p m = false) : ((List.range n).takeWhile p).length = m := by
  obtain ⟨d, rfl⟩ := Nat.exists_eq_add_of_le hm
  rw [List.range_add, List.takeWhile_append_of_pos (fun a ha => h a (List.mem_range.mp ha)), List.length_append, List.length_range]
  cases d with
  | zero => rfl
  | succ d => simp [List.range_succ_eq_map, hs]

theorem leadingZeros_eq (a : Word) :
    leadingZeros 32 a.toNat = ((List.range 32).takeWhile fun k => !a.getLsbD (31 - k)).length := by
  have hlt := a.isLt
  symm
  unfold leadingZeros
  split
  · next h => exact takeWhile_range_length (fun k _ => by simp [← BitVec.testBit_toNat, h]) le_rfl (by simp)
  · next h =>
    have hlog : a.toNat.log2 < 32 := (Nat.log2_lt h).mpr hlt
    refine takeWhile_range_length (fun k hk => ?_) (by omega) (fun _ => ?_)
    · have hb : a.toNat < 2 ^ (31 - k) := (Nat.log2_lt h).mp (by omega)
      simp [← BitVec.testBit_toNat, Nat.testBit_lt_two_pow hb]
    · have e : 31 - (32 - 1 - a.toNat.log2) = a.toNat.log2 := by omega
      simp [← BitVec.testBit_toNat, e, Nat.testBit_log2 h]

theorem setBits_eq (a : Word) : setBits 32 a.toNat = (List.range 32).countP fun k => a.getLsbD k := by
  simp only [setBits, List.countP_eq_length_filter, BitVec.testBit_toNat]

theorem bfField_eq (b : Word) : bfField b = fieldOf b := by
  simp only [bfField, fieldOf]
  split <;> rfl

theorem bfe_eq (a b : Word) (g : Bool) : bfe a b g = fieldValue a b g := by
  simp only [bfe, bfField_eq, fieldValue, Nat.shiftRight_eq_div_pow, Nat.testBit_eq_decide_div_mod_eq, Bool.and_eq_true,
    decide_eq_true_eq, and_assoc]

theorem bfi_eq (d a b : Word) : bfi d a b = (fieldInsert d a b).setWidth 32 := by
  apply BitVec.eq_of_getLsbD_eq
  intro i hi
  have hm : (BitVec.ofNat 32 ((2 ^ (fieldOf b).2 - 1) <<< (fieldOf b).1)).getLsbD i =
      (decide ((fieldOf b).1 ≤ i) && decide (i < (fieldOf b).1 + (fieldOf b).2)) := by
    simp only [BitVec.getLsbD_ofNat, hi, decide_true, Bool.true_and, Nat.testBit_shiftLeft, Nat.testBit_two_pow_sub_one]
    by_cases h : (fieldOf b).1 ≤ i
    · simp only [ge_iff_le, h, decide_true, Bool.true_and, decide_eq_decide]
      omega
    · simp [h]
  simp only [bfi, bfField_eq, BitVec.getLsbD_or, BitVec.getLsbD_and, BitVec.getLsbD_not, hm, BitVec.getLsbD_shiftLeft,
    BitVec.getLsbD_setWidth, hi, decide_true, Bool.true_and]
  have hv : (fieldInsert d a b).getLsbD i = if (fieldOf b).1 ≤ i ∧ i < (fieldOf b).1 + (fieldOf b).2 then
      a.getLsbD (i - (fieldOf b).1) else d.getLsbD i := by
    refine Eq.trans BitVec.getLsbD_ofBoolListLE ?_
    simp [List.getD_eq_getElem?_getD, hi]
  rw [hv]
  by_cases h1 : (fieldOf b).1 ≤ i <;> by_cases h2 : i < (fieldOf b).1 + (fieldOf b).2 <;>
    simp [h1, h2, Nat.not_lt.mpr, Nat.lt_of_not_le]

theorem append_low_eq (k : BitVec 16) (a : Word) :
    k ++ a.setWidth 16 = BitVec.ofNat 32 (k.toNat * 2 ^ 16 + a.toNat % 2 ^ 16) := by
  have h : k.toNat * 2 ^ 16 + a.toNat % 2 ^ 16 < 2 ^ 32 := by
    have := k.isLt
    omega
  apply BitVec.eq_of_toNat_eq
  rw [BitVec.toNat_append, ← Nat.shiftLeft_add_eq_or_of_lt (BitVec.isLt _), Nat.shiftLeft_eq, BitVec.toNat_setWidth,
    BitVec.toNat_ofNat, Nat.mod_eq_of_lt h]

theorem ofInt_toInt_add_toInt {w : Nat} (a : Word) (k : BitVec w) :
    BitVec.ofInt 32 (a.toInt + k.toInt) = a + k.signExtend 32 := by
  rw [BitVec.ofInt_add, BitVec.ofInt_toInt]
  rfl

theorem shiftLeft_imm_eq (a : Word) (k : BitVec 5) : a <<< k.toNat = BitVec.ofNat 32 (a.toNat * 2 ^ k.toNat) := by
  have hk : ¬32 ≤ k.toNat := by
    have := k.isLt
    omega
  rw [shiftLeft_eq, if_neg hk]

theorem shiftRight_imm_eq (a : Word) (k : BitVec 5) : a >>> k.toNat = BitVec.ofNat 32 (a.toNat / 2 ^ k.toNat) := by
  have hk : ¬32 ≤ k.toNat := by
    have := k.isLt
    omega
  rw [shiftRight_eq, if_neg hk]

/-- An instruction with a scalar result is `scalarOp` of a function with that result. -/
theorem exec_of_scalarResult {i : Instr} {r : Nat → Word} {n : Nat} {v : Word} (h : scalarResult i r = some (n, v)) :
    ∃ (d : BitVec 7) (f : (Nat → Word) → Word), (∀ s, exec i s = scalarOp i s d f) ∧ d.toNat = n ∧ f r = v := by
  cases i with
  | sadd d a b => cases h; exact ⟨d, fun r => r a.toNat + r b.toNat, fun _ => rfl, rfl, (ofInt_toInt_add _ _).symm⟩
  | ssub d a b => cases h; exact ⟨d, fun r => r a.toNat - r b.toNat, fun _ => rfl, rfl, (ofInt_toInt_sub _ _).symm⟩
  | smul d a b => cases h; exact ⟨d, fun r => r a.toNat * r b.toNat, fun _ => rfl, rfl, (ofInt_toInt_mul _ _).symm⟩
  | smulh d a b => cases h; exact ⟨d, fun r => mulHighSigned (r a.toNat) (r b.toNat), fun _ => rfl, rfl, mulHighSigned_eq _ _⟩
  | smulhn d a b => cases h; exact ⟨d, fun r => mulHighNatural (r a.toNat) (r b.toNat), fun _ => rfl, rfl, mulHighNatural_eq _ _⟩
  | sand d a b => cases h; exact ⟨d, fun r => r a.toNat &&& r b.toNat, fun _ => rfl, rfl, rfl⟩
  | sor d a b => cases h; exact ⟨d, fun r => r a.toNat ||| r b.toNat, fun _ => rfl, rfl, rfl⟩
  | sxor d a b => cases h; exact ⟨d, fun r => r a.toNat ^^^ r b.toNat, fun _ => rfl, rfl, rfl⟩
  | sshl d a b => cases h; exact ⟨d, fun r => r a.toNat <<< (r b.toNat).toNat, fun _ => rfl, rfl, shiftLeft_eq _ _⟩
  | sshr d a b => cases h; exact ⟨d, fun r => r a.toNat >>> (r b.toNat).toNat, fun _ => rfl, rfl, shiftRight_eq _ _⟩
  | ssra d a b => cases h; exact ⟨d, fun r => (r a.toNat).sshiftRight (r b.toNat).toNat, fun _ => rfl, rfl, sshiftRight_eq _ _⟩
  | smin d a b => cases h; exact ⟨d, fun r => if (r b.toNat).toInt < (r a.toNat).toInt then r b.toNat else r a.toNat, fun _ => rfl, rfl, smin_eq _ _⟩
  | smax d a b => cases h; exact ⟨d, fun r => if (r a.toNat).toInt < (r b.toNat).toInt then r b.toNat else r a.toNat, fun _ => rfl, rfl, smax_eq _ _⟩
  | sminn d a b => cases h; exact ⟨d, fun r => if r b.toNat < r a.toNat then r b.toNat else r a.toNat, fun _ => rfl, rfl, sminn_eq _ _⟩
  | smaxn d a b => cases h; exact ⟨d, fun r => if r a.toNat < r b.toNat then r b.toNat else r a.toNat, fun _ => rfl, rfl, smaxn_eq _ _⟩
  | sclz d a => cases h; exact ⟨d, fun r => BitVec.ofNat 32 (leadingZeros 32 (r a.toNat).toNat), fun _ => rfl, rfl, congrArg (BitVec.ofNat 32) (leadingZeros_eq _)⟩
  | spopc d a => cases h; exact ⟨d, fun r => BitVec.ofNat 32 (setBits 32 (r a.toNat).toNat), fun _ => rfl, rfl, congrArg (BitVec.ofNat 32) (setBits_eq _)⟩
  | sbfe d a b g => cases h; exact ⟨d, fun r => bfe (r a.toNat) (r b.toNat) (g == 1), fun _ => rfl, rfl, bfe_eq _ _ _⟩
  | sbfi d a b => cases h; exact ⟨d, fun r => bfi (r d.toNat) (r a.toNat) (r b.toNat), fun _ => rfl, rfl, bfi_eq _ _ _⟩
  | saddi d a k => cases h; exact ⟨d, fun r => r a.toNat + k.signExtend 32, fun _ => rfl, rfl, (ofInt_toInt_add_toInt _ _).symm⟩
  | sandi d a k => cases h; exact ⟨d, fun r => r a.toNat &&& k.signExtend 32, fun _ => rfl, rfl, rfl⟩
  | sori d a k => cases h; exact ⟨d, fun r => r a.toNat ||| k.signExtend 32, fun _ => rfl, rfl, rfl⟩
  | sxori d a k => cases h; exact ⟨d, fun r => r a.toNat ^^^ k.signExtend 32, fun _ => rfl, rfl, rfl⟩
  | sshli d a k => cases h; exact ⟨d, fun r => r a.toNat <<< k.toNat, fun _ => rfl, rfl, shiftLeft_imm_eq _ _⟩
  | sshri d a k => cases h; exact ⟨d, fun r => r a.toNat >>> k.toNat, fun _ => rfl, rfl, shiftRight_imm_eq _ _⟩
  | smovi d k => cases h; exact ⟨d, fun _ => k.signExtend 32, fun _ => rfl, rfl, rfl⟩
  | smoviHi d k => cases h; exact ⟨d, fun r => k ++ (r d.toNat).setWidth 16, fun _ => rfl, rfl, append_low_eq _ _⟩
  | ssel d a b => cases h; exact ⟨d, fun r => if r d.toNat ≠ 0 then r a.toNat else r b.toNat, fun _ => rfl, rfl, by simp [BitVec.toNat_eq]⟩
  | _ => cases h

theorem isScalar_lt {d : BitVec 7} (h : isScalar d = true) : d.toNat < 64 := by simpa [isScalar] using h

theorem scalarResult_lt {i : Instr} {r : Nat → Word} {n : Nat} {v : Word} (h : scalarResult i r = some (n, v))
    (hw : wellFormed i = true) : n < 64 := by
  cases i with
  | sadd | ssub | smul | smulh | smulhn | sand | sor | sxor | sshl | sshr | ssra | smin | smax | sminn | smaxn | sbfi | ssel |
      sbfe =>
    cases h
    simp only [wellFormed, Bool.and_eq_true] at hw
    exact isScalar_lt hw.1.1
  | sclz | spopc | saddi | sandi | sori | sxori | sshli | sshri =>
    cases h
    simp only [wellFormed, Bool.and_eq_true] at hw
    exact isScalar_lt hw.1
  | smovi | smoviHi => cases h; exact isScalar_lt hw
  | _ => cases h

/-! ### A write of scalars and the end of its instruction -/

theorem Split.setScalar_act (sp : Split) (n : Nat) (v : Word) (p : Bool) :
    (sp.setScalar n v p).act = if 61 ≤ n ∧ n ≤ 63 then writeMaskWord sp.lanes sp.act (n - 61) v else sp.act := by
  unfold Split.setScalar
  by_cases h0 : n = 0
  · simp [h0]
  · by_cases hk : 61 ≤ n ∧ n ≤ 63 <;> simp [h0, hk]

theorem Cx.putScalar_act (c : Cx) (n : Nat) (v : Word) :
    (c.putScalar n v).sp.act = if 61 ≤ n ∧ n ≤ 63 then writeMaskWord c.sp.lanes c.sp.act (n - 61) v else c.sp.act :=
  c.sp.setScalar_act n v false

@[simp] theorem Cx.putScalar_lanes (c : Cx) (n : Nat) (v : Word) : (c.putScalar n v).sp.lanes = c.sp.lanes :=
  (c.sp.setScalar_fields n v false).2.2.2.1

@[simp] theorem Cx.settle_shaped (c : Cx) (i : Instr) : (c.settle i).shaped = c.shaped := rfl

theorem scalarAfter_eq_landed (c : Cx) {n : Nat} (v : Word) (h : n < 64) : scalarAfter c n v = c.sp.landed n v := by
  unfold scalarAfter Split.landed
  by_cases h0 : n = 0
  · simp [h0]
  · by_cases hk : 61 ≤ n
    · rw [if_neg h0, if_neg h0, if_pos hk, if_pos ⟨hk, by omega⟩]
      rfl
    · rw [if_neg h0, if_neg h0, if_neg hk, if_neg (by omega)]

theorem Keeps.trans_scalars {l m : List Nat} {c d e : Cx} (h : Keeps (writesScalars l) c d) (g : Keeps (writesScalars m) d e) :
    Keeps (writesScalars (l ++ m)) c e := by
  obtain ⟨h1, h2, h3, h4, h5, h6, h7, h8, h9, h10, h11⟩ := h
  obtain ⟨g1, g2, g3, g4, g5, g6, g7, g8, g9, g10, g11⟩ := g
  have none_in (r : Nat) (p : Prop) : ¬(r ∈ (writesScalars (l ++ m)).vectors ∧ p) := by simp [writesScalars, Writes.none]
  refine ⟨g1.trans h1, g2.trans h2, g3.trans h3, g4.trans h4, g5.trans h5, fun n hn hm => ?_, fun r l hl hm => ?_,
    fun n l hl hm => ?_, g9.trans h9, ?_, fun hd => (g11 hd).trans (h11 hd)⟩
  · have hm' : n ∉ l ∧ n ∉ m := by simpa [writesScalars] using hm
    exact (g6 n hn hm'.2).trans (h6 n hn hm'.1)
  · exact (g7 r l hl hm).trans (h7 r l hl hm)
  · exact (g8 n l hl hm).trans (h8 n l hl hm)
  · exact Eq.trans g10 h10

theorem Cx.shaped_scalars {c : Cx} (h : c.shaped = true) : c.sp.scalars.length = 64 := by
  simp only [Cx.shaped, Bool.and_eq_true, beq_iff_eq] at h
  exact h.1.1.1.1

theorem Cx.maskClash_eq_false {c d : Cx} (h : c.maskPasses d.sp.act = true) : c.maskClash d = false := by
  simp only [Cx.maskPasses, Bool.or_eq_true, Bool.not_eq_true', beq_iff_eq] at h
  rcases h with (h | h) | h <;> simp [Cx.maskClash, h]

theorem Cx.maskClash_eq_true {c d : Cx} (h : c.maskPasses d.sp.act = false) : c.maskClash d = true := by
  simp only [Cx.maskPasses, Bool.or_eq_false_iff, Bool.not_eq_false', beq_eq_false_iff_ne] at h
  obtain ⟨⟨hs, ha⟩, he⟩ := h
  simp [Cx.maskClash, hs, ha, he]

/-- An instruction that ends with a scalar write whose activity mask passes the check of R31. -/
theorem Does.of_scalarDone {i : Instr} {s : State} {c d : Cx} {ws : Writes} {also : Cx → Prop}
    (he : exec i s = (c.settle i).scalarDone d) (hp : c.maskPasses d.sp.act = true) (hk : Keeps ws (c.settle i) d)
    (hs : d.shaped = true) (ha : also d) : Does i s c ws also := by
  refine ⟨d, ?_, (c.settle_keeps i).after_nothing hk, hs, ha⟩
  have hc : (c.settle i).maskClash d = false := Cx.maskClash_eq_false (c := c.settle i) hp
  rw [Completes, he, Cx.scalarDone, hc]
  rfl

theorem Does.of_putScalar {i : Instr} {s : State} {c : Cx} {n : Nat} {v : Word}
    (he : exec i s = (c.settle i).scalarDone ((c.settle i).putScalar n v)) (hn : n < 64) (hs : c.shaped = true)
    (hp : c.maskPasses (c.sp.setScalar n v false).act = true) :
    Does i s c (writesScalars [n]) fun e => e.sp.scalar n = scalarAfter c n v := by
  refine Does.of_scalarDone he ?_ ((c.settle i).putScalar_keeps n v) ?_ ?_
  · rw [Split.setScalar_act] at hp
    rw [Cx.putScalar_act]
    exact hp
  · rwa [Cx.putScalar_shaped]
  · have hl : n < (c.settle i).sp.scalars.length := by rw [Cx.shaped_scalars (c := c.settle i) hs]; exact hn
    rw [Cx.putScalar_scalar_self _ _ _ hl, scalarAfter_eq_landed c v hn]
    rfl

theorem Does.of_putScalar64 {i : Instr} {s : State} {c : Cx} {n : Nat} {v : DWord}
    (he : exec i s = (c.settle i).scalarDone ((c.settle i).putScalar64 n v)) (hn : n + 1 < 64) (hs : c.shaped = true)
    (hp : c.maskPasses ((c.sp.setScalar n (loWord v) false).setScalar (n + 1) (hiWord v) false).act = true) :
    Does i s c (writesScalars [n, n + 1]) fun e =>
      e.sp.scalar n = scalarAfter c n (loWord v) ∧ e.sp.scalar (n + 1) = scalarAfter c (n + 1) (hiWord v) := by
  have hs1 : ((c.settle i).putScalar n (loWord v)).shaped = true := by rwa [Cx.putScalar_shaped]
  have hl : n < (c.settle i).sp.scalars.length := by rw [Cx.shaped_scalars (c := c.settle i) hs]; omega
  have hl1 : n + 1 < ((c.settle i).putScalar n (loWord v)).sp.scalars.length := by rw [Cx.shaped_scalars hs1]; exact hn
  refine Does.of_scalarDone he ?_ (((c.settle i).putScalar_keeps n _).trans_scalars (Cx.putScalar_keeps _ (n + 1) _)) ?_ ⟨?_, ?_⟩
  · rw [Split.setScalar_act, Split.setScalar_act, (c.sp.setScalar_fields n _ false).2.2.2.1] at hp
    rw [Cx.putScalar64, Cx.putScalar_act, Cx.putScalar_act, Cx.putScalar_lanes]
    exact hp
  · rwa [Cx.putScalar64, Cx.putScalar_shaped]
  · rw [Cx.putScalar64, Cx.putScalar_scalar_ne _ _ _ _ (by omega), Cx.putScalar_scalar_self _ _ _ hl,
      scalarAfter_eq_landed c _ (by omega)]
    rfl
  · rw [Cx.putScalar64, Cx.putScalar_scalar_self _ _ _ hl1, scalarAfter_eq_landed c _ hn]
    simp only [Split.landed, Cx.putScalar_lanes]
    rfl

/-- Settles O1: each instruction is `scalarOp` of its result, and a scalar write changes that scalar alone. -/
theorem scalarResults : Obligations.ScalarResults := by
  intro i s c n v h hw hs hr hp
  obtain ⟨d, f, he, rfl, rfl⟩ := exec_of_scalarResult h
  refine Does.of_putScalar ?_ (scalarResult_lt h hw) hs hp
  rw [he, scalarOp, issue_of_ready hr]
  rfl

/-! ### Pairs (R112, R113) -/

theorem toNat_pairAt (r : Nat → Word) (n : Nat) : (pairAt r n).toNat = pairNat r n := by
  have h := (r (n + 1)).isLt
  simp only [pairAt, pair, pairNat]
  rw [BitVec.toNat_append, ← Nat.shiftLeft_add_eq_or_of_lt (BitVec.isLt _), Nat.shiftLeft_eq]
  omega

theorem loWord_ofNat (v : Nat) : loWord (BitVec.ofNat 64 v) = BitVec.ofNat 32 v := by
  apply BitVec.eq_of_toNat_eq
  simp [loWord]

theorem hiWord_ofNat (v : Nat) : hiWord (BitVec.ofNat 64 v) = BitVec.ofNat 32 (v / 2 ^ 32) := by
  apply BitVec.eq_of_toNat_eq
  simp [hiWord, Nat.shiftRight_eq_div_pow]
  omega

theorem shift64_eq (x : BitVec 3) (a : DWord) (n : Nat) : (shift64 x a n).toNat =
    if x = 0 then (if 64 ≤ n then 0 else a.toNat * 2 ^ n % 2 ^ 64)
    else if x = 1 then (if 64 ≤ n then 0 else a.toNat / 2 ^ n)
    else (((if 2 ^ 63 ≤ a.toNat then (a.toNat : Int) - 2 ^ 64 else (a.toNat : Int)) / 2 ^ min n 64) % 2 ^ 64).toNat := by
  unfold shift64
  split
  · split
    · next h => simp [BitVec.shiftLeft_eq_zero h]
    · simp [Nat.shiftLeft_eq]
  · split
    · split
      · next h => simp [BitVec.ushiftRight_eq_zero h]
      · simp [Nat.shiftRight_eq_div_pow]
    · have hi : a.toInt = if 2 ^ 63 ≤ a.toNat then (a.toNat : Int) - 2 ^ 64 else (a.toNat : Int) := by
        rw [BitVec.toInt_eq_toNat_cond]
        split <;> split <;> omega
      rw [sshiftRight_eq, BitVec.toNat_ofInt, hi, Nat.min_comm]
      rfl

/-- An instruction with a pair result is `scalarOp64` of a function with that result. -/
theorem exec_of_pairResult {i : Instr} {r : Nat → Word} {n v : Nat} (h : pairResult i r = some (n, v)) :
    ∃ (d : BitVec 7) (f : (Nat → Word) → DWord), (∀ s, exec i s = scalarOp64 i s d f) ∧ d.toNat = n ∧ f r = BitVec.ofNat 64 v := by
  cases i with
  | sadd64 d a b =>
    cases h
    refine ⟨d, fun r => pairAt r a.toNat + pairAt r b.toNat, fun _ => rfl, rfl, BitVec.eq_of_toNat_eq ?_⟩
    rw [BitVec.toNat_add, BitVec.toNat_ofNat, toNat_pairAt, toNat_pairAt, Nat.mod_mod]
  | ssub64 d a b =>
    cases h
    refine ⟨d, fun r => pairAt r a.toNat - pairAt r b.toNat, fun _ => rfl, rfl, BitVec.eq_of_toNat_eq ?_⟩
    have hb := (pairAt r b.toNat).isLt
    rw [BitVec.toNat_sub, BitVec.toNat_ofNat, toNat_pairAt, toNat_pairAt, Nat.mod_mod]
    rw [toNat_pairAt] at hb
    congr 1
    omega
  | sshf64 d a b x =>
    cases h
    refine ⟨d, fun r => shift64 x (pairAt r a.toNat) (r b.toNat).toNat, fun _ => rfl, rfl, BitVec.eq_of_toNat_eq ?_⟩
    have hlt := (shift64 x (pairAt r a.toNat) (r b.toNat).toNat).isLt
    rw [shift64_eq, toNat_pairAt] at hlt
    rw [shift64_eq, toNat_pairAt, BitVec.toNat_ofNat, Nat.mod_eq_of_lt hlt]
  | _ => cases h

theorem pairResult_lt {i : Instr} {r : Nat → Word} {n v : Nat} (h : pairResult i r = some (n, v))
    (hw : wellFormed i = true) : n + 1 < 64 := by
  have pair_lt {d : BitVec 7} (hd : isScalarPair d = true) : d.toNat + 1 < 64 := by
    simp only [isScalarPair, Bool.and_eq_true, decide_eq_true_eq, beq_iff_eq] at hd
    omega
  cases i with
  | sadd64 | ssub64 =>
    cases h
    simp only [wellFormed, Bool.and_eq_true] at hw
    exact pair_lt hw.1.1
  | sshf64 =>
    cases h
    simp only [wellFormed, Bool.and_eq_true] at hw
    exact pair_lt hw.1.1.1
  | _ => cases h

theorem pairResults : Claims.PairResults := by
  intro i s c n v h hw hs hr hp
  obtain ⟨d, f, he, rfl, hf⟩ := exec_of_pairResult h
  have he' : exec i s = (c.settle i).scalarDone ((c.settle i).putScalar64 d.toNat (BitVec.ofNat 64 v)) := by
    rw [he, scalarOp64, issue_of_ready hr, ← hf]
    rfl
  have hd := Does.of_putScalar64 he' (pairResult_lt h hw) hs (by rwa [loWord_ofNat, hiWord_ofNat])
  rwa [loWord_ofNat, hiWord_ofNat] at hd

theorem shadowMaskTrap : Claims.ShadowMaskTrap := by
  intro i s c n v h hw hr hp
  obtain ⟨d, f, he, rfl, rfl⟩ := exec_of_scalarResult h
  have hc : (c.settle i).maskClash ((c.settle i).putScalar d.toNat (f (c.settle i).sp.scalar)) = true := by
    refine Cx.maskClash_eq_true (c := c.settle i) ?_
    rw [Split.setScalar_act] at hp
    rw [Cx.putScalar_act]
    exact hp
  rw [he, scalarOp, issue_of_ready hr, Cx.scalarDone, hc]
  rfl

/-- Settles O3: the pair instructions are `scalarOp64` of their result, and the check of R31 comes before the write. -/
theorem scalarPairs : Obligations.ScalarPairs := ⟨pairResults, shadowMaskTrap⟩

end Sys2Proof.Machine

namespace Sys2Proof.Machine

open Sys2Proof.Claims

/-! ### Lanes, clocks and coordinates (R143, R178, R180) -/

theorem laneRange_getLsbD (first n i : Nat) :
    (laneRange first n).getLsbD i = (decide (first ≤ i) && decide (i < first + n) && decide (i < 96)) := by
  simp only [laneRange, BitVec.getLsbD_shiftLeft, BitVec.getLsbD_ofNat, Nat.testBit_two_pow_sub_one]
  by_cases h : first ≤ i
  · by_cases h96 : i < 96
    · have : i - first < 96 := by omega
      simp only [h, h96, this, Nat.not_lt.mpr h, decide_true, decide_false, Bool.not_false, Bool.true_and, Bool.and_true,
        decide_eq_decide]
      omega
    · simp [h96]
  · simp [h, Nat.lt_of_not_le h]

theorem mask_zero_getLsbD (i : Nat) : (0 : Mask).getLsbD i = false := BitVec.getLsbD_zero

theorem and_laneRange_ne_zero (m : Mask) (k : Nat) (hk : k < 12) :
    (m &&& laneRange (8 * k) 8 != 0) = (List.range 8).any fun j => m.getLsbD (8 * k + j) := by
  rw [Bool.eq_iff_iff, bne_iff_ne, List.any_eq_true]
  constructor
  · intro h
    by_contra hn
    refine h (BitVec.eq_of_getLsbD_eq fun i hi => ?_)
    rw [BitVec.getLsbD_and, laneRange_getLsbD, mask_zero_getLsbD]
    by_contra hb
    simp only [Bool.not_eq_false, Bool.and_eq_true, decide_eq_true_eq] at hb
    obtain ⟨hm, ⟨h1, h2⟩, -⟩ := hb
    exact hn ⟨i - 8 * k, List.mem_range.mpr (by omega), by rwa [show 8 * k + (i - 8 * k) = i by omega]⟩
  · rintro ⟨j, hj, hm⟩ h0
    have hj := List.mem_range.mp hj
    have hb : (m &&& laneRange (8 * k) 8).getLsbD (8 * k + j) = false := by rw [h0, mask_zero_getLsbD]
    rw [BitVec.getLsbD_and, laneRange_getLsbD, hm] at hb
    simp at hb
    omega

theorem popMask_eq_countP (m : Mask) : popMask m = (List.range 96).countP fun l => m.getLsbD l := by
  rw [popMask, lanesOf, List.countP_eq_length_filter]

theorem occupiedSlices_eq (m : Mask) :
    occupiedSlices m = (List.range 12).countP fun k => (List.range 8).any fun j => m.getLsbD (8 * k + j) := by
  rw [occupiedSlices, ← List.countP_eq_length_filter]
  refine List.countP_congr fun k hk => ?_
  rw [and_laneRange_ne_zero m k (List.mem_range.mp hk)]

theorem widthWord_eq (launched act : Mask) :
    let count (m : Mask) : Nat := (List.range 96).countP fun l => m.getLsbD l
    let slices := (List.range 12).countP fun k => (List.range 8).any fun j => act.getLsbD (8 * k + j)
    widthWord launched act =
      BitVec.ofNat 32 (count act + 256 * slices + 4096 * max 1 ((slices + 3) / 4) + 65536 * count launched) := by
  intro count slices
  simp only [widthWord, beatsOf, occupiedSlices_eq, popMask_eq_countP, count, slices]
  rfl

theorem width_does {s : State} {c : Cx} {d : BitVec 7} (hs : c.shaped = true) (hw : wellFormed (.width d) = true)
    (hr : Ready (.width d) s c) (hp : c.maskPasses (c.sp.setScalar d.toNat (widthWord c.w.launched c.sp.act) false).act = true) :
    Does (.width d) s c (writesScalars [d.toNat]) fun e =>
      e.sp.scalar d.toNat = scalarAfter c d.toNat (widthWord c.w.launched c.sp.act) :=
  Does.of_putScalar (issueSplit_of_ready hr _) (isScalar_lt hw) hs hp

theorem isPair_lt {a : BitVec 6} (h : isPair a = true) : a.toNat + 1 < 64 := by
  have := a.isLt
  simp only [isPair, beq_iff_eq] at h
  omega

theorem clk_does {s : State} {c : Cx} {a : BitVec 6} {core : BitVec 1} (hs : c.shaped = true)
    (hw : wellFormed (.clk a core) = true) (hr : Ready (.clk a core) s c) :
    let t := if core = 1 then s.ticks - Tab.getD s.plat.coreStart c.w.core 0 else s.timer
    let lo : Word := BitVec.ofNat 32 t
    let hi : Word := BitVec.ofNat 32 (t / 2 ^ 32)
    c.maskPasses ((c.sp.setScalar a.toNat lo false).setScalar (a.toNat + 1) hi false).act = true →
    Does (.clk a core) s c (writesScalars [a.toNat, a.toNat + 1]) fun e =>
      e.sp.scalar a.toNat = scalarAfter c a.toNat lo ∧ e.sp.scalar (a.toNat + 1) = scalarAfter c (a.toNat + 1) hi := by
  obtain rfl := (executing_focus hr.1).2.2
  intro t lo hi hp
  have he : exec (.clk a core) c.s = (c.settle (.clk a core)).scalarDone ((c.settle (.clk a core)).putScalar64 a.toNat (BitVec.ofNat 64 t)) :=
    issueSplit_of_ready hr _
  have hd := Does.of_putScalar64 he (isPair_lt hw) hs (by rwa [loWord_ofNat, hiWord_ofNat])
  rwa [loWord_ofNat, hiWord_ofNat] at hd

theorem id_does {s : State} {c : Cx} {k : BitVec 5} {a : BitVec 6} (hs : c.shaped = true) (hr : Ready (.id k a) s c)
    (hp : c.maskPasses (c.sp.setScalar a.toNat (BitVec.ofNat 32 (idValue s c.w k.toNat)) false).act = true) :
    Does (.id k a) s c (writesScalars [a.toNat]) fun e =>
      e.sp.scalar a.toNat = scalarAfter c a.toNat (BitVec.ofNat 32 (idValue s c.w k.toNat)) := by
  obtain rfl := (executing_focus hr.1).2.2
  exact Does.of_putScalar (issueSplit_of_ready hr _) a.isLt hs hp

theorem idValue_of_place {s : State} {w : Warp} {k : Nat} (h : 15 ≤ k) : idValue s w k = idOfPlace s w k := if_pos h

theorem idValue_of_far {s : State} {w : Warp} {k : Nat} (hf : w.far.isSome = true) (h : k < 15) :
    idValue s w k = if k ≤ 2 then 0xFFFFFFFF else if k = 6 then 8 else 0 := by
  rw [idValue, if_neg (by omega), if_pos hf]

theorem launch_of_lookups {s : State} {w : Warp} {g : Workgroup} {sk : Skein} {l : Launch} (hg : wgOf s w = some g)
    (hk : Tab.get? s.skeins g.skein = some sk) (hl : Tab.get? s.launches sk.launch = some l) :
    skOf s w = some sk ∧ lnOf s w = some l := by
  have hsk : skOf s w = some sk := by simp [skOf, hg, hk]
  exact ⟨hsk, by simp [lnOf, hsk, hl]⟩

theorem idValue_of_warp {s : State} {w : Warp} {g : Workgroup} {sk : Skein} {l : Launch} {k : Nat} (hf : w.far = none)
    (hg : wgOf s w = some g) (hk : Tab.get? s.skeins g.skein = some sk) (hl : Tab.get? s.launches sk.launch = some l)
    (h : k < 15) : idValue s w k = idOfWarp s w g sk l k := by
  obtain ⟨h1, h2⟩ := launch_of_lookups hg hk hl
  rw [idValue, if_neg (by omega), if_neg (by simp [hf]), hg, h1, h2]

/-- Settles O14: each of the three is a scalar write, and `id` reads its selector's row of the table of R180. -/
theorem measures : Obligations.Measures := by
  intro s c hs
  refine ⟨fun d hw hr => ?_, fun a core hw hr => clk_does hs hw hr, fun k a _ hr hp => id_does hs hr hp, fun k => ?_,
    fun g sk l hf hg hk hl => ?_⟩
  · intro count slices v hp
    have hv : v = widthWord c.w.launched c.sp.act := (widthWord_eq _ _).symm
    rw [hv] at hp ⊢
    exact width_does hs hw hr hp
  · refine ⟨by rintro rfl; rfl, by rintro rfl; rfl, by rintro rfl; rfl, by rintro rfl; rfl, by rintro rfl; rfl, by rintro rfl; rfl,
      by rintro rfl; rfl, by rintro rfl; rfl, ?_, ?_, ?_⟩
    · rintro f hf rfl
      rw [idValue_of_place (by decide)]
      simp [idOfPlace, asidOf, hf]
    · intro hf hk
      rw [idValue_of_far hf (by omega), if_pos (by omega)]
    · intro hf h3 h15
      have h6 : k = 6 ↔ k.toNat = 6 := by rw [BitVec.toNat_eq]; rfl
      rw [idValue_of_far hf h15, if_neg (by omega)]
      simp only [h6]
  · intro id
    have hid {k : Nat} (h : k < 15) : id k = idOfWarp s c.w g sk l k := idValue_of_warp hf hg hk hl h
    obtain ⟨h1, h2⟩ := launch_of_lookups hg hk hl
    refine ⟨hid (by decide), hid (by decide), hid (by decide), hid (by decide), hid (by decide), hid (by decide), hid (by decide),
      hid (by decide), hid (by decide), hid (by decide), hid (by decide), hid (by decide), hid (by decide), ?_, ?_, ?_⟩
    · rw [hid (by decide), List.sum_eq_foldl]
      rfl
    · rw [hid (by decide)]
      simp [idOfWarp, isShadow, kernelOf, h2]
    · show idValue s c.w 20 = l.asid
      rw [idValue_of_place (by decide)]
      simp [idOfPlace, asidOf, hf, h2]

end Sys2Proof.Machine

namespace Sys2Proof.Machine

open Sys2Proof.Claims

/-! ### A branch in the window of a late write of the activity mask

A load into s61 whose value is there is written back when its window closes (R84), and that window may close with a `brx` whose
lanes all have one target: the whole split then branches, and its activity mask is no longer the one the branch read. -/

/-- A load of 0 into s61: its value has arrived, and one instruction of its window is still to come. -/
def lateMaskWrite : Pend :=
  { id := 0, opcode := 0xC0, pc := 0, dest := { vector := false, base := 61, count := 1 }, window := 1,
    rows := [[some (0, false)]], kept := [0], arrived := true, done := false, settled := false, inRun := true, held := 0,
    open_ := false, tag := none, mismatch := false }

/-- The state after reset with the word of `brx` s4, v1 placed, and that result outstanding in its split. -/
def lateMaskState : State :=
  let s := placeWord State.reset 0x83001008
  match executing s with
  | some c => Cx.commit { c with sp := { c.sp with pend := [lateMaskWrite] } }
  | none => s

/-- What `IndexedBranch` asks of the branch before it, every lane's target being 0. -/
def lateMaskAsked (c : Cx) : Bool :=
  wellFormed (.brx 4 1) && c.shaped && c.issues (.brx 4 1) && c.sp.act.getLsbD 0 && !isShadow c.s c.w && !c.sp.trap.handler &&
  c.sp.act &&& ~~~c.sp.lanes == 0 && decide (c.w.splits = [(c.e, c.sp)]) && decide (c.e < Config.splitEntries) &&
  c.w.spill.isEmpty &&
  (List.range 96).all fun l => pair (c.sp.scalar 4) (c.sp.scalar 5) + BitVec.ofInt 64 (4 * (c.lane 1 l).toInt) == 0

/-- No split of the warp that holds lane 0 has it active. -/
def laneZeroIdle (w : Warp) : Bool :=
  (w.splits.all fun p => !(p.2.lanes.getLsbD 0 && p.2.act.getLsbD 0)) &&
  w.spill.all fun p => !(p.split.lanes.getLsbD 0 && p.split.act.getLsbD 0)

/-- The branch from that state, which meets every hypothesis, leaves lane 0 active nowhere. -/
theorem lateMaskState_run : (match executing lateMaskState with
    | some c => lateMaskAsked c && (match exec (.brx 4 1) lateMaskState with
      | .next u => (match Tab.get? u.warps c.wk with | some w => laneZeroIdle w | none => false)
      | _ => false)
    | none => false) = true := by decide +kernel

theorem holdsLane_of_laneZeroIdle {w : Warp} (h : laneZeroIdle w = true) {p : Split → Prop}
    (hp : ∀ sp, p sp → sp.act.getLsbD 0 = true) : ¬holdsLane w 0 p := by
  simp only [laneZeroIdle, Bool.and_eq_true, List.all_eq_true, Bool.not_eq_true', Bool.and_eq_false_iff] at h
  rintro (⟨x, hx, hl, hq⟩ | ⟨x, hx, hl, hq⟩)
  · rcases h.1 x hx with h0 | h0
    · cases hl.symm.trans h0
    · cases (hp _ hq).symm.trans h0
  · rcases h.2 x hx with h0 | h0
    · cases hl.symm.trans h0
    · cases (hp _ hq).symm.trans h0

theorem runnable_of_eq_zero {t : DWord} (h : t = 0) : runnable t := by
  subst h
  exact ⟨rfl, by decide⟩

theorem not_indexedBranch : ¬Claims.IndexedBranch := by
  intro h
  have hrun := lateMaskState_run
  split at hrun
  · next c hc =>
    simp only [lateMaskAsked, Bool.and_eq_true, Bool.not_eq_true', beq_iff_eq, decide_eq_true_eq, List.all_eq_true,
      List.isEmpty_iff] at hrun
    obtain ⟨⟨⟨⟨⟨⟨⟨⟨⟨⟨⟨hw, hs⟩, hi⟩, ha⟩, hsh⟩, hh⟩, hal⟩, hsp⟩, he⟩, hspill⟩, hf⟩, hu⟩ := hrun
    have hf0 (l : Nat) (hl : l < 96) := hf l (List.mem_range.mpr hl)
    have hact : c.sp.act ≠ 0 := by
      intro h0
      rw [h0] at ha
      cases ha
    obtain ⟨u, w, hx, hwk, -, hlane⟩ := h lateMaskState c 4 1 hw hs ⟨hc, hi⟩
      (fun l hl _ => runnable_of_eq_zero (hf0 l hl)) hact hsh hh hal hsp he hspill
      ⟨[0], by decide, fun l hl _ => List.mem_singleton.mpr (hf0 l hl)⟩
    rw [hx] at hu
    simp only [hwk] at hu
    exact holdsLane_of_laneZeroIdle hu (fun sp hsp => hsp.1) (hlane 0 (by decide) ha)
  · cases hrun

/-- Refutes O18: a late write of the activity mask that is written back as the window closes with a `brx` of one target leaves a lane
that took the branch active in no split. -/
theorem not_dividingBranches : ¬Obligations.DividingBranches := fun h => not_indexedBranch h.2.2

end Sys2Proof.Machine

namespace Sys2Proof.Machine

open Sys2Proof.Claims

/-! ### The join instructions (R152 to R155) -/

/-- An instruction that ends with `done` completes. -/
theorem Completes.of_done {i : Instr} {s : State} {d : Cx} (h : exec i s = d.done) : Completes i s d := h

theorem Cx.releasing_of_acknowledged {c : Cx} {scope : Nat} (h : c.w.unack.getD scope 0 = 0) (k : Cx → Out) :
    c.releasing scope k = k c := if_pos h

theorem parkedLanes_eq (w : Warp) (j : Nat) :
    parkedLanes w j = (w.splits.filter fun p => p.2.status == .parkedJoin j).foldl (fun m p => m ||| p.2.lanes) 0 := by
  rw [parkedLanes, List.foldl_filter]
  simp only [beq_iff_eq]

theorem parkedOn_isEmpty (w : Warp) (j : Nat) :
    (parkedOn w j).isEmpty = true ↔ (w.splits.filter fun p => p.2.status == .parkedJoin j) = [] := by
  simp [parkedOn, List.filter_eq_nil_iff, List.filterMap_eq_nil_iff]

theorem jarm_completes {s : State} {c : Cx} {j : BitVec 2} (hr : Ready (.jarm j) s c) :
    Completes (.jarm j) s { c.settle (.jarm j) with
      w := testJoins (c.w.putJoin j.toNat ⟨c.sp.act, parkedLanes c.w j.toNat⟩ true) s.ticks } := by
  obtain rfl := (executing_focus hr.1).2.2
  exact issueSplit_of_ready hr _

theorem jarv_completes {s : State} {c : Cx} {j : BitVec 2} (hp : c.w.joinPoison.getLsbD j.toNat = false)
    (hu : c.w.unack.getD 0 0 = 0) (hr : Ready (.jarv j) s c) :
    let x := c.w.join j.toNat
    (x.expected = 0 → Completes (.jarv j) s (c.settle (.jarv j))) ∧
    (x.expected ≠ 0 → Completes (.jarv j) s { c.settle (.jarv j) with
      w := testJoins (c.w.putJoin j.toNat { x with arrived := x.arrived ||| c.sp.act } false) s.ticks }) := by
  obtain rfl := (executing_focus hr.1).2.2
  intro x
  have he := issueSplit_of_ready hr fun c =>
    if c.w.joinPoison.getLsbD j.toNat then c.trapAt 0x13
    else c.releasing 0 fun c =>
      let x := c.w.join j.toNat
      if x.expected = 0 then c.done
      else (c.joined (c.w.putJoin j.toNat { x with arrived := x.arrived ||| c.sp.act } false)).done
  rw [if_neg (by rw [show (c.settle (.jarv j)).w = c.w from rfl, hp]; decide),
    Cx.releasing_of_acknowledged (c := c.settle (.jarv j)) hu] at he
  refine ⟨fun h0 => ?_, fun h0 => ?_⟩
  · exact Eq.trans he (if_pos h0)
  · exact Eq.trans he (if_neg h0)

theorem Warp.putJoin_joins_length (w : Warp) (j : Nat) (x : Join) (b : Bool) : (w.putJoin j x b).joins.length = w.joins.length := by
  simp [Warp.putJoin, setAt]

theorem jwait_goes {s : State} {c : Cx} {j : BitVec 2} (hs : c.shaped = true) (hp : c.w.joinPoison.getLsbD j.toNat = false)
    (hu : c.w.unack.getD 0 0 = 0) (hr : Ready (.jwait j) s c) :
    let x := c.w.join j.toNat
    let w := if x.expected = 0 then c.w else c.w.putJoin j.toNat { x with arrived := x.arrived ||| c.sp.act } false
    Goes (.jwait j) s { c with w := w } Writes.none (.park j.toNat) fun _ => True := by
  intro x w
  have he := issueSplit_of_ready hr fun c =>
    if c.w.joinPoison.getLsbD j.toNat then c.trapAt 0x13
    else c.releasing 0 fun c =>
      let x := c.w.join j.toNat
      let w := if x.expected = 0 then c.w else c.w.putJoin j.toNat { x with arrived := x.arrived ||| c.sp.act } false
      Cx.done { c with w := w, sp := { c.sp with after := .park j.toNat } }
  rw [if_neg (by rw [show (c.settle (.jwait j)).w = c.w from rfl, hp]; decide),
    Cx.releasing_of_acknowledged (c := c.settle (.jwait j)) hu] at he
  have hw : w.joins.length = c.w.joins.length ∧ w.preds = c.w.preds ∧ w.vregs = c.w.vregs := by
    dsimp only [w]
    split
    · exact ⟨rfl, rfl, rfl⟩
    · exact ⟨Warp.putJoin_joins_length _ _ _ _, rfl, rfl⟩
  refine ⟨{ c.settle (.jwait j) with w := w, sp := { (c.settle (.jwait j)).sp with after := .park j.toNat } }, he, rfl, trivial, ?_, ?_⟩
  · obtain ⟨hj, hq, hv⟩ := hw
    simp only [Cx.shaped] at hs ⊢
    rw [hj, hq, hv]
    exact hs
  · exact ⟨rfl, rfl, rfl, rfl, rfl, fun _ _ _ => rfl, fun _ _ _ _ => rfl, fun _ _ _ _ => rfl, c.settle_outstanding _, rfl, fun _ => rfl⟩

theorem Warp.lose_fields (w : Warp) (b : Bool) : (w.lose b).joins = w.joins ∧ (w.lose b).joinPoison = w.joinPoison ∧
    (w.lose b).splits = w.splits ∧ (w.lose b).spill = w.spill ∧
    (w.lose b).jlost = if b = false ∨ w.jlost = 0xFFFFFFFF then w.jlost else w.jlost + 1 := by
  unfold Warp.lose
  split
  · next h =>
    obtain ⟨hb, hj⟩ : b = true ∧ w.jlost ≠ 0xFFFFFFFF := by simpa using h
    exact ⟨rfl, rfl, rfl, rfl, (if_neg (by rintro (h0 | h0); exacts [absurd (hb.symm.trans h0) (by decide), hj h0])).symm⟩
  · next h =>
    have hb : b = false ∨ w.jlost = 0xFFFFFFFF := by
      cases b with
      | false => exact .inl rfl
      | true => exact .inr (by simpa using h)
    exact ⟨rfl, rfl, rfl, rfl, (if_pos hb).symm⟩

theorem jclr_completes {s : State} {c : Cx} {j : BitVec 2} (hr : Ready (.jclr j) s c) :
    ∃ e : Cx, Completes (.jclr j) s e ∧ e.s = c.s ∧ e.w.joins = c.w.joins.set j.toNat ⟨0, 0⟩ ∧
      e.w.joinPoison = c.w.joinPoison &&& ~~~(1#4 <<< j.toNat) ∧
      e.w.jlost = (if (c.w.splits.filter fun p => p.2.status == .parkedJoin j.toNat) = [] ∨ c.w.jlost = 0xFFFFFFFF then c.w.jlost
        else c.w.jlost + 1) ∧
      e.w.splits = c.w.splits.map fun p => if p.2.status = .parkedJoin j.toNat then (p.1, p.2.readyAtPc p.2.pc s.ticks) else p := by
  obtain rfl := (executing_focus hr.1).2.2
  refine ⟨_, issueSplit_of_ready hr _, rfl, ?_⟩
  obtain ⟨h1, h2, h3, -, h5⟩ := Warp.lose_fields (Warp.putJoin { c.w with
    splits := Tab.mapVal c.w.splits fun (sp : Split) =>
      if sp.status = SplitStatus.parkedJoin j.toNat then sp.readyAtPc sp.pc c.s.ticks else sp } j.toNat ⟨0, 0⟩ true)
    (!(parkedOn c.w j.toNat).isEmpty)
  refine ⟨h1, h2, h5.trans ?_, h3.trans ?_⟩
  · simp only [Bool.not_eq_false', parkedOn_isEmpty]
    rfl
  · refine List.map_congr_left fun ⟨k, sp⟩ _ => ?_
    dsimp only
    split <;> rfl

theorem joinRegisters : Claims.JoinRegisters := by
  intro s c j hs
  refine ⟨fun hr => ?_, fun hp hu => ⟨fun hr => jarv_completes hp hu hr, fun hr => jwait_goes hs hp hu hr⟩, fun hr => jclr_completes hr⟩
  intro arrived w
  have h := jarm_completes hr
  rw [parkedLanes_eq] at h
  exact h

end Sys2Proof.Machine

namespace Sys2Proof.Machine

open Sys2Proof.Claims

/-! ### Tables cut by key -/

theorem Tab.get?_filter_key {α : Type} (t : Tab α) (f : Nat → Bool) (k : Nat) :
    Tab.get? (t.filter fun p => f p.1) k = if f k then Tab.get? t k else none := by
  induction t with
  | nil => simp [Tab.get?]
  | cons p t ih =>
    obtain ⟨a, v⟩ := p
    by_cases ha : a = k
    · subst ha
      by_cases hf : f a <;> simp [hf, Tab.get?, ih]
    · by_cases hf : f a <;> simp [hf, Tab.get?, ih, ha]

/-- A key that a filter refuses may be put or not. -/
theorem Tab.filter_put_of_refused {α : Type} (t : Tab α) (f : Nat → Bool) {k : Nat} (v : α) (h : f k = false) :
    (Tab.put t k v).filter (fun p => f p.1) = t.filter fun p => f p.1 := by
  induction t with
  | nil => simp [Tab.put, h]
  | cons p t ih =>
    obtain ⟨a, w⟩ := p
    simp only [Tab.put]
    split
    · simp only [List.filter_cons, ih]
    · split
      · next ha => subst ha; simp [h]
      · simp [h]

theorem Tab.get?_of_mem {α : Type} {t : Tab α} (hk : (t.map fun p => p.1).Nodup) {p : Nat × α} (hp : p ∈ t) :
    Tab.get? t p.1 = some p.2 := by
  induction t with
  | nil => cases hp
  | cons q t ih =>
    obtain ⟨hq, ht⟩ := List.nodup_cons.mp hk
    rcases List.mem_cons.mp hp with rfl | hp
    · simp [Tab.get?]
    · have hne : q.1 ≠ p.1 := fun he => hq (List.mem_map.mpr ⟨p, hp, he.symm⟩)
      simp only [Tab.get?, if_neg hne]
      exact ih ht hp

theorem eq_of_key_eq {α : Type} {t : Tab α} (hk : (t.map fun p => p.1).Nodup) {p q : Nat × α} (hp : p ∈ t) (hq : q ∈ t)
    (h : p.1 = q.1) : p = q := by
  have h1 := Tab.get?_of_mem hk hp
  rw [h, Tab.get?_of_mem hk hq] at h1
  exact Prod.ext h (Option.some.inj h1).symm

/-! ### Distinct values -/

theorem mem_distinct {α : Type} [DecidableEq α] {l : List α} {x : α} : x ∈ distinct l ↔ x ∈ l := by
  induction l with
  | nil => rfl
  | cons y l ih =>
    simp only [distinct, List.mem_cons, List.mem_filter, ih, decide_eq_true_eq]
    by_cases h : x = y <;> simp [h]

theorem nodup_distinct {α : Type} [DecidableEq α] (l : List α) : (distinct l).Nodup := by
  induction l with
  | nil => exact List.nodup_nil
  | cons y l ih => exact List.nodup_cons.mpr ⟨by simp, ih.filter _⟩

/-! ### The lowest lane and the bank of a merged split (01_machine R23) -/

theorem lowLane_le_of_lane {m : Mask} {k : Nat} (h : m.getLsbD k = true) : lowLane m ≤ k := by
  have hk : k < 96 := by
    by_contra hn
    rw [BitVec.getLsbD_of_ge _ _ (by omega)] at h
    cases h
  have hmem : k ∈ lanesOf m := List.mem_filter.mpr ⟨List.mem_range.mpr hk, h⟩
  have hs : (lanesOf m).Pairwise (fun a b => a < b) := List.pairwise_lt_range.filter _
  unfold lowLane
  cases hl : lanesOf m with
  | nil => rw [hl] at hmem; cases hmem
  | cons a l =>
    rw [hl] at hmem hs
    rcases List.mem_cons.mp hmem with rfl | hm
    · exact le_rfl
    · exact ((List.pairwise_cons.mp hs).1 k hm).le

theorem lowLane_lane {m : Mask} (h : lowLane m < 96) : m.getLsbD (lowLane m) = true := by
  unfold lowLane at h ⊢
  cases hl : lanesOf m with
  | nil => rw [hl] at h; exact absurd h (by decide)
  | cons a l =>
    have : a ∈ lanesOf m := by rw [hl]; exact List.mem_cons_self
    exact (List.mem_filter.mp this).2

theorem lowLane_le (m : Mask) : lowLane m ≤ 96 := by
  by_contra h
  unfold lowLane at h
  cases hl : lanesOf m with
  | nil => rw [hl] at h; exact h le_rfl
  | cons a l =>
    have ha : a ∈ lanesOf m := by rw [hl]; exact List.mem_cons_self
    have := List.mem_range.mp (List.mem_filter.mp ha).1
    rw [hl] at h
    simp only [List.headD_cons] at h
    omega

/-- The search for the element of the least key finds it where it is the only one. -/
theorem foldl_least {α β : Type} (key : α → Nat) (val : α → β) {p : α} (l : List α) (best : Nat × β)
    (h : (p ∈ l ∧ key p < best.1) ∨ best = (key p, val p)) (hl : ∀ q ∈ l, q = p ∨ key p < key q) :
    (l.foldl (fun best q => if key q < best.1 then (key q, val q) else best) best).2 = val p := by
  induction l generalizing best with
  | nil =>
    rcases h with ⟨h, -⟩ | rfl
    · cases h
    · rfl
  | cons q l ih =>
    refine ih _ ?_ (fun r hr => hl r (List.mem_cons_of_mem _ hr))
    rcases hl q List.mem_cons_self with rfl | hq
    · rcases h with ⟨-, h⟩ | rfl
      · exact .inr (if_pos h)
      · exact .inr (if_neg (lt_irrefl _))
    · rcases h with ⟨hm, h⟩ | rfl
      · rcases List.mem_cons.mp hm with rfl | hm
        · exact absurd hq (lt_irrefl _)
        · refine .inl ⟨hm, ?_⟩
          dsimp only
          split
          · exact hq
          · exact h
      · exact .inr (if_neg (by simpa using hq.le))

theorem bankOf_of_lowest {l : List (Nat × Split)} {d : Split} {p : Nat × Split} {k : Nat} (hp : p ∈ l)
    (hk : p.2.act.getLsbD k = true)
    (h : ∀ q ∈ l, ∀ i, q.2.act.getLsbD i = true → k ≤ i ∧ (i = k → q = p)) : bankOf l d = p.2 := by
  have hany : (l.any fun q => q.2.act != 0) = true := by
    refine List.any_eq_true.mpr ⟨p, hp, bne_iff_ne.mpr fun h0 => ?_⟩
    rw [h0] at hk
    cases BitVec.getLsbD_zero.symm.trans hk
  have hlow : lowLane p.2.act = k := by
    have hle := lowLane_le_of_lane hk
    have hk96 : k < 96 := by
      by_contra hn
      rw [BitVec.getLsbD_of_ge _ _ (by omega)] at hk
      cases hk
    exact le_antisymm hle (h p hp _ (lowLane_lane (by omega))).1
  have hk96 : k < 96 := by
    by_contra hn
    rw [BitVec.getLsbD_of_ge _ _ (by omega)] at hk
    cases hk
  unfold bankOf
  simp only [hany, if_true]
  refine foldl_least (fun q : Nat × Split => lowLane q.2.act) (fun q => q.2) l (97, d) (.inl ⟨hp, ?_⟩) (fun q hq => ?_)
  · rw [hlow]
    exact Nat.lt_succ_of_lt hk96
  · by_cases hq96 : lowLane q.2.act < 96
    · obtain ⟨hle, heq⟩ := h q hq _ (lowLane_lane hq96)
      by_cases he : lowLane q.2.act = k
      · exact .inl (heq he)
      · exact .inr (by rw [hlow]; omega)
    · exact .inr (by rw [hlow]; omega)

/-! ### Re-ganging (01_machine R23) -/

theorem Warp.regang_fields (w : Warp) (es : List Nat) (pc : Pc) (clock : Nat) :
    (w.regang es pc clock).joins = w.joins ∧ (w.regang es pc clock).jlost = w.jlost ∧
    (w.regang es pc clock).spill = w.spill := by
  unfold Warp.regang
  split <;> exact ⟨rfl, rfl, rfl⟩

theorem Warp.regang_get?_of_not_mem (w : Warp) {es : List Nat} (pc : Pc) (clock : Nat) {k : Nat} (hk : k ∉ es) :
    Tab.get? (w.regang es pc clock).splits k = Tab.get? w.splits k := by
  unfold Warp.regang
  split
  · rfl
  · next e sp rest he =>
    have hmem : (e, sp) ∈ w.splits.filter fun p => es.contains p.1 := by rw [he]; exact List.mem_cons_self
    have hes : e ∈ es := by simpa using (List.mem_filter.mp hmem).2
    have hne : k ≠ e := fun h => hk (h ▸ hes)
    have hc : es.contains k = false := by simpa using hk
    dsimp only
    rw [Tab.get?_put, if_neg hne, Tab.get?_filter_key w.splits (fun n => !es.contains n), hc]
    rfl

theorem Warp.regang_get?_of_mem (w : Warp) {es : List Nat} (pc : Pc) (clock : Nat) {e : Nat} {sp : Split} {rest : List (Nat × Split)}
    (he : (w.splits.filter fun p => es.contains p.1) = (e, sp) :: rest) {k : Nat} (hk : k ∈ es) :
    Tab.get? (w.regang es pc clock).splits k = if k = e then some (mergedSplit ((e, sp) :: rest) sp pc clock) else none := by
  have hc : es.contains k = true := by simpa using hk
  unfold Warp.regang
  rw [he]
  dsimp only
  rw [Tab.get?_put, Tab.get?_filter_key w.splits (fun n => !es.contains n), hc]
  rfl

/-- Splits at entries that do not take part keep their place in the table. -/
theorem Warp.regang_filter (w : Warp) {es : List Nat} (pc : Pc) (clock : Nat) {f : Nat → Bool} (hf : ∀ k ∈ es, f k = false) :
    ((w.regang es pc clock).splits.filter fun p => f p.1) = w.splits.filter fun p => f p.1 := by
  unfold Warp.regang
  split
  · rfl
  · next e sp rest he =>
    have hmem : (e, sp) ∈ w.splits.filter fun p => es.contains p.1 := by rw [he]; exact List.mem_cons_self
    have hes : e ∈ es := by simpa using (List.mem_filter.mp hmem).2
    dsimp only
    rw [Tab.filter_put_of_refused _ f _ (hf e hes), List.filter_filter]
    refine List.filter_congr fun p _ => ?_
    by_cases hp : p.1 ∈ es
    · rw [hf _ hp]; rfl
    · simp [hp]

/-! ### Groups re-ganged one after another -/

/-- Re-ganging of the entries of every address of a list in turn. -/
def Warp.regangEach (clock : Nat) (es : Pc → List Nat) (l : List Pc) (w : Warp) : Warp :=
  l.foldl (fun w pc => w.regang (es pc) pc clock) w

theorem Warp.regangEach_fields {clock : Nat} {es : Pc → List Nat} (l : List Pc) (w : Warp) :
    (w.regangEach clock es l).joins = w.joins ∧ (w.regangEach clock es l).jlost = w.jlost ∧
    (w.regangEach clock es l).spill = w.spill := by
  induction l generalizing w with
  | nil => exact ⟨rfl, rfl, rfl⟩
  | cons pc l ih =>
    obtain ⟨h1, h2, h3⟩ := ih (w.regang (es pc) pc clock)
    obtain ⟨g1, g2, g3⟩ := w.regang_fields (es pc) pc clock
    exact ⟨h1.trans g1, h2.trans g2, h3.trans g3⟩

theorem Warp.regangEach_get?_of_not_mem {clock : Nat} {es : Pc → List Nat} {k : Nat} (l : List Pc) (w : Warp)
    (h : ∀ pc ∈ l, k ∉ es pc) : Tab.get? (w.regangEach clock es l).splits k = Tab.get? w.splits k := by
  induction l generalizing w with
  | nil => rfl
  | cons pc l ih =>
    exact (ih _ fun q hq => h q (List.mem_cons_of_mem _ hq)).trans
      (w.regang_get?_of_not_mem pc clock (h pc List.mem_cons_self))

theorem Warp.regangEach_filter {clock : Nat} {es : Pc → List Nat} {f : Nat → Bool} (l : List Pc) (w : Warp)
    (h : ∀ pc ∈ l, ∀ k ∈ es pc, f k = false) :
    ((w.regangEach clock es l).splits.filter fun p => f p.1) = w.splits.filter fun p => f p.1 := by
  induction l generalizing w with
  | nil => rfl
  | cons pc l ih =>
    exact (ih _ fun q hq => h q (List.mem_cons_of_mem _ hq)).trans (w.regang_filter pc clock (h pc List.mem_cons_self))

/-- Where no entry belongs to two addresses, the entries of each end as re-ganging them alone leaves them. -/
theorem Warp.regangEach_get?_of_mem {clock : Nat} {es : Pc → List Nat} {l : List Pc} (w : Warp) (hl : l.Nodup)
    (hd : ∀ p q k, k ∈ es p → k ∈ es q → p = q) {pc : Pc} (hpc : pc ∈ l) {e : Nat} {sp : Split} {rest : List (Nat × Split)}
    (he : (w.splits.filter fun p => (es pc).contains p.1) = (e, sp) :: rest) {k : Nat} (hk : k ∈ es pc) :
    Tab.get? (w.regangEach clock es l).splits k = if k = e then some (mergedSplit ((e, sp) :: rest) sp pc clock) else none := by
  obtain ⟨l1, l2, rfl⟩ := List.append_of_mem hpc
  obtain ⟨-, h2, hdis⟩ := List.nodup_append.mp hl
  have hsplit : w.regangEach clock es (l1 ++ pc :: l2) =
      ((w.regangEach clock es l1).regang (es pc) pc clock).regangEach clock es l2 := by
    simp [Warp.regangEach, List.foldl_append]
  have hfilter : ((w.regangEach clock es l1).splits.filter fun p => (es pc).contains p.1) = (e, sp) :: rest := by
    rw [← he]
    refine Warp.regangEach_filter (f := fun n => (es pc).contains n) l1 w fun q hq n hn => ?_
    have hne : q ≠ pc := hdis q hq pc List.mem_cons_self
    simpa using fun hn' => hne (hd _ _ _ hn hn')
  rw [hsplit, Warp.regangEach_get?_of_not_mem l2 _ fun q hq hkq => ?_]
  · exact Warp.regang_get?_of_mem _ pc clock hfilter hk
  · exact (List.nodup_cons.mp h2).1 (hd _ _ _ hk hkq ▸ hq)

/-! ### The test of a join (R152, R154, R156) -/

theorem Warp.refill_of_no_spill {w : Warp} (h : w.spill = []) (clock : Nat) : w.refill clock = w := by
  rw [Warp.refill, h]
  rfl

theorem unspillOne_fields (clock : Nat) (w : Warp) : (unspillOne clock w).joins = w.joins ∧ (unspillOne clock w).jlost = w.jlost := by
  unfold unspillOne
  split <;> exact ⟨rfl, rfl⟩

theorem Warp.refill_fields (w : Warp) (clock : Nat) : (w.refill clock).joins = w.joins ∧ (w.refill clock).jlost = w.jlost := by
  unfold Warp.refill
  generalize w.spill = l
  induction l generalizing w with
  | nil => exact ⟨rfl, rfl⟩
  | cons x l ih =>
    obtain ⟨h1, h2⟩ := ih (unspillOne clock w)
    obtain ⟨g1, g2⟩ := unspillOne_fields clock w
    exact ⟨h1.trans g1, h2.trans g2⟩

/-- The entries of the splits parked on a join that continue at an address. -/
def parkedAt (w : Warp) (j : Nat) (pc : Pc) : List Nat := ((parkedOn w j).filter fun p => p.2 = pc).map fun p => p.1

theorem mem_parkedAt {w : Warp} {j : Nat} {pc : Pc} {k : Nat} :
    k ∈ parkedAt w j pc ↔ ∃ p ∈ w.splits, p.2.status = .parkedJoin j ∧ p.2.pc = pc ∧ p.1 = k := by
  simp only [parkedAt, parkedOn, List.mem_map, List.mem_filter, List.mem_filterMap, decide_eq_true_eq]
  constructor
  · rintro ⟨⟨n, q⟩, ⟨⟨p, hp, he⟩, rfl⟩, rfl⟩
    split at he
    · next hs =>
      cases he
      exact ⟨p, hp, hs, rfl, rfl⟩
    · cases he
  · rintro ⟨p, hp, hs, rfl, rfl⟩
    exact ⟨(p.1, p.2.pc), ⟨⟨p, hp, if_pos hs⟩, rfl⟩, rfl⟩

/-- The warp once the splits parked on a satisfied join have re-ganged, before spilled splits take the free entries. -/
def Warp.resolved (clock : Nat) (w : Warp) (j : Nat) : Warp :=
  let x := w.join j
  let w1 := w.regangEach clock (parkedAt w j) (distinct ((parkedOn w j).map fun p => p.2))
  Warp.lose { w1 with joins := setAt w1.joins j { expected := 0, arrived := 0 } } (x.expected &&& ~~~x.arrived != 0)

theorem resolveJoin_of_satisfied {clock : Nat} {w : Warp} {j : Nat} (h : (w.join j).satisfied w.exited = true) :
    resolveJoin clock w j = (w.resolved clock j).refill clock := if_pos h

theorem resolveJoin_of_not_satisfied {clock : Nat} {w : Warp} {j : Nat} (h : (w.join j).satisfied w.exited = false) :
    resolveJoin clock w j = w := if_neg (by rw [show w.joins.getD j { expected := 0, arrived := 0 } = w.join j from rfl, h]; decide)

theorem Warp.resolved_fields (clock : Nat) (w : Warp) (j : Nat) :
    (w.resolved clock j).joins = w.joins.set j ⟨0, 0⟩ ∧
    (w.resolved clock j).jlost = (if (w.join j).expected &&& ~~~(w.join j).arrived = 0 ∨ w.jlost = 0xFFFFFFFF then w.jlost
      else w.jlost + 1) ∧
    (w.resolved clock j).spill = w.spill ∧
    (w.resolved clock j).splits = (w.regangEach clock (parkedAt w j) (distinct ((parkedOn w j).map fun p => p.2))).splits := by
  obtain ⟨h1, h2, h3⟩ := w.regangEach_fields (clock := clock) (es := parkedAt w j) (distinct ((parkedOn w j).map fun p => p.2))
  obtain ⟨g1, -, g3, g4, g5⟩ := Warp.lose_fields { w.regangEach clock (parkedAt w j) (distinct ((parkedOn w j).map fun p => p.2)) with
    joins := setAt (w.regangEach clock (parkedAt w j) (distinct ((parkedOn w j).map fun p => p.2))).joins j ⟨0, 0⟩ }
    ((w.join j).expected &&& ~~~(w.join j).arrived != 0)
  refine ⟨g1.trans (by dsimp only; rw [h1]; rfl), g5.trans ?_, g4.trans h3, g3⟩
  dsimp only
  simp only [h2, bne_eq_false_iff_eq]

section

variable {w : Warp} (hk : (w.splits.map fun p => p.1).Nodup)

include hk

theorem parkedAt_disjoint {j : Nat} (p q : Pc) (k : Nat) (hp : k ∈ parkedAt w j p) (hq : k ∈ parkedAt w j q) : p = q := by
  obtain ⟨x, hx, -, rfl, rfl⟩ := mem_parkedAt.mp hp
  obtain ⟨y, hy, -, rfl, he⟩ := mem_parkedAt.mp hq
  rw [eq_of_key_eq hk hy hx he]

theorem filter_parkedAt (j : Nat) (pc : Pc) : (w.splits.filter fun p => (parkedAt w j pc).contains p.1) =
    w.splits.filter fun p => p.2.status == .parkedJoin j && p.2.pc == pc := by
  refine List.filter_congr fun p hp => ?_
  rw [Bool.eq_iff_iff, List.contains_iff_mem, mem_parkedAt, Bool.and_eq_true, beq_iff_eq, beq_iff_eq]
  constructor
  · rintro ⟨q, hq, hs, hpc, he⟩
    rw [← eq_of_key_eq hk hq hp he]
    exact ⟨hs, hpc⟩
  · rintro ⟨hs, hpc⟩
    exact ⟨p, hp, hs, hpc, rfl⟩

theorem resolved_get?_of_not_parked (clock : Nat) {j : Nat} {p : Nat × Split} (hp : p ∈ w.splits)
    (hs : p.2.status ≠ .parkedJoin j) : Tab.get? (w.resolved clock j).splits p.1 = some p.2 := by
  rw [(w.resolved_fields clock j).2.2.2, Warp.regangEach_get?_of_not_mem _ _ fun pc _ hm => ?_, Tab.get?_of_mem hk hp]
  obtain ⟨q, hq, hqs, -, he⟩ := mem_parkedAt.mp hm
  exact hs (eq_of_key_eq hk hq hp he ▸ hqs)

theorem resolved_get?_of_parked (clock : Nat) {j : Nat} {pc : Pc} {e : Nat} {sp : Split} {rest : List (Nat × Split)}
    (he : (w.splits.filter fun p => p.2.status == .parkedJoin j && p.2.pc == pc) = (e, sp) :: rest) {p : Nat × Split}
    (hp : p ∈ (e, sp) :: rest) : Tab.get? (w.resolved clock j).splits p.1 =
      if p.1 = e then some (mergedSplit ((e, sp) :: rest) sp pc clock) else none := by
  rw [← he] at hp
  obtain ⟨hmem, hpar⟩ := List.mem_filter.mp hp
  obtain ⟨hs, hpc⟩ : p.2.status = .parkedJoin j ∧ p.2.pc = pc := by simpa using hpar
  have hin : p.1 ∈ parkedAt w j pc := mem_parkedAt.mpr ⟨p, hmem, hs, hpc, rfl⟩
  have hgroup : pc ∈ distinct ((parkedOn w j).map fun q => q.2) := by
    refine mem_distinct.mpr (List.mem_map.mpr ⟨(p.1, pc), List.mem_filterMap.mpr ⟨p, hmem, ?_⟩, rfl⟩)
    rw [if_pos hs, hpc]
  rw [(w.resolved_fields clock j).2.2.2]
  exact w.regangEach_get?_of_mem (nodup_distinct _) (parkedAt_disjoint hk) hgroup ((filter_parkedAt hk j pc).trans he) hin

end

theorem joinTest : Claims.JoinTest := by
  intro w clock j hj hjoins x t
  refine ⟨fun h => resolveJoin_of_not_satisfied (by simpa [Join.satisfied] using h), fun h => ?_⟩
  have hsat : (w.join j).satisfied w.exited = true := by simpa [Join.satisfied] using h
  have ht : t = (w.resolved clock j).refill clock := resolveJoin_of_satisfied hsat
  obtain ⟨hr1, hr2⟩ := (w.resolved clock j).refill_fields clock
  obtain ⟨hf1, hf2, hf3, -⟩ := w.resolved_fields clock j
  refine ⟨by rw [ht, hr1, hf1], by rw [ht, hr2, hf2], fun hsort hspill => ?_⟩
  have hk : (w.splits.map fun p => p.1).Nodup := hsort.imp fun h => h.ne
  have ht' : t = w.resolved clock j := ht.trans (Warp.refill_of_no_spill (hf3.trans hspill) clock)
  rw [ht']
  refine ⟨fun p hp hs => resolved_get?_of_not_parked hk clock hp hs, fun pc e sp rest he => ⟨fun p hp => ?_, ?_⟩⟩
  · have hpe : p.1 ≠ e := by
      have hnd : (((e, sp) :: rest).map fun p => p.1).Nodup := by
        rw [← he]
        exact hk.sublist (List.filter_sublist.map _)
      exact fun h => (List.nodup_cons.mp hnd).1 (List.mem_map.mpr ⟨p, hp, h⟩)
    rw [resolved_get?_of_parked hk clock he (List.mem_cons_of_mem _ hp), if_neg hpe]
  · refine ⟨_, (resolved_get?_of_parked hk clock he List.mem_cons_self).trans (if_pos rfl), rfl, rfl, rfl, rfl, rfl, rfl, rfl, rfl,
      fun p hp l hl hmin => ?_⟩
    have hb : bankOf ((e, sp) :: rest) sp = p.2 := bankOf_of_lowest hp hl hmin
    rw [← hb]
    exact ⟨rfl, rfl, rfl, rfl⟩

end Sys2Proof.Machine

namespace Sys2Proof.Machine

open Sys2Proof.Claims

/-! ### JOIN_DEADLOCK (R157) -/

/-- A split of the table with the join it is parked on. -/
def parkedSplit (p : Nat × Split) : Option (Nat × Nat × Split) :=
  match p.2.status with
  | .parkedJoin j => some (p.1, j, p.2)
  | _ => none

theorem parkedSplit_of_parked {p : Nat × Split} {j : Nat} (h : p.2.status = .parkedJoin j) : parkedSplit p = some (p.1, j, p.2) := by
  rw [parkedSplit, h]

theorem parkedSplit_of_not_parked {p : Nat × Split} (h : ∀ j, p.2.status ≠ .parkedJoin j) : parkedSplit p = none := by
  unfold parkedSplit
  split
  · next j hj => exact absurd hj (h j)
  · rfl

/-- One step of the search for the lowest lane: the least lowest lane so far, with its split's entry and join. -/
def lowestParked (best : Nat × Option (Nat × Nat)) (p : Nat × Nat × Split) : Nat × Option (Nat × Nat) :=
  if lowLane p.2.2.lanes < best.1 then (lowLane p.2.2.lanes, some (p.1, p.2.1)) else best

theorem deadlocked_eq (w : Warp) : deadlocked w =
    if w.splits.filterMap parkedSplit = [] ∨ (w.splits.filterMap parkedSplit).length ≠ w.splits.length then none
    else ((w.splits.filterMap parkedSplit).foldl lowestParked (97, none)).2 := rfl

theorem deadlocked_of_not_parked {w : Warp} {p : Nat × Split} (hp : p ∈ w.splits) (h : ∀ j, p.2.status ≠ .parkedJoin j) :
    deadlocked w = none := by
  rw [deadlocked_eq, if_pos]
  right
  rw [List.length_filterMap_eq_countP]
  intro he
  have := List.countP_eq_length.mp he p hp
  rw [parkedSplit_of_not_parked h] at this
  cases this

/-- The search for the least key ends with an element of the least key. -/
theorem foldl_lowestParked (l : List (Nat × Nat × Split)) (best : Nat × Option (Nat × Nat)) :
    let r := l.foldl lowestParked best
    (r = best ∨ ∃ p ∈ l, r = (lowLane p.2.2.lanes, some (p.1, p.2.1))) ∧ r.1 ≤ best.1 ∧ ∀ p ∈ l, r.1 ≤ lowLane p.2.2.lanes := by
  induction l generalizing best with
  | nil => exact ⟨.inl rfl, le_rfl, fun p hp => by cases hp⟩
  | cons q l ih =>
    intro r
    by_cases hq : lowLane q.2.2.lanes < best.1
    · have hr : r = l.foldl lowestParked (lowLane q.2.2.lanes, some (q.1, q.2.1)) := by
        simp only [r, List.foldl_cons, lowestParked, if_pos hq]
      obtain ⟨h1, h2, h3⟩ := ih (lowLane q.2.2.lanes, some (q.1, q.2.1))
      rw [← hr] at h1 h2 h3
      refine ⟨.inr ?_, h2.trans hq.le, fun p hp => ?_⟩
      · rcases h1 with h1 | ⟨p, hp, h1⟩
        · exact ⟨q, List.mem_cons_self, h1⟩
        · exact ⟨p, List.mem_cons_of_mem _ hp, h1⟩
      · rcases List.mem_cons.mp hp with rfl | hp
        · exact h2
        · exact h3 p hp
    · have hr : r = l.foldl lowestParked best := by simp only [r, List.foldl_cons, lowestParked, if_neg hq]
      obtain ⟨h1, h2, h3⟩ := ih best
      rw [← hr] at h1 h2 h3
      refine ⟨h1.imp_right fun ⟨p, hp, h1⟩ => ⟨p, List.mem_cons_of_mem _ hp, h1⟩, h2, fun p hp => ?_⟩
      rcases List.mem_cons.mp hp with rfl | hp
      · omega
      · exact h3 p hp

/-- With every split parked, the entry whose split holds the lowest lane takes the trap. -/
theorem deadlocked_of_parked {w : Warp} {e : Nat} {sp : Split} (hsp : (e, sp) ∈ w.splits)
    (hall : ∀ p ∈ w.splits, ∃ j, p.2.status = .parkedJoin j)
    (hlow : ∀ p ∈ w.splits, p.1 ≠ e → lowLane sp.lanes < lowLane p.2.lanes) : ∃ j, deadlocked w = some (e, j) := by
  have hmem (p : Nat × Split) (hp : p ∈ w.splits) : ∃ j, (p.1, j, p.2) ∈ w.splits.filterMap parkedSplit := by
    obtain ⟨j, hj⟩ := hall p hp
    exact ⟨j, List.mem_filterMap.mpr ⟨p, hp, parkedSplit_of_parked hj⟩⟩
  have hlen : (w.splits.filterMap parkedSplit).length = w.splits.length := by
    rw [List.length_filterMap_eq_countP, List.countP_eq_length]
    intro p hp
    obtain ⟨j, hj⟩ := hall p hp
    rw [parkedSplit_of_parked hj]
    rfl
  obtain ⟨j0, h0⟩ := hmem _ hsp
  rw [deadlocked_eq, if_neg (by
    rintro (h | h)
    · rw [h] at h0; cases h0
    · exact h hlen)]
  obtain ⟨h1, -, h3⟩ := foldl_lowestParked (w.splits.filterMap parkedSplit) (97, none)
  have hle := h3 _ h0
  have hlt : lowLane sp.lanes < 97 := Nat.lt_succ_of_le (lowLane_le _)
  rcases h1 with h1 | ⟨⟨k, j, q⟩, hq, h1⟩
  · rw [h1] at hle
    exact absurd hle (by dsimp only; omega)
  · obtain ⟨p, hp, hpq⟩ := List.mem_filterMap.mp hq
    obtain ⟨i, hi⟩ := hall p hp
    rw [parkedSplit_of_parked hi] at hpq
    cases hpq
    rw [h1] at hle ⊢
    have hk : p.1 = e := by
      by_contra hne
      have := hlow p hp hne
      dsimp only at hle
      omega
    exact ⟨j, by rw [hk]⟩

theorem Cx.mustWait_of_trapsNow {c : Cx} (h : trapsNow c) : c.mustWait = none := by
  obtain ⟨-, hh, hp⟩ := h
  simp [Cx.mustWait, hh, hp]

/-- The trap that JOIN_DEADLOCK takes. -/
def deadlockTrap (c : Cx) : TrapInfo :=
  { cause := 0x0D, code := 0, fetch := false, tpc := c.sp.pc - 8, exec := 0, resume := c.sp.pc, run := Run.none c.sp.pc,
    entries := [], fromPark := none }

theorem checkDeadlock_of_deadlocked {s : State} {wk e j : Nat} {c : Cx} (hc : cxOf s wk e = some c)
    (hd : deadlocked c.w = some (e, j)) (ht : trapsNow c) : checkDeadlock s wk = c.enterTrap (deadlockTrap c) := by
  obtain ⟨-, -, -, hw, -⟩ := cxOf_fields hc
  unfold checkDeadlock
  simp only [hw, Option.bind_some, hd, hc, Cx.mustWait_of_trapsNow ht, Option.isSome_none, Bool.false_eq_true, if_false, ht.1, ne_eq,
    not_true_eq_false]
  rfl

theorem rollbackCause_of_other (s : State) (l : Option Nat) {cause : Nat} (h : cause ≠ 0x13) (h' : cause ≠ 0x10) :
    rollbackCause s l cause = false := by
  simp [rollbackCause, h, h']

theorem endFarTask_of_released {s : State} {wk status cause : Nat} {f : FarTask} {w : Warp} (hw : Tab.get? s.warps wk = some w)
    (h : w.unack.getD 2 0 = 0) : Tab.get? (endFarTask s wk f status cause []).warps wk = none ∧
      ReplyLeaves s (endFarTask s wk f status cause []) f.caller f.seq f.core status cause := by
  unfold endFarTask
  rw [hw]
  dsimp only
  rw [if_pos (by rw [Warp.released, h]; rfl)]
  refine ⟨?_, _, Tab.get?_put_self _ _ _, rfl, rfl, rfl, rfl, rfl, rfl⟩
  exact (Tab.get?_del _ _ _).trans (if_pos rfl)

theorem Cx.enterTrap_of_far {c : Cx} {f : FarTask} {t : TrapInfo} (hf : c.w.far = some f)
    (hb : rollbackCause c.s (lnKey c.s c.w) t.cause = false) :
    c.enterTrap t = .next (endFarTask c.commit c.wk f (if 0x20 ≤ t.cause then 1 else 2) t.cause []) := by
  simp [Cx.enterTrap, hf, hb]

theorem Cx.drain_of_no_pend {c : Cx} (h : c.sp.pend = []) : c.drain = c := by
  obtain ⟨s, wk, w, e, sp⟩ := c
  cases sp
  dsimp only at h
  subst h
  rfl

theorem Cx.enterTrap_of_handler {c : Cx} {t : TrapInfo} (hf : c.w.far = none)
    (hb : rollbackCause c.s (lnKey c.s c.w) t.cause = false) (hh : c.sp.trap.handler = false) (hv : c.tvec ≠ 0)
    (hp : c.sp.pend = []) : c.enterTrap t = .next (unfocus (c.inHandler (c.trapState t)).commit) := by
  unfold Cx.enterTrap
  simp only [hf, hb, hh, Cx.drain_of_no_pend hp, Bool.false_eq_true, if_false, if_neg hv]

theorem cxOf_unfocus_commit (c : Cx) :
    cxOf (unfocus c.commit) c.wk c.e =
      some { c with s := unfocus c.commit, w := { c.w with splits := Tab.put c.w.splits c.e c.sp } } := by
  simp [cxOf]

theorem inHandlerWith_of_trap {c : Cx} (t : TrapInfo) (ht : t.entries = []) :
    inHandlerWith c (unfocus (c.inHandler (c.trapState t)).commit) t.cause t.code t.fetch t.tpc t.resume := by
  refine ⟨rfl, _, cxOf_unfocus_commit (c.inHandler (c.trapState t)), rfl, rfl, rfl, rfl, rfl, rfl, rfl, rfl, ?_, ?_, rfl, rfl, rfl, rfl, rfl,
    rfl, rfl, rfl, rfl, rfl, rfl, ?_⟩
  · exact congrArg List.length ht
  · exact congrArg (List.map _) ht
  · have h := (Config.trapSelector [t.cause, t.code, if t.fetch then 1 else 0, t.tpc.toNat, t.exec, t.entries.length,
      c.sp.tsel.toNat]).isLt
    show (BitVec.setWidth 32 _).toNat < 32
    rw [BitVec.toNat_setWidth]
    exact lt_of_le_of_lt (Nat.mod_le _ _) h

theorem joinDeadlock : Claims.JoinDeadlock := by
  intro s wk e c hc
  obtain ⟨rfl, rfl, rfl, hw, hsp⟩ := cxOf_fields hc
  refine ⟨fun ⟨p, hp, hn⟩ => ?_, fun hall hlow ht => ?_⟩
  · unfold checkDeadlock
    rw [hw, Option.bind_some, deadlocked_of_not_parked hp hn]
  · obtain ⟨j, hd⟩ := deadlocked_of_parked (Tab.get?_mem hsp) hall hlow
    have hx := checkDeadlock_of_deadlocked hc hd ht
    have hb : rollbackCause c.s (lnKey c.s c.w) (deadlockTrap c).cause = false :=
      rollbackCause_of_other (cause := 0x0D) _ _ (by decide) (by decide)
    refine ⟨fun f hf => ⟨_, hx.trans (Cx.enterTrap_of_far hf hb), fun hu => ?_⟩, fun hf hh hv => ?_⟩
    · exact endFarTask_of_released (Tab.get?_put_self _ _ _) hu
    · have hin := inHandlerWith_of_trap (c := c) (deadlockTrap c) rfl
      refine ⟨_, _, hx.trans (Cx.enterTrap_of_handler hf hb hh hv ht.2.2), hin, cxOf_unfocus_commit _, rfl, rfl⟩

/-- Settles O19: the join instructions leave the joins as R153 to R155 say, the test of a satisfied join re-gangs the splits parked on
it group by group, and a warp whose splits are all parked traps in the one with the lowest lane. -/
theorem joins : Obligations.Joins := ⟨joinRegisters, joinTest, joinDeadlock⟩

end Sys2Proof.Machine

namespace Sys2Proof.Machine

open Sys2Proof.Claims

/-! ### A skein's record changed, and its scratchpad written lane by lane (R38, R195) -/

theorem skeinChanged_refl {s : State} {n : Nat} {k : Skein} (h : Tab.get? s.skeins n = some k) : skeinChanged s s n k :=
  ⟨rfl, h, fun _ _ => rfl⟩

theorem skeinChanged_upd {s t : State} {n : Nat} {k : Skein} (h : skeinChanged s t n k) (f : Skein → Skein) :
    skeinChanged s { t with skeins := Tab.upd t.skeins n f } n (f k) := by
  obtain ⟨hs, hk, hn⟩ := h
  refine ⟨hs, by rw [Tab.get?_upd, if_pos rfl, hk]; rfl, fun m hm => ?_⟩
  rw [Tab.get?_upd, if_neg hm, hn m hm]

theorem skeinChanged_putQueue {s t : State} {n : Nat} {k : Skein} (h : skeinChanged s t n k) (q : Nat) (x : WeftQueue) :
    skeinChanged s (putQueue t n q x) n { k with queues := setAt k.queues q x } := skeinChanged_upd h _

/-- The bytes of the lanes of an instruction, each lane's at its own address, one lane after another. -/
def Mem.storeLanes (m : Mem) (n : Nat) (addr : Nat → Nat) (data : Nat → BitVec 128) (lanes : List Nat) : Mem :=
  lanes.foldl (fun m i => Mem.writeBytes m (addr i) (leBytes n (data i).toNat)) m

theorem skeinChanged_storeScratch {s t : State} {key : Nat} {k : Skein} (h : skeinChanged s t key k) (n : Nat) (addr : Nat → Nat)
    (data : Nat → BitVec 128) (lanes : List Nat) :
    ∃ k', skeinChanged s (storeScratch t key n addr data lanes) key k' ∧ k'.queues = k.queues ∧
      k'.scratch = Mem.storeLanes k.scratch n addr data lanes := by
  induction lanes generalizing t k with
  | nil => exact ⟨k, h, rfl, rfl⟩
  | cons l rest ih =>
    obtain ⟨k', hk, hq, hm⟩ := ih (skeinChanged_upd h fun x => { x with
      scratch := Mem.writeBytes x.scratch (addr l) (leBytes n (data l).toNat)
      scratchPoison := poisonAfter 8 x.scratchPoison (addr l) (leBytes n (data l).toNat).length false })
    exact ⟨k', hk, hq, hm⟩

theorem Mem.byte_storeLanes_of_outside {m : Mem} (h : Mem.wf m = true) {n : Nat} {addr : Nat → Nat} {data : Nat → BitVec 128}
    {lanes : List Nat} {b : Nat} (hb : ∀ l ∈ lanes, b < addr l ∨ addr l + n ≤ b) :
    Mem.byte (Mem.storeLanes m n addr data lanes) b = Mem.byte m b := by
  induction lanes generalizing m with
  | nil => rfl
  | cons l rest ih =>
    obtain ⟨hl, hrest⟩ := List.forall_mem_cons.mp hb
    calc Mem.byte (Mem.storeLanes m n addr data (l :: rest)) b
        = Mem.byte (Mem.writeBytes m (addr l) (leBytes n (data l).toNat)) b := ih (Mem.wf_writeBytes _ _ _ h) hrest
      _ = Mem.byte m b := Mem.byte_writeBytes_leBytes_ne h _ _ _ _ hl

/-- Of ascending lanes the last that reaches a byte wins it (R193). -/
theorem Mem.byte_storeLanes_of_last {m : Mem} (h : Mem.wf m = true) {n : Nat} {addr : Nat → Nat} {data : Nat → BitVec 128}
    {lanes : List Nat} (hs : lanes.Pairwise (· < ·)) {l j : Nat} (hl : l ∈ lanes) (hj : j < n)
    (hlast : ∀ v ∈ lanes, l < v → addr l + j < addr v ∨ addr v + n ≤ addr l + j) :
    Mem.byte (Mem.storeLanes m n addr data lanes) (addr l + j) = BitVec.ofNat 8 ((data l).toNat / 2 ^ (8 * j)) := by
  induction lanes generalizing m with
  | nil => simp at hl
  | cons x rest ih =>
    obtain ⟨hx, hrest⟩ := List.pairwise_cons.mp hs
    have hwf := Mem.wf_writeBytes m (addr x) (leBytes n (data x).toNat) h
    rcases List.mem_cons.mp hl with rfl | hmem
    · calc Mem.byte (Mem.storeLanes m n addr data (l :: rest)) (addr l + j)
          = Mem.byte (Mem.writeBytes m (addr l) (leBytes n (data l).toNat)) (addr l + j) :=
            Mem.byte_storeLanes_of_outside hwf fun v hv => hlast v (List.mem_cons_of_mem _ hv) (hx v hv)
        _ = _ := Mem.byte_writeBytes_leBytes h _ _ _ _ hj
    · exact ih hwf hrest hmem fun v hv => hlast v (List.mem_cons_of_mem _ hv)

/-! ### The lanes of an instruction and their data -/

theorem mem_lanesOf {m : Mask} {l : Nat} : l ∈ lanesOf m ↔ l < 96 ∧ m.getLsbD l = true := by
  simp [lanesOf]

theorem lanesOf_ascending (m : Mask) : (lanesOf m).Pairwise (· < ·) :=
  List.pairwise_lt_range.sublist List.filter_sublist

theorem storeLanes_ascending (shadow : Bool) (m : Mask) : (storeLanes shadow m).Pairwise (· < ·) := by
  unfold storeLanes
  split
  · exact (lanesOf_ascending m).sublist List.filter_sublist
  · exact lanesOf_ascending m

theorem mem_storeLanes {shadow : Bool} {m : Mask} {l : Nat} :
    l ∈ storeLanes shadow m ↔ l < 96 ∧ m.getLsbD l = true ∧ (shadow = true → l < 48) := by
  cases shadow
  · simp [storeLanes, mem_lanesOf]
  · simp [storeLanes, mem_lanesOf, and_assoc]

/-- The words of a lane in consecutive registers, as one number: a sum. -/
theorem groupOf_eq_sum (c : Cx) (d n l : Nat) :
    groupOf c d n l = ((List.range n).map fun k => (c.lane (d + k) l).toNat * 2 ^ (32 * k)).sum := by
  rw [groupOf, List.sum_eq_foldr, List.foldr_map]

theorem groupOf_succ (c : Cx) (d n l : Nat) :
    groupOf c d (n + 1) l = groupOf c d n l + (c.lane (d + n) l).toNat * 2 ^ (32 * n) := by
  simp [groupOf_eq_sum, List.range_succ]

theorem groupOf_lt (c : Cx) (d n l : Nat) : groupOf c d n l < 2 ^ (32 * n) := by
  induction n with
  | zero => simp [groupOf]
  | succ n ih =>
    have hw : (c.lane (d + n) l).toNat + 1 ≤ 2 ^ 32 := (c.lane (d + n) l).isLt
    calc groupOf c d (n + 1) l
        = groupOf c d n l + (c.lane (d + n) l).toNat * 2 ^ (32 * n) := groupOf_succ c d n l
      _ < 2 ^ (32 * n) + (c.lane (d + n) l).toNat * 2 ^ (32 * n) := Nat.add_lt_add_right ih _
      _ = ((c.lane (d + n) l).toNat + 1) * 2 ^ (32 * n) := by rw [Nat.add_mul, Nat.one_mul, Nat.add_comm]
      _ ≤ 2 ^ 32 * 2 ^ (32 * n) := Nat.mul_le_mul_right _ hw
      _ = 2 ^ (32 * (n + 1)) := by rw [← Nat.pow_add, Nat.mul_add, Nat.mul_one, Nat.add_comm]

/-- The data of a lane of at most four registers, as a number. -/
theorem Cx.dataOf_toNat (c : Cx) (d l : Nat) {n : Nat} (h : n ≤ 4) : (c.dataOf d n l).toNat = groupOf c d n l := by
  have hsum : (List.range n).foldl (fun x k => x + ((c.row (d + k)).getD l 0).toNat * 2 ^ (32 * k)) 0 = groupOf c d n l := by
    rw [groupOf_eq_sum, List.sum_eq_foldl, List.foldl_map]
    rfl
  have hlt : groupOf c d n l < 2 ^ 128 := Nat.lt_of_lt_of_le (groupOf_lt c d n l) (Nat.pow_le_pow_right (by decide) (by omega))
  rw [Cx.dataOf, BitVec.toNat_ofNat, hsum, Nat.mod_eq_of_lt hlt]

end Sys2Proof.Machine

namespace Sys2Proof.Machine

open Sys2Proof.Claims

/-! ### Pushes and pops of a weft queue (R38 to R40, R195) -/

theorem Cx.queueAccess_of_missing {c : Cx} {q : BitVec 3} {n : Nat} {off : Nat → Nat} {k : Skein} {kn : Kernel}
    (hk : skOf c.s c.w = some k) (hn : kernelOf c.s c.w = some kn) (h : kn.stages ≤ q.toNat + 1)
    (f : Skein → Kernel → WeftQueue → Out) : c.queueAccess q n off f = c.trapAt 0x04 := by
  unfold Cx.queueAccess
  rw [hk, hn]
  exact if_pos h

theorem Cx.queueAccess_of_inside {c : Cx} {q : BitVec 3} {n : Nat} {off : Nat → Nat} {k : Skein} {kn : Kernel} {x : WeftQueue}
    (hk : skOf c.s c.w = some k) (hn : kernelOf c.s c.w = some kn) (hq : q.toNat + 1 < kn.stages)
    (hin : ∀ l, l < 96 → c.active.getLsbD l = true → off l % n = 0 ∧ off l + n ≤ kn.slot) (hx : k.queues[q.toNat]? = some x)
    (f : Skein → Kernel → WeftQueue → Out) : c.queueAccess q n off f = f k kn x := by
  have haligned : ((lanesOf c.active).any fun i => off i % n != 0) = false := by
    rw [List.any_eq_false]
    intro l hl
    obtain ⟨h96, hact⟩ := mem_lanesOf.mp hl
    simp [(hin l h96 hact).1]
  have hslot : ((lanesOf c.active).any fun i => decide (kn.slot < off i + n)) = false := by
    rw [List.any_eq_false]
    intro l hl
    obtain ⟨h96, hact⟩ := mem_lanesOf.mp hl
    simpa using (hin l h96 hact).2
  have hget : k.queues.getD q.toNat { pushed := 0, committed := [], popped := 0, emptied := [] } = x := by
    rw [List.getD_eq_getElem?_getD, hx]
    rfl
  unfold Cx.queueAccess
  rw [hk, hn]
  simp only [if_neg (Nat.not_le.mpr hq), haligned, hslot, hget, Bool.false_eq_true, if_false]

theorem pairsEqual_iff {α : Type} [DecidableEq α] (m : Mask) (f : Nat → α) :
    pairsEqual m f = true ↔
      ∀ l, l < 48 → m.getLsbD l = m.getLsbD (l + 48) ∧ (m.getLsbD l = true → f l = f (l + 48)) := by
  simp only [pairsEqual, List.all_eq_true, List.mem_range, Bool.and_eq_true, beq_iff_eq, Bool.or_eq_true, Bool.not_eq_true',
    decide_eq_true_eq]
  refine forall₂_congr fun l _ => and_congr_right fun _ => ?_
  cases m.getLsbD l <;> simp

/-- The split having slot `slot` of its skein's queue q open for pushing, the queue now being x. -/
def Cx.pushes (c : Cx) (q slot : Nat) (x : WeftQueue) : Cx :=
  { c with s := putQueue c.s c.skKey q x, w := { c.w with openPush := Tab.put c.w.openPush q slot } }

/-- The same for popping. -/
def Cx.pops (c : Cx) (q slot : Nat) (x : WeftQueue) : Cx :=
  { c with s := putQueue c.s c.skKey q x, w := { c.w with openPop := Tab.put c.w.openPop q slot } }

/-- The data of a push written at `base` in its skein's window. -/
def Cx.storesAt (c : Cx) (size base : Nat) (off : Nat → Nat) (data : Nat → BitVec 128) (lanes : List Nat) : Cx :=
  { c with s := storeScratch c.s c.skKey size (fun i => base + off i) data lanes, w := c.w.addUnack lanes.length }

/-- A stalled split stands at its word, with the context's state and warp. -/
theorem Cx.stall_stands (c : Cx) (why : Stall) : ∃ t, c.stall why = .next t ∧ t.focus = .none ∧ t.skeins = c.s.skeins ∧
    ∃ v, cxOf t c.wk c.e = some v ∧ v.sp.status = .stalled ∧ v.w.openPush = c.w.openPush ∧ v.w.openPop = c.w.openPop :=
  ⟨_, rfl, rfl, rfl, _, cxOf_unfocus_commit { c with sp := { c.sp with status := .stalled, stall := why } }, rfl, rfl, rfl⟩

section
variable {s : State} {c : Cx} {d a : BitVec 7} {m w : BitVec 1} {q : BitVec 3} {k : Skein} {kn : Kernel} {x : WeftQueue}

/-- The bytes a lane of a queue form moves. -/
def queueSize (w : BitVec 1) : Nat := if w = 1 then 16 else 4

/-- The offsets of the active lanes are aligned and inside a slot (R38). -/
def queueInside (c : Cx) (a : BitVec 7) (w : BitVec 1) (kn : Kernel) : Prop :=
  ∀ l, l < 96 → c.active.getLsbD l = true →
    (c.lane a.toNat l).toNat % queueSize w = 0 ∧ (c.lane a.toNat l).toNat + queueSize w ≤ kn.slot

theorem stlQ_of_inside (hr : Ready (.stlQ d a m w q) s c) (hk : skOf s c.w = some k) (hn : kernelOf s c.w = some kn)
    (hq : q.toNat + 1 < kn.stages) (hx : k.queues[q.toNat]? = some x)
    (hin : queueInside c a w kn) :
    let off l := (c.lane a.toNat l).toNat
    let data := c.dataOf d.toNat (if w = 1 then 4 else 1)
    let slot := (Tab.get? c.w.openPush q.toNat).getD x.pushed
    let x1 := if (Tab.get? c.w.openPush q.toNat).isNone then x.take else x
    let c1 := (c.settle (.stlQ d a m w q)).pushes q.toNat slot x1
    let lanes := storeLanes (isShadow s c.w) c.active
    let stored (e : Cx) := e.storesAt (queueSize w) (slotAddr kn q.toNat slot) off data lanes
    exec (.stlQ d a m w q) s =
      if isShadow s c.w && !(pairsEqual c.active fun i => (off i, data i)) then (c.settle (.stlQ d a m w q)).trapAt 0x10
      else if !x1.free slot then c1.stall .other
      else if m = 1 then
        c1.releasing 1 fun e =>
          let e2 := stored { e with s := putQueue e.s e.skKey q.toNat (x1.commit slot) }
          Cx.done { e2 with w := { e2.w with openPush := Tab.del e2.w.openPush q.toNat } }
      else (stored c1).done := by
  obtain rfl := (executing_focus hr.1).2.2
  show execStlQ d a m w q c.s = _
  unfold execStlQ
  rw [issueSplit_of_ready hr]
  exact Cx.queueAccess_of_inside (c := c.settle _) hk hn hq hin hx _

/-- In a shadow launch the pairs of the active lanes agree on offset and data. -/
def pairsAgree (s : State) (c : Cx) (off data : Nat → Nat) : Prop :=
  isShadow s c.w = true → ∀ l, l < 48 → c.active.getLsbD l = c.active.getLsbD (l + 48) ∧
    (c.active.getLsbD l = true → off l = off (l + 48) ∧ data l = data (l + 48))

theorem pairsAgree_iff {data : Nat → BitVec 128} {off : Nat → Nat} :
    pairsAgree s c off (fun l => (data l).toNat) ↔
      (isShadow s c.w && !(pairsEqual c.active fun i => (off i, data i))) = false := by
  cases hs : isShadow s c.w
  · simp [pairsAgree, hs]
  · simp [pairsAgree, hs, pairsEqual_iff, BitVec.toNat_inj]

/-- What the lanes of a push write: no byte outside their own, and of each byte the highest lane's. -/
theorem byte_storeLanes_of_pairsAgree {m : Mem} (hwf : Mem.wf m = true) {off : Nat → Nat} {data : Nat → BitVec 128} (base size : Nat)
    (hagree : pairsAgree s c off fun l => (data l).toNat) :
    let m' := Mem.storeLanes m size (fun i => base + off i) data (storeLanes (isShadow s c.w) c.active)
    (∀ b, (∀ l, l < 96 → c.active.getLsbD l = true → b < base + off l ∨ base + off l + size ≤ b) → Mem.byte m' b = Mem.byte m b) ∧
    (∀ l j, l < 96 → c.active.getLsbD l = true → j < size →
      (∀ v, l < v → v < 96 → c.active.getLsbD v = true → off l + j < off v ∨ off v + size ≤ off l + j) →
      Mem.byte m' (base + off l + j) = BitVec.ofNat 8 ((data l).toNat / 2 ^ (8 * j))) := by
  intro m'
  refine ⟨fun b hb => Mem.byte_storeLanes_of_outside hwf fun l hl => ?_, fun l j hl hact hj hlast => ?_⟩
  · obtain ⟨h96, hact, -⟩ := mem_storeLanes.mp hl
    exact hb l h96 hact
  · by_cases hlow : isShadow s c.w = true → l < 48
    · refine Mem.byte_storeLanes_of_last (addr := fun i => base + off i) hwf (storeLanes_ascending _ _)
        (mem_storeLanes.mpr ⟨hl, hact, hlow⟩) hj fun v hv hlt => ?_
      obtain ⟨h96, hv, -⟩ := mem_storeLanes.mp hv
      have := hlast v hlt h96 hv
      omega
    · obtain ⟨hs, hge⟩ := Classical.not_imp.mp hlow
      obtain ⟨u, rfl⟩ := Nat.exists_eq_add_of_le' (Nat.not_lt.mp hge)
      have hpair (v : Nat) (hv : v < 48) (h : c.active.getLsbD (v + 48) = true) :
          c.active.getLsbD v = true ∧ off v = off (v + 48) ∧ (data v).toNat = (data (v + 48)).toNat := by
        obtain ⟨hbit, heq⟩ := hagree hs v hv
        exact ⟨hbit.trans h, heq (hbit.trans h)⟩
      obtain ⟨hu, hoff, hdata⟩ := hpair u (by omega) hact
      rw [← hoff, ← hdata]
      refine Mem.byte_storeLanes_of_last (addr := fun i => base + off i) hwf (storeLanes_ascending _ _)
        (mem_storeLanes.mpr ⟨by omega, hu, fun _ => by omega⟩) hj fun v hv hlt => ?_
      obtain ⟨-, hv, hv48⟩ := mem_storeLanes.mp hv
      obtain ⟨hbit, heq⟩ := hagree hs v (hv48 hs)
      have hoffv := (heq hv).1
      have := hlast (v + 48) (by omega) (by have := hv48 hs; omega) (hbit.symm.trans hv)
      omega

theorem getElem?_setAt_self {α : Type} {l : List α} {i : Nat} {x : α} (h : l[i]? = some x) (v : α) : (setAt l i v)[i]? = some v := by
  obtain ⟨hi, -⟩ := List.getElem?_eq_some_iff.mp h
  simp [setAt, hi]

end

end Sys2Proof.Machine

namespace Sys2Proof.Machine

open Sys2Proof.Claims

/-! ### The words of a local load (R193, R195) -/

theorem leNat_append (xs ys : List Byte) : leNat (xs ++ ys) = leNat xs + 256 ^ xs.length * leNat ys := by
  induction xs with
  | nil => simp [leNat]
  | cons b rest ih =>
    rw [List.cons_append, leNat, leNat, ih, List.length_cons, Nat.pow_succ]
    ring

theorem Mem.le_add (m : Mem) (a n k : Nat) : Mem.le m a (n + k) = Mem.le m a n + 256 ^ n * Mem.le m (a + n) k := by
  have hbytes : Mem.bytes m a (n + k) = Mem.bytes m a n ++ Mem.bytes m (a + n) k := by
    simp [Mem.bytes, List.range_add, List.map_append, Function.comp_def, Nat.add_assoc]
  rw [Mem.le, Mem.le, Mem.le, hbytes, leNat_append]
  simp [Mem.bytes]

/-- The words of the bytes loaded are the words at their places. -/
theorem valWord_le (m : Mem) (a n j : Nat) (hn : n ≤ 16) (hj : j < n / 4) :
    valWord (BitVec.ofNat 128 (Mem.le m a n)) j = BitVec.ofNat 32 (Mem.le m (a + 4 * j) 4) := by
  obtain ⟨r, hr⟩ : ∃ r, n = 4 * j + (4 + r) := ⟨n - 4 * j - 4, by omega⟩
  have hlow := Mem.le_lt_pow m a (4 * j)
  have hword := Mem.le_lt_pow m (a + 4 * j) 4
  have hall : Mem.le m a n < 2 ^ 128 :=
    Nat.lt_of_lt_of_le (Mem.le_lt_pow m a n) (Nat.pow_le_pow_right (by decide) (by omega))
  rw [two_pow_eight_mul] at hlow hword
  have hcut : Mem.le m a n / 256 ^ (4 * j) = Mem.le m (a + 4 * j) 4 + 256 ^ 4 * Mem.le m (a + 4 * j + 4) r := by
    rw [hr, Mem.le_add, Mem.le_add, Nat.add_mul_div_left _ _ (Nat.pow_pos (by decide)), Nat.div_eq_of_lt hlow, Nat.zero_add]
  apply BitVec.eq_of_toNat_eq
  rw [valWord, BitVec.extractLsb'_toNat, BitVec.toNat_ofNat, BitVec.toNat_ofNat, Nat.mod_eq_of_lt hall, Nat.shiftRight_eq_div_pow,
    show 32 * j = 8 * (4 * j) by omega, two_pow_eight_mul, hcut]
  show _ % 256 ^ 4 = _ % 256 ^ 4
  rw [Nat.add_mul_mod_self_left]

theorem getElem?_foldl_setAt {α : Type} (g : Nat → α) (lanes : List Nat) (row : List α) {l : Nat} (hl : l < row.length) :
    (lanes.foldl (fun row i => setAt row i (g i)) row)[l]? = if l ∈ lanes then some (g l) else row[l]? := by
  induction lanes generalizing row with
  | nil => simp
  | cons x rest ih =>
    rw [List.foldl_cons, ih _ (by simpa [setAt] using hl)]
    by_cases hx : x = l
    · subst hx
      simp [setAt, hl]
    · simp [setAt, List.getElem?_set_ne hx, Ne.symm hx]

/-- The words a local load brings to its active lanes. -/
theorem rowsOf_scratchVals (k : Skein) (n count : Nat) (addr : Nat → Nat) (lanes : List Nat) {j l : Nat} (hj : j < count) (hl : l < 96)
    (hmem : l ∈ lanes) :
    (((rowsOf count (scratchVals k n addr lanes)).getD j []).getD l none).map (fun v => v.1) =
      some (valWord (BitVec.ofNat 128 (Mem.le k.scratch (addr l) n)) j) := by
  have hrow : (rowsOf count (scratchVals k n addr lanes)).getD j [] = lanes.foldl (fun row i => setAt row i
      (some (valWord (BitVec.ofNat 128 (Mem.le k.scratch (addr i) n)) j, touchesPoison 8 k.scratchPoison (addr i) n)))
      (List.replicate 96 none) := by
    simp [rowsOf, scratchVals, List.getD_eq_getElem?_getD, hj, List.foldl_map]
  rw [hrow, List.getD_eq_getElem?_getD, getElem?_foldl_setAt _ _ _ (by simpa using hl), if_pos hmem]
  rfl

theorem Cx.newPend_last (c : Cx) (opcode look : Nat) (d : Dest) (rows : List (List (Option (Word × Bool)))) (held : Mask) (open_ : Bool) :
    ∃ p, (c.newPend opcode look d rows held open_).1.sp.pend.getLast? = some p ∧ p.dest = d ∧ p.window = c.window look ∧ p.rows = rows :=
  ⟨_, List.getLast?_concat, rfl, rfl, rfl⟩

theorem Cx.settleEmpty_last {c : Cx} {p : Pend} (id : Nat) (h : c.sp.pend.getLast? = some p) :
    ∃ p', (c.settleEmpty id).sp.pend.getLast? = some p' ∧ p'.dest = p.dest ∧ p'.window = p.window ∧ p'.rows = p.rows := by
  refine ⟨if p.id = id then { p with arrived := true, done := true } else p, ?_, ?_⟩
  · rw [Cx.settleEmpty, List.getLast?_map, h]
    rfl
  · split <;> exact ⟨rfl, rfl, rfl⟩

/-- A local load adds its result to those outstanding, and nothing else. -/
theorem Cx.scratchLoad_adds (c : Cx) (opcode look : Nat) (d : Dest) (vals : List LaneVal) :
    ∃ ps p, c.scratchLoad opcode look d vals =
        { c with w := { c.w with nextPend := c.w.nextPend + 1 }, sp := { c.sp with pend := ps } } ∧
      ps.getLast? = some p ∧ p.dest = d ∧ p.window = c.window look ∧ p.rows = rowsOf d.count vals := by
  obtain ⟨p, hlast, hd, hw, hrows⟩ := c.newPend_last opcode look d (rowsOf d.count vals) 0 false
  unfold Cx.scratchLoad
  split
  · obtain ⟨p', hlast', hd', hw', hrows'⟩ := Cx.settleEmpty_last (c.newPend opcode look d (rowsOf d.count vals) 0 false).2 hlast
    exact ⟨_, p', rfl, hlast', hd'.trans hd, hw'.trans hw, hrows'.trans hrows⟩
  · exact ⟨_, p, rfl, hlast, hd, hw, hrows⟩

end Sys2Proof.Machine

namespace Sys2Proof.Machine

open Sys2Proof.Claims

section
variable {s : State} {c : Cx} {d a : BitVec 7} {m w : BitVec 1} {q : BitVec 3} {k : Skein} {kn : Kernel} {x : WeftQueue}

/-- The data of a push, as the numbers the statement compares. -/
theorem dataOf_queue (c : Cx) (d : Nat) (w : BitVec 1) :
    (fun l => (c.dataOf d (if w = 1 then 4 else 1) l).toNat) = fun l => groupOf c d ((if w = 1 then 16 else 4) / 4) l := by
  funext l
  by_cases hw : w = 1
  · rw [if_pos hw, if_pos hw]
    exact c.dataOf_toNat d l (by decide)
  · rw [if_neg hw, if_neg hw]
    exact c.dataOf_toNat d l (by decide)

/-- The queue once a push has its slot: one more taken where none was open. -/
def WeftQueue.pushFor (x : WeftQueue) (opened : Option Nat) : WeftQueue :=
  { x with pushed := if opened = none then x.pushed + 1 else x.pushed }

/-- The same for a pop. -/
def WeftQueue.popFor (x : WeftQueue) (opened : Option Nat) : WeftQueue :=
  { x with popped := if opened = none then x.popped + 1 else x.popped }

theorem WeftQueue.pushFor_eq (x : WeftQueue) (o : Option Nat) : (if o.isNone then x.take else x) = x.pushFor o := by
  cases o <;> rfl

theorem WeftQueue.popFor_eq (x : WeftQueue) (o : Option Nat) :
    (if o.isNone then { x with popped := x.popped + 1 } else x) = x.popFor o := by
  cases o <;> rfl

theorem Keeps.refl_none (c : Cx) : Keeps Writes.none c c :=
  ⟨Eq.refl _, Eq.refl _, Eq.refl _, Eq.refl _, Eq.refl _, fun _ _ _ => Eq.refl _, fun _ _ _ _ => Eq.refl _, fun _ _ _ _ => Eq.refl _, Eq.refl _, Eq.refl _, fun _ => Eq.refl _⟩

theorem keeps_of_fields {c e : Cx} (hs : e.s = c.s) (hwk : e.wk = c.wk) (hw : e.w = c.w) (he : e.e = c.e) (hsp : e.sp = c.sp) :
    Keeps Writes.none c e := by
  rw [show e = c from (Cx.mk.injEq _ _ _ _ _ _ _ _ _ _).mpr ⟨hs, hwk, hw, he, hsp⟩]
  exact Keeps.refl_none c

theorem keeps_of_openPush {c e : Cx} (hwk : e.wk = c.wk) (he : e.e = c.e)
    (hw : { e.w with nextPend := c.w.nextPend, unack := c.w.unack, openPush := c.w.openPush } = c.w)
    (hsp : { e.sp with pend := c.sp.pend, faults := c.sp.faults } = c.sp) :
    Keeps Writes.none c { likeBefore c e with w := { (likeBefore c e).w with openPush := c.w.openPush } } :=
  keeps_of_fields rfl hwk hw he hsp

theorem keeps_of_openPop {c e : Cx} (hwk : e.wk = c.wk) (he : e.e = c.e)
    (hw : { e.w with nextPend := c.w.nextPend, unack := c.w.unack, openPop := c.w.openPop } = c.w)
    (hsp : { e.sp with pend := c.sp.pend, faults := c.sp.faults } = c.sp) :
    Keeps Writes.none c { likeBefore c e with w := { (likeBefore c e).w with openPop := c.w.openPop } } :=
  keeps_of_fields rfl hwk hw he hsp

/-- What a push leaves of its skein: the queue with the slot taken, and committed where told to, and the bytes written. -/
theorem stlQ_completes (hr : Ready (.stlQ d a m w q) s c) (hs : skOf s c.w = some k) (hn : kernelOf s c.w = some kn)
    (hk : Tab.get? s.skeins c.skKey = some k)
    (hq : q.toNat + 1 < kn.stages) (hx : k.queues[q.toNat]? = some x)
    (hin : queueInside c a w kn)
    (hagree : pairsAgree s c (fun l => (c.lane a.toNat l).toNat) fun l => (c.dataOf d.toNat (if w = 1 then 4 else 1) l).toNat)
    (hunack : m = 1 → c.w.unack.getD 1 0 = 0)
    (hfree : x.free ((Tab.get? c.w.openPush q.toNat).getD x.pushed) = true) :
    let slot := (Tab.get? c.w.openPush q.toNat).getD x.pushed
    ∃ e k' y, Completes (.stlQ d a m w q) s e ∧ skeinChanged s e.s c.skKey k' ∧ k'.queues[q.toNat]? = some y ∧
      y.pushed = (if Tab.get? c.w.openPush q.toNat = none then x.pushed + 1 else x.pushed) ∧
      y.committed = (if m = 1 then x.committed ++ [slot] else x.committed) ∧ y.popped = x.popped ∧
      Tab.get? e.w.openPush q.toNat = (if m = 1 then none else some slot) ∧
      Keeps Writes.none c { likeBefore c e with w := { (likeBefore c e).w with openPush := c.w.openPush } } ∧
      k'.scratch = Mem.storeLanes k.scratch (queueSize w) (fun i => slotAddr kn q.toNat slot + (c.lane a.toNat i).toNat)
        (c.dataOf d.toNat (if w = 1 then 4 else 1)) (storeLanes (isShadow s c.w) c.active) := by
  intro slot
  have heq := stlQ_of_inside hr hs hn hq hx hin
  obtain rfl := (executing_focus hr.1).2.2
  have hagree := pairsAgree_iff.mp hagree
  simp only [WeftQueue.pushFor_eq] at heq
  have hfree' : (!(x.pushFor (Tab.get? c.w.openPush q.toNat)).free slot) = false := by
    rw [Bool.not_eq_false']
    exact hfree
  rw [hagree, show (Tab.get? c.w.openPush q.toNat).getD x.pushed = slot from rfl, hfree'] at heq
  simp only [Bool.false_eq_true, if_false] at heq
  have hopened := skeinChanged_putQueue (skeinChanged_refl hk) q.toNat (x.pushFor (Tab.get? c.w.openPush q.toNat))
  have hy := getElem?_setAt_self hx (x.pushFor (Tab.get? c.w.openPush q.toNat))
  by_cases hm : m = 1
  · rw [if_pos hm] at heq
    have heq := heq.trans (Cx.releasing_of_acknowledged (by exact hunack hm) _)
    obtain ⟨k', hk', hqs, hscr⟩ := skeinChanged_storeScratch (skeinChanged_putQueue hopened q.toNat (WeftQueue.commit _ slot))
      (queueSize w) (fun i => slotAddr kn q.toNat slot + (c.lane a.toNat i).toNat) (c.dataOf d.toNat (if w = 1 then 4 else 1))
      (storeLanes (isShadow c.s c.w) c.active)
    refine ⟨_, k', _, Completes.of_done heq, hk', (congrArg (fun l => l[q.toNat]?) hqs).trans (getElem?_setAt_self hy _), rfl, ?_, rfl, ?_,
      keeps_of_openPush rfl rfl rfl rfl, hscr⟩
    · rw [if_pos hm]
      rfl
    · rw [if_pos hm]
      exact (Tab.get?_del _ _ _).trans (if_pos rfl)
  · rw [if_neg hm] at heq
    obtain ⟨k', hk', hqs, hscr⟩ := skeinChanged_storeScratch hopened
      (queueSize w) (fun i => slotAddr kn q.toNat slot + (c.lane a.toNat i).toNat) (c.dataOf d.toNat (if w = 1 then 4 else 1))
      (storeLanes (isShadow c.s c.w) c.active)
    refine ⟨_, k', _, Completes.of_done heq, hk', (congrArg (fun l => l[q.toNat]?) hqs).trans hy, rfl, ?_, rfl, ?_,
      keeps_of_openPush rfl rfl rfl rfl, hscr⟩
    · rw [if_neg hm]
      rfl
    · rw [if_neg hm]
      exact Tab.get?_put_self _ _ _

theorem ldlQ_of_inside {l : BitVec 4} (hr : Ready (.ldlQ d a m w q l) s c) (hk : skOf s c.w = some k) (hn : kernelOf s c.w = some kn)
    (hq : q.toNat + 1 < kn.stages) (hx : k.queues[q.toNat]? = some x)
    (hin : queueInside c a w kn) :
    let slot := (Tab.get? c.w.openPop q.toNat).getD x.popped
    let x1 := if (Tab.get? c.w.openPop q.toNat).isNone then { x with popped := x.popped + 1 } else x
    let c1 := (c.settle (.ldlQ d a m w q l)).pops q.toNat slot x1
    let freed : Cx := { c1 with
      s := putQueue c1.s c.skKey q.toNat (x1.clear slot)
      w := { c1.w with openPop := Tab.del c1.w.openPop q.toNat } }
    exec (.ldlQ d a m w q l) s =
      if !x.committed.contains slot then c1.stall .other
      else ((if m = 1 then freed else c1).scratchLoad 0xAB l.toNat
        { vector := true, base := d.toNat, count := if w = 1 then 4 else 1 }
        (scratchVals k (queueSize w) (fun i => slotAddr kn q.toNat slot + (c.lane a.toNat i).toNat) (lanesOf c.active))).done := by
  obtain rfl := (executing_focus hr.1).2.2
  show execLdlQ d a m w q l c.s = _
  unfold execLdlQ
  rw [issueSplit_of_ready hr]
  exact Cx.queueAccess_of_inside (c := c.settle _) hk hn hq hin hx _

theorem ldlQ_completes {l : BitVec 4} (hr : Ready (.ldlQ d a m w q l) s c) (hs : skOf s c.w = some k) (hn : kernelOf s c.w = some kn)
    (hk : Tab.get? s.skeins c.skKey = some k) (hq : q.toNat + 1 < kn.stages) (hx : k.queues[q.toNat]? = some x)
    (hin : queueInside c a w kn)
    (hcom : x.committed.contains ((Tab.get? c.w.openPop q.toNat).getD x.popped) = true) :
    let slot := (Tab.get? c.w.openPop q.toNat).getD x.popped
    ∃ e p y k', Completes (.ldlQ d a m w q l) s e ∧ skeinChanged s e.s c.skKey k' ∧ k'.queues[q.toNat]? = some y ∧
      k'.scratch = k.scratch ∧ y.popped = (if Tab.get? c.w.openPop q.toNat = none then x.popped + 1 else x.popped) ∧
      y.emptied = (if m = 1 then x.emptied ++ [slot] else x.emptied) ∧
      Tab.get? e.w.openPop q.toNat = (if m = 1 then none else some slot) ∧
      Keeps Writes.none c { likeBefore c e with w := { (likeBefore c e).w with openPop := c.w.openPop } } ∧
      e.sp.pend.getLast? = some p ∧ p.dest = ⟨true, d.toNat, if w = 1 then 4 else 1⟩ ∧ p.window = c.window l.toNat ∧
      p.rows = rowsOf (if w = 1 then 4 else 1) (scratchVals k (queueSize w)
        (fun i => slotAddr kn q.toNat slot + (c.lane a.toNat i).toNat) (lanesOf c.active)) := by
  intro slot
  have heq := ldlQ_of_inside hr hs hn hq hx hin
  obtain rfl := (executing_focus hr.1).2.2
  simp only [WeftQueue.popFor_eq, hcom, Bool.not_true, Bool.false_eq_true, if_false] at heq
  have hopened := skeinChanged_putQueue (skeinChanged_refl hk) q.toNat (x.popFor (Tab.get? c.w.openPop q.toNat))
  have hy := getElem?_setAt_self hx (x.popFor (Tab.get? c.w.openPop q.toNat))
  by_cases hm : m = 1
  · rw [if_pos hm] at heq
    obtain ⟨ps, p, hload, hlast, hd, hwin, hrows⟩ := Cx.scratchLoad_adds _ _ _ _ _
    rw [hload] at heq
    refine ⟨_, p, _, _, Completes.of_done heq, skeinChanged_putQueue hopened q.toNat (WeftQueue.clear _ slot), getElem?_setAt_self hy _, rfl, rfl,
      ?_, ?_, keeps_of_openPop rfl rfl rfl rfl, hlast, hd, hwin, hrows⟩
    · rw [if_pos hm]
      rfl
    · rw [if_pos hm]
      exact (Tab.get?_del _ _ _).trans (if_pos rfl)
  · rw [if_neg hm] at heq
    obtain ⟨ps, p, hload, hlast, hd, hwin, hrows⟩ := Cx.scratchLoad_adds _ _ _ _ _
    rw [hload] at heq
    refine ⟨_, p, _, _, Completes.of_done heq, hopened, hy, rfl, rfl,
      ?_, ?_, keeps_of_openPop rfl rfl rfl rfl, hlast, hd, hwin, hrows⟩
    · rw [if_neg hm]
      rfl
    · rw [if_neg hm]
      exact Tab.get?_put_self _ _ _

end

end Sys2Proof.Machine

namespace Sys2Proof.Machine

open Sys2Proof.Claims

section
variable {s : State} {c : Cx} {d a : BitVec 7} {m w : BitVec 1} {q : BitVec 3} {k : Skein} {kn : Kernel} {x : WeftQueue}

/-- A queue that the launch does not have (R40). -/
theorem queueForm_missing {i : Instr} (hs : skOf s c.w = some k) (hn : kernelOf s c.w = some kn) (h : kn.stages ≤ q.toNat + 1)
    (hi : i = .stlQ d a m w q ∨ ∃ l, i = .ldlQ d a m w q l) (hr : Ready i s c) : exec i s = (c.settle i).trapAt 0x04 := by
  obtain rfl := (executing_focus hr.1).2.2
  rcases hi with rfl | ⟨l, rfl⟩
  · show execStlQ d a m w q c.s = _
    unfold execStlQ
    rw [issueSplit_of_ready hr]
    exact Cx.queueAccess_of_missing (c := c.settle _) hs hn h _
  · show execLdlQ d a m w q l c.s = _
    unfold execLdlQ
    rw [issueSplit_of_ready hr]
    exact Cx.queueAccess_of_missing (c := c.settle _) hs hn h _

theorem stlQ_mismatch (hr : Ready (.stlQ d a m w q) s c) (hs : skOf s c.w = some k) (hn : kernelOf s c.w = some kn)
    (hq : q.toNat + 1 < kn.stages) (hx : k.queues[q.toNat]? = some x) (hin : queueInside c a w kn)
    (hno : ¬pairsAgree s c (fun l => (c.lane a.toNat l).toNat) fun l => (c.dataOf d.toNat (if w = 1 then 4 else 1) l).toNat) :
    exec (.stlQ d a m w q) s = (c.settle (.stlQ d a m w q)).trapAt 0x10 :=
  (stlQ_of_inside hr hs hn hq hx hin).trans (if_pos (by rwa [pairsAgree_iff, Bool.not_eq_false] at hno))

theorem stlQ_stalls (hr : Ready (.stlQ d a m w q) s c) (hs : skOf s c.w = some k) (hn : kernelOf s c.w = some kn)
    (hk : Tab.get? s.skeins c.skKey = some k) (hq : q.toNat + 1 < kn.stages) (hx : k.queues[q.toNat]? = some x)
    (hin : queueInside c a w kn)
    (hagree : pairsAgree s c (fun l => (c.lane a.toNat l).toNat) fun l => (c.dataOf d.toNat (if w = 1 then 4 else 1) l).toNat)
    (hfull : x.free ((Tab.get? c.w.openPush q.toNat).getD x.pushed) = false) :
    ∃ t k', exec (.stlQ d a m w q) s = .next t ∧ t.focus = .none ∧ Tab.get? t.skeins c.skKey = some k' ∧ k'.scratch = k.scratch ∧
      k'.queues[q.toNat]? = some (x.pushFor (Tab.get? c.w.openPush q.toNat)) ∧
      ∃ v, cxOf t c.wk c.e = some v ∧ v.sp.status = .stalled ∧
        Tab.get? v.w.openPush q.toNat = some ((Tab.get? c.w.openPush q.toNat).getD x.pushed) := by
  have heq := stlQ_of_inside hr hs hn hq hx hin
  obtain rfl := (executing_focus hr.1).2.2
  simp only [WeftQueue.pushFor_eq] at heq
  have hfull' : (!(x.pushFor (Tab.get? c.w.openPush q.toNat)).free ((Tab.get? c.w.openPush q.toNat).getD x.pushed)) = true := by
    rw [Bool.not_eq_true']
    exact hfull
  rw [pairsAgree_iff.mp hagree, hfull'] at heq
  simp only [Bool.false_eq_true, if_false, if_true] at heq
  obtain ⟨t, ht, hfocus, hskeins, v, hv, hstatus, hpush, -⟩ := Cx.stall_stands ((c.settle (.stlQ d a m w q)).pushes q.toNat
    ((Tab.get? c.w.openPush q.toNat).getD x.pushed) (x.pushFor (Tab.get? c.w.openPush q.toNat))) .other
  obtain ⟨-, hkept, -⟩ := skeinChanged_putQueue (skeinChanged_refl hk) q.toNat (x.pushFor (Tab.get? c.w.openPush q.toNat))
  refine ⟨t, { k with queues := setAt k.queues q.toNat (x.pushFor (Tab.get? c.w.openPush q.toNat)) }, heq.trans ht, hfocus, ?_, rfl, getElem?_setAt_self hx _, v, hv, hstatus, ?_⟩
  · rw [hskeins]
    exact hkept
  · rw [hpush]
    exact Tab.get?_put_self _ _ _

theorem ldlQ_stalls {l : BitVec 4} (hr : Ready (.ldlQ d a m w q l) s c) (hs : skOf s c.w = some k) (hn : kernelOf s c.w = some kn)
    (hq : q.toNat + 1 < kn.stages) (hx : k.queues[q.toNat]? = some x) (hin : queueInside c a w kn)
    (hempty : x.committed.contains ((Tab.get? c.w.openPop q.toNat).getD x.popped) = false) :
    ∃ t, exec (.ldlQ d a m w q l) s = .next t ∧ t.focus = .none ∧ ∃ v, cxOf t c.wk c.e = some v ∧ v.sp.status = .stalled ∧
      Tab.get? v.w.openPop q.toNat = some ((Tab.get? c.w.openPop q.toNat).getD x.popped) := by
  have heq := ldlQ_of_inside hr hs hn hq hx hin
  simp only [hempty, Bool.not_false, if_true] at heq
  obtain ⟨t, ht, hfocus, -, v, hv, hstatus, -, hpop⟩ := Cx.stall_stands ((c.settle (.ldlQ d a m w q l)).pops q.toNat
    ((Tab.get? c.w.openPop q.toNat).getD x.popped)
    (if (Tab.get? c.w.openPop q.toNat).isNone then { x with popped := x.popped + 1 } else x)) .other
  refine ⟨t, heq.trans ht, hfocus, v, hv, hstatus, ?_⟩
  rw [hpop]
  exact Tab.get?_put_self _ _ _

end

theorem queueSize_div (w : BitVec 1) : (if w = 1 then 16 else 4) / 4 = if w = 1 then 4 else 1 := by
  split <;> rfl

/-- Settles O34: a push and a pop each find, keep or wait for their slot; the bytes of a push are those of its lanes written in
ascending order, the words of a pop those of the window. -/
theorem weftQueues : Obligations.WeftQueues := by
  unfold Obligations.WeftQueues
  intro s c d a m w q k n x _ hs hn hk hwf size data off inside base agree
  have hdata : data = fun l => (c.dataOf d.toNat (if w = 1 then 4 else 1) l).toNat := (dataOf_queue c d.toNat w).symm
  have hagree : agree = pairsAgree s c off fun l => (c.dataOf d.toNat (if w = 1 then 4 else 1) l).toNat := by
    rw [← hdata]
    rfl
  have hcount : size / 4 = if w = 1 then 4 else 1 := queueSize_div w
  refine ⟨fun i hi hr hmiss => queueForm_missing hs hn hmiss hi hr, fun hq hin hx => ⟨fun hr hno => ?_, fun hr _ hag hun => ⟨?_, ?_⟩,
    fun l hr _ => ⟨?_, ?_⟩⟩⟩
  · exact stlQ_mismatch hr hs hn hq hx hin (hagree ▸ hno)
  · exact stlQ_stalls hr hs hn hk hq hx hin (hagree ▸ hag)
  · intro hfree
    obtain ⟨e, k', y, hcomp, hsk, hy, hpushed, hcommitted, hpopped, hopen, hkeeps, hscr⟩ :=
      stlQ_completes hr hs hn hk hq hx hin (hagree ▸ hag) hun hfree
    obtain ⟨hout, hlast⟩ := byte_storeLanes_of_pairsAgree hwf (slotAddr n q.toNat ((Tab.get? c.w.openPush q.toNat).getD x.pushed)) size
      (hagree ▸ hag)
    refine ⟨e, k', y, hcomp, hsk, hy, hpushed, hcommitted, hpopped, hopen, hkeeps, ?_, ?_⟩
    · rw [hscr]
      exact hout
    · rw [hscr, hdata]
      exact hlast
  · exact ldlQ_stalls hr hs hn hq hx hin
  · intro hcom
    obtain ⟨e, p, y, k', hcomp, hsk, hy, hscr, hpopped, hemptied, hopen, hkeeps, hlast, hd, hwin, hrows⟩ :=
      ldlQ_completes hr hs hn hk hq hx hin hcom
    refine ⟨e, p, y, k', hcomp, hsk, hy, hscr, hpopped, hemptied, hopen, hkeeps, hlast, hcount ▸ hd, hwin, fun j v hv hact hj => ?_⟩
    have hsize : size ≤ 16 := by
      show (if w = 1 then 16 else 4) ≤ 16
      split <;> decide
    rw [resultOf, hrows, rowsOf_scratchVals _ _ _ _ _ (hcount ▸ hj) hv (mem_lanesOf.mpr ⟨hv, hact⟩)]
    exact congrArg some (valWord_le _ _ size j hsize hj)

end Sys2Proof.Machine

namespace Sys2Proof.Machine

open Sys2Proof.Claims

/-! ### What a read of global memory leaves of workgroups, skeins and kernels (R182 to R190) -/

/-- What `kernelOf` looks up: the workgroups, the skeins and each launch's kernel. -/
def kernelsOf (s : State) : Tab Workgroup × Tab Skein × (Nat → Option Kernel) :=
  (s.wgs, s.skeins, fun l => (Tab.get? s.launches l).map Launch.kernel)

theorem kernelOf_eq (s : State) (w : Warp) : kernelOf s w =
    ((if w.far.isSome then none else Tab.get? (kernelsOf s).1 w.wg).bind fun g =>
      Tab.get? (kernelsOf s).2.1 g.skein).bind fun k => (kernelsOf s).2.2 k.launch := by
  simp only [kernelOf, lnOf, skOf, wgOf, kernelsOf, Option.map_bind, Function.comp_def]

theorem kernelOf_congr {s t : State} (h : kernelsOf t = kernelsOf s) (w : Warp) : kernelOf t w = kernelOf s w := by
  rw [kernelOf_eq, kernelOf_eq, h]

theorem isShadow_congr {s t : State} (h : kernelsOf t = kernelsOf s) (w : Warp) : isShadow t w = isShadow s w := by
  rw [isShadow, isShadow, kernelOf_congr h]

/-- A count of a launch changed leaves its kernel. -/
theorem kernelsOf_updLaunch {s t : State} {l : Nat} {f : Launch → Launch} (hw : t.wgs = s.wgs) (hk : t.skeins = s.skeins)
    (hl : t.launches = Tab.upd s.launches l f) (hf : ∀ x, (f x).kernel = x.kernel) : kernelsOf t = kernelsOf s := by
  have h (j : Nat) : (Tab.get? t.launches j).map Launch.kernel = (Tab.get? s.launches j).map Launch.kernel := by
    rw [hl, Tab.get?_upd]
    split
    · rw [Option.map_map]
      exact congrArg (fun g => Option.map g _) (funext hf)
    · rfl
  simp only [kernelsOf, hw, hk, h]

@[simp] theorem kernelsOf_writeLoc (s : State) (l : Loc) (bs : List Byte) (p : Bool) : kernelsOf (writeLoc s l bs p) = kernelsOf s := by
  cases l <;> rfl

theorem kernelsOf_of_tables {s t : State} (hw : t.wgs = s.wgs) (hk : t.skeins = s.skeins) (hl : t.launches = s.launches) :
    kernelsOf t = kernelsOf s := by
  simp only [kernelsOf, hw, hk, hl]

@[simp] theorem kernelsOf_reclassify (s : State) (asid va : Nat) (launch : Option Nat) :
    kernelsOf (reclassify s asid va launch) = kernelsOf s := by
  unfold reclassify
  split
  · split
    · dsimp only [baseClassS]
      split
      · next l => exact kernelsOf_updLaunch (l := l) (f := fun x => { x with
          reclass := if x.reclass = 0xFFFFFFFF then x.reclass else x.reclass + 1 }) rfl rfl rfl fun _ => rfl
      · exact kernelsOf_of_tables rfl rfl rfl
    · rfl
  · rfl
  · rfl

@[simp] theorem kernelsOf_classAccess (s : State) (p : Party) (va pa cls : Nat) (write : Bool) :
    kernelsOf (classAccess s p va pa cls write) = kernelsOf s := by
  unfold classAccess
  split
  · dsimp only
    split
    · rfl
    · split
      · rfl
      · exact kernelsOf_reclassify ..
    · exact kernelsOf_reclassify ..
  · split
    · exact kernelsOf_reclassify ..
    · rfl
  · rfl

@[simp] theorem kernelsOf_beforeAccess (s : State) (p : Party) (va : Nat) (l : Loc) (cls : Nat) (write : Bool) :
    kernelsOf (beforeAccess s p va l cls write) = kernelsOf s := by
  unfold beforeAccess
  split
  · exact kernelsOf_classAccess ..
  · rfl
  · rfl
  · rfl

@[simp] theorem kernelsOf_applyReq (s : State) (kind : MemKind) (l : Loc) (r : LaneReq) :
    kernelsOf (applyReq s kind l r).1 = kernelsOf s := by
  cases kind with
  | load => rfl
  | store => exact kernelsOf_writeLoc ..
  | rmw => exact kernelsOf_writeLoc ..

@[simp] theorem kernelsOf_performNear (s : State) (n : Nat) (x : NearOp) : kernelsOf (performNear s n x) = kernelsOf s :=
  kernelsOf_applyReq s x.kind (.hbm x.pa) x.req

@[simp] theorem kernelsOf_flushNear (s : State) (wk : Nat) (l : Loc) (n : Nat) : kernelsOf (flushNear s wk l n) = kernelsOf s := by
  cases l with
  | hbm pa =>
    exact foldl_keeps (P := fun t => kernelsOf t = kernelsOf s) (fun t x ht => (kernelsOf_performNear t x.1 x.2).trans ht) _ rfl
  | module => rfl
  | host => rfl

theorem kernelsOf_accessLane {s t : State} {p : Party} {wk n : Nat} {signed : Bool} {r : LaneReq} {v : BitVec 128} {b : Bool}
    (h : accessLane s p wk (.load n signed) r = .ok t v b) : kernelsOf t = kernelsOf s := by
  unfold accessLane at h
  dsimp only [MemKind.near] at h
  split at h
  · cases h
  · cases h
  · cases h
  · cases h
  · split at h
    · cases h
    · simp only [Bool.false_eq_true, if_false, Access.ok.injEq] at h
      rw [← h.1]
      simp

theorem kernelsOf_readGlobal {p : Party} {wk : Nat} {ps : List (DWord × Nat)} {s t : State} {bs : List Byte} {bad : List Bool}
    (h : readGlobal p wk s ps = .ok t bs bad) : kernelsOf t = kernelsOf s := by
  induction ps generalizing s t bs bad with
  | nil =>
    obtain ⟨rfl, -, -⟩ := Elem.ok.inj h
    rfl
  | cons q rest ih =>
    unfold readGlobal at h
    split at h
    · next s1 v b hread =>
      split at h
      · next s2 bs2 bad2 hrest =>
        obtain ⟨rfl, -, -⟩ := Elem.ok.inj h
        exact (ih hrest).trans (kernelsOf_accessLane hread)
      · next hno => exact (hno _ _ _ h).elim
    all_goals cases h

@[simp] theorem kernelsOf_lookAt (s : State) (asid : Nat) (a : DWord) : kernelsOf (lookAt s asid a) = kernelsOf s := by
  unfold lookAt
  split
  · exact kernelsOf_beforeAccess ..
  · rfl

@[simp] theorem kernelsOf_look (s : State) (asid : Nat) (a : DWord) (n : Nat) : kernelsOf (look s asid a n) = kernelsOf s := by
  unfold look
  dsimp only
  split <;> simp

@[simp] theorem kernelsOf_enqueue (s : State) (q : Nat) (x : Queue) (b d : List Byte) : kernelsOf (enqueue s q x b d) = kernelsOf s := by
  refine (kernelsOf_writeLoc _ _ _ _).trans (kernelsOf_writeLoc _ _ _ _)

/-! ### `racq` (R44, R173) -/

theorem Acts.of_done {i : Instr} {s t : State} {c : Cx} (h : exec i s = Cx.done { c.settle i with s := t }) (hs : c.shaped = true) :
    Acts i s c t Writes.none fun _ => True :=
  ⟨_, Completes.of_done h, rfl, trivial, hs, c.settle_keeps i⟩

theorem Acts.of_putScalar {i : Instr} {s t : State} {c : Cx} {n : Nat} {v : Word}
    (he : exec i s = Cx.scalarDone { c.settle i with s := t } (Cx.putScalar { c.settle i with s := t } n v)) (hn : n < 64)
    (hs : c.shaped = true) (hp : passes1 c n v) (ht : kernelsOf t = kernelsOf c.s) :
    Acts i s c t (writesScalars [n]) fun e => e.sp.scalar n = scalarAfter c n v := by
  have hclash : Cx.maskClash { c.settle i with s := t } (Cx.putScalar { c.settle i with s := t } n v) = false := by
    have hp : c.maskPasses (c.sp.setScalar n v false).act = true := hp
    refine Cx.maskClash_eq_false ?_
    rw [Cx.putScalar_act]
    rw [Split.setScalar_act, Cx.maskPasses, ← isShadow_congr ht] at hp
    exact hp
  have hl : n < (c.settle i).sp.scalars.length := by rw [Cx.shaped_scalars (c := c.settle i) hs]; exact hn
  refine ⟨Cx.putScalar { c.settle i with s := t } n v, ?_, rfl, ?_, ?_, ?_⟩
  · rw [Completes, he, Cx.scalarDone, hclash]
    rfl
  · exact (Cx.putScalar_scalar_self (c.settle i) n v hl).trans (scalarAfter_eq_landed c v hn).symm
  · rw [Cx.putScalar_shaped]
    exact hs
  · exact (c.settle_keeps i).after_nothing ((c.settle i).putScalar_keeps n v)

end Sys2Proof.Machine

namespace Sys2Proof.Machine

open Sys2Proof.Claims

theorem racq_of_full {s : State} {c : Cx} {k : Skein} (hs : c.shaped = true) (hr : Ready .racq s c) (hk : skOf s c.w = some k)
    (hf : k.full = true) : Does .racq s c Writes.none fun _ => True := by
  obtain rfl := (executing_focus hr.1).2.2
  have heq : exec .racq c.s = (c.settle .racq).done := by
    show execRacq c.s = _
    unfold execRacq
    rw [issueSplit_of_ready hr]
    simp only [Cx.settle_s, Cx.settle_w, hk, hf, if_true]
  exact ⟨_, Completes.of_done heq, c.settle_keeps _, hs, trivial⟩

theorem racq_granted_or_waits {s : State} {c : Cx} {k : Skein} (hs : c.shaped = true) (hr : Ready .racq s c)
    (hk : skOf s c.w = some k) (hf : k.full = false) :
    let t := grantRequests { s with skeins := Tab.put s.skeins c.skKey { k with requested := true } }
    let full := match Tab.get? t.skeins c.skKey with | some x => x.full | none => false
    (full = true → Acts .racq s c t Writes.none fun _ => True) ∧ (full = false → Stalls .racq s c t .other) := by
  intro t full
  obtain rfl := (executing_focus hr.1).2.2
  have heq : exec .racq c.s =
      if full then Cx.done { c.settle .racq with s := t } else Cx.stall { c.settle .racq with s := t } .other := by
    show execRacq c.s = _
    unfold execRacq
    rw [issueSplit_of_ready hr]
    simp only [Cx.settle_s, Cx.settle_w, hk]
    exact if_neg (by simp [hf])
  exact ⟨fun hg => Acts.of_done (heq.trans (if_pos hg)) hs, fun hg => heq.trans (if_neg (by rw [hg]; decide))⟩

/-! ### `launch` (R172, R269, R271) -/

section
variable {s : State} {c : Cx} {a b e : BitVec 6}

/-- An instruction that leaves the state t and gives the status v in scalar a. -/
def Gives (i : Instr) (s : State) (c : Cx) (t : State) (a : BitVec 6) (v : Nat) : Prop :=
  exec i s = Cx.scalarDone { c.settle i with s := t } (Cx.putScalar { c.settle i with s := t } a.toNat (BitVec.ofNat 32 v))

theorem Gives.acts {i : Instr} {t : State} {v : Nat} (h : Gives i s c t a v) (hs : c.shaped = true)
    (hp : passes1 c a.toNat (BitVec.ofNat 32 v)) (ht : kernelsOf t = kernelsOf c.s) :
    Acts i s c t (writesScalars [a.toNat]) fun e => e.sp.scalar a.toNat = scalarAfter c a.toNat (BitVec.ofNat 32 v) :=
  Acts.of_putScalar h a.isLt hs hp ht

theorem Gives.does {i : Instr} {v : Nat} (h : Gives i c.s c c.s a v) (hs : c.shaped = true)
    (hp : passes1 c a.toNat (BitVec.ofNat 32 v)) :
    Does i c.s c (writesScalars [a.toNat]) fun e => e.sp.scalar a.toNat = scalarAfter c a.toNat (BitVec.ofNat 32 v) :=
  Does.of_putScalar h a.isLt hs hp

/-- What makes a queue or a record's address unusable (R269), the queue standing as x. -/
def Unusable (c : Cx) (b e : BitVec 6) (x : Queue) : Prop :=
  Config.launchQueues ≤ (c.sp.scalar e.toNat).toNat ∨ x.hostFed = true ∨ x.asid ≠ asidOf c.s c.w ∨
    (pairOf c b.toNat).toNat % 128 ≠ 0

/-- A `launch` that does not wait for acknowledgements, outside a snapshot launch. -/
structure Launches (c : Cx) (a b e : BitVec 6) : Prop where
  ready : Ready (.launch a b e) c.s c
  acknowledged : c.w.unack.getD 2 0 = 0
  plain : isSnapshot c.s c.w = false

theorem launch_to_unbound (h : Launches c a b e) (hq : Tab.get? c.s.queues (c.sp.scalar e.toNat).toNat = none) :
    Gives (.launch a b e) c.s c c.s a 2 := by
  show execLaunch a b e c.s = _
  unfold execLaunch
  rw [issueSplit_of_ready h.ready, Cx.releasing_of_acknowledged (c := c.settle _) h.acknowledged]
  simp only [Cx.settle_s, Cx.settle_w, Cx.settle_scalar, h.plain, Bool.false_eq_true, if_false, hq]
  rfl

theorem launch_to_unusable {x : Queue} (h : Launches c a b e) (hq : Tab.get? c.s.queues (c.sp.scalar e.toNat).toNat = some x)
    (hx : Unusable c b e x) : Gives (.launch a b e) c.s c c.s a 2 := by
  show execLaunch a b e c.s = _
  unfold execLaunch
  rw [issueSplit_of_ready h.ready, Cx.releasing_of_acknowledged (c := c.settle _) h.acknowledged]
  simp only [Cx.settle_s, Cx.settle_w, Cx.settle_scalar, h.plain, Bool.false_eq_true, if_false, hq]
  exact if_pos hx

/-- A `launch` to a queue that it may use. -/
structure LaunchesTo (c : Cx) (a b e : BitVec 6) (x : Queue) : Prop extends Launches c a b e where
  bound : Tab.get? c.s.queues (c.sp.scalar e.toNat).toNat = some x
  usable : ¬Unusable c b e x

theorem launch_to_full {x : Queue} (h : LaunchesTo c a b e x) (hfull : dist32 (queueHead c.s x) (queueTail c.s x) = x.entries) :
    Gives (.launch a b e) c.s c c.s a 1 := by
  show execLaunch a b e c.s = _
  unfold execLaunch
  rw [issueSplit_of_ready h.ready, Cx.releasing_of_acknowledged (c := c.settle _) h.acknowledged]
  simp only [Cx.settle_s, Cx.settle_w, Cx.settle_scalar, h.plain, Bool.false_eq_true, if_false, h.bound]
  exact (if_neg h.usable).trans (if_pos hfull)

/-- The record of such a `launch` that the queue has a slot for, as it is read. -/
structure LaunchesRecord (c : Cx) (a b e : BitVec 6) (x : Queue) (t : State) (rec_ : List Byte) (marks : List Bool) : Prop
    extends LaunchesTo c a b e x where
  room : dist32 (queueHead c.s x) (queueTail c.s x) ≠ x.entries
  read : readGlobal (partyOf c.s c.w) c.wk c.s (pieces (pairOf c b.toNat) 128) = .ok t rec_ marks
  sound : true ∉ marks

theorem launch_of_record {x : Queue} {t : State} {rec_ : List Byte} {marks : List Bool} (h : LaunchesRecord c a b e x t rec_ marks) :
    let q := (c.sp.scalar e.toNat).toNat
    let c := c.settle (.launch a b e)
    let status (c : Cx) (v : Nat) : Out := c.scalarDone (c.putScalar a.toNat (BitVec.ofNat 32 v))
    let c2 := { c with s := look t x.asid (field64 rec_ 0) 64 }
    exec (.launch a b e) c.s =
      if descField rec_ 36 1 = 1 then
        status (if recordClean rec_ then { c with s := enqueue t q x rec_ [] } else { c with s := t }) (if recordClean rec_ then 0 else 2)
      else match peek t x.asid (field64 rec_ 0) 64 with
        | .hole => .fault .physicalHole
        | .replay h a => c2.holdStalled (partyOf c.s c.w) h a false
        | .bad => status c2 2
        | .ok d => match kernelCause t rec_ d with
          | some _ => status c2 2
          | none => status { c2 with s := enqueue c2.s q x rec_ d } 0 := by
  have hmarks : marks.contains true = false := by simpa using h.sound
  show execLaunch a b e c.s = _
  unfold execLaunch
  rw [issueSplit_of_ready h.ready, Cx.releasing_of_acknowledged (c := c.settle _) h.acknowledged]
  simp only [Cx.settle_s, Cx.settle_w, Cx.settle_scalar, h.plain, Bool.false_eq_true, if_false, h.bound]
  refine (if_neg h.usable).trans ((if_neg h.room).trans ?_)
  have hread : readGlobal (partyOf c.s c.w) (c.settle (.launch a b e)).wk c.s
      (pieces ((c.settle (.launch a b e)).sp.scalar64 b.toNat) 128) = .ok t rec_ marks := h.read
  simp only [hread, hmarks, Bool.false_eq_true, if_false] <;> rfl

theorem launch_of_kind1 {x : Queue} {t : State} {rec_ : List Byte} {marks : List Bool} (h : LaunchesRecord c a b e x t rec_ marks)
    (hkind : descField rec_ 36 1 = 1) :
    (recordClean rec_ = true → Gives (.launch a b e) c.s c (enqueue t (c.sp.scalar e.toNat).toNat x rec_ []) a 0) ∧
    (recordClean rec_ = false → Gives (.launch a b e) c.s c t a 2) := by
  have heq := (launch_of_record h).trans (if_pos hkind)
  refine ⟨fun hc => ?_, fun hc => ?_⟩
  · rw [hc] at heq
    exact heq
  · rw [hc] at heq
    exact heq

theorem launch_of_bad_kernel {x : Queue} {t : State} {rec_ : List Byte} {marks : List Bool} (h : LaunchesRecord c a b e x t rec_ marks)
    (hkind : descField rec_ 36 1 ≠ 1)
    (hbad : peek t x.asid (field64 rec_ 0) 64 = .bad ∨
      ∃ d, peek t x.asid (field64 rec_ 0) 64 = .ok d ∧ kernelCause t rec_ d ≠ none) :
    Gives (.launch a b e) c.s c (look t x.asid (field64 rec_ 0) 64) a 2 := by
  have heq := (launch_of_record h).trans (if_neg hkind)
  rcases hbad with hpeek | ⟨d, hpeek, hcause⟩
  · rw [hpeek] at heq
    exact heq
  · obtain ⟨n, hn⟩ := Option.ne_none_iff_exists'.mp hcause
    rw [hpeek] at heq
    simp only [hn] at heq
    exact heq

theorem launch_of_kernel {x : Queue} {t : State} {rec_ d : List Byte} {marks : List Bool} (h : LaunchesRecord c a b e x t rec_ marks)
    (hkind : descField rec_ 36 1 ≠ 1) (hpeek : peek t x.asid (field64 rec_ 0) 64 = .ok d) (hcause : kernelCause t rec_ d = none) :
    Gives (.launch a b e) c.s c (enqueue (look t x.asid (field64 rec_ 0) 64) (c.sp.scalar e.toNat).toNat x rec_ d) a 0 := by
  have heq := (launch_of_record h).trans (if_neg hkind)
  rw [hpeek] at heq
  simp only [hcause] at heq
  exact heq

/-- The statement's condition on queue and address: no such queue, or one that is unusable. -/
theorem launch_unusable_iff (c : Cx) (b e : BitVec 6) :
    (Config.launchQueues ≤ (c.sp.scalar e.toNat).toNat ∨ (pairOf c b.toNat).toNat % 128 ≠ 0 ∨
      ∀ x, Tab.get? c.s.queues (c.sp.scalar e.toNat).toNat = some x → x.hostFed = true ∨ x.asid ≠ asidOf c.s c.w) ↔
    ∀ x, Tab.get? c.s.queues (c.sp.scalar e.toNat).toNat = some x → Unusable c b e x := by
  simp only [Unusable]
  cases Tab.get? c.s.queues (c.sp.scalar e.toNat).toNat with
  | none => simp
  | some x => simp only [Option.some.injEq, forall_eq']; tauto

end

/-- Settles O38: `racq` goes on with its skein's full allotment or waits, and `launch` gives the status of the first check of its
queue, its record and its descriptor that fails, or enqueues the record. -/
theorem requestsToTheScheduler : Obligations.RequestsToTheScheduler := by
  unfold Obligations.RequestsToTheScheduler
  intro s c hs
  refine ⟨fun k hr hk => ⟨racq_of_full hs hr hk, racq_granted_or_waits hs hr hk⟩, fun a b e hr hun hsnap => ?_⟩
  obtain rfl := (executing_focus hr.1).2.2
  intro q bad
  have hl : Launches c a b e := ⟨hr, hun, hsnap⟩
  have hbad : bad ↔ ∀ x, Tab.get? c.s.queues q = some x → Unusable c b e x := launch_unusable_iff c b e
  have hto {x : Queue} (hno : ¬bad) (hx : Tab.get? c.s.queues q = some x) : LaunchesTo c a b e x :=
    ⟨hl, hx, fun hu => hno (hbad.mpr fun y hy => Option.some.inj (hx.symm.trans hy) ▸ hu)⟩
  refine ⟨fun hb hp => ?_, fun x hno hx hfull hp => ?_, fun x t rec_ marks hno hx hroom hread hsound hkind => ⟨fun hc hp => ?_, fun hc hp => ?_⟩,
    fun x t rec_ marks hno hx hroom hread hsound hkind hb hp => ?_,
    fun x t rec_ d marks hno hx hroom hread hsound hkind hpeek hcause hp => ?_⟩
  · cases hq : Tab.get? c.s.queues q with
    | none => exact (launch_to_unbound hl hq).does hs hp
    | some x => exact (launch_to_unusable hl hq (hbad.mp hb x hq)).does hs hp
  · exact (launch_to_full (hto hno hx) hfull).does hs hp
  · exact ((launch_of_kind1 ⟨hto hno hx, hroom, hread, hsound⟩ hkind).1 hc).acts hs hp
      ((kernelsOf_enqueue ..).trans (kernelsOf_readGlobal hread))
  · exact ((launch_of_kind1 ⟨hto hno hx, hroom, hread, hsound⟩ hkind).2 hc).acts hs hp (kernelsOf_readGlobal hread)
  · exact (launch_of_bad_kernel ⟨hto hno hx, hroom, hread, hsound⟩ hkind hb).acts hs hp
      ((kernelsOf_look ..).trans (kernelsOf_readGlobal hread))
  · exact (launch_of_kernel ⟨hto hno hx, hroom, hread, hsound⟩ hkind hpeek hcause).acts hs hp
      ((kernelsOf_enqueue ..).trans ((kernelsOf_look ..).trans (kernelsOf_readGlobal hread)))

end Sys2Proof.Machine

namespace Sys2Proof.Machine

open Sys2Proof.Claims

/-! ### Convergence, and the entry into the queue (R239, R240) -/

theorem Cx.ganged_iff (c : Cx) : c.ganged = true ↔ c.w.spill = [] ∧ c.w.splits.length = 1 ∧ c.sp.act = allLanes := by
  simp [Cx.ganged, and_assoc]

@[simp] theorem Cx.settle_ganged (c : Cx) (i : Instr) : (c.settle i).ganged = c.ganged := rfl

theorem Cx.matrixCause_of_parted {c : Cx} (h : ¬c.ganged = true) (context operand : Bool) : c.matrixCause context operand = some 0x05 := by
  simp [Cx.matrixCause, h]

theorem Cx.matrixCause_of_ganged {c : Cx} (h : c.ganged = true) (context operand : Bool) :
    c.matrixCause context operand = if context then some 0x03 else if operand then some 0x04 else none := by
  simp [Cx.matrixCause, h]

/-- The context and warp after an entry into the queue. -/
def Cx.queued (c : Cx) (op : MatOp) : Cx := { c with w := { c.w with mqueue := c.w.mqueue ++ [op] } }

theorem Cx.enqueue_of_full {c : Cx} (h : 4 ≤ c.w.mqueue.length) (k : Cx → Cx × MatOp) : c.enqueue k = c.stall .other := if_pos h

theorem Cx.enqueue_of_room {c : Cx} (h : c.w.mqueue.length < 4) (k : Cx → Cx × MatOp) :
    c.enqueue k = ((k c).1.queued (k c).2).done := if_neg (Nat.not_le.mpr h)

section
variable {i : Instr} {c : Cx} {op : MatOp}

theorem stalls_of_enqueue {k : Cx → Cx × MatOp} (he : exec i c.s = (c.settle i).enqueue k) (h : 4 ≤ c.w.mqueue.length) :
    Stalls i c.s c c.s .other := he.trans (Cx.enqueue_of_full (c := c.settle i) h k)

theorem Enters.of_enqueue {k : Cx → Cx × MatOp} {drain : Option Nat} {around : State} {ctx : MatrixCtx}
    (he : exec i c.s = (c.settle i).enqueue k)
    (hq : exec i c.s = ((k (c.settle i)).1.queued (k (c.settle i)).2).done → Queues i c.s c op drain around ctx) :
    Enters i c.s c op drain around ctx :=
  ⟨stalls_of_enqueue he, fun h => hq (he.trans (Cx.enqueue_of_room (c := c.settle i) h k))⟩

/-- An entry that has no register group: the queue, the matrix context and the state around it changed. -/
theorem Queues.of_queued {around : State} {ctx : MatrixCtx} (hs : c.shaped = true)
    (he : exec i c.s = (Cx.queued { c.settle i with s := around, w := { c.w with mctx := ctx } } op).done) :
    Queues i c.s c op none around ctx := by
  have hlen : (c.settle i).sp.pend.length = c.sp.pend.length := List.length_map _
  refine ⟨_, Completes.of_done he, rfl, hs, rfl, rfl, ?_, hlen, rfl⟩
  have hk := c.settle_keeps i
  rw [Cx.queued, ← hlen, List.take_length]
  exact hk

/-- An entry that drains into a register group (R243). -/
theorem Queues.of_drained {opcode look d : Nat} (hs : c.shaped = true)
    (he : exec i c.s = (((c.settle i).drainPend opcode look d).1.queued op).done) :
    Queues i c.s c op (some d) c.s c.w.mctx := by
  have hlen : (c.settle i).sp.pend.length = c.sp.pend.length := List.length_map _
  refine ⟨_, Completes.of_done he, rfl, hs, rfl, rfl, ?_, rfl, _, List.drop_left' hlen, rfl, rfl, rfl, rfl, rfl⟩
  have htake : (((c.settle i).drainPend opcode look d).1.queued op).sp.pend.take c.sp.pend.length = (c.settle i).sp.pend :=
    List.take_left' hlen
  rw [htake]
  exact c.settle_keeps i

end

end Sys2Proof.Machine

namespace Sys2Proof.Machine

open Sys2Proof.Claims

theorem exec_of_mmaForm {i : Instr} {n : Nat} {d a : BitVec 7} {b : BitVec 6} {l : BitVec 4} (h : mmaForm i = some (n, d, a, b, l))
    (s : State) : exec i s = mmaIssue i s n d a b l := by
  unfold mmaForm at h
  split at h <;> cases h <;> rfl

theorem matrixConvergence : Sys2Proof.Claims.MatrixConvergence := by
  intro i s c hi hr _ hno
  have hg : ¬(c.settle i).ganged = true := fun h => hno (c.ganged_iff.mp h)
  rcases hi with h | ⟨d, a, b, l, rfl⟩ | ⟨t, rfl⟩ | rfl | ⟨d, t, l, rfl⟩ | ⟨d, t, rfl⟩ | ⟨t, a, b, rfl⟩
  · obtain ⟨⟨n, d, a, b, l⟩, h⟩ := Option.isSome_iff_exists.mp h
    rw [exec_of_mmaForm h, mmaIssue, issueSplit_of_ready hr]
    simp only [Cx.matrixCause_of_parted hg]
  · show execMsa d a b l s = _
    rw [execMsa, issueSplit_of_ready hr]
    simp only [Cx.matrixCause_of_parted hg]
  · show execMzero t s = _
    rw [execMzero, issueSplit_of_ready hr, Cx.matrixCause_of_parted hg]
  · show execMzeroP s = _
    rw [execMzeroP, issueSplit_of_ready hr, Cx.matrixCause_of_parted hg]
  · show execMmovToRegisters d t l s = _
    rw [execMmovToRegisters, issueSplit_of_ready hr, Cx.matrixCause_of_parted hg]
  · show execMmovToTile d t s = _
    rw [execMmovToTile, issueSplit_of_ready hr, Cx.matrixCause_of_parted hg]
  · show execMring t a b s = _
    rw [execMring, issueSplit_of_ready hr]
    simp only [Cx.matrixCause_of_parted hg]

/-! ### `msa`, `mzero`, `mzero.p` and `mmov` (R246 to R248) -/

@[simp] theorem touchesPoison_nil (size a n : Nat) : touchesPoison size [] a n = false := by
  simp [touchesPoison]

section
variable {c : Cx} {k : Skein} {g : Workgroup}

theorem msa_in_ring_mode {d a : BitVec 7} {b : BitVec 6} {l : BitVec 4} (hr : Ready (.msa d a b l) c.s c) (hg : c.ganged = true)
    (hring : ringMode c.s c.w = true) : exec (.msa d a b l) c.s = (c.settle (.msa d a b l)).trapAt 0x03 := by
  show execMsa d a b l c.s = _
  rw [execMsa, issueSplit_of_ready hr]
  simp only [Cx.matrixCause_of_ganged (c := c.settle (.msa d a b l)) hg, Cx.settle_s, Cx.settle_w, hring, if_true]

theorem msa_enters {d a : BitVec 7} {b : BitVec 6} {l : BitVec 4} (hs : c.shaped = true) (hk : skOf c.s c.w = some k)
    (hr : Ready (.msa d a b l) c.s c) (hg : c.ganged = true) (hring : ringMode c.s c.w = false) (hp : k.scratchPoison = []) :
    let base := if b = 0 then 0 else (c.sp.scalar b.toNat).toNat
    base % 32 = 0 → base + 32 ≤ windowBytes c.s c.w →
    Enters (.msa d a b l) c.s c
      (.msa (c.row a.toNat) (Mem.bytes k.scratch base 32) [] (columnsOf c d.toNat) c.w.mctx.ptile c.w.mctx.status c.w.nextPend)
      (some d.toNat) c.s c.w.mctx := by
  intro base halign hfit
  refine Enters.of_enqueue (k := fun c => ((c.drainPend 0xEC l.toNat d.toNat).1, .msa (c.row a.toNat) (Mem.bytes k.scratch base 32) []
    (c.group32 d.toNat) c.w.mctx.ptile c.w.mctx.status c.w.nextPend)) ?_ (Queues.of_drained hs)
  show execMsa d a b l c.s = _
  rw [execMsa, issueSplit_of_ready hr]
  have hbase : (c.settle (.msa d a b l)).matrixBase b = base := rfl
  simp only [Cx.matrixCause_of_ganged (c := c.settle (.msa d a b l)) hg, Cx.settle_s, Cx.settle_w, hring, Bool.false_eq_true, if_false, hk,
    hbase, hp, touchesPoison_nil, List.filter_false, halign, Nat.not_lt.mpr hfit, ne_eq, not_true_eq_false]
  rfl

theorem mzeroP_in_ring_mode (hr : Ready .mzeroP c.s c) (hg : c.ganged = true) (hring : ringMode c.s c.w = true) :
    exec .mzeroP c.s = (c.settle .mzeroP).trapAt 0x03 := by
  show execMzeroP c.s = _
  rw [execMzeroP, issueSplit_of_ready hr]
  simp only [Cx.matrixCause_of_ganged (c := c.settle .mzeroP) hg, Cx.settle_s, Cx.settle_w, hring, if_true]

theorem mzeroP_enters (hs : c.shaped = true) (hr : Ready .mzeroP c.s c) (hg : c.ganged = true) (hring : ringMode c.s c.w = false) :
    Enters .mzeroP c.s c (.zeroP c.w.mctx.status) none c.s c.w.mctx := by
  refine Enters.of_enqueue (k := fun c => (c, .zeroP c.w.mctx.status)) ?_ (Queues.of_queued hs)
  show execMzeroP c.s = _
  rw [execMzeroP, issueSplit_of_ready hr]
  simp only [Cx.matrixCause_of_ganged (c := c.settle .mzeroP) hg, Cx.settle_s, Cx.settle_w, hring, Bool.false_eq_true, if_false]

theorem ringTile_iff {i : Instr} {t : BitVec 4} (hw : wgOf c.s c.w = some g) :
    (c.settle i).ringTile t = true ↔ ¬outsideRing g t.toNat := by
  simp only [Cx.ringTile, Cx.settle_s, Cx.settle_w, hw, inRing, outsideRing]
  cases g.ring with
  | none => simp
  | some r => simp

theorem tileCause_in_ring {i : Instr} {t : BitVec 4} (hg : c.ganged = true) (hw : wgOf c.s c.w = some g) (h : ¬outsideRing g t.toNat) :
    (c.settle i).matrixCause false ((c.settle i).ringTile t) = some 0x04 := by
  rw [Cx.matrixCause_of_ganged (c := c.settle i) hg, (ringTile_iff hw).mpr h]
  rfl

theorem tileCause_outside {i : Instr} {t : BitVec 4} (hg : c.ganged = true) (hw : wgOf c.s c.w = some g) (h : outsideRing g t.toNat) :
    (c.settle i).matrixCause false ((c.settle i).ringTile t) = none := by
  have hno : (c.settle i).ringTile t = false := by
    rw [← Bool.not_eq_true, ringTile_iff hw]
    exact not_not_intro h
  rw [Cx.matrixCause_of_ganged (c := c.settle i) hg, hno]
  rfl

theorem mzero_claim (hs : c.shaped = true) (hg : c.ganged = true) (hw : wgOf c.s c.w = some g) (t : BitVec 4)
    (hr : Ready (.mzero t) c.s c) :
    (¬outsideRing g t.toNat → exec (.mzero t) c.s = (c.settle (.mzero t)).trapAt 0x04) ∧
    (outsideRing g t.toNat → Enters (.mzero t) c.s c (.zero t.toNat c.w.mctx.status) none c.s c.w.mctx) := by
  refine ⟨fun h => ?_, fun h => Enters.of_enqueue (k := fun c => (c, .zero t.toNat c.w.mctx.status)) ?_ (Queues.of_queued hs)⟩
  · show execMzero t c.s = _
    rw [execMzero, issueSplit_of_ready hr, tileCause_in_ring hg hw h]
  · show execMzero t c.s = _
    rw [execMzero, issueSplit_of_ready hr, tileCause_outside hg hw h]

theorem mmovToRegisters_claim (hs : c.shaped = true) (hg : c.ganged = true) (hw : wgOf c.s c.w = some g) (d : BitVec 7) (t l : BitVec 4)
    (hr : Ready (.mmovToRegisters d t l) c.s c) :
    (¬outsideRing g t.toNat → exec (.mmovToRegisters d t l) c.s = (c.settle (.mmovToRegisters d t l)).trapAt 0x04) ∧
    (outsideRing g t.toNat →
      Enters (.mmovToRegisters d t l) c.s c (.toRegs t.toNat c.w.mctx.status c.w.nextPend) (some d.toNat) c.s c.w.mctx) := by
  refine ⟨fun h => ?_, fun h => Enters.of_enqueue
    (k := fun c => ((c.drainPend 0xEE l.toNat d.toNat).1, .toRegs t.toNat c.w.mctx.status c.w.nextPend)) ?_ (Queues.of_drained hs)⟩
  · show execMmovToRegisters d t l c.s = _
    rw [execMmovToRegisters, issueSplit_of_ready hr, tileCause_in_ring hg hw h]
  · show execMmovToRegisters d t l c.s = _
    rw [execMmovToRegisters, issueSplit_of_ready hr, tileCause_outside hg hw h]
    rfl

theorem mmovToTile_claim (hs : c.shaped = true) (hg : c.ganged = true) (hw : wgOf c.s c.w = some g) (d : BitVec 7) (t : BitVec 4)
    (hr : Ready (.mmovToTile d t) c.s c) :
    (¬outsideRing g t.toNat → exec (.mmovToTile d t) c.s = (c.settle (.mmovToTile d t)).trapAt 0x04) ∧
    (outsideRing g t.toNat → Enters (.mmovToTile d t) c.s c
      (.toTile t.toNat (columnsOf c d.toNat) (c.w.mctx.set && c.w.mctx.ptile == t.toNat) c.w.mctx.status) none c.s c.w.mctx) := by
  refine ⟨fun h => ?_, fun h => Enters.of_enqueue
    (k := fun c => (c, .toTile t.toNat (c.group32 d.toNat) (c.w.mctx.set && c.w.mctx.ptile == t.toNat) c.w.mctx.status)) ?_
    (Queues.of_queued hs)⟩
  · show execMmovToTile d t c.s = _
    rw [execMmovToTile, issueSplit_of_ready hr, tileCause_in_ring hg hw h]
  · show execMmovToTile d t c.s = _
    rw [execMmovToTile, issueSplit_of_ready hr, tileCause_outside hg hw h]

end

end Sys2Proof.Machine

namespace Sys2Proof.Machine

open Sys2Proof.Claims

/-! ### `mring` (R242) -/

section
variable {c : Cx} {g : Workgroup} {t : BitVec 4} {a b : BitVec 6}

/-- Another warp of the workgroup has its P tile among n from `first` on. -/
def otherHolds (c : Cx) (g : Workgroup) (first n : Nat) : Prop :=
  ∃ q w, q ∈ g.warps ∧ q ≠ c.wk ∧ Tab.get? c.s.warps q = some w ∧ w.mctx.set = true ∧ first ≤ w.mctx.ptile ∧ w.mctx.ptile < first + n

/-- The ring holds a tile that is not free, or its owner has a product queued. -/
def ringInUse (c : Cx) (g : Workgroup) : Prop :=
  ∃ r, g.ring = some r ∧ ((∃ x ∈ r.tiles, x ≠ .free) ∨
    ∃ w, Tab.get? c.s.warps r.owner = some w ∧ ∃ op ∈ w.mqueue, op.opens = true)

theorem othersTile_iff (hw : wgOf c.s c.w = some g) (first n : Nat) : c.othersTile first n = true ↔ otherHolds c g first n := by
  simp only [Cx.othersTile, hw, otherHolds, List.any_eq_true, Bool.and_eq_true, bne_iff_ne]
  constructor
  · rintro ⟨q, hq, hne, hown⟩
    cases hget : Tab.get? c.s.warps q with
    | none => simp [hget] at hown
    | some w =>
      simp only [hget, Bool.and_eq_true, decide_eq_true_eq, and_assoc] at hown
      exact ⟨q, w, hq, hne, hget, hown⟩
  · rintro ⟨q, w, hq, hne, hget, hown⟩
    refine ⟨q, hq, hne, ?_⟩
    simpa only [hget, Bool.and_eq_true, decide_eq_true_eq, and_assoc] using hown

theorem ringBusy_iff (hw : wgOf c.s c.w = some g) : c.ringBusy = true ↔ ringInUse c g := by
  simp only [Cx.ringBusy, hw, Option.bind_some, ringInUse]
  cases hring : g.ring with
  | none => simp
  | some r =>
    simp only [Bool.or_eq_true, List.any_eq_true, bne_iff_ne, Option.some.injEq, exists_eq_left']
    refine or_congr Iff.rfl ?_
    cases Tab.get? c.s.warps r.owner with
    | none => simp
    | some w => simp

/-- The tiles an `mring` names: in ring mode as many as scalar a says. -/
def ringLength (c : Cx) (a : BitVec 6) : Nat := if ringMode c.s c.w then (c.sp.scalar a.toNat).toNat else 1

/-- What makes an `mring` ILLEGAL_OPERAND. -/
def mringRefused (c : Cx) (t : BitVec 4) (a b : BitVec 6) : Bool :=
  if ringMode c.s c.w then
    decide (ringLength c a < 2) || decide (16 < ringLength c a) || !(b != 0) || c.ringBusy || c.othersTile t.toNat (ringLength c a)
  else c.othersTile t.toNat 1 || c.ringTile t

/-- The status object of an `mring` lies aligned in the skein's window. -/
def statusFits (c : Cx) (b : BitVec 6) : Prop :=
  b ≠ 0 → (c.sp.scalar b.toNat).toNat % 16 = 0 ∧ (c.sp.scalar b.toNat).toNat + 16 ≤ windowBytes c.s c.w

theorem mring_refused (hr : Ready (.mring t a b) c.s c) (hg : c.ganged = true) (h : mringRefused c t a b = true) :
    exec (.mring t a b) c.s = (c.settle (.mring t a b)).trapAt 0x04 := by
  show execMring t a b c.s = _
  rw [execMring, issueSplit_of_ready hr]
  have hcause : (c.settle (.mring t a b)).matrixCause false (mringRefused c t a b) = some 0x04 := by
    rw [Cx.matrixCause_of_ganged (c := c.settle _) hg, h]
    rfl
  have hcause' : (c.settle (.mring t a b)).matrixCause false (mringRefused (c.settle (.mring t a b)) t a b) = some 0x04 := hcause
  unfold mringRefused ringLength at hcause'
  simp only [hcause']

/-- The ring that an `mring` makes. -/
def newRing (c : Cx) (t : BitVec 4) (n : Nat) (b : BitVec 6) : Ring :=
  ⟨c.wk, t.toNat, n, 0, 0, c.sp.scalar b.toNat, List.replicate n .free, 0, false⟩

/-- The entry of an accepted `mring`. -/
def mringEntry (t : BitVec 4) (a b : BitVec 6) (c : Cx) : Cx × MatOp :=
  if ringMode c.s c.w then
    (c.updWg fun g => { g with ring := some (newRing c t (ringLength c a) b) }, .ring none)
  else
    ({ c with w := { c.w with mctx := { c.w.mctx with
        set := true, ptile := t.toNat, status := if b != 0 then some (c.sp.scalar b.toNat) else none } } },
      .ring (if b != 0 then some (c.sp.scalar b.toNat) else none))

theorem mring_accepted (hr : Ready (.mring t a b) c.s c) (hg : c.ganged = true) (h : mringRefused c t a b = false)
    (hobj : statusFits c b) (hallot : t.toNat + ringLength c a ≤ tileAllot c.s c.w) :
    exec (.mring t a b) c.s = (c.settle (.mring t a b)).enqueue (mringEntry t a b) := by
  show execMring t a b c.s = _
  rw [execMring, issueSplit_of_ready hr]
  have hcause : (c.settle (.mring t a b)).matrixCause false (mringRefused c t a b) = none := by
    rw [Cx.matrixCause_of_ganged (c := c.settle _) hg, h]
    rfl
  have hcause' : (c.settle (.mring t a b)).matrixCause false (mringRefused (c.settle (.mring t a b)) t a b) = none := hcause
  unfold mringRefused ringLength at hcause'
  simp only [hcause']
  have halign : ¬((b != 0) = true ∧ (c.sp.scalar b.toNat).toNat % 16 ≠ 0) := fun hb => hb.2 (hobj (bne_iff_ne.mp hb.1)).1
  have hfit : ¬((b != 0) = true ∧ windowBytes c.s c.w < (c.sp.scalar b.toNat).toNat + 16 ∨
      tileAllot c.s c.w < t.toNat + ringLength c a) := by
    rintro (⟨hb, hlt⟩ | hlt)
    · exact Nat.not_lt.mpr (hobj (bne_iff_ne.mp hb)).2 hlt
    · omega
  exact (if_neg halign).trans (if_neg hfit)

theorem wgs_of_wgOf (h : wgOf c.s c.w = some g) : Tab.get? c.s.wgs c.w.wg = some g := by
  unfold wgOf at h
  split at h
  · cases h
  · exact h

theorem mringRefused_eq_false_of_ring (hw : wgOf c.s c.w = some g) (hring : ringMode c.s c.w = true)
    (h2 : 2 ≤ (c.sp.scalar a.toNat).toNat) (h16 : (c.sp.scalar a.toNat).toNat ≤ 16) (hb : b ≠ 0) (hbusy : ¬ringInUse c g)
    (hother : ¬otherHolds c g t.toNat (c.sp.scalar a.toNat).toNat) : mringRefused c t a b = false := by
  rw [← ringBusy_iff hw, Bool.not_eq_true] at hbusy
  rw [← othersTile_iff hw, Bool.not_eq_true] at hother
  simp [mringRefused, ringLength, hring, hbusy, hother, h16]
  exact ⟨h2, hb⟩

theorem mringRefused_eq_true_of_ring (hw : wgOf c.s c.w = some g) (hring : ringMode c.s c.w = true)
    (h : (c.sp.scalar a.toNat).toNat < 2 ∨ 16 < (c.sp.scalar a.toNat).toNat ∨ b = 0 ∨ ringInUse c g ∨
      otherHolds c g t.toNat (c.sp.scalar a.toNat).toNat) : mringRefused c t a b = true := by
  rw [← ringBusy_iff hw, ← othersTile_iff hw] at h
  simp only [mringRefused, ringLength, hring, if_true, Bool.or_eq_true, decide_eq_true_eq, Bool.not_eq_true', bne_eq_false_iff_eq]
  tauto

theorem mringRefused_iff_of_vreg (hw : wgOf c.s c.w = some g) (hring : ringMode c.s c.w = false) :
    mringRefused c t a b = true ↔ otherHolds c g t.toNat 1 ∨ ¬outsideRing g t.toNat := by
  have htile : c.ringTile t = true ↔ ¬outsideRing g t.toNat := ringTile_iff (i := .nop) hw
  simp only [mringRefused, hring, Bool.false_eq_true, if_false, Bool.or_eq_true, othersTile_iff hw, htile]

theorem mring_makes_ring (hs : c.shaped = true) (hr : Ready (.mring t a b) c.s c) (hg : c.ganged = true) (hw : wgOf c.s c.w = some g)
    (hring : ringMode c.s c.w = true) (h : mringRefused c t a b = false) (hobj : statusFits c b)
    (hallot : t.toNat + (c.sp.scalar a.toNat).toNat ≤ tileAllot c.s c.w) :
    ∃ u, Enters (.mring t a b) c.s c (.ring none) none u c.w.mctx ∧ { u with wgs := c.s.wgs } = c.s ∧
      (∀ m, m ≠ c.w.wg → Tab.get? u.wgs m = Tab.get? c.s.wgs m) ∧
      Tab.get? u.wgs c.w.wg = some { g with ring := some (newRing c t (c.sp.scalar a.toNat).toNat b) } := by
  have hlen : ringLength c a = (c.sp.scalar a.toNat).toNat := if_pos hring
  have he := mring_accepted hr hg h hobj (by rw [hlen]; exact hallot)
  have hentry : mringEntry t a b (c.settle (.mring t a b)) = 
      ((c.settle (.mring t a b)).updWg fun g => { g with ring := some (newRing c t (ringLength c a) b) }, .ring none) :=
    if_pos hring
  rw [hlen] at hentry
  refine ⟨{ c.s with wgs := Tab.upd c.s.wgs c.w.wg fun g => { g with ring := some (newRing c t (c.sp.scalar a.toNat).toNat b) } },
    Enters.of_enqueue he fun hq => ?_, rfl, fun m hm => ?_, ?_⟩
  · rw [hentry] at hq
    exact Queues.of_queued hs hq
  · exact (Tab.get?_upd _ _ _ _).trans (if_neg hm)
  · refine (Tab.get?_upd _ _ _ _).trans ((if_pos rfl).trans ?_)
    rw [wgs_of_wgOf hw]
    rfl

theorem mring_sets_tile (hs : c.shaped = true) (hr : Ready (.mring t a b) c.s c) (hg : c.ganged = true)
    (hring : ringMode c.s c.w = false) (h : mringRefused c t a b = false) (hobj : statusFits c b)
    (hallot : t.toNat + 1 ≤ tileAllot c.s c.w) :
    let named := if b = 0 then none else some (c.sp.scalar b.toNat)
    Enters (.mring t a b) c.s c (.ring named) none c.s { c.w.mctx with set := true, ptile := t.toNat, status := named } := by
  intro named
  have hlen : ringLength c a = 1 := if_neg (by simp [hring])
  have he := mring_accepted hr hg h hobj (by rw [hlen]; exact hallot)
  have hnamed : (if b != 0 then some (c.sp.scalar b.toNat) else none) = named := by
    by_cases hb : b = 0 <;> simp [named, hb]
  have hentry : mringEntry t a b (c.settle (.mring t a b)) = 
      ({ c.settle (.mring t a b) with w := { c.w with mctx := { c.w.mctx with
        set := true, ptile := t.toNat, status := if b != 0 then some (c.sp.scalar b.toNat) else none } } },
      .ring (if b != 0 then some (c.sp.scalar b.toNat) else none)) :=
    if_neg (by rw [Cx.settle_s, Cx.settle_w, hring]; decide)
  rw [hnamed] at hentry
  refine Enters.of_enqueue he fun hq => ?_
  rw [hentry] at hq
  exact Queues.of_queued hs hq

end

theorem matrixQueuedAlone : Sys2Proof.Claims.MatrixQueuedAlone := by
  intro s c k g hs hk hw hspill hsplits hact ring
  have hg : c.ganged = true := c.ganged_iff.mpr ⟨hspill, hsplits, hact⟩
  refine ⟨fun d a b l hr => ?_, fun hr => ?_, fun t hr => ?_, fun d t l => ⟨fun hr => ?_, fun hr => ?_⟩, fun t a b hr => ?_⟩
  all_goals obtain rfl := (executing_focus hr.1).2.2
  · exact ⟨msa_in_ring_mode hr hg, fun hring halign hfit hp => msa_enters hs hk hr hg hring hp halign hfit⟩
  · exact ⟨mzeroP_in_ring_mode hr hg, mzeroP_enters hs hr hg⟩
  · exact mzero_claim hs hg hw t hr
  · exact mmovToRegisters_claim hs hg hw d t l hr
  · exact mmovToTile_claim hs hg hw d t hr
  · intro n obj other hobj busy
    refine ⟨fun hring h => mring_refused hr hg (mringRefused_eq_true_of_ring hw hring h),
      fun hring h => mring_refused hr hg ((mringRefused_iff_of_vreg hw hring).mpr h),
      fun hring h2 h16 hb hbusy hother hallot =>
        mring_makes_ring hs hr hg hw hring (mringRefused_eq_false_of_ring hw hring h2 h16 hb hbusy hother) hobj hallot,
      fun hring hother hout hallot => mring_sets_tile hs hr hg hring ?_ hobj hallot⟩
    rw [← Bool.not_eq_true, mringRefused_iff_of_vreg hw hring]
    exact fun h => h.elim hother (not_not_intro hout)

end Sys2Proof.Machine

namespace Sys2Proof.Machine

open Sys2Proof.Claims

/-! ### `mma` (R237, R243, R244) -/

section
variable {c : Cx} {k : Skein} {g : Workgroup} {n : Nat} {d a : BitVec 7} {b : BitVec 6} {l : BitVec 4}

/-- The entry of a product, its operands read from the skein's window k. -/
def mmaEntry (k : Skein) (n : Nat) (d a : BitVec 7) (b : BitVec 6) (l : BitVec 4) (c : Cx) : Cx × MatOp :=
  let f := matForm n
  let ring := ringMode c.s c.w
  let addrs := (c.row a.toNat).map fun v => v.toNat
  let base := c.matrixBase b
  let op (cg : List Row) (p : Option Nat) : MatOp :=
    .mma n (addrs.map fun x => Mem.bytes k.scratch x f.rowBytes)
      ((List.range 32).map fun j => Mem.bytes k.scratch (base + 64 * j) 64)
      ((List.range 96).filter fun i => touchesPoison 8 k.scratchPoison (addrs.getD i 0) f.rowBytes)
      ((List.range 32).filter fun j => touchesPoison 8 k.scratchPoison (base + 64 * j) 64)
      cg (ring && l.getLsbD 0) (ring && l.getLsbD 1) c.w.mctx.ptile c.w.mctx.status p
  if ring then (c.updWg (judgeRing f.integer (ring && l.getLsbD 1)), op [] none)
  else if f.integer then
    ((c.drainPend (0xE0 + n) l.toNat d.toNat).1, op (c.group32 d.toNat) (some (c.drainPend (0xE0 + n) l.toNat d.toNat).2))
  else (c, op [] none)

/-- What R243 and R253 ask of a product's operands. -/
structure MmaOperands (c : Cx) (n : Nat) (a : BitVec 7) (b : BitVec 6) (l : BitVec 4) : Prop where
  context : c.mmaOperand (matForm n).integer (ringMode c.s c.w && l.getLsbD 0) = false
  base_aligned : c.matrixBase b % 2048 = 0
  base_fits : c.matrixBase b + 2048 ≤ windowBytes c.s c.w
  rows : ∀ j, j < 96 → (c.lane a.toNat j).toNat % 64 = 0 ∧ (c.lane a.toNat j).toNat + (matForm n).rowBytes ≤ windowBytes c.s c.w

theorem Cx.forall_row {c : Cx} (hs : c.shaped = true) (r : Nat) {P : Word → Prop} (h : ∀ j, j < 96 → P (c.lane r j)) :
    ∀ v ∈ c.row r, P v := by
  intro v hv
  obtain ⟨j, hj, rfl⟩ := List.mem_iff_getElem.mp hv
  have h96 := h j (by rw [← c.row_length hs r]; exact hj)
  rwa [Cx.lane, List.getD_eq_getElem?_getD, List.getElem?_eq_getElem hj] at h96

theorem mma_accepted {i : Instr} (hi : mmaForm i = some (n, d, a, b, l)) (hs : c.shaped = true) (hr : Ready i c.s c)
    (hk : skOf c.s c.w = some k) (hg : c.ganged = true) (h : MmaOperands c n a b l) :
    exec i c.s = (c.settle i).enqueue (mmaEntry k n d a b l) := by
  have haligned : (((c.row a.toNat).map fun v => v.toNat).any fun x => x % 64 != 0) = false := by
    rw [List.any_map, List.any_eq_false]
    exact Cx.forall_row hs _ fun j hj => by simp [(h.rows j hj).1]
  have hfits : (((c.row a.toNat).map fun v => v.toNat).any fun x => decide (windowBytes c.s c.w < x + (matForm n).rowBytes)) = false := by
    rw [List.any_map, List.any_eq_false]
    exact Cx.forall_row hs _ fun j hj => by simpa using (h.rows j hj).2
  have hbase : (c.matrixBase b % 2048 != 0) = false := by simp [h.base_aligned]
  have hbase2 : decide (windowBytes c.s c.w < c.matrixBase b + 2048) = false := by simpa using h.base_fits
  have hcause : (c.settle i).matrixCause false (c.mmaOperand (matForm n).integer (ringMode c.s c.w && l.getLsbD 0)) = none := by
    rw [Cx.matrixCause_of_ganged (c := c.settle i) hg, h.context]
    rfl
  rw [exec_of_mmaForm hi, mmaIssue, issueSplit_of_ready hr]
  have hcause' : (c.settle i).matrixCause false
    ((c.settle i).mmaOperand (matForm n).integer (ringMode c.s c.w && l.getLsbD 0)) = none := hcause
  simp only [Cx.settle_s, Cx.settle_w, hk, hcause']
  refine (if_neg ?_).trans ((if_neg ?_).trans rfl)
  · exact Bool.not_eq_true _ ▸ (Bool.or_eq_false_iff.mpr ⟨haligned, hbase⟩)
  · exact Bool.not_eq_true _ ▸ (Bool.or_eq_false_iff.mpr ⟨hfits, hbase2⟩)

/-- The queue's entry for a product of unpoisoned operands, cg the columns of its register group and p its outstanding result. -/
def mmaOp (k : Skein) (n : Nat) (a : BitVec 7) (b : BitVec 6) (l : BitVec 4) (c : Cx) (cg : List Row) (p : Option Nat) : MatOp :=
  .mma n ((c.row a.toNat).map fun v => Mem.bytes k.scratch v.toNat (matForm n).rowBytes)
    ((List.range 32).map fun j => Mem.bytes k.scratch (c.matrixBase b + 64 * j) 64) [] [] cg (ringMode c.s c.w && l.getLsbD 0)
    (ringMode c.s c.w && l.getLsbD 1) c.w.mctx.ptile c.w.mctx.status p

theorem mmaEntry_of_sound (hp : k.scratchPoison = []) (c : Cx) : mmaEntry k n d a b l c =
    if ringMode c.s c.w then
      (c.updWg (judgeRing (matForm n).integer (ringMode c.s c.w && l.getLsbD 1)), mmaOp k n a b l c [] none)
    else if (matForm n).integer then
      ((c.drainPend (0xE0 + n) l.toNat d.toNat).1, mmaOp k n a b l c (columnsOf c d.toNat) (some c.w.nextPend))
    else (c, mmaOp k n a b l c [] none) := by
  simp only [mmaEntry, mmaOp, hp, touchesPoison_nil, List.filter_false, List.map_map]
  rfl

theorem mma_queues {i : Instr} (hi : mmaForm i = some (n, d, a, b, l)) (hs : c.shaped = true) (hr : Ready i c.s c)
    (hk : skOf c.s c.w = some k) (hw : wgOf c.s c.w = some g) (hg : c.ganged = true) (h : MmaOperands c n a b l)
    (hroom : c.w.mqueue.length < 4) (hp : k.scratchPoison = []) :
    let drain := if ringMode c.s c.w = false ∧ (matForm n).integer = true then some d.toNat else none
    ∃ t, Queues i c.s c
        (mmaOp k n a b l c (if drain.isSome then columnsOf c d.toNat else []) (drain.map fun _ => c.w.nextPend)) drain t c.w.mctx ∧
      { t with wgs := c.s.wgs } = c.s ∧ (ringMode c.s c.w = false → t = c.s) ∧
      ∃ g', Tab.get? t.wgs c.w.wg = some g' ∧ { g' with ring := g.ring } = g ∧ (ringMode c.s c.w = true →
        g'.ring = g.ring.map fun r => { r with opened := (matForm n).integer && !(ringMode c.s c.w && l.getLsbD 1) }) := by
  intro drain
  have he := (mma_accepted hi hs hr hk hg h).trans (Cx.enqueue_of_room (c := c.settle i) hroom _)
  rw [mmaEntry_of_sound hp] at he
  cases hring : ringMode c.s c.w with
  | true =>
    have hdrain : drain = none := if_neg (by simp [hring])
    rw [if_pos (show ringMode (c.settle i).s (c.settle i).w = true from hring)] at he
    rw [hdrain]
    refine ⟨{ c.s with wgs := Tab.upd c.s.wgs c.w.wg (judgeRing (matForm n).integer (ringMode c.s c.w && l.getLsbD 1)) },
      Queues.of_queued hs he, rfl, nofun, judgeRing (matForm n).integer (ringMode c.s c.w && l.getLsbD 1) g, ?_, rfl, fun _ => ?_⟩
    · refine (Tab.get?_upd _ _ _ _).trans ((if_pos rfl).trans ?_)
      rw [wgs_of_wgOf hw]
      rfl
    · rw [hring]
      rfl
  | false =>
    rw [if_neg (show ¬ringMode (c.settle i).s (c.settle i).w = true by rw [Cx.settle_s, Cx.settle_w, hring]; decide)] at he
    refine ⟨c.s, ?_, rfl, fun _ => rfl, g, wgs_of_wgOf hw, rfl, nofun⟩
    cases hint : (matForm n).integer with
    | true =>
      have hdrain : drain = some d.toNat := if_pos ⟨hring, hint⟩
      rw [if_pos hint] at he
      rw [hdrain]
      exact Queues.of_drained hs he
    | false =>
      have hdrain : drain = none := if_neg (by simp [hint])
      rw [if_neg (by rw [hint]; decide)] at he
      rw [hdrain]
      exact Queues.of_queued hs he

end

theorem productsQueued : Sys2Proof.Claims.ProductsQueued := by
  intro i s c n d a b l k g hi _ hs hr hk hw hspill hsplits hact f bytes ring z close base row hown hctx halign hfit hrows
  obtain rfl := (executing_focus hr.1).2.2
  have hg : c.ganged = true := c.ganged_iff.mpr ⟨hspill, hsplits, hact⟩
  have hcontext : c.mmaOperand f.integer z = false := by
    unfold Cx.mmaOperand
    cases hring : ringMode c.s c.w with
    | true =>
      obtain ⟨r, hr, howner, hopened⟩ := hown hring
      rw [hw]
      simp only [Option.bind_some, hr, if_true, howner, bne_self_eq_false, Bool.false_or]
      cases hint : f.integer <;> cases hz : z <;> simp
      exact hopened hint hz
    | false =>
      cases hint : f.integer
      · simp [hctx hring hint]
      · simp
  have hops : MmaOperands c n a b l := ⟨hcontext, halign, hfit, hrows⟩
  exact ⟨stalls_of_enqueue (mma_accepted hi hs hr hk hg hops), mma_queues hi hs hr hk hw hg hops⟩

/-- Settles O45: a matrix instruction is refused by the first cause of R240 that applies, and otherwise enters its warp's queue with
what it reads at issue, or stalls while that is full. -/
theorem matrixQueued : Obligations.MatrixQueued := ⟨matrixConvergence, matrixQueuedAlone, productsQueued⟩

end Sys2Proof.Machine

namespace Sys2Proof.Machine

open Sys2Proof.Claims

/-! ### The choice of a quarter with one split to issue (R278) -/

theorem leastOf_eq_some {l : List (List Nat × Nat × Nat)} {v : Nat × Nat} (hall : ∀ x ∈ l, x.2 = v) (hne : l ≠ []) :
    leastOf l = some v := by
  cases l with
  | nil => exact absurd rfl hne
  | cons x rest =>
    obtain ⟨hx, hrest⟩ := List.forall_mem_cons.mp hall
    show Option.map (fun b => b.2) (rest.foldl _ (some x)) = some v
    refine Option.map_eq_some_iff.mpr (List.foldlRecOn rest _ (motive := fun best => ∃ c, best = some c ∧ c.2 = v) ⟨x, rfl, hx⟩ ?_)
    rintro _ ⟨c, rfl, hc⟩ y hy
    dsimp only
    split
    · exact ⟨y, rfl, hrest y hy⟩
    · exact ⟨c, rfl, hc⟩

/-- The splits of a quarter that may issue, with their warps. -/
def quarterReady (s : State) (core quarter : Nat) : List ((Nat × Warp) × (Nat × Split)) :=
  (quarterWarps s core quarter).flatMap fun w =>
    (w.2.splits.filter fun p => p.2.selectable && maySelect s w.2 p.2).map fun p => (w, p)

theorem chooseSplit_of_one {s : State} {core quarter wk e : Nat} (hall : ∀ x ∈ quarterReady s core quarter, (x.1.1, x.2.1) = (wk, e))
    (hne : quarterReady s core quarter ≠ []) : chooseSplit s core quarter = some (wk, e) := by
  have least (f : (Nat × Warp) × (Nat × Split) → Bool) (key : (Nat × Warp) × (Nat × Split) → List Nat) {b : Option (Nat × Nat)}
      (hb : b = some (wk, e)) : (match leastOf (((quarterReady s core quarter).filter f).map fun x => (key x, x.1.1, x.2.1)) with
        | some b => some b
        | none => b) = some (wk, e) := by
    by_cases hl : (quarterReady s core quarter).filter f = []
    · rw [hl]
      exact hb
    · rw [leastOf_eq_some (v := (wk, e)) _ (by simpa using hl)]
      intro y hy
      obtain ⟨x, hx, rfl⟩ := List.mem_map.mp hy
      exact hall x (List.mem_of_mem_filter hx)
  unfold chooseSplit
  refine least _ _ (least _ _ (leastOf_eq_some ?_ fun h => hne (List.map_eq_nil_iff.mp h)))
  intro y hy
  obtain ⟨x, hx, rfl⟩ := List.mem_map.mp hy
  exact hall x hx

/-! ### Re-ganging before the choice (R22) -/

theorem Tab.get?_map_of_key {α β : Type} {f : Nat × α → Nat × β} (hf : ∀ p, (f p).1 = p.1) (t : Tab α) (k : Nat) :
    Tab.get? (t.map f) k = (Tab.get? t k).map fun v => (f (k, v)).2 := by
  induction t with
  | nil => rfl
  | cons p t ih =>
    obtain ⟨a, v⟩ := p
    rw [List.map_cons, show f (a, v) = (a, (f (a, v)).2) from Prod.ext (hf (a, v)) rfl]
    simp only [Tab.get?]
    split
    · next h => rw [h]; rfl
    · exact ih

/-- A warp of which at most one split may re-gang stays as it is. -/
theorem regangWarp_of_few {w : Warp} (clock : Nat) (h : (w.splits.filter fun p => mayRegang p.2).length ≤ 1) :
    regangWarp clock w = w := by
  refine if_pos (List.filter_eq_nil_iff.mpr fun g hg => ?_)
  obtain ⟨pc, -, rfl⟩ := List.mem_map.mp hg
  have hle := List.length_filter_le (fun p : Nat × Split => p.2.run.start == pc) (w.splits.filter fun p => mayRegang p.2)
  simp only [List.length_map, decide_eq_true_eq]
  omega

theorem regangWarp_of_none {w : Warp} (clock : Nat) (h : ∀ p ∈ w.splits, p.2.selectable = false) : regangWarp clock w = w := by
  refine regangWarp_of_few clock ?_
  rw [List.filter_eq_nil_iff.mpr fun p hp => by simp [mayRegang, h p hp]]
  exact Nat.zero_le 1

/-- Core and quarter of a warp, which re-ganging leaves. -/
def Warp.place (w : Warp) : Nat × Nat := (w.core, w.quarter)

theorem unspillOne_place (clock : Nat) (w : Warp) : (unspillOne clock w).place = w.place := by
  unfold unspillOne
  split <;> rfl

theorem Warp.regang_place (w : Warp) (es : List Nat) (pc : Pc) (clock : Nat) : (w.regang es pc clock).place = w.place := by
  unfold Warp.regang
  split <;> rfl

theorem regangWarp_place (clock : Nat) (w : Warp) : (regangWarp clock w).place = w.place := by
  unfold regangWarp
  split
  · rfl
  · refine foldl_keeps (P := fun v : Warp => v.place = w.place) (fun v _ hv => (unspillOne_place clock v).trans hv) _ ?_
    exact foldl_keeps (P := fun v : Warp => v.place = w.place) (fun v g hv => (Warp.regang_place v g.1 g.2 clock).trans hv) _ rfl

section
variable {s : State} {q wk e : Nat} {w : Warp} {sp : Split}

/-- The state in which the selector of quarter q has re-ganged its warps. -/
def reganged (s : State) (q : Nat) : State :=
  let mine := ((quarterWarps s (q / 4) (q % 4)).filter fun w => mayIssue s w.2).map fun w => w.1
  { s with warps := s.warps.map fun w => if mine.contains w.1 then (w.1, regangWarp s.ticks w.2) else w }

/-- A quarter of which one split may issue: that of entry e of warp wk. -/
structure OneToIssue (s : State) (q wk e : Nat) (w : Warp) (sp : Split) : Prop where
  warp : Tab.get? s.warps wk = some w
  core : w.core = q / 4
  quarter : w.quarter = q % 4
  issues : mayIssue s w = true
  splits : w.splits = [(e, sp)]
  selectable : sp.selectable = true
  others : ∀ x ∈ s.warps, x.1 ≠ wk → x.2.core = q / 4 → x.2.quarter = q % 4 → ∀ p ∈ x.2.splits, p.2.selectable = false
  only : ∀ x ∈ s.warps, x.1 = wk → x.2 = w

/-- A warp that issues new runs is resident in its quarter. -/
theorem mem_quarterWarps_of_mayIssue (hw : Tab.get? s.warps wk = some w) (h : mayIssue s w = true) :
    (wk, w) ∈ quarterWarps s w.core w.quarter := by
  refine List.mem_filter.mpr ⟨Tab.get?_mem hw, ?_⟩
  unfold mayIssue at h
  split at h
  · next hfar => simp [hfar]
  · split at h
    · next k l hk hl =>
      simp only [Skein.active, Bool.and_eq_true] at h
      simp [hk, h.1.1]
    · cases h

theorem OneToIssue.regang_self (h : OneToIssue s q wk e w sp) : regangWarp s.ticks w = w := by
  refine regangWarp_of_few _ (Nat.le_trans (List.length_filter_le _ _) ?_)
  rw [h.splits]
  exact Nat.le_refl 1

theorem OneToIssue.reganged_warp (h : OneToIssue s q wk e w sp) : Tab.get? (reganged s q).warps wk = some w := by
  unfold reganged
  rw [Tab.get?_map_of_key (by intro p; split <;> rfl), h.warp, Option.map_some]
  split
  · rw [h.regang_self]
  · rfl

/-- A warp of the quarter after re-ganging stood there before, unchanged. -/
theorem OneToIssue.reganged_mem (h : OneToIssue s q wk e w sp) {x : Nat × Warp} (hx : x ∈ (reganged s q).warps)
    (hcore : x.2.core = q / 4) (hquarter : x.2.quarter = q % 4) : x ∈ s.warps := by
  obtain ⟨y, hy, rfl⟩ := List.mem_map.mp hx
  split at hcore
  · next hmine =>
    rw [if_pos hmine] at hquarter ⊢
    have hplace : y.2.place = (q / 4, q % 4) := (regangWarp_place s.ticks y.2).symm.trans (Prod.ext hcore hquarter)
    obtain ⟨hc, hq⟩ := Prod.mk.inj hplace
    have hsame : regangWarp s.ticks y.2 = y.2 := by
      by_cases hk : y.1 = wk
      · rw [h.only y hy hk, h.regang_self]
      · exact regangWarp_of_none _ (h.others y hy hk hc hq)
    rwa [hsame]
  · next hmine => rwa [if_neg hmine]

theorem OneToIssue.chosen (h : OneToIssue s q wk e w sp) : chooseSplit (reganged s q) (q / 4) (q % 4) = some (wk, e) := by
  refine chooseSplit_of_one (fun x hx => ?_) (List.ne_nil_of_mem (a := ((wk, w), (e, sp))) ?_)
  · obtain ⟨y, hy, hxy⟩ := List.mem_flatMap.mp hx
    obtain ⟨p, hp, rfl⟩ := List.mem_map.mp hxy
    obtain ⟨hmem, hin⟩ := List.mem_filter.mp hy
    simp only [Bool.and_eq_true, beq_iff_eq] at hin
    obtain ⟨⟨hcore, hquarter⟩, -⟩ := hin
    obtain ⟨hp, hsel⟩ := List.mem_filter.mp hp
    have hsel : p.2.selectable = true := (Bool.and_eq_true_iff.mp hsel).1
    have hy' := h.reganged_mem hmem hcore hquarter
    by_cases hk : y.1 = wk
    · rw [h.only y hy' hk, h.splits, List.mem_singleton] at hp
      simp [hk, hp]
    · rw [h.others y hy' hk hcore hquarter p hp] at hsel
      cases hsel
  · have hmine := mem_quarterWarps_of_mayIssue h.reganged_warp (s := reganged s q) h.issues
    rw [h.core, h.quarter] at hmine
    refine List.mem_flatMap.mpr ⟨_, hmine, List.mem_map.mpr ⟨_, List.mem_filter.mpr ⟨?_, ?_⟩, rfl⟩⟩
    · rw [h.splits]
      exact List.mem_singleton_self _
    · have hissues : mayIssue (reganged s q) w = true := h.issues
      simp [h.selectable, maySelect, hissues]

/-- A split whose run issues. -/
def Split.issued (sp : Split) (now : Nat) : Split :=
  { sp with status := .issuing, yielded := false, readyAt := now, stall := sp.stall.begun }

theorem runSkein_warps (s : State) (w : Warp) : (runSkein s w).warps = s.warps := by
  unfold runSkein
  split <;> rfl

theorem runSkein_around (s : State) (w : Warp) : { runSkein s w with skeins := s.skeins } = s := by
  unfold runSkein
  split <;> rfl

theorem OneToIssue.issue (h : OneToIssue s q wk e w sp) :
    ∃ t c, exec (.issueSelector q) s = .next t ∧ t.focus = .split wk e ∧ cxOf t wk e = some c ∧ c.sp = sp.issued s.ticks ∧
      { t with warps := s.warps, skeins := s.skeins, focus := s.focus } = s := by
  have hsp : Tab.get? w.splits e = some sp := by simp [h.splits, Tab.get?]
  have hcx : cxOf (reganged s q) wk e = some ⟨reganged s q, wk, w, e, sp⟩ := by
    simp [cxOf, h.reganged_warp, hsp]
  let d : Cx := ⟨reganged s q, wk, w, e, sp.issued s.ticks⟩
  let t : State := { runSkein d.commit w with focus := .split wk e }
  have hexec : exec (.issueSelector q) s = .next t := by
    show execIssueSelector q s = _
    unfold execIssueSelector
    have hchosen := h.chosen
    unfold reganged at hchosen hcx
    simp only [hchosen, hcx]
    rfl
  have hwarp : Tab.get? t.warps wk = some { w with splits := Tab.put w.splits e (sp.issued s.ticks) } :=
    (congrArg (fun l => Tab.get? l wk) (runSkein_warps d.commit w)).trans (Tab.get?_put_self _ _ _)
  refine ⟨t, ⟨t, wk, { w with splits := Tab.put w.splits e (sp.issued s.ticks) }, e, sp.issued s.ticks⟩, hexec, rfl, ?_, rfl, ?_⟩
  · simp only [cxOf, hwarp, Tab.get?_put_self]
  · exact congrArg (fun t : State => { t with warps := s.warps, skeins := s.skeins, focus := s.focus }) (runSkein_around d.commit w)

end

end Sys2Proof.Machine

namespace Sys2Proof.Machine

open Sys2Proof.Claims

/-! ### The fetch of a run (R151, R294) -/

section
variable {s : State} {wk e : Nat} {c : Cx}

/-- A split that waits for its run, with no fetch of it held for a page. -/
structure Fetches (s : State) (wk e : Nat) (c : Cx) : Prop where
  stands : cxOf s wk e = some c
  wants : c.sp.wantsFetch = true
  free : ∀ h ∈ s.xlate.held, h.2.waiter ≠ .fetch wk e

theorem Fetches.goes_on (h : Fetches s wk e c) :
    (!c.sp.wantsFetch || s.xlate.held.any fun h => h.2.waiter == .fetch wk e) = false := by
  rw [h.wants, Bool.not_true, Bool.false_or, List.any_eq_false]
  intro x hx
  simpa using h.free x hx

theorem runFetch_denied (h : Fetches s wk e c) {cause : Nat} (hd : c.sp.stall = .denied cause) (hnow : trapsNow c) :
    exec (.runFetch wk e) s = Cx.trapBefore { c with sp := { c.sp with stall := .none } } cause true := by
  show execRunFetch wk e s = _
  unfold execRunFetch
  have hwait := Cx.mustWait_of_trapsNow hnow
  simp only [h.stands, h.goes_on, Bool.false_eq_true, if_false, hd, Cx.deniedFetch, hwait, if_true]

theorem runFetch_fault (h : Fetches s wk e c) {cause : Nat} {b : BufferSlot} (hd : ∀ cause, c.sp.stall ≠ .denied cause)
    (hslot : freeSlot s c.w = some b) (hf : fetchRun (partyOf s c.w) 24 s c.sp.run.start = .fault cause) :
    exec (.runFetch wk e) s = Cx.trapBefore { c with sp := { c.sp with status := .ready } } cause true := by
  show execRunFetch wk e s = _
  unfold execRunFetch
  simp only [h.stands, h.goes_on, Bool.false_eq_true, if_false, hslot, Config.runWords, hf]

/-- A split whose run has been fetched into slot b. -/
def Split.fetched (sp : Split) (ws : List Word) (b : BufferSlot) (now : Nat) : Split :=
  { sp with
    status := sp.fetching .ready
    readyAt := if sp.status == .waiting then now else sp.readyAt
    run := { sp.run with words := ws, slot := some b } }

theorem runFetch_fetches (h : Fetches s wk e c) {s1 : State} {ws : List Word} {d : Cx} {b : BufferSlot}
    (hd : ∀ cause, c.sp.stall ≠ .denied cause)
    (hslot : freeSlot s c.w = some b) (hf : fetchRun (partyOf s c.w) 24 s c.sp.run.start = .ok s1 ws) (hcx : cxOf s1 wk e = some d) :
    exec (.runFetch wk e) s = .next (Cx.commit { d with sp := d.sp.fetched ws b s.ticks }) := by
  obtain ⟨-, hwk, he, -, -⟩ := cxOf_fields h.stands
  have hreread : c.reread s1 = d := by rw [Cx.reread, hwk, he, hcx, Option.getD_some]
  show execRunFetch wk e s = _
  unfold execRunFetch
  simp only [h.stands, h.goes_on, Bool.false_eq_true, if_false, hslot, Config.runWords, hf, hreread]
  rfl

theorem cxOf_commit (c : Cx) :
    cxOf c.commit c.wk c.e = some { c with s := c.commit, w := { c.w with splits := Tab.put c.w.splits c.e c.sp } } := by
  simp [cxOf, Cx.commit]

end

theorem selectionAndFetchAlone : Sys2Proof.Claims.SelectionAndFetchAlone := by
  refine ⟨fun s q wk e w sp hw hcore hquarter hissues hsplits _ hsel hothers honly => ?_, fun s wk e c b hcx hwants hheld => ?_⟩
  · exact OneToIssue.issue ⟨hw, hcore, hquarter, hissues, hsplits, hsel, hothers, honly⟩
  · have hfetch : Fetches s wk e c := ⟨hcx, hwants, hheld⟩
    refine ⟨fun cause hd hnow => runFetch_denied hfetch hd hnow, fun hd hslot => ⟨fun s1 ws d hf hs1 => ?_, fun cause hf => ?_⟩⟩
    · have hexec := runFetch_fetches hfetch hd hslot hf hs1
      obtain ⟨rfl, rfl, rfl, -, -⟩ := cxOf_fields hs1
      exact ⟨_, _, hexec, cxOf_commit { d with sp := d.sp.fetched ws b s.ticks }, rfl, rfl, rfl, rfl, rfl⟩
    · exact runFetch_fault hfetch hd hslot hf

end Sys2Proof.Machine

namespace Sys2Proof.Machine

open Sys2Proof.Claims

/-! ### An acknowledgement (R209, R218) -/

theorem ackCounts_getD {u : List Nat} {scope j : Nat} (hj : j < u.length) :
    (ackCounts u scope).getD j 0 =
      if j = scope then u.getD scope 0 - 1 else if j < scope then min (u.getD j 0) (u.getD scope 0 - 1) else u.getD j 0 := by
  simp [ackCounts, List.getD_eq_getElem?_getD, hj]

theorem writesSeen_ack {s t : State} {party n : Nat}
    (h : t.xlate.invalidations = (ackInvalidations s party n).xlate.invalidations) : writesSeen s t party n := by
  rw [writesSeen, h, ackInvalidations]
  refine List.map_congr_left fun i _ => ?_
  congr 1
  refine List.map_congr_left fun x _ => ?_
  split <;> rfl

theorem mapMarkers_get? (s : State) (wk : Nat) (f : Nat → Nat → Nat → Nat) {c : Nat} {x : Cmd} (hx : Tab.get? s.cmds c = some x) :
    (∀ need scope earlier, x.warp = wk → x.kind = .marker need scope earlier →
      Tab.get? (mapMarkers s wk f).cmds c = some { x with kind := .marker (f c scope need) scope earlier }) ∧
    (x.warp ≠ wk → Tab.get? (mapMarkers s wk f).cmds c = some x) := by
  rw [mapMarkers, Tab.get?_map_of_key, hx, Option.map_some]
  · refine ⟨fun need scope earlier hwarp hkind => ?_, fun hwarp => ?_⟩
    · rw [if_pos hwarp]
      simp only [hkind]
    · rw [if_neg hwarp]
  · intro p
    split
    · split <;> rfl
    · rfl

section
variable {s : State} {wk scope : Nat} {w : Warp}

/-- The state after an acknowledgement to a warp. -/
def acknowledged (s : State) (wk scope : Nat) (w : Warp) : State :=
  let u := ackCounts w.unack scope
  ackMarkers { ackInvalidations s wk (w.unack.getD 2 0 - u.getD 2 0) with warps := Tab.put s.warps wk { w with unack := u } } wk w.unack u

theorem exec_writeAcknowledged (hk : wk < 2 ^ 65) (hw : Tab.get? s.warps wk = some w) (hheld : heldCount s wk < w.unack.getD scope 0) :
    exec (.writeAcknowledged wk scope) s = .next (acknowledged s wk scope w) := by
  show execWriteAcknowledged wk scope s = _
  rw [execWriteAcknowledged, if_neg (Nat.not_le.mpr hk), hw]
  exact if_neg (Nat.not_le.mpr hheld)

theorem acknowledged_warp (s : State) (wk scope : Nat) (w : Warp) :
    Tab.get? (acknowledged s wk scope w).warps wk = some { w with unack := ackCounts w.unack scope } :=
  Tab.get?_put_self _ _ _

theorem acknowledged_seen (s : State) (wk scope : Nat) (w : Warp) :
    writesSeen s (acknowledged s wk scope w) wk (w.unack.getD 2 0 - (ackCounts w.unack scope).getD 2 0) := writesSeen_ack rfl

theorem acknowledged_markers (s : State) (wk scope : Nat) (w : Warp) {c : Nat} {x : Cmd} (hx : Tab.get? s.cmds c = some x) :
    (∀ need sc earlier, x.warp = wk → x.kind = .marker need sc earlier →
      Tab.get? (acknowledged s wk scope w).cmds c = some { x with
        kind := .marker (max (need - (w.unack.getD sc 0 - (ackCounts w.unack scope).getD sc 0)) (heldBefore s wk c)) sc earlier }) ∧
    (x.warp ≠ wk → Tab.get? (acknowledged s wk scope w).cmds c = some x) := mapMarkers_get? _ wk _ hx

/-- The state after an acknowledgement to an engine program. -/
def acknowledgedEngine (s : State) (g scope : Nat) (e : Engine) : State :=
  let u := ackCounts e.unack scope
  { ackInvalidations s (engineKey g) (e.unack.getD 2 0 - u.getD 2 0) with
    wgs := Tab.upd s.wgs g fun x => { x with engine := some { e with unack := u } } }

theorem exec_writeAcknowledged_engine {g : Nat} {x : Workgroup} {e : Engine} (hg : Tab.get? s.wgs g = some x) (he : x.engine = some e) :
    exec (.writeAcknowledged (engineKey g) scope) s = .next (acknowledgedEngine s g scope e) := by
  have hkey : engineKey g - 2 ^ 65 = g := Nat.add_sub_cancel_left ..
  have hle : 2 ^ 65 ≤ engineKey g := Nat.le_add_right ..
  show execWriteAcknowledged (engineKey g) scope s = _
  rw [execWriteAcknowledged, if_pos hle, hkey, hg, Option.bind_some, he]
  rfl

end

end Sys2Proof.Machine

namespace Sys2Proof.Machine

open Sys2Proof.Claims

/-! ### A result written back (R84) -/

theorem foldl_of_none {σ β : Type} {f : σ → β → σ} {l : List β} {s : σ} (h : ∀ b ∈ l, f s b = s) : l.foldl f s = s := by
  induction l with
  | nil => rfl
  | cons b rest ih =>
    obtain ⟨hb, hrest⟩ := List.forall_mem_cons.mp h
    rw [List.foldl_cons, hb, ih hrest]

/-- A fold of which one element alone acts. -/
theorem foldl_of_one {σ β : Type} {f : σ → β → σ} {e : β} (P : σ → Prop) {l : List β} (hn : l.Nodup) (he : e ∈ l)
    (hother : ∀ b ∈ l, b ≠ e → ∀ s, P s → f s b = s) {s : σ} (hs : P s) (hf : P (f s e)) : l.foldl f s = f s e := by
  induction l with
  | nil => simp at he
  | cons b rest ih =>
    obtain ⟨hb, hrest⟩ := List.nodup_cons.mp hn
    obtain ⟨hob, horest⟩ := List.forall_mem_cons.mp hother
    rw [List.foldl_cons]
    rcases List.mem_cons.mp he with rfl | hmem
    · exact foldl_of_none fun x hx => horest x hx (fun h => hb (h ▸ hx)) _ hf
    · rw [hob (fun h => hb (h ▸ hmem)) s hs]
      exact ih hrest hmem horest

theorem backRow_getD (old : Row) (vs : List (Option (Word × Bool))) (i : Nat) {l : Nat} (hl : l < old.length) :
    (backRow 0 i old vs).getD l 0 = match vs.getD l none with | some x => x.1 | none => old.getD l 0 := by
  induction old generalizing vs i l with
  | nil => simp at hl
  | cons a old ih =>
    cases vs with
    | nil => rfl
    | cons v vs =>
      cases l with
      | zero =>
        cases v with
        | none => rfl
        | some x => simp [backRow]
      | succ l => exact ih vs (i + 1) (Nat.lt_of_succ_lt_succ hl)

/-- A vector result written back leaves all but the vector registers, and their poison, as it was. -/
theorem backRegs_fields {p : Pend} (hv : p.dest.vector = true) (c : Cx) (l : List Nat) :
    (l.foldl (backReg p) c).s = c.s ∧ (l.foldl (backReg p) c).wk = c.wk ∧ (l.foldl (backReg p) c).e = c.e ∧
      (l.foldl (backReg p) c).sp = c.sp ∧ (l.foldl (backReg p) c).w.splits = c.w.splits ∧ (l.foldl (backReg p) c).w.spill = c.w.spill := by
  induction l generalizing c with
  | nil => exact ⟨rfl, rfl, rfl, rfl, rfl, rfl⟩
  | cons k rest ih =>
    have hstep : backReg p c k = { c with w := { c.w with vregs := (backReg p c k).w.vregs, vregPoison := (backReg p c k).w.vregPoison } } := by
      unfold backReg
      simp only [hv, if_true]
    obtain ⟨h1, h2, h3, h4, h5, h6⟩ := ih (backReg p c k)
    rw [List.foldl_cons]
    rw [hstep] at h1 h2 h3 h4 h5 h6 ⊢
    exact ⟨h1, h2, h3, h4, h5, h6⟩

theorem backRegs_row {p : Pend} (hv : p.dest.vector = true) (c : Cx) (n r : Nat) :
    Tab.getD ((List.range n).foldl (backReg p) c).w.vregs r zeroRow =
      if p.dest.base ≤ r ∧ r < p.dest.base + n then
        backRow (p.kept.getD (r - p.dest.base) 0) 0 (Tab.getD c.w.vregs r zeroRow) (p.rows.getD (r - p.dest.base) [])
      else Tab.getD c.w.vregs r zeroRow := by
  induction n with
  | zero => rw [if_neg (by omega)]; rfl
  | succ n ih =>
    have hstep (d : Cx) : (backReg p d n).w.vregs = Tab.put d.w.vregs (p.dest.base + n)
        (backRow (p.kept.getD n 0) 0 (Tab.getD d.w.vregs (p.dest.base + n) zeroRow) (p.rows.getD n [])) := by
      unfold backReg
      simp only [hv, if_true]
    rw [List.range_succ, List.foldl_append, List.foldl_cons, List.foldl_nil, hstep, Tab.getD_put]
    by_cases hr : r = p.dest.base + n
    · subst hr
      rw [if_pos rfl, if_pos ⟨Nat.le_add_right .., by omega⟩, Nat.add_sub_cancel_left, ih, if_neg (by omega)]
    · rw [if_neg hr, ih]
      by_cases hin : p.dest.base ≤ r ∧ r < p.dest.base + n
      · rw [if_pos hin, if_pos ⟨hin.1, by omega⟩]
      · rw [if_neg hin, if_neg (by omega)]

section
variable {s : State} {wk e : Nat} {w : Warp} {sp : Split} {p : Pend}

/-- A vector result whose window has closed, that no handler will issue again. -/
structure LateVector (p : Pend) (sp : Split) : Prop where
  held : p.held = 0
  closed : p.open_ = false
  waiting : p.done = false
  window : p.window = 0
  left : p.inRun = false
  matched : p.mismatch = false
  vector : p.dest.vector = true
  kept : ∀ k, p.kept.getD k 0 = 0
  unfaulted : ∀ f ∈ sp.faults, f.pend ≠ some p.id

/-- Such a result, its value there, is written back, and leaves its split. -/
theorem LateVector.settleBacks (h : LateVector p sp) {c : Cx} (hf : c.sp.faults = sp.faults)
    (hp : c.sp.pend = [{ p with arrived := true }]) :
    c.settleBacks = { c.backAll { p with arrived := true } with sp := { c.sp with pend := [] } } := by
  have hdue : Pend.due { p with arrived := true } [] = true := by simp [Pend.due, h.held, h.closed, h.waiting, h.window]
  obtain ⟨-, -, -, hsp, -, -⟩ := backRegs_fields (p := { p with arrived := true }) h.vector c (List.range p.dest.count)
  have hsp : (c.backAll { p with arrived := true }).sp = c.sp := hsp
  have hclash : c.maskClash (c.backAll { p with arrived := true }) = false := by
    rw [Cx.maskClash, hsp]
    simp
  have hgone : (Pend.stays { p with arrived := true, done := true, mismatch := p.mismatch || false } ||
      Pend.reissues { p with arrived := true, done := true, mismatch := p.mismatch || false } c.sp.faults) = false := by
    simp only [Pend.stays, Pend.reissues, h.left, h.matched, hf, Bool.or_false, Bool.not_true, Bool.false_or, List.any_eq_false]
    intro f hfm
    simpa using h.unfaulted f hfm
  have hback : backDue [] c.sp.pend c =
      ([{ p with arrived := true, done := true, mismatch := p.mismatch || false }], c.backAll { p with arrived := true }) := by
    rw [hp]
    simp only [backDue, hdue, if_true, hclash, Bool.false_eq_true, if_false, Pend.giveWay, List.zip_nil_left, List.foldl_nil]
  rw [Cx.settleBacks, hback, hsp]
  simp only [List.filter_cons, hgone, Bool.false_eq_true, if_false, List.filter_nil]

theorem LateVector.row (h : LateVector p sp) (c : Cx) (hrows : ∀ r ∈ c.w.vregs, r.2.length = 96) (r : Nat) {l : Nat} (hl : l < 96) :
    (Tab.getD (c.backAll { p with arrived := true }).w.vregs r zeroRow).getD l 0 =
      match (if p.dest.base ≤ r ∧ r < p.dest.base + p.dest.count then (p.rows.getD (r - p.dest.base) []).getD l none else none) with
      | some x => x.1
      | none => (Tab.getD c.w.vregs r zeroRow).getD l 0 := by
  have hlen : (Tab.getD c.w.vregs r zeroRow).length = 96 := by
    rw [Tab.getD]
    cases hget : Tab.get? c.w.vregs r with
    | none => exact List.length_replicate
    | some row => exact hrows _ (Tab.get?_mem hget)
  rw [Cx.backAll, backRegs_row (p := { p with arrived := true }) h.vector]
  dsimp only
  split
  · rw [h.kept]
    exact backRow_getD _ _ 0 (by rw [hlen]; exact hl)
  · rfl

/-- The state in which the result has its value. -/
def withValue (s : State) (wk : Nat) (w : Warp) (id : Nat) : State :=
  let got (q : Pend) : Pend := if q.id = id ∧ q.held = 0 ∧ !q.open_ then { q with arrived := true } else q
  { s with warps := Tab.put s.warps wk (w.mapPends got) }

/-- The results of the split in an entry of the warp, where one stands there. -/
def settleEntry (s : State) (wk e : Nat) : State := match cxOf s wk e with | some c => c.settleBacks.commit | none => s

theorem settleEntry_of_some {c : Cx} (h : cxOf s wk e = some c) : settleEntry s wk e = c.settleBacks.commit := by
  rw [settleEntry, h]

theorem settleEntry_of_none (h : cxOf s wk e = none) : settleEntry s wk e = s := by
  rw [settleEntry, h]

theorem settleWarp_eq (s : State) (wk : Nat) : settleWarp s wk =
    (List.range Config.spillRecords).foldl (fun s k => settleSpilled s wk k)
      ((List.range Config.splitEntries).foldl (fun s e => settleEntry s wk e) s) := rfl

/-- A warp of one split, with nothing spilled: settling it settles the results of that split. -/
theorem settleWarp_of_one {c : Cx} (hcx : cxOf s wk e = some c) (he : e < 8) (hsplits : c.w.splits = [(e, c.sp)]) (hspill : c.w.spill = [])
    (hkeep : c.settleBacks.wk = wk ∧ c.settleBacks.e = e ∧ c.settleBacks.w.splits = c.w.splits ∧ c.settleBacks.w.spill = c.w.spill) :
    settleWarp s wk = c.settleBacks.commit := by
  obtain ⟨hwk, hent, hsp, hsl⟩ := hkeep
  have hwarp : Tab.get? c.settleBacks.commit.warps wk =
      some { c.settleBacks.w with splits := [(e, c.settleBacks.sp)] } := by
    rw [Cx.commit, hwk, hent, hsp, hsplits]
    simp [Tab.put]
  obtain ⟨-, -, -, hget, -⟩ := cxOf_fields hcx
  have halone (t : State) (v : Warp) (sp : Split) (ht : Tab.get? t.warps wk = some v) (hv : v.splits = [(e, sp)]) {b : Nat} (hb : b ≠ e) :
      cxOf t wk b = none := by
    simp [cxOf, ht, hv, Tab.get?, Ne.symm hb]
  have hfold : (List.range Config.splitEntries).foldl (fun s e => settleEntry s wk e) s = c.settleBacks.commit := by
    have hentry := settleEntry_of_some hcx
    refine (foldl_of_one (e := e) (fun t => ∃ v sp, Tab.get? t.warps wk = some v ∧ v.splits = [(e, sp)]) List.nodup_range
      (List.mem_range.mpr he) ?_ ⟨_, _, hget, hsplits⟩ ?_).trans hentry
    · rintro b _ hb t ⟨v, sp, ht, hv⟩
      exact settleEntry_of_none (halone t v sp ht hv hb)
    · rw [hentry]
      exact ⟨_, _, hwarp, rfl⟩
  rw [settleWarp_eq, hfold]
  refine foldl_of_none fun k _ => ?_
  unfold settleSpilled
  simp only [hwarp, hsl, hspill, List.drop_nil]

end

end Sys2Proof.Machine

namespace Sys2Proof.Machine

open Sys2Proof.Claims

section
variable {s : State} {wk e : Nat} {w : Warp} {sp : Split} {p : Pend}

/-- The split with its one result's value there. -/
def arrivedAt (s : State) (wk : Nat) (w : Warp) (e : Nat) (sp : Split) (p : Pend) : Cx :=
  ⟨withValue s wk w p.id, wk, { w with splits := [(e, { sp with pend := [{ p with arrived := true }] })], spill := [] }, e,
    { sp with pend := [{ p with arrived := true }] }⟩

theorem LateVector.cxOf_withValue (h : LateVector p sp) (hsplits : w.splits = [(e, sp)]) (hspill : w.spill = []) (hp : sp.pend = [p]) :
    cxOf (withValue s wk w p.id) wk e = some (arrivedAt s wk w e sp p) := by
  have hgot : w.mapPends (fun q => if q.id = p.id ∧ q.held = 0 ∧ !q.open_ then { q with arrived := true } else q) =
      { w with splits := [(e, { sp with pend := [{ p with arrived := true }] })], spill := [] } := by
    simp only [Warp.mapPends, Tab.mapVal, hsplits, hspill, hp, List.map_cons, List.map_nil]
    rw [if_pos (by simp [h.held, h.closed])]
  simp only [cxOf, withValue, hgot, Tab.get?_put_self, Tab.get?, if_true]
  simp only [arrivedAt, withValue, hgot]

theorem longLatencyWriteback_result (h : LateVector p sp) (hw : Tab.get? s.warps wk = some w) (he : e < 8) (hsplits : w.splits = [(e, sp)])
    (hspill : w.spill = []) (hp : sp.pend = [p]) (hrows : ∀ r ∈ w.vregs, r.2.length = 96) :
    ∃ t v sp', exec (.longLatencyWriteback wk p.id) s = .next t ∧ Tab.get? t.warps wk = some v ∧ v.splits = [(e, sp')] ∧
      sp'.pend = [] ∧ { sp' with pend := sp.pend } = sp ∧
      ∀ r l, l < 96 → (Tab.getD v.vregs r zeroRow).getD l 0 =
        match (if p.dest.base ≤ r ∧ r < p.dest.base + p.dest.count then (p.rows.getD (r - p.dest.base) []).getD l none else none) with
        | some x => x.1
        | none => (Tab.getD w.vregs r zeroRow).getD l 0 := by
  have hcx := h.cxOf_withValue (s := s) (wk := wk) hsplits hspill hp
  have hback := h.settleBacks (c := arrivedAt s wk w e sp p) rfl rfl
  obtain ⟨-, hwk, hent, -, hsp, hsl⟩ := backRegs_fields (p := { p with arrived := true }) h.vector (arrivedAt s wk w e sp p)
    (List.range p.dest.count)
  have hsettle := settleWarp_of_one hcx he rfl rfl (by rw [hback]; exact ⟨hwk, hent, hsp, hsl⟩)
  have hexec : exec (.longLatencyWriteback wk p.id) s = .next (arrivedAt s wk w e sp p).settleBacks.commit := by
    show execLongLatencyWriteback wk p.id s = _
    unfold execLongLatencyWriteback
    simp only [hw]
    exact congrArg Host.Outcome.next hsettle
  rw [hback] at hexec
  refine ⟨_, { (Cx.backAll (arrivedAt s wk w e sp p) { p with arrived := true }).w with splits := [(e, { sp with pend := [] })] },
    { sp with pend := [] }, hexec, ?_, rfl, rfl, rfl, fun r l hl => h.row (arrivedAt s wk w e sp p) hrows r hl⟩
  have hput : Tab.put (Cx.backAll (arrivedAt s wk w e sp p) { p with arrived := true }).w.splits e { sp with pend := [] } =
      [(e, { sp with pend := [] })] := by
    rw [show (Cx.backAll (arrivedAt s wk w e sp p) { p with arrived := true }).w.splits = _ from hsp]
    simp [arrivedAt, Tab.put]
  have hwk : (Cx.backAll (arrivedAt s wk w e sp p) { p with arrived := true }).wk = wk := hwk
  have hent : (Cx.backAll (arrivedAt s wk w e sp p) { p with arrived := true }).e = e := hent
  rw [← hput]
  simp only [Cx.commit, hwk, hent, Tab.get?_put_self]
  rfl

end

theorem arrivals : Sys2Proof.Claims.Arrivals := by
  refine ⟨fun s wk e w sp p hw he hsplits hspill hp hheld hopen hdone hwindow hrun hmis hvec hkept hrows hfaults => ?_,
    fun s wk scope w hk hw hlen hscope hheld => ?_, fun s g scope x e hg he hlen hscope => ?_⟩
  · exact longLatencyWriteback_result ⟨hheld, hopen, hdone, hwindow, hrun, hmis, hvec, hkept, hfaults⟩ hw he hsplits hspill hp hrows
  · have hafter (j : Nat) (hj : j < 5) := ackCounts_getD (scope := scope) (hlen ▸ hj : j < w.unack.length)
    intro n after
    refine ⟨_, _, exec_writeAcknowledged hk hw hheld, acknowledged_warp s wk scope w, rfl, hafter, fun k hne => Tab.get?_put_ne _ _ _ _ hne, rfl,
      rfl, ?_, fun c x hx => ⟨fun need sc earlier hwarp hkind hsc => ?_, (acknowledged_markers s wk scope w hx).2⟩⟩
    · have hseen := acknowledged_seen s wk scope w
      rwa [hafter 2 (by decide)] at hseen
    · have hmark := (acknowledged_markers s wk scope w hx).1 need sc earlier hwarp hkind
      rwa [hafter sc hsc] at hmark
  · have hget : Tab.get? (acknowledgedEngine s g scope e).wgs g = some { x with engine := some { e with unack := ackCounts e.unack scope } } := by
      refine (Tab.get?_upd _ _ _ _).trans ((if_pos rfl).trans ?_)
      rw [hg]
      rfl
    refine ⟨_, _, _, exec_writeAcknowledged_engine hg he, hget, rfl, rfl, rfl, ?_, rfl, rfl, writesSeen_ack rfl⟩
    rw [ackCounts_getD (by rw [hlen]; exact hscope), if_pos rfl]

/-- Settles O51: a quarter's one split is chosen whatever its age and marks, a fetch ends as its run of words does, and results and
acknowledgements change what awaits them. -/
theorem selectionAndFetch : Obligations.SelectionAndFetch := ⟨selectionAndFetchAlone, arrivals⟩

end Sys2Proof.Machine

namespace Sys2Proof.Machine

open Sys2Proof.Claims

/-! ### One write after another -/

/-- What one set of writes allows, another allows too. -/
structure Writes.Within (a b : Writes) : Prop where
  scalars : ∀ n ∈ a.scalars, n ∈ b.scalars := by simp [Writes.none, writesVectors, writesArith]
  vectors : ∀ n ∈ a.vectors, n ∈ b.vectors := by simp [Writes.none, writesVectors, writesArith]
  preds : ∀ n ∈ a.preds, n ∈ b.preds := by simp [Writes.none, writesVectors, writesArith]
  lanes : ∀ l, a.lanes.getLsbD l = true → b.lanes.getLsbD l = true := by simp [Writes.none, writesVectors, writesArith]
  status : a.status = true → b.status = true := by simp [Writes.none, writesVectors, writesArith]
  draws : a.draws = true → b.draws = true := by simp [Writes.none, writesVectors, writesArith]

theorem Keeps.mono {a b : Writes} {c d : Cx} (h : Keeps a c d) (w : a.Within b) : Keeps b c d := by
  obtain ⟨h1, h2, h3, h4, h5, h6, h7, h8, h9, h10, h11⟩ := h
  refine ⟨h1, h2, h3, h4, h5, fun n hn hm => h6 n hn (mt (w.scalars n) hm),
    fun r l hl hm => h7 r l hl (mt (And.imp (w.vectors r) (w.lanes l)) hm),
    fun n l hl hm => h8 n l hl (mt (And.imp (w.preds n) (w.lanes l)) hm), h9, ?_, fun hd => h11 ?_⟩
  · cases ha : a.status with
    | true => simpa [w.status ha, ha] using h10
    | false =>
      have same : d.sp.fpst = c.sp.fpst := by simpa [ha] using h10
      simp [same]
  · exact Bool.eq_false_iff.mpr fun ha => by simp [w.draws ha] at hd

theorem Keeps.trans {ws : Writes} {c d e : Cx} (h : Keeps ws c d) (g : Keeps ws d e) : Keeps ws c e := by
  obtain ⟨h1, h2, h3, h4, h5, h6, h7, h8, h9, h10, h11⟩ := h
  obtain ⟨g1, g2, g3, g4, g5, g6, g7, g8, g9, g10, g11⟩ := g
  refine ⟨g1.trans h1, g2.trans h2, g3.trans h3, g4.trans h4, g5.trans h5, fun n hn hm => (g6 n hn hm).trans (h6 n hn hm),
    fun r l hl hm => (g7 r l hl hm).trans (h7 r l hl hm), fun n l hl hm => (g8 n l hl hm).trans (h8 n l hl hm), g9.trans h9, ?_,
    fun hd => (g11 hd).trans (h11 hd)⟩
  by_cases hs : ws.status = true
  · rw [if_pos hs] at h10 g10 ⊢
    rw [← h10, BitVec.and_assoc, g10]
  · rw [if_neg hs] at h10 g10 ⊢
    exact g10.trans h10

theorem Keeps.refl (c : Cx) : Keeps Writes.none c c :=
  ⟨rfl, rfl, rfl, rfl, rfl, fun _ _ _ => rfl, fun _ _ _ _ => rfl, fun _ _ _ _ => rfl, rfl, rfl, fun _ => rfl⟩

/-- No write this layer speaks of touches the mode register. -/
theorem Keeps.mode {ws : Writes} {c d : Cx} (h : Keeps ws c d) : d.sp.mode = c.sp.mode := by
  obtain ⟨-, -, -, -, h, -⟩ := h
  exact show d.sp.rest.mode = c.sp.rest.mode by rw [h]

theorem Keeps.type {ws : Writes} {c d : Cx} (h : Keeps ws c d) : d.type = c.type := congrArg modeType h.mode

/-! ### Vector operands -/

theorem Cx.shaped_iff (c : Cx) : c.shaped = true ↔ c.sp.scalars.length = 64 ∧ c.w.preds.length = 8 ∧ c.w.joins.length = 4 ∧
    Tab.Each Row.Sized c.w.vregs ∧ Tab.Each Row.Sized c.sp.temps := by
  simp [Cx.shaped, Tab.Each, Row.Sized, and_assoc]

theorem Cx.putRow_shaped {c : Cx} (r : Nat) (m : Mask) (new : Row) (h : c.shaped = true) : (c.putRow r m new).shaped = true := by
  have hrow : Row.Sized (mergeRow m (c.row r) new) := mergeRow_sized (c.row_length h r)
  obtain ⟨hs, hp, hj, hv, ht⟩ := c.shaped_iff.mp h
  unfold Cx.putRow
  dsimp only
  split
  · exact (Cx.shaped_iff _).mpr ⟨hs, hp, hj, hv.put hrow, ht⟩
  · exact (Cx.shaped_iff _).mpr ⟨hs, hp, hj, hv, ht.put hrow⟩

theorem Cx.putRow_lane_ne (c : Cx) {r q : Nat} (m : Mask) (new : Row) (l : Nat) (h : q ≠ r) :
    (c.putRow r m new).lane q l = c.lane q l := by
  rw [Cx.lane, Cx.lane, c.putRow_row, if_neg h]

theorem Cx.operand_length {c : Cx} (h : c.shaped = true) (r : Nat) (wide : Bool) : (c.operand r wide).length = 96 := by
  unfold Cx.operand
  split <;> simp [c.row_length h]

theorem Cx.operand_getElem? {c : Cx} (h : c.shaped = true) (r : Nat) (wide : Bool) {l : Nat} (hl : l < 96) :
    (c.operand r wide)[l]? = some (c.wideLane r wide l) := by
  have hr (q : Nat) : (c.row q)[l]? = some (c.lane q l) := by
    have hq : l < (c.row q).length := by rwa [c.row_length h]
    simp [Cx.lane, List.getD_eq_getElem?_getD, hq]
  unfold Cx.operand Cx.wideLane
  split
  · rw [List.getElem?_zipWith, hr, hr]
  · rw [List.getElem?_map, hr]
    rfl

theorem Cx.operand_getD {c : Cx} (h : c.shaped = true) (r : Nat) (wide : Bool) {l : Nat} (hl : l < 96) :
    (c.operand r wide).getD l 0 = c.wideLane r wide l := by
  rw [List.getD_eq_getElem?_getD, Cx.operand_getElem? h r wide hl]
  rfl

theorem Cx.putOperand_shaped {c : Cx} (r : Nat) (wide : Bool) (m : Mask) (vals : List DWord) (h : c.shaped = true) :
    (c.putOperand r wide m vals).shaped = true := by
  unfold Cx.putOperand
  split
  · exact Cx.putRow_shaped _ _ _ (Cx.putRow_shaped _ _ _ h)
  · exact Cx.putRow_shaped _ _ _ h

theorem Cx.putRow_keeps_of_mem (c : Cx) {r : Nat} {l : List Nat} (h : r ∈ l) (m : Mask) (new : Row) :
    Keeps (writesVectors l m) c (c.putRow r m new) :=
  (c.putRow_keeps r m new).mono { vectors := by simpa [writesVectors] using h }

theorem mem_regsFrom {r n k : Nat} (h : k < n) : r + k ∈ regsFrom r n := List.mem_map.mpr ⟨k, List.mem_range.mpr h, rfl⟩

/-- A vector result is written in its register or pair, in the lanes of the mask. -/
theorem Cx.putOperand_keeps (c : Cx) (r : Nat) (wide : Bool) (m : Mask) (vals : List DWord) :
    Keeps (writesVectors (regsFrom r (if wide then 2 else 1)) m) c (c.putOperand r wide m vals) := by
  unfold Cx.putOperand
  cases wide with
  | true =>
    exact (c.putRow_keeps_of_mem (mem_regsFrom (by decide : 0 < 2)) m _).trans
      (Cx.putRow_keeps_of_mem _ (mem_regsFrom (by decide : 1 < 2)) m _)
  | false => exact c.putRow_keeps_of_mem (mem_regsFrom (by decide : 0 < 1)) m _

theorem pair_lo_hi (v : DWord) : pair (loWord v) (hiWord v) = v := by
  apply BitVec.eq_of_getLsbD_eq
  intro i hi
  simp only [pair, loWord, hiWord, BitVec.getLsbD_append, BitVec.getLsbD_setWidth, BitVec.getLsbD_ushiftRight]
  by_cases h : i < 32
  · simp [h]
  · have h2 : i - 32 < 32 := by omega
    simp [h, h2, show 32 + (i - 32) = i by omega]

/-- The value a lane reads back of a vector result. -/
theorem Cx.putOperand_wideLane {c : Cx} (h : c.shaped = true) (r : Nat) (wide : Bool) (m : Mask) (vals : List DWord) {l : Nat}
    (hl : l < 96) (hv : vals.length = 96) (hm : m.getLsbD l = true) :
    (c.putOperand r wide m vals).wideLane r wide l =
      if wide then vals.getD l 0 else (loWord (vals.getD l 0)).setWidth 64 := by
  have hget (f : DWord → Word) (hf : f 0 = 0) : (vals.map f).getD l 0 = f (vals.getD l 0) := by
    rw [← hf, List.getD_map]
  have hlane (d : Cx) (hd : d.shaped = true) (q : Nat) (f : DWord → Word) (hf : f 0 = 0) :
      (d.putRow q m (vals.map f)).lane q l = f (vals.getD l 0) := by
    rw [d.putRow_lane q m _ l hm (by rwa [d.row_length hd]) (by simpa [hv] using hl), hget f hf]
  cases wide with
  | true =>
    simp only [Cx.putOperand, Cx.wideLane, if_true]
    rw [Cx.putRow_lane_ne _ _ _ _ (by omega), hlane c h r loWord rfl, hlane _ (Cx.putRow_shaped _ _ _ h) _ hiWord rfl,
      pair_lo_hi]
  | false =>
    simp only [Cx.putOperand, Cx.wideLane, Bool.false_eq_true, if_false]
    rw [hlane c h r loWord rfl]

/-! ### Status and stochastic counts -/

theorem Cx.setStatus_keeps (c : Cx) (f : Flags) : Keeps { Writes.none with status := true } c (c.setStatus f) := by
  refine ⟨rfl, rfl, rfl, rfl, rfl, fun _ _ _ => rfl, fun _ _ _ _ => rfl, fun _ _ _ _ => rfl, rfl, ?_, fun _ => rfl⟩
  show c.sp.fpst &&& (c.sp.fpst ||| flagsWord f) = c.sp.fpst
  apply BitVec.eq_of_getLsbD_eq
  intro i _
  simp only [BitVec.getLsbD_and, BitVec.getLsbD_or]
  cases c.sp.fpst.getLsbD i <;> rfl

/-- Without a status bit earned, nothing changes. -/
theorem Cx.setStatus_noFlags (c : Cx) : c.setStatus noFlags = c := by
  have h : stickyFlags c.sp.fpst noFlags = c.sp.fpst := BitVec.or_zero
  rw [Cx.setStatus, h]

@[simp] theorem Cx.setStatus_shaped (c : Cx) (f : Flags) : (c.setStatus f).shaped = c.shaped := rfl

@[simp] theorem Cx.setStatus_lane (c : Cx) (f : Flags) (r l : Nat) : (c.setStatus f).lane r l = c.lane r l := rfl

theorem Cx.countSr_keeps (c : Cx) (rm : Rnd) (m : Mask) :
    Keeps { Writes.none with draws := decide (rm = .sr) } c (c.countSr rm m) := by
  unfold Cx.countSr
  split
  · next h => exact ⟨rfl, rfl, rfl, rfl, rfl, fun _ _ _ => rfl, fun _ _ _ _ => rfl, fun _ _ _ _ => rfl, rfl, rfl, by simp [h]⟩
  · exact (Keeps.refl c).mono {}

@[simp] theorem Cx.countSr_shaped (c : Cx) (rm : Rnd) (m : Mask) : (c.countSr rm m).shaped = c.shaped := by
  unfold Cx.countSr
  split <;> rfl

@[simp] theorem Cx.countSr_lane (c : Cx) (rm : Rnd) (m : Mask) (r l : Nat) : (c.countSr rm m).lane r l = c.lane r l := by
  unfold Cx.countSr
  split <;> rfl

theorem allFlags_eq_noFlags {l : List Flags} (h : ∀ f ∈ l, f = noFlags) : allFlags l = noFlags := by
  unfold allFlags
  induction l with
  | nil => rfl
  | cons f l ih =>
    obtain ⟨hf, hl⟩ := List.forall_mem_cons.mp h
    rw [List.foldl_cons, hf]
    exact ih hl

end Sys2Proof.Machine

namespace Sys2Proof.Machine

open Sys2Proof.Claims

/-! ### Elements of a lane (R58) -/

theorem isWide64_of_elemType {code : Nat} {t : ElemType} (h : elemTypeOf code = some t) :
    isWide64 code = decide (elemBits t = 64) := by
  unfold elemTypeOf at h
  split at h <;> cases h <;> rfl

theorem elemBits_mul_elemCount (t : ElemType) : elemBits t * elemCount t = if elemBits t = 64 then 64 else 32 := by
  cases t <;> rfl

theorem elemBits_pos (t : ElemType) : 0 < elemBits t := by cases t <;> decide

theorem elemAt_lt (w k x : Nat) : elemAt w k x < 2 ^ w := Nat.mod_lt _ (Nat.two_pow_pos w)

theorem packElems_lt {w : Nat} {l : List Nat} (h : ∀ x ∈ l, x < 2 ^ w) : packElems w l < 2 ^ (w * l.length) := by
  induction l with
  | nil => simp [packElems]
  | cons x l ih =>
    obtain ⟨hx, hl⟩ := List.forall_mem_cons.mp h
    have hp : packElems w l + 1 ≤ 2 ^ (w * l.length) := ih hl
    calc packElems w (x :: l) < 2 ^ w * (packElems w l + 1) := by rw [packElems, Nat.mul_add]; omega
      _ ≤ 2 ^ w * 2 ^ (w * l.length) := Nat.mul_le_mul_left _ hp
      _ = 2 ^ (w * (x :: l).length) := by rw [← Nat.pow_add, List.length_cons, Nat.mul_add, Nat.mul_one, Nat.add_comm]

/-- An element reads back as it was packed. -/
theorem elemAt_packElems {w : Nat} {l : List Nat} (h : ∀ x ∈ l, x < 2 ^ w) {k : Nat} (hk : k < l.length) :
    elemAt w k (packElems w l) = l.getD k 0 := by
  induction l generalizing k with
  | nil => simp at hk
  | cons x l ih =>
    obtain ⟨hx, hl⟩ := List.forall_mem_cons.mp h
    cases k with
    | zero => simp [elemAt, packElems, Nat.mod_eq_of_lt hx]
    | succ k =>
      have hrec := ih hl (Nat.succ_lt_succ_iff.mp hk)
      have hdiv : packElems w (x :: l) / 2 ^ w = packElems w l := by
        rw [packElems, Nat.add_mul_div_left _ _ (Nat.two_pow_pos w), Nat.div_eq_of_lt hx, Nat.zero_add]
      rw [List.getD_cons_succ, ← hrec, elemAt, elemAt, Nat.mul_succ, Nat.add_comm, Nat.pow_add, ← Nat.div_div_eq_div_mul, hdiv]

/-- The elements a lane holds once their packed value has been written in it. -/
theorem Cx.elem_of_packed {c : Cx} {t : ElemType} (ht : elemTypeOf c.type = some t) {r l k : Nat} {es : List Nat}
    (hes : ∀ x ∈ es, x < 2 ^ elemBits t) (hlen : es.length = elemCount t) (hk : k < elemCount t)
    (h : c.wideLane r (isWide64 c.type) l = if isWide64 c.type then BitVec.ofNat 64 (packElems (elemBits t) es)
      else (loWord (BitVec.ofNat 64 (packElems (elemBits t) es))).setWidth 64) :
    c.elem t r l k = es.getD k 0 := by
  have hlt := packElems_lt hes
  rw [hlen, elemBits_mul_elemCount] at hlt
  have hval : (c.wideLane r (isWide64 c.type) l).toNat = packElems (elemBits t) es := by
    rw [h, isWide64_of_elemType ht]
    by_cases hw : elemBits t = 64
    · rw [if_pos hw] at hlt
      simp only [hw, decide_true, if_true, BitVec.toNat_ofNat]
      rw [hw] at hlt
      exact Nat.mod_eq_of_lt hlt
    · rw [if_neg hw] at hlt
      simp only [hw, decide_false, Bool.false_eq_true, if_false, loWord, BitVec.toNat_setWidth, BitVec.toNat_ofNat]
      omega
  rw [Cx.elem, hval, elemAt_packElems hes (by omega)]

/-! ### A typed instruction, lane by lane (R66, R109) -/

theorem zipLanes_getElem? {m : Mask} {f : Nat → DWord → DWord → DWord → DWord × Flags} {i l : Nat} {as bs ds : List DWord}
    {a b d : DWord} (ha : as[l]? = some a) (hb : bs[l]? = some b) (hd : ds[l]? = some d) :
    (zipLanes m f i as bs ds)[l]? = some (if m.getLsbD (i + l) then f (i + l) a b d else (d, noFlags)) := by
  induction l generalizing i as bs ds with
  | zero =>
    obtain ⟨_, rfl⟩ : ∃ as', as = a :: as' := by cases as <;> simp_all
    obtain ⟨_, rfl⟩ : ∃ bs', bs = b :: bs' := by cases bs <;> simp_all
    obtain ⟨_, rfl⟩ : ∃ ds', ds = d :: ds' := by cases ds <;> simp_all
    simp [zipLanes]
  | succ l ih =>
    cases as with
    | nil => simp at ha
    | cons x as =>
      cases bs with
      | nil => simp at hb
      | cons y bs =>
        cases ds with
        | nil => simp at hd
        | cons z ds =>
          have := ih (i := i + 1) ha hb hd
          simpa [zipLanes, Nat.add_right_comm i l 1, Nat.add_assoc i 1 l, Nat.add_comm 1 l] using this

theorem zipLanes_length (m : Mask) (f : Nat → DWord → DWord → DWord → DWord × Flags) (i : Nat) (as bs ds : List DWord) :
    (zipLanes m f i as bs ds).length = min as.length (min bs.length ds.length) := by
  induction as generalizing i bs ds with
  | nil => simp [zipLanes]
  | cons a as ih =>
    cases bs with
    | nil => simp [zipLanes]
    | cons b bs =>
      cases ds with
      | nil => simp [zipLanes]
      | cons d ds => simp [zipLanes, ih]

/-- Where no lane's computation earns a status bit, none is earned. -/
theorem zipLanes_noFlags {m : Mask} {f : Nat → DWord → DWord → DWord → DWord × Flags} {i : Nat} {as bs ds : List DWord}
    (h : ∀ l a b d, (f l a b d).2 = noFlags) : allFlags ((zipLanes m f i as bs ds).map fun r => r.2) = noFlags := by
  refine allFlags_eq_noFlags fun x hx => ?_
  obtain ⟨r, hr, rfl⟩ := List.mem_map.mp hx
  induction as generalizing i bs ds with
  | nil => simp [zipLanes] at hr
  | cons a as ih =>
    cases bs with
    | nil => simp [zipLanes] at hr
    | cons b bs =>
      cases ds with
      | nil => simp [zipLanes] at hr
      | cons d ds =>
        simp only [zipLanes, List.mem_cons] at hr
        rcases hr with rfl | hr
        · split
          · exact h _ _ _ _
          · rfl
        · exact ih hr (List.mem_map_of_mem hr)

/-- What a typed instruction knows of an element beside its operands. -/
def Cx.elemCx (c : Cx) (t : ElemType) (x lane k : Nat) : ElemCx :=
  { t := t, rm := c.rounding x, sat := modeSat c.sp.mode, ftz := modeFtz c.sp.mode, bits := c.srDraw (c.rounding x) lane k }

/-- The results of a typed instruction, one per lane. -/
def Cx.typedResults (c : Cx) (t : ElemType) (d a b x : Nat) (f : ElemCx → Nat → Nat → Nat → Nat → Nat × Flags) :
    List (DWord × Flags) :=
  zipLanes c.active (fun lane => laneElems t fun k => f (c.elemCx t x lane k) k) 0 (c.operand a (isWide64 c.type))
    (c.operand b (isWide64 c.type)) (c.operand d (isWide64 c.type))

/-- A vector result written with the status it earned, and the draws counted where it counts them. -/
def Cx.writeResult (c : Cx) (d : Nat) (wide : Bool) (m : Mask) (vals : List DWord) (flags : Flags) (counts : Bool) (rm : Rnd) : Cx :=
  let e := (c.putOperand d wide m vals).setStatus flags
  if counts then e.countSr rm m else e

section

variable {c : Cx} {d : Nat} {wide : Bool} {m : Mask} {vals : List DWord} {flags : Flags} {counts : Bool} {rm : Rnd}

theorem Cx.writeResult_shaped (h : c.shaped = true) : (c.writeResult d wide m vals flags counts rm).shaped = true := by
  unfold Cx.writeResult
  dsimp only
  split <;> simp [Cx.putOperand_shaped _ _ _ _ h]

theorem Cx.writeResult_lane (r l : Nat) :
    (c.writeResult d wide m vals flags counts rm).lane r l = (c.putOperand d wide m vals).lane r l := by
  unfold Cx.writeResult
  dsimp only
  split
  · rw [Cx.countSr_lane, Cx.setStatus_lane]
  · rw [Cx.setStatus_lane]

theorem Cx.writeResult_wideLane (h : c.shaped = true) {l : Nat} (hl : l < 96) (hv : vals.length = 96) (hm : m.getLsbD l = true) :
    (c.writeResult d wide m vals flags counts rm).wideLane d wide l =
      if wide then vals.getD l 0 else (loWord (vals.getD l 0)).setWidth 64 := by
  rw [← Cx.putOperand_wideLane h d wide m vals hl hv hm, Cx.wideLane, Cx.wideLane, Cx.writeResult_lane, Cx.writeResult_lane]

/-- It writes its destination in the lanes of the mask, and status bits; the stochastic counts only under SR. -/
theorem Cx.writeResult_keeps : Keeps (writesArith (regsFrom d (if wide then 2 else 1)) m (counts && decide (rm = .sr))) c
    (c.writeResult d wide m vals flags counts rm) := by
  have h := ((c.putOperand_keeps d wide m vals).mono (b := writesArith (regsFrom d (if wide then 2 else 1)) m
    (counts && decide (rm = .sr))) { vectors := fun n hn => hn }).trans ((Cx.setStatus_keeps _ flags).mono {})
  unfold Cx.writeResult
  dsimp only
  by_cases hc : counts = true
  · rw [if_pos hc]
    exact h.trans ((Cx.countSr_keeps _ _ _).mono { draws := by simp [hc, writesArith, Writes.none] })
  · rw [if_neg hc]
    exact h

/-- With no status bit earned and no draw counted, its destination alone is written. -/
theorem Cx.writeResult_quiet : c.writeResult d wide m vals noFlags false rm = c.putOperand d wide m vals := by
  simp [Cx.writeResult, Cx.setStatus_noFlags]

end

/-- The split as a typed instruction leaves it. -/
def Cx.typedWrite (c : Cx) (t : ElemType) (d a b x : Nat) (counts : Bool) (f : ElemCx → Nat → Nat → Nat → Nat → Nat × Flags) : Cx :=
  let rs := c.typedResults t d a b x f
  c.writeResult d (isWide64 c.type) c.active (rs.map fun r => r.1) (allFlags (rs.map fun r => r.2)) (counts && classOfType t != .int)
    (c.rounding x)

theorem vecTyped_of_ready {i : Instr} {s : State} {c : Cx} {t : ElemType} (hr : Ready i s c) (ht : elemTypeOf c.type = some t)
    (d a b : BitVec 7) (x : Nat) (counts : Bool) (f : ElemCx → Nat → Nat → Nat → Nat → Nat × Flags) :
    vecTyped i s d a b x counts f = ((c.settle i).typedWrite t d.toNat a.toNat b.toNat x counts f).done := by
  have ht' : elemTypeOf (c.settle i).type = some t := ht
  rw [vecTyped, issueSplit_of_ready hr, ht']
  rfl

/-- An instruction that ends with the split it leaves. -/
theorem Does.of_done {i : Instr} {s : State} {c d : Cx} {ws : Writes} {also : Cx → Prop} (he : exec i s = d.done)
    (hk : Keeps ws (c.settle i) d) (hs : d.shaped = true) (ha : also d) : Does i s c ws also :=
  ⟨d, he, (c.settle_keeps i).after_nothing hk, hs, ha⟩

section

variable {c : Cx} {t : ElemType} {d a b x : Nat} {counts : Bool} {f : ElemCx → Nat → Nat → Nat → Nat → Nat × Flags}

theorem Cx.typedResults_length (h : c.shaped = true) : (c.typedResults t d a b x f).length = 96 := by
  simp [Cx.typedResults, zipLanes_length, Cx.operand_length h]

/-- A typed instruction writes its destination in the active lanes, and status bits; the stochastic counts only where it rounds
under SR. -/
theorem Cx.typedWrite_keeps : Keeps (writesArith (regsFrom d c.regs) c.active
    (counts && classOfType t != .int && decide (c.rounding x = .sr))) c (c.typedWrite t d a b x counts f) := Cx.writeResult_keeps

/-- One that earns no status bit, and counts no draw, writes its destination alone. -/
theorem Cx.typedWrite_keeps_quiet (hf : ∀ e k p q r, (f e k p q r).2 = noFlags) :
    Keeps (writesVectors (regsFrom d c.regs) c.active) c (c.typedWrite t d a b x false f) := by
  have hq : allFlags ((c.typedResults t d a b x f).map fun r => r.2) = noFlags := by
    refine zipLanes_noFlags fun l p q r => ?_
    refine allFlags_eq_noFlags fun g hg => ?_
    simp only [List.map_map, List.mem_map] at hg
    obtain ⟨k, -, rfl⟩ := hg
    exact hf _ _ _ _ _
  rw [Cx.typedWrite, hq, Bool.false_and, Cx.writeResult_quiet]
  exact c.putOperand_keeps d (isWide64 c.type) c.active _

/-- Each element of an active lane holds what the instruction makes of its operands' elements. -/
theorem Cx.typedWrite_elem (ht : elemTypeOf c.type = some t) (hs : c.shaped = true)
    {l k : Nat} (hf : ∀ j p q r, p < 2 ^ elemBits t → q < 2 ^ elemBits t → (f (c.elemCx t x l j) j p q r).1 < 2 ^ elemBits t)
    (hl : l < 96) (hm : c.active.getLsbD l = true) (hk : k < elemCount t) :
    (c.typedWrite t d a b x counts f).elem t d l k =
      (f (c.elemCx t x l k) k (c.elem t a l k) (c.elem t b l k) (c.elem t d l k)).1 := by
  let es : List Nat := (List.range (elemCount t)).map fun j =>
    (f (c.elemCx t x l j) j (c.elem t a l j) (c.elem t b l j) (c.elem t d l j)).1
  have hres : (c.typedResults t d a b x f)[l]? = some (laneElems t (fun j => f (c.elemCx t x l j) j)
      (c.wideLane a (isWide64 c.type) l) (c.wideLane b (isWide64 c.type) l) (c.wideLane d (isWide64 c.type) l)) := by
    rw [Cx.typedResults, zipLanes_getElem? (Cx.operand_getElem? hs _ _ hl) (Cx.operand_getElem? hs _ _ hl)
      (Cx.operand_getElem? hs _ _ hl), Nat.zero_add, if_pos hm]
  have hval : ((c.typedResults t d a b x f).map fun r => r.1).getD l 0 = BitVec.ofNat 64 (packElems (elemBits t) es) := by
    rw [List.getD_eq_getElem?_getD, List.getElem?_map, hres]
    simp only [Option.map_some, Option.getD_some, laneElems, List.map_map]
    rfl
  have htype : (c.typedWrite t d a b x counts f).type = c.type := Cx.typedWrite_keeps.type
  have helem := Cx.elem_of_packed (c := c.typedWrite t d a b x counts f) (r := d) (l := l) (es := es) (k := k) (by rwa [htype])
    (fun y hy => by
      obtain ⟨j, -, rfl⟩ := List.mem_map.mp hy
      exact hf _ _ _ _ (elemAt_lt _ _ _) (elemAt_lt _ _ _))
    (by simp [es]) hk
    (by rw [htype, ← hval]
        exact Cx.writeResult_wideLane hs hl (by rw [List.length_map, Cx.typedResults_length hs]) hm)
  rw [helem]
  simp [es, hk]

end

/-- What a typed instruction of the model computes per element: its rounding field, whether it counts stochastic draws, and the
computation (07_scalar_vector R116 to R127).  `vscale` stands apart: its b is no element. -/
def typedComputation (i : Instr) : Option (Nat × Bool × (ElemCx → Nat → Nat → Nat → Nat → Nat × Flags)) :=
  let special (fn : Special) (e : ElemCx) (_ a _ _ : Nat) : Nat × Flags := specialElem fn (elemFmt e.t) e.sat e.ftz a
  match i with
  | .vadd _ _ _ x => some (x.toNat, true, addElem false)
  | .vsub _ _ _ x => some (x.toNat, true, addElem true)
  | .vmul _ _ _ x => some (x.toNat, true, mulElem)
  | .vfma _ _ _ x => some (x.toNat, true, fmaElem)
  | .vmulh _ _ _ => some (0, false, mulhElem)
  | .vmin _ _ _ => some (0, false, minElem false false)
  | .vmax _ _ _ => some (0, false, minElem true false)
  | .vminp _ _ _ => some (0, false, minElem false true)
  | .vmaxp _ _ _ => some (0, false, minElem true true)
  | .vshl _ _ _ => some (0, false, fun e _ a b _ => shlElem e a b)
  | .vshr _ _ _ => some (0, false, fun e _ a b _ => shrElem e a b)
  | .vsra _ _ _ => some (0, false, fun e _ a b _ => sraElem e a b)
  | .vabs _ _ => some (0, false, absElem)
  | .vneg _ _ => some (0, false, negElem)
  | .vclz _ _ => some (0, false, fun e _ a _ _ => (leadingZeros (elemBits e.t) a, noFlags))
  | .vpopc _ _ => some (0, false, fun e _ a _ _ => (setBits (elemBits e.t) a, noFlags))
  | .vclass _ _ => some (0, false, fun e _ a _ _ => (classOf (elemFmt e.t) a, noFlags))
  | .vfrac _ _ => some (0, true, fracElem)
  | .vrnd _ _ x => some (x.toNat, true, rndElem)
  | .vaddi _ _ k => some (0, false, fun e _ a _ _ => intOut e (intIn e a + k.toInt))
  | .vmuli _ _ k => some (0, false, fun e _ a _ _ => intOut e (intIn e a * k.toInt))
  | .vmini _ _ k => some (0, false, fun e _ a _ _ => intOut e (min (intIn e a) k.toInt))
  | .vmaxi _ _ k => some (0, false, fun e _ a _ _ => intOut e (max (intIn e a) k.toInt))
  | .vshli _ _ k => some (0, false, fun e _ a _ _ => shlElem e a k.toNat)
  | .vshri _ _ k => some (0, false, fun e _ a _ _ => shrElem e a k.toNat)
  | .vsrai _ _ k => some (0, false, fun e _ a _ _ => sraElem e a k.toNat)
  | .vrcp _ _ => some (0, false, special .rcp)
  | .vrsq _ _ => some (0, false, special .rsq)
  | .vsqrt _ _ => some (0, false, special .sqrt)
  | .vexp2 _ _ => some (0, false, special .exp2)
  | .vlog2 _ _ => some (0, false, special .log2)
  | .vsin _ _ => some (0, false, special .sin)
  | .vcos _ _ => some (0, false, special .cos)
  | .vtanh _ _ => some (0, false, special .tanh)
  | .vsigm _ _ => some (0, false, special .sigm)
  | .verf _ _ => some (0, false, special .erf)
  | _ => none

/-- Each of them is `vecTyped` of its computation on its operands. -/
theorem exec_of_typedComputation {i : Instr} {d a b x : Nat} {counts : Bool}
    {g : ElemCx → Nat → Nat → Nat → Nat → Nat × Flags} (hg : typedComputation i = some (x, counts, g))
    (ho : typedOperands i = some (d, a, b)) :
    ∃ D A B : BitVec 7, (∀ s, exec i s = vecTyped i s D A B x counts g) ∧ D.toNat = d ∧ A.toNat = a ∧ B.toNat = b := by
  cases i with
  | vadd D A B | vsub D A B | vmul D A B | vfma D A B | vmulh D A B | vmin D A B | vmax D A B | vminp D A B | vmaxp D A B
  | vshl D A B | vshr D A B | vsra D A B =>
    cases hg
    cases ho
    exact ⟨D, A, B, fun _ => rfl, rfl, rfl, rfl⟩
  | vabs D A | vneg D A | vclz D A | vpopc D A | vclass D A | vfrac D A | vrnd D A | vaddi D A | vmuli D A | vmini D A | vmaxi D A
  | vshli D A | vshri D A | vsrai D A | vrcp D A | vrsq D A | vsqrt D A | vexp2 D A | vlog2 D A | vsin D A | vcos D A | vtanh D A
  | vsigm D A | verf D A =>
    cases hg
    cases ho
    exact ⟨D, A, A, fun _ => rfl, rfl, rfl, rfl⟩
  | _ => cases hg
/-- A typed instruction leaves what `typedWrite` leaves. -/
theorem Does.of_typedComputation {i : Instr} {s : State} {c : Cx} {t : ElemType} {d a b x : Nat} {counts : Bool}
    {g : ElemCx → Nat → Nat → Nat → Nat → Nat × Flags} (hg : typedComputation i = some (x, counts, g))
    (ho : typedOperands i = some (d, a, b)) (hr : Ready i s c) (hs : c.shaped = true) (ht : elemTypeOf c.type = some t)
    {ws : Writes} {also : Cx → Prop} (hk : Keeps ws (c.settle i) ((c.settle i).typedWrite t d a b x counts g))
    (ha : also ((c.settle i).typedWrite t d a b x counts g)) : Does i s c ws also := by
  obtain ⟨D, A, B, he, rfl, rfl, rfl⟩ := exec_of_typedComputation hg ho
  exact Does.of_done ((he s).trans (vecTyped_of_ready hr ht D A B x counts g)) hk (Cx.writeResult_shaped hs) ha

end Sys2Proof.Machine

namespace Sys2Proof.Machine

open Sys2Proof.Claims

/-! ### Integers of a type (R56, R64) -/

/-- The least integer of a type of w bits. -/
def intLow (w : Nat) (signed : Bool) : Int := if signed then -2 ^ (w - 1) else 0

/-- The greatest integer of a type of w bits. -/
def intHigh (w : Nat) (signed : Bool) : Int := if signed then 2 ^ (w - 1) - 1 else 2 ^ w - 1

theorem fits_iff (w : Nat) (signed sat : Bool) (x y : Int) : fits w signed sat x y ↔
    intLow w signed ≤ y ∧ y ≤ intHigh w signed ∧
    (if sat = true ∧ intHigh w signed < x then y = intHigh w signed
      else if sat = true ∧ x < intLow w signed then y = intLow w signed else (2 ^ w : Int) ∣ y - x) := Iff.rfl

theorem two_pow_eq_double {w : Nat} (hw : 0 < w) : (2 : Int) ^ w = 2 * 2 ^ (w - 1) := by
  rw [← pow_succ', Nat.sub_add_cancel hw]

/-- A code stands for the integer of its type's range that it is congruent to. -/
theorem intOf_spec {w : Nat} (hw : 0 < w) (signed : Bool) (code : Nat) :
    intLow w signed ≤ intOf w signed code ∧ intOf w signed code ≤ intHigh w signed ∧
    (2 ^ w : Int) ∣ intOf w signed code - code := by
  have hp := two_pow_eq_double hw
  have h0 : (0 : Int) < 2 ^ (w - 1) := by positivity
  have hc : ((2 ^ (w - 1) : Nat) : Int) = 2 ^ (w - 1) := by push_cast; rfl
  have hm : ((code % 2 ^ w : Nat) : Int) = code % 2 ^ w := by push_cast; rfl
  have hlt : (code : Int) % 2 ^ w < 2 ^ w := Int.emod_lt_of_pos _ (by positivity)
  have hnn : 0 ≤ (code : Int) % 2 ^ w := Int.emod_nonneg _ (by positivity)
  have hdvd : (2 ^ w : Int) ∣ code % 2 ^ w - code := Int.dvd_emod_sub_self
  unfold intOf intLow intHigh
  cases signed with
  | false => simp only [Bool.false_and, Bool.false_eq_true, if_false, hm]; exact ⟨hnn, by omega, hdvd⟩
  | true =>
    simp only [Bool.true_and, if_true, decide_eq_true_eq]
    split
    · next h =>
      have h' : (2 : Int) ^ (w - 1) ≤ code % 2 ^ w := by rw [← hm, ← hc]; exact_mod_cast h
      rw [hm]
      refine ⟨by omega, by omega, ?_⟩
      rw [sub_right_comm]
      exact hdvd.sub (dvd_refl _)
    · next h =>
      have h' : (code : Int) % 2 ^ w < 2 ^ (w - 1) := by rw [← hm, ← hc]; exact_mod_cast Nat.lt_of_not_le h
      rw [hm]
      exact ⟨by omega, by omega, hdvd⟩

theorem intHigh_sub_intLow {w : Nat} (hw : 0 < w) (signed : Bool) : intHigh w signed - intLow w signed = 2 ^ w - 1 := by
  have hp := two_pow_eq_double hw
  cases signed <;> simp [intHigh, intLow]
  omega

/-- The residue of an integer, read in the type: it is congruent to the integer. -/
theorem intOf_emod {w : Nat} (hw : 0 < w) (signed : Bool) (x : Int) : (2 ^ w : Int) ∣ intOf w signed (x % 2 ^ w).toNat - x := by
  obtain ⟨-, -, h⟩ := intOf_spec hw signed (x % 2 ^ w).toNat
  rw [Int.toNat_of_nonneg (Int.emod_nonneg _ (by positivity))] at h
  have h2 : (2 ^ w : Int) ∣ x % 2 ^ w - x := Int.dvd_emod_sub_self
  simpa using h.add h2

/-- Two integers of a type's range that are congruent are equal. -/
theorem eq_of_dvd_of_range {w : Nat} (hw : 0 < w) {signed : Bool} {x y : Int} (hd : (2 ^ w : Int) ∣ x - y)
    (hx : intLow w signed ≤ x ∧ x ≤ intHigh w signed) (hy : intLow w signed ≤ y ∧ y ≤ intHigh w signed) : x = y := by
  have hr := intHigh_sub_intLow hw signed
  have := Int.eq_zero_of_abs_lt_dvd hd (abs_lt.mpr ⟨by omega, by omega⟩)
  omega

theorem intOf_emod_of_range {w : Nat} (hw : 0 < w) {signed : Bool} {x : Int} (h1 : intLow w signed ≤ x) (h2 : x ≤ intHigh w signed) :
    intOf w signed (x % 2 ^ w).toNat = x := by
  obtain ⟨hl, hh, -⟩ := intOf_spec hw signed (x % 2 ^ w).toNat
  exact eq_of_dvd_of_range hw (intOf_emod hw signed x) ⟨hl, hh⟩ ⟨h1, h2⟩

theorem toNat_emod_lt (w : Nat) (x : Int) : (x % 2 ^ w).toNat < 2 ^ w := by
  have h := Int.emod_lt_of_pos x (show (0 : Int) < 2 ^ w by positivity)
  have h0 := Int.emod_nonneg x (show (2 : Int) ^ w ≠ 0 by positivity)
  zify
  omega

theorem intLow_le_intHigh {w : Nat} (hw : 0 < w) (signed : Bool) : intLow w signed ≤ intHigh w signed := by
  have hr := intHigh_sub_intLow hw signed
  have : (1 : Int) ≤ 2 ^ w := by exact_mod_cast Nat.one_le_two_pow
  omega

theorem fitInt_eq (w : Nat) (signed : Bool) (x : Int) (sat : Bool) : (fitInt w signed x sat).1 =
    ((if sat = true ∧ intHigh w signed < x then intHigh w signed
      else if sat = true ∧ x < intLow w signed then intLow w signed else x) % 2 ^ w).toNat := by
  unfold fitInt
  show (if sat = true ∧ x > intHigh w signed then ((intHigh w signed % 2 ^ w).toNat, flagOv)
    else if sat = true ∧ x < intLow w signed then ((intLow w signed % 2 ^ w).toNat, flagOv)
    else ((x % 2 ^ w).toNat, noFlags)).1 = _
  split
  · rfl
  · split <;> rfl

theorem fitInt_lt (w : Nat) (signed : Bool) (x : Int) (sat : Bool) : (fitInt w signed x sat).1 < 2 ^ w := by
  rw [fitInt_eq]
  exact toNat_emod_lt w _

/-- fit_int of the model is that of R64. -/
theorem fitInt_fits {w : Nat} (hw : 0 < w) (signed : Bool) (x : Int) (sat : Bool) :
    fits w signed sat x (intOf w signed (fitInt w signed x sat).1) := by
  obtain ⟨hl, hh, -⟩ := intOf_spec hw signed (fitInt w signed x sat).1
  refine (fits_iff _ _ _ _ _).mpr ⟨hl, hh, ?_⟩
  have hle := intLow_le_intHigh hw signed
  rw [fitInt_eq]
  split
  · exact intOf_emod_of_range hw hle le_rfl
  · split
    · exact intOf_emod_of_range hw le_rfl hle
    · exact intOf_emod hw signed x

/-- An integer of the type's range fits as itself, saturating or not. -/
theorem fits_self {w : Nat} {signed : Bool} (sat : Bool) {x : Int} (hl : intLow w signed ≤ x) (hh : x ≤ intHigh w signed) :
    fits w signed sat x x := by
  refine (fits_iff _ _ _ _ _).mpr ⟨hl, hh, ?_⟩
  rw [if_neg (by omega), if_neg (by omega)]
  simp

/-! ### Integer arithmetic (R109, R117, R121) -/

/-- A computation of the model gives, under every integer type, the exact result of a function fitted to the type. -/
def FitsExact (g : ElemCx → Nat → Nat → Nat → Nat → Nat × Flags) (f : Int → Int → Int → Int) : Prop :=
  ∀ e k p q r, classOfType e.t = .int → p < 2 ^ elemBits e.t → q < 2 ^ elemBits e.t →
    fits (elemBits e.t) (elemSigned e.t) e.sat (f (intIn e p) (intIn e q) (intIn e r)) (intIn e (g e k p q r).1) ∧
    (g e k p q r).1 < 2 ^ elemBits e.t

theorem FitsExact.of_intOut {g : ElemCx → Nat → Nat → Nat → Nat → Nat × Flags} {f : Int → Int → Int → Int}
    (h : ∀ e k p q r, classOfType e.t = .int → g e k p q r = intOut e (f (intIn e p) (intIn e q) (intIn e r))) : FitsExact g f := by
  intro e k p q r hi _ _
  rw [h e k p q r hi]
  exact ⟨fitInt_fits (elemBits_pos _) _ _ _, fitInt_lt _ _ _ _⟩

/-- `vmin` and `vmax` give the operand they choose. -/
theorem FitsExact.of_minElem (greater prop : Bool) :
    FitsExact (minElem greater prop) fun x y _ => if greater then max x y else min x y := by
  intro e k p q r hi hp hq
  have hrange (c : Nat) : fits (elemBits e.t) (elemSigned e.t) e.sat (intIn e c) (intIn e c) := by
    obtain ⟨hl, hh, -⟩ := intOf_spec (elemBits_pos e.t) (elemSigned e.t) c
    exact fits_self _ hl hh
  cases greater with
  | true =>
    simp only [minElem, hi, if_true]
    split
    · next h => rw [max_eq_right h.le]; exact ⟨hrange q, hq⟩
    · next h => rw [max_eq_left (not_lt.mp h)]; exact ⟨hrange p, hp⟩
  | false =>
    simp only [minElem, hi, if_true, Bool.false_eq_true, if_false]
    split
    · next h => rw [min_eq_right h.le]; exact ⟨hrange q, hq⟩
    · next h => rw [min_eq_left (not_lt.mp h)]; exact ⟨hrange p, hp⟩

theorem natAbs_eq_ite (x : Int) : (x.natAbs : Int) = if x < 0 then -x else x := by
  split <;> omega

/-- Each instruction with an exact integer result is a typed instruction that fits it to the type. -/
theorem fitsExact_of_exactElem {i : Instr} {f : Int → Int → Int → Int} (hf : ∀ x y z, exactElem i x y z = some (f x y z)) :
    ∃ x counts g, typedComputation i = some (x, counts, g) ∧ FitsExact g f := by
  have is {h : Int → Int → Int → Int} (e : ∀ x y z, exactElem i x y z = some (h x y z)) : f = h := by
    funext x y z
    exact Option.some.inj ((hf x y z).symm.trans (e x y z))
  have h0 := hf 0 0 0
  cases i with
  | vadd D A B r =>
    obtain rfl := is (h := fun x y _ => x + y) fun _ _ _ => rfl
    exact ⟨_, _, addElem false, rfl, .of_intOut fun e k p q r hi => by simp [addElem, hi]⟩
  | vsub D A B r =>
    obtain rfl := is (h := fun x y _ => x - y) fun _ _ _ => rfl
    exact ⟨_, _, addElem true, rfl, .of_intOut fun e k p q r hi => by simp [addElem, hi]⟩
  | vmul D A B r =>
    obtain rfl := is (h := fun x y _ => x * y) fun _ _ _ => rfl
    exact ⟨_, _, mulElem, rfl, .of_intOut fun e k p q r hi => by simp [mulElem, hi]⟩
  | vfma D A B r =>
    obtain rfl := is (h := fun x y z => x * y + z) fun _ _ _ => rfl
    exact ⟨_, _, fmaElem, rfl, .of_intOut fun e k p q r hi => by simp [fmaElem, hi]⟩
  | vabs D A =>
    obtain rfl := is (h := fun x _ _ => if x < 0 then -x else x) fun _ _ _ => rfl
    exact ⟨_, _, absElem, rfl, .of_intOut fun e k p q r hi => by
      simp only [absElem, hi, if_true, natAbs_eq_ite]⟩
  | vneg D A =>
    obtain rfl := is (h := fun x _ _ => -x) fun _ _ _ => rfl
    exact ⟨_, _, negElem, rfl, .of_intOut fun e k p q r hi => by simp [negElem, hi]⟩
  | vmin D A B =>
    obtain rfl := is (h := fun x y _ => min x y) fun _ _ _ => rfl
    exact ⟨_, _, minElem false false, rfl, .of_minElem false false⟩
  | vmax D A B =>
    obtain rfl := is (h := fun x y _ => max x y) fun _ _ _ => rfl
    exact ⟨_, _, minElem true false, rfl, .of_minElem true false⟩
  | vaddi D A m =>
    obtain rfl := is (h := fun x _ _ => x + m.toInt) fun _ _ _ => rfl
    exact ⟨_, _, _, rfl, .of_intOut fun e k p q r hi => rfl⟩
  | vmuli D A m =>
    obtain rfl := is (h := fun x _ _ => x * m.toInt) fun _ _ _ => rfl
    exact ⟨_, _, _, rfl, .of_intOut fun e k p q r hi => rfl⟩
  | vmini D A m =>
    obtain rfl := is (h := fun x _ _ => min x m.toInt) fun _ _ _ => rfl
    exact ⟨_, _, _, rfl, .of_intOut fun e k p q r hi => rfl⟩
  | vmaxi D A m =>
    obtain rfl := is (h := fun x _ _ => max x m.toInt) fun _ _ _ => rfl
    exact ⟨_, _, _, rfl, .of_intOut fun e k p q r hi => rfl⟩
  | _ => cases h0

theorem integerArithmeticAlone : Claims.IntegerArithmeticAlone := by
  intro i s c d a b t f ho hf _ ht hint hs hr
  obtain ⟨x, counts, g, hi, hg⟩ := fitsExact_of_exactElem hf
  refine Does.of_typedComputation hi ho hr hs ht ?_ fun l k hl hm hk => ?_
  · have h := Cx.typedWrite_keeps (c := c.settle i) (t := t) (d := d) (a := a) (b := b) (x := x) (counts := counts) (f := g)
    rwa [hint, show (counts && TypeClass.int != TypeClass.int && _) = false by simp] at h
  · dsimp only
    rw [Cx.typedWrite_elem (c := c.settle i) ht hs (fun j p q r hp hq => (hg _ j p q r hint hp hq).2) hl hm hk]
    exact (hg ((c.settle i).elemCx t x l k) k _ _ _ hint (elemAt_lt _ _ _) (elemAt_lt _ _ _)).1

/-! ### Shifts, counts and the high half of a product (R117, R119) -/

/-- The leading zeros of a number of w bits. -/
theorem leadingZeros_eq_takeWhile {w a : Nat} (h : a < 2 ^ w) :
    leadingZeros w a = ((List.range w).takeWhile fun k => !a.testBit (w - 1 - k)).length := by
  symm
  unfold leadingZeros
  split
  · next h0 => exact takeWhile_range_length (fun k _ => by simp [h0]) le_rfl (by simp)
  · next h0 =>
    have hlog : a.log2 < w := (Nat.log2_lt h0).mpr h
    refine takeWhile_range_length (fun k hk => ?_) (by omega) (fun _ => ?_)
    · have hb : a < 2 ^ (w - 1 - k) := (Nat.log2_lt h0).mp (by omega)
      simp [Nat.testBit_lt_two_pow hb]
    · have e : w - 1 - (w - 1 - a.log2) = a.log2 := by omega
      simp [e, Nat.testBit_log2 h0]

/-- A computation of the model gives a code, and no status bit, under the types of a width and signedness. -/
def GivesCode (g : ElemCx → Nat → Nat → Nat → Nat → Nat × Flags) (w : Nat) (signed : Bool) (f : Nat → Nat → Nat) : Prop :=
  (∀ e k p q r, (g e k p q r).2 = noFlags) ∧
  ∀ e k p q r, elemBits e.t = w → elemSigned e.t = signed → p < 2 ^ w → q < 2 ^ w → (g e k p q r).1 = f p q ∧ f p q < 2 ^ w

theorem shl_lt (w a n : Nat) : (if w ≤ n then 0 else a * 2 ^ n % 2 ^ w) < 2 ^ w := by
  split
  · exact Nat.two_pow_pos w
  · exact Nat.mod_lt _ (Nat.two_pow_pos w)

theorem shr_lt {w a : Nat} (n : Nat) (h : a < 2 ^ w) : (if w ≤ n then 0 else a / 2 ^ n) < 2 ^ w := by
  split
  · exact Nat.two_pow_pos w
  · exact Nat.lt_of_le_of_lt (Nat.div_le_self _ _) h

/-- Each instruction with a code of its own is a typed instruction that gives it. -/
theorem givesCode_of_bitElem {i : Instr} {w : Nat} {signed : Bool} {f : Nat → Nat → Nat}
    (hf : ∀ x y, bitElem i w signed x y = some (f x y)) : ∃ g, typedComputation i = some (0, false, g) ∧ GivesCode g w signed f := by
  have is {h : Nat → Nat → Nat} (e : ∀ x y, bitElem i w signed x y = some (h x y)) : f = h := by
    funext x y
    exact Option.some.inj ((hf x y).symm.trans (e x y))
  have h0 := hf 0 0
  cases i with
  | vshl D A B =>
    obtain rfl := is fun _ _ => rfl
    exact ⟨_, rfl, fun _ _ _ _ _ => rfl, fun e k p q r hw _ _ _ => by
      subst hw; exact ⟨rfl, shl_lt _ _ _⟩⟩
  | vshr D A B =>
    obtain rfl := is fun _ _ => rfl
    exact ⟨_, rfl, fun _ _ _ _ _ => rfl, fun e k p q r hw _ hp _ => by
      subst hw; exact ⟨rfl, shr_lt _ hp⟩⟩
  | vsra D A B =>
    obtain rfl := is fun _ _ => rfl
    exact ⟨_, rfl, fun _ _ _ _ _ => rfl, fun e k p q r hw _ _ _ => by
      subst hw; exact ⟨rfl, toNat_emod_lt _ _⟩⟩
  | vshli D A m =>
    obtain rfl := is fun _ _ => rfl
    exact ⟨_, rfl, fun _ _ _ _ _ => rfl, fun e k p q r hw _ _ _ => by
      subst hw; exact ⟨rfl, shl_lt _ _ _⟩⟩
  | vshri D A m =>
    obtain rfl := is fun _ _ => rfl
    exact ⟨_, rfl, fun _ _ _ _ _ => rfl, fun e k p q r hw _ hp _ => by
      subst hw; exact ⟨rfl, shr_lt _ hp⟩⟩
  | vsrai D A m =>
    obtain rfl := is fun _ _ => rfl
    exact ⟨_, rfl, fun _ _ _ _ _ => rfl, fun e k p q r hw _ _ _ => by
      subst hw; exact ⟨rfl, toNat_emod_lt _ _⟩⟩
  | vclz D A =>
    obtain rfl := is fun _ _ => rfl
    refine ⟨_, rfl, fun _ _ _ _ _ => rfl, fun e k p q r hw _ hp _ => ?_⟩
    subst hw
    refine ⟨leadingZeros_eq_takeWhile hp, Nat.lt_of_le_of_lt ?_ Nat.lt_two_pow_self⟩
    exact (List.takeWhile_sublist _).length_le.trans_eq List.length_range
  | vpopc D A =>
    obtain rfl := is fun _ _ => rfl
    refine ⟨_, rfl, fun _ _ _ _ _ => rfl, fun e k p q r hw _ _ _ => ?_⟩
    subst hw
    exact ⟨List.countP_eq_length_filter.symm, Nat.lt_of_le_of_lt (List.countP_le_length.trans_eq List.length_range) Nat.lt_two_pow_self⟩
  | vmulh D A B =>
    obtain rfl := is fun _ _ => rfl
    exact ⟨_, rfl, fun _ _ _ _ _ => rfl, fun e k p q r hw hg _ _ => by
      subst hw hg; exact ⟨rfl, toNat_emod_lt _ _⟩⟩
  | _ => cases h0

theorem integerBits : Claims.IntegerBits := by
  intro i s c d a b t f ho hf ht hs hr
  obtain ⟨g, hi, hquiet, hg⟩ := givesCode_of_bitElem hf
  refine Does.of_typedComputation hi ho hr hs ht (Cx.typedWrite_keeps_quiet hquiet) fun l k hl hm hk => ?_
  have hbound (j p q r : Nat) (hp : p < 2 ^ elemBits t) (hq : q < 2 ^ elemBits t) :
      (g ((c.settle i).elemCx t 0 l j) j p q r).1 < 2 ^ elemBits t := by
    obtain ⟨h1, h2⟩ := hg ((c.settle i).elemCx t 0 l j) j p q r rfl rfl hp hq
    rwa [h1]
  rw [Cx.typedWrite_elem (c := c.settle i) ht hs hbound hl hm hk]
  exact (hg ((c.settle i).elemCx t 0 l k) k _ _ _ rfl rfl (elemAt_lt _ _ _) (elemAt_lt _ _ _)).1

/-- Settles O8: each instruction is `vecTyped` of a computation per element, which fits the exact result to the type, or gives the code
itself. -/
theorem integerArithmetic : Obligations.IntegerArithmetic := ⟨integerArithmeticAlone, integerBits⟩

end Sys2Proof.Machine

namespace Sys2Proof.Machine

open Sys2Proof.Claims

/-! ### The codes of a floating-point format (R51, R54, R62, R63) -/

theorem fmtBits_eq (f : Fmt) : fmtBits f = fmtEb f + fmtMb f + 1 := by cases f <;> rfl

theorem canonNan_lt (f : Fmt) : canonNan f < 2 ^ fmtBits f := by cases f <;> decide

/-- The exponent field of the largest finite magnitude is within its width. -/
theorem fmtTopExp_add_lt (f : Fmt) : fmtTopExp f + fmtMb f + fmtBias f < 2 ^ fmtEb f := by cases f <;> decide

theorem fmtEmin_add_lt (f : Fmt) : fmtEmin f + fmtBias f < 2 ^ fmtEb f := by cases f <;> decide

/-- The exponent of a magnitude that is not above the largest finite one. -/
theorem log2_add_le {f : Fmt} {m : Nat} {e : Int} (hm : m ≠ 0) (h : magLt (fmtTopSig f) (fmtTopExp f) m e = false) :
    (m.log2 : Int) + e ≤ fmtTopExp f + fmtMb f := by
  have htop : fmtTopSig f < 2 ^ (fmtMb f + 1) := Nat.sub_lt (Nat.two_pow_pos _) Nat.one_pos
  have hlog : 2 ^ m.log2 ≤ m := Nat.log2_self_le hm
  unfold magLt at h
  split at h
  · next hle =>
    rw [decide_eq_false_iff_not, Nat.not_lt, Nat.shiftLeft_eq] at h
    have hpow : 2 ^ (m.log2 + (e - fmtTopExp f).toNat) < 2 ^ (fmtMb f + 1) := by
      rw [Nat.pow_add]
      exact Nat.lt_of_le_of_lt ((Nat.mul_le_mul_right _ hlog).trans h) htop
    have := (Nat.pow_lt_pow_iff_right Nat.one_lt_two).mp hpow
    omega
  · next hlt =>
    rw [decide_eq_false_iff_not, Nat.not_lt, Nat.shiftLeft_eq] at h
    have hpow : 2 ^ m.log2 < 2 ^ (fmtMb f + 1 + (fmtTopExp f - e).toNat) := by
      rw [Nat.pow_add]
      exact Nat.lt_of_le_of_lt (hlog.trans h) (Nat.mul_lt_mul_of_pos_right htop (Nat.two_pow_pos _))
    have := (Nat.pow_lt_pow_iff_right Nat.one_lt_two).mp hpow
    omega

/-- A significand at the spacing of its own exponent has at most one bit more than the fraction. -/
theorem significand_lt {m mb : Nat} {e ee : Int} (h : (m.log2 : Int) + e ≤ ee) :
    (if ee - mb ≤ e then m <<< (e - (ee - mb)).toNat else m >>> (ee - mb - e).toNat) < 2 ^ (mb + 1) := by
  have hm : m < 2 ^ (m.log2 + 1) := Nat.lt_log2_self
  split
  · rw [Nat.shiftLeft_eq]
    calc m * 2 ^ (e - (ee - mb)).toNat < 2 ^ (m.log2 + 1) * 2 ^ (e - (ee - mb)).toNat :=
          Nat.mul_lt_mul_of_pos_right hm (Nat.two_pow_pos _)
      _ = 2 ^ (m.log2 + 1 + (e - (ee - mb)).toNat) := (Nat.pow_add _ _ _).symm
      _ ≤ 2 ^ (mb + 1) := Nat.pow_le_pow_right Nat.two_pos (by omega)
  · rw [Nat.shiftRight_eq_div_pow, Nat.div_lt_iff_lt_mul (Nat.two_pow_pos _), ← Nat.pow_add]
    exact hm.trans_le (Nat.pow_le_pow_right Nat.two_pos (by omega))

/-- A sign, an exponent field of its width and a fraction make a code of the format. -/
theorem fields_lt (f : Fmt) {s x n : Nat} (hs : s ≤ 2 ^ (fmtBits f - 1)) (hx : x < 2 ^ fmtEb f) (hn : n < 2 ^ fmtMb f) :
    s + x * 2 ^ fmtMb f + n < 2 ^ fmtBits f := by
  have hb : (x + 1) * 2 ^ fmtMb f ≤ 2 ^ fmtEb f * 2 ^ fmtMb f := Nat.mul_le_mul_right _ hx
  have htwo : 2 ^ fmtBits f = 2 ^ (fmtBits f - 1) + 2 ^ fmtEb f * 2 ^ fmtMb f := by
    rw [fmtBits_eq, Nat.add_sub_cancel, Nat.pow_succ, ← Nat.pow_add]
    omega
  rw [Nat.add_mul, Nat.one_mul] at hb
  omega

theorem sign_le (f : Fmt) (neg : Bool) : (if neg then 2 ^ (fmtBits f - 1) else 0) ≤ 2 ^ (fmtBits f - 1) := by
  cases neg <;> simp

/-- A finite value not above the largest one has a code of the format. -/
theorem encodeNum_fin_lt {f : Fmt} {neg : Bool} {m : Nat} {e : Int}
    (h : m = 0 ∨ magLt (fmtTopSig f) (fmtTopExp f) m e = false) : encodeNum f (.fin neg m e) < 2 ^ fmtBits f := by
  have hs := sign_le f neg
  simp only [encodeNum]
  split
  · simpa using fields_lt f hs (Nat.two_pow_pos _) (Nat.two_pow_pos _)
  · next hm =>
    have htop := log2_add_le hm (h.resolve_left hm)
    have hmax := fmtTopExp_add_lt f
    have hmin := fmtEmin_add_lt f
    have hpos : (0 : Int) < 2 ^ fmtEb f := by positivity
    have hn := significand_lt (m := m) (mb := fmtMb f) (e := e) (ee := max ((m.log2 : Int) + e) (fmtEmin f)) (le_max_left _ _)
    rw [Nat.pow_succ] at hn
    generalize (if _ ≤ e then m <<< _ else m >>> _) = n at hn ⊢
    split
    · next hlow => simpa using fields_lt f hs (Nat.two_pow_pos _) hlow
    · refine fields_lt f hs ?_ (by omega)
      zify
      omega

theorem encodeNum_inf_lt (f : Fmt) (neg : Bool) : encodeNum f (.inf neg) < 2 ^ fmtBits f := by
  have h1 : 2 ^ fmtEb f - 1 < 2 ^ fmtEb f := Nat.sub_lt (Nat.two_pow_pos _) Nat.one_pos
  simpa [encodeNum] using fields_lt f (sign_le f neg) h1 (Nat.two_pow_pos _)

theorem encodeNum_maxf_lt (f : Fmt) (neg : Bool) : encodeNum f (maxf f neg) < 2 ^ fmtBits f :=
  encodeNum_fin_lt (Or.inr (by simp [magLt]))

/-- A rounded value has a code of the format: past the largest finite magnitude it is that magnitude or an infinity. -/
theorem writeNum_lt (f : Fmt) (x : Num) (rm : Rnd) (sat ftz : Bool) (bits : Nat) :
    (writeNum f x rm sat ftz bits).1 < 2 ^ fmtBits f := by
  have hz (neg : Bool) : encodeNum f (.fin neg 0 0) < 2 ^ fmtBits f := encodeNum_fin_lt (Or.inl rfl)
  have hfin (neg : Bool) (m : Nat) (e : Int) : ∃ n k q, roundFmt f rm neg m e bits = .fin n k q := by
    unfold roundFmt
    split <;> exact ⟨_, _, _, rfl⟩
  unfold writeNum
  dsimp only
  split
  · cases x with
    | nan s => exact canonNan_lt f
    | inf neg => exact encodeNum_inf_lt f neg
    | fin neg m e =>
      obtain ⟨n, k, q, hr⟩ := hfin neg m e
      simp only [toWide, hr]
      split
      · split
        · exact encodeNum_maxf_lt f neg
        · split
          · exact encodeNum_maxf_lt f neg
          · exact encodeNum_inf_lt f neg
      · next hle =>
        split
        · exact hz neg
        · exact encodeNum_fin_lt (Or.inr (by simpa using hle))
  · cases x with
    | nan s => exact hz false
    | inf neg => exact encodeNum_maxf_lt f neg
    | fin neg m e =>
      obtain ⟨n, k, q, hr⟩ := hfin neg m e
      simp only [satNarrow, hr]
      split
      · exact encodeNum_maxf_lt f neg
      · next hle => exact encodeNum_fin_lt (Or.inr (by simpa using hle))

theorem elemBits_eq_fmtBits {t : ElemType} (h : classOfType t ≠ .int) : elemBits t = fmtBits (elemFmt t) := by
  revert h
  cases t <;> decide

/-! ### Floating-point arithmetic (R109, R116, R118, R123) -/

/-- A computation of the model gives, under every floating-point type and a rounding that draws nothing, the exact result of a function
rounded once. -/
def RoundsExact (g : ElemCx → Nat → Nat → Nat → Nat → Nat × Flags) (rm : Rnd) (f : Num → Num → Num → Num) : Prop :=
  ∀ e k p q r, classOfType e.t ≠ .int → e.rm = rm → e.bits = 0 →
    (g e k p q r).1 = (fpOut e (f (fpIn e p).1 (fpIn e q).1 (fpIn e r).1)).1

/-- Each instruction with an exact floating-point result is a typed instruction that rounds it. -/
theorem roundsExact_of_exactFloat {i : Instr} {rm : Rnd} {x : Nat} {f : Num → Num → Num → Num}
    (hf : ∀ u v w, exactFloat i rm u v w = some (x, f u v w)) :
    ∃ counts g, typedComputation i = some (x, counts, g) ∧ RoundsExact g rm f := by
  have is {y : Nat} {h : Num → Num → Num → Num} (e : ∀ u v w, exactFloat i rm u v w = some (y, h u v w)) : x = y ∧ f = h := by
    have hp (u v w : Num) : (x, f u v w) = (y, h u v w) := Option.some.inj ((hf u v w).symm.trans (e u v w))
    exact ⟨congrArg Prod.fst (hp (.nan true) (.nan true) (.nan true)), by funext u v w; exact congrArg Prod.snd (hp u v w)⟩
  have h0 := hf (.nan true) (.nan true) (.nan true)
  cases i with
  | vadd D A B m =>
    obtain ⟨rfl, rfl⟩ := is (y := m.toNat) (h := fun u v _ => (addNum u v rm).1) fun _ _ _ => rfl
    exact ⟨_, _, rfl, fun e k p q r hc hm _ => by subst hm; simp [addElem, hc, fpBinary]⟩
  | vsub D A B m =>
    obtain ⟨rfl, rfl⟩ := is (y := m.toNat) (h := fun u v _ => (addNum u v.negate rm).1) fun _ _ _ => rfl
    exact ⟨_, _, rfl, fun e k p q r hc hm _ => by subst hm; simp [addElem, hc, fpBinary]⟩
  | vmul D A B m =>
    obtain ⟨rfl, rfl⟩ := is (y := m.toNat) (h := fun u v _ => (mulNum u v).1) fun _ _ _ => rfl
    exact ⟨_, _, rfl, fun e k p q r hc _ _ => by simp [mulElem, hc, fpBinary]⟩
  | vfma D A B m =>
    obtain ⟨rfl, rfl⟩ := is (y := m.toNat) (h := fun u v w => (fmaNum u v w rm).1) fun _ _ _ => rfl
    exact ⟨_, _, rfl, fun e k p q r hc hm _ => by subst hm; simp [fmaElem, hc, fpBinary]⟩
  | vrnd D A m =>
    obtain ⟨rfl, rfl⟩ := is (y := m.toNat) (h := fun u _ _ => rintNum u rm 0) fun _ _ _ => rfl
    exact ⟨_, _, rfl, fun e k p q r _ hm hb => by subst hm; simp [rndElem, hb, fpUnary]⟩
  | vabs D A =>
    obtain ⟨rfl, rfl⟩ := is (y := 0) (h := fun u _ _ => u.abs) fun _ _ _ => rfl
    exact ⟨_, _, rfl, fun e k p q r hc _ _ => by simp [absElem, hc, fpUnary]⟩
  | vneg D A =>
    obtain ⟨rfl, rfl⟩ := is (y := 0) (h := fun u _ _ => u.negate) fun _ _ _ => rfl
    exact ⟨_, _, rfl, fun e k p q r hc _ _ => by simp [negElem, hc, fpUnary]⟩
  | vfrac D A =>
    obtain ⟨rfl, rfl⟩ := is (y := 0) (h := fun u _ _ => (fracNum u).1) fun _ _ _ => rfl
    exact ⟨_, _, rfl, fun e k p q r _ _ _ => by simp [fracElem, fpUnary]⟩
  | _ => cases h0

theorem Cx.elemCx_bits {c : Cx} {t : ElemType} {x : Nat} (h : c.rounding x ≠ .sr) (l k : Nat) : (c.elemCx t x l k).bits = 0 :=
  if_neg h

/-- Settles O9: each instruction is `vecTyped` of a computation per element that rounds the exact result once, into a code of the
type's format. -/
theorem floatArithmetic : Obligations.FloatArithmetic := by
  intro i s c d a b t x f ho hf _ ht hclass hrm hs hr
  obtain ⟨counts, g, hi, hg⟩ := roundsExact_of_exactFloat hf
  refine Does.of_typedComputation hi ho hr hs ht ?_ fun l k hl hm hk => ?_
  · have h := Cx.typedWrite_keeps (c := c.settle i) (t := t) (d := d) (a := a) (b := b) (x := x) (counts := counts) (f := g)
    rwa [show decide ((c.settle i).rounding x = .sr) = false from decide_eq_false hrm, Bool.and_false] at h
  · have hg' (j p q r : Nat) := hg ((c.settle i).elemCx t x l j) j p q r hclass rfl (Cx.elemCx_bits hrm l j)
    have hbound (j p q r : Nat) (_ : p < 2 ^ elemBits t) (_ : q < 2 ^ elemBits t) :
        (g ((c.settle i).elemCx t x l j) j p q r).1 < 2 ^ elemBits t := by
      rw [hg', elemBits_eq_fmtBits hclass]
      exact writeNum_lt _ _ _ _ _ _
    dsimp only
    rw [Cx.typedWrite_elem (c := c.settle i) ht hs hbound hl hm hk, hg', fpOut, Cx.elemCx_bits (c := c.settle i) hrm]
    rfl

end Sys2Proof.Machine

namespace Sys2Proof.Machine

open Sys2Proof.Claims

/-! ### The types an instruction executes under (R92, R97, R108) -/

/-- An instruction executes only under a type it is defined on. -/
theorem Ready.typeMeets {i : Instr} {s : State} {c : Cx} (h : Ready i s c) : typeMeets (typeNeed i) c.type = true := by
  have hc := h.2
  simp only [Cx.issues, Bool.and_eq_true, Option.isNone_iff_eq_none] at hc
  obtain ⟨⟨⟨⟨⟨-, hcause⟩, -⟩, -⟩, -⟩, -⟩ := hc
  by_contra hn
  unfold Cx.issueCause at hcause
  dsimp only at hcause
  split_ifs at hcause
  simp_all

/-- The needs that a reserved type does not meet. -/
def TypeNeed.named : TypeNeed → Bool
  | .all => true
  | .int => true
  | .float => true
  | .wide => true
  | .any => false
  | .f32 => false
  | .atomInt => false
  | .atomAny => false

theorem elemType_of_typeMeets {need : TypeNeed} {code : Nat} (hn : need.named = true) (h : typeMeets need code = true) :
    ∃ t, elemTypeOf code = some t := by
  cases ht : elemTypeOf code with
  | some t => exact ⟨t, rfl⟩
  | none => cases need <;> simp_all [TypeNeed.named, typeMeets]

theorem Ready.elemType {i : Instr} {s : State} {c : Cx} (h : Ready i s c) (hn : (typeNeed i).named = true) :
    ∃ t, elemTypeOf c.type = some t := elemType_of_typeMeets hn h.typeMeets

/-! ### What the typed instructions write (R116 to R127) -/

/-- A typed instruction computes per element, or is `vscale`. -/
theorem typedComputation_or_vscale {i : Instr} {d a b : Nat} (ho : typedOperands i = some (d, a, b)) :
    (typeNeed i).named = true ∧
      ((∃ x counts g, typedComputation i = some (x, counts, g)) ∨ ∃ D A B x, i = .vscale D A B x) := by
  cases i with
  | vscale D A B x => exact ⟨rfl, .inr ⟨D, A, B, x, rfl⟩⟩
  | vadd | vsub | vmul | vfma | vmulh | vmin | vmax | vminp | vmaxp | vshl | vshr | vsra | vabs | vneg | vclz | vpopc | vclass | vfrac
  | vrnd | vaddi | vmuli | vmini | vmaxi | vshli | vshri | vsrai | vrcp | vrsq | vsqrt | vexp2 | vlog2 | vsin | vcos | vtanh | vsigm
  | verf => exact ⟨rfl, .inl ⟨_, _, _, rfl⟩⟩
  | _ => cases ho

theorem regsFrom_subset {r m n : Nat} (h : m ≤ n) : ∀ q ∈ regsFrom r m, q ∈ regsFrom r n := by
  intro q hq
  obtain ⟨k, hk, rfl⟩ := List.mem_map.mp hq
  exact mem_regsFrom ((List.mem_range.mp hk).trans_le h)

theorem Cx.one_le_regs (c : Cx) : 1 ≤ c.regs := by
  unfold Cx.regs
  split <;> decide

/-- An instruction that ends with a vector result written in the active lanes. -/
theorem Does.of_writeResult {i : Instr} {s : State} {c : Cx} {d : Nat} {wide : Bool} {vals : List DWord} {flags : Flags}
    {counts draws : Bool} {rm : Rnd} {l : List Nat}
    (he : exec i s = ((c.settle i).writeResult d wide c.active vals flags counts rm).done) (hs : c.shaped = true)
    (hl : ∀ r ∈ regsFrom d (if wide then 2 else 1), r ∈ l) (hd : counts = true → draws = true) :
    Does i s c (writesArith l c.active draws) fun _ => True :=
  Does.of_done he (Cx.writeResult_keeps.mono
    { vectors := hl, lanes := fun _ h => h, status := fun _ => rfl, draws := fun h => hd (Bool.and_eq_true_iff.mp h).1 })
    (Cx.writeResult_shaped hs) trivial

/-- `vscale` writes one register, with status, and counts the draws of SR. -/
theorem vscale_does {s : State} {c : Cx} {d a b : BitVec 7} {x : BitVec 3} (hr : Ready (.vscale d a b x) s c) (hs : c.shaped = true)
    {t : ElemType} (ht : elemTypeOf c.type = some t) :
    Does (.vscale d a b x) s c (writesArith (regsFrom d.toNat c.regs) c.active true) fun _ => True := by
  have ht' : elemTypeOf (c.settle (.vscale d a b x)).type = some t := ht
  have he : exec (.vscale d a b x) s = _ := issueSplit_of_ready hr _
  rw [ht'] at he
  exact Does.of_writeResult (wide := false) (counts := true) he hs (regsFrom_subset c.one_le_regs) fun _ => rfl

theorem typedFramesAlone : Claims.TypedFramesAlone := by
  intro i s c d a b ho _ hs hr
  obtain ⟨hneed, ⟨x, counts, g, hg⟩ | ⟨D, A, B, x, rfl⟩⟩ := typedComputation_or_vscale ho
  · obtain ⟨t, ht⟩ := hr.elemType hneed
    exact Does.of_typedComputation hg ho hr hs ht (Cx.typedWrite_keeps.mono
      { vectors := fun n hn => hn, lanes := fun l hl => hl, status := fun _ => rfl, draws := fun _ => rfl }) trivial
  · obtain ⟨t, ht⟩ := hr.elemType hneed
    cases ho
    exact vscale_does hr hs ht

/-! ### What the conversions and collectives write (R122, R128 to R131, R140) -/

theorem Cx.putGroup_shaped {c : Cx} (r n : Nat) (m : Mask) (vals : List Nat) (h : c.shaped = true) :
    (c.putGroup r n m vals).shaped = true :=
  foldl_keeps (P := fun d : Cx => d.shaped = true) (fun _ _ hd => Cx.putRow_shaped _ _ _ hd) _ h

/-- A group write changes the group's registers in the lanes of the mask. -/
theorem Cx.putGroup_keeps (c : Cx) (r n : Nat) (m : Mask) (vals : List Nat) :
    Keeps (writesVectors (regsFrom r n) m) c (c.putGroup r n m vals) := by
  have h (l : List Nat) (hl : ∀ k ∈ l, k < n) (d : Cx) : Keeps (writesVectors (regsFrom r n) m) d
      (l.foldl (fun c k => c.putRow (r + k) m (vals.map fun v => BitVec.ofNat 32 (v / 2 ^ (32 * k)))) d) := by
    induction l generalizing d with
    | nil => exact (Keeps.refl d).mono {}
    | cons k l ih =>
      obtain ⟨hk, hl⟩ := List.forall_mem_cons.mp hl
      exact (d.putRow_keeps_of_mem (mem_regsFrom hk) m _).trans (ih hl _)
  exact h _ (fun k hk => List.mem_range.mp hk) c

/-- A group instruction writes its group in the lanes of the mask, with status, and counts draws where it counts them. -/
theorem Does.of_groupDone {i : Instr} {s : State} {c : Cx} {d n : Nat} {rs : List (Nat × Flags)} {counts draws : Bool} {rm : Rnd}
    (he : exec i s = (c.settle i).groupDone d n c.active rs counts rm) (hs : c.shaped = true) (hd : counts = true → draws = true) :
    Does i s c (writesArith (regsFrom d n) c.active draws) fun _ => True := by
  have h := (((c.settle i).putGroup_keeps d n c.active (rs.map fun r => r.1)).mono (b := writesArith (regsFrom d n) c.active draws)
    { vectors := fun n hn => hn }).trans ((Cx.setStatus_keeps _ (allFlags (rs.map fun r => r.2))).mono {})
  have hshape : (((c.settle i).putGroup d n c.active (rs.map fun r => r.1)).setStatus (allFlags (rs.map fun r => r.2))).shaped = true :=
    Cx.putGroup_shaped d n c.active _ hs
  unfold Cx.groupDone at he
  dsimp only at he
  by_cases hc : counts = true
  · rw [if_pos hc] at he
    exact Does.of_done he (h.trans ((Cx.countSr_keeps _ _ _).mono { draws := fun _ => hd hc })) (by simpa using hshape) trivial
  · rw [if_neg hc] at he
    exact Does.of_done he h hshape trivial

theorem vcvt_does {s : State} {c : Cx} {d a : BitVec 7} {src : BitVec 4} {r : BitVec 3} {t u : ElemType}
    (hr : Ready (.vcvt d a src r) s c) (hs : c.shaped = true) (ht : elemTypeOf c.type = some t) (hu : elemTypeOf src.toNat = some u) :
    Does (.vcvt d a src r) s c (writesArith (regsFrom d.toNat (cvtRegs (elemBits t) (elemBits u))) c.active true) fun _ => True := by
  have ht' : elemTypeOf (c.settle (.vcvt d a src r)).type = some t := ht
  have he : exec (.vcvt d a src r) s = _ := issueSplit_of_ready hr _
  rw [ht', hu] at he
  exact Does.of_groupDone he hs fun _ => rfl

theorem vpack_does {s : State} {c : Cx} {d a : BitVec 7} {x : BitVec 3} (hr : Ready (.vpack d a x) s c) (hs : c.shaped = true) :
    Does (.vpack d a x) s c (writesArith (regsFrom d.toNat 1) c.active (x == 0)) fun _ => True := by
  have he : exec (.vpack d a x) s = _ := issueSplit_of_ready hr _
  exact Does.of_groupDone he hs id

theorem vunpk_does {s : State} {c : Cx} {d a : BitVec 7} {x : BitVec 3} (hr : Ready (.vunpk d a x) s c) (hs : c.shaped = true) :
    Does (.vunpk d a x) s c (writesArith (regsFrom d.toNat (if x = 2 then 16 else 8)) c.active false) fun _ => True := by
  have he : exec (.vunpk d a x) s = _ := issueSplit_of_ready hr _
  exact Does.of_groupDone he hs id

theorem vdot4_does {s : State} {c : Cx} {d a b : BitVec 7} {g : BitVec 2} (hr : Ready (.vdot4 d a b g) s c) (hs : c.shaped = true) :
    Does (.vdot4 d a b g) s c (writesArith (regsFrom d.toNat 1) c.active false) fun _ => True := by
  have he : exec (.vdot4 d a b g) s = _ := issueSplit_of_ready hr _
  exact Does.of_writeResult (wide := false) (counts := false) (rm := .rne) he hs (fun _ h => h) id

/-- The lanes of blocks of a mask, and of a mask within it, are lanes of the mask. -/
theorem blocks_within (m : Mask) (l : List Nat) (w : Nat) {i : Nat} (acc : Mask) (hacc : acc.getLsbD i = true → m.getLsbD i = true)
    (h : ((l.map fun k => laneRange (w * k) w &&& m).foldl (fun acc b => acc ||| b) acc).getLsbD i = true) :
    m.getLsbD i = true := by
  induction l generalizing acc with
  | nil => exact hacc h
  | cons k l ih =>
    refine ih _ (fun hk => ?_) h
    rw [BitVec.getLsbD_or, BitVec.getLsbD_and, Bool.or_eq_true, Bool.and_eq_true] at hk
    exact hk.elim hacc And.right

/-- An instruction that ends with a register written in some active lanes, and status. -/
theorem Does.of_putRow_setStatus {i : Instr} {s : State} {c : Cx} {d : Nat} {m : Mask} {new : Row} {flags : Flags}
    (he : exec i s = (((c.settle i).putRow d m new).setStatus flags).done) (hs : c.shaped = true)
    (hm : ∀ l, m.getLsbD l = true → c.active.getLsbD l = true) :
    Does i s c (writesArith (regsFrom d 1) c.active false) fun _ => True :=
  Does.of_done he ((((c.settle i).putRow_keeps d m new).mono (b := writesArith (regsFrom d 1) c.active false)
    { vectors := fun _ h => h, lanes := hm }).trans ((Cx.setStatus_keeps _ flags).mono {})) (Cx.putRow_shaped d m new hs) trivial

theorem vqblk_does {s : State} {c : Cx} {d a : BitVec 7} {b : BitVec 2} {x : BitVec 3} (hr : Ready (.vqblk d a b x) s c)
    (hs : c.shaped = true) : Does (.vqblk d a b x) s c (writesArith (regsFrom d.toNat 1) c.active false) fun _ => True := by
  obtain ⟨t, ht⟩ := hr.elemType rfl
  have ht' : elemTypeOf (c.settle (.vqblk d a b x)).type = some t := ht
  have he : exec (.vqblk d a b x) s = _ := issueSplit_of_ready hr _
  rw [ht'] at he
  exact Does.of_putRow_setStatus he hs fun l h => blocks_within _ _ _ 0 (by simp) h

/-! ### Reductions and scans (R140, R141, R346) -/

/-- The operator of a collective works on register pairs. -/
def Cx.redWide (c : Cx) (x : BitVec 3) : Bool := isWide64 c.type && decide (x.toNat < 5)

/-- The leaves of one half of the lanes. -/
def Cx.redLeaves (c : Cx) (x : BitVec 3) (t : ElemType) (a : Nat) (h : Nat × Nat) : List (Option Node) :=
  leavesOf t c.active (c.operand a (c.redWide x)) h.1 h.2

/-- The trees of `vred`, one for each half. -/
def Cx.redTrees (c : Cx) (x : BitVec 3) (t : ElemType) (a : Nat) : List ((Nat × Nat) × Option Node) :=
  (halves (isShadow c.s c.w)).map fun h => (h, treeReduce (c.redNode x t (c.rounding 0)) (c.redLeaves x t a h))

/-- The tree of `vscan` for one lane of a half. -/
def Cx.scanTree (c : Cx) (x : BitVec 3) (t : ElemType) (a : Nat) (excl : Bool) (h : Nat × Nat) (j : Nat) : Option Node :=
  if c.active.getLsbD (h.1 + j) then treeReduce (c.redNode x t (c.rounding 0)) (scanLeaves (c.redLeaves x t a h) excl j) else none

/-- The trees of `vscan`, one for each lane. -/
def Cx.scanTrees (c : Cx) (x : BitVec 3) (t : ElemType) (a : Nat) (excl : Bool) : List (Option Node) :=
  (halves (isShadow c.s c.w)).flatMap fun h => (List.range h.2).map (c.scanTree x t a excl h)

/-- The values a collective writes, lane by lane. -/
def Cx.collectValues (c : Cx) (scan : Bool) (x : BitVec 3) (t : ElemType) (a : Nat) (excl : Bool) : List DWord :=
  if scan then (c.scanTrees x t a excl).map (nodeValue x t)
  else (c.redTrees x t a).flatMap fun r => List.replicate r.1.2 (nodeValue x t r.2)

/-- The status a collective earns. -/
def Cx.collectFlags (c : Cx) (scan : Bool) (x : BitVec 3) (t : ElemType) (a : Nat) (excl : Bool) : Flags :=
  if scan then allFlags ((c.scanTrees x t a excl).map nodeFlags) else allFlags ((c.redTrees x t a).map fun r => nodeFlags r.2)

/-- The split as a collective leaves it. -/
def Cx.collectWrite (c : Cx) (scan : Bool) (x : BitVec 3) (t : ElemType) (d a : Nat) (excl : Bool) : Cx :=
  c.writeResult d (c.redWide x) c.active (c.collectValues scan x t a excl) (c.collectFlags scan x t a excl)
    (decide (x = 0 ∧ classOfType t ≠ .int)) (c.rounding 0)

/-- The type a collective's operator works in: the one in force, or 32-bit words. -/
def Cx.redTypeOf (c : Cx) (x : BitVec 3) : Option ElemType := if x.toNat < 5 then elemTypeOf c.type else some .n32

/-- `vred` and `vscan`, in one. -/
def collective (scan : Bool) (d a : BitVec 7) (ex : BitVec 1) (x : BitVec 3) : Instr := if scan then .vscan d a ex x else .vred d a x

theorem exec_collective {s : State} {c : Cx} {scan : Bool} {d a : BitVec 7} {ex : BitVec 1} {x : BitVec 3} {t : ElemType}
    (hr : Ready (collective scan d a ex x) s c) (ht : c.redTypeOf x = some t) :
    exec (collective scan d a ex x) s =
      ((c.settle (collective scan d a ex x)).collectWrite scan x t d.toNat a.toNat (ex == 1)).done := by
  cases scan with
  | true =>
    have ht' : (if x.toNat < 5 then elemTypeOf (c.settle (collective true d a ex x)).type else some .n32) = some t := ht
    have he : exec (.vscan d a ex x) s = _ := issueSplit_of_ready hr _
    rw [ht'] at he
    refine he.trans (congrArg Cx.done ?_)
    simp only [Cx.collectWrite, Cx.writeResult, decide_eq_true_eq]
    rfl
  | false =>
    have ht' : (if x.toNat < 5 then elemTypeOf (c.settle (collective false d a ex x)).type else some .n32) = some t := ht
    have he : exec (.vred d a x) s = _ := issueSplit_of_ready hr _
    rw [ht'] at he
    refine he.trans (congrArg Cx.done ?_)
    simp only [Cx.collectWrite, Cx.writeResult, decide_eq_true_eq]
    rfl

theorem Ready.redType {s : State} {c : Cx} {scan : Bool} {d a : BitVec 7} {ex : BitVec 1} {x : BitVec 3}
    (hr : Ready (collective scan d a ex x) s c) : ∃ t, c.redTypeOf x = some t := by
  have hneed : typeNeed (collective scan d a ex x) = redNeed x := by cases scan <;> rfl
  unfold Cx.redTypeOf
  split
  · next hx =>
    refine hr.elemType ?_
    rw [hneed, redNeed]
    split
    · rfl
    · rw [if_pos (by omega)]
      rfl
  · exact ⟨_, rfl⟩

theorem collective_does {s : State} {c : Cx} {scan : Bool} {d a : BitVec 7} {ex : BitVec 1} {x : BitVec 3}
    (hr : Ready (collective scan d a ex x) s c) (hs : c.shaped = true) :
    Does (collective scan d a ex x) s c (writesArith (regsFrom d.toNat (if x.toNat < 5 then c.regs else 1)) c.active (x == 0))
      fun _ => True := by
  obtain ⟨t, ht⟩ := hr.redType
  have hregs : (if (c.settle (collective scan d a ex x)).redWide x then 2 else 1) = if x.toNat < 5 then c.regs else 1 := by
    by_cases hx : x.toNat < 5
    · simp only [Cx.redWide, hx, decide_true, Bool.and_true, if_true]
      rfl
    · simp only [Cx.redWide, hx, decide_false, Bool.and_false, Bool.false_eq_true, if_false]
  refine Does.of_writeResult (exec_collective hr ht) hs (by rw [hregs]; exact fun _ h => h) fun h => ?_
  rw [decide_eq_true_eq] at h
  simp [h.1]

theorem conversionFrames : Claims.ConversionFrames := by
  intro i s c d n draws hc _ hs hr
  have h0 := hc
  cases i with
  | vcvt D a src r =>
    unfold conversion at hc
    dsimp only at hc
    split at hc
    · next t u ht hu =>
      cases hc
      exact vcvt_does hr hs ht hu
    · cases hc
  | vpack D a x => cases hc; exact vpack_does hr hs
  | vunpk D a x => cases hc; exact vunpk_does hr hs
  | vred D a x => cases hc; exact collective_does (scan := false) (ex := 0) hr hs
  | vscan D a ex x => cases hc; exact collective_does (scan := true) hr hs
  | vdot4 D a b g => cases hc; exact vdot4_does hr hs
  | vqblk D a b x => cases hc; exact vqblk_does hr hs
  | _ => cases h0

/-- Settles O10: a typed instruction, a conversion and a collective each end with one write of their destination in the active lanes,
of status and of stochastic counts. -/
theorem typedFrames : Obligations.TypedFrames := ⟨typedFramesAlone, conversionFrames⟩

end Sys2Proof.Machine

namespace Sys2Proof.Machine

open Sys2Proof.Claims

/-! ### The tree of a collective (R71) -/

/-- A node of the tree from its two children: the one that is there, or the operator applied to both. -/
def joinNodes {α : Type} (op : α → α → α) : Option α → Option α → Option α
  | none, h => h
  | some a, none => some a
  | some a, some b => some (op a b)

theorem treeLevel_cons_cons {α : Type} (op : Nat → α → α → α) (j : Nat) (l h : Option α) (rest : List (Option α)) :
    treeLevel op j (l :: h :: rest) = joinNodes (op j) l h :: treeLevel op (j + 1) rest := by
  cases l <;> cases h <;> rfl

section

variable {ι α : Type} {P : List ι → Option α → Prop}

/-- One level of the tree joins neighbours: what its nodes stand for, put together, stays the same. -/
theorem treeLevel_covers {op : Nat → α → α → α} (hop : ∀ j s t l h, P s l → P t h → P (s ++ t) (joinNodes (op j) l h)) (j : Nat) :
    ∀ {parts : List (List ι)} {nodes : List (Option α)}, List.Forall₂ P parts nodes →
      ∃ joined, List.Forall₂ P joined (treeLevel op j nodes) ∧ joined.flatten = parts.flatten ∧
        joined.length = (parts.length + 1) / 2
  | [], [], _ => ⟨[], .nil, rfl, by simp⟩
  | [s], [l], h => ⟨[s], h, rfl, by simp⟩
  | s :: t :: parts, l :: h :: nodes, .cons hs (.cons ht rest) => by
    obtain ⟨joined, hj, hflat, hlen⟩ := treeLevel_covers hop (j + 1) rest
    refine ⟨(s ++ t) :: joined, ?_, by simp [hflat], by simp only [List.length_cons, hlen]; omega⟩
    rw [treeLevel_cons_cons]
    exact .cons (hop j s t l h hs ht) hj

/-- The levels of the tree, one after another, leave one node that stands for everything. -/
theorem treeLevels_covers {op : Nat → Nat → α → α → α}
    (hop : ∀ w j s t l h, P s l → P t h → P (s ++ t) (joinNodes (op w j) l h)) :
    ∀ (widths : List Nat) {parts : List (List ι)} {nodes : List (Option α)}, List.Forall₂ P parts nodes →
      parts.length = 2 ^ widths.length →
      ∃ n, (widths.foldl (fun node w => treeLevel (op w) 0 node) nodes) = [n] ∧ P parts.flatten n
  | [], [s], [n], .cons h .nil, _ => ⟨n, rfl, by simpa using h⟩
  | w :: widths, parts, nodes, h, hlen => by
    obtain ⟨joined, hj, hflat, hl⟩ := treeLevel_covers (hop w) 0 h
    rw [← hflat]
    refine treeLevels_covers hop widths hj ?_
    rw [hl, hlen, List.length_cons, Nat.pow_succ]
    omega

/-- tree_reduce over the leaves of some lanes, in order: what holds of a leaf and is kept by a join holds of the tree. -/
theorem treeReduce_covers {op : Nat → Nat → α → α → α} (hnone : P [] none)
    (hop : ∀ w j s t l h, P s l → P t h → P (s ++ t) (joinNodes (op w j) l h)) {leaf : ι → Option α} {p : ι → Bool} {lanes : List ι}
    (hleaf : ∀ q ∈ lanes, P (if p q then [q] else []) (leaf q)) (hlen : lanes.length ≤ 128) :
    P (lanes.filter p) (treeReduce op (lanes.map leaf)) := by
  have hleaves : List.Forall₂ P (lanes.map fun q => if p q then [q] else []) (lanes.map leaf) := by
    rw [List.forall₂_map_left_iff, List.forall₂_map_right_iff, List.forall₂_same]
    exact hleaf
  have hpad (n : Nat) : List.Forall₂ P (List.replicate n []) (List.replicate n (none : Option α)) := by
    induction n with
    | zero => exact .nil
    | succ n ih => exact .cons hnone ih
  obtain ⟨n, hrun, hn⟩ := treeLevels_covers hop [64, 32, 16, 8, 4, 2, 1]
    (List.rel_append hleaves (hpad (128 - (lanes.map leaf).length))) (by simp; omega)
  have hflat : ((lanes.map fun q => if p q then [q] else []) ++ List.replicate (128 - (lanes.map leaf).length) []).flatten =
      lanes.filter p := by
    rw [List.flatten_append, List.flatten_replicate_nil, List.append_nil]
    clear hleaf hlen hleaves hrun hn
    induction lanes with
    | nil => rfl
    | cons q lanes ih => by_cases hq : p q = true <;> simp [hq, ih]
  unfold treeReduce
  rw [hrun, ← hflat]
  exact hn

end

/-! ### The lanes of a half (R346) -/

/-- The numbers of a range that lie in a part of it. -/
theorem filter_range_between {lo n N : Nat} (h : lo + n ≤ N) :
    (List.range N).filter (fun q => decide (lo ≤ q) && decide (q < lo + n)) = (List.range n).map (lo + ·) := by
  obtain ⟨r, rfl⟩ := Nat.exists_eq_add_of_le h
  rw [List.range_add, List.range_add, List.filter_append, List.filter_append]
  have h1 : (List.range lo).filter (fun q => decide (lo ≤ q) && decide (q < lo + n)) = [] := by
    rw [List.filter_eq_nil_iff]
    intro q hq
    have := List.mem_range.mp hq
    simp
    omega
  have h2 : ((List.range n).map (lo + ·)).filter (fun q => decide (lo ≤ q) && decide (q < lo + n)) = (List.range n).map (lo + ·) := by
    rw [List.filter_eq_self]
    intro q hq
    obtain ⟨k, hk, rfl⟩ := List.mem_map.mp hq
    simpa using hk
  have h3 : ((List.range r).map (lo + n + ·)).filter (fun q => decide (lo ≤ q) && decide (q < lo + n)) = [] := by
    rw [List.filter_eq_nil_iff]
    intro q hq
    obtain ⟨k, hk, rfl⟩ := List.mem_map.mp hq
    simp
  rw [h1, h2, h3, List.nil_append, List.append_nil]

/-- The half of the lanes that a lane's collectives run over: its first lane, and how many. -/
def Cx.halfOf (c : Cx) (l : Nat) : Nat × Nat := if isShadow c.s c.w then (48 * (l / 48), 48) else (0, 96)

/-- It holds the lane, and of the lanes of the warp those that are paired with the same half. -/
theorem Cx.halfOf_spec (c : Cx) {l : Nat} (hl : l < 96) : (c.halfOf l).1 ≤ l ∧ l < (c.halfOf l).1 + (c.halfOf l).2 ∧
    (c.halfOf l).1 + (c.halfOf l).2 ≤ 96 ∧
    ∀ q, q < 96 → ((c.halfOf l).1 ≤ q ∧ q < (c.halfOf l).1 + (c.halfOf l).2 ↔ (!isShadow c.s c.w || q / 48 == l / 48) = true) := by
  unfold Cx.halfOf
  cases isShadow c.s c.w with
  | true =>
    simp only [if_true, Bool.not_true, Bool.false_or, beq_iff_eq]
    exact ⟨by omega, by omega, by omega, fun q hq => by omega⟩
  | false =>
    simp only [Bool.false_eq_true, if_false, Bool.not_false, Bool.true_or, iff_true]
    exact ⟨by omega, by omega, by omega, fun q hq => by omega⟩

/-- How many lanes of its half a lane's result combines, present or not. -/
def Cx.scanCount (c : Cx) (scan excl : Bool) (l : Nat) : Nat :=
  if scan then (if excl then l - (c.halfOf l).1 else l - (c.halfOf l).1 + 1) else (c.halfOf l).2

/-- The lanes whose values a lane's result combines, present or not. -/
def Cx.scannedLanes (c : Cx) (scan excl : Bool) (l : Nat) : List Nat :=
  (List.range (c.scanCount scan excl l)).map ((c.halfOf l).1 + ·)

theorem Cx.scanCount_le (c : Cx) (scan excl : Bool) {l : Nat} (hl : l < 96) : (c.halfOf l).1 + c.scanCount scan excl l ≤ 96 := by
  obtain ⟨h1, h2, h3, -⟩ := c.halfOf_spec hl
  unfold Cx.scanCount
  cases scan <;> cases excl <;> simp <;> omega

theorem Cx.scannedLanes_length_le (c : Cx) (scan excl : Bool) {l : Nat} (hl : l < 96) : (c.scannedLanes scan excl l).length ≤ 128 := by
  have h := c.scanCount_le scan excl hl
  rw [Cx.scannedLanes, List.length_map, List.length_range]
  omega

theorem Cx.mem_scannedLanes {c : Cx} {scan excl : Bool} {l q : Nat} (hl : l < 96) (hq : q ∈ c.scannedLanes scan excl l) : q < 96 := by
  obtain ⟨k, hk, rfl⟩ := List.mem_map.mp hq
  have hk := List.mem_range.mp hk
  have h := c.scanCount_le scan excl hl
  omega

/-- The present ones among them are the lanes the rules name. -/
theorem Cx.filter_scannedLanes (c : Cx) (scan excl : Bool) {l : Nat} (hl : l < 96) :
    (c.scannedLanes scan excl l).filter c.active.getLsbD = combined c scan excl l := by
  obtain ⟨h1, h2, h3, hpeer⟩ := c.halfOf_spec hl
  unfold combined peers Cx.scannedLanes
  rw [← filter_range_between (c.scanCount_le scan excl hl), List.filter_filter, List.filter_filter]
  refine List.filter_congr fun q hq => ?_
  have hp := hpeer q (List.mem_range.mp hq)
  have hscan : (!scan || decide (if excl then q < l else q ≤ l)) = true ↔ (scan = true → if excl then q < l else q ≤ l) := by
    cases scan <;> simp
  rw [Bool.eq_iff_iff]
  simp only [Bool.and_eq_true, decide_eq_true_eq]
  rw [← hp, hscan]
  unfold Cx.scanCount
  cases c.active.getLsbD q with
  | false => simp
  | true =>
    cases scan with
    | false => simp
    | true => cases excl <;> simp <;> omega

/-! ### The values of a collective -/

/-- The leaf of a lane. -/
def Cx.redLeaf (c : Cx) (x : BitVec 3) (t : ElemType) (a q : Nat) : Option Node :=
  if c.active.getLsbD q then
    some { elems := splitElems (elemBits t) (elemCount t) ((c.operand a (c.redWide x)).getD q 0).toNat, flags := noFlags, lane := q }
  else none

/-- The tree of a lane's result. -/
def Cx.laneTree (c : Cx) (scan : Bool) (x : BitVec 3) (t : ElemType) (a : Nat) (excl : Bool) (l : Nat) : Option Node :=
  treeReduce (c.redNode x t (c.rounding 0)) ((c.scannedLanes scan excl l).map (c.redLeaf x t a))

theorem Cx.redLeaves_eq (c : Cx) (x : BitVec 3) (t : ElemType) (a : Nat) (h : Nat × Nat) :
    c.redLeaves x t a h = ((List.range h.2).map (h.1 + ·)).map (c.redLeaf x t a) := by
  rw [List.map_map]
  rfl

theorem Cx.redTree_eq_laneTree (c : Cx) (x : BitVec 3) (t : ElemType) (a : Nat) (excl : Bool) (l : Nat) :
    treeReduce (c.redNode x t (c.rounding 0)) (c.redLeaves x t a (c.halfOf l)) = c.laneTree false x t a excl l := by
  rw [c.redLeaves_eq]
  rfl

theorem Cx.scanTree_eq_laneTree {c : Cx} {x : BitVec 3} {t : ElemType} {a : Nat} {excl : Bool} {l : Nat} (hl : l < 96)
    (hm : c.active.getLsbD l = true) :
    c.scanTree x t a excl (c.halfOf l) (l - (c.halfOf l).1) = c.laneTree true x t a excl l := by
  obtain ⟨h1, h2, h3, -⟩ := c.halfOf_spec hl
  rw [Cx.scanTree, if_pos (by rwa [Nat.add_sub_cancel' h1]), c.redLeaves_eq, scanLeaves, ← List.map_take, ← List.map_take, List.take_range,
    Nat.min_eq_left (by cases excl <;> simp <;> omega)]
  rfl

/-- A list made of one run per half holds at a lane what its half's run holds there. -/
theorem Cx.flatMap_halves_getD {α : Type} (c : Cx) (f : Nat × Nat → List α) (hf : ∀ h, (f h).length = h.2) {l : Nat} (hl : l < 96) (z : α) :
    ((halves (isShadow c.s c.w)).flatMap f).getD l z = (f (c.halfOf l)).getD (l - (c.halfOf l).1) z := by
  unfold Cx.halfOf halves
  cases isShadow c.s c.w with
  | false => simp
  | true =>
    simp only [if_true, List.flatMap_cons, List.flatMap_nil, List.append_nil, List.getD_eq_getElem?_getD]
    by_cases h : l < 48
    · rw [List.getElem?_append_left (by rwa [hf]), Nat.div_eq_of_lt h]
      rfl
    · have hd : l / 48 = 1 := by omega
      rw [List.getElem?_append_right (by rw [hf]; omega), hf, hd]

theorem Cx.collectValues_getD {c : Cx} (scan : Bool) (x : BitVec 3) (t : ElemType) (a : Nat) (excl : Bool) {l : Nat} (hl : l < 96)
    (hm : c.active.getLsbD l = true) :
    (c.collectValues scan x t a excl).getD l 0 = nodeValue x t (c.laneTree scan x t a excl l) := by
  obtain ⟨h1, h2, h3, -⟩ := c.halfOf_spec hl
  cases scan with
  | true =>
    simp only [Cx.collectValues, if_true, Cx.scanTrees, List.map_flatMap]
    rw [c.flatMap_halves_getD _ (fun h => by simp) hl]
    simp only [List.map_map, List.getD_eq_getElem?_getD, List.getElem?_map, List.getElem?_range (show l - (c.halfOf l).1 < (c.halfOf l).2 by omega)]
    exact congrArg (nodeValue x t) (Cx.scanTree_eq_laneTree hl hm)
  | false =>
    simp only [Cx.collectValues, Bool.false_eq_true, if_false, Cx.redTrees, List.flatMap_map]
    rw [c.flatMap_halves_getD _ (fun h => by simp) hl, List.getD_replicate _ (by omega)]
    exact congrArg (nodeValue x t) (Cx.redTree_eq_laneTree c x t a excl l)

theorem Cx.collectValues_length (c : Cx) (scan : Bool) (x : BitVec 3) (t : ElemType) (a : Nat) (excl : Bool) :
    (c.collectValues scan x t a excl).length = 96 := by
  cases scan with
  | true => cases h : isShadow c.s c.w <;> simp [Cx.collectValues, Cx.scanTrees, halves, h]
  | false => cases h : isShadow c.s c.w <;> simp [Cx.collectValues, Cx.redTrees, halves, h]

end Sys2Proof.Machine

namespace Sys2Proof.Machine

open Sys2Proof.Claims

/-! ### What the nodes of a collective stand for -/

/-- A relation of codes combined and the code that stands for them, which an operator of R140 keeps. -/
structure RedLaws (R : List Nat → Nat → Prop) (x : BitVec 3) (t : ElemType) (sat : Bool) : Prop where
  bound : ∀ {l v}, R l v → v < 2 ^ elemBits t
  empty : R [] (redEmpty x t)
  leaf : ∀ {v}, v < 2 ^ elemBits t → R [v] v
  join : ∀ {e : ElemCx} {l m u v}, e.t = t → e.sat = sat → R l u → R m v → R (l ++ m) (redElem x e u v).1

/-- The element that a lane gives to a collective. -/
def Cx.redCode (c : Cx) (x : BitVec 3) (t : ElemType) (a k q : Nat) : Nat := elemAt (elemBits t) k (c.wideLane a (c.redWide x) q).toNat

/-- The elements that a tree gives, the empty value's for no tree. -/
def nodeElems (x : BitVec 3) (t : ElemType) : Option Node → List Nat
  | some r => r.elems
  | none => List.replicate (elemCount t) (redEmpty x t)

/-- A node stands for some lanes: each of its elements for those of the lanes, and no node for no lane. -/
def Cx.StandsFor (c : Cx) (R : List Nat → Nat → Prop) (x : BitVec 3) (t : ElemType) (a : Nat) (lanes : List Nat) : Option Node → Prop
  | some r => r.elems.length = elemCount t ∧ ∀ k, k < elemCount t → R (lanes.map (c.redCode x t a k)) (r.elems.getD k 0)
  | none => lanes = []

section

variable {c : Cx} {R : List Nat → Nat → Prop} {x : BitVec 3} {t : ElemType} {a : Nat}

theorem Cx.StandsFor.join (hR : RedLaws R x t (modeSat c.sp.mode)) {rm : Rnd} {w j : Nat} {l m : List Nat} {n o : Option Node}
    (hn : c.StandsFor R x t a l n) (ho : c.StandsFor R x t a m o) :
    c.StandsFor R x t a (l ++ m) (joinNodes (c.redNode x t rm w j) n o) := by
  cases n with
  | none =>
    rw [show l = [] from hn]
    exact ho
  | some p =>
    cases o with
    | none =>
      rw [show m = [] from ho, List.append_nil]
      exact hn
    | some q =>
      obtain ⟨hlp, hp⟩ := hn
      obtain ⟨hlq, hq⟩ := ho
      refine ⟨by simp [redNode, hlp, hlq], fun k hk => ?_⟩
      have hpk : p.elems[k]? = some (p.elems.getD k 0) := by simp [List.getD_eq_getElem?_getD, hlp, hk]
      have hqk : q.elems[k]? = some (q.elems.getD k 0) := by simp [List.getD_eq_getElem?_getD, hlq, hk]
      rw [List.map_append]
      simp only [redNode, List.getD_eq_getElem?_getD, List.getElem?_map, List.getElem?_mapIdx, List.getElem?_zip_eq_some (z := (p.elems.getD k 0, q.elems.getD k 0)) |>.mpr ⟨hpk, hqk⟩,
        Option.map_some, Option.getD_some]
      exact hR.join rfl rfl (hp k hk) (hq k hk)

theorem Cx.StandsFor.redLeaf (hR : RedLaws R x t (modeSat c.sp.mode)) (hs : c.shaped = true) {q : Nat} (hq : q < 96) :
    c.StandsFor R x t a (if c.active.getLsbD q then [q] else []) (c.redLeaf x t a q) := by
  unfold Cx.redLeaf
  by_cases hm : c.active.getLsbD q = true
  · rw [if_pos hm, if_pos hm, Cx.operand_getD hs _ _ hq]
    refine ⟨by simp [splitElems], fun k hk => ?_⟩
    have he : (splitElems (elemBits t) (elemCount t) (c.wideLane a (c.redWide x) q).toNat).getD k 0 = c.redCode x t a k q := by
      simp [splitElems, List.getD_eq_getElem?_getD, hk, Cx.redCode]
    rw [he]
    exact hR.leaf (elemAt_lt _ _ _)
  · rw [if_neg hm, if_neg hm]
    rfl

/-- The tree of a lane's result stands for the lanes the rules name. -/
theorem Cx.laneTree_standsFor (hR : RedLaws R x t (modeSat c.sp.mode)) (hs : c.shaped = true) (scan excl : Bool) {l : Nat} (hl : l < 96) :
    c.StandsFor R x t a (combined c scan excl l) (c.laneTree scan x t a excl l) := by
  rw [← c.filter_scannedLanes scan excl hl]
  exact treeReduce_covers rfl (fun w j s m n o hn ho => Cx.StandsFor.join hR hn ho)
    (fun q hq => Cx.StandsFor.redLeaf hR hs (Cx.mem_scannedLanes hl hq)) (c.scannedLanes_length_le scan excl hl)

theorem Cx.StandsFor.elems (hR : RedLaws R x t (modeSat c.sp.mode)) {lanes : List Nat} {n : Option Node}
    (h : c.StandsFor R x t a lanes n) : (nodeElems x t n).length = elemCount t ∧
      ∀ k, k < elemCount t → R (lanes.map (c.redCode x t a k)) ((nodeElems x t n).getD k 0) := by
  cases n with
  | some r => exact h
  | none =>
    rw [show lanes = [] from h]
    refine ⟨List.length_replicate, fun k hk => ?_⟩
    rw [nodeElems, List.getD_replicate _ hk]
    exact hR.empty

/-- The elements of a lane's result: each is a code, and stands for those of the lanes the rules name. -/
theorem Cx.laneTree_elems (hR : RedLaws R x t (modeSat c.sp.mode)) (hs : c.shaped = true) (scan excl : Bool) {l : Nat} (hl : l < 96) :
    (nodeElems x t (c.laneTree scan x t a excl l)).length = elemCount t ∧
    (∀ v ∈ nodeElems x t (c.laneTree scan x t a excl l), v < 2 ^ elemBits t) ∧
    ∀ k, k < elemCount t → R ((combined c scan excl l).map (c.redCode x t a k))
      ((nodeElems x t (c.laneTree scan x t a excl l)).getD k 0) := by
  obtain ⟨hlen, hel⟩ := (Cx.laneTree_standsFor (a := a) hR hs scan excl hl).elems hR
  refine ⟨hlen, fun v hv => ?_, hel⟩
  obtain ⟨k, hk, rfl⟩ := List.mem_iff_getElem.mp hv
  have := hR.bound (hel k (hlen ▸ hk))
  simpa [List.getD_eq_getElem?_getD, hk] using this

theorem nodeValue_eq (hclass : classOfType t = .int) (n : Option Node) :
    nodeValue x t n = BitVec.ofNat 64 (packElems (elemBits t) (nodeElems x t n)) := by
  cases n with
  | none => rfl
  | some r =>
    have hw : writtenElem t = id := by
      funext v
      simp [writtenElem, hclass]
    rw [nodeValue, hw, List.map_id]
    rfl

/-- The value that a collective leaves in an active lane. -/
theorem Cx.collectWrite_wideLane (hclass : classOfType t = .int) (hs : c.shaped = true) {scan excl : Bool} {d l : Nat} (hl : l < 96)
    (hm : c.active.getLsbD l = true) :
    let v := BitVec.ofNat 64 (packElems (elemBits t) (nodeElems x t (c.laneTree scan x t a excl l)))
    (c.collectWrite scan x t d a excl).wideLane d (c.redWide x) l = if c.redWide x then v else (loWord v).setWidth 64 := by
  dsimp only
  rw [← nodeValue_eq hclass, ← Cx.collectValues_getD scan x t a excl hl hm]
  exact Cx.writeResult_wideLane hs hl (c.collectValues_length scan x t a excl) hm

end

/-! ### Sums, minima and maxima of integers (R140) -/

theorem foldr_min_le (h : Int) (l : List Int) : l.foldr min h ≤ h := by
  induction l with
  | nil => exact le_rfl
  | cons a l ih => exact (min_le_right _ _).trans ih

theorem le_foldr_max (h : Int) (l : List Int) : h ≤ l.foldr max h := by
  induction l with
  | nil => exact le_rfl
  | cons a l ih => exact ih.trans (le_max_right _ _)

theorem foldr_min_append (h : Int) (l m : List Int) : (l ++ m).foldr min h = min (l.foldr min h) (m.foldr min h) := by
  induction l with
  | nil => exact (min_eq_right (foldr_min_le h m)).symm
  | cons a l ih => rw [List.cons_append, List.foldr_cons, ih, List.foldr_cons, min_assoc]

theorem foldr_max_append (h : Int) (l m : List Int) : (l ++ m).foldr max h = max (l.foldr max h) (m.foldr max h) := by
  induction l with
  | nil => exact (max_eq_right (le_foldr_max h m)).symm
  | cons a l ih => rw [List.cons_append, List.foldr_cons, ih, List.foldr_cons, max_assoc]

theorem le_foldr_min {b h : Int} {l : List Int} (hb : b ≤ h) (hl : ∀ a ∈ l, b ≤ a) : b ≤ l.foldr min h := by
  induction l with
  | nil => exact hb
  | cons a l ih =>
    obtain ⟨ha, hl⟩ := List.forall_mem_cons.mp hl
    exact le_min ha (ih hl)

theorem foldr_max_le {b h : Int} {l : List Int} (hb : h ≤ b) (hl : ∀ a ∈ l, a ≤ b) : l.foldr max h ≤ b := by
  induction l with
  | nil => exact hb
  | cons a l ih =>
    obtain ⟨ha, hl⟩ := List.forall_mem_cons.mp hl
    exact max_le ha (ih hl)

/-- The operators of `vred` and `vscan` on two integers. -/
def reduceTwo (x : BitVec 3) (a b : Int) : Int :=
  match x.toNat with
  | 0 => a + b
  | 1 => min a b
  | _ => max a b

theorem arithmetic_operator {x : BitVec 3} (h : x.toNat < 3) : x = 0 ∨ x = 1 ∨ x = 2 := by
  revert x
  decide

theorem reduceInt_append {x : BitVec 3} (hx : x.toNat < 3) (w : Nat) (signed : Bool) (l m : List Int) :
    reduceInt x w signed (l ++ m) = reduceTwo x (reduceInt x w signed l) (reduceInt x w signed m) := by
  rcases arithmetic_operator hx with rfl | rfl | rfl
  · exact List.sum_append
  · exact foldr_min_append _ l m
  · exact foldr_max_append _ l m

/-- Of codes of a type the least and the greatest integer are in the type's range too. -/
theorem reduceInt_range {x : BitVec 3} (hx : x.toNat < 3) (h0 : x ≠ 0) {w : Nat} (hw : 0 < w) (signed : Bool) (l : List Nat) :
    intLow w signed ≤ reduceInt x w signed (l.map (intOf w signed)) ∧
    reduceInt x w signed (l.map (intOf w signed)) ≤ intHigh w signed := by
  have hle := intLow_le_intHigh hw signed
  have hl : ∀ a ∈ l.map (intOf w signed), intLow w signed ≤ a ∧ a ≤ intHigh w signed := by
    intro a ha
    obtain ⟨q, -, rfl⟩ := List.mem_map.mp ha
    obtain ⟨hl, hh, -⟩ := intOf_spec hw signed q
    exact ⟨hl, hh⟩
  rcases arithmetic_operator hx with rfl | rfl | rfl
  · exact absurd rfl h0
  · exact ⟨le_foldr_min hle fun a ha => (hl a ha).1, foldr_min_le _ _⟩
  · exact ⟨le_foldr_max _ _, foldr_max_le hle fun a ha => (hl a ha).2⟩

/-- A code stands for codes combined: the integers are congruent. -/
def IntCombines (x : BitVec 3) (w : Nat) (signed : Bool) (l : List Nat) (v : Nat) : Prop :=
  v < 2 ^ w ∧ (2 ^ w : Int) ∣ reduceInt x w signed (l.map (intOf w signed)) - intOf w signed v

theorem IntCombines.eq {x : BitVec 3} (hx : x.toNat < 3) (h0 : x ≠ 0) {w : Nat} (hw : 0 < w) {signed : Bool} {l : List Nat} {v : Nat}
    (h : IntCombines x w signed l v) : reduceInt x w signed (l.map (intOf w signed)) = intOf w signed v := by
  obtain ⟨hl, hh, -⟩ := intOf_spec hw signed v
  exact eq_of_dvd_of_range hw h.2 (reduceInt_range hx h0 hw signed l) ⟨hl, hh⟩

/-- What the operator gives on two codes, fitted to the type. -/
theorem redElem_fits {x : BitVec 3} (hx : x.toNat < 3) {e : ElemCx} (hclass : classOfType e.t = .int) {u v : Nat}
    (hu : u < 2 ^ elemBits e.t) (hv : v < 2 ^ elemBits e.t) :
    fits (elemBits e.t) (elemSigned e.t) e.sat (reduceTwo x (intIn e u) (intIn e v)) (intIn e (redElem x e u v).1) ∧
    (redElem x e u v).1 < 2 ^ elemBits e.t := by
  rcases arithmetic_operator hx with rfl | rfl | rfl
  · exact FitsExact.of_intOut (g := addElem false) (f := fun a b _ => a + b) (fun e k p q r hi => by simp [addElem, hi]) e 0 u v 0 hclass hu hv
  · exact FitsExact.of_minElem false false e 0 u v 0 hclass hu hv
  · exact FitsExact.of_minElem true false e 0 u v 0 hclass hu hv

theorem fits_dvd {w : Nat} {signed sat : Bool} {x y : Int} (h : fits w signed sat x y)
    (hr : sat = false ∨ intLow w signed ≤ x ∧ x ≤ intHigh w signed) : (2 ^ w : Int) ∣ y - x := by
  obtain ⟨-, -, h⟩ := (fits_iff w signed sat x y).mp h
  rwa [if_neg, if_neg] at h
  · rintro ⟨rfl, hlt⟩
    obtain h | h := hr
    · cases h
    · omega
  · rintro ⟨rfl, hlt⟩
    obtain h | h := hr
    · cases h
    · omega

theorem intCombines_laws {x : BitVec 3} (hx : x.toNat < 3) {t : ElemType} (hclass : classOfType t = .int) {sat : Bool}
    (hsat : x = 0 → sat = false) : RedLaws (IntCombines x (elemBits t) (elemSigned t)) x t sat where
  bound h := h.1
  empty := by
    rcases arithmetic_operator hx with rfl | rfl | rfl <;> revert hclass <;> cases t <;> unfold IntCombines <;> decide
  leaf {v} hv := by
    obtain ⟨hl, hh, -⟩ := intOf_spec (elemBits_pos t) (elemSigned t) v
    refine ⟨hv, ?_⟩
    have hone : reduceInt x (elemBits t) (elemSigned t) [intOf (elemBits t) (elemSigned t) v] = intOf (elemBits t) (elemSigned t) v := by
      rcases arithmetic_operator hx with rfl | rfl | rfl
      · exact add_zero _
      · exact min_eq_left hh
      · exact max_eq_left hl
    rw [List.map_singleton, hone, sub_self]
    exact dvd_zero _
  join {e l m u v} ht hs hu hv := by
    subst ht
    obtain ⟨hfit, hlt⟩ := redElem_fits hx hclass hu.1 hv.1
    refine ⟨hlt, ?_⟩
    by_cases h0 : x = 0
    · subst h0
      have hd := fits_dvd hfit (.inl (hs.trans (hsat rfl)))
      rw [List.map_append, reduceInt_append hx]
      have hsum : ∀ a b p q r : Int, a + b - r = (a - p) + (b - q) - (r - (p + q)) := fun a b p q r => by ring
      exact (hsum _ _ _ _ _).symm ▸ (hu.2.add hv.2).sub hd
    · have hfold : reduceTwo x (intIn e u) (intIn e v) = reduceInt x (elemBits e.t) (elemSigned e.t) 
          ((l ++ m).map (intOf (elemBits e.t) (elemSigned e.t))) := by
        rw [List.map_append, reduceInt_append hx, hu.eq hx h0 (elemBits_pos _), hv.eq hx h0 (elemBits_pos _)]
        rfl
      rw [hfold] at hfit
      exact (dvd_sub_comm).mp (fits_dvd hfit (.inr (reduceInt_range hx h0 (elemBits_pos _) _ _)))

theorem Cx.redWide_of_lt {c : Cx} {x : BitVec 3} (h : x.toNat < 5) : c.redWide x = isWide64 c.type := by
  simp [Cx.redWide, h]

theorem Cx.redWide_of_ge {c : Cx} {x : BitVec 3} (h : 5 ≤ x.toNat) : c.redWide x = false := by
  simp [Cx.redWide, h]

/-- A collective writes its destination in the active lanes, and status bits; the stochastic counts only where it rounds under SR. -/
theorem Cx.collectWrite_keeps {c : Cx} {scan : Bool} {x : BitVec 3} {t : ElemType} {d a : Nat} {excl : Bool} :
    Keeps (writesArith (regsFrom d (if c.redWide x then 2 else 1)) c.active
      (decide (x = 0 ∧ classOfType t ≠ .int) && decide (c.rounding 0 = .sr))) c (c.collectWrite scan x t d a excl) :=
  Cx.writeResult_keeps

/-- `vred` and `vscan` on integers: each element stands for those of the lanes the rules name. -/
theorem collective_int {s : State} {c : Cx} {scan : Bool} {d a : BitVec 7} {ex : BitVec 1} {x : BitVec 3} {t : ElemType}
    (hr : Ready (collective scan d a ex x) s c) (hs : c.shaped = true) (ht : elemTypeOf c.type = some t)
    (hclass : classOfType t = .int) (hx : x.toNat < 3) (hsat : x = 0 → modeSat c.sp.mode = false) :
    Does (collective scan d a ex x) s c (writesArith (regsFrom d.toNat c.regs) c.active false) fun e =>
      ∀ l k, l < 96 → c.active.getLsbD l = true → k < elemCount t →
        IntCombines x (elemBits t) (elemSigned t) ((combined c scan (ex == 1) l).map (c.elem t a.toNat · k)) (e.elem t d.toNat l k) := by
  have hwide : c.redWide x = isWide64 c.type := Cx.redWide_of_lt (by omega)
  have htype : c.redTypeOf x = some t := by rw [Cx.redTypeOf, if_pos (by omega), ht]
  refine Does.of_done (exec_collective hr htype) ?_ (Cx.writeResult_shaped hs) fun l k hl hm hk => ?_
  · have h := Cx.collectWrite_keeps (c := c.settle (collective scan d a ex x)) (scan := scan) (x := x) (t := t) (d := d.toNat)
      (a := a.toNat) (excl := ex == 1)
    rwa [show decide (x = 0 ∧ classOfType t ≠ .int) = false by simp [hclass],
      show (c.settle (collective scan d a ex x)).redWide x = isWide64 c.type from hwide] at h
  · obtain ⟨hlen, hlt, hcomb⟩ := Cx.laneTree_elems (c := c.settle (collective scan d a ex x)) (a := a.toNat)
      (intCombines_laws hx hclass hsat) hs scan (ex == 1) hl
    have htype' : ((c.settle (collective scan d a ex x)).collectWrite scan x t d.toNat a.toNat (ex == 1)).type = c.type :=
      Cx.collectWrite_keeps.type
    have hwl := Cx.collectWrite_wideLane (c := c.settle (collective scan d a ex x)) (scan := scan) (x := x) (d := d.toNat) (a := a.toNat)
      (excl := ex == 1) hclass hs hl hm
    have hcode : (c.elem t a.toNat · k) = c.redCode x t a.toNat k := by
      funext q
      rw [Cx.redCode, hwide]
      rfl
    rw [Cx.elem_of_packed (by rwa [htype']) hlt hlen hk (by rw [htype', ← hwide]; exact hwl), hcode]
    exact hcomb k hk

/-! ### The bitwise operators (R140) -/

theorem bitwise_operator {x : BitVec 3} (h : 5 ≤ x.toNat) : x = 5 ∨ x = 6 ∨ x = 7 := by
  revert x
  decide

/-- A code stands for words combined bit by bit. -/
def BitsCombine (x : BitVec 3) (l : List Nat) (v : Nat) : Prop :=
  v < 2 ^ 32 ∧ BitVec.ofNat 32 v = reduceBits x (l.map (BitVec.ofNat 32))

/-- The bitwise operators on two words. -/
def bitsTwo (x : BitVec 3) (a b : Word) : Word :=
  match x.toNat with
  | 5 => a &&& b
  | 6 => a ||| b
  | _ => a ^^^ b

theorem reduceBits_append {x : BitVec 3} (hx : 5 ≤ x.toNat) (l m : List Word) :
    reduceBits x (l ++ m) = bitsTwo x (reduceBits x l) (reduceBits x m) := by
  have happ (f : Word → Word → Word) (z : Word) (hz : ∀ a, f z a = a) (hf : ∀ a b c, f (f a b) c = f a (f b c)) :
      (l ++ m).foldr f z = f (l.foldr f z) (m.foldr f z) := by
    induction l with
    | nil => exact (hz _).symm
    | cons a l ih => rw [List.cons_append, List.foldr_cons, ih, List.foldr_cons, hf]
  rcases bitwise_operator hx with rfl | rfl | rfl
  · exact happ _ _ (fun a => BitVec.allOnes_and) BitVec.and_assoc
  · exact happ _ _ (fun a => BitVec.zero_or) BitVec.or_assoc
  · exact happ _ _ (fun a => BitVec.zero_xor) BitVec.xor_assoc

theorem redElem_noFlags {x : BitVec 3} (hx : 5 ≤ x.toNat) (e : ElemCx) (u v : Nat) : (redElem x e u v).2 = noFlags := by
  rcases bitwise_operator hx with rfl | rfl | rfl <;> rfl

theorem redElem_bits {x : BitVec 3} (hx : 5 ≤ x.toNat) (e : ElemCx) {u v : Nat} (hu : u < 2 ^ 32) (hv : v < 2 ^ 32) :
    (redElem x e u v).1 < 2 ^ 32 ∧ BitVec.ofNat 32 (redElem x e u v).1 = bitsTwo x (BitVec.ofNat 32 u) (BitVec.ofNat 32 v) := by
  rcases bitwise_operator hx with rfl | rfl | rfl
  · exact ⟨Nat.and_lt_two_pow _ hv, BitVec.ofNat_and⟩
  · exact ⟨Nat.or_lt_two_pow hu hv, BitVec.ofNat_or⟩
  · exact ⟨Nat.xor_lt_two_pow hu hv, BitVec.ofNat_xor⟩

theorem bitsCombine_laws {x : BitVec 3} (hx : 5 ≤ x.toNat) (sat : Bool) : RedLaws (BitsCombine x) x .n32 sat where
  bound h := h.1
  empty := by rcases bitwise_operator hx with rfl | rfl | rfl <;> exact ⟨by decide, rfl⟩
  leaf {v} hv := by
    refine ⟨hv, ?_⟩
    rcases bitwise_operator hx with rfl | rfl | rfl
    · exact BitVec.and_allOnes.symm
    · exact BitVec.or_zero.symm
    · exact BitVec.xor_zero.symm
  join {e l m u v} _ _ hu hv := by
    obtain ⟨hlt, hval⟩ := redElem_bits hx e hu.1 hv.1
    exact ⟨hlt, by rw [List.map_append, reduceBits_append hx, ← hu.2, ← hv.2, hval]⟩

/-- The bitwise operators earn no status bit. -/
theorem bitwise_nodeFlags {c : Cx} {x : BitVec 3} (hx : 5 ≤ x.toNat) {a : Nat} {lanes : List Nat} (h : lanes.length ≤ 128) (rm : Rnd) :
    nodeFlags (treeReduce (c.redNode x .n32 rm) (lanes.map (c.redLeaf x .n32 a))) = noFlags := by
  refine treeReduce_covers (P := fun (_ : List Nat) n => nodeFlags n = noFlags) (p := fun _ => true) rfl
    (fun w j s m n o hn ho => ?_) (fun q _ => ?_) h
  · cases n with
    | none => exact ho
    | some p =>
      cases o with
      | none => exact hn
      | some q =>
        simp only [nodeFlags] at hn ho
        simp only [joinNodes, Cx.redNode, nodeFlags, hn, ho]
        refine congrArg (orFlags noFlags) (allFlags_eq_noFlags fun f hf => ?_)
        obtain ⟨r, hr, rfl⟩ := List.mem_map.mp hf
        obtain ⟨k, hk, rfl⟩ := List.mem_mapIdx.mp hr
        exact redElem_noFlags hx _ _ _
  · unfold Cx.redLeaf
    split <;> rfl

theorem collectFlags_bitwise {c : Cx} {x : BitVec 3} (hx : 5 ≤ x.toNat) (scan : Bool) (a : Nat) (excl : Bool) :
    c.collectFlags scan x .n32 a excl = noFlags := by
  have hhalf (h : Nat × Nat) (hh : h ∈ halves (isShadow c.s c.w)) : h.2 ≤ 128 := by
    unfold halves at hh
    split at hh <;> simp at hh
    · rcases hh with rfl | rfl <;> decide
    · subst hh
      decide
  unfold Cx.collectFlags
  cases scan with
  | true =>
    refine allFlags_eq_noFlags fun f hf => ?_
    obtain ⟨n, hn, rfl⟩ := List.mem_map.mp hf
    obtain ⟨h, hh, hn⟩ := List.mem_flatMap.mp hn
    obtain ⟨j, -, rfl⟩ := List.mem_map.mp hn
    unfold Cx.scanTree
    split
    · rw [c.redLeaves_eq, scanLeaves, ← List.map_take]
      refine bitwise_nodeFlags hx ?_ _
      simpa using .inr (hhalf h hh)
    · rfl
  | false =>
    refine allFlags_eq_noFlags fun f hf => ?_
    obtain ⟨r, hr, rfl⟩ := List.mem_map.mp hf
    obtain ⟨h, hh, rfl⟩ := List.mem_map.mp hr
    dsimp only
    rw [c.redLeaves_eq]
    exact bitwise_nodeFlags hx (by simpa using hhalf h hh) _

/-- `vred` and `vscan` bit by bit, under every type: the words of the lanes the rules name. -/
theorem collective_bits {s : State} {c : Cx} {scan : Bool} {d a : BitVec 7} {ex : BitVec 1} {x : BitVec 3}
    (hr : Ready (collective scan d a ex x) s c) (hs : c.shaped = true) (hx : 5 ≤ x.toNat) :
    Does (collective scan d a ex x) s c (writesVectors [d.toNat] c.active) fun e =>
      ∀ l, l < 96 → c.active.getLsbD l = true →
        e.lane d.toNat l = reduceBits x ((combined c scan (ex == 1) l).map fun q => c.lane a.toNat q) := by
  have hwide : c.redWide x = false := Cx.redWide_of_ge hx
  have htype : c.redTypeOf x = some .n32 := by rw [Cx.redTypeOf, if_neg (by omega)]
  have hx0 : decide (x = 0 ∧ classOfType .n32 ≠ .int) = false := by simp [classOfType]
  refine Does.of_done (exec_collective hr htype) ?_ (Cx.writeResult_shaped hs) fun l hl hm => ?_
  · rw [Cx.collectWrite, collectFlags_bitwise hx, hx0, Cx.writeResult_quiet]
    have h := (c.settle (collective scan d a ex x)).putOperand_keeps d.toNat (c.redWide x) c.active
      ((c.settle (collective scan d a ex x)).collectValues scan x .n32 a.toNat (ex == 1))
    rw [hwide] at h
    have h2 : (c.settle (collective scan d a ex x)).redWide x = false := hwide
    rw [h2]
    exact h
  · obtain ⟨hlen, hlt, hcomb⟩ := Cx.laneTree_elems (c := c.settle (collective scan d a ex x)) (a := a.toNat)
      (bitsCombine_laws hx _) hs scan (ex == 1) hl
    have hwl := Cx.collectWrite_wideLane (c := c.settle (collective scan d a ex x)) (scan := scan) (x := x) (t := .n32) (d := d.toNat)
      (a := a.toNat) (excl := ex == 1) rfl hs hl hm
    rw [show (c.settle (collective scan d a ex x)).redWide x = false from hwide] at hwl
    obtain ⟨v, hv⟩ := List.length_eq_one_iff.mp hlen
    have hlane := congrArg (BitVec.setWidth 32) hwl
    rw [hv] at hlane
    have hcode (q : Nat) : BitVec.ofNat 32 (c.redCode x .n32 a.toNat 0 q) = c.lane a.toNat q := by
      rw [Cx.redCode, hwide]
      apply BitVec.eq_of_toNat_eq
      simp [Cx.wideLane, elemAt, elemBits]
      omega
    have hbits := (hcomb 0 (by decide)).2
    rw [hv] at hbits
    calc _ = BitVec.ofNat 32 v := by simpa [Cx.wideLane, packElems, loWord_ofNat] using hlane
      _ = _ := hbits
      _ = _ := by
        rw [List.map_map]
        exact congrArg (reduceBits x) (List.map_congr_left fun q _ => hcode q)

/-- Settles O13: the tree's operator is associative up to the code's meaning, so the tree of a lane stands for the lanes the rules
name. -/
theorem integerReductions : Obligations.IntegerReductions := by
  intro s c d a x scan ex i _ hs hr
  refine ⟨fun t ht hclass hx hsat => ?_, collective_bits hr hs⟩
  obtain ⟨e, hdone, hkeeps, hshaped, helem⟩ := collective_int hr hs ht hclass hx hsat
  refine ⟨e, hdone, hkeeps, hshaped, fun l k hl hm hk => ?_⟩
  have h := (helem l k hl hm hk).2
  rw [List.map_map] at h
  exact_mod_cast h

end Sys2Proof.Machine

namespace Sys2Proof.Machine

open Sys2Proof.Claims

/-! ### Lanes of a mask -/

theorem maskOf_getLsbD {l : List Nat} (hl : ∀ i ∈ l, i < 96) (q : Nat) : (maskOf l).getLsbD q = decide (q ∈ l) := by
  have hone (i : Nat) (hi : i < 96) (q : Nat) : (1#96 <<< i).getLsbD q = decide (q = i) := by
    rw [BitVec.getLsbD_shiftLeft, BitVec.getLsbD_one]
    by_cases hq : q = i
    · simp [hq, hi]
    · simp [hq]
      omega
  have hfold (m : Mask) : (l.foldl (fun m i => m ||| (1#96 <<< i)) m).getLsbD q = (m.getLsbD q || decide (q ∈ l)) := by
    induction l generalizing m with
    | nil => simp
    | cons i l ih =>
      obtain ⟨hi, hl⟩ := List.forall_mem_cons.mp hl
      rw [List.foldl_cons, ih hl, BitVec.getLsbD_or, hone i hi]
      simp [Bool.or_assoc]
  simpa [maskOf] using hfold 0

theorem maskWhere_getLsbD (m : Mask) (f : Nat → Bool) {q : Nat} (hq : q < 96) :
    (maskWhere m f).getLsbD q = (m.getLsbD q && f q) := by
  have hlt : ∀ i ∈ (lanesOf m).filter f, i < 96 := fun i hi =>
    List.mem_range.mp (List.mem_filter.mp (List.mem_filter.mp hi).1).1
  rw [maskWhere, maskOf_getLsbD hlt, Bool.eq_iff_iff]
  simp [lanesOf, hq, and_comm]

/-- The lanes of a mask for which a condition holds, counted. -/
theorem popMask_maskWhere (m : Mask) (f : Nat → Bool) :
    popMask (maskWhere m f) = (List.range 96).countP fun q => m.getLsbD q && f q := by
  rw [popMask, lanesOf, List.countP_eq_length_filter]
  congr 1
  exact List.filter_congr fun q hq => maskWhere_getLsbD m f (List.mem_range.mp hq)

theorem popMask_eq_zero {m : Mask} : popMask m = 0 ↔ m = 0 := by
  rw [popMask, List.length_eq_zero_iff, lanesOf, List.filter_eq_nil_iff]
  constructor
  · intro h
    apply BitVec.eq_of_getLsbD_eq
    intro q hq
    simpa using h q (List.mem_range.mpr hq)
  · rintro rfl
    simp

/-! ### The order of binary32 codes (R51, R264) -/

/-- The magnitude of a finite code, in units of the least subnormal. -/
def unitsOf (n : Nat) : Nat := if n / 2 ^ 23 = 0 then n % 2 ^ 23 else (2 ^ 23 + n % 2 ^ 23) * 2 ^ (n / 2 ^ 23 - 1)

theorem unitsOf_lt_of_lt {m n : Nat} (h : m < n) : unitsOf m < unitsOf n := by
  have hpos (k : Nat) : 0 < 2 ^ k := Nat.two_pow_pos k
  by_cases he : m / 2 ^ 23 = n / 2 ^ 23
  · unfold unitsOf
    rw [he]
    have hmod : m % 2 ^ 23 < n % 2 ^ 23 := by omega
    split
    · exact hmod
    · exact Nat.mul_lt_mul_of_pos_right (by omega) (hpos _)
  · have hlt : m / 2 ^ 23 < n / 2 ^ 23 := by omega
    have hbelow : unitsOf m < 2 ^ 23 * 2 ^ (m / 2 ^ 23) := by
      unfold unitsOf
      split
      · next h0 => rw [h0]; omega
      · next h0 =>
        calc (2 ^ 23 + m % 2 ^ 23) * 2 ^ (m / 2 ^ 23 - 1) < 2 ^ 24 * 2 ^ (m / 2 ^ 23 - 1) :=
              Nat.mul_lt_mul_of_pos_right (by omega) (hpos _)
          _ = 2 ^ 23 * 2 ^ (m / 2 ^ 23) := by rw [← Nat.pow_add, ← Nat.pow_add]; congr 1; omega
    calc unitsOf m < 2 ^ 23 * 2 ^ (m / 2 ^ 23) := hbelow
      _ ≤ 2 ^ 23 * 2 ^ (n / 2 ^ 23 - 1) := Nat.mul_le_mul_left _ (Nat.pow_le_pow_right Nat.two_pos (by omega))
      _ ≤ unitsOf n := by
        rw [unitsOf, if_neg (by omega)]
        exact Nat.mul_le_mul_right _ (by omega)

theorem unitsOf_lt_iff {m n : Nat} : unitsOf m < unitsOf n ↔ m < n := by
  constructor
  · intro h
    by_contra hn
    obtain hlt | rfl := Nat.lt_or_eq_of_le (Nat.not_lt.mp hn)
    · exact absurd (unitsOf_lt_of_lt hlt) (by omega)
    · omega
  · exact unitsOf_lt_of_lt

/-- The value of a code, in units of the least subnormal; an infinity above every finite value. -/
def unitsWithSign (x : Word) : Int := if x.toNat < 2 ^ 31 then unitsOf x.toNat else -(unitsOf (x.toNat - 2 ^ 31) : Int)

/-- The place of a code among the others is that of its value. -/
theorem unitsWithSign_lt_iff (x y : Word) : unitsWithSign x < unitsWithSign y ↔ rankOf x < rankOf y := by
  have hx := x.isLt
  have hy := y.isLt
  have h0 : unitsOf 0 = 0 := rfl
  have hpos (n : Nat) : 0 < unitsOf n ↔ 0 < n := unitsOf_lt_iff (m := 0)
  unfold unitsWithSign rankOf
  split
  · split
    · have := unitsOf_lt_iff (m := x.toNat) (n := y.toNat)
      omega
    · omega
  · split
    · have h1 := hpos (x.toNat - 2 ^ 31)
      have h2 := hpos y.toNat
      omega
    · have := unitsOf_lt_iff (m := y.toNat - 2 ^ 31) (n := x.toNat - 2 ^ 31)
      omega

/-- What a binary32 code stands for: a finite value of its units, an infinity, or a NaN. -/
inductive ReadsAs (x : Word) : Num → Prop where
  | fin {m : Nat} {e : Int} (he : -149 ≤ e) (hm : m * 2 ^ (e + 149).toNat = unitsOf (x.toNat % 2 ^ 31))
      (hx : x.toNat % 2 ^ 31 < 0x7F800000) : ReadsAs x (.fin (decide (2 ^ 31 ≤ x.toNat)) m e)
  | inf (hx : x.toNat % 2 ^ 31 = 0x7F800000) : ReadsAs x (.inf (decide (2 ^ 31 ≤ x.toNat)))
  | nan {s : Bool} (hx : 0x7F800000 < x.toNat % 2 ^ 31) : ReadsAs x (.nan s)

theorem readsAs_decodeNum (x : Word) : ReadsAs x (decodeNum .f32 x.toNat) := by
  have hx := x.isLt
  have hneg : (x.toNat / 2 ^ (fmtBits .f32 - 1) % 2 == 1) = decide (2 ^ 31 ≤ x.toNat) := by
    rw [Bool.eq_iff_iff]
    simp [fmtBits]
    omega
  unfold decodeNum
  dsimp only
  rw [hneg]
  have hexp : x.toNat / 2 ^ fmtMb .f32 % 2 ^ fmtEb .f32 = x.toNat % 2 ^ 31 / 2 ^ 23 := by
    simp only [fmtMb, fmtEb]
    omega
  have hfrac : x.toNat % 2 ^ fmtMb .f32 = x.toNat % 2 ^ 31 % 2 ^ 23 := by
    simp only [fmtMb]
    omega
  rw [hexp, hfrac]
  generalize hc : x.toNat % 2 ^ 31 = c
  have hlt : c < 2 ^ 31 := by omega
  split
  · next h =>
    have h255 : c / 2 ^ 23 = 255 := by simpa [fmtWide, fmtEb] using h
    split
    · next h0 => exact .inf (by omega)
    · next h0 => exact .nan (by omega)
  · next h =>
    have h255 : c / 2 ^ 23 ≠ 255 := by simpa [fmtWide, fmtEb] using h
    split
    · next h0 =>
      refine .fin (by decide) ?_ (by omega)
      rw [hc, unitsOf, if_pos h0]
      exact Nat.mul_one _
    · next h0 =>
      have he : ((c / 2 ^ 23 : Nat) : Int) - fmtBias .f32 - fmtMb .f32 = (c / 2 ^ 23 : Nat) - 150 := by
        simp only [fmtBias, fmtMb]
        omega
      rw [he]
      refine .fin (by omega) ?_ (by omega)
      rw [hc, unitsOf, if_neg h0]
      congr 2
      omega

/-- A significand at a lower spacing. -/
theorem scaled_eq_mul {neg : Bool} {m : Nat} {e h g : Int} (hg : g ≤ h) (he : h ≤ e) :
    scaled neg m e g = scaled neg m e h * 2 ^ (h - g).toNat := by
  have hsum : (e - g).toNat = (e - h).toNat + (h - g).toNat := by omega
  simp only [scaled, Nat.shiftLeft_eq, hsum, Nat.pow_add]
  push_cast
  split <;> ring

theorem scaled_units {x : Word} {m : Nat} {e : Int} (hm : m * 2 ^ (e + 149).toNat = unitsOf (x.toNat % 2 ^ 31)) :
    scaled (decide (2 ^ 31 ≤ x.toNat)) m e (-149) = unitsWithSign x := by
  have hx := x.isLt
  have hsub : e - -149 = e + 149 := by omega
  simp only [scaled, Nat.shiftLeft_eq, hsub, hm, decide_eq_true_eq, unitsWithSign]
  by_cases h : 2 ^ 31 ≤ x.toNat
  · rw [if_pos h, if_neg (by omega), show x.toNat % 2 ^ 31 = x.toNat - 2 ^ 31 by omega]
  · rw [if_neg h, if_pos (by omega), Nat.mod_eq_of_lt (by omega)]

theorem ReadsAs.isNan {x : Word} {n : Num} (h : ReadsAs x n) : n.isNan = nanCode x := by
  unfold nanCode
  cases h with
  | fin _ _ hx => simpa [Num.isNan] using hx.le
  | inf hx => simpa [Num.isNan] using hx.le
  | nan hx => simpa [Num.isNan] using hx

theorem rankOf_eq (x : Word) :
    rankOf x = if 2 ^ 31 ≤ x.toNat then -((x.toNat % 2 ^ 31 : Nat) : Int) else ((x.toNat % 2 ^ 31 : Nat) : Int) := by
  have hx := x.isLt
  unfold rankOf
  split <;> split <;> omega

/-- The model's comparison of two codes is that of their values. -/
theorem ReadsAs.ltNum {x y : Word} {m n : Num} (hm : ReadsAs x m) (hn : ReadsAs y n) : ltNum m n = belowCode x y := by
  unfold belowCode
  rw [← hm.isNan, ← hn.isNan]
  have hrx := rankOf_eq x
  have hry := rankOf_eq y
  cases hm with
  | nan => simp [Machine.ltNum, Num.isNan]
  | inf hx =>
    rw [hx] at hrx
    cases hn with
    | nan => simp [Machine.ltNum, Num.isNan]
    | inf hy =>
      rw [hy] at hry
      have hsign : rankOf x < rankOf y ↔ 2 ^ 31 ≤ x.toNat ∧ ¬2 ^ 31 ≤ y.toNat := by
        split at hrx <;> split at hry <;> omega
      simp only [Machine.ltNum, Num.isNan, Bool.not_false, Bool.true_and, hsign, Bool.decide_and, decide_not]
    | fin he hy hlt =>
      have hsign : rankOf x < rankOf y ↔ 2 ^ 31 ≤ x.toNat := by
        split at hrx <;> split at hry <;> omega
      simp only [Machine.ltNum, Num.isNan, Bool.not_false, Bool.true_and, hsign]
  | @fin m e he hx hlt =>
    cases hn with
    | nan => simp [Machine.ltNum, Num.isNan]
    | inf hy =>
      rw [hy] at hry
      have hsign : rankOf x < rankOf y ↔ ¬2 ^ 31 ≤ y.toNat := by
        split at hrx <;> split at hry <;> omega
      simp only [Machine.ltNum, Num.isNan, Bool.not_false, Bool.true_and, hsign, decide_not]
    | @fin n g he' hy hlt' =>
      have hmin : (-149 : Int) ≤ min e g := le_min he he'
      have hsx := scaled_units hx
      have hsy := scaled_units hy
      rw [scaled_eq_mul hmin (min_le_left e g)] at hsx
      rw [scaled_eq_mul hmin (min_le_right e g)] at hsy
      have hpow : (0 : Int) < 2 ^ (min e g - -149).toNat := by positivity
      simp only [Machine.ltNum, Num.isNan, Bool.not_false, Bool.true_and, decide_eq_decide]
      rw [← unitsWithSign_lt_iff, ← hsx, ← hsy, mul_lt_mul_iff_left₀ hpow]

/-! ### bnd_check (R264) -/

theorem canonNan_f32 : BitVec.ofNat 32 (canonNan .f32) = 0x7FC00000 := by decide

/-- bnd_check of the model is that of R264: what it writes, and what it finds. -/
theorem bndCheck_eq (b : Selvedge) (x : Word) : bndCheck b x = (boundTo b x, eventOf b x) := by
  have hx := readsAs_decodeNum x
  unfold bndCheck boundTo eventOf Claims.outOfBounds
  simp only [hx.isNan, hx.ltNum (readsAs_decodeNum b.lo), (readsAs_decodeNum b.hi).ltNum hx, canonNan_f32]
  by_cases h0 : b.act = 0
  · simp [h0]
  · rw [if_neg h0, if_neg h0, show (b.act != 0) = true by simpa using h0, Bool.true_and]
    by_cases hout : (nanCode x || belowCode x b.lo || belowCode b.hi x) = true
    · rw [if_pos hout, if_pos hout]
      by_cases h1 : b.act = 1
      · simp [h1]
      · by_cases h2 : b.act = 2
        · by_cases hn : nanCode x = true
          · simp [h2, hn]
          · by_cases hl : belowCode x b.lo = true
            · simp [h2, hn, hl]
            · have hh : belowCode b.hi x = true := by simpa [hn, hl] using hout
              simp [h2, hn, hl, hh]
        · simp [h1, h2]
    · rw [if_neg hout, if_neg hout]
      simp only [Bool.or_eq_true, not_or, Bool.not_eq_true] at hout
      obtain ⟨⟨hn, hl⟩, hh⟩ := hout
      simp [hn, hl, hh]

/-- An element is found outside where it is. -/
theorem eventOf_ne_inside (b : Selvedge) (x : Word) : (eventOf b x != .inside) = Claims.outOfBounds b x := by
  unfold eventOf
  split
  · next h =>
    rw [h]
    split
    · rfl
    · split <;> rfl
  · next h => simpa using h

/-! ### `vbnd` -/

/-- The active lanes that `vbnd` finds outside. -/
def Cx.bndHits (c : Cx) (b : Selvedge) (a : Nat) : Nat :=
  (List.range 96).countP fun l => c.active.getLsbD l && Claims.outOfBounds b (c.lane a l)

theorem Cx.popMask_bndHits {c : Cx} (hs : c.shaped = true) (b : Selvedge) (a : Nat) :
    popMask (maskWhere c.active fun i => (((c.row a).map (bndCheck b)).getD i (0, .inside)).2 != .inside) = c.bndHits b a := by
  rw [popMask_maskWhere]
  refine List.countP_congr fun l hl => ?_
  have hl : l < (c.row a).length := by rw [c.row_length hs]; exact List.mem_range.mp hl
  have he : (((c.row a).map (bndCheck b)).getD l (0, .inside)) = (boundTo b (c.lane a l), eventOf b (c.lane a l)) := by
    simp [Cx.lane, List.getD_eq_getElem?_getD, hl, bndCheck_eq]
  rw [he, eventOf_ne_inside]

theorem bumpCount_eq (c : Word) (n : Nat) : bumpCount c n = BitVec.ofNat 32 (min (c.toNat + n) (2 ^ 32 - 1)) := by
  rw [bumpCount, min_comm]

/-- A workgroup with the count of a selvedge register raised. -/
def Workgroup.bumped (g : Workgroup) (n hits : Nat) : Workgroup :=
  { g with selvedge := updAt g.selvedge n fun b => { b with count := bumpCount b.count hits } }

/-- The state with the count of a selvedge register raised. -/
def Cx.bumped (c : Cx) (g : Workgroup) (n hits : Nat) : State := { c.s with wgs := Tab.put c.s.wgs c.w.wg (g.bumped n hits) }

/-- The split as `vbnd` leaves it, but for the count. -/
def Cx.bndWrite (c : Cx) (b : Selvedge) (d a : Nat) : Cx := c.putRow d c.active ((c.row a).map (boundTo b))

theorem Cx.bndWrite_keeps (c : Cx) (b : Selvedge) (d a : Nat) :
    Keeps (writesVectors [d] c.active) c { c.bndWrite b d a with s := c.s } := by
  have hst : (c.bndWrite b d a).s = c.s := (c.putRow_fields _ _ _).1
  rw [← hst]
  exact c.putRow_keeps _ _ _

section

variable {s : State} {c : Cx} {d a : BitVec 7} {n : BitVec 4}

/-- With no workgroup there is no selvedge register, and `vbnd` moves. -/
theorem vbnd_move (hr : Ready (.vbnd d a n) s c) (hs : c.shaped = true) (hg : wgOf s c.w = none) :
    Does (.vbnd d a n) s c (writesVectors [d.toNat] c.active) fun e =>
      ∀ l, l < 96 → c.active.getLsbD l = true → e.lane d.toNat l = c.lane a.toNat l := by
  obtain ⟨-, -, hcs⟩ := executing_focus hr.1
  have hg' : wgOf (c.settle (.vbnd d a n)).s (c.settle (.vbnd d a n)).w = none := by
    rw [← hg, ← hcs]
    rfl
  have he : exec (.vbnd d a n) s = _ := issueSplit_of_ready hr _
  dsimp only at he
  rw [hg'] at he
  refine Does.of_done he (Cx.putRow_keeps _ _ _ _) (Cx.putRow_shaped _ _ _ hs) fun l hl hm => ?_
  have hrow (q : Nat) : l < ((c.settle (.vbnd d a n)).row q).length := by rwa [Cx.row_length _ (by simpa using hs)]
  exact Cx.putRow_lane _ _ _ _ _ hm (hrow _) (hrow _)

/-- With a selvedge register `vbnd` traps where the action says so and a value is outside, and otherwise writes and counts. -/
theorem exec_vbnd (hr : Ready (.vbnd d a n) s c) (hs : c.shaped = true) {g : Workgroup} {b : Selvedge} (hg : wgOf s c.w = some g)
    (hb : g.selvedge[n.toNat]? = some b) (hp : b.poison = false) :
    exec (.vbnd d a n) s =
      if 0 < c.bndHits b a.toNat ∧ b.act = 3 then (c.settle (.vbnd d a n)).trapAt 0x0F
      else Cx.done { (c.settle (.vbnd d a n)).bndWrite b d.toNat a.toNat with s := c.bumped g n.toNat (c.bndHits b a.toNat) } := by
  obtain ⟨-, -, hcs⟩ := executing_focus hr.1
  have hg' : wgOf (c.settle (.vbnd d a n)).s (c.settle (.vbnd d a n)).w = some g := by
    rw [← hg, ← hcs]
    rfl
  have hbn : g.selvedge.getD n.toNat { count := 0, act := 0, hi := 0, lo := 0, poison := false } = b := by
    rw [List.getD_eq_getElem?_getD, hb]
    rfl
  have hpop := Cx.popMask_bndHits (c := c.settle (.vbnd d a n)) (by simpa using hs) b a.toNat
  have hits : (c.settle (.vbnd d a n)).bndHits b a.toNat = c.bndHits b a.toNat := rfl
  have hhit (m : Mask) (k : Nat) (h : popMask m = k) : (m != 0 && b.act == 3) = true ↔ 0 < k ∧ b.act = 3 := by
    rw [← h, Nat.pos_iff_ne_zero, Ne, popMask_eq_zero, Bool.and_eq_true, bne_iff_ne, beq_iff_eq]
  have hrow : ((fun r : Word × BndEvent => r.1) ∘ bndCheck b) = boundTo b := funext fun x => by
    rw [Function.comp_apply, bndCheck_eq]
  have he : exec (.vbnd d a n) s = _ := issueSplit_of_ready hr _
  dsimp only at he
  rw [hg'] at he
  simp only [hbn, hp, Bool.false_eq_true, if_false, hpop, hits, List.map_map] at he
  rw [he]
  refine if_congr (hhit _ _ (hpop.trans hits)) rfl ?_
  simp only [hrow, (Cx.putRow_fields _ _ _ _).1]
  rfl

/-- Settles O15, from what `vbnd` does with and without a selvedge register (`exec_vbnd`, `vbnd_move`) and the comparison of codes
(`bndCheck_eq`). -/
theorem boundsChecks : Obligations.BoundsChecks := by
  intro s c d a n i x _ hs hr
  refine ⟨vbnd_move hr hs, fun g b hg hb hp => ?_⟩
  have he := exec_vbnd hr hs hg hb hp
  refine ⟨fun hact hhits => ?_, fun hin => ?_, fun l => bndCheck_eq b (x l)⟩
  · rw [he, if_pos ⟨hhits, hact⟩]
  · have hno : ¬(0 < c.bndHits b a.toNat ∧ b.act = 3) := fun h => by
      have h0 : c.bndHits b a.toNat = 0 := hin h.2
      omega
    rw [if_neg hno] at he
    refine ⟨_, he, fun l hl hm => ?_, ⟨_, Tab.get?_put_self _ _ _, ?_, rfl⟩, ?_⟩
    · have hrow : l < (c.row a.toNat).length := by rwa [Cx.row_length _ hs]
      have h := Cx.putRow_lane (c.settle (.vbnd d a n)) d.toNat c.active ((c.row a.toNat).map (boundTo b)) l hm
        (by rwa [Cx.row_length _ (by simpa using hs)]) (by simpa using hrow)
      refine h.trans ?_
      simp [x, Cx.lane, List.getD_eq_getElem?_getD, hrow]
    · simp only [Workgroup.bumped, updAt, List.getElem?_modify, hb, if_true, bumpCount_eq]
      rfl
    · exact (c.settle_keeps (.vbnd d a n)).after_nothing ((c.settle (.vbnd d a n)).bndWrite_keeps b d.toNat a.toNat)

end

end Sys2Proof.Machine


namespace Sys2Proof.Machine

open Sys2Proof.Claims

/-! ### The elements of a product (R244) -/

theorem unpackElems_eq (e : MatElem) (k : Nat) (bs : List Byte) :
    unpackElems e k bs = (List.range k).map fun n => leNat bs / 2 ^ (e.bits * n) % 2 ^ e.bits := rfl

/-- The integer sum of two rows of one length, position by position. -/
theorem intDot_map (l : List Nat) (a b : Nat → Int) : intDot (l.map a) (l.map b) = (l.map fun k => a k * b k).sum := by
  rw [intDot, List.zipWith_map, List.zipWith_self, List.sum_eq_foldl]

theorem fpDot_map (l : List Nat) (a b : Nat → Num) : fpDot (l.map a) (l.map b) = blockSum (l.map fun k => (mulNum (a k) (b k)).1) := by
  rw [fpDot, List.zipWith_map, List.zipWith_self]

/-- An element of columns that are each a function of one row and one column. -/
theorem elemOf_map {α β : Type} (h : α → β → Word) (rows : List α) (cols : List β) (a0 : α) (b0 : β) {i j : Nat}
    (hi : i < rows.length) (hj : j < cols.length) :
    elemOf (cols.map fun c => rows.map fun r => h r c) i j = h (rows.getD i a0) (cols.getD j b0) := by
  simp [elemOf, List.getD_eq_getElem?_getD, hi, hj]

theorem matProduct_length (f : MatForm) (rows cols : List (List Byte)) : (matProduct f rows cols).length = cols.length := by
  unfold matProduct
  split <;> exact List.length_map _

theorem matProduct_row_length (f : MatForm) (rows cols : List (List Byte)) : ∀ r ∈ matProduct f rows cols, r.length = rows.length := by
  intro r hr
  unfold matProduct at hr
  split at hr <;>
  · obtain ⟨c, -, rfl⟩ := List.mem_map.mp hr
    simp

theorem elemOf_matProduct (f : MatForm) (rows cols : List (List Byte)) {i j : Nat} (hi : i < rows.length) (hj : j < cols.length) :
    elemOf (matProduct f rows cols) i j =
      if f.integer then BitVec.ofInt 32 (intDot ((unpackElems f.a f.k (rows.getD i [])).map f.a.int) ((unpackElems f.b f.k (cols.getD j [])).map f.b.int))
      else BitVec.ofNat 32 (fpDot ((unpackElems f.a f.k (rows.getD i [])).map f.a.num) ((unpackElems f.b f.k (cols.getD j [])).map f.b.num)) := by
  unfold matProduct
  split
  · simp only [List.map_map]
    exact elemOf_map (fun r c => BitVec.ofInt 32 (intDot ((unpackElems f.a f.k r).map f.a.int) ((unpackElems f.b f.k c).map f.b.int)))
      rows cols [] [] hi hj
  · simp only [List.map_map]
    exact elemOf_map (fun r c => BitVec.ofNat 32 (fpDot ((unpackElems f.a f.k r).map f.a.num) ((unpackElems f.b f.k c).map f.b.num)))
      rows cols [] [] hi hj

theorem productElements : Claims.ProductElements := by
  intro n rows cols _ hrows hcols
  dsimp only
  refine ⟨(matProduct_length ..).trans hcols, fun r hr => (matProduct_row_length _ _ _ r hr).trans hrows, fun i j hi hj => ?_⟩
  rw [elemOf_matProduct _ _ _ (by omega) (by omega)]
  simp only [unpackElems_eq, List.map_map, intDot_map, fpDot_map, Function.comp_apply]

/-! ### Bytes written in pieces of one length -/

theorem length_flatMap_of_const {α β : Type} {f : α → List β} {n : Nat} {l : List α} (h : ∀ x ∈ l, (f x).length = n) :
    (l.flatMap f).length = n * l.length := by
  induction l with
  | nil => simp
  | cons x rest ih =>
    obtain ⟨hx, hrest⟩ := List.forall_mem_cons.mp h
    rw [List.flatMap_cons, List.length_append, hx, ih hrest, List.length_cons, Nat.mul_succ, Nat.add_comm]

/-- Piece k of pieces of one length. -/
theorem take_drop_flatMap {α β : Type} {f : α → List β} {n k : Nat} {l : List α} (h : ∀ x ∈ l, (f x).length = n) (hk : k < l.length) :
    ((l.flatMap f).drop (n * k)).take n = f l[k] := by
  induction l generalizing k with
  | nil => simp at hk
  | cons x rest ih =>
    obtain ⟨hx, hrest⟩ := List.forall_mem_cons.mp h
    rw [List.flatMap_cons]
    cases k with
    | zero => simp [List.take_left' hx]
    | succ k =>
      rw [Nat.mul_succ, Nat.add_comm, ← hx, List.drop_length_add_append, hx, ih hrest (by simpa using hk)]
      rfl

theorem Mem.bytes_writeBytes_part {m : Mem} (h : Mem.wf m = true) (a k n : Nat) {bs : List Byte} (hk : k + n ≤ bs.length) :
    Mem.bytes (Mem.writeBytes m a bs) (a + k) n = (bs.drop k).take n := by
  apply List.ext_getElem
  · simp [Mem.bytes]; omega
  · intro i h1 h2
    have hi : i < n := by simpa [Mem.bytes] using h1
    have hki : k + i < bs.length := by omega
    simp only [Mem.bytes, List.getElem_map, List.getElem_range, List.getElem_take, List.getElem_drop]
    rw [Nat.add_assoc, Mem.byte_writeBytes m a (k + i) bs hki h]
    simp [hki]

/-! ### Tiles (R203, R238) -/

theorem elemOf_readTile (g : Workgroup) (t : Nat) {i c : Nat} (hi : i < 96) (hc : c < 32) :
    elemOf (readTile g t) i c = BitVec.ofNat 32 (Mem.le g.acc (tileOffset t i c) 4) := by
  simp [elemOf, readTile, List.getD_eq_getElem?_getD, hi, hc]

theorem readTile_length (g : Workgroup) (t : Nat) : (readTile g t).length = 32 := by simp [readTile]

theorem readTile_row_length (g : Workgroup) (t : Nat) : ∀ r ∈ readTile g t, r.length = 96 := by
  intro r hr
  obtain ⟨c, -, rfl⟩ := List.mem_map.mp hr
  simp

/-- A tile is of the accumulator store alone. -/
theorem readTile_congr {g g' : Workgroup} (h : g.acc = g'.acc) (t : Nat) : readTile g t = readTile g' t := by
  rw [readTile, h, readTile]

/-- The bytes of one row of a tile. -/
def tileRowBytes (y : List Row) (i : Nat) : List Byte := (List.range 32).flatMap fun c => leBytes 4 (elemOf y i c).toNat

/-- The bytes of a tile. -/
def tileImage (y : List Row) : List Byte := (List.range 96).flatMap (tileRowBytes y)

theorem tileRowBytes_length (y : List Row) (i : Nat) : (tileRowBytes y i).length = 128 :=
  (length_flatMap_of_const fun _ _ => leBytes_length _ _).trans (by rw [List.length_range])

theorem tileImage_length (y : List Row) : (tileImage y).length = 12288 :=
  (length_flatMap_of_const fun _ _ => tileRowBytes_length _ _).trans (by rw [List.length_range])

theorem tileImage_eq (y : List Row) : (tilePositions.flatMap fun p => leBytes 4 (elemOf y p.1 p.2).toNat) = tileImage y := by
  simp only [tilePositions, List.flatMap_assoc, List.flatMap_map]
  rfl

theorem writeTile_acc (g : Workgroup) (t : Nat) (y : List Row) (bad : Nat → Nat → Bool) :
    (writeTile g t y bad).acc = Mem.writeBytes g.acc (12288 * t) (tileImage y) := by
  simp only [writeTile, tileImage_eq, Config.tileBytes]

theorem tileImage_piece (y : List Row) {i c : Nat} (hi : i < 96) (hc : c < 32) :
    ((tileImage y).drop (128 * i + 4 * c)).take 4 = leBytes 4 (elemOf y i c).toNat := by
  have hrow := take_drop_flatMap (f := tileRowBytes y) (l := List.range 96) (k := i) (fun _ _ => tileRowBytes_length _ _) (by simpa using hi)
  have hword := take_drop_flatMap (f := fun c => leBytes 4 (elemOf y i c).toNat) (l := List.range 32) (k := c)
    (fun _ _ => leBytes_length _ _) (by simpa using hc)
  rw [List.getElem_range] at hrow hword
  rw [← hword, ← tileRowBytes, ← hrow, List.drop_take, List.take_take, List.drop_drop, Nat.min_eq_left (by omega), tileImage]

/-- A tile written reads back. -/
theorem elemOf_writeTile {g : Workgroup} (h : Mem.wf g.acc = true) (t : Nat) (y : List Row) (bad : Nat → Nat → Bool) {i c : Nat}
    (hi : i < 96) (hc : c < 32) : elemOf (readTile (writeTile g t y bad) t) i c = elemOf y i c := by
  have hread := Mem.bytes_writeBytes_part h (12288 * t) (128 * i + 4 * c) 4 (bs := tileImage y) (by rw [tileImage_length]; omega)
  rw [elemOf_readTile _ _ hi hc, writeTile_acc, Mem.le, tileOffset, Nat.add_assoc]
  change BitVec.ofNat 32 (leNat (Mem.bytes _ (12288 * t + _) 4)) = _
  rw [hread, tileImage_piece y hi hc, leNat_leBytes]
  exact BitVec.eq_of_toNat_eq (by simpa using (elemOf y i c).isLt)

/-- A tile written leaves the others. -/
theorem readTile_writeTile_ne {g : Workgroup} (h : Mem.wf g.acc = true) {t m : Nat} (hm : m ≠ t) (y : List Row) (bad : Nat → Nat → Bool) :
    readTile (writeTile g t y bad) m = readTile g m := by
  refine List.map_congr_left fun c hc => List.map_congr_left fun i hi => ?_
  have hc : c < 32 := List.mem_range.mp hc
  have hi : i < 96 := List.mem_range.mp hi
  rw [writeTile_acc, Mem.le, Mem.le, Mem.bytes_writeBytes_ne _ _ _ _ _ _ h]
  rw [tileImage_length]
  change 12288 * m + 128 * i + 4 * c + 4 ≤ 12288 * t ∨ 12288 * t + 12288 ≤ 12288 * m + 128 * i + 4 * c
  omega

/-- Columns added are added element by element. -/
theorem elemOf_addColumns {a b : List Row} (ha : a.length = 32) (hb : b.length = 32) (har : ∀ r ∈ a, r.length = 96)
    (hbr : ∀ r ∈ b, r.length = 96) {i c : Nat} (hi : i < 96) (hc : c < 32) :
    elemOf (addColumns a b) i c = elemOf a i c + elemOf b i c := by
  have hac : c < a.length := by omega
  have hbc : c < b.length := by omega
  have hai : i < a[c].length := by rw [har _ (List.getElem_mem hac)]; exact hi
  have hbi : i < b[c].length := by rw [hbr _ (List.getElem_mem hbc)]; exact hi
  simp [elemOf, addColumns, List.getD_eq_getElem?_getD, hac, hbc, hai, hbi]

theorem addColumns_row_length {a b : List Row} {n : Nat} (ha : ∀ r ∈ a, r.length = n) (hb : ∀ r ∈ b, r.length = n) :
    ∀ r ∈ addColumns a b, r.length = n := by
  intro r hr
  obtain ⟨i, hi, rfl⟩ := List.mem_iff_getElem.mp hr
  simp only [addColumns, List.length_zipWith, Nat.lt_min] at hi
  simp [addColumns, ha _ (List.getElem_mem hi.1), hb _ (List.getElem_mem hi.2)]

/-- Elements of `msa` (R246). -/
theorem elemOf_msaColumns (scales : Row) (cols : List Byte) {y : List Row} (p : List Row) (hy : y.length = 32) (hyr : ∀ q ∈ y, q.length = 96)
    {i k : Nat} (hi : i < 96) (hk : k < 32) :
    elemOf (msaColumns scales cols y p) i k =
      BitVec.ofNat 32 (msaElem (elemOf y i k).toNat (elemOf p i k).toNat ((scales.getD i 0).toNat % 256) (cols.getD k 0).toNat) := by
  have hyk : k < y.length := by omega
  have hyi : i < y[k].length := by rw [hyr _ (List.getElem_mem hyk)]; exact hi
  simp [elemOf, msaColumns, List.getD_eq_getElem?_getD, hyk, hyi]

end Sys2Proof.Machine


namespace Sys2Proof.Machine

open Sys2Proof.Claims

/-! ### What write-back leaves of a warp (R84, R85) -/

/-- What the matrix engine keeps with a warp, and the warp's splits: write-back into registers changes none of it. -/
def Warp.besideRegs (w : Warp) : List MatOp × MatrixCtx × Tab Split := (w.mqueue, w.mctx, w.splits)

theorem backReg_besideRegs (p : Pend) (c : Cx) (k : Nat) : (backReg p c k).w.besideRegs = c.w.besideRegs := by
  unfold backReg
  simp only
  split
  · rfl
  · split
    · split <;> rfl
    · rfl

theorem Cx.backAll_besideRegs (c : Cx) (p : Pend) : (c.backAll p).w.besideRegs = c.w.besideRegs := by
  unfold Cx.backAll
  generalize List.range p.dest.count = l
  induction l generalizing c with
  | nil => rfl
  | cons k l ih => exact (ih (backReg p c k)).trans (backReg_besideRegs p c k)

theorem backDue_besideRegs (earlier l : List Pend) (c : Cx) : (backDue earlier l c).2.w.besideRegs = c.w.besideRegs := by
  induction l generalizing earlier c with
  | nil => rfl
  | cons p l ih =>
    simp only [backDue]
    split
    · rw [ih]
      split
      · rfl
      · exact c.backAll_besideRegs p
    · exact ih (p :: earlier) c

theorem Cx.settleBacks_besideRegs (c : Cx) : c.settleBacks.w.besideRegs = c.w.besideRegs := backDue_besideRegs [] c.sp.pend c

/-- A split whose one result is of the run in progress, its window still open. -/
def Split.inWindow (sp : Split) : Prop := ∃ p, sp.pend = [p] ∧ p.inRun = true ∧ 0 < p.window

theorem Cx.settleBacks_of_inWindow {c : Cx} (h : c.sp.inWindow) : c.settleBacks = c := by
  obtain ⟨p, hp, hrun, hwin⟩ := h
  have hdue : p.due [] = false := by simp [Pend.due, Nat.ne_of_gt hwin]
  have hstays : p.stays = true := by simp [Pend.stays, hrun]
  have hback : backDue [] c.sp.pend c = ([p], c) := by
    rw [hp]
    simp [backDue, hdue, Pend.giveWay]
  have hkept : [p].filter (fun q => q.stays || q.reissues c.sp.faults) = c.sp.pend := by simp [hstays, hp]
  rw [Cx.settleBacks, hback]
  simp only [hkept]

/-- A warp after write-back: its queue and matrix context, and every result whose window is open, are as they were. -/
structure Settled (w v : Warp) : Prop where
  queue : v.mqueue = w.mqueue
  ctx : v.mctx = w.mctx
  windows : ∀ e sp, Tab.get? w.splits e = some sp → sp.inWindow → Tab.get? v.splits e = some sp

theorem Settled.refl (w : Warp) : Settled w w := ⟨rfl, rfl, fun _ _ h _ => h⟩

theorem Settled.trans {u v w : Warp} (h : Settled u v) (g : Settled v w) : Settled u w :=
  ⟨g.queue.trans h.queue, g.ctx.trans h.ctx, fun e sp he ho => g.windows e sp (h.windows e sp he ho) ho⟩

/-- A step that leaves a warp there, with no more done to it than write-back. -/
def settlesWarp (wk : Nat) (s t : State) : Prop :=
  ∀ w, Tab.get? s.warps wk = some w → ∃ v, Tab.get? t.warps wk = some v ∧ Settled w v

theorem settlesWarp.refl (wk : Nat) (s : State) : settlesWarp wk s s := fun w hw => ⟨w, hw, Settled.refl w⟩

theorem settlesWarp.trans {wk : Nat} {s t u : State} (h : settlesWarp wk s t) (g : settlesWarp wk t u) : settlesWarp wk s u := by
  intro w hw
  obtain ⟨v, hv, hwv⟩ := h w hw
  obtain ⟨x, hx, hvx⟩ := g v hv
  exact ⟨x, hx, hwv.trans hvx⟩

theorem settlesWarp.foldl {wk : Nat} {f : State → Nat → State} (h : ∀ s k, settlesWarp wk s (f s k)) (l : List Nat) (s : State) :
    settlesWarp wk s (l.foldl f s) := by
  induction l generalizing s with
  | nil => exact settlesWarp.refl wk s
  | cons k l ih => exact (h s k).trans (ih (f s k))

theorem settleEntry_settles (wk e : Nat) (s : State) : settlesWarp wk s (settleEntry s wk e) := by
  cases hc : cxOf s wk e with
  | none => rw [settleEntry_of_none hc]; exact settlesWarp.refl wk s
  | some c =>
    intro w hw
    obtain ⟨hs, hwk, he, hget, hsp⟩ := cxOf_fields hc
    obtain ⟨-, hk, hent⟩ := c.settleBacks_fields
    obtain rfl : c.w = w := Option.some.inj (hget.symm.trans hw)
    have hside := c.settleBacks_besideRegs
    simp only [Warp.besideRegs, Prod.mk.injEq] at hside
    obtain ⟨hqueue, hctx, hsplits⟩ := hside
    rw [settleEntry_of_some hc, Cx.commit, hk, hwk]
    refine ⟨_, Tab.get?_put_self _ _ _, hqueue, hctx, fun b sp hb hopen => ?_⟩
    rw [hent, he, hsplits, Tab.get?_put]
    split
    · next h =>
      obtain rfl : c.sp = sp := Option.some.inj (hsp.symm.trans (h ▸ hb))
      rw [Cx.settleBacks_of_inWindow hopen]
    · exact hb

theorem settleSpilled_settles (wk k : Nat) (s : State) : settlesWarp wk s (settleSpilled s wk k) := by
  intro w hw
  unfold settleSpilled
  rw [hw]
  dsimp only
  split
  · exact settlesWarp.refl wk s w hw
  · next x _ _ =>
    have hside := Cx.settleBacks_besideRegs { s := s, wk := wk, w := w, e := Config.splitEntries, sp := x.split }
    simp only [Warp.besideRegs, Prod.mk.injEq] at hside
    obtain ⟨hqueue, hctx, hsplits⟩ := hside
    exact ⟨_, Tab.get?_put_self _ _ _, hqueue, hctx, fun b sp hb _ => hsplits ▸ hb⟩

theorem settleWarp_settles (wk : Nat) (s : State) : settlesWarp wk s (settleWarp s wk) := by
  rw [settleWarp_eq]
  exact (settlesWarp.foldl (fun s e => settleEntry_settles wk e s) _ s).trans (settlesWarp.foldl (fun s k => settleSpilled_settles wk k s) _ _)

/-! ### A drain into registers (R245) -/

theorem Tab.get?_mapVal {α : Type} (t : Tab α) (f : α → α) (k : Nat) : Tab.get? (Tab.mapVal t f) k = (Tab.get? t k).map f :=
  Tab.get?_map_of_key (f := fun p => (p.1, f p.2)) (fun _ => rfl) t k

/-- A pending result with the columns of a drain in it. -/
def Pend.drained (p : Pend) (y : List Row) (bad : Nat → Nat → Bool) : Pend :=
  { p with rows := drainRows y bad, arrived := true, open_ := false, mismatch := false }

theorem resultOf_drained (p : Pend) {y : List Row} (bad : Nat → Nat → Bool) (hy : y.length = 32) (hr : ∀ r ∈ y, r.length = 96) {i c : Nat}
    (hi : i < 96) (hc : c < 32) : resultOf (p.drained y bad) c i = some (elemOf y i c) := by
  have hyc : c < y.length := by omega
  have hyi : i < y[c].length := by rw [hr _ (List.getElem_mem hyc)]; exact hi
  simp [resultOf, Pend.drained, drainRows, elemOf, List.getD_eq_getElem?_getD, hyc, hyi]

/-- The warp with a drain's columns in the result that waits for them. -/
def Warp.drained (w : Warp) (id : Nat) (y : List Row) (bad : Nat → Nat → Bool) : Warp :=
  w.mapPends fun p => if p.id = id then p.drained y bad else p

theorem fillDrain_eq (s : State) (wk id : Nat) (y : List Row) (bad : Nat → Nat → Bool) :
    fillDrain s wk id y bad false = settleWarp (State.updWarp s wk fun w => w.drained id y bad) wk := rfl

theorem Warp.drained_split {w : Warp} {e : Nat} {sp : Split} {p : Pend} (hsp : Tab.get? w.splits e = some sp) (hp : sp.pend = [p])
    (y : List Row) (bad : Nat → Nat → Bool) :
    Tab.get? (w.drained p.id y bad).splits e = some { sp with pend := [p.drained y bad] } := by
  simp [Warp.drained, Warp.mapPends, Tab.get?_mapVal, hsp, hp]

theorem fillDrain_warp {s : State} {wk : Nat} {w : Warp} (hw : Tab.get? s.warps wk = some w) (id : Nat) (y : List Row)
    (bad : Nat → Nat → Bool) : ∃ v, Tab.get? (fillDrain s wk id y bad false).warps wk = some v ∧ Settled (w.drained id y bad) v := by
  rw [fillDrain_eq]
  refine settleWarp_settles wk _ _ ?_
  simp [State.updWarp, Tab.get?_upd, hw]

/-- A warp that settles after a drain holds the drained result of a split whose window is open. -/
theorem Settled.drained {w v : Warp} {e : Nat} {sp : Split} {p : Pend} {y : List Row} {bad : Nat → Nat → Bool}
    (h : Settled (w.drained p.id y bad) v) (hsp : Tab.get? w.splits e = some sp) (hp : sp.pend = [p]) (hrun : p.inRun = true)
    (hwin : 0 < p.window) : Tab.get? v.splits e = some { sp with pend := [p.drained y bad] } :=
  h.windows e _ (Warp.drained_split hsp hp y bad) ⟨_, rfl, hrun, hwin⟩

end Sys2Proof.Machine


namespace Sys2Proof.Machine

open Sys2Proof.Claims

/-! ### The oldest entry leaves the queue (R239) -/

theorem Tab.upd_of_fixed {α : Type} {f : α → α} (h : ∀ v, f v = v) (t : Tab α) (k : Nat) : Tab.upd t k f = t := by
  induction t with
  | nil => rfl
  | cons p t ih =>
    obtain ⟨a, v⟩ := p
    simp [Tab.upd, h, ih]

theorem wgOf_get? {s : State} {w : Warp} {g : Workgroup} (h : wgOf s w = some g) : Tab.get? s.wgs w.wg = some g := by
  unfold wgOf at h
  split at h
  · cases h
  · exact h

/-- The oldest entry of a warp's queue, of a skein in residence. -/
structure Oldest (s : State) (wk : Nat) (w : Warp) (g : Workgroup) (k : Skein) (op : MatOp) (rest : List MatOp) : Prop where
  warp : Tab.get? s.warps wk = some w
  queue : w.mqueue = op :: rest
  group : wgOf s w = some g
  skein : skOf s w = some k
  resident : k.resident = true

/-- The state with a warp's queue replaced. -/
def requeue (t : State) (wk : Nat) (rest : List MatOp) : State := State.updWarp t wk fun x => { x with mqueue := rest }

theorem requeue_warp {t : State} {wk : Nat} {v : Warp} (h : Tab.get? t.warps wk = some v) (rest : List MatOp) :
    Tab.get? (requeue t wk rest).warps wk = some { v with mqueue := rest } := by
  simp [requeue, State.updWarp, Tab.get?_upd, h]

theorem setPValid_warp {t : State} {wk : Nat} {v : Warp} (h : Tab.get? t.warps wk = some v) (b : Bool) :
    Tab.get? (setPValid t wk b).warps wk = some { v with mctx := { v.mctx with pvalid := b } } := by
  simp [setPValid, State.updWarp, Tab.get?_upd, h]

/-! ### Status bits (R158, R265) -/

theorem vregStatus_nothing (s : State) (k : Nat) (st : Option Word) : vregStatus s k st 0 0 = s := by
  cases st <;> rfl

theorem vregStatus_fields (s : State) (k : Nat) (st : Option Word) (bits pdisc : Nat) :
    (vregStatus s k st bits pdisc).warps = s.warps ∧ (vregStatus s k st bits pdisc).wgs = s.wgs := by
  unfold vregStatus
  split
  · split <;> exact ⟨rfl, rfl⟩
  · exact ⟨rfl, rfl⟩

theorem ringStatus_nothing (s : State) (n : Nat) : ringStatus s n 0 = s := by
  have hfix (x : Workgroup) : { x with ring := x.ring.map fun r => { r with bits := r.bits ||| 0 } } = x := by simp
  rw [ringStatus, Tab.upd_of_fixed hfix]

theorem matrixStatus_nothing (s : State) (w : Warp) (g : Workgroup) (st : Option Word) : matrixStatus s w g st (matrixBits false 0) = s := by
  unfold matrixStatus
  split
  · exact ringStatus_nothing s w.wg
  · exact vregStatus_nothing s g.skein st

theorem matrixStatus_warps (s : State) (w : Warp) (g : Workgroup) (st : Option Word) (bits : Nat) :
    (matrixStatus s w g st bits).warps = s.warps := by
  unfold matrixStatus
  split
  · rfl
  · exact (vregStatus_fields s g.skein st bits 0).1

/-- PDISC of a status object after one more. -/
theorem le_orStatus_pdisc {m : Mem} (h : Mem.wf m = true) (a : Nat) :
    Mem.le (orStatus m a 0 0 1) (a + 8) 8 =
      Mem.le m (a + 8) 8 % 2 ^ 11 + Mem.le m (a + 8) 8 / 2 ^ 48 % 2 ^ 8 * 2 ^ 48 + min 255 (Mem.le m (a + 8) 8 / 2 ^ 56 + 1) * 2 ^ 56 := by
  have hlt : Mem.le m (a + 8) 8 < 2 ^ 64 := Mem.le_lt_pow m (a + 8) 8
  unfold orStatus statusAt
  simp only [Mem.le_writeBytes_self h, Nat.zero_mod, Nat.or_zero]
  omega

theorem vregStatus_skein {s : State} {n : Nat} {k : Skein} (hk : Tab.get? s.skeins n = some k) (pvalid : Bool) (st : Option Word) :
    ∃ k', Tab.get? (vregStatus s n st 0 (if pvalid then 1 else 0)).skeins n = some k' ∧ (pvalid = false ∨ st = none → k' = k) ∧
      ∀ a, pvalid = true → st = some a → k'.scratch = orStatus k.scratch a.toNat 0 0 1 := by
  cases pvalid with
  | false =>
    refine ⟨k, ?_, fun _ => rfl, by simp⟩
    rw [show (if false = true then 1 else 0) = 0 from rfl, vregStatus_nothing]
    exact hk
  | true =>
    cases st with
    | none => exact ⟨k, hk, fun _ => rfl, by simp⟩
    | some a =>
      refine ⟨{ k with scratch := orStatus k.scratch a.toNat 0 0 1 }, ?_, by simp, ?_⟩
      · simp [vregStatus, orStatusAt, Tab.get?_upd, hk]
      · rintro _ - ⟨⟩
        rfl

/-! ### The ring (R249, R250) -/

theorem closeTile_group {s : State} {n : Nat} {x : Workgroup} {r : Ring} (hx : Tab.get? s.wgs n = some x) (hr : x.ring = some r)
    (tag : Tag) (differ : Bool) :
    (closeTile s n tag differ).warps = s.warps ∧ Tab.get? (closeTile s n tag differ).wgs n =
      some { x with ring := some { r.putAt (r.head - 1) (.ready tag differ) with bits := 0 } } := by
  unfold closeTile
  simp only [hx, hr]
  exact ⟨rfl, Tab.get?_put_self _ _ _⟩

/-- How the ring stands after a product of a form into the tile of a count. -/
def Ring.delivered (r : Ring) (count : Nat) (integer close : Bool) : Ring :=
  let closed := close || !integer
  let mark : RingTile := if closed then .ready (if integer then .i32 else .f32) false else .open_
  { r with head := count + 1, tiles := r.tiles.set (count % r.len) mark, bits := if closed then 0 else r.bits }

/-- A product delivered to the ring, outside a shadow launch, no poison read: the tile of the count it goes to, and the ring. -/
theorem ringDeliver_group {s : State} {n : Nat} {x : Workgroup} {r : Ring} (hx : Tab.get? s.wgs n = some x) (hr : x.ring = some r)
    {integer z : Bool} (hroom : ringFull x integer z = false) (hclean : (z || !integer) = true ∨ x.accPoison = []) (close : Bool)
    (y : List Row) (bad : Nat → Nat → Bool) :
    let fresh := z || !integer
    let count := if fresh then r.head else r.head - 1
    let sum := if fresh then y else addColumns (readTile x (r.tileAt count)) y
    ∃ t x' marks, ringDeliver s n false integer z close y bad 0 = some t ∧ t.warps = s.warps ∧ Tab.get? t.wgs n = some x' ∧
      x'.ring = some (r.delivered count integer close) ∧ x'.acc = (writeTile x (r.tileAt count) sum marks).acc := by
  intro fresh count sum
  have hread : (!fresh && !x.accPoison.isEmpty && tilePositions.any fun q => tilePoison x (r.tileAt count) q.1 q.2) = false := by
    rcases hclean with h | h
    · simp [fresh, h]
    · simp [h]
  let marks (i c : Nat) : Bool := bad i c || (!fresh && tilePoison x (r.tileAt count) i c)
  obtain ⟨tile, htile⟩ : ∃ tile, tile = writeTile x (r.tileAt count) sum marks := ⟨_, rfl⟩
  have hacc : tile.acc = (writeTile x (r.tileAt count) sum marks).acc := by rw [htile]
  let opened : Ring := { r.putAt count .open_ with head := count + 1, bits := r.bits }
  let filled : State := { s with wgs := Tab.put s.wgs n { tile with ring := some opened } }
  have hfilled : Tab.get? filled.wgs n = some { tile with ring := some opened } := Tab.get?_put_self _ _ _
  have hrun : ringDeliver s n false integer z close y bad 0 =
      some (if close || !integer then closeTile filled n (if integer then .i32 else .f32) false else filled) := by
    unfold ringDeliver
    simp only [hx, hr, hroom, Bool.false_eq_true, if_false, Bool.false_and]
    rw [hread]
    simp only [Bool.false_eq_true, if_false, Nat.or_zero, filled, htile]
    rfl
  cases hclosed : close || !integer with
  | false =>
    rw [hclosed] at hrun
    refine ⟨filled, _, marks, hrun, rfl, hfilled, ?_, hacc⟩
    simp only [Ring.delivered, hclosed, opened, Ring.putAt, setAt, Bool.false_eq_true, if_false]
  | true =>
    rw [hclosed] at hrun
    obtain ⟨hwarps, hgroup⟩ := closeTile_group hfilled rfl (if integer then .i32 else .f32) false
    refine ⟨_, _, marks, hrun, hwarps, hgroup, ?_, hacc⟩
    simp only [Ring.delivered, hclosed, opened, Ring.putAt, setAt, if_true, Nat.add_sub_cancel, List.set_set]

end Sys2Proof.Machine


namespace Sys2Proof.Machine

open Sys2Proof.Claims

/-! ### The matrix engine executes an entry (R239, R244 to R250) -/

section

variable {s : State} {wk : Nat} {w : Warp} {g : Workgroup} {k : Skein} {op : MatOp} {rest : List MatOp}

theorem Oldest.exec_of_run (h : Oldest s wk w g k op rest) {t : State} (hrun : runMatrix s wk w g 0 op = some t) :
    exec (.matrixExecute wk 0) s = .next (requeue t wk rest) := by
  change execMatrixExecute wk 0 s = _
  simp only [execMatrixExecute, h.warp, h.queue, h.group, h.skein, h.resident, Bool.not_true, Bool.false_eq_true, if_false, hrun]
  rfl

theorem Oldest.exec_of_wait (h : Oldest s wk w g k op rest) (hrun : runMatrix s wk w g 0 op = none) :
    exec (.matrixExecute wk 0) s = .next s := by
  change execMatrixExecute wk 0 s = _
  simp only [execMatrixExecute, h.warp, h.queue, h.group, h.skein, h.resident, Bool.not_true, Bool.false_eq_true, if_false, hrun]

/-- The entry has left the queue. -/
def leftQueue (t : State) (wk : Nat) (rest : List MatOp) : Prop := ∃ v, Tab.get? t.warps wk = some v ∧ v.mqueue = rest

/-- P-valid of a warp. -/
def pvalidOf (t : State) (wk : Nat) : Option Bool := (Tab.get? t.warps wk).map fun v => v.mctx.pvalid

/-- A tile written, element by element, and no other of the workgroup's. -/
def tileBecomes (t : State) (n m : Nat) (g : Workgroup) (f : Nat → Nat → Word) : Prop :=
  ∃ g', Tab.get? t.wgs n = some g' ∧ (∀ r c, r < 96 → c < 32 → elemOf (readTile g' m) r c = f r c) ∧
    ∀ q, q < 16 → q ≠ m → readTile g' q = readTile g q

theorem leftQueue_requeue {t : State} {v : Warp} (h : Tab.get? t.warps wk = some v) (rest : List MatOp) :
    leftQueue (requeue t wk rest) wk rest := ⟨_, requeue_warp h rest, rfl⟩

theorem pvalidOf_requeue {t : State} {v : Warp} (h : Tab.get? t.warps wk = some v) (rest : List MatOp) :
    pvalidOf (requeue t wk rest) wk = some v.mctx.pvalid := by
  rw [pvalidOf, requeue_warp h]
  rfl

theorem tileBecomes_of_write {t : State} {n : Nat} (hg : Tab.get? s.wgs n = some g) (hacc : Mem.wf g.acc = true) (m : Nat) (y : List Row)
    (bad : Nat → Nat → Bool) (ht : t.wgs = Tab.upd s.wgs n fun x => writeTile x m y bad) : tileBecomes t n m g (elemOf y) := by
  refine ⟨writeTile g m y bad, ?_, fun r c hr hc => elemOf_writeTile hacc m y bad hr hc, fun q _ hq => readTile_writeTile_ne hacc hq y bad⟩
  rw [ht, Tab.get?_upd, if_pos rfl, hg]
  rfl

theorem elemOf_zeroRows {i c : Nat} : elemOf (List.replicate 32 zeroRow) i c = 0 := by
  simp only [elemOf, zeroRow, List.getD_eq_getElem?_getD, List.getElem?_replicate]
  split
  · simp only [Option.getD_some, List.getElem?_replicate]
    split <;> rfl
  · rfl

/-- The state with a tile of a workgroup written. -/
def withTile (s : State) (n m : Nat) (y : List Row) (bad : Nat → Nat → Bool) : State :=
  { s with wgs := Tab.upd s.wgs n fun x => writeTile x m y bad }

theorem runMatrix_zero (n : Nat) (st : Option Word) :
    runMatrix s wk w g 0 (.zero n st) = some (withTile s w.wg n (List.replicate 32 zeroRow) fun _ _ => decide (2 ≤ 0)) := by
  simp only [runMatrix, matrixStatus_nothing]
  rfl

theorem runMatrix_zeroP (st : Option Word) : runMatrix s wk w g 0 (.zeroP st) = some (setPValid s wk false) := by
  simp only [runMatrix, matrixStatus_nothing]

theorem runMatrix_ring (st : Option Word) :
    runMatrix s wk w g 0 (.ring st) = some (if ringMode s w then s else setPValid s wk false) := by
  simp only [runMatrix, matrixStatus_nothing]

theorem runMatrix_toTile (n : Nat) (y : List Row) (own : Bool) (st : Option Word) :
    runMatrix s wk w g 0 (.toTile n y own st) =
      let t := withTile s w.wg n y fun _ _ => decide (2 ≤ 0)
      some (if own then setPValid t wk true else t) := by
  simp only [runMatrix, matrixStatus_nothing]
  rfl

/-- `mzero` of a tile (R247). -/
theorem Oldest.zero {n : Nat} {st : Option Word} (h : Oldest s wk w g k (.zero n st) rest) (hacc : Mem.wf g.acc = true) :
    ∃ t, exec (.matrixExecute wk 0) s = .next t ∧ leftQueue t wk rest ∧ tileBecomes t w.wg n g fun _ _ => 0 := by
  obtain ⟨g', hg', htile, hother⟩ := tileBecomes_of_write
    (t := requeue (withTile s w.wg n (List.replicate 32 zeroRow) fun _ _ => decide (2 ≤ 0)) wk rest)
    (wgOf_get? h.group) hacc n (List.replicate 32 zeroRow) _ rfl
  exact ⟨_, h.exec_of_run (runMatrix_zero n st), leftQueue_requeue h.warp rest, g', hg',
    fun r c hr hc => (htile r c hr hc).trans elemOf_zeroRows, hother⟩

/-- `mzero.p` (R247). -/
theorem Oldest.zeroP {st : Option Word} (h : Oldest s wk w g k (.zeroP st) rest) :
    ∃ t, exec (.matrixExecute wk 0) s = .next t ∧ leftQueue t wk rest ∧ pvalidOf t wk = some false ∧ t.wgs = s.wgs :=
  ⟨_, h.exec_of_run (runMatrix_zeroP st), leftQueue_requeue (setPValid_warp h.warp false) rest,
    pvalidOf_requeue (setPValid_warp h.warp false) rest, rfl⟩

/-- `mring` (R242). -/
theorem Oldest.ring {st : Option Word} (h : Oldest s wk w g k (.ring st) rest) :
    ∃ t, exec (.matrixExecute wk 0) s = .next t ∧ leftQueue t wk rest ∧ t.wgs = s.wgs ∧
      pvalidOf t wk = some (ringMode s w && w.mctx.pvalid) := by
  have hrun := runMatrix_ring (s := s) (wk := wk) (w := w) (g := g) st
  cases hmode : ringMode s w with
  | true =>
    rw [hmode] at hrun
    exact ⟨_, h.exec_of_run hrun, leftQueue_requeue h.warp rest, rfl, pvalidOf_requeue h.warp rest⟩
  | false =>
    rw [hmode] at hrun
    exact ⟨_, h.exec_of_run hrun, leftQueue_requeue (setPValid_warp h.warp false) rest, rfl,
      pvalidOf_requeue (setPValid_warp h.warp false) rest⟩

/-- `mmov` of registers to a tile (R248). -/
theorem Oldest.toTile {n : Nat} {y : List Row} {own : Bool} {st : Option Word} (h : Oldest s wk w g k (.toTile n y own st) rest)
    (hacc : Mem.wf g.acc = true) :
    ∃ t, exec (.matrixExecute wk 0) s = .next t ∧ leftQueue t wk rest ∧ tileBecomes t w.wg n g (fun r q => elemOf y r q) ∧
      pvalidOf t wk = some (own || w.mctx.pvalid) := by
  have hrun := runMatrix_toTile (s := s) (wk := wk) (w := w) (g := g) n y own st
  cases own with
  | true =>
    have hwarp := setPValid_warp (t := withTile s w.wg n y fun _ _ => decide (2 ≤ 0)) h.warp true
    exact ⟨_, h.exec_of_run hrun, leftQueue_requeue hwarp rest, tileBecomes_of_write (wgOf_get? h.group) hacc n y _ rfl,
      pvalidOf_requeue hwarp rest⟩
  | false =>
    exact ⟨_, h.exec_of_run hrun, leftQueue_requeue h.warp rest, tileBecomes_of_write (wgOf_get? h.group) hacc n y _ rfl,
      pvalidOf_requeue h.warp rest⟩

/-! ### Drains into a register group -/

/-- The results that a drain fills: each of a split that has it alone, its window open. -/
def drainsTo (t : State) (wk : Nat) (w : Warp) (id : Nat) (y : Nat → Nat → Word) : Prop :=
  ∀ e sp p, Tab.get? w.splits e = some sp → sp.pend = [p] → p.id = id → p.inRun = true → 0 < p.window →
    ∃ v sp' p', Tab.get? t.warps wk = some v ∧ Tab.get? v.splits e = some sp' ∧ sp'.pend = [p'] ∧ p'.arrived = true ∧
      p'.open_ = false ∧ ∀ r q, r < 96 → q < 32 → resultOf p' q r = some (y r q)

/-- A drain, the entry it came from gone. -/
theorem drainsTo_of_settled {t : State} {v : Warp} {id : Nat} {y : List Row} {bad : Nat → Nat → Bool} {f : Nat → Nat → Word}
    (hset : Settled (w.drained id y bad) v) (ht : ∃ x, Tab.get? t.warps wk = some x ∧ x.splits = v.splits) (hy : y.length = 32)
    (hrow : ∀ r ∈ y, r.length = 96) (hf : ∀ r q, r < 96 → q < 32 → elemOf y r q = f r q) : drainsTo t wk w id f := by
  rintro e sp p hsp hp rfl hrun hwin
  obtain ⟨x, hx, hsplits⟩ := ht
  refine ⟨x, _, p.drained y bad, hx, hsplits ▸ hset.drained hsp hp hrun hwin, rfl, rfl, rfl, fun r q hr hq => ?_⟩
  rw [resultOf_drained p bad hy hrow hr hq, hf r q hr hq]

/-- An entry whose drain leaves P-valid as it was. -/
theorem Oldest.drain (h : Oldest s wk w g k op rest) {s1 : State} (hs1 : s1.warps = s.warps) {id : Nat} {y : List Row}
    {bad : Nat → Nat → Bool} (hrun : runMatrix s wk w g 0 op = some (fillDrain s1 wk id y bad false)) (hy : y.length = 32)
    (hrow : ∀ r ∈ y, r.length = 96) {f : Nat → Nat → Word} (hf : ∀ r q, r < 96 → q < 32 → elemOf y r q = f r q) :
    ∃ t, exec (.matrixExecute wk 0) s = .next t ∧ leftQueue t wk rest ∧ pvalidOf t wk = some w.mctx.pvalid ∧ drainsTo t wk w id f := by
  obtain ⟨v, hv, hset⟩ := fillDrain_warp (hs1 ▸ h.warp) id y bad
  refine ⟨_, h.exec_of_run hrun, leftQueue_requeue hv rest, ?_, drainsTo_of_settled hset ⟨_, requeue_warp hv rest, rfl⟩ hy hrow hf⟩
  rw [pvalidOf_requeue hv, hset.ctx]
  rfl

/-- `msa` (R246): its drain, and P used up. -/
theorem Oldest.drainP (h : Oldest s wk w g k op rest) {s1 : State} (hs1 : s1.warps = s.warps) {id : Nat} {y : List Row}
    {bad : Nat → Nat → Bool} (hrun : runMatrix s wk w g 0 op = some (setPValid (fillDrain s1 wk id y bad false) wk false))
    (hy : y.length = 32) (hrow : ∀ r ∈ y, r.length = 96) {f : Nat → Nat → Word}
    (hf : ∀ r q, r < 96 → q < 32 → elemOf y r q = f r q) :
    ∃ t, exec (.matrixExecute wk 0) s = .next t ∧ leftQueue t wk rest ∧ pvalidOf t wk = some false ∧ drainsTo t wk w id f := by
  obtain ⟨v, hv, hset⟩ := fillDrain_warp (hs1 ▸ h.warp) id y bad
  have hp := setPValid_warp hv false
  exact ⟨_, h.exec_of_run hrun, leftQueue_requeue hp rest, pvalidOf_requeue hp rest,
    drainsTo_of_settled hset ⟨_, requeue_warp hp rest, rfl⟩ hy hrow hf⟩

/-- The result of `mmov` to registers goes to its drain, and status bits at most beside it. -/
theorem runMatrix_toRegs (hsh : isShadow s w = false) (n id : Nat) (st : Option Word) :
    ∃ s1 bad, s1.warps = s.warps ∧ runMatrix s wk w g 0 (.toRegs n st id) = some (fillDrain s1 wk id (readTile g n) bad false) := by
  simp only [runMatrix, hsh, Bool.false_and]
  exact ⟨_, _, matrixStatus_warps _ _ _ _ _, rfl⟩

/-- The result of `msa` goes to its drain, status bits at most beside it, and P is used up. -/
theorem runMatrix_msa (hsh : isShadow s w = false) (scales : Row) (cols : List Byte) (badCols : List Nat) (y : List Row) (p id : Nat)
    (st : Option Word) : ∃ s1 bad, s1.warps = s.warps ∧ runMatrix s wk w g 0 (.msa scales cols badCols y p st id) =
      some (setPValid (fillDrain s1 wk id (msaColumns scales cols y (if w.mctx.pvalid then readTile g p else [])) bad false) wk false) := by
  simp only [runMatrix, hsh, Bool.false_and]
  exact ⟨_, _, (vregStatus_fields _ _ _ _ _).1, rfl⟩

/-- The result of an integer `mma` outside ring mode goes to its drain. -/
theorem runMatrix_mmaToRegs (hsh : isShadow s w = false) (hmode : ringMode s w = false) (n : Nat) (rows cols : List (List Byte))
    (y : List Row) (z close : Bool) (p id : Nat) (st : Option Word) : ∃ s1 bad, s1.warps = s.warps ∧
      runMatrix s wk w g 0 (.mma n rows cols [] [] y z close p st (some id)) =
        some (fillDrain s1 wk id (addColumns y (matProduct (matForm n) rows cols)) bad false) := by
  simp only [runMatrix, hsh, hmode, Bool.false_and, Bool.false_eq_true, if_false]
  exact ⟨_, _, (vregStatus_fields _ _ _ _ _).1, rfl⟩

/-- `mmov` of a tile to registers (R248). -/
theorem Oldest.toRegs {n id : Nat} {st : Option Word} (h : Oldest s wk w g k (.toRegs n st id) rest) (hsh : isShadow s w = false) :
    ∃ t, exec (.matrixExecute wk 0) s = .next t ∧ leftQueue t wk rest ∧ pvalidOf t wk = some w.mctx.pvalid ∧
      drainsTo t wk w id (elemOf (readTile g n)) := by
  obtain ⟨s1, bad, hs1, hrun⟩ := runMatrix_toRegs (wk := wk) (g := g) hsh n id st
  exact h.drain hs1 hrun (readTile_length g n) (readTile_row_length g n) fun _ _ _ _ => rfl

/-- `msa` (R246). -/
theorem Oldest.msa {scales : Row} {cols : List Byte} {y : List Row} {p id : Nat} {st : Option Word}
    (h : Oldest s wk w g k (.msa scales cols [] y p st id) rest) (hsh : isShadow s w = false) (hy : y.length = 32)
    (hrow : ∀ q ∈ y, q.length = 96) :
    ∃ t, exec (.matrixExecute wk 0) s = .next t ∧ leftQueue t wk rest ∧ pvalidOf t wk = some false ∧
      drainsTo t wk w id fun r q => BitVec.ofNat 32 (msaElem (elemOf y r q).toNat
        (if w.mctx.pvalid then (elemOf (readTile g p) r q).toNat else 0) ((scales.getD r 0).toNat % 256) (cols.getD q 0).toNat) := by
  let held := if w.mctx.pvalid then readTile g p else []
  have hheld (r q : Nat) : (elemOf held r q).toNat = if w.mctx.pvalid then (elemOf (readTile g p) r q).toNat else 0 := by
    simp only [held]
    split <;> rfl
  obtain ⟨s1, bad, hs1, hrun⟩ := runMatrix_msa (wk := wk) (g := g) hsh scales cols [] y p id st
  refine h.drainP hs1 hrun (by simp [msaColumns, hy]) ?_ fun r q hr hq => ?_
  · intro x hx
    obtain ⟨i, hi, rfl⟩ := List.mem_mapIdx.mp hx
    rw [List.length_mapIdx]
    exact hrow _ (List.getElem_mem hi)
  · rw [elemOf_msaColumns scales cols held hy hrow hr hq, hheld]

/-- An integer `mma` outside ring mode: its sum goes to its register group (R244). -/
theorem Oldest.mmaToRegs {n p id : Nat} {rows cols : List (List Byte)} {c : List Row} {z close : Bool} {st : Option Word}
    (h : Oldest s wk w g k (.mma n rows cols [] [] c z close p st (some id)) rest) (hsh : isShadow s w = false)
    (hmode : ringMode s w = false) (hrows : rows.length = 96) (hcols : cols.length = 32) (hc : c.length = 32)
    (hrow : ∀ q ∈ c, q.length = 96) :
    ∃ t, exec (.matrixExecute wk 0) s = .next t ∧ leftQueue t wk rest ∧ pvalidOf t wk = some w.mctx.pvalid ∧
      drainsTo t wk w id fun r q => elemOf c r q + elemOf (matProduct (matForm n) rows cols) r q := by
  have hlen : (matProduct (matForm n) rows cols).length = 32 := (matProduct_length ..).trans hcols
  have hlens : ∀ r ∈ matProduct (matForm n) rows cols, r.length = 96 := fun r hr => (matProduct_row_length _ _ _ r hr).trans hrows
  obtain ⟨s1, bad, hs1, hrun⟩ := runMatrix_mmaToRegs (wk := wk) (g := g) hsh hmode n rows cols c z close p id st
  exact h.drain hs1 hrun (by simp [addColumns, hc, hlen]) (addColumns_row_length hrow hlens)
    fun r q hr hq => elemOf_addColumns hc hlen hrow hlens hr hq

/-- A floating-point `mma` outside ring mode: its product is P, and counts in PDISC where P was valid (R244, R265). -/
theorem Oldest.mmaToP {n p : Nat} {rows cols : List (List Byte)} {c : List Row} {z close : Bool} {st : Option Word}
    (h : Oldest s wk w g k (.mma n rows cols [] [] c z close p st none) rest) (hmode : ringMode s w = false)
    (hacc : Mem.wf g.acc = true) (hskein : Tab.get? s.skeins g.skein = some k) :
    ∃ t k', exec (.matrixExecute wk 0) s = .next t ∧ leftQueue t wk rest ∧
      tileBecomes t w.wg p g (fun r q => elemOf (matProduct (matForm n) rows cols) r q) ∧ pvalidOf t wk = some true ∧
      Tab.get? t.skeins g.skein = some k' ∧ (w.mctx.pvalid = false ∨ st = none → k' = k) ∧
      ∀ a, w.mctx.pvalid = true → st = some a → k'.scratch = orStatus k.scratch a.toNat 0 0 1 := by
  obtain ⟨k', hk', hkeep, hcount⟩ := vregStatus_skein hskein w.mctx.pvalid st
  obtain ⟨hwarps, hwgs⟩ := vregStatus_fields s g.skein st 0 (if w.mctx.pvalid then 1 else 0)
  let counted := vregStatus s g.skein st 0 (if w.mctx.pvalid then 1 else 0)
  let bad (i k : Nat) : Bool := List.contains [] i || List.contains [] k || decide (2 ≤ 0)
  let t := withTile counted w.wg p (matProduct (matForm n) rows cols) bad
  have hrun : runMatrix s wk w g 0 (.mma n rows cols [] [] c z close p st none) = some (setPValid t wk true) := by
    simp only [runMatrix, hmode, Bool.false_eq_true, if_false]
    rfl
  have hp : Tab.get? (setPValid t wk true).warps wk = some _ := setPValid_warp (hwarps ▸ h.warp) true
  exact ⟨_, k', h.exec_of_run hrun, leftQueue_requeue hp rest,
    tileBecomes_of_write (s := counted) (hwgs ▸ wgOf_get? h.group) hacc p _ bad rfl, pvalidOf_requeue hp rest, hk', hkeep, hcount⟩

/-! ### Products into the ring -/

/-- A product that opens a tile waits while the tile at HEAD is not free (R244, R249). -/
theorem Oldest.mmaWaits {n p : Nat} {rows cols : List (List Byte)} {c : List Row} {z close : Bool} {st : Option Word} {r : Ring}
    (h : Oldest s wk w g k (.mma n rows cols [] [] c z close p st none) rest) (hmode : ringMode s w = true) (hr : g.ring = some r)
    (htile : r.stateAt r.head ≠ .free) (hopens : (z || !(matForm n).integer) = true) :
    exec (.matrixExecute wk 0) s = .next s := by
  refine h.exec_of_wait ?_
  have hfull : ringFull g (matForm n).integer z = true := by simp [ringFull, hr, hopens, htile]
  simp only [runMatrix, hmode, if_true, ringDeliver, wgOf_get? h.group, hr, hfull]

/-- A product delivered to the ring (R244, R249, R250). -/
theorem Oldest.mmaToRing {n p : Nat} {rows cols : List (List Byte)} {c : List Row} {z close : Bool} {st : Option Word} {r : Ring}
    (h : Oldest s wk w g k (.mma n rows cols [] [] c z close p st none) rest) (hsh : isShadow s w = false) (hmode : ringMode s w = true)
    (hacc : Mem.wf g.acc = true) (hr : g.ring = some r) (hroom : ringFull g (matForm n).integer z = false)
    (hclean : (z || !(matForm n).integer) = true ∨ g.accPoison = []) :
    let fresh := z || !(matForm n).integer
    let count := if fresh then r.head else r.head - 1
    let y := matProduct (matForm n) rows cols
    let sum := if fresh then y else addColumns (readTile g (r.tileAt count)) y
    ∃ t g', exec (.matrixExecute wk 0) s = .next t ∧ leftQueue t wk rest ∧ Tab.get? t.wgs w.wg = some g' ∧
      g'.ring = some (r.delivered count (matForm n).integer close) ∧ ∀ i j, i < 96 → j < 32 →
        elemOf (readTile g' (r.tileAt count)) i j = elemOf sum i j := by
  intro fresh count y sum
  let bad (i k : Nat) : Bool := List.contains [] i || List.contains [] k || decide (2 ≤ 0)
  obtain ⟨t, g', marks, hdeliver, hwarps, hgroup, hring, htile⟩ := ringDeliver_group (wgOf_get? h.group) hr hroom hclean close y bad
  have hrun : runMatrix s wk w g 0 (.mma n rows cols [] [] c z close p st none) = some t := by
    rw [← hdeliver]
    simp only [runMatrix, hmode, hsh, if_true]
    rfl
  refine ⟨_, g', h.exec_of_run hrun, leftQueue_requeue (hwarps ▸ h.warp) rest, hgroup, hring, fun i j hi hj => ?_⟩
  rw [readTile_congr htile]
  exact elemOf_writeTile hacc (r.tileAt count) sum marks hi hj

end

end Sys2Proof.Machine


namespace Sys2Proof.Machine

open Sys2Proof.Claims

/-- The engine executes the oldest entry of a warp as its instruction says. -/
theorem matrixExecutesAlone : Claims.MatrixExecutesAlone := by
  intro s wk w g k op rest hw hq hg hk hres hacc hsh
  have h : Oldest s wk w g k op rest := ⟨hw, hq, hg, hk, hres⟩
  have hskein : Tab.get? s.skeins g.skein = some k := by simpa [skOf, hg] using hk
  refine ⟨?_, ?_, ?_, ?_, ?_, ?_, ?_, ?_, ?_⟩
  · rintro n st rfl
    exact h.zero hacc
  · rintro st rfl
    exact h.zeroP
  · rintro st rfl
    exact h.ring
  · rintro n c own st rfl
    exact h.toTile hacc
  · rintro id y - (⟨n, st, rfl, rfl⟩ | ⟨scales, cols, c, p, st, rfl, hc, hrow, rfl⟩ |
      ⟨n, rows, cols, c, z, close, p, st, rfl, hmode, hrows, hcols, hc, hrow, rfl⟩)
    · simp only [Bool.not_false, Bool.and_true]
      exact h.toRegs hsh
    · simp only [Bool.not_true, Bool.and_false]
      exact h.msa hsh hc hrow
    · simp only [Bool.not_false, Bool.and_true]
      exact h.mmaToRegs hsh hmode hrows hcols hc hrow
  · rintro n rows cols c z close p st rfl hmode
    obtain ⟨t, k', hexec, htaken, htile, hp, hk', hkeep, hcount⟩ := h.mmaToP hmode hacc hskein
    refine ⟨t, k', hexec, htaken, htile, hp, hk', hkeep, fun a hvalid hst hwf => ?_⟩
    rw [hcount a hvalid hst]
    exact le_orStatus_pdisc hwf a.toNat
  · rintro n rows cols c z close p st rfl hmode r hr htile hopens
    exact h.mmaWaits hmode hr htile hopens
  · rintro n rows cols c z close p st rfl hmode r hr htile hopens
    have hfree : r.stateAt r.head = .free := htile
    have hroom : ringFull g (matForm n).integer z = false := by simp [ringFull, hr, hfree]
    have hring := h.mmaToRing hsh hmode hacc hr hroom (.inl hopens)
    simp only [hopens, if_true] at hring
    exact hring
  · rintro n rows cols c close p st rfl hmode hint hrows hcols hclean r hr hhead
    have hroom : ringFull g (matForm n).integer false = false := by simp [ringFull, hr, hint]
    have hring := h.mmaToRing hsh hmode hacc hr hroom (.inr hclean)
    obtain ⟨t, g', hexec, htaken, hg', hr', htile⟩ := hring
    simp only [hint, Bool.not_true, Bool.or_false, Bool.false_eq_true, if_false] at hr' htile
    refine ⟨t, g', hexec, htaken, hg', ?_, fun i j hi hj => ?_⟩
    · rw [hr']
      simp only [Ring.delivered, Nat.sub_add_cancel hhead, Bool.not_true, Bool.or_false, if_true]
    · exact (htile i j hi hj).trans (elemOf_addColumns (readTile_length ..) ((matProduct_length ..).trans hcols) (readTile_row_length g _)
        (fun x hx => (matProduct_row_length _ _ _ x hx).trans hrows) hi hj)

/-- Settles O47: the elements of a product, and the engine's execution of each instruction. -/
theorem matrixExecutes : Obligations.MatrixExecutes := ⟨productElements, matrixExecutesAlone⟩

end Sys2Proof.Machine

namespace Sys2Proof.Laws

/-! ### Every instruction word (R75, R76, R94 to R96) -/

/-- The round trip of each instruction; an event has no word. -/
theorem roundTrip : ∀ i : Instr, RoundTrip.Statement i
  | .sadd .. => RoundTrip.sadd _ _ _
  | .ssub .. => RoundTrip.ssub _ _ _
  | .smul .. => RoundTrip.smul _ _ _
  | .smulh .. => RoundTrip.smulh _ _ _
  | .smulhn .. => RoundTrip.smulhn _ _ _
  | .sand .. => RoundTrip.sand _ _ _
  | .sor .. => RoundTrip.sor _ _ _
  | .sxor .. => RoundTrip.sxor _ _ _
  | .sshl .. => RoundTrip.sshl _ _ _
  | .sshr .. => RoundTrip.sshr _ _ _
  | .ssra .. => RoundTrip.ssra _ _ _
  | .smin .. => RoundTrip.smin _ _ _
  | .smax .. => RoundTrip.smax _ _ _
  | .sminn .. => RoundTrip.sminn _ _ _
  | .smaxn .. => RoundTrip.smaxn _ _ _
  | .sclz .. => RoundTrip.sclz _ _
  | .spopc .. => RoundTrip.spopc _ _
  | .sbfe .. => RoundTrip.sbfe _ _ _ _
  | .sbfi .. => RoundTrip.sbfi _ _ _
  | .saddi .. => RoundTrip.saddi _ _ _
  | .sandi .. => RoundTrip.sandi _ _ _
  | .sori .. => RoundTrip.sori _ _ _
  | .sxori .. => RoundTrip.sxori _ _ _
  | .sshli .. => RoundTrip.sshli _ _ _
  | .sshri .. => RoundTrip.sshri _ _ _
  | .smovi .. => RoundTrip.smovi _ _
  | .smoviHi .. => RoundTrip.smoviHi _ _
  | .sadd64 .. => RoundTrip.sadd64 _ _ _
  | .ssub64 .. => RoundTrip.ssub64 _ _ _
  | .sshf64 .. => RoundTrip.sshf64 _ _ _ _
  | .scmp .. => RoundTrip.scmp _ _ _ _
  | .ssel .. => RoundTrip.ssel _ _ _
  | .vadd .. => RoundTrip.vadd _ _ _ _
  | .vsub .. => RoundTrip.vsub _ _ _ _
  | .vmul .. => RoundTrip.vmul _ _ _ _
  | .vmulh .. => RoundTrip.vmulh _ _ _
  | .vfma .. => RoundTrip.vfma _ _ _ _
  | .vmin .. => RoundTrip.vmin _ _ _
  | .vmax .. => RoundTrip.vmax _ _ _
  | .vminp .. => RoundTrip.vminp _ _ _
  | .vmaxp .. => RoundTrip.vmaxp _ _ _
  | .vabs .. => RoundTrip.vabs _ _
  | .vneg .. => RoundTrip.vneg _ _
  | .vand .. => RoundTrip.vand _ _ _
  | .vor .. => RoundTrip.vor _ _ _
  | .vxor .. => RoundTrip.vxor _ _ _
  | .vnot .. => RoundTrip.vnot _ _
  | .vshl .. => RoundTrip.vshl _ _ _
  | .vshr .. => RoundTrip.vshr _ _ _
  | .vsra .. => RoundTrip.vsra _ _ _
  | .vclz .. => RoundTrip.vclz _ _
  | .vpopc .. => RoundTrip.vpopc _ _
  | .vbfe .. => RoundTrip.vbfe _ _ _ _
  | .vbfi .. => RoundTrip.vbfi _ _ _
  | .vdot4 .. => RoundTrip.vdot4 _ _ _ _
  | .vscale .. => RoundTrip.vscale _ _ _ _
  | .vfrac .. => RoundTrip.vfrac _ _
  | .vrnd .. => RoundTrip.vrnd _ _ _
  | .vclass .. => RoundTrip.vclass _ _
  | .vaddi .. => RoundTrip.vaddi _ _ _
  | .vmuli .. => RoundTrip.vmuli _ _ _
  | .vandi .. => RoundTrip.vandi _ _ _
  | .vori .. => RoundTrip.vori _ _ _
  | .vxori .. => RoundTrip.vxori _ _ _
  | .vshli .. => RoundTrip.vshli _ _ _
  | .vshri .. => RoundTrip.vshri _ _ _
  | .vsrai .. => RoundTrip.vsrai _ _ _
  | .vmini .. => RoundTrip.vmini _ _ _
  | .vmaxi .. => RoundTrip.vmaxi _ _ _
  | .vrcp .. => RoundTrip.vrcp _ _
  | .vrsq .. => RoundTrip.vrsq _ _
  | .vsqrt .. => RoundTrip.vsqrt _ _
  | .vexp2 .. => RoundTrip.vexp2 _ _
  | .vlog2 .. => RoundTrip.vlog2 _ _
  | .vsin .. => RoundTrip.vsin _ _
  | .vcos .. => RoundTrip.vcos _ _
  | .vtanh .. => RoundTrip.vtanh _ _
  | .vsigm .. => RoundTrip.vsigm _ _
  | .verf .. => RoundTrip.verf _ _
  | .vcvt .. => RoundTrip.vcvt _ _ _ _
  | .vpack .. => RoundTrip.vpack _ _ _
  | .vunpk .. => RoundTrip.vunpk _ _ _
  | .vqblk .. => RoundTrip.vqblk _ _ _ _
  | .vcmp .. => RoundTrip.vcmp _ _ _ _
  | .vcmpi .. => RoundTrip.vcmpi _ _ _ _
  | .pand .. => RoundTrip.pand _ _ _ _ _
  | .por .. => RoundTrip.por _ _ _ _ _
  | .pxor .. => RoundTrip.pxor _ _ _ _ _
  | .pmov .. => RoundTrip.pmov _ _ _
  | .pmovV2p .. => RoundTrip.pmovV2p _ _ _
  | .pmovP2v .. => RoundTrip.pmovP2v _ _ _
  | .vsel .. => RoundTrip.vsel _ _ _ _
  | .vmov .. => RoundTrip.vmov _ _ _
  | .vmovi .. => RoundTrip.vmovi _ _
  | .vmovh .. => RoundTrip.vmovh _ _
  | .vbcs .. => RoundTrip.vbcs _ _ _
  | .vget .. => RoundTrip.vget _ _ _
  | .vput .. => RoundTrip.vput _ _ _
  | .vlid .. => RoundTrip.vlid _ _
  | .vbnd .. => RoundTrip.vbnd _ _ _
  | .vshfl .. => RoundTrip.vshfl _ _ _ _
  | .vshfu .. => RoundTrip.vshfu _ _ _ _ _
  | .vshfd .. => RoundTrip.vshfd _ _ _ _ _
  | .vshfx .. => RoundTrip.vshfx _ _ _ _ _
  | .vote .. => RoundTrip.vote _ _ _ _
  | .vred .. => RoundTrip.vred _ _ _
  | .vscan .. => RoundTrip.vscan _ _ _ _
  | .vmatch .. => RoundTrip.vmatch _ _ _
  | .width .. => RoundTrip.width _
  | .br .. => RoundTrip.br _
  | .bra .. => RoundTrip.bra _ _ _
  | .brc .. => RoundTrip.brc _ _ _
  | .brx .. => RoundTrip.brx _ _
  | .brxU .. => RoundTrip.brxU _
  | .call .. => RoundTrip.call _
  | .ret .. => RoundTrip.ret _
  | .jarm .. => RoundTrip.jarm _
  | .jarv .. => RoundTrip.jarv _
  | .jwait .. => RoundTrip.jwait _
  | .jclr .. => RoundTrip.jclr _
  | .trap .. => RoundTrip.trap _
  | .mode .. => RoundTrip.mode _ _
  | .barInit .. => RoundTrip.barInit _ _
  | .barArv .. => RoundTrip.barArv _ _ _
  | .barWait .. => RoundTrip.barWait _ _ _
  | .fork .. => RoundTrip.fork _ _
  | .rdv .. => RoundTrip.rdv _
  | .rcall .. => RoundTrip.rcall _ _ _ _
  | .rcallRetry .. => RoundTrip.rcallRetry _ _ _ _
  | .rret .. => RoundTrip.rret _
  | .rwait .. => RoundTrip.rwait _ _ _
  | .launch .. => RoundTrip.launch _ _ _
  | .brk .. => RoundTrip.brk _
  | .sbnd .. => RoundTrip.sbnd _ _ _ _
  | .ldN8 .. => RoundTrip.ldN8 _ _ _ _
  | .ldI8 .. => RoundTrip.ldI8 _ _ _ _
  | .ldN16 .. => RoundTrip.ldN16 _ _ _ _
  | .ldI16 .. => RoundTrip.ldI16 _ _ _ _
  | .ld32 .. => RoundTrip.ld32 _ _ _ _
  | .ld64 .. => RoundTrip.ld64 _ _ _ _
  | .ld128 .. => RoundTrip.ld128 _ _ _ _
  | .st .. => RoundTrip.st _ _ _ _
  | .ldl32 .. => RoundTrip.ldl32 _ _ _ _
  | .ldl128 .. => RoundTrip.ldl128 _ _ _ _
  | .stl .. => RoundTrip.stl _ _ _ _
  | .ldlQ .. => RoundTrip.ldlQ _ _ _ _ _ _
  | .stlQ .. => RoundTrip.stlQ _ _ _ _ _
  | .ldc .. => RoundTrip.ldc _ _ _ _
  | .sld .. => RoundTrip.sld _ _ _ _ _
  | .red .. => RoundTrip.red _ _ _ _
  | .atomAdd .. => RoundTrip.atomAdd _ _ _ _
  | .atomMin .. => RoundTrip.atomMin _ _ _ _
  | .atomMax .. => RoundTrip.atomMax _ _ _ _
  | .atomMinn .. => RoundTrip.atomMinn _ _ _ _
  | .atomMaxn .. => RoundTrip.atomMaxn _ _ _ _
  | .atomAnd .. => RoundTrip.atomAnd _ _ _ _
  | .atomOr .. => RoundTrip.atomOr _ _ _ _
  | .atomXor .. => RoundTrip.atomXor _ _ _ _
  | .atomSwap .. => RoundTrip.atomSwap _ _ _ _
  | .atomCas .. => RoundTrip.atomCas _ _ _ _
  | .atomInc .. => RoundTrip.atomInc _ _ _ _
  | .atomDec .. => RoundTrip.atomDec _ _ _ _
  | .atomFadd .. => RoundTrip.atomFadd _ _ _ _
  | .atoml .. => RoundTrip.atoml _ _ _
  | .cpy .. => RoundTrip.cpy _ _ _ _
  | .cpyz .. => RoundTrip.cpyz _ _ _ _
  | .mrd .. => RoundTrip.mrd _ _ _
  | .mwait .. => RoundTrip.mwait _ _ _
  | .mstep .. => RoundTrip.mstep _ _ _
  | .fence .. => RoundTrip.fence _ _
  | .pref .. => RoundTrip.pref _ _ _
  | .cinv .. => RoundTrip.cinv _ _ _
  | .cwb .. => RoundTrip.cwb _ _ _
  | .xatAdd .. => RoundTrip.xatAdd _ _ _
  | .xatRed .. => RoundTrip.xatRed _ _ _ _
  | .xatRmw .. => RoundTrip.xatRmw _ _ _ _
  | .xatExpr .. => RoundTrip.xatExpr _ _ _
  | .xatFill .. => RoundTrip.xatFill _ _ _ _
  | .xatCopy .. => RoundTrip.xatCopy _ _ _ _
  | .mqPut .. => RoundTrip.mqPut _ _ _
  | .mqGet .. => RoundTrip.mqGet _ _ _
  | .mred .. => RoundTrip.mred _ _ _ _
  | .mrelay .. => RoundTrip.mrelay _ _ _ _
  | .nput .. => RoundTrip.nput _ _ _
  | .nget .. => RoundTrip.nget _ _ _
  | .nsig .. => RoundTrip.nsig _ _ _
  | .nwait .. => RoundTrip.nwait _ _
  | .nwaitRd .. => RoundTrip.nwaitRd _ _
  | .mmaI8t2 .. => RoundTrip.mmaI8t2 _ _ _ _
  | .mmaE4t2 .. => RoundTrip.mmaE4t2 _ _ _ _
  | .mmaI8i4 .. => RoundTrip.mmaI8i4 _ _ _ _
  | .mmaI8i8 .. => RoundTrip.mmaI8i8 _ _ _ _
  | .mmaE4e4 .. => RoundTrip.mmaE4e4 _ _ _ _
  | .mmaE4e5 .. => RoundTrip.mmaE4e5 _ _ _ _
  | .mmaE5e4 .. => RoundTrip.mmaE5e4 _ _ _ _
  | .mmaE5e5 .. => RoundTrip.mmaE5e5 _ _ _ _
  | .mmaE2e2 .. => RoundTrip.mmaE2e2 _ _ _ _
  | .mmaBf16 .. => RoundTrip.mmaBf16 _ _ _ _
  | .mmaF16 .. => RoundTrip.mmaF16 _ _ _ _
  | .mmaBft2 .. => RoundTrip.mmaBft2 _ _ _ _
  | .msa .. => RoundTrip.msa _ _ _ _
  | .mzero .. => RoundTrip.mzero _
  | .mmovToRegisters .. => RoundTrip.mmovToRegisters _ _ _
  | .mmovToTile .. => RoundTrip.mmovToTile _ _
  | .mring .. => RoundTrip.mring _ _ _
  | .eSa .. => RoundTrip.eSa _ _ _
  | .eBias .. => RoundTrip.eBias _ _
  | .eAct .. => RoundTrip.eAct _
  | .eCvt .. => RoundTrip.eCvt _ _
  | .eBnd .. => RoundTrip.eBnd _
  | .eSt .. => RoundTrip.eSt _ _ _
  | .eAst .. => RoundTrip.eAst _ _ _
  | .eArv .. => RoundTrip.eArv _ _
  | .eBr .. => RoundTrip.eBr _ _
  | .eWait .. => RoundTrip.eWait _ _ _
  | .srd .. => RoundTrip.srd _ _
  | .swr .. => RoundTrip.swr _ _
  | .ctlModeWrite .. => RoundTrip.ctlModeWrite _
  | .ctlCpyfltWrite .. => RoundTrip.ctlCpyfltWrite _
  | .ctlEstWrite .. => RoundTrip.ctlEstWrite _
  | .ctlTcauseWrite .. => RoundTrip.ctlTcauseWrite _
  | .clk .. => RoundTrip.clk _ _
  | .sleep .. => RoundTrip.sleep _
  | .id .. => RoundTrip.id _ _
  | .dbg .. => RoundTrip.dbg _ _ _
  | .endRun .. => RoundTrip.endRun _ _ _
  | .wordNotAnInstruction .. => RoundTrip.wordNotAnInstruction _
  | .issueSelector .. => RoundTrip.issueSelector _
  | .runFetch .. => RoundTrip.runFetch _ _
  | .longLatencyWriteback .. => RoundTrip.longLatencyWriteback _ _
  | .writeAcknowledged .. => RoundTrip.writeAcknowledged _ _
  | .matrixExecute .. => RoundTrip.matrixExecute _ _
  | .sleepExpiry .. => RoundTrip.sleepExpiry _ _
  | .warpRetire .. => RoundTrip.warpRetire _
  | .farCallArrival .. => RoundTrip.farCallArrival _ _
  | .farReplyArrival .. => RoundTrip.farReplyArrival _
  | .rcallTimeout .. => RoundTrip.rcallTimeout _ _
  | .launchRecordStart .. => RoundTrip.launchRecordStart _
  | .skeinRetire .. => RoundTrip.skeinRetire _
  | .gridRetire .. => RoundTrip.gridRetire _
  | .graphWaitSatisfied .. => RoundTrip.graphWaitSatisfied _ _
  | .preemptionSaveComplete .. => RoundTrip.preemptionSaveComplete _
  | .copyCommandComplete .. => RoundTrip.copyCommandComplete _
  | .nearOperationPerformed .. => RoundTrip.nearOperationPerformed _
  | .nearCommandComplete .. => RoundTrip.nearCommandComplete _
  | .mqModuleAnswer .. => RoundTrip.mqModuleAnswer _
  | .mredContribution .. => RoundTrip.mredContribution _
  | .mstepComplete .. => RoundTrip.mstepComplete _
  | .skeinPlacement .. => RoundTrip.skeinPlacement _
  | .reclassification .. => RoundTrip.reclassification _ _ _
  | .rowTransferBlockCommit .. => RoundTrip.rowTransferBlockCommit _
  | .nearProgress .. => RoundTrip.nearProgress _
  | .replyCacheExpiry .. => RoundTrip.replyCacheExpiry _ _
  | .farTaskStopped .. => RoundTrip.farTaskStopped _
  | .hostDbell .. => RoundTrip.hostDbell _
  | .preemptionRequest .. => RoundTrip.preemptionRequest _
  | .timeSliceExpiry .. => RoundTrip.timeSliceExpiry _
  | .cancelRecord .. => RoundTrip.cancelRecord _ _
  | .translationInvalidate .. => RoundTrip.translationInvalidate _ _ _
  | .atsTranslationCompletion .. => RoundTrip.atsTranslationCompletion _ _ _ _ _
  | .priPageResponse .. => RoundTrip.priPageResponse _ _ _ _ _ _
  | .atsInvalidateRequest .. => RoundTrip.atsInvalidateRequest _ _
  | .faultService .. => RoundTrip.faultService _ _ _ _
  | .backInvalidation .. => RoundTrip.backInvalidation _ _
  | .moduleGrant .. => RoundTrip.moduleGrant _ _ _
  | .relayForward .. => RoundTrip.relayForward _
  | .routeInstall .. => RoundTrip.routeInstall _ _
  | .moduleLoss .. => RoundTrip.moduleLoss _
  | .packageLoss .. => RoundTrip.packageLoss _
  | .reltexPacketReceive .. => RoundTrip.reltexPacketReceive _
  | .reltexAckReceive .. => RoundTrip.reltexAckReceive _
  | .retransmitTimeout .. => RoundTrip.retransmitTimeout _
  | .scrub .. => RoundTrip.scrub _
  | .snapshotPageCopy .. => RoundTrip.snapshotPageCopy _ _
  | .snapshotPoolDecision .. => RoundTrip.snapshotPoolDecision _ _
  | .rollback .. => RoundTrip.rollback _
  | .unitFencing .. => RoundTrip.unitFencing _
  | .powerUpStepReady .. => RoundTrip.powerUpStepReady _
  | .coreGroupStart .. => RoundTrip.coreGroupStart _
  | .spdmRequest .. => RoundTrip.spdmRequest _
  | .hostEvent .. => RoundTrip.hostEvent _
  | .asidBinding .. => RoundTrip.asidBinding _ _
  | .asidFreeing .. => RoundTrip.asidFreeing _
  | .connectionBinding .. => RoundTrip.connectionBinding _ _
  | .launchQueueBinding .. => RoundTrip.launchQueueBinding _ _
  | .modulePortBringUp .. => RoundTrip.modulePortBringUp _ _ _
  | .nop => RoundTrip.nop
  | .yield => RoundTrip.yield
  | .exit => RoundTrip.exit
  | .tret => RoundTrip.tret
  | .kbar => RoundTrip.kbar
  | .gbar => RoundTrip.gbar
  | .racq => RoundTrip.racq
  | .xwait => RoundTrip.xwait
  | .mzeroP => RoundTrip.mzeroP
  | .ePop => RoundTrip.ePop
  | .eEnd => RoundTrip.eEnd
  | .currentLimit => RoundTrip.currentLimit
  | .temperatureLimit => RoundTrip.temperatureLimit
  | .fatalLimit => RoundTrip.fatalLimit
  | .powerGood => RoundTrip.powerGood
  | .conventionalReset => RoundTrip.conventionalReset
  | .functionLevelReset => RoundTrip.functionLevelReset
  | .boardPowerRemoved => RoundTrip.boardPowerRemoved

/-- What `decode` accepts is the word of the instruction that `raw` reads. -/
theorem encode_of_decode {i : Instr} {w : Word} (h : decode w = .ok i) : encode i = some w ∧ wellFormed i = true := by
  unfold decode at h
  split at h
  · cases h
  · split at h
    · next hi =>
      cases h
      exact hi
    · cases h

/-- Settles O39: the words of each instruction round trip, and the decoder itself compares a word with what it encodes. -/
theorem decodeEncode : Obligations.DecodeEncode := ⟨fun i w hw he => roundTrip i w he hw, fun _ _ => encode_of_decode⟩

/-- Settles O40: each word is the encoding of its instruction, which is well formed. -/
theorem decodedWords : Obligations.DecodedWords :=
  ⟨roundTrip _ _ rfl rfl, roundTrip _ _ rfl rfl, roundTrip _ _ rfl rfl, roundTrip _ _ rfl rfl, roundTrip _ _ rfl rfl,
    roundTrip _ _ rfl rfl, roundTrip _ _ rfl rfl, roundTrip _ _ rfl rfl, roundTrip _ _ rfl rfl⟩

end Sys2Proof.Laws

namespace Sys2Proof.Machine

open Sys2Proof.Claims

/-! ### Words that are no instruction (R96, R97, R262) -/

/-- A run begins at once where nothing of the split waits in the fault buffer. -/
theorem Cx.reissueWait_of_not_held {c : Cx} (h : c.heldAny = false) : c.reissueWait = none := by
  simp only [Cx.heldAny, Cx.heldLanes, Bool.or_eq_false_iff, List.any_eq_false] at h
  obtain ⟨hl, hc⟩ := h
  unfold Cx.reissueWait
  refine if_neg ?_
  rintro ⟨-, hany⟩
  obtain ⟨x, hx, hw⟩ := List.any_eq_true.mp hany
  have hlx := hl x hx
  have hcx := hc x hx
  revert hw hlx hcx
  cases x.2.waiter with
  | lanes w p k reqs =>
    cases p with
    | some _ => simp
    | none =>
      simp only [Bool.and_eq_true, List.any_eq_true, beq_iff_eq]
      rintro ⟨rfl, r, hr, -, hlane⟩ hno
      exact absurd (List.any_eq_true.mpr ⟨r, hr, hlane⟩) (by simpa using fun h => hno h)
  | command n =>
    dsimp only
    cases Tab.get? c.s.cmds n with
    | none => simp
    | some y =>
      simp only [Bool.and_eq_true]
      rintro ⟨-, haw⟩ - hno
      exact absurd haw hno
  | _ => simp

/-- What a precise trap that is not a fetch fault records. -/
def preciseTrap (c : Cx) (cause : Nat) : TrapInfo :=
  { cause := cause, code := 0, fetch := false, tpc := c.here, exec := 0, resume := c.here, run := c.sp.run, entries := [],
    fromPark := none }

theorem Cx.trapAt_of_trapsNow {c : Cx} (cause : Nat) (ht : trapsNow c) : c.trapAt cause = c.enterTrap (preciseTrap c cause) := by
  simp only [Cx.trapAt, Cx.trapBefore, ht.1, Cx.mustWait_of_trapsNow ht, ne_eq, not_true_eq_false, if_false]
  rfl

/-- A precise trap in a warp with a handler, where no rollback starts. -/
theorem Cx.trapAt_inHandler {c : Cx} {cause : Nat} (ht : trapsNow c) (hf : c.w.far = none) (hh : c.sp.trap.handler = false)
    (hv : c.tvec ≠ 0) (h : cause ≠ 0x13) (h' : cause ≠ 0x10) :
    ∃ t, c.trapAt cause = .next t ∧ inHandlerWith c t cause 0 false c.here c.here :=
  ⟨_, (Cx.trapAt_of_trapsNow cause ht).trans (Cx.enterTrap_of_handler hf (rollbackCause_of_other _ _ h h') hh hv ht.2.2),
    inHandlerWith_of_trap (preciseTrap c cause) rfl⟩

/-- The cause of R96 and R97 of a word that is no instruction; `ok` says that the context executes its opcode. -/
def refusalCause (r : DecodeError) (ok : Bool) : Nat := if r = .illegalOpcode then 0x01 else if ok then 0x02 else 0x03

theorem refusalCause_le (r : DecodeError) (ok : Bool) : refusalCause r ok ≤ 3 := by
  cases r <;> cases ok <;> decide

theorem badWordCause_of_error {w : Word} {r : DecodeError} (h : decode w = .error r) (ok : Nat → Bool) :
    badWordCause w ok = some (refusalCause r (ok (w.toNat / 2 ^ 24))) := by
  have hop : (w >>> 24).toNat = w.toNat / 2 ^ 24 := by rw [BitVec.toNat_ushiftRight, Nat.shiftRight_eq_div_pow]
  rw [← hop]
  cases r <;> simp only [badWordCause, h] <;> rfl

theorem exec_wordNotAnInstruction_of_executing {s : State} {c : Cx} {w : Word} {r : DecodeError} (h : decode w = .error r)
    (hc : executing s = some c) (ht : trapsNow c) :
    exec (.wordNotAnInstruction w) s = c.trapAt (refusalCause r (c.contextOk (w.toNat / 2 ^ 24))) := by
  obtain ⟨hf, hcx, -⟩ := executing_focus hc
  have hdue : c.sp.faultDue = false := by simp [Split.faultDue, ht.1]
  show execWordNotAnInstruction w s = _
  simp only [execWordNotAnInstruction, hf, hcx, badWordCause_of_error h, hdue, Cx.reissueWait_of_not_held ht.2.1,
    Bool.false_eq_true, if_false]

theorem exec_wordNotAnInstruction_of_running {s : State} {x : Ex} {w : Word} {r : DecodeError} (h : decode w = .error r)
    (hx : running s = some x) :
    exec (.wordNotAnInstruction w) s = x.stop (refusalCause r (engineOpcode (w.toNat / 2 ^ 24))) := by
  obtain ⟨hf, hex, -⟩ := running_focus hx
  show execWordNotAnInstruction w s = _
  simp only [execWordNotAnInstruction, hf, hex, badWordCause_of_error h]

/-- An engine program that has stopped runs no more, whatever the cause. -/
theorem Ex.stop_not_running (x : Ex) (cause : Nat) :
    ∃ t e, x.stop cause = .next t ∧ (Tab.get? t.wgs x.g).bind (fun g => g.engine) = some e ∧ e.running = false := by
  unfold Ex.stop
  extract_lets offset est y g en s t l
  have hs : ∃ e, (Tab.get? s.wgs x.g).bind (fun g => g.engine) = some e ∧ e.running = false :=
    ⟨_, congrArg (fun o : Option Workgroup => o.bind fun g => g.engine) (Tab.get?_put_self y.s.wgs y.g _), rfl⟩
  obtain ⟨e, he, hr⟩ := hs
  have ht : t.wgs = s.wgs := by
    unfold t
    split <;> rfl
  refine ⟨_, e, rfl, ?_, hr⟩
  split <;> simp only [wantRollback_wgs, ht, he]

/-- Settles O42: the event takes the precise trap of its cause in a warp, and stops an engine program with it. -/
theorem wordsThatAreNoInstruction : Obligations.WordsThatAreNoInstruction := by
  intro s w r h cause
  refine ⟨fun c hc ht hf hh hv => ?_, fun x hx => ?_⟩
  · have hle : cause (c.contextOk (w.toNat / 2 ^ 24)) ≤ 3 := refusalCause_le r _
    have h13 : cause (c.contextOk (w.toNat / 2 ^ 24)) ≠ 0x13 := by omega
    have h10 : cause (c.contextOk (w.toNat / 2 ^ 24)) ≠ 0x10 := by omega
    rw [exec_wordNotAnInstruction_of_executing h hc ht]
    exact Cx.trapAt_inHandler ht hf hh hv h13 h10
  · exact ⟨exec_wordNotAnInstruction_of_running h hx, x.stop_not_running _⟩

end Sys2Proof.Machine

namespace Sys2Proof.Machine

open Sys2Proof.Claims

/-! ### What the trailer is told: `yield` and `tret` (R174, R300) -/

/-- An instruction that only says what the trailer does. -/
theorem Goes.of_after {i : Instr} {s : State} {c : Cx} {a : After} (hs : c.shaped = true)
    (he : exec i s = Cx.done { c.settle i with sp := { (c.settle i).sp with after := a } }) :
    Goes i s c Writes.none a fun _ => True :=
  ⟨_, he, rfl, trivial, hs, c.settle_keeps i⟩

theorem exec_tret_of_ready {s : State} {c : Cx} (hr : Ready .tret s c) :
    exec .tret s = (if !c.sp.trap.handler then (c.settle .tret).trapAt 0x03
      else if c.sp.trap.trpc.toNat % 4 ≠ 0 then (c.settle .tret).trapAt 0x08
      else Cx.done { c.settle .tret with sp := { (c.settle .tret).sp with after := .returned } }) := issueSplit_of_ready hr _

/-! ### `exit` (R175) -/

@[simp] theorem Warp.regang_exited (w : Warp) (es : List Nat) (pc : Pc) (clock : Nat) :
    (w.regang es pc clock).exited = w.exited := by
  unfold Warp.regang
  split <;> rfl

@[simp] theorem Warp.lose_exited (w : Warp) (b : Bool) : (w.lose b).exited = w.exited := by
  unfold Warp.lose
  split <;> rfl

@[simp] theorem Warp.refill_exited (w : Warp) (clock : Nat) : (w.refill clock).exited = w.exited := by
  refine foldl_keeps (P := fun v : Warp => v.exited = w.exited) (fun v _ h => ?_) _ rfl
  unfold unspillOne
  split <;> exact h

/-- Testing a join lets no lane exit. -/
theorem resolveJoin_exited (clock : Nat) (w : Warp) (j : Nat) : (resolveJoin clock w j).exited = w.exited := by
  unfold resolveJoin
  dsimp only
  split
  · rw [Warp.refill_exited, Warp.lose_exited]
    exact foldl_keeps (P := fun v : Warp => v.exited = w.exited) (fun v pc h => (v.regang_exited _ pc clock).trans h) _ rfl
  · rfl

@[simp] theorem testJoins_exited (w : Warp) (clock : Nat) : (testJoins w clock).exited = w.exited :=
  foldl_keeps (P := fun v : Warp => v.exited = w.exited) (fun v j h => (resolveJoin_exited clock v j).trans h) _ rfl

/-- The split once its active lanes have exited, with what is left of a handler's trap state. -/
def Split.exiting (sp : Split) : Split :=
  let left := sp.lanes &&& ~~~sp.act
  let t := sp.trap
  let entries := t.entries.filterMap fun f =>
    if f.cmd.isSome then (if left = 0 then none else some f) else f.restrict left
  { sp with
    lanes := left
    act := 0
    after := .ended
    trap := if t.handler then
        { t with entries := entries, savedPend := t.savedPend.map fun p => p.restrict left, nent := entries.length }
      else t }

theorem Split.exiting_of_no_handler {sp : Split} (h : sp.trap.handler = false) :
    sp.exiting = { sp with lanes := sp.lanes &&& ~~~sp.act, act := 0, after := .ended } := by
  simp only [Split.exiting, h, Bool.false_eq_true, if_false]

/-- The state around a split whose active lanes exit: in a handler the stopped commands of the last of them are complete. -/
def Cx.exitState (c : Cx) : State :=
  if c.sp.trap.handler ∧ c.sp.lanes &&& ~~~c.sp.act = 0 then completeStopped c.s c.sp.trap.entries else c.s

theorem exit_completes {s : State} {c : Cx} (hr : Ready .exit s c) (hu : c.w.unack.getD 0 0 = 0) :
    Completes .exit s { c.settle .exit with
      s := c.exitState
      w := testJoins { c.w with exited := c.w.exited ||| c.sp.act } c.exitState.ticks
      sp := (c.settle .exit).sp.exiting } := by
  refine (issueSplit_of_ready hr _).trans ?_
  rw [Cx.releasing_of_acknowledged (c := c.settle .exit) hu]
  by_cases hh : c.sp.trap.handler = true
  · simp only [Split.exiting, Cx.exitState, Cx.settle_sp_trap, hh, if_true]
    rfl
  · simp only [Split.exiting, Cx.exitState, Cx.settle_sp_trap, hh, Bool.false_eq_true, false_and, if_false]
    rfl

theorem completeStopped_single {s : State} {f : FaultEntry} {k : Nat} {x : Cmd} (hk : f.cmd = some k)
    (hx : Tab.get? s.cmds k = some x) : completeStopped s [f] = finishCommand s k x 0 none := by
  simp only [completeStopped, List.foldl_cons, List.foldl_nil, hk, endEmpty, hx]

/-! ### `mode` (R90) -/

theorem mode_completes {s : State} {c : Cx} {d : BitVec 5} {k : BitVec 14} (hr : Ready (.mode d k) s c) :
    Completes (.mode d k) s { c.settle (.mode d k) with sp := { (c.settle (.mode d k)).sp with
      mode := (c.sp.mode &&& ~~~((modeSelected d).setWidth 32)) ||| (k.setWidth 32 &&& (modeSelected d).setWidth 32) } } :=
  issueSplit_of_ready hr _

/-- A value with the bits that a mask selects replaced. -/
theorem getLsbD_replaced (old new sel : Word) {b : Nat} (hb : b < 32) :
    ((old &&& ~~~sel) ||| (new &&& sel)).getLsbD b = if sel.getLsbD b then new.getLsbD b else old.getLsbD b := by
  simp only [BitVec.getLsbD_or, BitVec.getLsbD_and, BitVec.getLsbD_not, hb, decide_true, Bool.true_and]
  cases sel.getLsbD b <;> simp

/-- Settles O20: each of the four ends its word with the change that its rule names. -/
theorem splitState : Obligations.SplitState := by
  intro s c hs
  refine ⟨fun hr => Goes.of_after hs (issueSplit_of_ready hr _), fun hr => ?_, fun hr hu hh => ?_,
    fun f k x hr hu hh hleft hent hk hx => ?_, fun d k hr => ?_⟩
  · have he := exec_tret_of_ready hr
    refine ⟨fun hh hal => Goes.of_after hs ?_, fun hh hal => ?_, fun hh => ?_⟩
    · simpa [hh, hal] using he
    · simpa [hh, hal] using he
    · simpa [hh] using he
  · obtain rfl := (executing_focus hr.1).2.2
    have hstate : c.exitState = c.s := by simp [Cx.exitState, hh]
    have hx := exit_completes hr hu
    rw [hstate, Split.exiting_of_no_handler (sp := (c.settle .exit).sp) hh] at hx
    exact hx
  · obtain rfl := (executing_focus hr.1).2.2
    have hstate : c.exitState = finishCommand c.s k x 0 none := by
      rw [Cx.exitState, if_pos ⟨hh, hleft⟩, hent, completeStopped_single hk hx]
    refine ⟨_, exit_completes hr hu, hstate, hleft, rfl, ?_, testJoins_exited _ _⟩
    simp [Split.exiting, hh, hent, hk, hleft]
  · refine ⟨_, mode_completes hr, c.settle_keeps _, fun b hb => ?_⟩
    rw [getLsbD_replaced _ _ _ hb]
    simp [hb]

end Sys2Proof.Machine

namespace Sys2Proof.Machine

open Sys2Proof.Claims

/-! ### The trailer (R81, R85, R86) -/

theorem opcodeOf_endRun (a b d : BitVec 8) : opcodeOf (.endRun a b d) = 0xFF := by
  have h : (0xFF#8 ++ a ++ b ++ d : Word).extractLsb' 24 8 = 0xFF#8 := by
    simp (disch := omega) only [Laws.extract_high]
    rfl
  have hop : ((0xFF#8 ++ a ++ b ++ d : Word) >>> 24).toNat = ((0xFF#8 ++ a ++ b ++ d : Word).extractLsb' 24 8).toNat := by
    have := (0xFF#8 ++ a ++ b ++ d : Word).isLt
    rw [BitVec.toNat_ushiftRight, BitVec.extractLsb'_toNat, Nat.shiftRight_eq_div_pow]
    omega
  show ((0xFF#8 ++ a ++ b ++ d : Word) >>> 24).toNat = 0xFF
  rw [hop, h]
  rfl

/-- The trailer uses no register, so it settles no destination. -/
theorem Cx.settle_endRun (c : Cx) (a b d : BitVec 8) : c.settle (.endRun a b d) = c := by
  have hmask : readsMask (.endRun a b d) = false := by
    unfold readsMask
    dsimp only
    rw [opcodeOf_endRun]
    rfl
  have hu : c.uses (.endRun a b d) = [] := by
    rw [Cx.uses, hmask]
    rfl
  simp [Cx.settle, hu]

/-- The split as the trailer leaves it. -/
def Cx.atTrailer (c : Cx) (codes : List Nat) : Cx :=
  { c with sp := c.sp.applyTrailer codes (c.sp.after.target (c.here + 4)) }

/-- No drain of the matrix engine and no write of the activity mask that the trailer names keeps it from executing (15_matrix R267). -/
def trailerFree (c : Cx) (codes : List Nat) : Prop :=
  let named := c.sp.pend.filter fun p => (isMatrix p.opcode || p.dest.masks) && namesDest codes p.dest
  (isShadow c.s c.w = true → ∀ p ∈ named, p.done = true) ∧ ∀ p ∈ named, p.mismatch = false

theorem exec_endRun_of_ready {s : State} {c : Cx} {a b d : BitVec 8} (hr : Ready (.endRun a b d) s c)
    (hfree : trailerFree c [a.toNat, b.toNat, d.toNat]) :
    exec (.endRun a b d) s = (c.atTrailer [a.toNat, b.toNat, d.toNat]).leave := by
  obtain ⟨hdone, hmatch⟩ := hfree
  have he := issueSplit_of_ready hr fun c =>
    let codes := [a.toNat, b.toNat, d.toNat]
    let named := c.sp.pend.filter fun p => (isMatrix p.opcode || p.dest.masks) && namesDest codes p.dest
    if isShadow c.s c.w && named.any fun p => !p.done then c.stay .issuing
    else if named.any fun p => p.mismatch then c.trapAt 0x10
    else c.trailer codes
  rw [c.settle_endRun] at he
  refine he.trans ?_
  dsimp only
  rw [if_neg, if_neg]
  · rfl
  · rw [List.any_eq_true]
    rintro ⟨p, hp, hm⟩
    rw [hmatch p hp] at hm
    cases hm
  · rw [Bool.and_eq_true, List.any_eq_true]
    rintro ⟨hs, p, hp, hd⟩
    rw [hdone hs p hp] at hd
    cases hd

theorem trailerFree_of_no_pend {c : Cx} (h : c.sp.pend = []) (codes : List Nat) : trailerFree c codes := by
  simp [trailerFree, h]

/-! ### Leaving the trailer -/

theorem Cx.settleBacks_of_no_pend {c : Cx} (h : c.sp.pend = []) : c.settleBacks = c := by
  obtain ⟨s, wk, w, e, sp⟩ := c
  cases sp
  dsimp only at h
  subst h
  rfl

/-- A result that has not arrived is not written back. -/
theorem Cx.settleBacks_of_not_arrived {c : Cx} {p : Pend} (h : c.sp.pend = [p]) (hd : p.done = false) (ha : p.arrived = false) :
    c.settleBacks = c := by
  have hdue : p.due [] = false := by simp [Pend.due, ha]
  have hstays : p.stays = true := by simp [Pend.stays, hd]
  have hback : backDue [] c.sp.pend c = ([p], c) := by
    rw [h]
    simp [backDue, hdue, Pend.giveWay]
  have hkept : [p].filter (fun q => q.stays || q.reissues c.sp.faults) = c.sp.pend := by simp [hstays, h]
  rw [Cx.settleBacks, hback]
  simp only [hkept]

/-- Nothing holds the split at its trailer, and no fault of its run traps there. -/
structure Cx.MayLeave (c : Cx) : Prop where
  settled : c.settleBacks = c
  free : trailerHolds c.s c.wk c.e c.sp = false
  unfaulted : c.sp.faults = []

/-- The split ready to fetch where its trailer sent it. -/
def Cx.fetching (c : Cx) : Cx := { c with sp := c.sp.readyAtPc c.sp.pc c.s.ticks }

/-- The split parked on a join at its fall-through. -/
def Cx.parking (c : Cx) (j : Nat) : Cx := { c.fetching with sp := { c.fetching.sp with status := .parkedJoin j } }

namespace Cx.MayLeave

variable {c : Cx} (h : c.MayLeave)

include h

theorem leave_ready (ha : c.sp.after = .fall ∨ (∃ t, c.sp.after = .goto t) ∨ c.sp.after = .ended ∧ c.sp.lanes ≠ 0) :
    c.leave = .next (unfocus c.fetching.commit) := by
  rcases ha with ha | ⟨t, ha⟩ | ⟨ha, hl⟩
  · simp [Cx.leave, h.settled, h.free, h.unfaulted, ha, Cx.fetching]
  · simp [Cx.leave, h.settled, h.free, h.unfaulted, ha, Cx.fetching]
  · simp only [Cx.leave, h.settled, h.free, h.unfaulted, ha, if_neg hl]
    rfl

theorem leave_yielded (ha : c.sp.after = .yielded) :
    c.leave = .next (unfocus (Cx.commit { c.fetching with sp := { c.fetching.sp with yielded := true } })) := by
  simp [Cx.leave, h.settled, h.free, h.unfaulted, ha, Cx.fetching]

theorem leave_park {j : Nat} (ha : c.sp.after = .park j) :
    c.leave = checkDeadlock (State.updWarp (unfocus (c.parking j).commit) c.wk fun w => testJoins w c.s.ticks) c.wk := by
  simp [Cx.leave, h.settled, h.free, h.unfaulted, ha, Cx.parking, Cx.fetching]

theorem leave_returned (ha : c.sp.after = .returned) : c.leave = c.returnFromTrap := by
  simp [Cx.leave, h.settled, h.free, h.unfaulted, ha]

theorem leave_replied {vals : List Word} {f : FarTask} (ha : c.sp.after = .replied vals) (hf : c.w.far = some f) :
    c.leave = .next (endFarTask c.commit c.wk f 0 0 vals) := by
  simp [Cx.leave, h.settled, h.free, h.unfaulted, ha, hf]

theorem leave_ended (ha : c.sp.after = .ended) (hl : c.sp.lanes = 0) :
    c.leave = checkDeadlock (exitBarriers (State.updWarp (unfocus c.commitFree) c.wk
      fun w => testJoins (w.refill c.s.ticks) c.s.ticks) c.w) c.wk := by
  simp [Cx.leave, h.settled, h.free, h.unfaulted, ha, hl]

end Cx.MayLeave

/-- With nothing outstanding, no access to translate and no fault, nothing holds the split. -/
theorem Cx.mayLeave_of_no_pend {c : Cx} (codes : List Nat) (hp : c.sp.pend = []) (hf : c.sp.faults = [])
    (hu : untranslated c.s c.wk c.e c.sp = false) : (c.atTrailer codes).MayLeave := by
  have hpend : (c.atTrailer codes).sp.pend = [] := by simp [Cx.atTrailer, Split.applyTrailer, hp]
  have hfault : (c.atTrailer codes).sp.faults = [] := hf
  have htrans : untranslated c.s c.wk c.e (c.atTrailer codes).sp = false := hu
  refine ⟨Cx.settleBacks_of_no_pend hpend, ?_, hfault⟩
  show trailerHolds c.s c.wk c.e (c.atTrailer codes).sp = false
  simp [trailerHolds, canLeave, hpend, htrans]

@[simp] theorem Cx.atTrailer_after (c : Cx) (codes : List Nat) : (c.atTrailer codes).sp.after = c.sp.after := rfl

@[simp] theorem Cx.atTrailer_lanes (c : Cx) (codes : List Nat) : (c.atTrailer codes).sp.lanes = c.sp.lanes := rfl

theorem leftTrailer_fetching {c : Cx} {codes : List Nat} (hp : c.sp.pend = []) :
    leftTrailer c.s c codes (c.atTrailer codes).fetching.sp := by
  refine ⟨rfl, rfl, rfl, rfl, rfl, rfl, rfl, rfl, ?_⟩
  simp [Cx.fetching, Cx.atTrailer, Split.applyTrailer, hp]

theorem After.target_of_ne_goto {a : After} {fall : Pc} (h : ∀ t, a ≠ .goto t) : a.target fall = fall := by
  cases a with
  | goto t => exact absurd rfl (h t)
  | _ => rfl

theorem trailerAlone : Claims.TrailerAlone := by
  intro s c a b d after hr hp hf hu rfl ha
  obtain rfl := (executing_focus hr.1).2.2
  have hm := Cx.mayLeave_of_no_pend [a.toNat, b.toNat, d.toNat] hp hf hu
  have hleft := leftTrailer_fetching (codes := [a.toNat, b.toNat, d.toNat]) hp
  rw [exec_endRun_of_ready hr (trailerFree_of_no_pend hp _)]
  have hgoto (t : Pc) (h : c.sp.after = .goto t) : c.sp.after.target (c.here + 4) = t := by rw [h]; rfl
  by_cases hy : c.sp.after = .yielded
  · exact ⟨_, _, hm.leave_yielded hy, rfl, cxOf_unfocus_commit _, rfl, rfl, hgoto, After.target_of_ne_goto, fun _ => rfl,
      fun hn => absurd hy hn, hleft⟩
  · have hready : c.sp.after = .fall ∨ (∃ t, c.sp.after = .goto t) ∨ c.sp.after = .ended ∧ c.sp.lanes ≠ 0 := by
      rcases ha with ha | ha | ha | ha
      · exact .inl ha
      · exact .inr (.inl ha)
      · exact absurd ha hy
      · exact .inr (.inr ha)
    exact ⟨_, _, hm.leave_ready hready, rfl, cxOf_unfocus_commit _, rfl, rfl, hgoto, After.target_of_ne_goto,
      fun h => absurd h hy, fun _ => rfl, hleft⟩

/-! ### A trailer with a result outstanding (R85, R86) -/

/-- The destination holds a register that a write to it changes (01_machine R25). -/
theorem Dest.names_iff (x : Dest) : x.names = true ↔ (x.vector = true ∨ 1 < x.base + x.count) ∧ 0 < x.count := by
  cases hv : x.vector with
  | true => simp [Dest.names, Dest.low, hv]
  | false =>
    simp only [Dest.names, Dest.low, hv, Bool.false_eq_true, if_false, false_or, decide_eq_true_eq]
    omega

section

variable {c : Cx} {p : Pend} {codes : List Nat} (hp : c.sp.pend = [p]) (hd : p.done = false) (ha : p.arrived = false)

include hp hd

theorem atTrailer_pend : (c.atTrailer codes).sp.pend = [{ p with window := 0 }] := by
  simp [Cx.atTrailer, Split.applyTrailer, hp, Pend.remains, hd]

theorem atTrailer_awaited : (c.atTrailer codes).sp.awaited = codes.filter fun k => codeNames p.dest k := by
  simp [Cx.atTrailer, Split.applyTrailer, hp, Pend.remains, hd]

/-- The split waits exactly where a code names the result. -/
theorem canLeave_atTrailer (hu : untranslated c.s c.wk c.e c.sp = false) :
    canLeave c.s c.wk c.e (c.atTrailer codes).sp = !namesDest codes p.dest := by
  have htrans : untranslated c.s c.wk c.e (c.atTrailer codes).sp = false := hu
  rw [canLeave, htrans, atTrailer_pend hp hd, atTrailer_awaited hp hd, namesDest, Bool.eq_iff_iff]
  simp [hd, List.all_filter]

include ha

theorem atTrailer_settleBacks : (c.atTrailer codes).settleBacks = c.atTrailer codes :=
  Cx.settleBacks_of_not_arrived (atTrailer_pend hp hd) hd ha

end

theorem mem_unawaited_atTrailer {c : Cx} {p : Pend} {codes : List Nat} (hp : c.sp.pend = [p])
    (hn : namesDest codes p.dest = false) :
    p.dest ∈ (c.atTrailer codes).sp.unawaited ↔ p.dest ∈ c.sp.unawaited ∨
      (p.inRun = true ∧ p.settled = false ∧ (p.dest.vector = true ∨ 1 < p.dest.base + p.dest.count) ∧ 0 < p.dest.count) := by
  rw [← Dest.names_iff]
  simp only [Cx.atTrailer, Split.applyTrailer, hp, List.mem_filter, List.mem_append, List.mem_map]
  by_cases hmem : p.dest ∈ c.sp.unawaited
  · simp [hmem, hn]
  · simp [hmem, hn, and_assoc]

theorem trailerWaits : Claims.TrailerWaits := by
  intro s c a b d p hr hp hd harr hmat hmis hf hu ha hsh codes
  obtain rfl := (executing_focus hr.1).2.2
  have hfree : trailerFree c codes := by
    refine ⟨fun hs q hq => ?_, fun q hq => ?_⟩
    · have hmask : p.dest.masks = false := hsh.resolve_left (by rw [hs]; decide)
      simp [hp, hmat, hmask] at hq
    · obtain rfl : q = p := by simpa [hp] using (List.mem_filter.mp hq).1
      exact hmis
  rw [exec_endRun_of_ready hr hfree]
  have hset := atTrailer_settleBacks (codes := codes) hp hd harr
  have hcan := canLeave_atTrailer (codes := codes) hp hd hu
  cases hn : namesDest codes p.dest with
  | true =>
    have hhold : trailerHolds c.s c.wk c.e (c.atTrailer codes).sp = true := by simp [trailerHolds, hcan, hn]
    have hleave : (c.atTrailer codes).leave =
        .next (unfocus (Cx.commit { c.atTrailer codes with sp := { (c.atTrailer codes).sp with status := .waiting } })) := by
      rw [Cx.leave, hset]
      exact if_pos hhold
    refine ⟨_, _, hleave, rfl, cxOf_unfocus_commit _, fun _ => ⟨rfl, { p with window := 0 }, ?_, rfl, hd⟩, fun h => by cases h⟩
    exact (atTrailer_pend hp hd) ▸ List.mem_singleton_self _
  | false =>
    have hhold : trailerHolds c.s c.wk c.e (c.atTrailer codes).sp = false := by
      have hfault : (c.atTrailer codes).sp.faults = [] := hf
      simp [trailerHolds, hcan, hn, hfault, ha]
    have hm : (c.atTrailer codes).MayLeave := ⟨hset, hhold, hf⟩
    refine ⟨_, _, hm.leave_ready (.inl ha), rfl, cxOf_unfocus_commit _, (fun h => by cases h), fun _ => ⟨rfl, ?_, ?_⟩⟩
    · exact After.target_of_ne_goto (a := c.sp.after) (by simp [ha])
    · exact mem_unawaited_atTrailer hp hn

end Sys2Proof.Machine

namespace Sys2Proof.Machine

open Sys2Proof.Claims

/-! ### The return from a handler at the trailer (R300) -/

/-- s56 on, restored from a trap state. -/
def Split.restoredScalars (sp : Split) (t : Trap) (n : Nat) : Split :=
  (List.range n).foldl (fun sp k => sp.setScalar (56 + k) (t.saved.getD k 0) (t.savedPoison.getLsbD k)) sp

theorem Split.restoredScalars_succ (sp : Split) (t : Trap) (n : Nat) : sp.restoredScalars t (n + 1) =
    (sp.restoredScalars t n).setScalar (56 + n) (t.saved.getD n 0) (t.savedPoison.getLsbD n) := by
  simp only [Split.restoredScalars, List.range_succ, List.foldl_append, List.foldl_cons, List.foldl_nil]

theorem Split.restoredScalars_fields (sp : Split) (t : Trap) {n : Nat} (hn : n ≤ 4) :
    (sp.restoredScalars t n).lanes = sp.lanes ∧ (sp.restoredScalars t n).act = sp.act ∧
    (sp.restoredScalars t n).fpst = sp.fpst ∧ (sp.restoredScalars t n).scalars.length = sp.scalars.length := by
  induction n with
  | zero => exact ⟨rfl, rfl, rfl, rfl⟩
  | succ n ih =>
    obtain ⟨h1, h2, h3, h4⟩ := ih (by omega)
    obtain ⟨-, g3, -, g1, -, g4⟩ := (sp.restoredScalars t n).setScalar_fields (56 + n) (t.saved.getD n 0) (t.savedPoison.getLsbD n)
    rw [Split.restoredScalars_succ]
    refine ⟨g1.trans h1, ?_, g3.trans h3, g4.trans h4⟩
    rw [Split.setScalar_act, if_neg (by omega), h2]

theorem Split.restoredScalars_scalar (sp : Split) (t : Trap) {n : Nat} (hn : n ≤ 4) (hl : sp.scalars.length = 64) (m : Nat) :
    (sp.restoredScalars t n).scalar m = if 56 ≤ m ∧ m < 56 + n then t.saved.getD (m - 56) 0 else sp.scalar m := by
  induction n with
  | zero => rw [if_neg (by omega)]; rfl
  | succ n ih =>
    rw [Split.restoredScalars_succ]
    by_cases hm : m = 56 + n
    · subst hm
      have hlen : 56 + n < (sp.restoredScalars t n).scalars.length := by
        rw [(sp.restoredScalars_fields t (by omega)).2.2.2, hl]
        omega
      rw [Split.setScalar_scalar_self _ _ _ _ hlen, Split.landed, if_neg (by omega), if_neg (by omega), if_pos (by omega),
        Nat.add_sub_cancel_left]
    · rw [Split.setScalar_scalar_ne _ _ _ _ _ hm, ih (by omega)]
      by_cases hin : 56 ≤ m ∧ m < 56 + n
      · rw [if_pos hin, if_pos (by omega)]
      · rw [if_neg hin, if_neg (by omega)]

/-- The split restored, with the resume address as the trap set it. -/
theorem Cx.restored_unmoved {c : Cx} (h : c.sp.trap.trpc = c.sp.trap.trpcSet) :
    ∃ sp, c.restored = { c with sp := sp } ∧ (∀ n, sp.scalar n = (c.sp.restoredScalars c.sp.trap 4).scalar n) ∧
      sp.lanes = (c.sp.restoredScalars c.sp.trap 4).lanes ∧ sp.act = (c.sp.restoredScalars c.sp.trap 4).act ∧
      sp.fpst = (c.sp.restoredScalars c.sp.trap 4).fpst ∧ sp.mode = c.sp.trap.savedMode ∧ sp.pend = c.sp.trap.savedPend ∧
      sp.run = c.sp.trap.savedRun ∧ sp.pc = c.sp.trap.savedRun.start ∧ sp.status = .ready ∧ sp.trap.handler = false := by
  have hmoved : (c.sp.trap.trpc != c.sp.trap.trpcSet) = false := by simp [h]
  refine ⟨_, rfl, fun _ => rfl, rfl, rfl, rfl, rfl, ?_, ?_, ?_, rfl, rfl⟩ <;> simp [hmoved]

theorem hasReturned_of_plain {c : Cx} (h : returnsPlainly c) : ∃ t, c.returnFromTrap = .next t ∧ hasReturned c.s c t := by
  obtain ⟨-, hent, htrpc, hpend, hpark, hlanes, -, hs⟩ := h
  obtain ⟨sp, hr, hsc, hl, ha, hf, hmode, hp, hrun, hpc, hst, hh⟩ := Cx.restored_unmoved htrpc
  obtain ⟨gl, ga, gf, -⟩ := c.sp.restoredScalars_fields c.sp.trap (le_refl 4)
  have hscalar (m : Nat) := (hsc m).trans (c.sp.restoredScalars_scalar c.sp.trap (le_refl 4) (Cx.shaped_scalars hs) m)
  have hback : c.restored.settleBacks = c.restored := by
    refine Cx.settleBacks_of_no_pend ?_
    rw [hr]
    exact hp.trans hpend
  have hhole : c.reissueHole = false := by simp [Cx.reissueHole, hent]
  have hne : c.restored.sp.lanes ≠ 0 := by
    rw [hr]
    exact fun h0 => hlanes (gl.symm.trans (hl.symm.trans h0))
  have hret : c.returnFromTrap = .next (unfocus c.restored.commit) := by
    unfold Cx.returnFromTrap
    simp only [hent, List.foldl_nil, hback, hhole, hne, hpark, Bool.false_eq_true, if_false]
  rw [hr] at hret
  refine ⟨_, hret, rfl, rfl, _, cxOf_unfocus_commit { c with sp := sp }, hh, hmode, hrun, hpc, hst, hp.trans hpend,
    fun k hk => ?_, fun n _ hn => ?_, hl.trans gl, ha.trans ga, hf.trans gf⟩
  · have := hscalar (56 + k)
    rwa [if_pos (by omega), Nat.add_sub_cancel_left] at this
  · have := hscalar n
    rwa [if_neg (by omega)] at this

/-! ### The end of a far task at the trailer (R168, 13_consistency R228) -/

/-- The reply of a far task. -/
def FarTask.reply (f : FarTask) (status cause : Nat) (values : List Word) : ReplyMsg :=
  { caller := f.caller, seq := f.seq, core := f.core, status := status, cause := cause, values := values }

/-- A far task that ends replies once its writes are acknowledged at dev scope, and until then keeps its warp with no split. -/
theorem endFarTask_cases {s : State} {wk status cause : Nat} {f : FarTask} {values : List Word} {w : Warp}
    (hw : Tab.get? s.warps wk = some w) :
    let t := endFarTask s wk f status cause values
    let m := f.reply status cause values
    (w.unack.getD 2 0 = 0 → Tab.get? t.warps wk = none ∧ Tab.get? t.replyMsgs s.fresh = some m) ∧
    (w.unack.getD 2 0 ≠ 0 → t.replyMsgs = s.replyMsgs ∧ ∃ v, Tab.get? t.warps wk = some v ∧ v.splits = [] ∧ v.spill = [] ∧
      v.far = some { f with ending := some m } ∧ v.unack = w.unack) := by
  intro t m
  have ht : t = if w.released then sendReply { s with warps := Tab.del s.warps wk, focus := .none } m
      else { s with
        focus := .none
        warps := Tab.put s.warps wk { w with splits := [], spill := [], far := some { f with ending := some m } } } := by
    simp only [t, endFarTask, hw]
    rfl
  have hrel : w.released = true ↔ w.unack.getD 2 0 = 0 := by rw [Warp.released, beq_iff_eq]
  refine ⟨fun h => ?_, fun h => ?_⟩
  · rw [if_pos (hrel.mpr h)] at ht
    rw [ht]
    exact ⟨(Tab.get?_del _ _ _).trans (if_pos rfl), Tab.get?_put_self _ _ _⟩
  · rw [if_neg (mt hrel.mp h)] at ht
    rw [ht]
    exact ⟨rfl, _, Tab.get?_put_self _ _ _, rfl, rfl, rfl, rfl⟩

/-! ### An entry freed at the trailer (R175) -/

/-- A state of which no more has changed than that splits stalled at a barrier have become ready (09_control R161). -/
structure BarriersTested (s t : State) : Prop where
  around : { t with warps := s.warps } = s
  warps : ∀ k w, Tab.get? s.warps k = some w → ∃ f : Split → Split,
    Tab.get? t.warps k = some { w with splits := Tab.mapVal w.splits f }

theorem BarriersTested.refl (s : State) : BarriersTested s s :=
  ⟨rfl, fun _ w hw => ⟨id, hw.trans (by simp [Tab.mapVal])⟩⟩

theorem BarriersTested.trans {s t u : State} (h : BarriersTested s t) (g : BarriersTested t u) : BarriersTested s u := by
  refine ⟨?_, fun k w hw => ?_⟩
  · rw [← h.around, ← g.around]
  · obtain ⟨f, hf⟩ := h.warps k w hw
    obtain ⟨f', hf'⟩ := g.warps k _ hf
    exact ⟨f' ∘ f, hf'.trans (by simp [Tab.mapVal])⟩

theorem completeBarrier_tests (s : State) (grid : Bool) (ws : List Nat) : BarriersTested s (completeBarrier s grid ws) := by
  refine ⟨rfl, fun k w hw => ?_⟩
  unfold completeBarrier
  dsimp only
  rw [Tab.get?_map_of_key (by intro p; split <;> rfl), hw]
  dsimp only [Option.map_some]
  split
  · exact ⟨_, rfl⟩
  · exact ⟨id, by simp [Tab.mapVal]⟩

theorem testBarriers_tests (s : State) (k : Nat) : BarriersTested s (testBarriers s k) := by
  unfold testBarriers
  extract_lets ws s1
  have h1 : BarriersTested s s1 := by
    unfold s1
    split
    · exact completeBarrier_tests s false ws
    · exact BarriersTested.refl s
  clear_value s1
  split
  · exact h1
  · dsimp only
    split
    · exact h1.trans (completeBarrier_tests s1 true _)
    · exact h1

theorem exitBarriers_tests (s : State) (w : Warp) : BarriersTested s (exitBarriers s w) := by
  unfold exitBarriers
  split
  · exact BarriersTested.refl s
  · split
    · exact testBarriers_tests s _
    · exact BarriersTested.refl s

theorem Tab.key_ne_of_get?_eq_none {α : Type} {t : Tab α} {k : Nat} (h : Tab.get? t k = none) {p : Nat × α} (hp : p ∈ t) :
    p.1 ≠ k := by
  induction t with
  | nil => cases hp
  | cons q t ih =>
    simp only [Tab.get?] at h
    split at h
    · cases h
    · next hq =>
      rcases List.mem_cons.mp hp with rfl | hp
      · exact hq
      · exact ih h hp

/-- Testing a join fills no free entry where nothing is spilled. -/
theorem resolveJoin_free {clock e : Nat} {w : Warp} {j : Nat} (h : w.spill = [] ∧ Tab.get? w.splits e = none) :
    (resolveJoin clock w j).spill = [] ∧ Tab.get? (resolveJoin clock w j).splits e = none := by
  obtain ⟨hs, he⟩ := h
  cases hsat : (w.join j).satisfied w.exited with
  | false =>
    rw [resolveJoin_of_not_satisfied hsat]
    exact ⟨hs, he⟩
  | true =>
    obtain ⟨-, -, h3, h4⟩ := w.resolved_fields clock j
    have hspill : (w.resolved clock j).spill = [] := h3.trans hs
    rw [resolveJoin_of_satisfied hsat, Warp.refill_of_no_spill hspill, h4]
    refine ⟨hspill, (w.regangEach_get?_of_not_mem _ fun pc _ hmem => ?_).trans he⟩
    obtain ⟨p, hp, -, -, hk⟩ := mem_parkedAt.mp hmem
    exact Tab.key_ne_of_get?_eq_none he hp hk

theorem testJoins_free {clock e : Nat} {w : Warp} (hs : w.spill = []) (he : Tab.get? w.splits e = none) :
    Tab.get? (testJoins w clock).splits e = none :=
  (foldl_keeps (P := fun v : Warp => v.spill = [] ∧ Tab.get? v.splits e = none) (fun _ _ h => resolveJoin_free h) _ ⟨hs, he⟩).2

theorem get?_updWarp_commit (c : Cx) (f : Warp → Warp) : Tab.get? (State.updWarp (unfocus c.commit) c.wk f).warps c.wk =
    some (f { c.w with splits := Tab.put c.w.splits c.e c.sp }) := by
  rw [State.updWarp_warps, Tab.get?_upd, if_pos rfl]
  exact congrArg (Option.map f) (Tab.get?_put_self _ _ _)

theorem get?_updWarp_commitFree (c : Cx) (f : Warp → Warp) :
    Tab.get? (State.updWarp (unfocus c.commitFree) c.wk f).warps c.wk = some (f { c.w with splits := Tab.del c.w.splits c.e }) := by
  rw [State.updWarp_warps, Tab.get?_upd, if_pos rfl]
  exact congrArg (Option.map f) (Tab.get?_put_self _ _ _)

/-- An entry is freed, and with nothing spilled it stays free as the joins and the barriers are tested. -/
theorem freesEntry_exitBarriers (c : Cx) (hs : c.w.spill = []) (clock : Nat) :
    let u := exitBarriers (State.updWarp (unfocus c.commitFree) c.wk fun w => testJoins (w.refill clock) clock) c.w
    ∃ w, u.focus = .none ∧ { u with warps := c.s.warps, focus := c.s.focus } = c.s ∧ Tab.get? u.warps c.wk = some w ∧
      Tab.get? w.splits c.e = none ∧ w.exited = c.w.exited := by
  intro u
  have hbar : BarriersTested _ u := exitBarriers_tests _ c.w
  have hwarp := get?_updWarp_commitFree c fun w => testJoins (w.refill clock) clock
  rw [Warp.refill_of_no_spill (w := { c.w with splits := Tab.del c.w.splits c.e }) hs] at hwarp
  have hfree := testJoins_free (clock := clock) (w := { c.w with splits := Tab.del c.w.splits c.e }) hs
    ((Tab.get?_del _ _ _).trans (if_pos rfl))
  obtain ⟨f, hw⟩ := hbar.warps _ _ hwarp
  refine ⟨_, congrArg State.focus hbar.around,
    congrArg (fun u : State => { u with warps := c.s.warps, focus := c.s.focus }) hbar.around, hw, ?_, testJoins_exited _ _⟩
  rw [Tab.get?_mapVal, hfree]
  rfl

theorem Cx.atTrailer_shaped {c : Cx} {codes : List Nat} (h : c.shaped = true) : (c.atTrailer codes).shaped = true := by
  simp only [Cx.shaped, Bool.and_eq_true] at h ⊢
  exact ⟨h.1, rfl⟩

theorem trailerEnds : Claims.TrailerEnds := by
  intro s c a b d hr hp hf hu i around
  obtain rfl := (executing_focus hr.1).2.2
  have hm := Cx.mayLeave_of_no_pend [a.toNat, b.toNat, d.toNat] hp hf hu
  have he : exec i c.s = _ := exec_endRun_of_ready hr (trailerFree_of_no_pend hp _)
  have hpend : (c.atTrailer [a.toNat, b.toNat, d.toNat]).sp.pend = [] := by simp [Cx.atTrailer, Split.applyTrailer, hp]
  refine ⟨fun j ha => ?_, fun ha hplain => ?_, fun ha => ?_, fun vals f ha hfar => ?_, fun ha hl hspill => ?_⟩
  · exact ⟨_, _, ((c.atTrailer [a.toNat, b.toNat, d.toNat]).parking j).sp, he.trans (hm.leave_park ha), ⟨rfl, rfl⟩,
      get?_updWarp_commit ((c.atTrailer [a.toNat, b.toNat, d.toNat]).parking j) _, rfl,
      fun k hk => Tab.get?_put_ne _ _ _ _ hk, Tab.get?_put_self _ _ _, rfl,
      After.target_of_ne_goto (a := c.sp.after) (by simp [ha]), leftTrailer_fetching hp⟩
  · have hplain' : returnsPlainly (c.atTrailer [a.toNat, b.toNat, d.toNat]) := by
      obtain ⟨h1, h2, h3, h4, h5, h6, h7, h8⟩ := hplain
      exact ⟨h1, h2, h3, h4, h5, h6, h7, Cx.atTrailer_shaped h8⟩
    obtain ⟨t, hret, hhas⟩ := hasReturned_of_plain hplain'
    exact ⟨t, (he.trans (hm.leave_returned ha)).trans hret, hhas⟩
  · exact ⟨_, he.trans (hm.leave_returned ha), rfl, rfl, rfl, rfl, rfl, rfl, rfl, rfl, hpend, hf⟩
  · exact ⟨_, f.reply 0 0 vals, he.trans (hm.leave_replied ha hfar), rfl, rfl, rfl, rfl, rfl, rfl,
      endFarTask_cases (w := { c.w with splits := Tab.put c.w.splits c.e (c.atTrailer [a.toNat, b.toNat, d.toNat]).sp })
        (Tab.get?_put_self _ _ _)⟩
  · obtain ⟨w, hfocus, haround, hw, hfree, hexit⟩ := freesEntry_exitBarriers (c.atTrailer [a.toNat, b.toNat, d.toNat]) hspill c.s.ticks
    exact ⟨_, w, he.trans (hm.leave_ended ha hl), ⟨hfocus, haround⟩, hw, hfree, hexit⟩

/-- Settles O21: the trailer leaves, waits or ends as its run said, the cases of `Cx.leave`. -/
theorem trailer : Obligations.Trailer := ⟨trailerAlone, trailerWaits, trailerEnds⟩

end Sys2Proof.Machine

namespace Sys2Proof.Machine

open Sys2Proof.Claims

/-! ### Control registers as numbers (R177, 19_translation R297) -/

theorem pcLo_eq (p : Pc) : pcLo p = BitVec.ofNat 32 p.toNat := by
  rw [pcLo, ← BitVec.ofNat_toNat]

theorem pcHi_eq (p : Pc) : pcHi p = highPart p.toNat := by
  have := p.isLt
  apply BitVec.eq_of_toNat_eq
  simp only [pcHi, highPart, BitVec.toNat_setWidth, BitVec.toNat_ushiftRight, Nat.shiftRight_eq_div_pow, BitVec.toNat_ofNat]
  omega

theorem loWord_eq (x : DWord) : loWord x = BitVec.ofNat 32 x.toNat := by
  rw [loWord, ← BitVec.ofNat_toNat]

theorem hiWord_and_eq (x : DWord) : hiWord x &&& 0x1FFFFFF = highPart x.toNat := by
  have := x.isLt
  apply BitVec.eq_of_toNat_eq
  have h : (0x1FFFFFF : Word).toNat = 2 ^ 25 - 1 := rfl
  simp only [hiWord, highPart, BitVec.toNat_and, BitVec.toNat_setWidth, BitVec.toNat_ushiftRight, Nat.shiftRight_eq_div_pow,
    BitVec.toNat_ofNat, h, Nat.and_two_pow_sub_one_eq_mod]
  omega

theorem maskWord_eq (m : Mask) (k : Nat) : maskWord m k = BitVec.ofNat 32 (m.toNat / 2 ^ (32 * k)) := by
  apply BitVec.eq_of_toNat_eq
  simp only [maskWord, BitVec.extractLsb'_toNat, Nat.shiftRight_eq_div_pow, BitVec.toNat_ofNat]

theorem wordsBetween_eq (a b : Pc) : wordsBetween a b = (b - a).toNat / 4 := by
  rw [wordsBetween, BitVec.toNat_ushiftRight, Nat.shiftRight_eq_div_pow]

theorem tcauseWord_eq (t : Trap) : tcauseWord t =
    BitVec.ofNat 32 (2 ^ 24 * t.cause + 2 ^ 18 * t.code + (if t.fetch then 2 ^ 17 else 0) + (if t.handler then 2 ^ 16 else 0) +
      2 ^ 8 * (t.nent % 32) + t.exec % 32) := by
  simp only [tcauseWord, Nat.mul_comm]

theorem teinfoWord_eq (t : Trap) (f : FaultEntry) : teinfoWord t f = entryWord t f 0x046 := by
  simp only [teinfoWord, entryWord, wordsBetween_eq, Nat.mul_comm, if_true]

theorem estWord_eq (g : Workgroup) : g.estWord = if g.engineRuns then g.est ||| 1 else g.est := by
  unfold Workgroup.estWord Workgroup.engineRuns
  cases g.engine with
  | none => simp
  | some e => cases h : e.running <;> simp [h]

theorem Split.entry_eq (sp : Split) : sp.entry = sp.trap.entries[sp.tsel.toNat % 32]? := by
  rw [Split.entry, List.head?_drop]

/-! ### What `srd` reads (R177) -/

/-- What CTL_TSEL selects of the entries, at each number of an entry's registers. -/
theorem trapReg_entry {sp : Split} {n : Nat} (h : 0x046 ≤ n ∧ n ≤ 0x04E) : sp.trapReg n =
    some ((sp.trap.entries[sp.tsel.toNat % 32]?).elim 0 fun f => entryWord sp.trap f n) := by
  obtain ⟨hlo, hhi⟩ := h
  rw [← Split.entry_eq]
  cases he : sp.entry with
  | none => interval_cases n <;> simp only [Split.trapReg, he, Option.elim_none]
  | some f =>
    interval_cases n <;> simp only [Split.trapReg, he, Option.elim_some]
    exacts [congrArg some (teinfoWord_eq _ f), congrArg some (loWord_eq f.addr), congrArg some (hiWord_and_eq f.addr),
      congrArg some (maskWord_eq f.active 0), congrArg some (maskWord_eq f.active 1), congrArg some (maskWord_eq f.active 2),
      congrArg some (maskWord_eq f.done 0), congrArg some (maskWord_eq f.done 1), congrArg some (maskWord_eq f.done 2)]

theorem trapReg_eq (c : Cx) (g : Workgroup) (l : Launch) {n : Nat} (h : 0x040 ≤ n ∧ n ≤ 0x04E) :
    c.sp.trapReg n = some (controlOf c g l n) := by
  by_cases hn : 0x046 ≤ n
  · rw [trapReg_entry ⟨hn, h.2⟩]
    simp (disch := omega) only [controlOf, if_neg]
    cases c.sp.trap.entries[c.sp.tsel.toNat % 32]? <;> rfl
  · obtain ⟨hlo, -⟩ := h
    interval_cases n
    exacts [congrArg some (tcauseWord_eq _), congrArg some (pcLo_eq _), congrArg some (pcHi_eq _), congrArg some (pcLo_eq _),
      congrArg some (pcHi_eq _), rfl]

theorem trapReg_eq_none (sp : Split) {n : Nat} (h : ¬(0x040 ≤ n ∧ n ≤ 0x04E)) : sp.trapReg n = none := by
  unfold Split.trapReg
  dsimp only
  split
  case h_16 => rfl
  all_goals exact absurd ⟨by decide, by decide⟩ h

/-- The registers of a workgroup. -/
theorem workgroupReg_eq (c : Cx) (g : Workgroup) (l : Launch) {n : Nat}
    (h : (0x020 ≤ n ∧ n ≤ 0x022) ∨ (0x030 ≤ n ∧ n ≤ 0x03F) ∨ n = 0x050 ∨ n = 0x051) : g.reg n = some (controlOf c g l n) := by
  rcases h with ⟨hlo, hhi⟩ | hn | rfl | rfl
  · interval_cases n
    exacts [rfl, rfl, congrArg some (estWord_eq g)]
  · simp (disch := omega) only [Workgroup.reg, controlOf, if_neg, if_pos]
    rw [← List.head?_drop]
    cases g.selvedge.drop (n - 0x030) <;> rfl
  · exact congrArg some (pcLo_eq g.tvec)
  · exact congrArg some (pcHi_eq g.tvec)

theorem workgroupReg_eq_none (g : Workgroup) {n : Nat}
    (h : ¬((0x020 ≤ n ∧ n ≤ 0x022) ∨ (0x030 ≤ n ∧ n ≤ 0x03F) ∨ n = 0x050 ∨ n = 0x051)) : g.reg n = none := by
  simp (disch := omega) only [Workgroup.reg, if_neg]

/-- The registers of a launch. -/
theorem launchReg_eq (c : Cx) (g : Workgroup) (l : Launch) {n : Nat} (h : 0x010 ≤ n ∧ n ≤ 0x016) :
    l.reg n = some (controlOf c g l n) := by
  obtain ⟨hlo, hhi⟩ := h
  interval_cases n
  exacts [rfl, congrArg some (loWord_eq _), congrArg some (hiWord_and_eq _), congrArg some (loWord_eq _),
    congrArg some (hiWord_and_eq _), rfl, rfl]

theorem launchReg_eq_none (l : Launch) {n : Nat} (h : ¬(0x010 ≤ n ∧ n ≤ 0x016)) : l.reg n = none := by
  unfold Launch.reg
  split
  case h_8 => rfl
  all_goals exact absurd ⟨by decide, by decide⟩ h

theorem listed_iff (n : Nat) : listed n = true ↔ n ≤ 0x003 ∨ (0x010 ≤ n ∧ n ≤ 0x016) ∨
    ((0x020 ≤ n ∧ n ≤ 0x022) ∨ (0x030 ≤ n ∧ n ≤ 0x03F) ∨ n = 0x050 ∨ n = 0x051) ∨ (0x040 ≤ n ∧ n ≤ 0x04E) := by
  simp only [listed, Bool.or_eq_true, Bool.and_eq_true, decide_eq_true_eq, beq_iff_eq]
  omega

section

variable {c : Cx} {g : Workgroup} {l : Launch} {n : Nat} (hf : c.w.far = none) (hg : wgOf c.s c.w = some g)
  (hl : lnOf c.s c.w = some l)

include hf hg hl

/-- The four kinds of control register, in the order in which a number is looked up. -/
theorem readCtl_of_above (hn : 0x003 < n) : c.readCtl n = ((c.sp.trapReg n).or (g.reg n)).or (l.reg n) := by
  simp (disch := omega) only [Cx.readCtl, if_neg, hf, Option.isSome_none, Bool.false_eq_true, hg, hl, Option.bind_some]
  cases c.sp.trapReg n <;> cases g.reg n <;> rfl

theorem readCtl_of_listed (h : listed n = true) : c.readCtl n = some (controlOf c g l n) := by
  rcases (listed_iff n).mp h with h0 | hlaunch | hgroup | htrap
  · interval_cases n <;> simp [Cx.readCtl, controlOf, hf]
  · rw [readCtl_of_above hf hg hl (by omega), trapReg_eq_none _ (by omega), workgroupReg_eq_none _ (by omega),
      launchReg_eq c g l hlaunch]
    rfl
  · rw [readCtl_of_above hf hg hl (by omega), trapReg_eq_none _ (by omega), workgroupReg_eq c g l hgroup]
    rfl
  · rw [readCtl_of_above hf hg hl (by omega), trapReg_eq c g l htrap]
    rfl

theorem readCtl_of_not_listed (h : listed n = false) : c.readCtl n = none := by
  have hn := mt (listed_iff n).mpr (by rw [h]; decide)
  rw [readCtl_of_above hf hg hl (by omega), trapReg_eq_none _ (by omega), workgroupReg_eq_none _ (by omega),
    launchReg_eq_none _ (by omega)]
  rfl

end

theorem readCtl_of_far {c : Cx} (hf : c.w.far ≠ none) (n : Nat) :
    c.readCtl n = some (if n = 0 then c.sp.mode else if n = 1 then c.sp.fpst else 0) := by
  have hsome : c.w.far.isSome = true := Option.isSome_iff_ne_none.mpr hf
  simp only [Cx.readCtl, hsome, if_true]
  split
  · rfl
  · split <;> rfl

theorem ctlPoisoned_of_far {c : Cx} (hf : c.w.far ≠ none) (n : Nat) : c.ctlPoisoned n = false := by
  have hw : wgOf c.s c.w = none := if_pos (Option.isSome_iff_ne_none.mpr hf)
  simp [Cx.ctlPoisoned, hw]

/-- A poisoned selvedge count under a number. -/
theorem ctlPoisoned_iff {c : Cx} {g : Workgroup} (hg : wgOf c.s c.w = some g) (n : Nat) : c.ctlPoisoned n = true ↔
    0x030 ≤ n ∧ n ≤ 0x03F ∧ ∃ x, g.selvedge[n - 0x030]? = some x ∧ x.poison = true := by
  simp only [Cx.ctlPoisoned, hg, ← List.head?_drop]
  cases g.selvedge.drop (n - 0x030) <;> simp [and_assoc]

section

variable {s : State} {c : Cx} {a : BitVec 6} {n : BitVec 12} (hr : Ready (.srd a n) s c)

include hr

theorem exec_srd_of_readCtl_none (hv : c.readCtl n.toNat = none) : exec (.srd a n) s = (c.settle (.srd a n)).trapAt 0x04 := by
  refine (issueSplit_of_ready hr _).trans ?_
  rw [show (c.settle (.srd a n)).readCtl n.toNat = none from hv]

theorem exec_srd_of_poisoned {v : Word} (hv : c.readCtl n.toNat = some v) (hp : c.ctlPoisoned n.toNat = true) :
    exec (.srd a n) s = (c.settle (.srd a n)).trapAt 0x13 := by
  refine (issueSplit_of_ready hr _).trans ?_
  rw [show (c.settle (.srd a n)).readCtl n.toNat = some v from hv]
  exact if_pos hp

theorem srd_does {v : Word} (hs : c.shaped = true) (hv : c.readCtl n.toNat = some v) (hp : c.ctlPoisoned n.toNat = false)
    (h1 : passes1 c a.toNat v) :
    Does (.srd a n) s c (writesScalars [a.toNat]) fun e => e.sp.scalar a.toNat = scalarAfter c a.toNat v := by
  refine Does.of_putScalar ((issueSplit_of_ready hr _).trans ?_) a.isLt hs h1
  rw [show (c.settle (.srd a n)).readCtl n.toNat = some v from hv]
  exact if_neg (by rw [show (c.settle (.srd a n)).ctlPoisoned n.toNat = false from hp]; decide)

end

theorem controlReads : Claims.ControlReads := by
  intro s c a n hs hr gets
  obtain rfl := (executing_focus hr.1).2.2
  refine ⟨fun hf h1 => ?_, fun g l hf hg hl => ?_⟩
  · have hv := readCtl_of_far hf n.toNat
    have h0 : n.toNat = 0 ↔ n = 0 := by rw [BitVec.toNat_eq]; rfl
    have h1' : n.toNat = 1 ↔ n = 1 := by rw [BitVec.toNat_eq]; rfl
    simp only [h0, h1'] at hv
    exact srd_does hr hs hv (ctlPoisoned_of_far hf _) h1
  · intro bad
    have hbad : c.ctlPoisoned n.toNat = true ↔ bad := ctlPoisoned_iff hg n.toNat
    refine ⟨fun hn hok h1 => ?_, fun hb => ?_, fun hn => ?_⟩
    · exact srd_does hr hs (readCtl_of_listed hf hg hl hn) (Bool.eq_false_iff.mpr (mt hbad.mp hok)) h1
    · have hn : listed n.toNat = true := (listed_iff _).mpr (by obtain ⟨hlo, hhi, -⟩ := hb; omega)
      exact exec_srd_of_poisoned hr (readCtl_of_listed hf hg hl hn) (hbad.mpr hb)
    · exact exec_srd_of_readCtl_none hr (readCtl_of_not_listed hf hg hl hn)

end Sys2Proof.Machine

namespace Sys2Proof.Machine

open Sys2Proof.Claims

/-! ### Addresses written by halves -/

theorem toNat_or_low {w a k : Nat} (x y : BitVec w) (hx : x.toNat = a <<< k) (hy : y.toNat < 2 ^ k) :
    (x ||| y).toNat = a * 2 ^ k + y.toNat := by
  rw [BitVec.toNat_or, hx, ← Nat.shiftLeft_add_eq_or_of_lt hy, Nat.shiftLeft_eq]

theorem setLo_toNat (p : Pc) (v : Word) : (setLo p v).toNat = p.toNat / 2 ^ 32 * 2 ^ 32 + v.toNat := by
  have hp := p.isLt
  have hv : (v.setWidth 57).toNat = v.toNat := BitVec.toNat_setWidth_of_le (by decide)
  have hhigh : (p &&& ~~~0xFFFFFFFF#57).toNat = (p.toNat / 2 ^ 32) <<< 32 := by
    rw [show ~~~0xFFFFFFFF#57 = BitVec.allOnes 57 <<< 32 by decide, ← BitVec.shiftLeft_ushiftRight, BitVec.toNat_shiftLeft,
      BitVec.toNat_ushiftRight, Nat.shiftRight_eq_div_pow, Nat.shiftLeft_eq]
    omega
  rw [setLo, toNat_or_low _ _ hhigh (hv.trans_lt v.isLt), hv]

theorem setHi_toNat (p : Pc) (v : Word) : (setHi p v).toNat = v.toNat % 2 ^ 25 * 2 ^ 32 + p.toNat % 2 ^ 32 := by
  have hlow : (p &&& 0xFFFFFFFF#57).toNat = p.toNat % 2 ^ 32 := by
    rw [BitVec.toNat_and, show (0xFFFFFFFF#57).toNat = 2 ^ 32 - 1 from rfl, Nat.and_two_pow_sub_one_eq_mod]
  have hhigh : ((v.setWidth 57) <<< 32).toNat = (v.toNat % 2 ^ 25) <<< 32 := by
    have hv : (v.setWidth 57).toNat = v.toNat := BitVec.toNat_setWidth_of_le (by decide)
    rw [BitVec.toNat_shiftLeft, hv, Nat.shiftLeft_eq, Nat.shiftLeft_eq]
    omega
  rw [setHi, BitVec.or_comm, toNat_or_low _ _ hhigh (by omega), hlow]

theorem and_not_three_toNat (v : Word) : (v &&& ~~~3).toNat = v.toNat / 4 * 4 := by
  have hv := v.isLt
  rw [show (~~~3 : Word) = BitVec.allOnes 32 <<< 2 by decide, ← BitVec.shiftLeft_ushiftRight, BitVec.toNat_shiftLeft,
    BitVec.toNat_ushiftRight, Nat.shiftRight_eq_div_pow, Nat.shiftLeft_eq]
  omega

theorem eq_ofNat_of_toNat {w n : Nat} {x : BitVec w} (h : x.toNat = n) : x = BitVec.ofNat w n := by
  rw [← h, BitVec.ofNat_toNat, BitVec.setWidth_eq]

/-! ### What `swr` writes (R176, R177) -/

theorem Tab.upd_congr_at {α : Type} {f g : α → α} {k : Nat} : ∀ t : Tab α, (∀ v, Tab.get? t k = some v → f v = g v) →
    Tab.upd t k f = Tab.upd t k g
  | [], _ => rfl
  | (a, v) :: rest, h => by
    by_cases ha : a = k
    · have hv : f v = g v := h v (by rw [Tab.get?, if_pos ha])
      simp only [Tab.upd, if_pos ha, hv]
    · have hrest : Tab.upd rest k f = Tab.upd rest k g := upd_congr_at rest fun u hu => h u (by rw [Tab.get?, if_neg ha, hu])
      simp only [Tab.upd, if_neg ha, hrest]

theorem writableListed_iff (n : Nat) : writableListed n = true ↔ n = 0x001 ∨ n = 0x002 ∨ n = 0x021 ∨ (0x030 ≤ n ∧ n ≤ 0x03F) ∨
    n = 0x043 ∨ n = 0x044 ∨ n = 0x045 ∨ n = 0x050 ∨ n = 0x051 := by
  simp only [writableListed, Bool.or_eq_true, Bool.and_eq_true, decide_eq_true_eq, beq_iff_eq, or_assoc]

theorem writeCtl_selvedge (c : Cx) (v : Word) {n : Nat} (h : 0x030 ≤ n ∧ n ≤ 0x03F) : c.writeCtl n v =
    some (c.updWg fun g =>
      { g with selvedge := updAt g.selvedge (n - 0x030) fun x => { x with count := v, poison := false } }) := by
  simp (disch := omega) only [Cx.writeCtl, if_neg, if_pos]

theorem writeCtl_eq_none (c : Cx) (v : Word) {n : Nat} (h : writableListed n = false) : c.writeCtl n v = none := by
  have hn := mt (writableListed_iff n).mpr (by rw [h]; decide)
  simp (disch := omega) only [Cx.writeCtl, if_neg]

section

variable {s : State} {c : Cx} {a : BitVec 6} {n : BitVec 12} (hr : Ready (.swr a n) s c)

include hr

theorem exec_swr_of_far (hf : c.w.far ≠ none) (hn : n ≠ 0x001) : exec (.swr a n) s = (c.settle (.swr a n)).trapAt 0x03 :=
  (issueSplit_of_ready hr _).trans (if_pos ⟨Option.isSome_iff_ne_none.mpr hf, hn⟩)

section

variable (hok : c.w.far = none ∨ n = 0x001)

include hok

theorem exec_swr_of_writeCtl_some {d : Cx} (hd : (c.settle (.swr a n)).writeCtl n.toNat (c.sp.scalar a.toNat) = some d) :
    exec (.swr a n) s = d.done := by
  refine (issueSplit_of_ready hr _).trans ((if_neg ?_).trans ?_)
  · rintro ⟨hf, hn⟩
    exact hok.elim (Option.isSome_iff_ne_none.mp hf) hn
  · rw [show (c.settle (.swr a n)).writeCtl n.toNat ((c.settle (.swr a n)).sp.scalar a.toNat) = some d from hd]

theorem exec_swr_of_writeCtl_none (hd : (c.settle (.swr a n)).writeCtl n.toNat (c.sp.scalar a.toNat) = none) :
    exec (.swr a n) s = (c.settle (.swr a n)).trapAt 0x04 := by
  refine (issueSplit_of_ready hr _).trans ((if_neg ?_).trans ?_)
  · rintro ⟨hf, hn⟩
    exact hok.elim (Option.isSome_iff_ne_none.mp hf) hn
  · rw [show (c.settle (.swr a n)).writeCtl n.toNat ((c.settle (.swr a n)).sp.scalar a.toNat) = none from hd]

end

end

theorem controlWrites : Claims.ControlWrites := by
  intro s c a n hs hr _ i v group
  obtain rfl := (executing_focus hr.1).2.2
  refine ⟨?_, fun hf hn => exec_swr_of_far hr hf hn, fun hf => ?_⟩
  · rintro rfl
    exact ⟨_, exec_swr_of_writeCtl_some hr (.inr rfl) rfl, rfl, hs, c.settle_keeps _⟩
  have hgroup {f f' : Workgroup → Workgroup} (hw : (c.settle i).writeCtl n.toNat v = some ((c.settle i).updWg f))
      (h : ∀ g, wgOf c.s c.w = some g → f g = f' g) : group f' := by
    have hupd : Tab.upd c.s.wgs c.w.wg f = Tab.upd c.s.wgs c.w.wg f' :=
      Tab.upd_congr_at _ fun g hg => h g (by simpa [wgOf, hf] using hg)
    refine Acts.of_done ((exec_swr_of_writeCtl_some hr (.inl hf) hw).trans ?_) hs
    rw [← hupd]
    rfl
  refine ⟨?_, ?_, fun k hk hn g x hg hx => ?_, ?_, ?_, ?_, ?_, fun hn => ?_⟩
  · rintro rfl
    exact ⟨_, exec_swr_of_writeCtl_some hr (.inl hf) rfl, rfl, hs, c.settle_keeps _⟩
  · rintro rfl
    exact hgroup rfl fun _ _ => rfl
  · refine hgroup (writeCtl_selvedge _ _ (by omega)) fun g' hg' => ?_
    obtain rfl : g = g' := Option.some.inj (hg.symm.trans hg')
    rw [hn, Nat.add_sub_cancel_left, updAt, List.modify_eq_set_getElem?, hx]
    rfl
  · rintro (rfl | rfl)
    · exact ⟨_, exec_swr_of_writeCtl_some hr (.inl hf) rfl, hs, setLo_toNat _ _, c.settle_keeps _⟩
    · exact ⟨_, exec_swr_of_writeCtl_some hr (.inl hf) rfl, hs, setHi_toNat _ _, c.settle_keeps _⟩
  · rintro rfl
    exact ⟨_, exec_swr_of_writeCtl_some hr (.inl hf) rfl, rfl, hs, c.settle_keeps _⟩
  · rintro rfl
    refine hgroup rfl fun g _ => ?_
    rw [eq_ofNat_of_toNat (setLo_toNat g.tvec (v &&& ~~~3)), and_not_three_toNat]
  · rintro rfl
    refine hgroup rfl fun g _ => ?_
    rw [eq_ofNat_of_toNat (setHi_toNat g.tvec v)]
  · exact exec_swr_of_writeCtl_none hr (.inl hf) (writeCtl_eq_none _ _ hn)

end Sys2Proof.Machine

namespace Sys2Proof.Machine

open Sys2Proof.Claims

/-! ### The forms of `swr` with a rule of their own -/

theorem modeRnd_eq (v : Word) : modeRnd v = v.toNat / 2 ^ 9 % 8 := by
  rw [modeRnd, BitVec.toNat_ushiftRight, Nat.shiftRight_eq_div_pow]

theorem extractLsb'_eq_zero_iff (v : Word) : v.extractLsb' 8 5 = 0 ↔ v.toNat / 2 ^ 8 % 32 = 0 := by
  rw [BitVec.toNat_eq, BitVec.extractLsb'_toNat, Nat.shiftRight_eq_div_pow]
  rfl

/-- A command that leaves is no command any more (11_memory R205). -/
theorem get?_finishCommand_self (s : State) (k : Nat) (x : Cmd) (status : Nat) :
    Tab.get? (finishCommand s k x status none).cmds k = none := by
  have h : (finishCommand s k x status none).cmds = Tab.del s.cmds k := by
    unfold finishCommand
    cases x.barrier <;> rfl
  rw [h, Tab.get?_del, if_pos rfl]

/-- Entries of loads and stores leave nothing to complete. -/
theorem completeStopped_of_no_command (s : State) : ∀ {entries : List FaultEntry}, (∀ f ∈ entries, f.cmd = none) →
    completeStopped s entries = s
  | [], _ => rfl
  | f :: rest, h => by
    have hrest : completeStopped s rest = s := completeStopped_of_no_command s fun g hg => h g (List.mem_cons_of_mem _ hg)
    rw [completeStopped, List.foldl_cons, h f List.mem_cons_self]
    exact hrest

theorem far_not_isSome {w : Warp} (hf : w.far = none) : ¬w.far.isSome = true := by
  simp [hf]

section

variable {s : State} {c : Cx} {a : BitVec 6} (hf : c.w.far = none)

include hf

theorem exec_ctlCpyfltWrite (hr : Ready (.ctlCpyfltWrite a) s c) : exec (.ctlCpyfltWrite a) s =
    ((c.settle (.ctlCpyfltWrite a)).updWg fun g =>
      if (c.sp.scalar a.toNat).getLsbD 3 then { g with cpyflt := (c.sp.scalar a.toNat &&& 0xFF000007) ||| (g.cpyflt &&& 8) }
      else { g with cpyflt := 0, cpyfln := 0 }).done := by
  refine (issueSplit_of_ready hr _).trans ((if_neg (far_not_isSome hf)).trans ?_)
  by_cases h : (c.sp.scalar a.toNat).getLsbD 3
  · simp only [if_pos h]
    exact if_pos h
  · simp only [if_neg h]
    exact if_neg h

theorem exec_ctlEstWrite (hr : Ready (.ctlEstWrite a) s c) : exec (.ctlEstWrite a) s =
    if (c.sp.scalar a.toNat).getLsbD 1 then (c.settle (.ctlEstWrite a)).done
    else ((c.settle (.ctlEstWrite a)).updWg fun g => { g with est := 0 }).done :=
  (issueSplit_of_ready hr _).trans (if_neg (far_not_isSome hf))

theorem exec_ctlTcauseWrite (hr : Ready (.ctlTcauseWrite a) s c) : exec (.ctlTcauseWrite a) s =
    if (c.sp.scalar a.toNat).extractLsb' 8 5 ≠ 0 then (c.settle (.ctlTcauseWrite a)).done
    else if c.sp.trap.handler then (c.settle (.ctlTcauseWrite a)).discardEntries.done
    else Cx.done { c.settle (.ctlTcauseWrite a) with sp := { (c.settle (.ctlTcauseWrite a)).sp with
      trap := { c.sp.trap with entries := [], nent := 0 } } } :=
  (issueSplit_of_ready hr _).trans (if_neg (far_not_isSome hf))

end

theorem exec_form_of_far {s : State} {c : Cx} {a : BitVec 6} {i : Instr}
    (hi : i = .ctlCpyfltWrite a ∨ i = .ctlEstWrite a ∨ i = .ctlTcauseWrite a) (hr : Ready i s c) (hf : c.w.far ≠ none) :
    exec i s = (c.settle i).trapAt 0x03 := by
  have hfar : c.w.far.isSome = true := Option.isSome_iff_ne_none.mpr hf
  rcases hi with rfl | rfl | rfl <;> exact (issueSplit_of_ready hr _).trans (if_pos hfar)

theorem exec_ctlModeWrite {s : State} {c : Cx} {a : BitVec 6} (hr : Ready (.ctlModeWrite a) s c) : exec (.ctlModeWrite a) s =
    if (c.sp.scalar a.toNat).toNat / 2 ^ 9 % 8 = 7 then (c.settle (.ctlModeWrite a)).trapAt 0x02
    else Cx.done { c.settle (.ctlModeWrite a) with sp := { (c.settle (.ctlModeWrite a)).sp with
      mode := c.sp.scalar a.toNat &&& 0x3FFF } } := by
  rw [← modeRnd_eq]
  exact issueSplit_of_ready hr _

theorem controlForms : Claims.ControlForms := by
  intro s c a hs v nent
  refine ⟨fun hr => ⟨fun h => (exec_ctlModeWrite hr).trans (if_pos h), fun h => ?_⟩, fun i hi hr hf => exec_form_of_far hi hr hf,
    fun hf => ⟨fun hr => ?_, fun hr => ?_, fun hr h => ?_, fun hr h => ?_⟩⟩
  · exact ⟨_, (exec_ctlModeWrite hr).trans (if_neg h), rfl, hs, c.settle_keeps _⟩
  · obtain rfl := (executing_focus hr.1).2.2
    exact Acts.of_done (exec_ctlCpyfltWrite hf hr) hs
  · obtain rfl := (executing_focus hr.1).2.2
    have he := exec_ctlEstWrite hf hr
    by_cases hb : v.getLsbD 1
    · rw [if_pos hb] at he ⊢
      exact Acts.of_done he hs
    · rw [if_neg hb] at he ⊢
      exact Acts.of_done he hs
  · have he := (exec_ctlTcauseWrite hf hr).trans (if_pos (mt (extractLsb'_eq_zero_iff v).mp h))
    exact ⟨_, he, c.settle_keeps _, hs, trivial⟩
  · obtain rfl := (executing_focus hr.1).2.2
    have he := (exec_ctlTcauseWrite hf hr).trans (if_neg (not_not.mpr ((extractLsb'_eq_zero_iff v).mpr h)))
    cases hh : c.sp.trap.handler with
    | false =>
      rw [hh] at he
      exact ⟨_, he, hs, by simp, fun _ => rfl, fun _ _ _ hcon => (by simp at hcon), c.settle_keeps _⟩
    | true =>
      rw [hh] at he
      refine ⟨_, he, hs, by simp [Cx.discardEntries], fun hno => ?_, fun f k x _ hent hk hx => ?_, c.settle_keeps _⟩
      · exact completeStopped_of_no_command c.s (hno.resolve_left (by decide))
      · have hend : completeStopped c.s c.sp.trap.entries = finishCommand c.s k x 0 none := by
          rw [hent, completeStopped_single hk hx]
        exact ⟨(congrArg (fun t : State => Tab.get? t.cmds k) hend).trans (get?_finishCommand_self c.s k x 0), hend⟩

theorem selvedgeSet : Claims.SelvedgeSet := by
  intro s c t n a b hs hr
  obtain rfl := (executing_focus hr.1).2.2
  exact Acts.of_done (issueSplit_of_ready hr _) hs

/-- Settles O27: the numbers read, those written, the forms with a rule of their own, and the selvedge registers. -/
theorem controlRegisters : Obligations.ControlRegisters := ⟨controlReads, controlWrites, controlForms, selvedgeSet⟩

end Sys2Proof.Machine

namespace Sys2Proof.Machine

open Sys2Proof.Claims

/-! ### The conditions of `scmp` (R114) -/

theorem and_eq_zero_iff_forall {w : Nat} (a b : BitVec w) :
    a &&& b = 0#w ↔ ∀ i, a.getLsbD i = true → b.getLsbD i = false := by
  constructor
  · intro h i ha
    have hi : (a &&& b).getLsbD i = false := by rw [h, BitVec.getLsbD_zero]
    rwa [BitVec.getLsbD_and, ha, Bool.true_and] at hi
  · intro h
    apply BitVec.eq_of_getLsbD_eq
    intro i _
    rw [BitVec.getLsbD_and, BitVec.getLsbD_zero]
    cases ha : a.getLsbD i with
    | false => rfl
    | true => exact h i ha

theorem scalarCond_iff (x : BitVec 3) (a b : Word) : scalarCond x a b = true ↔ compares x a b := by
  unfold scalarCond compares
  generalize x.toNat = n
  match n with
  | 0 => exact beq_iff_eq.trans BitVec.toNat_inj.symm
  | 1 => exact bne_iff_ne.trans BitVec.toNat_inj.symm.not
  | 2 => exact decide_eq_true_iff
  | 3 => exact decide_eq_true_iff
  | 4 => exact decide_eq_true_iff
  | 5 => exact decide_eq_true_iff
  | 6 =>
    show (a &&& b != 0#32) = true ↔ _
    rw [bne_iff_ne, ne_eq, and_eq_zero_iff_forall]
    simp
  | n + 7 => exact beq_iff_eq.trans (and_eq_zero_iff_forall a b)

/-- The word that `scmp` writes. -/
theorem scalarCond_word {x : BitVec 3} {a b v : Word} (h : v = 1 ∧ compares x a b ∨ v = 0 ∧ ¬compares x a b) :
    (if scalarCond x a b then 1 else 0) = v := by
  rcases h with ⟨rfl, h⟩ | ⟨rfl, h⟩
  · exact if_pos ((scalarCond_iff x a b).mpr h)
  · exact if_neg (mt (scalarCond_iff x a b).mp h)

theorem scmp_dest_lt {d a b : BitVec 7} {x : BitVec 3} (h : wellFormed (.scmp d a b x) = true) : d.toNat < 64 := by
  simp only [wellFormed, Bool.and_eq_true] at h
  exact isScalar_lt h.1.1

/-- Settles O2: `scmp` is a scalar write of 1 or 0 by its condition. -/
theorem scalarCompare : Obligations.ScalarCompare := by
  intro s c d a b x v hw hs hr hv hp
  refine Does.of_putScalar ?_ (scmp_dest_lt hw) hs hp
  rw [← scalarCond_word hv]
  exact issue_of_ready hr _ _

end Sys2Proof.Machine

namespace Sys2Proof.Machine

open Sys2Proof.Claims

/-! ### Scalars of an engine program (R251, R252) -/

/-- The program after its command. -/
def Ex.moved (x : Ex) : Ex := { x with en := { x.en with pc := x.en.pc + 4 } }

theorem Ex.shaped_scalars {x : Ex} (h : x.shaped = true) : x.en.scalars.length = 64 := by
  simp only [Ex.shaped, Bool.and_eq_true, beq_iff_eq] at h
  exact h.1.1

theorem Ex.putScalar_scalar {x : Ex} {n : Nat} (h : n < x.en.scalars.length) (v : Word) (p : Bool) (m : Nat) :
    (x.putScalar n v p).scalar m = if m = n ∧ n ≠ 0 then v else x.scalar m := by
  unfold Ex.putScalar
  by_cases hn : n = 0
  · simp [hn]
  · rw [if_neg hn]
    by_cases hm : m = n
    · subst hm
      simp [Ex.scalar, hn, setAt, h]
    · simp [Ex.scalar, hm, setAt, List.getD_eq_getElem?_getD, Ne.symm hm]

@[simp] theorem Ex.putScalar_length (x : Ex) (n : Nat) (v : Word) (p : Bool) :
    (x.putScalar n v p).en.scalars.length = x.en.scalars.length := by
  unfold Ex.putScalar
  split
  · rfl
  · exact List.length_set

/-- What an engine program writes of its scalars leaves the rest. -/
theorem engineKeeps_putScalar {x y : Ex} (h : engineKeeps x y.moved) (n : Nat) (v : Word) (p : Bool) :
    engineKeeps x (y.putScalar n v p).moved := by
  obtain ⟨hs, hg, hwg, hen⟩ := h
  unfold Ex.putScalar
  split
  · exact ⟨hs, hg, hwg, hen⟩
  · exact ⟨hs, hg, hwg, congrArg (fun e : Engine => { e with
      scalars := setAt y.en.scalars n v
      scalarPoison := if p then y.en.scalarPoison ||| (1#64 <<< n) else y.en.scalarPoison &&& ~~~(1#64 <<< n) }) hen⟩

theorem engineKeeps_moved (x : Ex) : engineKeeps x x.moved := ⟨rfl, rfl, rfl, rfl⟩

/-- A scalar pair of an engine program written. -/
def Ex.putPair (x : Ex) (n : Nat) (lo hi : Word) : Ex := (x.putScalar n lo false).putScalar (n + 1) hi false

theorem Ex.putPair_scalar {x : Ex} {n : Nat} (h : n + 1 < x.en.scalars.length) (lo hi : Word) (m : Nat) :
    (x.putPair n lo hi).scalar m = if m = n ∧ n ≠ 0 then lo else if m = n + 1 then hi else x.scalar m := by
  rw [Ex.putPair, Ex.putScalar_scalar (by rwa [Ex.putScalar_length]), Ex.putScalar_scalar (by omega)]
  by_cases hm : m = n + 1
  · simp [hm]
  · simp [hm]

/-- A command that writes one scalar and moves on. -/
theorem engine_putScalar {i : Instr} {s : State} {x : Ex} {n : Nat} {v : Word} (he : exec i s = (x.putScalar n v false).done)
    (hs : x.shaped = true) (hn : n < 64) :
    ∃ y : Ex, exec i s = .next y.commit ∧ engineKeeps x y ∧
      ∀ m, m < 64 → y.scalar m = if m = n ∧ n ≠ 0 then v else x.scalar m :=
  ⟨(x.putScalar n v false).moved, he, engineKeeps_putScalar (engineKeeps_moved x) n v false,
    fun m _ => Ex.putScalar_scalar (by rwa [Ex.shaped_scalars hs]) v false m⟩

/-- A command that writes a pair of scalars and moves on. -/
theorem engine_putPair {i : Instr} {s : State} {x : Ex} {n : Nat} {lo hi : Word} (he : exec i s = (x.putPair n lo hi).done)
    (hs : x.shaped = true) (hn : n + 1 < 64) :
    ∃ y : Ex, exec i s = .next y.commit ∧ engineKeeps x y ∧
      ∀ m, m < 64 → y.scalar m = if m = n ∧ n ≠ 0 then lo else if m = n + 1 then hi else x.scalar m :=
  ⟨(x.putPair n lo hi).moved, he, engineKeeps_putScalar (engineKeeps_putScalar (engineKeeps_moved x) n lo false) (n + 1) hi false,
    fun m _ => Ex.putPair_scalar (by rwa [Ex.shaped_scalars hs]) lo hi m⟩

theorem engineScalarsAlone : Claims.EngineScalarsAlone := by
  intro i s x hw hs hr
  refine ⟨fun n v h => ?_, fun n v h => ?_, ?_, ?_⟩
  · obtain ⟨d, f, he, rfl, rfl⟩ := exec_of_scalarResult h
    exact engine_putScalar ((he s).trans (issue_of_engineReady hr _ _)) hs (scalarResult_lt h hw)
  · obtain ⟨d, f, he, rfl, hf⟩ := exec_of_pairResult h
    rw [← loWord_ofNat, ← hiWord_ofNat, ← hf]
    exact engine_putPair ((he s).trans (issue_of_engineReady hr _ _)) hs (pairResult_lt h hw)
  · rintro d a b k v rfl hv
    have he : exec (.scmp d a b k) s = (x.putScalar d.toNat v false).done := by
      rw [← scalarCond_word hv]
      exact issue_of_engineReady hr _ _
    have hd : d ≠ 0 ↔ d.toNat ≠ 0 := BitVec.toNat_inj.symm.not
    simp only [hd]
    exact engine_putScalar he hs (scmp_dest_lt hw)
  · rintro rfl
    exact ⟨x.moved, issue_of_engineReady hr _ _, engineKeeps_moved x, rfl⟩

/-! ### Scalar loads of an engine program (R194, R252) -/

theorem valWord_eq (v : BitVec 128) (k : Nat) : valWord v k = BitVec.ofNat 32 (v.toNat / 2 ^ (32 * k)) := by
  apply BitVec.eq_of_toNat_eq
  rw [valWord, BitVec.extractLsb'_toNat, Nat.shiftRight_eq_div_pow, BitVec.toNat_ofNat]

theorem isScalarPair_lt {d : BitVec 7} (h : isScalarPair d = true) : d.toNat + 1 < 64 := by
  simp only [isScalarPair, Bool.and_eq_true, decide_eq_true_eq, beq_iff_eq] at h
  omega

/-- The destination of a scalar load, a pair where P is set. -/
theorem scalarLoad_dest_lt {d : BitVec 7} {p : BitVec 1} (h : (isScalar d && (p == 0 || isScalarPair d)) = true) :
    d.toNat < 64 ∧ (p = 1 → d.toNat + 1 < 64) := by
  simp only [Bool.and_eq_true, Bool.or_eq_true, beq_iff_eq] at h
  refine ⟨isScalar_lt h.1, fun hp => isScalarPair_lt (h.2.resolve_left ?_)⟩
  rw [hp]
  decide

theorem dataBase_map (s : State) (k : Nat) : dataBase s ((Tab.get? s.skeins k).map fun y => y.launch) =
    match (Tab.get? s.skeins k).bind (fun y => Tab.get? s.launches y.launch) with | some y => y.record.dbase | none => 0 := by
  cases h : Tab.get? s.skeins k <;> rfl

/-- A scalar load whose access succeeds writes a word, or a pair. -/
theorem Ex.scalarLoad_of_ok {x : Ex} {d : Nat} {addr : DWord} {p : BitVec 1} {t : State} {v : BitVec 128}
    (hal : addr.toNat % (if p = 1 then 8 else 4) = 0)
    (h : accessLane x.s (enginePartyOf x.s x.wg) (engineKey x.g) (.load (if p = 1 then 8 else 4) false)
      { lane := 0, va := addr, data := 0, data2 := 0, poison := false } = .ok t v false) :
    x.scalarLoad (if p = 1 then 8 else 4) d addr =
      (if p = 1 then Ex.putPair { x with s := t } d (valWord v 0) (valWord v 1)
        else Ex.putScalar { x with s := t } d (valWord v 0) false).done := by
  unfold Ex.scalarLoad
  rw [if_neg (not_not.mpr hal)]
  dsimp only
  rw [h]
  by_cases hp : p = 1
  · rw [if_pos hp, if_pos hp]
    rfl
  · rw [if_neg hp, if_neg hp]
    rfl

theorem engineScalarLoads : Claims.EngineScalarLoads := by
  intro i s x d p addr l hs hi n r hw hr hal t v hok
  obtain rfl := (running_focus hr.1).2.2
  have hdest : (isScalar d && (p == 0 || isScalarPair d)) = true := by
    rcases hi with ⟨w, rfl, -, -⟩ | ⟨a, b, rfl, -⟩
    · exact hw
    · exact (Bool.and_eq_true_iff.mp hw).1
  have hload : exec i x.s = x.scalarLoad n d.toNat addr := by
    rcases hi with ⟨w, rfl, heven, rfl⟩ | ⟨a, b, rfl, rfl⟩
    · have hodd : ¬(p = 1 ∧ w.toNat % 2 = 1) := by
        rintro ⟨hp, hodd⟩
        have := heven hp
        omega
      exact (issue_of_engineReady hr _ _).trans ((if_neg hodd).trans
        (congrArg (fun base => x.scalarLoad n d.toNat (base + BitVec.ofNat 64 (4 * w.toNat))) (dataBase_map _ _)))
    · exact issue_of_engineReady hr _ _
  have hlo : valWord v 0 = BitVec.ofNat 32 v.toNat := by rw [valWord_eq, Nat.mul_zero, Nat.pow_zero, Nat.div_one]
  have hhi : valWord v 1 = BitVec.ofNat 32 (v.toNat / 2 ^ 32) := valWord_eq v 1
  rw [Ex.scalarLoad_of_ok hal hok, hlo, hhi] at hload
  obtain ⟨hd, hpair⟩ := scalarLoad_dest_lt hdest
  have hmoves : ∃ y : Ex, exec i x.s = .next y.commit ∧ engineKeeps { x with s := t } y ∧ ∀ m, m < 64 → y.scalar m =
      if m = d.toNat ∧ d.toNat ≠ 0 then BitVec.ofNat 32 v.toNat
      else if m = d.toNat + 1 ∧ p = 1 then BitVec.ofNat 32 (v.toNat / 2 ^ 32)
      else ({ x with s := t } : Ex).scalar m := by
    by_cases hp : p = 1
    · rw [if_pos hp] at hload
      simpa only [hp, and_true] using engine_putPair hload hs (hpair hp)
    · rw [if_neg hp] at hload
      simpa only [hp, and_false, if_false] using engine_putScalar hload hs hd
  obtain ⟨y, he, ⟨h1, h2, h3, h4⟩, hy⟩ := hmoves
  refine ⟨y, he, h1, h2, h3, congrArg Engine.pc h4,
    congrArg (fun e : Engine => { e with scalars := x.en.scalars, scalarPoison := x.en.scalarPoison, pc := x.en.pc }) h4,
    fun m hm => ?_⟩
  have zero_iff : m = d.toNat ∧ d.toNat ≠ 0 ↔ m = d.toNat ∧ m ≠ 0 := by
    constructor <;> rintro ⟨rfl, h⟩ <;> exact ⟨rfl, h⟩
  rw [hy m hm]
  simp only [zero_iff]
  rfl

/-- Settles O4: an engine program reads and writes its 64 scalars as they are, and a scalar load is such a write of what its access
gave. -/
theorem engineScalars : Obligations.EngineScalars := ⟨engineScalarsAlone, engineScalarLoads⟩

end Sys2Proof.Machine

namespace Sys2Proof.Machine

open Sys2Proof.Claims

/-! ### Words of a lane (R58, R105) -/

/-- Word k of a register pair. -/
def pairWord (v : DWord) (k : Nat) : Word := if k = 0 then loWord v else hiWord v

@[simp] theorem pairWord_zero (v : DWord) : pairWord v 0 = loWord v := rfl

@[simp] theorem loWord_setWidth (a : Word) : loWord (a.setWidth 64) = a := by simp [loWord]

theorem pairWord_pair (a b : Word) (k : Nat) : pairWord (pair a b) k = if k = 0 then a else b := by
  have hlo : loWord (pair a b) = a := BitVec.setWidth_append_eq_right
  have hhi : hiWord (pair a b) = b := by
    apply BitVec.eq_of_getLsbD_eq
    intro i hi
    rw [hiWord, BitVec.getLsbD_setWidth, BitVec.getLsbD_ushiftRight, pair, BitVec.getLsbD_append, Nat.add_sub_cancel_left]
    simp [hi]
  rw [pairWord, hlo, hhi]

/-- Word k of an operand, a register or a pair, is its register k. -/
theorem pairWord_operand (f : Nat → Word) (n : Nat) {wide : Bool} {k : Nat} (h : k < if wide then 2 else 1) :
    pairWord (if wide then pair (f n) (f (n + 1)) else (f n).setWidth 64) k = f (n + k) := by
  cases wide with
  | false =>
    obtain rfl : k = 0 := by simpa using h
    exact loWord_setWidth _
  | true =>
    rw [if_pos rfl] at h
    rw [if_pos rfl, pairWord_pair]
    have hk : k = 0 ∨ k = 1 := by omega
    rcases hk with rfl | rfl <;> rfl

theorem Cx.pairWord_wideLane (c : Cx) (r l : Nat) (wide : Bool) {k : Nat} (h : k < if wide then 2 else 1) :
    pairWord (c.wideLane r wide l) k = c.lane (r + k) l :=
  pairWord_operand (fun q => c.lane q l) r h

theorem regs_of_bit (w : BitVec 1) : (if w == 1 then 2 else 1) = if w = 1 then 2 else 1 := by simp only [beq_iff_eq]

/-- The instruction leaves in each active lane of a group of registers the words given, and changes nothing else. -/
def WritesWords (i : Instr) (s : State) (c : Cx) (d n : Nat) (f : Nat → Nat → Word) : Prop :=
  Does i s c (writesVectors (regsFrom d n) c.active) fun e =>
    ∀ k l, k < n → l < 96 → c.active.getLsbD l = true → e.lane (d + k) l = f k l

theorem WritesWords.of_putOperand {i : Instr} {s : State} {c : Cx} {d : Nat} {wide : Bool} {vals : List DWord}
    {f : Nat → Nat → Word} (he : exec i s = ((c.settle i).putOperand d wide c.active vals).done) (hs : c.shaped = true)
    (hv : vals.length = 96)
    (hf : ∀ k l, k < (if wide then 2 else 1) → l < 96 → c.active.getLsbD l = true → pairWord (vals.getD l 0) k = f k l) :
    WritesWords i s c d (if wide then 2 else 1) f := by
  refine Does.of_done he (Cx.putOperand_keeps _ d wide c.active vals) (Cx.putOperand_shaped d wide c.active vals hs)
    fun k l hk hl hm => ?_
  rw [← hf k l hk hl hm, ← Cx.pairWord_wideLane _ _ _ wide hk,
    Cx.putOperand_wideLane (c := c.settle i) hs d wide c.active vals hl hv hm]
  cases wide with
  | true => rfl
  | false =>
    obtain rfl : k = 0 := by simpa using hk
    exact loWord_setWidth _

theorem WritesWords.of_putRow {i : Instr} {s : State} {c : Cx} {d : Nat} {new : Row} {f : Nat → Nat → Word}
    (he : exec i s = ((c.settle i).putRow d c.active new).done) (hs : c.shaped = true) (hn : new.length = 96)
    (hf : ∀ l, l < 96 → new.getD l 0 = f 0 l) : WritesWords i s c d 1 f := by
  refine Does.of_done he (Cx.putRow_keeps_of_mem _ (mem_regsFrom (by decide : 0 < 1)) c.active new)
    (Cx.putRow_shaped d c.active new hs) fun k l hk hl hm => ?_
  obtain rfl : k = 0 := by omega
  rw [Nat.add_zero, Cx.putRow_lane _ d c.active new l hm (by rwa [(c.settle i).row_length hs]) (by rwa [hn]), hf l hl]

/-- A row given lane by lane. -/
theorem getD_map_range (f : Nat → Word) {l : Nat} (hl : l < 96) : ((List.range 96).map f).getD l 0 = f l := by
  simp [hl]

theorem Cx.row_getElem? {c : Cx} (hs : c.shaped = true) (r : Nat) {l : Nat} (hl : l < 96) : (c.row r)[l]? = some (c.lane r l) := by
  have hr : l < (c.row r).length := by rwa [c.row_length hs]
  simp [Cx.lane, List.getD_eq_getElem?_getD, hr]

/-! ### Logic on words (R120, R121) -/

theorem WritesWords.of_vecWord {i : Instr} {s : State} {c : Cx} {d a b : BitVec 7} {g : Word → Word → Word → Word}
    (he : exec i s = vecWord i s d a b g) (hr : Ready i s c) (hs : c.shaped = true) :
    WritesWords i s c d.toNat 1 fun _ l => g (c.lane a.toNat l) (c.lane b.toNat l) (c.lane d.toNat l) := by
  refine WritesWords.of_putOperand (wide := false) (he.trans (issueSplit_of_ready hr _)) hs ?_ fun k l hk hl hm => ?_
  · simp [zipLanes_length, Cx.operand_length (c := c.settle i) hs]
  · obtain rfl : k = 0 := by simpa using hk
    have hop (r : Nat) := Cx.operand_getElem? (c := c.settle i) hs r false hl
    rw [List.getD_eq_getElem?_getD, List.getElem?_map, zipLanes_getElem? (hop _) (hop _) (hop _), Nat.zero_add]
    rw [if_pos (show (c.settle i).active.getLsbD l = true from hm)]
    have hlane (r : Nat) : loWord ((c.settle i).wideLane r false l) = c.lane r l := loWord_setWidth _
    simp only [Option.map_some, Option.getD_some, pairWord_zero, loWord_setWidth, hlane]

/-! ### Shuffles (R138, R346) -/

/-- The lane a shuffle reads for source j, 96 for none. -/
def shuffleSource (shadow : Bool) (lane j : Nat) : Nat := if shadow ∧ 48 ≤ lane then (if j < 48 then j + 48 else 96) else j

theorem shuffleLane_of_nonneg (c : Cx) (lane : Nat) {src : Int} (h : ¬src < 0) :
    shuffleLane c lane src =
      let p := shuffleSource (isShadow c.s c.w) lane src.toNat
      if p < 96 ∧ c.active.getLsbD p = true then some p else none := by
  unfold shuffleLane shuffleSource
  rw [if_neg h]
  dsimp only
  by_cases hc : isShadow c.s c.w = true ∧ 48 ≤ lane
  · by_cases hj : src < 48
    · have h1 : src.toNat < 48 := by omega
      have h2 : src.toNat + 48 < 96 := by omega
      simp [hc, hj, h1, h2]
    · have h1 : ¬src.toNat < 48 := by omega
      simp [hc, hj, h1]
  · rw [if_neg hc, if_neg hc]
    by_cases hj : src < 96
    · have h1 : src.toNat < 96 := by omega
      simp [hj, h1]
    · have h1 : ¬src.toNat < 96 := by omega
      simp [hj, h1]

/-- Word k of what a shuffle gives a lane. -/
theorem pairWord_shuffleFrom {c : Cx} (hs : c.shaped = true) (a : Nat) (wide : Bool) (lane : Nat) (src : Int) {k : Nat}
    (hk : k < if wide then 2 else 1) :
    pairWord (shuffleFrom (isShadow c.s c.w) c.active (c.operand a wide) lane src) k =
      shuffled c a k (shuffleLane c lane src) := by
  have zero : pairWord 0#64 k = 0#32 := ite_self _
  by_cases h : src < 0
  · simp [shuffleFrom, shuffleLane, shuffled, h, zero]
  · rw [shuffleLane_of_nonneg c lane h, shuffleFrom, if_neg h]
    dsimp only
    rw [show (if isShadow c.s c.w = true ∧ 48 ≤ lane then (if src.toNat < 48 then src.toNat + 48 else 96) else src.toNat) =
      shuffleSource (isShadow c.s c.w) lane src.toNat from rfl]
    generalize shuffleSource (isShadow c.s c.w) lane src.toNat = p
    by_cases hp : p < 96 ∧ c.active.getLsbD p = true
    · rw [if_pos hp, if_pos hp, Cx.operand_getD hs a wide hp.1, Cx.pairWord_wideLane c a p wide hk]
      rfl
    · rw [if_neg hp, if_neg hp]
      exact zero

theorem WritesWords.of_shuffle {i : Instr} {s : State} {c : Cx} {d a : BitVec 7} {w : BitVec 1} {src : Cx → Nat → Int}
    (he : exec i s = shuffle i s d a w src) (hr : Ready i s c) (hs : c.shaped = true) :
    WritesWords i s c d.toNat (if w = 1 then 2 else 1) fun k l => shuffled c a.toNat k (shuffleLane c l (src (c.settle i) l)) := by
  rw [← regs_of_bit]
  refine WritesWords.of_putOperand (he.trans (issueSplit_of_ready hr _)) hs (by simp) fun k l hk hl _ => ?_
  rw [List.getD_eq_getElem?_getD, List.getElem?_map, List.getElem?_range hl]
  exact pairWord_shuffleFrom (c := c.settle i) hs a.toNat (w == 1) l _ hk

/-! ### Equal lanes (R142, R346) -/

theorem lowHalf_getLsbD (m : Mask) (q : Nat) : (lowHalf m).getLsbD q = (decide (q < 48) && m.getLsbD q) := by
  rw [lowHalf, BitVec.getLsbD_and, laneRange_getLsbD, Bool.and_comm]
  by_cases h : q < 48
  · have : q < 96 := by omega
    simp [h, this]
  · simp [h]

theorem highHalf_getLsbD (m : Mask) (q : Nat) : (highHalf m).getLsbD q = m.getLsbD (48 + q) := BitVec.getLsbD_ushiftRight _ _ _

/-- The lanes that hold the same value as a lane. -/
def Cx.equalLanes (c : Cx) (a : Nat) (wide : Bool) (l : Nat) : Mask :=
  maskWhere c.active fun j => (c.operand a wide).getD j 0 == (c.operand a wide).getD l 0

/-- The mask that `vmatch` gives a lane. -/
def Cx.matchMask (c : Cx) (a : Nat) (wide : Bool) (l : Nat) : Mask :=
  if isShadow c.s c.w then (if l < 48 then lowHalf (c.equalLanes a wide l) else highHalf (c.equalLanes a wide l))
  else c.equalLanes a wide l

theorem Cx.equalLanes_getLsbD {c : Cx} (hs : c.shaped = true) (a : Nat) (wide : Bool) {l p : Nat} (hl : l < 96) (hp : p < 96) :
    (c.equalLanes a wide l).getLsbD p = (c.active.getLsbD p && c.wideLane a wide p == c.wideLane a wide l) := by
  rw [Cx.equalLanes, maskWhere_getLsbD _ _ hp, Cx.operand_getD hs a wide hp, Cx.operand_getD hs a wide hl]

theorem Cx.matchMask_getLsbD {c : Cx} (hs : c.shaped = true) (a : Nat) (wide : Bool) {l q : Nat} (hl : l < 96) (hq : q < 96) :
    (c.matchMask a wide l).getLsbD q = matchBit c a wide l q := by
  unfold Cx.matchMask matchBit
  dsimp only
  by_cases hsh : isShadow c.s c.w = true
  · rw [if_pos hsh, if_pos hsh, if_pos hsh]
    by_cases hq48 : q < 48
    · by_cases hl48 : l < 48
      · rw [if_pos hl48, lowHalf_getLsbD, Cx.equalLanes_getLsbD hs a wide hl hq, Nat.div_eq_of_lt hl48, Bool.and_assoc]
        rfl
      · rw [if_neg hl48, highHalf_getLsbD, Cx.equalLanes_getLsbD hs a wide hl (by omega), show l / 48 = 1 by omega, Nat.add_comm]
        simp [hq48]
    · by_cases hl48 : l < 48
      · rw [if_pos hl48, lowHalf_getLsbD]
        simp [hq48]
      · rw [if_neg hl48, highHalf_getLsbD, BitVec.getLsbD_of_ge _ _ (by omega)]
        simp [hq48]
  · rw [if_neg hsh, if_neg hsh, if_neg hsh, Cx.equalLanes_getLsbD hs a wide hl hq]
    simp [hq]

/-- Word k of a mask given by its bits. -/
theorem maskWord_eq_of_bits {m : Mask} {f : Nat → Bool} {k : Nat} (hk : k < 3) (h : ∀ q, q < 96 → m.getLsbD q = f q) :
    maskWord m k = (BitVec.ofBoolListLE ((List.range 32).map fun j => f (32 * k + j))).setWidth 32 := by
  apply BitVec.eq_of_getLsbD_eq
  intro j hj
  rw [maskWord_getElem _ _ _ hj, h _ (by omega), BitVec.getLsbD_setWidth]
  refine Eq.symm ?_
  simp only [hj, decide_true, Bool.true_and]
  refine Eq.trans BitVec.getLsbD_ofBoolListLE ?_
  simp [hj]

/-- A group of registers written holds the words of its values. -/
theorem Cx.putGroup_lane {c : Cx} (hs : c.shaped = true) (r n : Nat) (m : Mask) {vals : List Nat} {k l : Nat} (hk : k < n)
    (hl : l < 96) (hv : vals.length = 96) (hm : m.getLsbD l = true) :
    (c.putGroup r n m vals).lane (r + k) l = BitVec.ofNat 32 (vals.getD l 0 / 2 ^ (32 * k)) := by
  induction n with
  | zero => omega
  | succ n ih =>
    have hlast : c.putGroup r (n + 1) m vals =
        (c.putGroup r n m vals).putRow (r + n) m (vals.map fun v => BitVec.ofNat 32 (v / 2 ^ (32 * n))) := by
      simp [Cx.putGroup, List.range_succ]
    rw [hlast]
    by_cases hkn : k = n
    · subst hkn
      rw [Cx.putRow_lane _ _ _ _ _ hm (by rwa [Cx.row_length _ (Cx.putGroup_shaped r k m vals hs)]) (by rwa [List.length_map, hv])]
      simp [List.getD_eq_getElem?_getD, hv, hl]
    · rw [Cx.putRow_lane_ne _ _ _ _ (by omega), ih (by omega)]

theorem vmatch_writes {s : State} {c : Cx} {d a : BitVec 7} {w : BitVec 1} (hr : Ready (.vmatch d a w) s c)
    (hs : c.shaped = true) :
    WritesWords (.vmatch d a w) s c d.toNat 3 fun k l =>
      (BitVec.ofBoolListLE ((List.range 32).map fun j => matchBit c a.toNat (w == 1) l (32 * k + j))).setWidth 32 := by
  let masks : List Mask := (List.range 96).map fun l => c.matchMask a.toNat (w == 1) l
  have he : exec (.vmatch d a w) s =
      ((c.settle (.vmatch d a w)).putGroup d.toNat 3 c.active (masks.map BitVec.toNat)).done := by
    refine (issueSplit_of_ready hr _).trans ?_
    simp only [Cx.putGroup, List.map_map, Function.comp_def, ← maskWord_eq, masks]
    rfl
  refine Does.of_done he (Cx.putGroup_keeps _ d.toNat 3 c.active _) (Cx.putGroup_shaped d.toNat 3 c.active _ hs)
    fun k l hk hl hm => ?_
  rw [Cx.putGroup_lane (c := c.settle (.vmatch d a w)) hs d.toNat 3 c.active hk hl (by simp [masks]) hm,
    List.getD_eq_getElem?_getD, List.getElem?_map, List.getElem?_map, List.getElem?_range hl]
  refine (maskWord_eq _ k).symm.trans (maskWord_eq_of_bits hk fun q hq => Cx.matchMask_getLsbD hs a.toNat (w == 1) hl hq)

/-! ### Moves and predicates as words (R134, R136) -/

theorem Cx.predOperand_getLsbD (c : Cx) (a : BitVec 3) (n : BitVec 1) {l : Nat} (hl : l < 96) :
    (c.predOperand a n).getLsbD l = ((c.pred a.toNat).getLsbD l != (n == 1)) := by
  unfold Cx.predOperand
  by_cases hn : n = 1
  · subst hn
    simp [hl]
  · rw [if_neg hn, beq_eq_false_iff_ne.mpr hn, Bool.bne_false]

theorem vmovh_word (k : BitVec 16) (x : Word) :
    (k.setWidth 32) <<< 16 ||| (x &&& 0xFFFF) = BitVec.ofNat 32 (k.toNat * 2 ^ 16 + x.toNat % 2 ^ 16) := by
  have hk := k.isLt
  have hlow : x.toNat &&& 0xFFFF = x.toNat % 2 ^ 16 := Nat.and_two_pow_sub_one_eq_mod x.toNat 16
  have hmod : x.toNat % 2 ^ 16 < 2 ^ 16 := Nat.mod_lt _ (Nat.two_pow_pos 16)
  apply BitVec.eq_of_toNat_eq
  rw [BitVec.toNat_or, BitVec.toNat_and, show (0xFFFF : Word).toNat = 0xFFFF from rfl, hlow, BitVec.toNat_shiftLeft,
    BitVec.toNat_setWidth, Nat.mod_eq_of_lt (by omega : k.toNat < 2 ^ 32), Nat.shiftLeft_eq,
    Nat.mod_eq_of_lt (by omega : k.toNat * 2 ^ 16 < 2 ^ 32), ← Nat.shiftLeft_eq, ← Nat.shiftLeft_add_eq_or_of_lt hmod,
    Nat.shiftLeft_eq, BitVec.toNat_ofNat, Nat.mod_eq_of_lt (by omega : k.toNat * 2 ^ 16 + x.toNat % 2 ^ 16 < 2 ^ 32)]

theorem vmov_writes {s : State} {c : Cx} {d a : BitVec 7} {w : BitVec 1} (hr : Ready (.vmov d a w) s c) (hs : c.shaped = true) :
    WritesWords (.vmov d a w) s c d.toNat (if w = 1 then 2 else 1) fun k l => c.lane (a.toNat + k) l := by
  rw [← regs_of_bit]
  refine WritesWords.of_putOperand (issueSplit_of_ready hr _) hs (Cx.operand_length (c := c.settle _) hs _ _)
    fun k l hk hl _ => ?_
  rw [Cx.operand_getD (c := c.settle _) hs _ _ hl]
  exact Cx.pairWord_wideLane c a.toNat l (w == 1) hk

theorem vbcs_writes {s : State} {c : Cx} {d a : BitVec 7} {w : BitVec 1} (hr : Ready (.vbcs d a w) s c) (hs : c.shaped = true) :
    WritesWords (.vbcs d a w) s c d.toNat (if w = 1 then 2 else 1) fun k _ => c.sp.scalar (a.toNat + k) := by
  rw [← regs_of_bit]
  refine WritesWords.of_putOperand (issueSplit_of_ready hr _) hs List.length_replicate fun k l hk hl _ => ?_
  rw [List.getD_replicate _ hl]
  simp only [← beq_iff_eq (a := w)]
  exact pairWord_operand c.sp.scalar a.toNat hk

theorem vmovi_writes {s : State} {c : Cx} {d : BitVec 7} {k : BitVec 17} (hr : Ready (.vmovi d k) s c) (hs : c.shaped = true) :
    WritesWords (.vmovi d k) s c d.toNat 1 fun _ _ => BitVec.ofInt 32 k.toInt :=
  WritesWords.of_putRow (issueSplit_of_ready hr _) hs List.length_replicate fun _ hl => List.getD_replicate _ hl

theorem vmovh_writes {s : State} {c : Cx} {d : BitVec 7} {k : BitVec 16} (hr : Ready (.vmovh d k) s c) (hs : c.shaped = true) :
    WritesWords (.vmovh d k) s c d.toNat 1 fun _ l =>
      BitVec.ofNat 32 (k.toNat * 2 ^ 16 + (c.lane d.toNat l).toNat % 2 ^ 16) := by
  refine WritesWords.of_putRow (issueSplit_of_ready hr _) hs
    (by rw [List.length_map, (c.settle (.vmovh d k)).row_length hs]) fun l hl => ?_
  rw [List.getD_eq_getElem?_getD, List.getElem?_map, Cx.row_getElem? (c := c.settle (.vmovh d k)) hs d.toNat hl]
  exact vmovh_word k _

theorem vlid_writes {s : State} {c : Cx} {d : BitVec 7} {w : BitVec 1} (hr : Ready (.vlid d w) s c) (hs : c.shaped = true) :
    WritesWords (.vlid d w) s c d.toNat 1 fun _ l => BitVec.ofNat 32 (if w = 1 then laneInGroup c l else laneIndex c l) :=
  WritesWords.of_putRow (issueSplit_of_ready hr _) hs (by simp) fun _ hl => getD_map_range _ hl

theorem pmovP2v_writes {s : State} {c : Cx} {d : BitVec 7} {a : BitVec 3} {n : BitVec 1} (hr : Ready (.pmovP2v d a n) s c)
    (hs : c.shaped = true) :
    WritesWords (.pmovP2v d a n) s c d.toNat 1 fun _ l => if (c.pred a.toNat).getLsbD l != (n == 1) then 1 else 0 := by
  refine WritesWords.of_putRow (issueSplit_of_ready hr _) hs (by simp [rowOfMask]) fun l hl => ?_
  rw [rowOfMask, getD_map_range _ hl, Cx.predOperand_getLsbD _ _ _ hl]
  rfl

end Sys2Proof.Machine

namespace Sys2Proof.Machine

open Sys2Proof.Claims

/-- The whole-word instructions leave their words in the active lanes. -/
theorem writesWords_of_laneResult {i : Instr} {s : State} {c : Cx} {d n : Nat} {f : Nat → Nat → Word}
    (h : laneResult i c = some (d, n, f)) (hs : c.shaped = true) (hr : Ready i s c) : WritesWords i s c d n f := by
  cases i with
  | vand D A B => cases h; exact WritesWords.of_vecWord (g := fun x y _ => x &&& y) rfl hr hs
  | vor D A B => cases h; exact WritesWords.of_vecWord (g := fun x y _ => x ||| y) rfl hr hs
  | vxor D A B => cases h; exact WritesWords.of_vecWord (g := fun x y _ => x ^^^ y) rfl hr hs
  | vnot D A => cases h; exact WritesWords.of_vecWord (g := fun x _ _ => ~~~x) rfl hr hs
  | vbfe D A B g => cases h; simpa only [bfe_eq] using WritesWords.of_vecWord (g := fun x y _ => bfe x y (g == 1)) rfl hr hs
  | vbfi D A B => cases h; simpa only [bfi_eq] using WritesWords.of_vecWord (g := fun x y z => bfi z x y) rfl hr hs
  | vandi D A k => cases h; exact WritesWords.of_vecWord (g := fun x _ _ => x &&& k.signExtend 32) rfl hr hs
  | vori D A k => cases h; exact WritesWords.of_vecWord (g := fun x _ _ => x ||| k.signExtend 32) rfl hr hs
  | vxori D A k => cases h; exact WritesWords.of_vecWord (g := fun x _ _ => x ^^^ k.signExtend 32) rfl hr hs
  | pmovP2v D A g => cases h; exact pmovP2v_writes hr hs
  | vmov D A w => cases h; exact vmov_writes hr hs
  | vmovi D k => cases h; exact vmovi_writes hr hs
  | vmovh D k => cases h; exact vmovh_writes hr hs
  | vbcs D A w => cases h; exact vbcs_writes hr hs
  | vlid D w => cases h; exact vlid_writes hr hs
  | vshfl D A B w => cases h; exact WritesWords.of_shuffle rfl hr hs
  | vshfu D A B w u => cases h; exact WritesWords.of_shuffle rfl hr hs
  | vshfd D A B w u => cases h; exact WritesWords.of_shuffle rfl hr hs
  | vshfx D A B w u => cases h; exact WritesWords.of_shuffle rfl hr hs
  | vmatch D A w => cases h; exact vmatch_writes hr hs
  | _ => cases h

theorem laneResultsAlone : Claims.LaneResultsAlone := fun _ _ _ _ _ _ h _ hs hr => writesWords_of_laneResult h hs hr

/-! ### Writes of predicates (R91, R132, R134) -/

theorem Cx.shaped_preds {c : Cx} (h : c.shaped = true) : c.w.preds.length = 8 := (c.shaped_iff.mp h).2.1

theorem merge_getLsbD (p v m : Mask) {l : Nat} (hl : l < 96) :
    ((p &&& ~~~m) ||| (v &&& m)).getLsbD l = if m.getLsbD l then v.getLsbD l else p.getLsbD l := by
  simp only [BitVec.getLsbD_or, BitVec.getLsbD_and, BitVec.getLsbD_not, hl, decide_true, Bool.true_and]
  cases m.getLsbD l <;> simp

theorem Cx.putPred_shaped {c : Cx} (n : Nat) (m v : Mask) (h : c.shaped = true) : (c.putPred n m v).shaped = true := by
  obtain ⟨hs, hp, hj, hv, ht⟩ := c.shaped_iff.mp h
  unfold Cx.putPred
  split
  · exact h
  · exact (Cx.shaped_iff _).mpr ⟨hs, by rwa [updAt, List.length_modify], hj, hv, ht⟩

/-- A predicate write changes that predicate in the lanes of the mask. -/
theorem Cx.putPred_keeps {c : Cx} {n : Nat} (hn : n < c.w.preds.length) (m v : Mask) :
    Keeps { Writes.none with preds := [n], lanes := m } c (c.putPred n m v) := by
  have hpred : ∀ q l, l < 96 → ¬(q ∈ [n] ∧ m.getLsbD l = true) →
      ((c.putPred n m v).pred q).getLsbD l = (c.pred q).getLsbD l := by
    intro q l hl hq
    rw [c.putPred_pred n q m v hn]
    split
    · next h =>
      obtain ⟨rfl, -⟩ := h
      have hm : ¬m.getLsbD l = true := fun hm => hq ⟨List.mem_singleton_self _, hm⟩
      rw [merge_getLsbD _ _ _ hl, if_neg hm]
    · rfl
  unfold Cx.putPred at hpred ⊢
  by_cases h0 : n = 0
  · rw [if_pos h0]
    exact (Keeps.refl c).mono {}
  · simp only [if_neg h0] at hpred ⊢
    exact ⟨rfl, rfl, rfl, rfl, rfl, fun _ _ _ => rfl, fun _ _ _ _ => rfl, hpred, rfl, rfl, fun _ => rfl⟩

/-- A written predicate's bit, in the lanes of the mask. -/
theorem Cx.putPred_getLsbD {c : Cx} {n : Nat} (hn : n < c.w.preds.length) {m : Mask} (v : Mask) {l : Nat} (hl : l < 96)
    (hm : m.getLsbD l = true) : ((c.putPred n m v).pred n).getLsbD l = if n = 0 then true else v.getLsbD l := by
  rw [c.putPred_pred n n m v hn]
  by_cases h0 : n = 0
  · rw [if_neg fun h => h.2 h0, if_pos h0, Cx.pred, if_pos h0, allLanes, BitVec.getLsbD_allOnes, decide_eq_true hl]
  · rw [if_pos ⟨rfl, h0⟩, if_neg h0, merge_getLsbD _ _ _ hl, if_pos hm]

/-- An instruction that ends with a predicate written in the active lanes, and status where it earns any. -/
theorem Does.of_putPred {i : Instr} {s : State} {c : Cx} {d : BitVec 3} {v : Mask} {flags : Flags} {status : Bool}
    {f : Nat → Bool} (he : exec i s = (((c.settle i).putPred d.toNat c.active v).setStatus flags).done) (hs : c.shaped = true)
    (hflags : status = false → flags = noFlags) (hf : ∀ l, l < 96 → c.active.getLsbD l = true → v.getLsbD l = f l) :
    Does i s c (writesPred d.toNat c.active status) fun e =>
      ∀ l, l < 96 → c.active.getLsbD l = true → (e.pred d.toNat).getLsbD l = if d = 0 then true else f l := by
  have hn : d.toNat < (c.settle i).w.preds.length := by
    rw [Cx.shaped_preds (c := c.settle i) hs]
    exact d.isLt
  refine Does.of_done he ?_ (Cx.putPred_shaped d.toNat c.active v hs) fun l hl hm => ?_
  · have hp := Cx.putPred_keeps hn c.active v
    cases status with
    | true =>
      exact (hp.mono (b := writesPred d.toNat c.active true) { preds := fun _ h => h, lanes := fun _ h => h }).trans
        ((Cx.setStatus_keeps _ flags).mono { status := fun _ => rfl })
    | false =>
      rw [hflags rfl, Cx.setStatus_noFlags]
      exact hp
  · have h0 : d = 0 ↔ d.toNat = 0 := BitVec.toNat_inj.symm
    rw [← hf l hl hm]
    simp only [h0]
    exact Cx.putPred_getLsbD hn v hl hm

/-- One that earns no status. -/
theorem Does.of_putPred_done {i : Instr} {s : State} {c : Cx} {d : BitVec 3} {v : Mask} {f : Nat → Bool}
    (he : exec i s = ((c.settle i).putPred d.toNat c.active v).done) (hs : c.shaped = true)
    (hf : ∀ l, l < 96 → c.active.getLsbD l = true → v.getLsbD l = f l) :
    Does i s c (writesPred d.toNat c.active false) fun e =>
      ∀ l, l < 96 → c.active.getLsbD l = true → (e.pred d.toNat).getLsbD l = if d = 0 then true else f l :=
  Does.of_putPred (by rw [he, Cx.setStatus_noFlags]) hs (fun _ => rfl) hf

/-- A predicate instruction is `putPred` of a mask with its result's bits. -/
theorem exec_of_predResult {i : Instr} {s : State} {c : Cx} {d : Nat} {f : Nat → Bool} (h : predResult i c = some (d, f))
    (hr : Ready i s c) : ∃ (D : BitVec 3) (v : Mask), D.toNat = d ∧ exec i s = ((c.settle i).putPred D.toNat c.active v).done ∧
      ∀ l, l < 96 → c.active.getLsbD l = true → v.getLsbD l = f l := by
  have bit (a : BitVec 3) (n : BitVec 1) {l : Nat} (hl : l < 96) :
      ((c.settle i).predOperand a n).getLsbD l = ((c.pred a.toNat).getLsbD l != (n == 1)) := Cx.predOperand_getLsbD _ a n hl
  cases i with
  | pand D A B m n =>
    cases h
    exact ⟨D, _, rfl, issueSplit_of_ready hr _, fun l hl _ => by rw [BitVec.getLsbD_and, bit A n hl, bit B m hl]⟩
  | por D A B m n =>
    cases h
    exact ⟨D, _, rfl, issueSplit_of_ready hr _, fun l hl _ => by rw [BitVec.getLsbD_or, bit A n hl, bit B m hl]⟩
  | pxor D A B m n =>
    cases h
    exact ⟨D, _, rfl, issueSplit_of_ready hr _, fun l hl _ => by
      rw [BitVec.getLsbD_xor, bit A n hl, bit B m hl, ← Bool.bne_eq_xor]⟩
  | pmov D A n =>
    cases h
    exact ⟨D, _, rfl, issueSplit_of_ready hr _, fun l hl _ => bit A n hl⟩
  | pmovV2p D A n =>
    cases h
    refine ⟨D, _, rfl, issueSplit_of_ready hr _, fun l hl hm => ?_⟩
    rw [maskWhere_getLsbD _ _ hl, show (c.settle (.pmovV2p D A n)).active.getLsbD l = true from hm]
    rfl
  | _ => cases h

theorem predicateResults : Claims.PredicateResults := by
  intro i s c d f h hs hr
  obtain ⟨D, v, rfl, he, hv⟩ := exec_of_predResult h hr
  have h0 : D = 0 ↔ D.toNat = 0 := BitVec.toNat_inj.symm
  simp only [← h0]
  exact Does.of_putPred_done he hs hv

/-- Settles O5: each instruction writes the words of its lanes, or the bits of its predicate, in the active lanes. -/
theorem laneResults : Obligations.LaneResults := ⟨laneResultsAlone, predicateResults⟩

end Sys2Proof.Machine

namespace Sys2Proof.Machine

open Sys2Proof.Claims

/-! ### Lanes against scalars (R120), and selection (R135) -/

theorem Does.imp {i : Instr} {s : State} {c : Cx} {ws : Writes} {p q : Cx → Prop} (h : Does i s c ws p) (hpq : ∀ e, p e → q e) :
    Does i s c ws q := by
  obtain ⟨e, he, hk, hs, hp⟩ := h
  exact ⟨e, he, hk, hs, hpq e hp⟩

/-- The words of one lane, as registers 1 to 3. -/
def laneRegisters (c : Cx) (d a b : BitVec 7) (l : Nat) (r : Nat) : Word :=
  if r = 1 then c.lane a.toNat l else if r = 2 then c.lane b.toNat l else c.lane d.toNat l

theorem does_of_laneLogic {i j : Instr} {s : State} {c : Cx} {d a b : BitVec 7} {f : Nat → Word}
    (hi : laneResult i c = some (d.toNat, 1, fun _ l => f l)) (hj : ∀ l, scalarResult j (laneRegisters c d a b l) = some (3, f l))
    (hs : c.shaped = true) (hr : Ready i s c) :
    Does i s c (writesVectors [d.toNat] c.active) fun e => ∀ l, l < 96 → c.active.getLsbD l = true →
      scalarResult j (laneRegisters c d a b l) = some (3, e.lane d.toNat l) :=
  (writesWords_of_laneResult hi hs hr).imp fun _ h l hl hm =>
    (hj l).trans (congrArg (fun v => some (3, v)) (h 0 l Nat.one_pos hl hm).symm)

theorem xor_signExtend_ones (x : Word) : x ^^^ BitVec.ofInt 32 (0x3FF#10).toInt = ~~~x := by
  rw [show BitVec.ofInt 32 (0x3FF#10).toInt = BitVec.allOnes 32 from by decide, BitVec.xor_allOnes]

/-- Settles O6: lane by lane the six are the scalar operations, none of which looks at TYPE. -/
theorem laneLogic : Obligations.LaneLogic := by
  intro s c d a b g k
  match k with
  | 0 => exact does_of_laneLogic (i := .vand d a b) (j := .sand 3 1 2) rfl fun _ => rfl
  | 1 => exact does_of_laneLogic (i := .vor d a b) (j := .sor 3 1 2) rfl fun _ => rfl
  | 2 => exact does_of_laneLogic (i := .vxor d a b) (j := .sxor 3 1 2) rfl fun _ => rfl
  | 3 => exact does_of_laneLogic (i := .vnot d a) (j := .sxori 3 1 0x3FF) (b := b) rfl fun _ =>
      congrArg (fun v => some (3, v)) (xor_signExtend_ones _)
  | 4 => exact does_of_laneLogic (i := .vbfe d a b g) (j := .sbfe 3 1 2 g) rfl fun _ => rfl
  | 5 => exact does_of_laneLogic (i := .vbfi d a b) (j := .sbfi 3 1 2) rfl fun _ => rfl

theorem mergeRow_getD {m : Mask} {old new : Row} {l : Nat} (ho : l < old.length) (hn : l < new.length) :
    (mergeRow m old new).getD l 0 = if m.getLsbD l then new.getD l 0 else old.getD l 0 := by
  split
  · next h => exact mergeFrom_getD_in m 0 old new l (by rwa [Nat.zero_add]) ho hn
  · next h => exact mergeFrom_getD m 0 old new l (by rwa [Nat.zero_add])

theorem vsel_writes {s : State} {c : Cx} {d a b : BitVec 7} {x : BitVec 3} (hr : Ready (.vsel d a b x) s c) (hs : c.shaped = true) :
    WritesWords (.vsel d a b x) s c d.toNat 1 fun _ l =>
      if (c.pred x.toNat).getLsbD l then c.lane a.toNat l else c.lane b.toNat l := by
  have hrow (r : BitVec 7) := (c.settle (.vsel d a b x)).row_length hs r.toNat
  refine WritesWords.of_putRow (issueSplit_of_ready hr _) hs ((mergeFrom_length _ _ _ _).trans (hrow b)) fun l hl => ?_
  exact mergeRow_getD (by rwa [hrow]) (by rwa [hrow])

/-- Settles O7: the word is the encoding of `vsel`, which merges its two operands by the predicate. -/
theorem select : Obligations.Select := by
  intro d a b x hw
  refine ⟨Laws.roundTrip _ _ rfl hw, fun s c hs hr => ?_⟩
  exact (vsel_writes hr hs).imp fun e h l hl hm => h 0 l Nat.one_pos hl hm

/-! ### Compares of elements (R132, R133) -/

theorem condOf_int (x : BitVec 3) (a b : Int) : condOf x.toNat (decide (a < b)) (decide (a = b)) false = intCompares x a b := by
  unfold condOf intCompares
  generalize x.toNat = n
  match n with
  | 0 => rfl
  | 1 => rfl
  | 2 => rfl
  | 3 => simp [Int.le_iff_lt_or_eq]
  | 4 =>
    rw [Bool.eq_iff_iff]
    simp
    omega
  | 5 =>
    rw [Bool.eq_iff_iff]
    simp
  | 6 => rfl
  | n + 7 => rfl

theorem cmpElem_int {t : ElemType} (h : classOfType t = .int) (ftz : Bool) (x : BitVec 3) (a b : Nat) :
    cmpElem t ftz x.toNat a b =
      (intCompares x (intOf (elemBits t) (elemSigned t) a) (intOf (elemBits t) (elemSigned t) b), noFlags) := by
  rw [cmpElem, if_pos h]
  exact congrArg (fun r => (r, noFlags)) (condOf_int x _ _)

/-- The comparisons of the elements of a lane. -/
def Cx.laneCompares (c : Cx) (t : ElemType) (x : BitVec 3) (a b l : Nat) : List (Bool × Flags) :=
  (List.range (elemCount t)).map fun k =>
    cmpElem t (modeFtz c.sp.mode) x.toNat (elemAt (elemBits t) k ((c.operand a (isWide64 c.type)).getD l 0).toNat)
      (elemAt (elemBits t) k ((c.operand b (isWide64 c.type)).getD l 0).toNat)

theorem exec_vcmp {s : State} {c : Cx} {d : BitVec 3} {a b : BitVec 7} {x : BitVec 3} {t : ElemType}
    (ht : elemTypeOf c.type = some t) (hr : Ready (.vcmp d a b x) s c) :
    exec (.vcmp d a b x) s = (((c.settle (.vcmp d a b x)).putPred d.toNat c.active
      (maskWhere c.active fun l => (c.laneCompares t x a.toNat b.toNat l).all fun r => r.1)).setStatus
        (allFlags ((lanesOf c.active).flatMap fun l => (c.laneCompares t x a.toNat b.toNat l).map fun r => r.2))).done := by
  have ht' : elemTypeOf (c.settle (.vcmp d a b x)).type = some t := ht
  refine (issueSplit_of_ready hr _).trans ?_
  rw [ht']
  rfl

theorem exec_vcmpi {s : State} {c : Cx} {d : BitVec 3} {a k : BitVec 7} {x : BitVec 3} {t : ElemType}
    (ht : elemTypeOf c.type = some t) (hr : Ready (.vcmpi d a k x) s c) :
    exec (.vcmpi d a k x) s = ((c.settle (.vcmpi d a k x)).putPred d.toNat c.active
      (maskWhere c.active fun l => (List.range (elemCount t)).all fun j =>
        let v := intOf (elemBits t) (elemSigned t) (elemAt (elemBits t) j ((c.operand a.toNat (isWide64 c.type)).getD l 0).toNat)
        condOf x.toNat (decide (v < k.toInt)) (decide (v = k.toInt)) false)).done := by
  have ht' : elemTypeOf (c.settle (.vcmpi d a k x)).type = some t := ht
  refine (issueSplit_of_ready hr _).trans ?_
  rw [ht']
  rfl

/-- The bit that `vcmp` gives an active lane. -/
theorem Cx.laneCompares_getLsbD {c : Cx} (hs : c.shaped = true) (t : ElemType) (x : BitVec 3) (a b : Nat) {l : Nat} (hl : l < 96)
    (hm : c.active.getLsbD l = true) :
    (maskWhere c.active fun l => (c.laneCompares t x a b l).all fun r => r.1).getLsbD l =
      (List.range (elemCount t)).all fun k => (cmpElem t (modeFtz c.sp.mode) x.toNat (c.elem t a l k) (c.elem t b l k)).1 := by
  rw [maskWhere_getLsbD _ _ hl, hm, Bool.true_and, Cx.laneCompares, List.all_map, Cx.operand_getD hs _ _ hl,
    Cx.operand_getD hs _ _ hl]
  rfl

theorem Cx.laneCompares_noFlags {c : Cx} {t : ElemType} (h : classOfType t = .int) (x : BitVec 3) (a b : Nat) (m : Mask) :
    allFlags ((lanesOf m).flatMap fun l => (c.laneCompares t x a b l).map fun r => r.2) = noFlags := by
  refine allFlags_eq_noFlags fun f hf => ?_
  obtain ⟨l, -, hf⟩ := List.mem_flatMap.mp hf
  obtain ⟨r, hr, rfl⟩ := List.mem_map.mp hf
  obtain ⟨k, -, rfl⟩ := List.mem_map.mp hr
  rw [cmpElem_int h]

theorem integerCompares : Claims.IntegerCompares := by
  intro s c d a b k x t imm i ht hclass hs hr
  cases imm with
  | false =>
    refine Does.of_putPred (exec_vcmp ht hr) hs (fun _ => Cx.laneCompares_noFlags hclass x _ _ _) fun l hl hm => ?_
    rw [Cx.laneCompares_getLsbD hs t x _ _ hl hm]
    simp only [cmpElem_int hclass]
    rfl
  | true =>
    refine Does.of_putPred_done (exec_vcmpi ht hr) hs fun l hl hm => ?_
    rw [maskWhere_getLsbD _ _ hl, hm, Bool.true_and, Cx.operand_getD hs _ _ hl]
    simp only [condOf_int]
    rfl

theorem floatCompares : Claims.FloatCompares := by
  intro s c d a b x t ht _ hs hr
  have hbit (l : Nat) (hl : l < 96) (hm : c.active.getLsbD l = true) :=
    Cx.laneCompares_getLsbD hs t x a.toNat b.toNat hl hm
  refine (Does.of_putPred (exec_vcmp ht hr) (status := true) hs (by simp) hbit).imp fun e h l hl hm hd => ?_
  rw [h l hl hm, if_neg hd]
  simp

/-- Settles O11: a lane's bit is the conjunction of its elements' comparisons. -/
theorem vectorCompares : Obligations.VectorCompares := ⟨integerCompares, floatCompares⟩

end Sys2Proof.Machine

namespace Sys2Proof.Machine

open Sys2Proof.Claims

/-! ### One lane (R137, R346, R347) -/

/-- The lane that `vget` reads, 96 for none. -/
def getLane (shadow : Bool) (n : Nat) : Nat := if shadow = true ∧ 48 ≤ n then 96 else n

/-- The copies of a lane of a shadow launch differ under `vget`. -/
def Cx.copiesDiffer (c : Cx) (a n : Nat) : Bool :=
  isShadow c.s c.w && decide (n < 48) &&
    (c.active.getLsbD n != c.active.getLsbD (n + 48) || (c.active.getLsbD n && c.lane a n != c.lane a (n + 48)))

theorem exec_vget {s : State} {c : Cx} {d a b : BitVec 7} (hr : Ready (.vget d a b) s c) :
    exec (.vget d a b) s =
      let lane := getLane (isShadow c.s c.w) (c.sp.scalar b.toNat).toNat
      if c.copiesDiffer a.toNat lane then (c.settle (.vget d a b)).trapAt 0x10
      else (c.settle (.vget d a b)).scalarDone ((c.settle (.vget d a b)).putScalar d.toNat
        (if lane < 96 ∧ c.active.getLsbD lane then c.lane a.toNat lane else 0)) :=
  issueSplit_of_ready hr _

theorem copiesDiffer_eq_false {c : Cx} {a n : Nat}
    (h : isShadow c.s c.w = true → n < 48 → c.active.getLsbD n = c.active.getLsbD (n + 48) ∧
      (c.active.getLsbD n = true → c.lane a n = c.lane a (n + 48))) :
    c.copiesDiffer a (getLane (isShadow c.s c.w) n) = false := by
  unfold Cx.copiesDiffer getLane
  by_cases hsh : isShadow c.s c.w = true
  · by_cases hn : 48 ≤ n
    · simp [hsh, hn]
    · obtain ⟨ha, hl⟩ := h hsh (by omega)
      rw [if_neg fun h => hn h.2, ← ha]
      cases hm : c.active.getLsbD n with
      | false => simp
      | true => simp [hl hm]
  · simp [hsh]

theorem getLane_value {c : Cx} {a n : Nat} {v : Word}
    (hv : v = if n < (if isShadow c.s c.w then 48 else 96) ∧ c.active.getLsbD n = true then c.lane a n else 0) :
    (if getLane (isShadow c.s c.w) n < 96 ∧ c.active.getLsbD (getLane (isShadow c.s c.w) n) then
      c.lane a (getLane (isShadow c.s c.w) n) else 0) = v := by
  rw [hv]
  unfold getLane
  by_cases hsh : isShadow c.s c.w = true
  · by_cases hn : 48 ≤ n
    · simp [hsh, hn, Nat.not_lt.mpr hn]
    · have h48 : n < 48 := by omega
      have h96 : n < 96 := by omega
      simp [hsh, hn, h48, h96]
  · simp [hsh]

theorem vget_does {s : State} {c : Cx} {d a b : BitVec 7} {v : Word} (hs : c.shaped = true) (hw : wellFormed (.vget d a b) = true)
    (hr : Ready (.vget d a b) s c)
    (hv : v = if (c.sp.scalar b.toNat).toNat < (if isShadow c.s c.w then 48 else 96) ∧
      c.active.getLsbD (c.sp.scalar b.toNat).toNat = true then c.lane a.toNat (c.sp.scalar b.toNat).toNat else 0)
    (hcopy : c.copiesDiffer a.toNat (getLane (isShadow c.s c.w) (c.sp.scalar b.toNat).toNat) = false)
    (hp : c.maskPasses (c.sp.setScalar d.toNat v false).act = true) :
    Does (.vget d a b) s c (writesScalars [d.toNat]) fun e => e.sp.scalar d.toNat = scalarAfter c d.toNat v := by
  have he := exec_vget hr
  dsimp only at he
  rw [hcopy, if_neg Bool.false_ne_true, getLane_value hv] at he
  simp only [wellFormed, Bool.and_eq_true] at hw
  exact Does.of_putScalar he (isScalar_lt hw.1) hs hp

theorem oneLane_getLsbD {n : Nat} (h : n < 96) (l : Nat) : (1#96 <<< n).getLsbD l = decide (l = n) := by
  rw [BitVec.getLsbD_shiftLeft, BitVec.getLsbD_one]
  by_cases hl : l = n
  · simp [hl, h]
  · simp [hl]
    omega

/-- The lanes that `vput` writes. -/
def putLanes (shadow : Bool) (n : Nat) : Mask :=
  if shadow then (if n < 48 then (1#96 <<< n) ||| (1#96 <<< (n + 48)) else 0) else if n < 96 then 1#96 <<< n else 0

theorem putLanes_getLsbD (shadow : Bool) (n : Nat) {l : Nat} (hl : l < 96) :
    (putLanes shadow n).getLsbD l = decide (if shadow then l % 48 = n else l = n) := by
  unfold putLanes
  cases shadow with
  | true =>
    by_cases hn : n < 48
    · have hcopy : l = n ∨ l = n + 48 ↔ l % 48 = n := by omega
      simp [hn, oneLane_getLsbD (show n < 96 by omega), oneLane_getLsbD (show n + 48 < 96 by omega), ← hcopy]
    · have : l % 48 ≠ n := by omega
      simp [hn, this]
  | false =>
    by_cases hn : n < 96
    · simp [hn, oneLane_getLsbD hn]
    · have : l ≠ n := by omega
      simp [hn, this]

theorem Cx.putRow_lane_self {c : Cx} (hs : c.shaped = true) (r : Nat) (m : Mask) {new : Row} {l : Nat} (hl : l < 96)
    (hn : new.length = 96) : (c.putRow r m new).lane r l = if m.getLsbD l then new.getD l 0 else c.lane r l := by
  rw [Cx.lane, c.putRow_row, if_pos rfl, mergeRow_getD (by rwa [c.row_length hs]) (by rwa [hn])]
  rfl

theorem vput_does {s : State} {c : Cx} {d a b : BitVec 7} (hs : c.shaped = true) (hr : Ready (.vput d a b) s c) :
    Does (.vput d a b) s c (writesVectors [d.toNat] c.active) fun e => ∀ l, l < 96 → c.active.getLsbD l = true →
      e.lane d.toNat l = if (if isShadow c.s c.w then l % 48 = (c.sp.scalar b.toNat).toNat else l = (c.sp.scalar b.toNat).toNat)
        then c.sp.scalar a.toNat else c.lane d.toNat l := by
  let m : Mask := c.active &&& putLanes (isShadow c.s c.w) (c.sp.scalar b.toNat).toNat
  have he : exec (.vput d a b) s =
      ((c.settle (.vput d a b)).putRow d.toNat m (List.replicate 96 (c.sp.scalar a.toNat))).done := issueSplit_of_ready hr _
  have hin (l : Nat) (h : m.getLsbD l = true) : c.active.getLsbD l = true := by
    rw [BitVec.getLsbD_and, Bool.and_eq_true] at h
    exact h.1
  refine Does.of_done he ((Cx.putRow_keeps _ d.toNat m _).mono { vectors := fun _ h => h, lanes := hin })
    (Cx.putRow_shaped d.toNat m _ hs) fun l hl hm => ?_
  rw [Cx.putRow_lane_self (c := c.settle (.vput d a b)) hs d.toNat m hl List.length_replicate, BitVec.getLsbD_and, hm,
    putLanes_getLsbD _ _ hl, List.getD_replicate _ hl]
  simp only [Bool.true_and, decide_eq_true_eq]
  rfl

theorem vectorGetPut : Claims.VectorGetPut := by
  intro s c d a b v hs n size
  exact ⟨fun hw hr hv hcopy hp => vget_does hs hw hr hv (copiesDiffer_eq_false hcopy) hp, fun _ hr => vput_does hs hr⟩

/-! ### Votes (R139, R346 to R348) -/

theorem half_zero (m : Mask) : half m 0 = lowHalf m := rfl

theorem half_one (m : Mask) : half m 1 = highHalf m := by
  have hones : (0xFFFFFFFFFFFF#96) = BitVec.ofNat 96 (2 ^ 48 - 1) := rfl
  apply BitVec.eq_of_getLsbD_eq
  intro l hl
  rw [half, highHalf_getLsbD, hones, BitVec.getLsbD_and, BitVec.getLsbD_ushiftRight, BitVec.getLsbD_ofNat,
    Nat.testBit_two_pow_sub_one]
  by_cases h : l < 48
  · simp [hl, h]
  · rw [BitVec.getLsbD_of_ge _ _ (by omega), Bool.false_and]

theorem and_eq_left_iff_forall {w : Nat} (a b : BitVec w) : a &&& b = a ↔ ∀ i, a.getLsbD i = true → b.getLsbD i = true := by
  constructor
  · intro h i ha
    rw [← h, BitVec.getLsbD_and, Bool.and_eq_true] at ha
    exact ha.2
  · intro h
    apply BitVec.eq_of_getLsbD_eq
    intro i _
    rw [BitVec.getLsbD_and]
    cases ha : a.getLsbD i with
    | false => rfl
    | true => exact h i ha

theorem forall_lane_iff {p : Nat → Bool} {m : Mask} : (∀ i, m.getLsbD i = true → p i = true) ↔
    ((List.range 96).all fun l => !m.getLsbD l || p l) = true := by
  rw [List.all_eq_true]
  constructor
  · intro h l _
    cases hm : m.getLsbD l with
    | false => rfl
    | true => exact h l hm
  · intro h i hm
    have hi : i < 96 := BitVec.lt_of_getLsbD hm
    simpa [hm] using h i (List.mem_range.mpr hi)

theorem popMask_and (m v : Mask) : popMask (m &&& v) = (List.range 96).countP fun l => m.getLsbD l && v.getLsbD l := by
  simp only [popMask_eq_countP, BitVec.getLsbD_and]

theorem voteValue_eq (x : BitVec 3) (m v : Mask) : voteValue x m v = voteOf x m v := by
  have hall : m &&& v = m ↔ ((List.range 96).all fun l => !m.getLsbD l || v.getLsbD l) = true :=
    (and_eq_left_iff_forall m v).trans forall_lane_iff
  have hnone : m &&& v = 0 ↔ ¬((List.range 96).any fun l => m.getLsbD l && v.getLsbD l) = true := by
    have hnot : (∀ i, m.getLsbD i = true → v.getLsbD i = false) ↔
        ((List.range 96).all fun l => !m.getLsbD l || !v.getLsbD l) = true := by
      simpa only [Bool.not_eq_true'] using forall_lane_iff (p := fun l => !v.getLsbD l) (m := m)
    refine ((and_eq_zero_iff_forall m v).trans hnot).trans ?_
    simp only [List.any_eq_not_all_not, Bool.not_and, Bool.not_eq_true', Bool.not_eq_false]
  unfold voteValue voteOf
  dsimp only
  rw [popMask_and]
  generalize x.toNat = n
  match n with
  | 0 =>
    show (if m &&& v = 0 then (0 : Word) else 1) = _
    simp only [hnone, ite_not]
  | 1 => simp only [hall]
  | 2 => simp only [hall, hnone]
  | n + 3 => rfl

theorem exec_vote_of_ne {s : State} {c : Cx} {d : BitVec 7} {n : BitVec 1} {a x : BitVec 3} (hx : x ≠ 4)
    (hr : Ready (.vote d n a x) s c) :
    exec (.vote d n a x) s =
      let p := c.predOperand a n
      let r := if isShadow c.s c.w then voteValue x (lowHalf c.active) (lowHalf p) else voteValue x c.active p
      if isShadow c.s c.w && r != voteValue x (highHalf c.active) (highHalf p) then (c.settle (.vote d n a x)).trapAt 0x10
      else (c.settle (.vote d n a x)).scalarDone ((c.settle (.vote d n a x)).putScalar d.toNat r) :=
  (issueSplit_of_ready hr _).trans (if_neg hx)

/-- A vote, in a shadow launch one that both halves give. -/
theorem exec_vote_of_value {s : State} {c : Cx} {d : BitVec 7} {n : BitVec 1} {a x : BitVec 3} {v : Word} (hx : x ≠ 4)
    (hr : Ready (.vote d n a x) s c)
    (hv : if isShadow c.s c.w then v = voteOf x (half c.active 0) (half (c.predOperand a n) 0) ∧
        v = voteOf x (half c.active 1) (half (c.predOperand a n) 1)
      else v = voteOf x c.active (c.predOperand a n)) :
    exec (.vote d n a x) s = (c.settle (.vote d n a x)).scalarDone ((c.settle (.vote d n a x)).putScalar d.toNat v) := by
  rw [exec_vote_of_ne hx hr]
  simp only [half_zero, half_one, ← voteValue_eq] at hv
  cases hsh : isShadow c.s c.w with
  | true =>
    rw [hsh, if_pos rfl] at hv
    obtain ⟨hlow, hhigh⟩ := hv
    simp [← hlow, ← hhigh]
  | false =>
    rw [hsh, if_neg Bool.false_ne_true] at hv
    simp [← hv]

/-- The three words of a ballot written. -/
def Cx.putBallot (c : Cx) (d : Nat) (b : Mask) : Cx :=
  ((c.putScalar d (maskWord b 0)).putScalar (d + 1) (maskWord b 1)).putScalar (d + 2) (maskWord b 2)

theorem exec_vote_ballot {s : State} {c : Cx} {d : BitVec 7} {n : BitVec 1} {a : BitVec 3} (hr : Ready (.vote d n a 4) s c) :
    exec (.vote d n a 4) s =
      let yes := c.active &&& c.predOperand a n
      if isShadow c.s c.w && lowHalf yes != highHalf yes then (c.settle (.vote d n a 4)).trapAt 0x10
      else (c.settle (.vote d n a 4)).scalarDone ((c.settle (.vote d n a 4)).putBallot d.toNat
        (if isShadow c.s c.w then lowHalf yes else yes)) :=
  (issueSplit_of_ready hr _).trans (if_pos rfl)

/-- A ballot, in a shadow launch one that both halves give. -/
theorem exec_vote_of_ballot {s : State} {c : Cx} {d : BitVec 7} {n : BitVec 1} {a : BitVec 3} {b : Mask}
    (hr : Ready (.vote d n a 4) s c)
    (hb : if isShadow c.s c.w then b = half (c.active &&& c.predOperand a n) 0 ∧ b = half (c.active &&& c.predOperand a n) 1
      else b = c.active &&& c.predOperand a n) :
    exec (.vote d n a 4) s = (c.settle (.vote d n a 4)).scalarDone ((c.settle (.vote d n a 4)).putBallot d.toNat b) := by
  rw [exec_vote_ballot hr]
  simp only [half_zero, half_one] at hb
  cases hsh : isShadow c.s c.w with
  | true =>
    rw [hsh, if_pos rfl] at hb
    obtain ⟨hlow, hhigh⟩ := hb
    simp [← hlow, ← hhigh]
  | false =>
    rw [hsh, if_neg Bool.false_ne_true] at hb
    simp [← hb]

/-- A write of a scalar changes the activity mask alike through the split's context and in the split. -/
theorem Cx.putScalar_mask {c : Cx} {sp : Split} (h : c.sp.act = sp.act ∧ c.sp.lanes = sp.lanes) (n : Nat) (v : Word) :
    (c.putScalar n v).sp.act = (sp.setScalar n v false).act ∧ (c.putScalar n v).sp.lanes = (sp.setScalar n v false).lanes := by
  obtain ⟨-, -, -, hl, -, -⟩ := sp.setScalar_fields n v false
  exact ⟨by rw [Cx.putScalar_act, Split.setScalar_act, h.1, h.2], by rw [Cx.putScalar_lanes, hl, h.2]⟩

/-- What a scalar holds once written, in the terms of the split before the instruction. -/
theorem Cx.putScalar_scalarAfter {c d : Cx} (hs : d.shaped = true) (h : d.sp.lanes = c.sp.lanes) {n : Nat} (hn : n < 64) (v : Word) :
    (d.putScalar n v).sp.scalar n = scalarAfter c n v := by
  rw [Cx.putScalar_scalar_self _ _ _ (by rwa [Cx.shaped_scalars hs]), scalarAfter_eq_landed c v hn]
  simp only [Split.landed, h]

theorem Does.of_putBallot {i : Instr} {s : State} {c : Cx} {d : Nat} {b : Mask}
    (he : exec i s = (c.settle i).scalarDone ((c.settle i).putBallot d b)) (hd : d + 2 < 64) (hs : c.shaped = true)
    (hp : c.maskPasses (((c.sp.setScalar d (maskWord b 0) false).setScalar (d + 1) (maskWord b 1) false).setScalar
      (d + 2) (maskWord b 2) false).act = true) :
    Does i s c (writesScalars [d, d + 1, d + 2]) fun e =>
      ∀ k, k < 3 → e.sp.scalar (d + k) = scalarAfter c (d + k) (maskWord b k) := by
  let c1 := (c.settle i).putScalar d (maskWord b 0)
  let c2 := c1.putScalar (d + 1) (maskWord b 1)
  have hs0 : (c.settle i).shaped = true := hs
  have hs1 : c1.shaped = true := by rwa [Cx.putScalar_shaped]
  have hs2 : c2.shaped = true := by rwa [Cx.putScalar_shaped]
  have hl1 : c1.sp.lanes = c.sp.lanes := Cx.putScalar_lanes _ _ _
  have hl2 : c2.sp.lanes = c.sp.lanes := (Cx.putScalar_lanes _ _ _).trans hl1
  refine Does.of_scalarDone he ?_ ((((c.settle i).putScalar_keeps d _).trans_scalars (c1.putScalar_keeps (d + 1) _)).trans_scalars
    (c2.putScalar_keeps (d + 2) _)) ?_ fun k hk => ?_
  · rwa [Cx.putBallot, (Cx.putScalar_mask (Cx.putScalar_mask (Cx.putScalar_mask (c := c.settle i) (sp := c.sp) ⟨rfl, rfl⟩ d _)
      (d + 1) _) (d + 2) _).1]
  · rwa [Cx.putBallot, Cx.putScalar_shaped]
  · have hk3 : k = 0 ∨ k = 1 ∨ k = 2 := by omega
    rcases hk3 with rfl | rfl | rfl
    · rw [Cx.putBallot, Cx.putScalar_scalar_ne _ _ _ _ (by omega), Cx.putScalar_scalar_ne _ _ _ _ (by omega)]
      exact Cx.putScalar_scalarAfter hs0 rfl (by omega) _
    · rw [Cx.putBallot, Cx.putScalar_scalar_ne _ _ _ _ (by omega)]
      exact Cx.putScalar_scalarAfter hs1 hl1 (by omega) _
    · exact Cx.putScalar_scalarAfter hs2 hl2 hd _

theorem votes : Claims.Votes := by
  intro s c d n a x i p hw hs hr
  simp only [i, wellFormed, Bool.and_eq_true, Bool.or_eq_true, bne_iff_ne, ne_eq, decide_eq_true_eq] at hw
  obtain ⟨⟨hd, -⟩, hd61⟩ := hw
  refine ⟨fun hx v hv hp => Does.of_putScalar (exec_vote_of_value hx hr hv) (isScalar_lt hd) hs hp, ?_, ?_⟩
  · rintro rfl b hb hp
    have hd2 : d.toNat + 2 < 64 := by
      have := hd61.resolve_left (not_not.mpr rfl)
      omega
    exact Does.of_putBallot (exec_vote_of_ballot hr hb) hd2 hs hp
  · rintro hsh rfl hne
    rw [half_zero, half_one] at hne
    refine (exec_vote_ballot hr).trans (if_pos ?_)
    rw [hsh, Bool.true_and]
    exact bne_iff_ne.mpr hne

/-- Settles O12: `vget`, `vput` and the votes read and write their lanes, and those of a shadow launch compare its halves. -/
theorem scalarsFromLanes : Obligations.ScalarsFromLanes := ⟨vectorGetPut, votes⟩

end Sys2Proof.Machine
